-- ==== Sys2Proof/Word.lean ====
section
/-! DEFINITION. The words of the model: bytes, and sparse tables as plain lists. -/

namespace Sys2Proof

/-- One byte. -/
abbrev Byte := BitVec 8

/-- A sparse table: pairs of index and value, indices strictly rising, no pair whose value is the default one. -/
abbrev Table (α : Type) := List (Nat × α)

end Sys2Proof
end

