-- ==== Sys2Proof/Syntax.lean ====
section
/-! DEFINITION. The commands the block takes, as plain data (spec/opcode_table.json, one constructor per row). -/

namespace Sys2Proof

/-- The four slots of a bundle (R104), in the code order of BG_SQPC.slot (R239). -/
inductive SlotKind where
  | S
  | M
  | V
  | X
deriving DecidableEq, Repr

/-- Guard of a slot operation (R105): it takes effect when p[gp] XOR gn is 1. -/
structure Guard where
  /-- guard negate -/
  gn : Bool := false
  /-- guard predicate -/
  gp : BitVec 3 := 0
deriving DecidableEq, Repr

/-- Outcome of the LDPC decode of one weight page (R249, R250). -/
structure PageRes where
  /-- re-reads with shifted thresholds; three at most -/
  rereads : Nat := 0
  /-- plane cycles that the re-reads take -/
  late : Nat := 0
  /-- corrected bits passed a quarter of the code's capability -/
  weak : Bool := false
  /-- three re-reads failed too -/
  fail : Bool := false
  /-- bits corrected -/
  bits : Nat := 0
deriving DecidableEq, Repr

/-- The paths the loader chooses in the map state (R186). -/
inductive MapPlan where
  /-- every leg takes the path of the image's tables -/
  | reference
  /-- table entries written over the image's: physical field or station, side (4 for a station), table (0 unicast, 1 tree),
  index, entry -/
  | detours (entries : List (Nat × Nat × Nat × Nat × BitVec 32))
deriving DecidableEq, Repr

/-- What the hub's reads of host memory answer for one submission (R316, R317). -/
structure HostReq where
  /-- the 64-byte entry -/
  entry : List Byte := []
  /-- parameter block or adapter image; none: the read failed after its repeat -/
  blk : Option (List Byte) := none
  /-- prompt or token list; none: the read failed after its repeat -/
  toks : Option (List Byte) := none
  /-- lines of the staging region that the reads find uncorrectable, as address / 64 (R363) -/
  bad : List Nat := []
deriving DecidableEq, Repr

/-- What the check bits find in the lines of one operation (R281). -/
structure LineRes where
  /-- lines found uncorrectable, as address / 64 -/
  bad : List Nat := []
  /-- lines corrected -/
  corr : Nat := 0
deriving DecidableEq, Repr

/-- Host memory's answer to a read of the image (R225, R229, R237). -/
inductive ImageRead where
  | bytes (d : List Byte)
  /-- the read failed after its repeat, at this byte offset -/
  | failed (off : Nat)
deriving DecidableEq, Repr

/-- The end of a slice fetch (R268). -/
structure SliceRead where
  /-- number of the try -/
  att : Nat := 0
  /-- the slice's bytes; none: source error -/
  data : Option (List Byte) := none
deriving DecidableEq, Repr

/-- What the copies of a substitution find in pages (R246, R276). -/
structure PagesRes where
  /-- places of the pages they could not read -/
  bad : List Nat := []
  /-- places of the pages that needed re-reads -/
  weak : List Nat := []
  /-- bits corrected -/
  bits : Nat := 0
deriving DecidableEq, Repr

/-- Outcome of a park or restore copy (R344, R345, R347). -/
inductive CopyRes where
  | ok
  | transport
  /-- a KV line that could not be read: physical line, its place in KV storage over 64 -/
  | kvLine (line : Nat)
deriving DecidableEq, Repr

/-- The end of a park copy (R344). -/
structure ParkCopy where
  /-- park id of the copy -/
  id : BitVec 64 := 0
  /-- its transport is the fabric -/
  fab : Bool := false
  res : CopyRes := .ok
  /-- KV lines corrected -/
  corr : Nat := 0
deriving DecidableEq, Repr

/-- The end of a restore copy (R345). -/
structure RestoreCopy where
  /-- admission number of the restore -/
  id : Nat := 0
  /-- its transport is the fabric -/
  fab : Bool := false
  res : CopyRes := .ok
  /-- the record as read, up to its tag table -/
  body : List Byte := []
  /-- the tag table -/
  tags : List Byte := []
  /-- KV lines corrected -/
  corr : Nat := 0
deriving DecidableEq, Repr

/-- The rings (R355). -/
inductive RingId where
  | sq (t : Nat)
  | oq (t : Nat)
  | eq (t : Nat)
  | owner
deriving DecidableEq, Repr

/-- The views registers are accessed through (R16, R348, R352). -/
inductive View where
  | owner
  | tenant (t : Nat)
  /-- configuration space of a function: 0 the PF, t + 1 the VF of tenant t -/
  | config (fn : Nat)
  /-- a request that uses a feature outside the table "CXL and PCIe features" -/
  | unsupported
deriving DecidableEq, Repr

/-- The run of a register read: offset and size in bytes (R16). -/
structure RegRun where
  off : Nat
  size : Nat
deriving DecidableEq, Repr

/-- Why the CXL link goes down, or may (R218, R350, R351). -/
inductive LinkLoss where
  | plain
  /-- an IDE integrity failure -/
  | ide
  /-- a flit needs n link-layer replays; beyond four the link retrains, and `trained` says whether it comes up again -/
  | replays (n : Nat) (trained : Bool)
deriving DecidableEq, Repr

/-- A frame that arrives on a fabric port (R367). -/
structure Frame where
  /-- 802.1Q tags -/
  tags : Nat := 1
  /-- VLAN of its tag -/
  vlan : Nat := 0
  /-- UDP destination port -/
  udp : Nat := 4791
  /-- marked ECN-CE -/
  ce : Bool := false
deriving DecidableEq, Repr

/-- A frame that names a queue pair. -/
structure QpFrame where
  qp : Nat
  fr : Frame := {}
deriving DecidableEq, Repr

/-- A frame at a port, or at its upper half (R366). -/
structure PortFrame where
  p : Nat
  upper : Bool := false
  fr : Frame := {}
deriving DecidableEq, Repr

/-- A queue pair's message that is not acknowledged (R367). -/
structure AckLoss where
  qp : Nat
  /-- the peer answered that its receiver is not ready -/
  rnr : Bool := false
deriving DecidableEq, Repr

/-- How a port goes down (R369). -/
structure PortLoss where
  /-- only the upper half -/
  upper : Bool := false
  /-- what each operation had acknowledged: kind, reference, MiB -/
  acked : List (Nat × Nat × Nat) := []
deriving DecidableEq, Repr

/-- What a CXL read was for (R349). -/
inductive ReadKind where
  | image
  | shard
  | snowpack
  | adapter
  | submission
deriving DecidableEq, Repr

/-- A finding of a bring-up test (R415, R419, R423-R425). -/
inductive Finding where
  /-- phase 1: the built-in test fails -/
  | selfTest
  /-- phase 1: no copy of the service record is good -/
  | noRecord
  /-- phase 3: the plane reference fails -/
  | planeRef
  /-- phase 3: the transit domain or a router of a physical field fails -/
  | router (pf : Nat)
  /-- phase 4: this many lines of a bank take spare lines; bank numbered over the plane -/
  | spareLines (bank n : Nat)
  /-- phase 4: a core's scratchpad or weight FIFO needs more spare lines than a bank has -/
  | coreSram (c : Nat)
  /-- phase 4: a cluster memory needs more spare lines than a bank has -/
  | clusterMem (pcl : Nat)
  /-- phase 4: a KV tile fails training or exhausts its spare rows -/
  | kvTile (pcl w : Nat)
  /-- phase 4: a weight port cannot read its system pages or has no spare page left -/
  | weightPort (pcl w : Nat)
  /-- phase 6: a core fails its test -/
  | core (c : Nat)
deriving DecidableEq, Repr

/-- The commands: one constructor per row of spec/opcode_table.json. -/
inductive Instr where
  /-- BUNDLE_ISSUE (R104): A core issues one 256-bit bundle and checks the encoding of every slot, raising an illegal-encoding squall on any case of R106. Operands: core c issues the bundle at its pc. -/
  | bundleIssue (c : Nat)
  /-- NOP (R105): Opcode 00h does nothing in any slot. Operands: slot nop. -/
  | nop (c : Nat) (sl : SlotKind) (gd : Guard)
  /-- ADD (R112): g[d] = g[s1] + g[s2] modulo 2^64. Operands: T format. -/
  | add (c : Nat) (gd : Guard) (d s1 s2 : BitVec 5)
  /-- SUB (R112): g[d] = g[s1] - g[s2] modulo 2^64. Operands: T format. -/
  | sub (c : Nat) (gd : Guard) (d s1 s2 : BitVec 5)
  /-- AND (R112): g[d] = g[s1] AND g[s2]. Operands: T format. -/
  | and (c : Nat) (gd : Guard) (d s1 s2 : BitVec 5)
  /-- OR (R112): g[d] = g[s1] OR g[s2]. Operands: T format. -/
  | or (c : Nat) (gd : Guard) (d s1 s2 : BitVec 5)
  /-- XOR (R112): g[d] = g[s1] XOR g[s2]. Operands: T format. -/
  | xor (c : Nat) (gd : Guard) (d s1 s2 : BitVec 5)
  /-- SHL (R112): Shifts g[s1] left by g[s2][5:0]. Operands: T format. -/
  | shl (c : Nat) (gd : Guard) (d s1 s2 : BitVec 5)
  /-- SHR (R112): Shifts g[s1] right by g[s2][5:0], filling with 0. Operands: T format. -/
  | shr (c : Nat) (gd : Guard) (d s1 s2 : BitVec 5)
  /-- SRA (R112): Shifts g[s1] right by g[s2][5:0], filling with the sign. Operands: T format. -/
  | sra (c : Nat) (gd : Guard) (d s1 s2 : BitVec 5)
  /-- MUL (R112): Writes the low 64 bits of g[s1] x g[s2], visible after 3 cycles. Operands: T format. -/
  | mul (c : Nat) (gd : Guard) (d s1 s2 : BitVec 5)
  /-- MIN (R112): Writes the signed minimum of two registers. Operands: T format. -/
  | min (c : Nat) (gd : Guard) (d s1 s2 : BitVec 5)
  /-- MAX (R112): Writes the signed maximum of two registers. Operands: T format. -/
  | max (c : Nat) (gd : Guard) (d s1 s2 : BitVec 5)
  /-- ADDI (R112): g[d] = g[s1] + sext(imm32). Operands: I format. -/
  | addi (c : Nat) (gd : Guard) (d s1 : BitVec 5) (imm : BitVec 32)
  /-- ANDI (R112): g[d] = g[s1] AND sext(imm32). Operands: I format. -/
  | andi (c : Nat) (gd : Guard) (d s1 : BitVec 5) (imm : BitVec 32)
  /-- ORI (R112): g[d] = g[s1] OR sext(imm32). Operands: I format. -/
  | ori (c : Nat) (gd : Guard) (d s1 : BitVec 5) (imm : BitVec 32)
  /-- XORI (R112): g[d] = g[s1] XOR sext(imm32). Operands: I format. -/
  | xori (c : Nat) (gd : Guard) (d s1 : BitVec 5) (imm : BitVec 32)
  /-- SHLI (R112): Shifts g[s1] left by imm32[5:0]. Operands: I format, imm32[31:6] zero. -/
  | shli (c : Nat) (gd : Guard) (d s1 : BitVec 5) (imm : BitVec 32)
  /-- SHRI (R112): Shifts g[s1] right logically by imm32[5:0]. Operands: I format, imm32[31:6] zero. -/
  | shri (c : Nat) (gd : Guard) (d s1 : BitVec 5) (imm : BitVec 32)
  /-- SRAI (R112): Shifts g[s1] right arithmetically by imm32[5:0]. Operands: I format, imm32[31:6] zero. -/
  | srai (c : Nat) (gd : Guard) (d s1 : BitVec 5) (imm : BitVec 32)
  /-- LI (R112): Loads a sign-extended 32-bit immediate into g[d]. Operands: I format, s1 zero. -/
  | li (c : Nat) (gd : Guard) (d : BitVec 5) (imm : BitVec 32)
  /-- LIH (R112): Writes imm32 into the upper half of g[d] and keeps the lower half. Operands: I format, s1 zero. -/
  | lih (c : Nat) (gd : Guard) (d : BitVec 5) (imm : BitVec 32)
  /-- CMP (R113): Sets predicate p[pd] from a signed or unsigned comparison of a register with a register or immediate. Operands: P format. -/
  | cmp (c : Nat) (gd : Guard) (pd : BitVec 3) (cond : BitVec 4) (s1 s2 : BitVec 5) (im : Bool) (imm : BitVec 32)
  /-- PLOG (R112): Combines two optionally negated predicates by and, or or xor into p[pd]. Operands: L format. -/
  | plog (c : Nat) (gd : Guard) (pd ps1 : BitVec 3) (n1 : Bool) (ps2 : BitVec 3) (n2 : Bool) (fn : BitVec 2)
  /-- AMOV (R112): Copies g[s1][47:0] into address register a[d]. Operands: T format, d an address register. -/
  | amov (c : Nat) (gd : Guard) (d s1 : BitVec 5)
  /-- GMOV (R112): Copies an address register zero-extended into g[d]. Operands: T format, s1 an address register. -/
  | gmov (c : Nat) (gd : Guard) (d s1 : BitVec 5)
  /-- AADD (R109): Adds a signed immediate to bits [31:0] of an address register modulo 2^32. Operands: I format, address registers. -/
  | aadd (c : Nat) (gd : Guard) (d s1 : BitVec 5) (imm : BitVec 32)
  /-- AADDG (R109): Adds g[s2][31:0] to bits [31:0] of an address register modulo 2^32. Operands: T format, d and s1 address registers. -/
  | aaddg (c : Nat) (gd : Guard) (d s1 s2 : BitVec 5)
  /-- BR (R114): Branches to pc + 32 x offset after one delay slot. Operands: B format. -/
  | br (c : Nat) (gd : Guard) (off : BitVec 24)
  /-- BDEC (R114): Decrements g[g] and branches when the result is nonzero, after one delay slot. Operands: B format. -/
  | bdec (c : Nat) (gd : Guard) (g : BitVec 5) (off : BitVec 24)
  /-- JR (R114): Jumps to the offset held in g[g] after one delay slot. Operands: B format. -/
  | jr (c : Nat) (gd : Guard) (g : BitVec 5)
  /-- JAL (R114): Writes the return offset into g[g] and branches after one delay slot. Operands: B format. -/
  | jal (c : Nat) (gd : Guard) (g : BitVec 5) (off : BitVec 24)
  /-- RDSH (R110): Reads a shape register into g[d]. Operands: T format. -/
  | rdsh (c : Nat) (gd : Guard) (d s1 : BitVec 5)
  /-- RDCYC (R108): Reads the plane cycle count into g[d]. Operands: T format. -/
  | rdcyc (c : Nat) (gd : Guard) (d : BitVec 5)
  /-- RDCC (R112): Reads a completion counter at the end of the issue cycle into g[g]. Operands: C format. -/
  | rdcc (c : Nat) (gd : Guard) (cc : BitVec 6) (g : BitVec 5)
  /-- CSET (R115): Sets a completion counter to an immediate or register value. Operands: C format. -/
  | cset (c : Nat) (gd : Guard) (cc : BitVec 6) (g : BitVec 5) (src : Bool) (imm : BitVec 24)
  /-- CADD (R115): Adds to a completion counter, raising counter overflow past FFFF_FFFFh. Operands: C format. -/
  | cadd (c : Nat) (gd : Guard) (cc : BitVec 6) (g : BitVec 5) (src : Bool) (imm : BitVec 24)
  /-- CSUB (R115): Subtracts from a completion counter, raising counter overflow below 0. Operands: C format. -/
  | csub (c : Nat) (gd : Guard) (cc : BitVec 6) (g : BitVec 5) (src : Bool) (imm : BitVec 24)
  /-- WAIT (R117): Holds issue for d cycles and then checks a completion counter against a count. Operands: C format. -/
  | wait (c : Nat) (gd : Guard) (cc : BitVec 6) (g : BitVec 5) (src : Bool) (d : BitVec 16) (imm : BitVec 24)
  /-- WAIT_CHECK (R117): At the end of cycle t + d the counter is compared with the count and a deadline squall is raised if it is short. Operands: the check of core c's wait. -/
  | waitCheck (c : Nat)
  /-- WATCH (R118): Arms one of four watch trackers to compare a counter at cycle t + d without holding issue. Operands: C format. -/
  | watch (c : Nat) (gd : Guard) (cc : BitVec 6) (g : BitVec 5) (src : Bool) (d : BitVec 16) (imm : BitVec 24)
  /-- WATCH_CHECK (R118): A pending watch reaches its cycle and raises a squall when the count is not reached. Operands: the checks of core c's watches due in this cycle. -/
  | watchCheck (c : Nat)
  /-- ARM (R119): Sets the target count of a counter for the next front. Operands: C format. -/
  | arm (c : Nat) (gd : Guard) (cc : BitVec 6) (g : BitVec 5) (src : Bool) (imm : BitVec 24)
  /-- FRONT (R120): A core stops issue at a front and reports readiness, front number, bound and step bit up the front wire tree. Operands: F format. -/
  | front (c : Nat) (gd : Guard) (num : BitVec 8) (bound : BitVec 20) (stp : Bool)
  /-- FRONT_RELEASE (R120): When every core is ready, the values match and any step commit is done, all cores resume 64 cycles later with armed targets cleared. Operands: the root releases the front, or finds its values differing. -/
  | frontRelease
  /-- FRONT_TIMEOUT (R122): A front not released within its bound raises a front-timeout squall with its short list. Operands: the present front reaches its bound. -/
  | frontTimeout
  /-- LD (R124): Loads 1, 2, 4 or 8 bytes of the own scratchpad into a scalar register. Operands: ML format. -/
  | ld (c : Nat) (gd : Guard) (a : BitVec 4) (reg : BitVec 5) (size : BitVec 2) (sx : Bool) (off : BitVec 20)
  /-- ST (R124): Stores 1, 2, 4 or 8 bytes of a scalar register into the own scratchpad. Operands: ML format. -/
  | st (c : Nat) (gd : Guard) (a : BitVec 4) (reg : BitVec 5) (size : BitVec 2) (off : BitVec 20)
  /-- LDV (R125): Loads 256 B, or a turned tile, from the scratchpad into vector registers. Operands: ML format. -/
  | ldv (c : Nat) (gd : Guard) (a : BitVec 4) (reg : BitVec 5) (tm : BitVec 3) (off : BitVec 20)
  /-- STV (R124): Stores 256 B of a vector register into the scratchpad. Operands: ML format. -/
  | stv (c : Nat) (gd : Guard) (a : BitVec 4) (reg : BitVec 5) (off : BitVec 20)
  /-- CGET (R127): Starts a copy of 1-64 lines from the own cluster memory to the scratchpad. Operands: MA format, lines - 1. -/
  | cget (c : Nat) (gd : Guard) (a : BitVec 4) (g : BitVec 5) (cc : BitVec 6) (lines : BitVec 6) (tm : BitVec 3)
  /-- CPUT (R127): Starts a copy of 1-64 lines from the scratchpad to the own cluster memory. Operands: MA format, lines - 1. -/
  | cput (c : Nat) (gd : Guard) (a : BitVec 4) (g : BitVec 5) (cc : BitVec 6) (lines : BitVec 6)
  /-- CLUSTER_TRANSFER_COMPLETE (R127): The last line of a cget or cput is written and its counter increments. Operands: the transfer's last line is written. -/
  | clusterTransferComplete (id : Nat)
  /-- SEND (R134): Injects one packet of 1-16 flits with a 128-bit header, after the header checks of R177. Operands: MN format, flits - 1. -/
  | send (c : Nat) (gd : Guard) (a : BitVec 4) (gH : BitVec 5) (flits : BitVec 4) (cc : BitVec 6) (lc : Bool)
  /-- GET (R137): Sends a one-flit read request that carries the reply header. Operands: MN format, flits - 1. -/
  | get (c : Nat) (gd : Guard) (gH gR : BitVec 5) (flits : BitVec 4) (cc : BitVec 6) (lc : Bool)
  /-- WLD (R128): Requests 1-16 weight pages into the core's weight FIFO from its cluster's weight port. Operands: MW format, pages - 1. -/
  | wld (c : Nat) (gd : Guard) (wafer : BitVec 2) (g : BitVec 5) (pages : BitVec 4) (cc : BitVec 6)
  /-- WDROP (R129): Discards 1-512 weight-FIFO granules in ring order. Operands: MW format, granules - 1. -/
  | wdrop (c : Nat) (gd : Guard) (granules : BitVec 9)
  /-- KVLD (R130): Requests a run of KV lines into the scratchpad or cluster memory. Operands: MK format, lines - 1. -/
  | kvld (c : Nat) (gd : Guard) (area : BitVec 2) (g : BitVec 5) (a : BitVec 4) (lines : BitVec 8) (cc : BitVec 6)
  /-- KVST (R130): Writes a run of lines to the KV wafer, optionally quantising. Operands: MK format, lines - 1. -/
  | kvst (c : Nat) (gd : Guard) (area : BitVec 2) (g : BitVec 5) (a : BitVec 4) (lines : BitVec 8) (cc : BitVec 6) (qm : BitVec 2)
  /-- HPUT (R133): Sends a block of 1-64 lines of a given kind to the serving hub. Operands: MH format, lines - 1. -/
  | hput (c : Nat) (gd : Guard) (a : BitVec 4) (kind : BitVec 8) (cc : BitVec 6) (lines : BitVec 6)
  /-- WEIGHT_PAGE_ARRIVAL (R249): A weight page completes in the weight FIFO and the wld counter increments. Operands: the next page of command idx of a weight port, with its LDPC outcome. -/
  | weightPageArrival (pcl wafer idx : Nat) (res : PageRes)
  /-- KVLD_COMPLETE (R130): The last line of a kvld is written on the plane and its counter increments. Operands: with the lines corrected and found uncorrectable. -/
  | kvldComplete (id : Nat) (corr : Nat) (bad : List Nat)
  /-- KVST_COMPLETE (R130): The KV wafer has stored a kvst's run and its counter increments. Operands: of the partly written lines, how many were corrected, and those found uncorrectable. -/
  | kvstComplete (id : Nat) (ecc : LineRes)
  /-- HPUT_ACCEPT (R133): The hub accepts an hput block and the issuing counter increments. Operands: the hub accepts the block. -/
  | hputAccept (id : Nat)
  /-- TLD (R146): Loads tile and scale records into a shadow slot of the named arrays from the weight FIFO or scratchpad. Operands: XT format. -/
  | tld (c : Nat) (gd : Guard) (amask : BitVec 4) (slot sc src : Bool) (a : BitVec 4) (tm : BitVec 3)
  /-- STRM (R148): Starts one pass of L vectors through the named arrays, accumulating into rows. Operands: XS format, L - 1. -/
  | strm (c : Nat) (gd : Guard) (amask : BitVec 4) (tsrc : BitVec 2) (opn : Bool) (b len gV gM : BitVec 5) (a : BitVec 4) (af : BitVec 3) (asr : BitVec 4) (anchor : BitVec 10)
  /-- DRN (R151): Drains accumulator rows of one array into its drain queue, converting each entry. Operands: XD format, rows - 1. -/
  | drn (c : Nat) (gd : Guard) (arr : BitVec 2) (r0 rows : BitVec 5) (form : BitVec 2) (dst : Bool) (a : BitVec 4) (cc : BitVec 6)
  /-- DRAIN_WRITE (R77): A drain entry is written to the scratchpad when its banks grant it, or made available to the vector unit, and its counter increments. Operands: the oldest entry of array arr's queue not yet delivered. -/
  | drainWrite (c : Nat) (arr : BitVec 2)
  /-- AINIT (R152): Opens accumulator rows with values read from the scratchpad. Operands: XD format, rows - 1. -/
  | ainit (c : Nat) (gd : Guard) (arr : BitVec 2) (r0 rows : BitVec 5) (form : BitVec 2) (dst : Bool) (a : BitVec 4) (cc : BitVec 6)
  /-- AMODE (R144): Sets weight format, activation format, accumulation mode, outlier count and ceiling. Operands: XA format. -/
  | amode (c : Nat) (gd : Guard) (wf : BitVec 4) (ae xm : Bool) (nc : BitVec 2) (ceil : BitVec 16)
  /-- CVT (R155): Correction unit forms t = V^T x and quantises it into the rank buffer. Operands: XV format, P - 1, K_s/32 - 1. -/
  | cvt (c : Nat) (gd : Guard) (rank : BitVec 2) (vsrc : Bool) (av ax asr : BitVec 4) (af : BitVec 2) (p : BitVec 5) (ks : BitVec 10) (anchor : BitVec 10) (cc : BitVec 6)
  /-- CUT (R156): Correction unit forms U t into result-buffer rows. Operands: XU format, P - 1, N_s/16 - 1. -/
  | cut (c : Nat) (gd : Guard) (rank : BitVec 2) (usrc : Bool) (au : BitVec 4) (p : BitVec 5) (outs : BitVec 2) (grp : BitVec 9) (opn : Bool) (anchor : BitVec 10) (cc : BitVec 6) (rbase : BitVec 5) (ns : BitVec 7)
  /-- COUT (R157): Correction unit multiplies diverted outliers by the active tile into result rows. Operands: XO format, P - 1. -/
  | cout (c : Nat) (gd : Guard) (arr : BitVec 2) (half : Bool) (p rbase : BitVec 5) (opn : Bool) (anchor : BitVec 10) (cc : BitVec 6)
  /-- CORRECTION_OP_END (R153): A cvt, cut or cout ends and increments its counter, letting the next queued one start. Operands: the oldest correction operation ends. -/
  | correctionOpEnd (c : Nat)
  /-- CMERGE (R158): Adds result-buffer rows into accumulator rows of one array. Operands: XG format, rows - 1. -/
  | cmerge (c : Nat) (gd : Guard) (arr : BitVec 2) (b rbase rows : BitVec 5)
  /-- VADD (R56): Lane-wise addition. Operands: VR format. -/
  | vadd (c : Nat) (gd : Guard) (vd vs1 vs2 : BitVec 5) (ty : Bool)
  /-- VSUB (R56): Lane-wise subtraction. Operands: VR format. -/
  | vsub (c : Nat) (gd : Guard) (vd vs1 vs2 : BitVec 5) (ty : Bool)
  /-- VMUL (R56): Lane-wise multiplication. Operands: VR format. -/
  | vmul (c : Nat) (gd : Guard) (vd vs1 vs2 : BitVec 5) (ty : Bool)
  /-- VFMA (R56): Lane-wise fused multiply-add with one rounding. Operands: VR format. -/
  | vfma (c : Nat) (gd : Guard) (vd vs1 vs2 vs3 : BitVec 5) (ty : Bool)
  /-- VMIN (R160): Lane-wise minimum with canonical NaN and -0 below +0. Operands: VR format. -/
  | vmin (c : Nat) (gd : Guard) (vd vs1 vs2 : BitVec 5) (ty : Bool)
  /-- VMAX (R160): Lane-wise maximum with canonical NaN and -0 below +0. Operands: VR format. -/
  | vmax (c : Nat) (gd : Guard) (vd vs1 vs2 : BitVec 5) (ty : Bool)
  /-- VCMP (R160): Writes a lane mask from a comparison. Operands: VR format. -/
  | vcmp (c : Nat) (gd : Guard) (vd vs1 vs2 : BitVec 5) (ty : Bool) (cond : BitVec 4)
  /-- VSEL (R160): Selects vs1 or vs2 per lane by the top bit of vs3. Operands: VR format. -/
  | vsel (c : Nat) (gd : Guard) (vd vs1 vs2 vs3 : BitVec 5) (ty : Bool)
  /-- VEXP (R57): Correctly rounded exp on each lane. Operands: VR format. -/
  | vexp (c : Nat) (gd : Guard) (vd vs1 : BitVec 5) (ty : Bool)
  /-- VLOG (R57): Correctly rounded log on each lane. Operands: VR format. -/
  | vlog (c : Nat) (gd : Guard) (vd vs1 : BitVec 5) (ty : Bool)
  /-- VRCP (R57): Correctly rounded reciprocal on each lane. Operands: VR format. -/
  | vrcp (c : Nat) (gd : Guard) (vd vs1 : BitVec 5) (ty : Bool)
  /-- VRSQ (R57): Correctly rounded reciprocal square root on each lane. Operands: VR format. -/
  | vrsq (c : Nat) (gd : Guard) (vd vs1 : BitVec 5) (ty : Bool)
  /-- VRSUM (R58): Pairwise-tree sum of 64 lanes written to every lane. Operands: VR format. -/
  | vrsum (c : Nat) (gd : Guard) (vd vs1 : BitVec 5) (ty : Bool)
  /-- VRMAX (R58): Maximum over 64 lanes written to every lane. Operands: VR format. -/
  | vrmax (c : Nat) (gd : Guard) (vd vs1 : BitVec 5) (ty : Bool)
  /-- VRMIN (R58): Minimum over 64 lanes written to every lane. Operands: VR format. -/
  | vrmin (c : Nat) (gd : Guard) (vd vs1 : BitVec 5) (ty : Bool)
  /-- VCVT (R161): Converts 64 elements between element formats. Operands: VC format. -/
  | vcvt (c : Nat) (gd : Guard) (vd vs1 : BitVec 5) (sf df : BitVec 4) (h : Bool)
  /-- VQUANT (R161): Quantises 64 or 128 inputs into a block format by R39. Operands: VC format. -/
  | vquant (c : Nat) (gd : Guard) (vd vs1 : BitVec 5) (sf df : BitVec 4) (h : Bool)
  /-- VDEQ (R161): Converts a block format back to FP32 or BF16. Operands: VC format. -/
  | vdeq (c : Nat) (gd : Guard) (vd vs1 : BitVec 5) (sf df : BitVec 4) (h : Bool)
  /-- VWADD (R162): Wide add of two groups of 64 wide partials. Operands: VR format. -/
  | vwadd (c : Nat) (gd : Guard) (vd vs1 vs2 : BitVec 5) (ty : Bool)
  /-- VWRND (R162): Rounds a group of wide partials to 64 FP32 lanes. Operands: VR format. -/
  | vwrnd (c : Nat) (gd : Guard) (vd vs1 : BitVec 5) (ty : Bool)
  /-- VPOP (R163): Moves the oldest drain entry of an array into a register group. Operands: VP format. -/
  | vpop (c : Nat) (gd : Guard) (vd : BitVec 5) (arr grp : BitVec 2)
  /-- VEXT (R164): Extracts one 32-bit lane into a scalar register. Operands: VG format. -/
  | vext (c : Nat) (gd : Guard) (d s1 : BitVec 5) (lane : BitVec 6) (ty : Bool)
  /-- VSPLAT (R164): Writes a scalar into every lane of a vector register. Operands: VG format. -/
  | vsplat (c : Nat) (gd : Guard) (d s1 : BitVec 5) (ty : Bool)
  /-- VTOPM (R165): Merges 64 candidates into a top-64 list. Operands: VT format. -/
  | vtopm (c : Nat) (gd : Guard) (vd vs1 gs : BitVec 5) (init : Bool)
  /-- ROUTER_HOP (R178): A router takes a packet header, consumes its next turn or tree entry and forwards, ejects or raises a route or collision squall. Operands: the packet's header at its router. -/
  | routerHop (id : Nat)
  /-- GATEWAY_LOOKUP (R180): A gateway or station looks a packet up in its unicast or tree table and forwards or hands it to a boundary router. Operands: the packet's header at its gateway or station. -/
  | gatewayLookup (id : Nat)
  /-- REDUCE_COMBINE (R191): A combining router combines reduce packets arriving together on every named input into one packet. Operands: the packets of a tree at a combining router. -/
  | reduceCombine (pcl tree : Nat)
  /-- PACKET_DELIVERY (R136): A packet's flits are written at the destination and its counter increments after the last flit. Operands: the packet is written at its destination. -/
  | packetDelivery (id : Nat)
  /-- GET_REPLY (R137): A get request at the remote router reads the run and injects the reply. Operands: a get request at its remote router. -/
  | getReply (id : Nat)
  /-- SQUALL_STOP (R239): A detected fault stops every core at c + 63, sets load state Ah and has the Barograph write the record. Operands: the detected faults stop the plane. -/
  | squallStop
  /-- TRANSIT_FAULT (R204): A mesochronous queue detects a phase excursion and fences its field with squall 0Eh. Operands: a mesochronous queue of a physical field. -/
  | transitFault (pf : Nat)
  /-- LOAD_START (R225): Writing LDR_CTRL.start stops the running program at its next step front and begins a load. Operands: LDR_CTRL.start. -/
  | loadStart
  /-- LOAD_ABORT (R227): Writing LDR_CTRL.abort ends a load in progress with fault 11h. Operands: LDR_CTRL.abort. -/
  | loadAbort
  /-- LOAD_PASS1 (R227): The loader reads the whole image, computes D and keeps its tables. Operands: the image as host memory answers it. -/
  | loadPass1 (img : ImageRead)
  /-- LOAD_VERIFY (R224): The loader checks both image signatures against the owner keys. -/
  | loadVerify
  /-- LOAD_CHECK (R237): The loader applies the load-fault checks that need no broadcast. -/
  | loadCheck
  /-- LOAD_MAP (R186): The loader builds core tables and field map, chooses field-tier paths and writes the tables. Operands: with the paths the loader chooses. -/
  | loadMap (plan : MapPlan)
  /-- LOAD_PASS2 (R229): The loader reads the image again and broadcasts its 4 KiB blocks to the receiving clusters. Operands: the image read again, and the (cluster, block) pairs that did not arrive. -/
  | loadPass2 (img : ImageRead) (lost : List (Nat × Nat))
  /-- CLUSTER_DIGEST_CHECK (R230): A cluster whose block bitmap is full computes its SHA-512 and compares it with the digest table. Operands: logical cluster. -/
  | clusterDigestCheck (lcl : Nat)
  /-- RESEND_ROUND (R231): The loader resends missing or mismatched blocks, fencing or faulting after round 8. Operands: the blocks read again, and the pairs that did not arrive. -/
  | resendRound (img : ImageRead) (lost : List (Nat × Nat))
  /-- LOAD_COPY (R232): Cores copy code with relocation, the stage area is zeroed, shape registers set and every core started. -/
  | loadCopy
  /-- INSTALL (R264): Weight-store command 1h verifies a manifest, allocates ranges and fetches every shard. Operands: the manifest as the host answers it. -/
  | install (man : Option (List (BitVec 8)))
  /-- WST_RESUME (R269): Weight-store command 2h fetches the listed missing slices of an incomplete slot. Operands: the manifest as the host answers it. -/
  | wstResume (man : Option (List (BitVec 8)))
  /-- WST_ABORT (R264): Weight-store command 3h ends a running install or resume. -/
  | wstAbort
  /-- ERASE (R264): Weight-store command 4h frees a slot's pages. -/
  | eraseSlot
  /-- RE_PROVISION (R273): Weight-store command 5h rewrites the slice holding the page in WST_RPAGE into spare pages. -/
  | reProvision
  /-- SUBSTITUTE (R274): Weight-store command 6h starts field substitution for a fenced field. -/
  | substitute
  /-- WST_RESERVED_CMD (R264): A go with cmd 0h or 7h-Fh ends with result 0Eh. -/
  | wstReservedCmd (cmd : BitVec 4)
  /-- SLICE_FETCH_COMPLETE (R268): A weight controller finishes fetching a slice, checks its digest and programs it or refetches. Operands: number of the try, and the bytes of the controller's next slice. -/
  | sliceFetchComplete (shard : Nat) (sl : SliceRead)
  /-- SHARD_FETCH_TIMEOUT (R268): A shard fetch request times out after 10 ms and the slice is refetched. -/
  | shardFetchTimeout (shard : Nat)
  /-- SLOT_ERASE_COMPLETE (R265): An erasing slot finishes freeing its pages and becomes empty. -/
  | slotEraseComplete (slot : Nat)
  /-- REMAP_APPLY (R273): A re-provisioning remap waits for the next step-front release and then takes effect. -/
  | remapApply
  /-- WEIGHT_SCRUB (R251): Scrub reads installed pages and refreshes those needing it. -/
  | weightScrub (wafer pcl page : Nat) (res : PageRes)
  /-- FIELD_SUBSTITUTION_START (R274): A field fence with auto_sub set starts substitution with the lowest unfenced spare. -/
  | fieldSubstitutionStart
  /-- SUBSTITUTION_COPY_END (R275): Weight and KV lateral copies end, the field binding is rewritten and owner event 05h is sent. Operands: what the copies found in pages and in KV lines. -/
  | substitutionCopyEnd (pages : PagesRes) (lines : LineRes)
  /-- KV_APPLY (R282): Writing KV_CTRL.apply checks and applies the KV configuration, freeing all regions and prefix entries. -/
  | kvApply
  /-- KV_PATROL_SCRUB (R281): Patrol scrub reads, corrects and writes back KV lines. Operands: physical line; 0 good, 1 corrected, 2 or more uncorrectable. -/
  | kvPatrolScrub (line : Nat) (res : Nat)
  /-- ARRIVAL_TICK (R323): Each 1 us tick stamps requests read in it and advances the rotating pointer. -/
  | arrivalTick
  /-- GAUGE_TICK (R328): Each 1 ms tick refills every gauge up to its capacity. -/
  | gaugeTick
  /-- STEP_BOUNDARY (R315): The hub commits the step, applies control requests, adapters, holds, admission and writes the next descriptor. -/
  | stepBoundary
  /-- SUBMISSION_DOORBELL (R355): A host-index write to a submission ring makes the hub read the new entries. Operands: host index written, and what the hub's reads answer. -/
  | submissionDoorbell (owner : Bool) (t : Nat) (hidx : BitVec 32) (reads : List HostReq)
  /-- START (R317): A start request admits a new sequence with its parameter block and prompt. -/
  | startReq (t : Nat) (r : HostReq)
  /-- CONTINUE (R317): A continue request appends a prompt to a parked sequence and restores it. -/
  | continueReq (t : Nat) (r : HostReq)
  /-- PAUSE (R321): A pause request parks a decoding or held sequence. -/
  | pauseReq (t : Nat) (r : HostReq)
  /-- RESUME (R321): A resume request restores a parked sequence. -/
  | resumeReq (t : Nat) (r : HostReq)
  /-- CANCEL (R321): A cancel request finishes a live or parked sequence with reason 6. -/
  | cancelReq (t : Nat) (r : HostReq)
  /-- ADAPTER_UPLOAD (R338): An adapter upload is checked and given a generation and a slot or deferred. -/
  | adapterUpload (t : Nat) (r : HostReq)
  /-- ADAPTER_RELEASE (R340): An adapter release retires every generation of the id and cancels deferred uploads. -/
  | adapterRelease (t : Nat) (r : HostReq)
  /-- ADAPTER_LOAD_COMPLETE (R339): An adapter copy and digest check finish and the slot becomes resident at the next boundary or free on failure. Operands: 0 done, 1 transport failure, 2 digest failure. -/
  | adapterLoadComplete (slot : Nat) (res : Nat)
  /-- PARK_ALL (R344): Writing SRV_CTRL.park_all parks every live sequence with reason 4. -/
  | parkAll
  /-- PARK_COMPLETE (R344): A park copy ends, freeing slot and region, or fails and counts an attempt. Operands: park id of the copy, whether its transport is the fabric, its result, and KV lines corrected. -/
  | parkComplete (slot : Nat) (copy : ParkCopy)
  /-- PARK_RETRY (R347): A held sequence whose park failed is parked again after 1 s. -/
  | parkRetry (slot : Nat)
  /-- RESTORE_COMPLETE (R345): A restore copy ends after tag and header checks, returning the sequence to prefilling or decoding. Operands: admission number of the restore, transport, result, the record as read up to its tag table, the tag table, and KV lines corrected. -/
  | restoreComplete (slot : Nat) (copy : RestoreCopy)
  /-- SNOWPACK_OP_TIMEOUT (R215): A snowpack operation exceeds 10 ms and its park or restore fails. -/
  | snowpackOpTimeout (slot : Nat)
  /-- SNOWPACK_EXPIRY (R346): A park record reaches its expiry and is freed within 1 s. -/
  | snowpackExpiry (parkId : BitVec 64)
  /-- RING_CONFIG_WRITE (R355): Writing a ring's base, lgsz or en sets both its indices to 0. -/
  | ringConfigWrite (owner : Bool) (ring : RingId) (v : BitVec 64)
  /-- HOST_INDEX_WRITE (R355): A host-index write to an output or event ring frees entries or is ignored and counted when out of range. -/
  | hostIndexWrite (owner : Bool) (ring : RingId) (v : BitVec 32)
  /-- INTERRUPT_MODERATION (R357): A ring's MSI-X vector is raised when the entry count or wait time of EVT_MOD is reached. -/
  | interruptModeration (t : Nat) (tok : Bool)
  /-- FUNCTION_LEVEL_RESET (R358): An FLR of a VF or a clear of VF Enable starts a drain of the tenant. Operands: none: VF Enable cleared. -/
  | functionLevelReset (t : Option Nat)
  /-- DRAIN_COMPLETE (R358): A tenant drain ends, registers reset, any latched enable applied and owner event 0Ah sent. -/
  | drainComplete (t : Nat)
  /-- VF_ENABLE (R359): Setting Memory Space and Bus Master Enable enables a tenant, or latches the enable during a drain. -/
  | vfEnable (t : Nat)
  /-- FUNCTION0_RESET (R359): A reset of function 0 ends any load and installation, disables the owner event ring and aborts the mailbox command. -/
  | function0Reset
  /-- CXL_LINK_DOWN (R350): The CXL link goes down and the hub stops admission and holds every sequence. -/
  | cxlLinkDown (why : LinkLoss)
  /-- CXL_LINK_UP (R350): The CXL link returns with the functions keeping their state. -/
  | cxlLinkUp
  /-- CXL_COMPLETION_TIMEOUT (R349): A host read exceeds 50 us and is repeated once or fails. Operands: again: the repeated read failed too; late: its completion arrived afterwards. -/
  | cxlCompletionTimeout (what : ReadKind) (addr : BitVec 64) (again late : Bool)
  /-- HDM_ACCESS (R362): A CXL.mem access reads or writes the staging region, or is counted when beyond it. Operands: what the check bits find in its lines. -/
  | hdmAccess (addr : Nat) (wr : Option (List (BitVec 8))) (len : Nat) (ecc : LineRes)
  /-- IDENTIFY (R360): Mailbox command 0001h returns the engine's vendor and device identity. -/
  | identify
  /-- GET_TIMESTAMP (R360): Mailbox command 0300h returns the mailbox timestamp. -/
  | getTimestamp
  /-- SET_TIMESTAMP (R360): Mailbox command 0301h sets the mailbox timestamp only. -/
  | setTimestamp (v : BitVec 64)
  /-- GET_SUPPORTED_LOGS (R360): Mailbox command 0400h lists the Command Effects Log. -/
  | getSupportedLogs
  /-- GET_LOG (R360): Mailbox command 0401h returns the Command Effects Log. Operands: cel: the Command Effects Log is named. -/
  | getLog (cel : Bool) (off len : Nat)
  /-- IDENTIFY_MEMORY_DEVICE (R360): Mailbox command 4000h returns the staging capacity. -/
  | identifyMemoryDevice
  /-- SET_QP (R360): Mailbox command C100h writes a queue pair context. -/
  | setQp (qp : Nat) (ctx : List (BitVec 8))
  /-- GET_QP (R360): Mailbox command C101h returns a queue pair context with indices and state. -/
  | getQp (qp : Nat)
  /-- SET_PORT_ADDRESSES (R360): Mailbox command C102h sets a fabric port's VLAN, MAC and IP addresses. -/
  | setPortAddresses (payload : List (BitVec 8))
  /-- UNSUPPORTED_OPCODE (R360): Any other mailbox opcode completes with return code Unsupported. -/
  | unsupportedOpcode (op : BitVec 16)
  /-- GET_IDENTITY (R456): Security command C000h returns both identity keys and the endorsement. -/
  | getIdentity
  /-- GET_NONCE (R457): Security command C001h replaces and returns the held nonce. -/
  | getNonce
  /-- GET_ATTESTATION_REPORT (R461): Security command C002h returns the signed attestation report. -/
  | getAttestationReport (nonce : List (BitVec 8))
  /-- ENROL_OWNER (R453): Security command C010h enrols owner keys under physical presence. -/
  | enrolOwner (payload : List (BitVec 8))
  /-- REPLACE_OWNER_KEYS (R458): Security command C011h replaces the owner keys under four signatures. -/
  | replaceOwnerKeys (payload : List (BitVec 8))
  /-- CLEAR_OWNERSHIP (R459): Security command C012h removes the owner, raises the epoch and erases every slot. -/
  | clearOwnership (payload : List (BitVec 8))
  /-- ROTATE_TENANT_KEY (R460): Security command C020h raises a tenant's key epoch. -/
  | rotateTenantKey (payload : List (BitVec 8))
  /-- GET_TENANT_KEY_EPOCH (R456): Security command C021h returns a tenant's key epoch. -/
  | getTenantKeyEpoch (t : BitVec 16)
  /-- HOST_PUSH (R364): Writing WIN_PCTL.go pushes host data into a DMA window. -/
  | hostPush (t : Nat) (data : Option (List (BitVec 8)))
  /-- RDMA_WRITE_ARRIVAL (R364): An RDMA WRITE from a fabric peer is written into a window and its counter increments. -/
  | rdmaWriteArrival (rx : QpFrame) (rkey : BitVec 32) (addr : Nat) (data : List (BitVec 8))
  /-- SEND_ARRIVAL (R364): A RoCEv2 SEND is written into the next window slot. -/
  | sendArrival (rx : QpFrame) (data : List (BitVec 8))
  /-- RDMA_READ_REQUEST (R364): The engine answers an RDMA READ within a window. -/
  | rdmaReadRequest (rx : QpFrame) (rkey : BitVec 32) (addr len : Nat)
  /-- ACK_TIMEOUT (R367): A RoCEv2 ACK timeout retransmits go-back-N up to 7 times, then the QP enters error. -/
  | ackTimeout (loss : AckLoss)
  /-- RATE_INTERVAL (R368): At the end of each 40 us interval each QP's send rate is cut or raised from its CNP count. -/
  | rateInterval
  /-- FABRIC_PORT_DOWN (R369): A port goes down, its QPs enter error and operations move to another QP of the group. -/
  | fabricPortDown (p : Nat) (loss : PortLoss)
  /-- FABRIC_PORT_UP (R369): A port's link trains again and owner event 07h is sent. -/
  | fabricPortUp (p : Nat)
  /-- PORT_ENABLE (R366): LNK_PORTn.en going 0 to 1 applies the port mode and enables the port. Operands: LNK_PORTn value written. -/
  | portEnable (p : Nat) (v : BitVec 64)
  /-- ISOBAR_JOIN (R370): ISO_CFG.en opens or closes the station's bypass. Operands: ISO_CFG value written. -/
  | isobarJoin (v : BitVec 64)
  /-- ISOBAR_FRAME_RECEIVE (R371): A station receives a frame, forwards it with its hop count updated, or removes or drops it. -/
  | isobarFrameReceive (frame : List (BitVec 8))
  /-- ISOBAR_TIME_FRAME (R372): The master sends a time frame every 1 ms. -/
  | isobarTimeFrame
  /-- ISOBAR_BUDGET_FRAME (R372): A station sends its budget frame at its slot after each ring millisecond. -/
  | isobarBudgetFrame
  /-- ISOBAR_SHARE_COMPUTE (R372): At each whole millisecond a station computes its power share. -/
  | isobarShareCompute
  /-- ISOBAR_ALARM (R371): A station sends an alarm frame on coolant stop, over-temperature, dew point or removal. -/
  | isobarAlarm (code : BitVec 8) (detail : BitVec 32)
  /-- ISOBAR_BREAK_TIMEOUT (R373): No good frame for 100 us declares the ring broken and sends break frames. -/
  | isobarBreakTimeout
  /-- ISOBAR_MASTER_LOST (R373): No time frame for 3 ms, or two masters, declares the master lost. -/
  | isobarMasterLost
  /-- SMB_IDENTITY (R374): SMBus 00h returns grade, stepping and serial. -/
  | smbIdentity
  /-- SMB_STATE (R374): SMBus 01h returns the power state. -/
  | smbState
  /-- SMB_FAULT_SUMMARY (R374): SMBus 02h returns the fault summary. -/
  | smbFaultSummary
  /-- SMB_DIE_TEMPERATURE (R374): SMBus 03h-05h return the hottest sensor of a die kind. Operands: 03h-05h. -/
  | smbDieTemperature (code : BitVec 8)
  /-- SMB_COOLANT_TEMPERATURE (R374): SMBus 06h-07h return inlet or outlet temperature. Operands: 06h, 07h. -/
  | smbCoolantTemperature (outlet : Bool)
  /-- SMB_FLOW (R374): SMBus 08h returns the coolant flow. -/
  | smbFlow
  /-- SMB_POWER (R374): SMBus 09h-0Bh return input power, thermal cap or Isobar share. Operands: 09h-0Bh. -/
  | smbPower (code : BitVec 8)
  /-- SMB_RACK_BUDGET (R374): SMBus 0Ch writes the rack budget into ISO_CFG.budget. -/
  | smbRackBudget (v : BitVec 16)
  /-- SMB_IDENTIFY_PATTERN (R374): SMBus 0Dh starts or stops the LED identify pattern. -/
  | smbIdentifyPattern (v : BitVec 8)
  /-- BYPASS (R376): Boundary-scan BYPASS instruction. -/
  | bypass
  /-- IDCODE (R376): Boundary-scan IDCODE instruction returns the stepping's code. -/
  | idcode
  /-- SAMPLE_PRELOAD (R376): Boundary-scan SAMPLE/PRELOAD instruction. -/
  | samplePreload (pins : List Bool)
  /-- EXTEST (R376): Boundary-scan EXTEST drives pins only while held in reset. -/
  | extest
  /-- CLAMP (R376): Boundary-scan CLAMP instruction, only while held in reset. -/
  | clamp
  /-- HIGHZ (R376): Boundary-scan HIGHZ instruction, only while held in reset. -/
  | highz
  /-- EXTEST_PULSE (R376): IEEE 1149.6 EXTEST_PULSE on AC-coupled lanes, only while held in reset. -/
  | extestPulse
  /-- EXTEST_TRAIN (R376): IEEE 1149.6 EXTEST_TRAIN on AC-coupled lanes, only while held in reset. -/
  | extestTrain
  /-- AVS_SETPOINT_ADJUST (R383): Every 50 us in native mode the VIR setpoint is raised or lowered from the minimum die VIR. -/
  | avsSetpointAdjust
  /-- VIR_UNDERVOLTAGE (R385): Die VIR below 1.36 V for 1 us or VIR_OK falling takes the forced path to Frost with cause 2. Operands: okFell: VIR_OK fell. -/
  | virUndervoltage (okFell : Bool)
  /-- VIR_OK_RESTORED (R385): VIR_OK standing for 10 ms ends cause 2. -/
  | virOkRestored
  /-- CLOCK_STEP_CHANGE (R206): The plane clock stops on every field, PLLs and rail targets change, and it restarts within 2 us. -/
  | clockStepChange
  /-- STATE_TARGET_WRITE (R388): Writing PWR_CTRL.tgt moves the engine down or up the state ladder. Operands: PWR_CTRL value written. -/
  | stateTargetWrite (v : BitVec 32)
  /-- STATE_TRANSITION (R388): The engine enters the next state towards its target or floor, holding the step front on descent from Run. -/
  | stateTransition
  /-- IDLE_DESCENT (R393): After idle_s seconds without live sequences the target becomes idle_st. -/
  | idleDescent
  /-- FORCED_CHANGE (R392): A forced cause sets a floor and takes the forced path, ending any load with fault 13h. -/
  | forcedChange (cause : Nat)
  /-- REGULATOR_TILE_TRIP (R396): A tile over current or under voltage trips, fencing its cluster with squall 0Fh. -/
  | regulatorTileTrip (die pf cl tile rail : Nat)
  /-- VTRANSIT_FEED_TRIP (R397): One VTRANSIT feed trips and is counted; both tripping fences the field's transit with squall 0Eh. -/
  | vtransitFeedTrip (pf cl : Nat) (neighbour : Bool)
  /-- THERMAL_SAMPLE (R398): Every 50 us sensor pairs are sampled, control readings formed and the thermal limits acted on. Operands: raw readings (pair, a, b) in 1/8 degree C. -/
  | thermalSample (reads : List (Nat × Int × Int))
  /-- POWER_CAP_UPDATE (R405): Every 100 ms power and Rth are measured and the thermal cap computed. Operands: mean input power over the interval, W. -/
  | powerCapUpdate (p : Nat)
  /-- CLOCK_STEP_CONTROL (R407): Every 1 ms power is compared with the effective cap and the clock step moved. Operands: input power averaged over the millisecond, W. -/
  | clockStepControl (p : Nat)
  /-- CAP_BELOW_STEP6 (R408): Step 6 exceeding the cap for 100 ms sets a Breeze floor with cause 4h. -/
  | capBelowStep6
  /-- COOLANT_STOP (R409): Low flow or an open coupling in Calm or above steps the clock down and forces Frost. -/
  | coolantStop
  /-- COOLANT_RESTORED (R409): Couplings present and flow above 80 % for 5 s end the coolant stop. -/
  | coolantRestored
  /-- DEW_POINT_CHECK (R411): Every 1 s the dew point is computed and THM_STAT.dew set or cleared. -/
  | dewPointCheck
  /-- SENSOR_RECAL (R400): Writing THM_CTRL.recal calibrates die sensors to the inlet or is refused. -/
  | sensorRecal
  /-- VSB_APPLY (R413): VSB application starts a cold bring-up: fuses read, keys derived and the Barograph self-test run. Operands: VIRSNS_SEL, and whether the built-in test passes. -/
  | vsbApply (strapHigh testOk : Bool)
  /-- PERST_ASSERT (R416): PERST_N assertion enters reset hold, stopping cores and resetting functions. -/
  | perstAssert
  /-- PERST_RELEASE (R417): PERST_N release starts bring-up at phase 2 on the full or fast path. -/
  | perstRelease
  /-- BRINGUP_PHASE_COMPLETE (R417): A bring-up phase ends and the next starts, or Ready is reached after phase 6. Operands: with what the phase's tests found. -/
  | bringupPhaseComplete (found : List Finding)
  /-- COOLANT_CONDITION_MET (R418): Couplings and flow held for 5 s let phase 2 assert VIR_EN. -/
  | coolantConditionMet
  /-- VIR_OK_TIMEOUT (R419): VIR_OK not following VIR_EN within 300 us retries after 1 s, stopping after three failures. -/
  | virOkTimeout
  /-- POST_SQUALL_TEST (R426): After a core or SRAM double-bit squall the named unit is tested and fenced on failure. Operands: 0 pass, 1 pass with repair, 2 or more fail; duration in us. -/
  | postSquallTest (res dur : Nat)
  /-- ATTN_PRESS (R430): A short ATTN press acknowledges the message and stops the identify pattern. -/
  | attnPress
  /-- ATTN_HOLD (R430): ATTN held 3 s asserts physical presence, or cancels a removal. -/
  | attnHold
  /-- PRESENCE_EXPIRY (R430): Physical presence lapses after 60 s. -/
  | presenceExpiry
  /-- REMOVE_PRESS (R432): Pressing REMOVE starts removal: admission off, park_all, alarm and Frost floor. -/
  | removePress
  /-- REMOVAL_PARK_TIMEOUT (R432): After park_s seconds the removal takes the forced path to Frost. -/
  | removalParkTimeout
  /-- REMOVAL_CANCEL (R434): Writing PNL_CTRL.cancel ends a removal and returns to the target state. -/
  | removalCancel
  /-- TOUCH_DETECT (R450): A touch pad's 1 ms means cross its threshold and the handle is touched or released. Operands: the 1 ms mean of a pad. -/
  | touchDetect (pad mean : Nat)
  /-- PRESENCE_CHANGE (R435): A connector's presence detect changes and the action of R435 follows. Operands: PNL_PRES bit. -/
  | presenceChange (bit : Nat) (v : Bool)
  /-- CAL_ISO_CHANGE (R483): CAL_ISO_N in Frost or reset hold switches channels 12-18 between sensors and taps. -/
  | calIsoChange (low : Bool)
  /-- ADC_SAMPLE (R437): The converter takes the sample of its frame slot and corrects it. Operands: slot of the frame, raw code. -/
  | adcSample (slot : Nat) (raw : BitVec 14)
  /-- FE_TEMP_READ (R442): Every 100 ms front-end temperatures are read and drifted channels made due. Operands: front-end temperatures, 1/8 degree C. -/
  | feTempRead (temps : List Int)
  /-- DRIFT_CALIBRATION (R443): The due channel is shadowed by the spare while its front end is recalibrated. Operands: means of the spare and of the channel, 1/16 code. -/
  | driftCalibration (sz sf z f : Nat)
  /-- DRIFT_RETRY (R444): A rejected calibration is tried again 10 s later. -/
  | driftRetry (n : Nat)
  /-- DRIFT_ALL (R442): Writing ADC_DRIFT.all makes every channel due. -/
  | driftAll
  /-- ADC_FE_WRITE (R446): An owner write to ADC_FEn sets coefficients and discards a running calibration of the channel. -/
  | adcFeWrite (n : Nat) (v : BitVec 64)
  /-- SYSCAL_POINT0 (R447): ADC_SYSCAL go with point 0 averages u at the known zero and holds it pending. Operands: mean raw code of 4,096 samples, in 1/4096 code. -/
  | syscalPoint0 (mean : Nat)
  /-- SYSCAL_POINT1 (R447): ADC_SYSCAL go with point 1 averages u at full scale and writes s0 and s1. Operands: mean raw code of 4,096 samples, in 1/4096 code. -/
  | syscalPoint1 (mean : Nat)
  /-- LOWER_HALF_READ (R17): A read of a 64-bit register's lower half latches its upper half. Operands: offset of the register's lower half, size in bytes. -/
  | lowerHalfRead (view : View) (run : RegRun)
  /-- REGISTER_WRITE (R16): A write to a register without a row of its own, with alignment checks, half-write pairing and W1C clearing. Operands: offset, size in bytes, value. -/
  | registerWrite (view : View) (off size : Nat) (v : BitVec 64)
  /-- VSB_LOSS (R346): Loss of VSB, as when a module is removed, takes the engine to Off, losing the snowpack index, the standby island's state and THM_STAT.hot, and ending any installation or substitution session. -/
  | vsbLoss
  /-- SPDM_REQUEST (R351): An SPDM request on DOE is answered with the Ed25519 identity key and the endorsement chain, and IDE keys are programmed through IDE_KM. Operands: keys: IDE_KM programs keys. -/
  | spdmRequest (req : List (BitVec 8)) (keys : Bool)
  /-- ARP_REQUEST (R367): An ARP request or IPv6 neighbour solicitation for the port's own address arriving on a fabric port is answered. Operands: port and half, frame, address asked for. -/
  | arpRequest (rx : PortFrame) (addr : List (BitVec 8))
  /-- CNP_RECEIVED (R368): A congestion notification packet arriving for a QP is counted in LNK_PORTn.cnp and in the QP's count n for the current rate interval. -/
  | cnpReceived (rx : QpFrame)
  /-- BAROGRAPH_VOTE_DISAGREEMENT (R415): A majority vote of the Barograph's triplicated state machines disagrees; a second disagreement within 1 s stops bring-up with stop code 5h, and any disagreement clears the clean flag. -/
  | barographVoteDisagreement
  /-- UPPER_HALF_READ (R17): A read of a 64-bit register's upper half returns the latched value and releases the latch, or returns the current upper half when no latch is held. Operands: offset of the register's upper half, size in bytes. -/
  | upperHalfRead (view : View) (run : RegRun)
  /-- VIR_OK_ASSERTED (R379): VIR_OK rises; when VIR appears without VIR_EN, the engine keeps every regulator off and sets PWR_STAT.vir_ok without leaving its state. -/
  | virOkAsserted
deriving DecidableEq, Repr

end Sys2Proof
end

