-- ==== Sys2Proof/Decode.lean ====
section
/-! DEFINITION. Decoding. The opcode table gives its rows no bits, so `decodeTableWord` reads no word. The 64-bit slot
operations of a bundle do have an encoding (chapters 04 and 05, R105, R111, R123, R140, R159): `decodeSlot` reads one,
refusing an undefined opcode and a nonzero bit in a field the operation does not use (R106), and `encodeSlot` writes it. -/

namespace Sys2Proof

/-- The command a word of the opcode table's bits spells: the table gives no row any bits. -/
def decodeTableWord (_nbits _w : Nat) : Option Instr := none

/-- Field of n bits from bit lo of a slot word. -/
def slotField (n lo w : Nat) : BitVec n := BitVec.ofNat n (w / 2 ^ lo % 2 ^ n)

/-- Bit lo of a slot word. -/
def slotBit (lo w : Nat) : Bool := decide (w / 2 ^ lo % 2 = 1)

/-- Bits [hi:lo] of a slot word are zero. -/
def slotZero (hi lo w : Nat) : Bool := decide (w / 2 ^ lo % 2 ^ (hi + 1 - lo) = 0)

/-- The guard of the common header (R105). -/
def slotGuard (w : Nat) : Guard := { gn := slotBit 55 w, gp := slotField 3 52 w }

/-- The common header: opcode, gn, gp (R105). -/
def slotHeader (op : Nat) (g : Guard) : Nat := op * 2 ^ 56 + (if g.gn then 1 else 0) * 2 ^ 55 + g.gp.toNat * 2 ^ 52

def boolBit (b : Bool) (lo : Nat) : Nat := (if b then 1 else 0) * 2 ^ lo

/-- S-slot word of core c. -/
def decodeS (c w : Nat) : Option Instr :=
  match w / 2 ^ 56 with
  | 0 => if w = 0 then some (.nop c .S (slotGuard w)) else none
  | 1 => if slotZero 36 0 w then some (.add c (slotGuard w) (slotField 5 47 w) (slotField 5 42 w) (slotField 5 37 w)) else none
  | 2 => if slotZero 36 0 w then some (.sub c (slotGuard w) (slotField 5 47 w) (slotField 5 42 w) (slotField 5 37 w)) else none
  | 3 => if slotZero 36 0 w then some (.and c (slotGuard w) (slotField 5 47 w) (slotField 5 42 w) (slotField 5 37 w)) else none
  | 4 => if slotZero 36 0 w then some (.or c (slotGuard w) (slotField 5 47 w) (slotField 5 42 w) (slotField 5 37 w)) else none
  | 5 => if slotZero 36 0 w then some (.xor c (slotGuard w) (slotField 5 47 w) (slotField 5 42 w) (slotField 5 37 w)) else none
  | 6 => if slotZero 36 0 w then some (.shl c (slotGuard w) (slotField 5 47 w) (slotField 5 42 w) (slotField 5 37 w)) else none
  | 7 => if slotZero 36 0 w then some (.shr c (slotGuard w) (slotField 5 47 w) (slotField 5 42 w) (slotField 5 37 w)) else none
  | 8 => if slotZero 36 0 w then some (.sra c (slotGuard w) (slotField 5 47 w) (slotField 5 42 w) (slotField 5 37 w)) else none
  | 9 => if slotZero 36 0 w then some (.mul c (slotGuard w) (slotField 5 47 w) (slotField 5 42 w) (slotField 5 37 w)) else none
  | 10 => if slotZero 36 0 w then some (.min c (slotGuard w) (slotField 5 47 w) (slotField 5 42 w) (slotField 5 37 w)) else none
  | 11 => if slotZero 36 0 w then some (.max c (slotGuard w) (slotField 5 47 w) (slotField 5 42 w) (slotField 5 37 w)) else none
  | 16 => if slotZero 41 32 w then some (.addi c (slotGuard w) (slotField 5 47 w) (slotField 5 42 w) (slotField 32 0 w)) else none
  | 17 => if slotZero 41 32 w then some (.andi c (slotGuard w) (slotField 5 47 w) (slotField 5 42 w) (slotField 32 0 w)) else none
  | 18 => if slotZero 41 32 w then some (.ori c (slotGuard w) (slotField 5 47 w) (slotField 5 42 w) (slotField 32 0 w)) else none
  | 19 => if slotZero 41 32 w then some (.xori c (slotGuard w) (slotField 5 47 w) (slotField 5 42 w) (slotField 32 0 w)) else none
  | 20 => if slotZero 41 32 w then some (.shli c (slotGuard w) (slotField 5 47 w) (slotField 5 42 w) (slotField 32 0 w)) else none
  | 21 => if slotZero 41 32 w then some (.shri c (slotGuard w) (slotField 5 47 w) (slotField 5 42 w) (slotField 32 0 w)) else none
  | 22 => if slotZero 41 32 w then some (.srai c (slotGuard w) (slotField 5 47 w) (slotField 5 42 w) (slotField 32 0 w)) else none
  | 23 => if slotZero 46 32 w then some (.li c (slotGuard w) (slotField 5 47 w) (slotField 32 0 w)) else none
  | 24 => if slotZero 46 32 w then some (.lih c (slotGuard w) (slotField 5 47 w) (slotField 32 0 w)) else none
  | 32 => if slotZero 33 32 w then some (.cmp c (slotGuard w) (slotField 3 49 w) (slotField 4 45 w) (slotField 5 40 w) (slotField 5 35 w) (slotBit 34 w) (slotField 32 0 w)) else none
  | 33 => if slotZero 38 0 w then some (.plog c (slotGuard w) (slotField 3 49 w) (slotField 3 46 w) (slotBit 45 w) (slotField 3 42 w) (slotBit 41 w) (slotField 2 39 w)) else none
  | 40 => if slotZero 41 0 w then some (.amov c (slotGuard w) (slotField 5 47 w) (slotField 5 42 w)) else none
  | 41 => if slotZero 41 0 w then some (.gmov c (slotGuard w) (slotField 5 47 w) (slotField 5 42 w)) else none
  | 42 => if slotZero 41 32 w then some (.aadd c (slotGuard w) (slotField 5 47 w) (slotField 5 42 w) (slotField 32 0 w)) else none
  | 43 => if slotZero 36 0 w then some (.aaddg c (slotGuard w) (slotField 5 47 w) (slotField 5 42 w) (slotField 5 37 w)) else none
  | 48 => if slotZero 51 24 w then some (.br c (slotGuard w) (slotField 24 0 w)) else none
  | 49 => if slotZero 46 24 w then some (.bdec c (slotGuard w) (slotField 5 47 w) (slotField 24 0 w)) else none
  | 50 => if slotZero 46 0 w then some (.jr c (slotGuard w) (slotField 5 47 w)) else none
  | 51 => if slotZero 46 24 w then some (.jal c (slotGuard w) (slotField 5 47 w) (slotField 24 0 w)) else none
  | 56 => if slotZero 41 0 w then some (.rdsh c (slotGuard w) (slotField 5 47 w) (slotField 5 42 w)) else none
  | 57 => if slotZero 46 0 w then some (.rdcyc c (slotGuard w) (slotField 5 47 w)) else none
  | 58 => if slotZero 40 0 w then some (.rdcc c (slotGuard w) (slotField 6 46 w) (slotField 5 41 w)) else none
  | 64 => if slotZero 39 24 w then some (.cset c (slotGuard w) (slotField 6 46 w) (slotField 5 41 w) (slotBit 40 w) (slotField 24 0 w)) else none
  | 65 => if slotZero 39 24 w then some (.cadd c (slotGuard w) (slotField 6 46 w) (slotField 5 41 w) (slotBit 40 w) (slotField 24 0 w)) else none
  | 66 => if slotZero 39 24 w then some (.csub c (slotGuard w) (slotField 6 46 w) (slotField 5 41 w) (slotBit 40 w) (slotField 24 0 w)) else none
  | 72 => some (.wait c (slotGuard w) (slotField 6 46 w) (slotField 5 41 w) (slotBit 40 w) (slotField 16 24 w) (slotField 24 0 w))
  | 73 => some (.watch c (slotGuard w) (slotField 6 46 w) (slotField 5 41 w) (slotBit 40 w) (slotField 16 24 w) (slotField 24 0 w))
  | 74 => if slotZero 39 24 w then some (.arm c (slotGuard w) (slotField 6 46 w) (slotField 5 41 w) (slotBit 40 w) (slotField 24 0 w)) else none
  | 80 => if slotZero 22 0 w then some (.front c (slotGuard w) (slotField 8 44 w) (slotField 20 24 w) (slotBit 23 w)) else none
  | _ => none

/-- M-slot word of core c. -/
def decodeM (c w : Nat) : Option Instr :=
  match w / 2 ^ 56 with
  | 0 => if w = 0 then some (.nop c .M (slotGuard w)) else none
  | 1 => if slotZero 39 20 w then some (.ld c (slotGuard w) (slotField 4 48 w) (slotField 5 43 w) (slotField 2 41 w) (slotBit 40 w) (slotField 20 0 w)) else none
  | 2 => if slotZero 40 20 w then some (.st c (slotGuard w) (slotField 4 48 w) (slotField 5 43 w) (slotField 2 41 w) (slotField 20 0 w)) else none
  | 3 => if slotZero 42 40 w && slotZero 36 20 w then some (.ldv c (slotGuard w) (slotField 4 48 w) (slotField 5 43 w) (slotField 3 37 w) (slotField 20 0 w)) else none
  | 4 => if slotZero 42 20 w then some (.stv c (slotGuard w) (slotField 4 48 w) (slotField 5 43 w) (slotField 20 0 w)) else none
  | 8 => if slotZero 27 0 w then some (.cget c (slotGuard w) (slotField 4 48 w) (slotField 5 43 w) (slotField 6 37 w) (slotField 6 31 w) (slotField 3 28 w)) else none
  | 9 => if slotZero 30 0 w then some (.cput c (slotGuard w) (slotField 4 48 w) (slotField 5 43 w) (slotField 6 37 w) (slotField 6 31 w)) else none
  | 16 => if slotZero 42 38 w && slotZero 26 0 w then some (.send c (slotGuard w) (slotField 4 48 w) (slotField 5 43 w) (slotField 4 34 w) (slotField 6 28 w) (slotBit 27 w)) else none
  | 17 => if slotZero 51 48 w && slotZero 26 0 w then some (.get c (slotGuard w) (slotField 5 43 w) (slotField 5 38 w) (slotField 4 34 w) (slotField 6 28 w) (slotBit 27 w)) else none
  | 24 => if slotZero 34 0 w then some (.wld c (slotGuard w) (slotField 2 50 w) (slotField 5 45 w) (slotField 4 41 w) (slotField 6 35 w)) else none
  | 25 => if slotZero 42 0 w then some (.wdrop c (slotGuard w) (slotField 9 43 w)) else none
  | 32 => if slotZero 26 0 w then some (.kvld c (slotGuard w) (slotField 2 50 w) (slotField 5 45 w) (slotField 4 41 w) (slotField 8 33 w) (slotField 6 27 w)) else none
  | 33 => if slotZero 24 0 w then some (.kvst c (slotGuard w) (slotField 2 50 w) (slotField 5 45 w) (slotField 4 41 w) (slotField 8 33 w) (slotField 6 27 w) (slotField 2 25 w)) else none
  | 40 => if slotZero 27 0 w then some (.hput c (slotGuard w) (slotField 4 48 w) (slotField 8 40 w) (slotField 6 34 w) (slotField 6 28 w)) else none
  | _ => none

/-- V-slot word of core c. -/
def decodeV (c w : Nat) : Option Instr :=
  match w / 2 ^ 56 with
  | 0 => if w = 0 then some (.nop c .V (slotGuard w)) else none
  | 1 => if slotZero 36 32 w && slotZero 30 0 w then some (.vadd c (slotGuard w) (slotField 5 47 w) (slotField 5 42 w) (slotField 5 37 w) (slotBit 31 w)) else none
  | 2 => if slotZero 36 32 w && slotZero 30 0 w then some (.vsub c (slotGuard w) (slotField 5 47 w) (slotField 5 42 w) (slotField 5 37 w) (slotBit 31 w)) else none
  | 3 => if slotZero 36 32 w && slotZero 30 0 w then some (.vmul c (slotGuard w) (slotField 5 47 w) (slotField 5 42 w) (slotField 5 37 w) (slotBit 31 w)) else none
  | 4 => if slotZero 30 0 w then some (.vfma c (slotGuard w) (slotField 5 47 w) (slotField 5 42 w) (slotField 5 37 w) (slotField 5 32 w) (slotBit 31 w)) else none
  | 5 => if slotZero 36 32 w && slotZero 30 0 w then some (.vmin c (slotGuard w) (slotField 5 47 w) (slotField 5 42 w) (slotField 5 37 w) (slotBit 31 w)) else none
  | 6 => if slotZero 36 32 w && slotZero 30 0 w then some (.vmax c (slotGuard w) (slotField 5 47 w) (slotField 5 42 w) (slotField 5 37 w) (slotBit 31 w)) else none
  | 7 => if slotZero 36 32 w && slotZero 26 0 w then some (.vcmp c (slotGuard w) (slotField 5 47 w) (slotField 5 42 w) (slotField 5 37 w) (slotBit 31 w) (slotField 4 27 w)) else none
  | 8 => if slotZero 30 0 w then some (.vsel c (slotGuard w) (slotField 5 47 w) (slotField 5 42 w) (slotField 5 37 w) (slotField 5 32 w) (slotBit 31 w)) else none
  | 16 => if slotZero 41 32 w && slotZero 30 0 w then some (.vexp c (slotGuard w) (slotField 5 47 w) (slotField 5 42 w) (slotBit 31 w)) else none
  | 17 => if slotZero 41 32 w && slotZero 30 0 w then some (.vlog c (slotGuard w) (slotField 5 47 w) (slotField 5 42 w) (slotBit 31 w)) else none
  | 18 => if slotZero 41 32 w && slotZero 30 0 w then some (.vrcp c (slotGuard w) (slotField 5 47 w) (slotField 5 42 w) (slotBit 31 w)) else none
  | 19 => if slotZero 41 32 w && slotZero 30 0 w then some (.vrsq c (slotGuard w) (slotField 5 47 w) (slotField 5 42 w) (slotBit 31 w)) else none
  | 24 => if slotZero 41 32 w && slotZero 30 0 w then some (.vrsum c (slotGuard w) (slotField 5 47 w) (slotField 5 42 w) (slotBit 31 w)) else none
  | 25 => if slotZero 41 32 w && slotZero 30 0 w then some (.vrmax c (slotGuard w) (slotField 5 47 w) (slotField 5 42 w) (slotBit 31 w)) else none
  | 26 => if slotZero 41 32 w && slotZero 30 0 w then some (.vrmin c (slotGuard w) (slotField 5 47 w) (slotField 5 42 w) (slotBit 31 w)) else none
  | 32 => if slotZero 32 0 w then some (.vcvt c (slotGuard w) (slotField 5 47 w) (slotField 5 42 w) (slotField 4 38 w) (slotField 4 34 w) (slotBit 33 w)) else none
  | 33 => if slotZero 32 0 w then some (.vquant c (slotGuard w) (slotField 5 47 w) (slotField 5 42 w) (slotField 4 38 w) (slotField 4 34 w) (slotBit 33 w)) else none
  | 34 => if slotZero 32 0 w then some (.vdeq c (slotGuard w) (slotField 5 47 w) (slotField 5 42 w) (slotField 4 38 w) (slotField 4 34 w) (slotBit 33 w)) else none
  | 40 => if slotZero 36 32 w && slotZero 30 0 w then some (.vwadd c (slotGuard w) (slotField 5 47 w) (slotField 5 42 w) (slotField 5 37 w) (slotBit 31 w)) else none
  | 41 => if slotZero 41 32 w && slotZero 30 0 w then some (.vwrnd c (slotGuard w) (slotField 5 47 w) (slotField 5 42 w) (slotBit 31 w)) else none
  | 48 => if slotZero 42 0 w then some (.vpop c (slotGuard w) (slotField 5 47 w) (slotField 2 45 w) (slotField 2 43 w)) else none
  | 56 => if slotZero 34 0 w then some (.vext c (slotGuard w) (slotField 5 47 w) (slotField 5 42 w) (slotField 6 36 w) (slotBit 35 w)) else none
  | 57 => if slotZero 41 36 w && slotZero 34 0 w then some (.vsplat c (slotGuard w) (slotField 5 47 w) (slotField 5 42 w) (slotBit 35 w)) else none
  | 58 => if slotZero 35 0 w then some (.vtopm c (slotGuard w) (slotField 5 47 w) (slotField 5 42 w) (slotField 5 37 w) (slotBit 36 w)) else none
  | _ => none

/-- X-slot word of core c. -/
def decodeX (c w : Nat) : Option Instr :=
  match w / 2 ^ 56 with
  | 0 => if w = 0 then some (.nop c .X (slotGuard w)) else none
  | 1 => if slotZero 37 0 w then some (.tld c (slotGuard w) (slotField 4 48 w) (slotBit 47 w) (slotBit 46 w) (slotBit 45 w) (slotField 4 41 w) (slotField 3 38 w)) else none
  | 2 => if slotZero 3 0 w then some (.strm c (slotGuard w) (slotField 4 48 w) (slotField 2 46 w) (slotBit 45 w) (slotField 5 40 w) (slotField 5 35 w) (slotField 5 30 w) (slotField 5 25 w) (slotField 4 21 w) (slotField 3 18 w) (slotField 4 14 w) (slotField 10 4 w)) else none
  | 3 => if slotZero 26 0 w then some (.drn c (slotGuard w) (slotField 2 50 w) (slotField 5 45 w) (slotField 5 40 w) (slotField 2 38 w) (slotBit 37 w) (slotField 4 33 w) (slotField 6 27 w)) else none
  | 4 => if slotZero 26 0 w then some (.ainit c (slotGuard w) (slotField 2 50 w) (slotField 5 45 w) (slotField 5 40 w) (slotField 2 38 w) (slotBit 37 w) (slotField 4 33 w) (slotField 6 27 w)) else none
  | 5 => if slotZero 27 0 w then some (.amode c (slotGuard w) (slotField 4 48 w) (slotBit 47 w) (slotBit 46 w) (slotField 2 44 w) (slotField 16 28 w)) else none
  | 8 => if slotZero 3 0 w then some (.cvt c (slotGuard w) (slotField 2 50 w) (slotBit 49 w) (slotField 4 45 w) (slotField 4 41 w) (slotField 4 37 w) (slotField 2 35 w) (slotField 5 30 w) (slotField 10 20 w) (slotField 10 10 w) (slotField 6 4 w)) else none
  | 9 => some (.cut c (slotGuard w) (slotField 2 50 w) (slotBit 49 w) (slotField 4 45 w) (slotField 5 40 w) (slotField 2 38 w) (slotField 9 29 w) (slotBit 28 w) (slotField 10 18 w) (slotField 6 12 w) (slotField 5 7 w) (slotField 7 0 w))
  | 10 => if slotZero 21 0 w then some (.cout c (slotGuard w) (slotField 2 50 w) (slotBit 49 w) (slotField 5 44 w) (slotField 5 39 w) (slotBit 38 w) (slotField 10 28 w) (slotField 6 22 w)) else none
  | 11 => if slotZero 34 0 w then some (.cmerge c (slotGuard w) (slotField 2 50 w) (slotField 5 45 w) (slotField 5 40 w) (slotField 5 35 w)) else none
  | _ => none

/-- Slot word of core c in slot sl (R104). -/
def decodeSlot (sl : SlotKind) (c w : Nat) : Option Instr :=
  match sl with
  | .S => decodeS c w
  | .M => decodeM c w
  | .V => decodeV c w
  | .X => decodeX c w


/-- Word of an S-slot operation. -/
def encodeS (i : Instr) : Option Nat :=
  match i with
  | .add _ gd d s1 s2 => some (slotHeader 1 gd + d.toNat * 2 ^ 47 + s1.toNat * 2 ^ 42 + s2.toNat * 2 ^ 37)
  | .sub _ gd d s1 s2 => some (slotHeader 2 gd + d.toNat * 2 ^ 47 + s1.toNat * 2 ^ 42 + s2.toNat * 2 ^ 37)
  | .and _ gd d s1 s2 => some (slotHeader 3 gd + d.toNat * 2 ^ 47 + s1.toNat * 2 ^ 42 + s2.toNat * 2 ^ 37)
  | .or _ gd d s1 s2 => some (slotHeader 4 gd + d.toNat * 2 ^ 47 + s1.toNat * 2 ^ 42 + s2.toNat * 2 ^ 37)
  | .xor _ gd d s1 s2 => some (slotHeader 5 gd + d.toNat * 2 ^ 47 + s1.toNat * 2 ^ 42 + s2.toNat * 2 ^ 37)
  | .shl _ gd d s1 s2 => some (slotHeader 6 gd + d.toNat * 2 ^ 47 + s1.toNat * 2 ^ 42 + s2.toNat * 2 ^ 37)
  | .shr _ gd d s1 s2 => some (slotHeader 7 gd + d.toNat * 2 ^ 47 + s1.toNat * 2 ^ 42 + s2.toNat * 2 ^ 37)
  | .sra _ gd d s1 s2 => some (slotHeader 8 gd + d.toNat * 2 ^ 47 + s1.toNat * 2 ^ 42 + s2.toNat * 2 ^ 37)
  | .mul _ gd d s1 s2 => some (slotHeader 9 gd + d.toNat * 2 ^ 47 + s1.toNat * 2 ^ 42 + s2.toNat * 2 ^ 37)
  | .min _ gd d s1 s2 => some (slotHeader 10 gd + d.toNat * 2 ^ 47 + s1.toNat * 2 ^ 42 + s2.toNat * 2 ^ 37)
  | .max _ gd d s1 s2 => some (slotHeader 11 gd + d.toNat * 2 ^ 47 + s1.toNat * 2 ^ 42 + s2.toNat * 2 ^ 37)
  | .addi _ gd d s1 imm => some (slotHeader 16 gd + d.toNat * 2 ^ 47 + s1.toNat * 2 ^ 42 + imm.toNat)
  | .andi _ gd d s1 imm => some (slotHeader 17 gd + d.toNat * 2 ^ 47 + s1.toNat * 2 ^ 42 + imm.toNat)
  | .ori _ gd d s1 imm => some (slotHeader 18 gd + d.toNat * 2 ^ 47 + s1.toNat * 2 ^ 42 + imm.toNat)
  | .xori _ gd d s1 imm => some (slotHeader 19 gd + d.toNat * 2 ^ 47 + s1.toNat * 2 ^ 42 + imm.toNat)
  | .shli _ gd d s1 imm => some (slotHeader 20 gd + d.toNat * 2 ^ 47 + s1.toNat * 2 ^ 42 + imm.toNat)
  | .shri _ gd d s1 imm => some (slotHeader 21 gd + d.toNat * 2 ^ 47 + s1.toNat * 2 ^ 42 + imm.toNat)
  | .srai _ gd d s1 imm => some (slotHeader 22 gd + d.toNat * 2 ^ 47 + s1.toNat * 2 ^ 42 + imm.toNat)
  | .li _ gd d imm => some (slotHeader 23 gd + d.toNat * 2 ^ 47 + imm.toNat)
  | .lih _ gd d imm => some (slotHeader 24 gd + d.toNat * 2 ^ 47 + imm.toNat)
  | .cmp _ gd pd cond s1 s2 im imm => some (slotHeader 32 gd + pd.toNat * 2 ^ 49 + cond.toNat * 2 ^ 45 + s1.toNat * 2 ^ 40 + s2.toNat * 2 ^ 35 + boolBit im 34 + imm.toNat)
  | .plog _ gd pd ps1 n1 ps2 n2 fn => some (slotHeader 33 gd + pd.toNat * 2 ^ 49 + ps1.toNat * 2 ^ 46 + boolBit n1 45 + ps2.toNat * 2 ^ 42 + boolBit n2 41 + fn.toNat * 2 ^ 39)
  | .amov _ gd d s1 => some (slotHeader 40 gd + d.toNat * 2 ^ 47 + s1.toNat * 2 ^ 42)
  | .gmov _ gd d s1 => some (slotHeader 41 gd + d.toNat * 2 ^ 47 + s1.toNat * 2 ^ 42)
  | .aadd _ gd d s1 imm => some (slotHeader 42 gd + d.toNat * 2 ^ 47 + s1.toNat * 2 ^ 42 + imm.toNat)
  | .aaddg _ gd d s1 s2 => some (slotHeader 43 gd + d.toNat * 2 ^ 47 + s1.toNat * 2 ^ 42 + s2.toNat * 2 ^ 37)
  | .br _ gd off => some (slotHeader 48 gd + off.toNat)
  | .bdec _ gd g off => some (slotHeader 49 gd + g.toNat * 2 ^ 47 + off.toNat)
  | .jr _ gd g => some (slotHeader 50 gd + g.toNat * 2 ^ 47)
  | .jal _ gd g off => some (slotHeader 51 gd + g.toNat * 2 ^ 47 + off.toNat)
  | .rdsh _ gd d s1 => some (slotHeader 56 gd + d.toNat * 2 ^ 47 + s1.toNat * 2 ^ 42)
  | .rdcyc _ gd d => some (slotHeader 57 gd + d.toNat * 2 ^ 47)
  | .rdcc _ gd cc g => some (slotHeader 58 gd + cc.toNat * 2 ^ 46 + g.toNat * 2 ^ 41)
  | .cset _ gd cc g src imm => some (slotHeader 64 gd + cc.toNat * 2 ^ 46 + g.toNat * 2 ^ 41 + boolBit src 40 + imm.toNat)
  | .cadd _ gd cc g src imm => some (slotHeader 65 gd + cc.toNat * 2 ^ 46 + g.toNat * 2 ^ 41 + boolBit src 40 + imm.toNat)
  | .csub _ gd cc g src imm => some (slotHeader 66 gd + cc.toNat * 2 ^ 46 + g.toNat * 2 ^ 41 + boolBit src 40 + imm.toNat)
  | .wait _ gd cc g src d imm => some (slotHeader 72 gd + cc.toNat * 2 ^ 46 + g.toNat * 2 ^ 41 + boolBit src 40 + d.toNat * 2 ^ 24 + imm.toNat)
  | .watch _ gd cc g src d imm => some (slotHeader 73 gd + cc.toNat * 2 ^ 46 + g.toNat * 2 ^ 41 + boolBit src 40 + d.toNat * 2 ^ 24 + imm.toNat)
  | .arm _ gd cc g src imm => some (slotHeader 74 gd + cc.toNat * 2 ^ 46 + g.toNat * 2 ^ 41 + boolBit src 40 + imm.toNat)
  | .front _ gd num bound stp => some (slotHeader 80 gd + num.toNat * 2 ^ 44 + bound.toNat * 2 ^ 24 + boolBit stp 23)
  | _ => none

/-- Word of an M-slot operation. -/
def encodeM (i : Instr) : Option Nat :=
  match i with
  | .ld _ gd a reg size sx off => some (slotHeader 1 gd + a.toNat * 2 ^ 48 + reg.toNat * 2 ^ 43 + size.toNat * 2 ^ 41 + boolBit sx 40 + off.toNat)
  | .st _ gd a reg size off => some (slotHeader 2 gd + a.toNat * 2 ^ 48 + reg.toNat * 2 ^ 43 + size.toNat * 2 ^ 41 + off.toNat)
  | .ldv _ gd a reg tm off => some (slotHeader 3 gd + a.toNat * 2 ^ 48 + reg.toNat * 2 ^ 43 + tm.toNat * 2 ^ 37 + off.toNat)
  | .stv _ gd a reg off => some (slotHeader 4 gd + a.toNat * 2 ^ 48 + reg.toNat * 2 ^ 43 + off.toNat)
  | .cget _ gd a g cc lines tm => some (slotHeader 8 gd + a.toNat * 2 ^ 48 + g.toNat * 2 ^ 43 + cc.toNat * 2 ^ 37 + lines.toNat * 2 ^ 31 + tm.toNat * 2 ^ 28)
  | .cput _ gd a g cc lines => some (slotHeader 9 gd + a.toNat * 2 ^ 48 + g.toNat * 2 ^ 43 + cc.toNat * 2 ^ 37 + lines.toNat * 2 ^ 31)
  | .send _ gd a gH flits cc lc => some (slotHeader 16 gd + a.toNat * 2 ^ 48 + gH.toNat * 2 ^ 43 + flits.toNat * 2 ^ 34 + cc.toNat * 2 ^ 28 + boolBit lc 27)
  | .get _ gd gH gR flits cc lc => some (slotHeader 17 gd + gH.toNat * 2 ^ 43 + gR.toNat * 2 ^ 38 + flits.toNat * 2 ^ 34 + cc.toNat * 2 ^ 28 + boolBit lc 27)
  | .wld _ gd wafer g pages cc => some (slotHeader 24 gd + wafer.toNat * 2 ^ 50 + g.toNat * 2 ^ 45 + pages.toNat * 2 ^ 41 + cc.toNat * 2 ^ 35)
  | .wdrop _ gd granules => some (slotHeader 25 gd + granules.toNat * 2 ^ 43)
  | .kvld _ gd area g a lines cc => some (slotHeader 32 gd + area.toNat * 2 ^ 50 + g.toNat * 2 ^ 45 + a.toNat * 2 ^ 41 + lines.toNat * 2 ^ 33 + cc.toNat * 2 ^ 27)
  | .kvst _ gd area g a lines cc qm => some (slotHeader 33 gd + area.toNat * 2 ^ 50 + g.toNat * 2 ^ 45 + a.toNat * 2 ^ 41 + lines.toNat * 2 ^ 33 + cc.toNat * 2 ^ 27 + qm.toNat * 2 ^ 25)
  | .hput _ gd a kind cc lines => some (slotHeader 40 gd + a.toNat * 2 ^ 48 + kind.toNat * 2 ^ 40 + cc.toNat * 2 ^ 34 + lines.toNat * 2 ^ 28)
  | _ => none

/-- Word of an V-slot operation. -/
def encodeV (i : Instr) : Option Nat :=
  match i with
  | .vadd _ gd vd vs1 vs2 ty => some (slotHeader 1 gd + vd.toNat * 2 ^ 47 + vs1.toNat * 2 ^ 42 + vs2.toNat * 2 ^ 37 + boolBit ty 31)
  | .vsub _ gd vd vs1 vs2 ty => some (slotHeader 2 gd + vd.toNat * 2 ^ 47 + vs1.toNat * 2 ^ 42 + vs2.toNat * 2 ^ 37 + boolBit ty 31)
  | .vmul _ gd vd vs1 vs2 ty => some (slotHeader 3 gd + vd.toNat * 2 ^ 47 + vs1.toNat * 2 ^ 42 + vs2.toNat * 2 ^ 37 + boolBit ty 31)
  | .vfma _ gd vd vs1 vs2 vs3 ty => some (slotHeader 4 gd + vd.toNat * 2 ^ 47 + vs1.toNat * 2 ^ 42 + vs2.toNat * 2 ^ 37 + vs3.toNat * 2 ^ 32 + boolBit ty 31)
  | .vmin _ gd vd vs1 vs2 ty => some (slotHeader 5 gd + vd.toNat * 2 ^ 47 + vs1.toNat * 2 ^ 42 + vs2.toNat * 2 ^ 37 + boolBit ty 31)
  | .vmax _ gd vd vs1 vs2 ty => some (slotHeader 6 gd + vd.toNat * 2 ^ 47 + vs1.toNat * 2 ^ 42 + vs2.toNat * 2 ^ 37 + boolBit ty 31)
  | .vcmp _ gd vd vs1 vs2 ty cond => some (slotHeader 7 gd + vd.toNat * 2 ^ 47 + vs1.toNat * 2 ^ 42 + vs2.toNat * 2 ^ 37 + boolBit ty 31 + cond.toNat * 2 ^ 27)
  | .vsel _ gd vd vs1 vs2 vs3 ty => some (slotHeader 8 gd + vd.toNat * 2 ^ 47 + vs1.toNat * 2 ^ 42 + vs2.toNat * 2 ^ 37 + vs3.toNat * 2 ^ 32 + boolBit ty 31)
  | .vexp _ gd vd vs1 ty => some (slotHeader 16 gd + vd.toNat * 2 ^ 47 + vs1.toNat * 2 ^ 42 + boolBit ty 31)
  | .vlog _ gd vd vs1 ty => some (slotHeader 17 gd + vd.toNat * 2 ^ 47 + vs1.toNat * 2 ^ 42 + boolBit ty 31)
  | .vrcp _ gd vd vs1 ty => some (slotHeader 18 gd + vd.toNat * 2 ^ 47 + vs1.toNat * 2 ^ 42 + boolBit ty 31)
  | .vrsq _ gd vd vs1 ty => some (slotHeader 19 gd + vd.toNat * 2 ^ 47 + vs1.toNat * 2 ^ 42 + boolBit ty 31)
  | .vrsum _ gd vd vs1 ty => some (slotHeader 24 gd + vd.toNat * 2 ^ 47 + vs1.toNat * 2 ^ 42 + boolBit ty 31)
  | .vrmax _ gd vd vs1 ty => some (slotHeader 25 gd + vd.toNat * 2 ^ 47 + vs1.toNat * 2 ^ 42 + boolBit ty 31)
  | .vrmin _ gd vd vs1 ty => some (slotHeader 26 gd + vd.toNat * 2 ^ 47 + vs1.toNat * 2 ^ 42 + boolBit ty 31)
  | .vcvt _ gd vd vs1 sf df h => some (slotHeader 32 gd + vd.toNat * 2 ^ 47 + vs1.toNat * 2 ^ 42 + sf.toNat * 2 ^ 38 + df.toNat * 2 ^ 34 + boolBit h 33)
  | .vquant _ gd vd vs1 sf df h => some (slotHeader 33 gd + vd.toNat * 2 ^ 47 + vs1.toNat * 2 ^ 42 + sf.toNat * 2 ^ 38 + df.toNat * 2 ^ 34 + boolBit h 33)
  | .vdeq _ gd vd vs1 sf df h => some (slotHeader 34 gd + vd.toNat * 2 ^ 47 + vs1.toNat * 2 ^ 42 + sf.toNat * 2 ^ 38 + df.toNat * 2 ^ 34 + boolBit h 33)
  | .vwadd _ gd vd vs1 vs2 ty => some (slotHeader 40 gd + vd.toNat * 2 ^ 47 + vs1.toNat * 2 ^ 42 + vs2.toNat * 2 ^ 37 + boolBit ty 31)
  | .vwrnd _ gd vd vs1 ty => some (slotHeader 41 gd + vd.toNat * 2 ^ 47 + vs1.toNat * 2 ^ 42 + boolBit ty 31)
  | .vpop _ gd vd arr grp => some (slotHeader 48 gd + vd.toNat * 2 ^ 47 + arr.toNat * 2 ^ 45 + grp.toNat * 2 ^ 43)
  | .vext _ gd d s1 lane ty => some (slotHeader 56 gd + d.toNat * 2 ^ 47 + s1.toNat * 2 ^ 42 + lane.toNat * 2 ^ 36 + boolBit ty 35)
  | .vsplat _ gd d s1 ty => some (slotHeader 57 gd + d.toNat * 2 ^ 47 + s1.toNat * 2 ^ 42 + boolBit ty 35)
  | .vtopm _ gd vd vs1 gs init => some (slotHeader 58 gd + vd.toNat * 2 ^ 47 + vs1.toNat * 2 ^ 42 + gs.toNat * 2 ^ 37 + boolBit init 36)
  | _ => none

/-- Word of an X-slot operation. -/
def encodeX (i : Instr) : Option Nat :=
  match i with
  | .tld _ gd amask slot sc src a tm => some (slotHeader 1 gd + amask.toNat * 2 ^ 48 + boolBit slot 47 + boolBit sc 46 + boolBit src 45 + a.toNat * 2 ^ 41 + tm.toNat * 2 ^ 38)
  | .strm _ gd amask tsrc opn b len gV gM a af asr anchor => some (slotHeader 2 gd + amask.toNat * 2 ^ 48 + tsrc.toNat * 2 ^ 46 + boolBit opn 45 + b.toNat * 2 ^ 40 + len.toNat * 2 ^ 35 + gV.toNat * 2 ^ 30 + gM.toNat * 2 ^ 25 + a.toNat * 2 ^ 21 + af.toNat * 2 ^ 18 + asr.toNat * 2 ^ 14 + anchor.toNat * 2 ^ 4)
  | .drn _ gd arr r0 rows form dst a cc => some (slotHeader 3 gd + arr.toNat * 2 ^ 50 + r0.toNat * 2 ^ 45 + rows.toNat * 2 ^ 40 + form.toNat * 2 ^ 38 + boolBit dst 37 + a.toNat * 2 ^ 33 + cc.toNat * 2 ^ 27)
  | .ainit _ gd arr r0 rows form dst a cc => some (slotHeader 4 gd + arr.toNat * 2 ^ 50 + r0.toNat * 2 ^ 45 + rows.toNat * 2 ^ 40 + form.toNat * 2 ^ 38 + boolBit dst 37 + a.toNat * 2 ^ 33 + cc.toNat * 2 ^ 27)
  | .amode _ gd wf ae xm nc ceil => some (slotHeader 5 gd + wf.toNat * 2 ^ 48 + boolBit ae 47 + boolBit xm 46 + nc.toNat * 2 ^ 44 + ceil.toNat * 2 ^ 28)
  | .cvt _ gd rank vsrc av ax asr af p ks anchor cc => some (slotHeader 8 gd + rank.toNat * 2 ^ 50 + boolBit vsrc 49 + av.toNat * 2 ^ 45 + ax.toNat * 2 ^ 41 + asr.toNat * 2 ^ 37 + af.toNat * 2 ^ 35 + p.toNat * 2 ^ 30 + ks.toNat * 2 ^ 20 + anchor.toNat * 2 ^ 10 + cc.toNat * 2 ^ 4)
  | .cut _ gd rank usrc au p outs grp opn anchor cc rbase ns => some (slotHeader 9 gd + rank.toNat * 2 ^ 50 + boolBit usrc 49 + au.toNat * 2 ^ 45 + p.toNat * 2 ^ 40 + outs.toNat * 2 ^ 38 + grp.toNat * 2 ^ 29 + boolBit opn 28 + anchor.toNat * 2 ^ 18 + cc.toNat * 2 ^ 12 + rbase.toNat * 2 ^ 7 + ns.toNat)
  | .cout _ gd arr half p rbase opn anchor cc => some (slotHeader 10 gd + arr.toNat * 2 ^ 50 + boolBit half 49 + p.toNat * 2 ^ 44 + rbase.toNat * 2 ^ 39 + boolBit opn 38 + anchor.toNat * 2 ^ 28 + cc.toNat * 2 ^ 22)
  | .cmerge _ gd arr b rbase rows => some (slotHeader 11 gd + arr.toNat * 2 ^ 50 + b.toNat * 2 ^ 45 + rbase.toNat * 2 ^ 40 + rows.toNat * 2 ^ 35)
  | _ => none

/-- Slot and word of a slot operation; none for a command that is no slot operation. -/
def encodeSlot (i : Instr) : Option (SlotKind × Nat) :=
  match i with
  | .nop _ sl _ => some (sl, 0)
  | i =>
    match encodeS i, encodeM i, encodeV i, encodeX i with
    | some w, _, _, _ => some (.S, w)
    | _, some w, _, _ => some (.M, w)
    | _, _, some w, _ => some (.V, w)
    | _, _, _, some w => some (.X, w)
    | _, _, _, _ => none

/-- The core a slot operation names. -/
def slotCore (i : Instr) : Option Nat :=
  match i with
  | .nop c _ _ => some c
  | .add c _ _ _ _ => some c
  | .sub c _ _ _ _ => some c
  | .and c _ _ _ _ => some c
  | .or c _ _ _ _ => some c
  | .xor c _ _ _ _ => some c
  | .shl c _ _ _ _ => some c
  | .shr c _ _ _ _ => some c
  | .sra c _ _ _ _ => some c
  | .mul c _ _ _ _ => some c
  | .min c _ _ _ _ => some c
  | .max c _ _ _ _ => some c
  | .addi c _ _ _ _ => some c
  | .andi c _ _ _ _ => some c
  | .ori c _ _ _ _ => some c
  | .xori c _ _ _ _ => some c
  | .shli c _ _ _ _ => some c
  | .shri c _ _ _ _ => some c
  | .srai c _ _ _ _ => some c
  | .li c _ _ _ => some c
  | .lih c _ _ _ => some c
  | .cmp c _ _ _ _ _ _ _ => some c
  | .plog c _ _ _ _ _ _ _ => some c
  | .amov c _ _ _ => some c
  | .gmov c _ _ _ => some c
  | .aadd c _ _ _ _ => some c
  | .aaddg c _ _ _ _ => some c
  | .br c _ _ => some c
  | .bdec c _ _ _ => some c
  | .jr c _ _ => some c
  | .jal c _ _ _ => some c
  | .rdsh c _ _ _ => some c
  | .rdcyc c _ _ => some c
  | .rdcc c _ _ _ => some c
  | .cset c _ _ _ _ _ => some c
  | .cadd c _ _ _ _ _ => some c
  | .csub c _ _ _ _ _ => some c
  | .wait c _ _ _ _ _ _ => some c
  | .watch c _ _ _ _ _ _ => some c
  | .arm c _ _ _ _ _ => some c
  | .front c _ _ _ _ => some c
  | .ld c _ _ _ _ _ _ => some c
  | .st c _ _ _ _ _ => some c
  | .ldv c _ _ _ _ _ => some c
  | .stv c _ _ _ _ => some c
  | .cget c _ _ _ _ _ _ => some c
  | .cput c _ _ _ _ _ => some c
  | .send c _ _ _ _ _ _ => some c
  | .get c _ _ _ _ _ _ => some c
  | .wld c _ _ _ _ _ => some c
  | .wdrop c _ _ => some c
  | .kvld c _ _ _ _ _ _ => some c
  | .kvst c _ _ _ _ _ _ _ => some c
  | .hput c _ _ _ _ _ => some c
  | .vadd c _ _ _ _ _ => some c
  | .vsub c _ _ _ _ _ => some c
  | .vmul c _ _ _ _ _ => some c
  | .vfma c _ _ _ _ _ _ => some c
  | .vmin c _ _ _ _ _ => some c
  | .vmax c _ _ _ _ _ => some c
  | .vcmp c _ _ _ _ _ _ => some c
  | .vsel c _ _ _ _ _ _ => some c
  | .vexp c _ _ _ _ => some c
  | .vlog c _ _ _ _ => some c
  | .vrcp c _ _ _ _ => some c
  | .vrsq c _ _ _ _ => some c
  | .vrsum c _ _ _ _ => some c
  | .vrmax c _ _ _ _ => some c
  | .vrmin c _ _ _ _ => some c
  | .vcvt c _ _ _ _ _ _ => some c
  | .vquant c _ _ _ _ _ _ => some c
  | .vdeq c _ _ _ _ _ _ => some c
  | .vwadd c _ _ _ _ _ => some c
  | .vwrnd c _ _ _ _ => some c
  | .vpop c _ _ _ _ => some c
  | .vext c _ _ _ _ _ => some c
  | .vsplat c _ _ _ _ => some c
  | .vtopm c _ _ _ _ _ => some c
  | .tld c _ _ _ _ _ _ _ => some c
  | .strm c _ _ _ _ _ _ _ _ _ _ _ _ => some c
  | .drn c _ _ _ _ _ _ _ _ => some c
  | .ainit c _ _ _ _ _ _ _ _ => some c
  | .amode c _ _ _ _ _ _ => some c
  | .cvt c _ _ _ _ _ _ _ _ _ _ _ => some c
  | .cut c _ _ _ _ _ _ _ _ _ _ _ _ => some c
  | .cout c _ _ _ _ _ _ _ _ => some c
  | .cmerge c _ _ _ _ _ => some c
  | _ => none

/-- The four slot words of a 32-byte bundle, S first (R104). -/
def bundleWords (w : Nat) : Nat × Nat × Nat × Nat :=
  (w % 2 ^ 64, w / 2 ^ 64 % 2 ^ 64, w / 2 ^ 128 % 2 ^ 64, w / 2 ^ 192 % 2 ^ 64)

end Sys2Proof
end

