-- ==== Sys2Proof/Machine/Num.lean ====
section
/-! DEFINITION. Number formats, rounding, conversions, the quantiser and the exact accumulator (chapter 02,
R32-R58). Finite values are exact dyadic numbers; every rounding is round-to-nearest-even and happens in one place. -/

namespace Sys2Proof.Machine

open Sys2Proof

/-- An exact dyadic number `m * 2^e`. -/
structure Dy where
  m : Int
  e : Int
deriving DecidableEq, Repr

/-- A decoded floating-point value: a finite one with its sign kept for zero, an infinity, or a NaN. -/
inductive FV where
  | num (neg : Bool) (m : Nat) (e : Int)
  | inf (neg : Bool)
  | nan
deriving DecidableEq, Repr

/-! ### Exact dyadic arithmetic -/

/-- `m * 2^k` for a natural `k` given as an Int known to be at least 0. -/
def shlInt (m : Int) (k : Int) : Int := m * (2 ^ k.toNat : Nat)

def Dy.zero : Dy := ⟨0, 0⟩

def Dy.add (a b : Dy) : Dy :=
  let e := min a.e b.e
  ⟨shlInt a.m (a.e - e) + shlInt b.m (b.e - e), e⟩

def Dy.mul (a b : Dy) : Dy := ⟨a.m * b.m, a.e + b.e⟩

def Dy.neg (a : Dy) : Dy := ⟨-a.m, a.e⟩

def Dy.pow2 (e : Int) : Dy := ⟨1, e⟩

/-- `a < b`. -/
def Dy.lt (a b : Dy) : Bool :=
  let e := min a.e b.e
  decide (shlInt a.m (a.e - e) < shlInt b.m (b.e - e))

def Dy.sum (l : List Dy) : Dy := l.foldl Dy.add Dy.zero

/-- The finite value, 0 for an infinity or a NaN. -/
def FV.dy : FV → Dy
  | .num n m e => ⟨if n then -(m : Int) else m, e⟩
  | _ => Dy.zero

def FV.finite : FV → Bool
  | .num _ _ _ => true
  | _ => false

def FV.isNan : FV → Bool
  | .nan => true
  | _ => false

def FV.isZero : FV → Bool
  | .num _ 0 _ => true
  | _ => false

def FV.isNeg : FV → Bool
  | .num n _ _ => n
  | .inf n => n
  | .nan => false

/-- A dyadic number as a value; an exact zero gets the sign given. -/
def FV.ofDy (d : Dy) (zneg : Bool := false) : FV :=
  if d.m = 0 then .num zneg 0 0 else .num (decide (d.m < 0)) d.m.natAbs d.e

def FV.neg : FV → FV
  | .num n m e => .num (!n) m e
  | .inf n => .inf (!n)
  | .nan => .nan

def FV.abs : FV → FV
  | .num _ m e => .num false m e
  | .inf _ => .inf false
  | .nan => .nan

/-- IEEE addition before rounding (R56). An exact cancellation gives +0. -/
def FV.add : FV → FV → FV
  | .nan, _ => .nan
  | _, .nan => .nan
  | .inf a, .inf b => if a = b then .inf a else .nan
  | .inf a, .num _ _ _ => .inf a
  | .num _ _ _, .inf b => .inf b
  | .num n m e, .num n' m' e' => .ofDy (Dy.add (FV.dy (.num n m e)) (FV.dy (.num n' m' e'))) (n && n')

/-- IEEE multiplication before rounding (R56). -/
def FV.mul : FV → FV → FV
  | .nan, _ => .nan
  | _, .nan => .nan
  | .inf a, .inf b => .inf (a != b)
  | .inf a, .num n m _ => if m = 0 then .nan else .inf (a != n)
  | .num n m _, .inf b => if m = 0 then .nan else .inf (n != b)
  | .num n m e, .num n' m' e' => .num (n != n') (m * m') (e + e')

/-- Ordered comparison of two values that are not NaN, with -0 equal to +0. -/
def FV.lt : FV → FV → Bool
  | .nan, _ => false
  | _, .nan => false
  | .inf a, .inf b => a && !b
  | .inf a, .num _ _ _ => a
  | .num _ _ _, .inf b => !b
  | .num n m e, .num n' m' e' => Dy.lt (FV.dy (.num n m e)) (FV.dy (.num n' m' e'))

def FV.eqv : FV → FV → Bool
  | .nan, _ => false
  | _, .nan => false
  | x, y => !FV.lt x y && !FV.lt y x

/-! ### Rounding -/

/-- Bit length. -/
def bitLen (m : Nat) : Nat := if m = 0 then 0 else m.log2 + 1

/-- Round-to-nearest-even of `m` divided by `2^sh`; `sticky` says that something nonzero lies below `m`. -/
def rneShift (m sh : Nat) (sticky : Bool) : Nat :=
  if sh = 0 then m
  else
    let keep := m / 2 ^ sh
    let rem := m % 2 ^ sh
    let half := 2 ^ (sh - 1)
    if half < rem ∨ (rem = half ∧ (sticky = true ∨ keep % 2 = 1)) then keep + 1 else keep

/-- Magnitude code of `m * 2^e` in a format with `p` significant bits whose smallest positive value is `2^emin`:
exponent field and fraction as one number, with no upper limit. Subnormals come out by themselves (R32). -/
def magCode (p : Nat) (emin : Int) (m : Nat) (e : Int) (sticky : Bool := false) : Nat :=
  if m = 0 then 0
  else
    let q := max (e + (bitLen m : Int) - (p : Int)) emin
    let keep := if q ≤ e then m * 2 ^ (e - q).toNat else rneShift m (q - e).toNat sticky
    (q - emin).toNat * 2 ^ (p - 1) + keep

/-- Round-to-nearest-even of the magnitude `m * 2^e` to an integer. -/
def magInt (m : Nat) (e : Int) : Nat :=
  if 0 ≤ e then m * 2 ^ e.toNat else rneShift m (-e).toNat false

/-! ### FP32, BF16 and FP16 -/

/-- Decodes an IEEE-shaped code of `eb` exponent and `mb` fraction bits (R32). -/
def decIeee (eb mb : Nat) (w : Nat) : FV :=
  let frac := w % 2 ^ mb
  let ex := w / 2 ^ mb % 2 ^ eb
  let neg := decide (w / 2 ^ (mb + eb) % 2 = 1)
  let bias : Int := 2 ^ (eb - 1) - 1
  if ex = 2 ^ eb - 1 then (if frac = 0 then .inf neg else .nan)
  else if ex = 0 then .num neg frac (1 - bias - mb)
  else .num neg (2 ^ mb + frac) ((ex : Int) - bias - mb)

/-- Encodes by RNE into an IEEE-shaped format; overflow gives an infinity; any NaN is the canonical one (R40, R56). -/
def encIeee (eb mb : Nat) (sticky : Bool) : FV → Nat
  | .nan => (2 ^ eb - 1) * 2 ^ mb + 2 ^ (mb - 1)
  | .inf n => (if n then 2 ^ (eb + mb) else 0) + (2 ^ eb - 1) * 2 ^ mb
  | .num n m e =>
    let emin : Int := 2 - 2 ^ (eb - 1) - mb
    (if n then 2 ^ (eb + mb) else 0) + min (magCode (mb + 1) emin m e sticky) ((2 ^ eb - 1) * 2 ^ mb)

def decFp32 (w : BitVec 32) : FV := decIeee 8 23 w.toNat
def encFp32 (v : FV) : BitVec 32 := BitVec.ofNat 32 (encIeee 8 23 false v)
def decBf16 (w : BitVec 16) : FV := decIeee 8 7 w.toNat
def encBf16 (v : FV) : BitVec 16 := BitVec.ofNat 16 (encIeee 8 7 false v)
def decFp16 (w : BitVec 16) : FV := decIeee 5 10 w.toNat
def encFp16 (v : FV) : BitVec 16 := BitVec.ofNat 16 (encIeee 5 10 false v)

/-- Canonical FP32 NaN (R40). -/
def nan32 : BitVec 32 := 0x7FC00000

/-! ### FP8, FP4, integers and ternary -/

def decE4m3 (w : Nat) : FV :=
  let frac := w % 8
  let ex := w / 8 % 16
  let neg := decide (w / 128 % 2 = 1)
  if ex = 15 ∧ frac = 7 then .nan
  else if ex = 0 then .num neg frac (-9)
  else .num neg (8 + frac) ((ex : Int) - 10)

def decE5m2 (w : Nat) : FV := decIeee 5 2 (w % 256)

def decFp4 (w : Nat) : FV :=
  let frac := w % 2
  let ex := w / 2 % 4
  let neg := decide (w / 8 % 2 = 1)
  if ex = 0 then .num neg frac (-1) else .num neg (2 + frac) ((ex : Int) - 2)

/-- Two's complement integer of `n` bits. -/
def decInt (n : Nat) (w : Nat) : FV :=
  let v := w % 2 ^ n
  if v < 2 ^ (n - 1) then .num false v 0 else .num true (2 ^ n - v) 0

/-- Ternary code (R33): 10b decodes as 0. -/
def decTern (w : Nat) : FV :=
  match w % 4 with
  | 1 => .num false 1 0
  | 3 => .num true 1 0
  | _ => .num false 0 0

/-- The element formats a conversion or a block names (R32). -/
inductive EFmt where
  | e4m3 | e5m2 | int8 | fp4 | int4
deriving DecidableEq, Repr

def EFmt.bits : EFmt → Nat
  | .e4m3 => 8 | .e5m2 => 8 | .int8 => 8 | .fp4 => 4 | .int4 => 4

def decElem : EFmt → Nat → FV
  | .e4m3, w => decE4m3 w
  | .e5m2, w => decE5m2 w
  | .int8, w => decInt 8 w
  | .fp4, w => decFp4 w
  | .int4, w => decInt 4 w

/-- Saturating RNE into a small float: precision, exponent of the smallest value, largest finite code, sign bit. -/
def satFloat (p : Nat) (emin : Int) (top sgn : Nat) : FV → Nat
  | .nan => 0
  | .inf n => (if n then sgn else 0) + top
  | .num n m e => (if n then sgn else 0) + min (magCode p emin m e) top

/-- Saturating RNE into a two's complement integer of `n` bits. -/
def satInt (n : Nat) : FV → Nat
  | .nan => 0
  | .inf neg => if neg then 2 ^ (n - 1) else 2 ^ (n - 1) - 1
  | .num neg m e =>
    if neg then (2 ^ n - min (magInt m e) (2 ^ (n - 1))) % 2 ^ n else min (magInt m e) (2 ^ (n - 1) - 1)

/-- Conversion of a value into a narrow element format (R40): RNE, saturating, NaN gives +0. -/
def encElem : EFmt → FV → Nat
  | .e4m3, v => satFloat 4 (-9) 0x7E 128 v
  | .e5m2, v => satFloat 3 (-16) 0x7B 128 v
  | .fp4, v => satFloat 2 (-1) 7 8 v
  | .int8, v => satInt 8 v
  | .int4, v => satInt 4 v

/-! ### Scales and blocks (R35, R36) -/

/-- E8M0 scale: none for code FFh, which makes every element 0. -/
def decE8m0 (s : Nat) : Option Dy := if s % 256 = 255 then none else some (Dy.pow2 ((s % 256 : Nat) - 127))

/-- BF16 scale: none for an infinity or a NaN, which makes every governed value 0 (R36). -/
def decScale16 (w : BitVec 16) : Option Dy :=
  match decBf16 w with
  | .num n m e => some (FV.dy (.num n m e))
  | _ => none

/-- A value times a scale; 0 when the scale is none or the value is not finite (R36, R43). -/
def scaleZ (v : FV) (s : Option Dy) : Dy :=
  match s with
  | some d => Dy.mul v.dy d
  | none => Dy.zero

/-- Element times scale for a conversion out of a block format (R40): a scale of none gives +0, a special element
stays special. -/
def scaleV (v : FV) (s : Option Dy) : FV :=
  match s with
  | some d => FV.mul v (FV.ofDy d)
  | none => .num false 0 0

/-- The block formats (R35). -/
inductive BFmt where
  | mx8 (e5m2 : Bool) | mx4 | t2
deriving DecidableEq, Repr

/-- Block length in elements. -/
def BFmt.len : BFmt → Nat
  | .t2 => 64
  | _ => 32

/-- `E = c * 2^k`, the largest finite element (R39 step 4). -/
def BFmt.top : BFmt → Nat × Int
  | .mx8 false => (7, 6)
  | .mx8 true => (7, 13)
  | .mx4 => (3, 1)
  | .t2 => (1, 0)

/-- The smallest integer e with `a * 2^b <= c * 2^(k + e)`, for positive a (R39 step 4). -/
def scaleExp (a : Nat) (b : Int) (c : Nat) (k : Int) : Int :=
  let d := (a.log2 : Int) + b - ((c.log2 : Int) + k)
  if a * 2 ^ c.log2 ≤ c * 2 ^ a.log2 then d else d + 1

/-- The larger of two magnitudes; a NaN counts as zero (R39 steps 1, 2). -/
def magMax (x y : FV) : FV :=
  let u := if x.isNan then FV.num false 0 0 else x.abs
  let v := if y.isNan then FV.num false 0 0 else y.abs
  if FV.lt u v then v else u

def blockMax (vs : List FV) : FV := vs.foldl magMax (.num false 0 0)

def elemOf : BFmt → EFmt
  | .mx8 true => .e5m2
  | .mx4 => .fp4
  | _ => .e4m3

/-- Element code by R39 step 6 for a power-of-two scale `2^se`. -/
def quantElem (f : EFmt) (se : Int) (v : FV) : Nat :=
  match v with
  | .nan => 0
  | .inf n => encElem f (.inf n)
  | .num n m e =>
    let c := encElem f (.num n m (e - se))
    if c % 2 ^ (f.bits - 1) = 0 then 0 else c

/-- Ternary code by R39 step 6 for the scale s. -/
def quantTern (s : Dy) (v : FV) : Nat :=
  match v with
  | .nan => 0
  | .inf n => if n then 3 else 1
  | .num n m e => if Dy.lt s ⟨2 * (m : Int), e⟩ then (if n then 3 else 1) else 0

/-- The quantiser with the block maximum given (R39; R54 lowers the maximum): scale code and element codes. -/
def quantiseWith (fmt : BFmt) (m : FV) (vs : List FV) : Nat × List Nat :=
  if m.isZero then (0, vs.map fun _ => 0)
  else
    match fmt with
    | .t2 =>
      let s := min (encIeee 8 7 false m) 0x7F7F
      if s = 0 then (0, vs.map fun _ => 0)
      else (s, vs.map (quantTern (decIeee 8 7 s).dy))
    | f =>
      let (c, k) := f.top
      let code : Nat :=
        match m with
        | .num _ a b => (max 0 (min 254 (scaleExp a b c k + 127))).toNat
        | _ => 254
      (code, vs.map (quantElem (elemOf f) ((code : Int) - 127)))

/-- The quantiser (R39). -/
def quantise (fmt : BFmt) (vs : List FV) : Nat × List Nat := quantiseWith fmt (blockMax vs) vs

/-- Value of element code w of a block with scale code s (R35, R36), specials kept; the sign of a zero is that of the
element times that of a BF16 scale (R40). -/
def decBlock (fmt : BFmt) (s w : Nat) : FV :=
  match fmt with
  | .t2 => if (decBf16 (BitVec.ofNat 16 s)).finite then FV.mul (decTern w) (decBf16 (BitVec.ofNat 16 s)) else .num false 0 0
  | f => scaleV (decElem (elemOf f) w) (decE8m0 s)

/-! ### Exact accumulation (R45-R48) -/

/-- `floor(v / 2^a) mod 2^96`. -/
def place (v : Dy) (a : Int) : BitVec 96 :=
  if a ≤ v.e then BitVec.ofInt 96 (shlInt v.m (v.e - a))
  else BitVec.ofInt 96 (v.m / (2 ^ (a - v.e).toNat : Nat))

/-- The rounded drain of an exact accumulator (R47). -/
def roundExact (acc : BitVec 96) (a : Int) : BitVec 32 := encFp32 (FV.ofDy ⟨acc.toInt, a⟩)

/-- One fast-mode addition: RNE32(accumulator + term) (R44). -/
def accFast (acc : BitVec 32) (t : FV) : BitVec 32 := encFp32 (FV.add (decFp32 acc) t)

/-! ### FP32 operations of the vector unit (R56) -/

def fpAdd (x y : BitVec 32) : BitVec 32 := encFp32 (FV.add (decFp32 x) (decFp32 y))
def fpSub (x y : BitVec 32) : BitVec 32 := encFp32 (FV.add (decFp32 x) (FV.neg (decFp32 y)))
def fpMul (x y : BitVec 32) : BitVec 32 := encFp32 (FV.mul (decFp32 x) (decFp32 y))
def fpFma (x y z : BitVec 32) : BitVec 32 := encFp32 (FV.add (FV.mul (decFp32 x) (decFp32 y)) (decFp32 z))

/-! ### Correctly rounded functions (R57) -/

/-- Integer square root by bits: `n` result bits. -/
def isqrtGo : Nat → Nat → Nat → Nat
  | 0, _, r => r
  | n + 1, x, r =>
    let t := r + 2 ^ n
    if t * t ≤ x then isqrtGo n x t else isqrtGo n x r

def isqrt (x : Nat) : Nat := isqrtGo (bitLen x / 2 + 1) x 0

/-- Rounds `q * 2^e` with a tail below q to FP32. -/
def encSticky (neg : Bool) (q : Nat) (e : Int) (sticky : Bool) : BitVec 32 :=
  BitVec.ofNat 32 (encIeee 8 23 false (.num neg (2 * q + (if sticky then 1 else 0)) (e - 1)))

def fpRcp (x : BitVec 32) : BitVec 32 :=
  match decFp32 x with
  | .nan => nan32
  | .inf n => encFp32 (.num n 0 0)
  | .num n 0 _ => encFp32 (.inf n)
  | .num n m e =>
    let k := bitLen m + 40
    encSticky n (2 ^ k / m) (-e - k) (decide (2 ^ k % m ≠ 0))

def fpRsq (x : BitVec 32) : BitVec 32 :=
  match decFp32 x with
  | .nan => nan32
  | .num n 0 _ => encFp32 (.inf n)
  | .inf true => nan32
  | .num true _ _ => nan32
  | .inf false => 0
  | .num false m e =>
    let (m, e) := if e % 2 = 0 then (m, e) else (2 * m, e - 1)
    let k := bitLen m + 40
    let q := isqrt (2 ^ (2 * k) / m)
    encSticky false q (-(e / 2) - k) (decide (q * q * m ≠ 2 ^ (2 * k)))

/-- An interval of fixed-point numbers with a common number of fraction bits. -/
structure Iv where
  lo : Int
  hi : Int
deriving DecidableEq, Repr

/-- Ceiling division by a positive number. -/
def cdiv (a b : Int) : Int := -((-a) / b)

/-- Product of two non-negative intervals with w fraction bits. -/
def Iv.mul (w : Nat) (a b : Iv) : Iv := ⟨a.lo * b.lo / (2 ^ w : Nat), cdiv (a.hi * b.hi) (2 ^ w : Nat)⟩

/-- Sum of `t^i / i!` for i from `i` on, `n` terms, for t in [0, 1/2]; the tail is at most the last term kept. -/
def expTerms (w : Nat) (t : Iv) : Nat → Nat → Iv → Iv → Iv
  | 0, _, term, acc => ⟨acc.lo, acc.hi + term.hi⟩
  | n + 1, i, term, acc =>
    let p := Iv.mul w term t
    let term' : Iv := ⟨p.lo / (i : Int), cdiv p.hi (i : Int)⟩
    expTerms w t n (i + 1) term' ⟨acc.lo + term'.lo, acc.hi + term'.hi⟩

def Iv.squares (w : Nat) : Nat → Iv → Iv
  | 0, v => v
  | n + 1, v => Iv.squares w n (Iv.mul w v v)

/-- Interval around exp(m * 2^e) for a value below 128, with w fraction bits. -/
def expIv (w m : Nat) (e : Int) : Iv :=
  let sh : Int := e + w - 8
  let t : Iv := if 0 ≤ sh then ⟨m * (2 ^ sh.toNat : Nat), m * (2 ^ sh.toNat : Nat)⟩
    else ⟨(m : Int) / (2 ^ (-sh).toNat : Nat), cdiv m (2 ^ (-sh).toNat : Nat)⟩
  let one : Iv := ⟨(2 ^ w : Nat), (2 ^ w : Nat)⟩
  Iv.squares w 8 (expTerms w t (w / 2) 1 one one)

/-- The first precision at which both ends round to one code; the low end of the last one otherwise. -/
def settle (f : Nat → Iv) (enc : Nat → Int → BitVec 32) : List Nat → BitVec 32
  | [] => 0
  | w :: ws =>
    let i := f w
    if enc w i.lo = enc w i.hi then enc w i.lo
    else if ws.isEmpty then enc w i.lo else settle f enc ws

def encFixed (w : Nat) (v : Int) : BitVec 32 := encFp32 (FV.ofDy ⟨v, -(w : Int)⟩)

/-- exp (R57). Beyond +-128 the result is an infinity or +0. -/
def fpExp (x : BitVec 32) : BitVec 32 :=
  match decFp32 x with
  | .nan => nan32
  | .inf n => if n then 0 else encFp32 (.inf false)
  | .num _ 0 _ => 0x3F800000
  | .num n m e =>
    if Dy.lt ⟨m, e⟩ ⟨128, 0⟩ then
      if n then
        settle (fun w => let i := expIv w m e
          ⟨(2 ^ (2 * w) : Nat) / i.hi, cdiv (2 ^ (2 * w) : Nat) i.lo⟩) encFixed [320, 512, 1024]
      else settle (fun w => expIv w m e) encFixed [96, 160, 320, 640]
    else if n then 0 else encFp32 (.inf false)

/-- Sum of `z^(2i+1) / (2i+1)` for |z| at most 1/3, z = p / q, with w fraction bits. -/
def atanhTerms (z2 : Iv) (w : Nat) : Nat → Nat → Iv → Iv → Iv
  | 0, _, pw, acc => ⟨acc.lo, acc.hi + pw.hi⟩
  | n + 1, i, pw, acc =>
    let pw' := Iv.mul w pw z2
    atanhTerms z2 w n (i + 2) pw' ⟨acc.lo + pw'.lo / (i : Int), acc.hi + cdiv pw'.hi (i : Int)⟩

/-- Interval around 2 atanh(p/q) for 0 <= p/q <= 1/3. -/
def atanh2 (w p q : Nat) : Iv :=
  let z : Iv := ⟨((p * 2 ^ w / q : Nat) : Int), cdiv ((p * 2 ^ w : Nat) : Int) q⟩
  let s := atanhTerms (Iv.mul w z z) w (w / 3 + 1) 3 z z
  ⟨2 * s.lo, 2 * s.hi⟩

/-- Interval around ln(m * 2^e), m positive: the significand taken into [2/3, 4/3]. -/
def logIv (w m : Nat) (e : Int) : Iv :=
  let l := m.log2
  -- significand m / 2^l in [1, 2); above 4/3 it is halved
  let up := decide (2 ^ (l + 2) < 3 * m)
  let den := if up then 2 ^ (l + 1) else 2 ^ l
  let ex : Int := e + l + (if up then 1 else 0)
  let l2 := atanh2 w 1 3
  let f : Iv := if den ≤ m then atanh2 w (m - den) (m + den)
    else let i := atanh2 w (den - m) (m + den); ⟨-i.hi, -i.lo⟩
  let g : Iv := if 0 ≤ ex then ⟨ex * l2.lo, ex * l2.hi⟩ else ⟨ex * l2.hi, ex * l2.lo⟩
  ⟨f.lo + g.lo, f.hi + g.hi⟩

/-- log (R57). -/
def fpLog (x : BitVec 32) : BitVec 32 :=
  match decFp32 x with
  | .nan => nan32
  | .num _ 0 _ => encFp32 (.inf true)
  | .inf true => nan32
  | .num true _ _ => nan32
  | .inf false => encFp32 (.inf false)
  | .num false m e => if x = 0x3F800000 then 0 else settle (fun w => logIv w m e) encFixed [96, 160, 320, 640]

end Sys2Proof.Machine
end

