-- ==== Sys2Proof/Config.lean ====
section
/-! DEFINITION. What an implementation fixes and the free values: constants with no body, so that no proof can see a
value (notes/assumptions names each one). -/

namespace Sys2Proof.Config

open Sys2Proof

/-- Free value: the exact term of an infinite outlier, by its sign and the weight code (log 21). -/
opaque infOutlierTerm : Bool → Nat → BitVec 96

/-- Free value: the content a get reads of a window whose logical core no physical core stands for, by the model's counter
(log 101). -/
opaque openFlit : Nat → BitVec 2048

/-- Free value: a random nonce of 32 bytes, by the model's counter (R457; log 40). -/
opaque nonce : Nat → BitVec 256

/-- Free value: the 32 random bytes that an ML-DSA-65 signature mixes in, by the model's counter (R461; log 41). -/
opaque mlRandom : Nat → BitVec 256

/-- Free value: the bytes that stand in KV space after an accepted apply, as (address, byte) pairs, by the model's counter
(R282; log 30). -/
opaque kvContent : Nat → List (Nat × Byte)

/-- Free value: the token a draw takes from a distribution whose only entry has been removed (R334), by seed and token
number (log 42). -/
opaque emptyPick : Nat → Nat → Nat

/-- Free value: detail of a load fault to which the spec gives no number, by fault code and which one (R237; log 43). -/
opaque loadDetail : Nat → Nat → BitVec 32

/-- Free value: a relocation symbol with no value stated for the patched place: b_w of wafer w when the image binds no
installation or one of fewer wafers (w = 0-3), or the physical core of cluster memory (4, by physical cluster)
(R235; log 44). -/
opaque relocSymbol : Nat → Nat → BitVec 32

/-- Free value: the loader's own tree 0 table entries, by table key (R229; log 45). -/
opaque treeZero : Nat → BitVec 32

/-- Free value: a byte of code that the image stages past the end of a cluster memory, by cluster and offset (R237; log
108). -/
opaque pastUnit : Nat → Nat → BitVec 8

/-- Free value: bank and line that a squall record names for a routing-table entry, by table key (R202; log 109): bits
[63:32] bank, [31:0] line. -/
opaque tablePlace : Nat → BitVec 64

/-- Free value: detail word of an alarm frame of the engine's own, by alarm code and the model's counter (R371; log 46). -/
opaque alarmDetail : Nat → Nat → BitVec 32

/-- Free value: bank and line that a squall record names for a granule of a weight FIFO, to which the spec gives no bank
layout (R96; log 55): bits [63:32] bank, [31:0] line. -/
opaque fifoPlace : Nat → BitVec 64

/-- Free value: control reading of a pair on a die none of whose sensors is valid, by die and the model's counter
(R398; log 50). -/
opaque blindReading : Nat → Nat → Int

/-- Free value: the dew point at a relative humidity of 0 or below, in 1/8 degree C (R411; log 47). -/
opaque dryDewPoint : Nat → Int

/-- Free values of mailbox payloads the standard's registers fill (R360; log 48): by opcode and byte number. -/
opaque mailboxByte : Nat → Nat → BitVec 8

/-- Free value: a byte of the CXL device register interface, which CXL 4.0 lays out, by offset and the model's counter
(R360, R471; log 54). -/
opaque deviceByte : Nat → Nat → BitVec 8

/-- Free value: the rate and width a training of the CXL link settles on, by the model's counter (R348; log 114). -/
opaque linkTraining : Nat → Nat

/-- Free values: zero and full-scale means that a front end measures at an application of VSB, by channel and the model's
counter (R442; log 51). -/
opaque adcZero : Nat → Nat → BitVec 20
opaque adcSpan : Nat → Nat → BitVec 20

/-- Free value: a system coefficient that does not fit in 32 bits, by its exact value in 1/256 unit (R447; log 53). -/
opaque wideCoef : Int → BitVec 32

/-- Free value: u of a reading whose zero and full-scale means are equal, as a fraction over 2^32, by raw code and zero
mean (R439; log 52). -/
opaque flatReading : Nat → Nat → Int

end Sys2Proof.Config
end

