-- ==== Sys2Proof/Machine/State.lean ====
section
/-! DEFINITION. The state of the engine as plain data, the reasons a step can stop, and the state at reset. -/

namespace Sys2Proof.Machine

open Sys2Proof

/-- Why a step stops with a fault. -/
inductive Fault where
  /-- Raised by no command: one that names what the hardware does not have (a core, cluster, tile, port, pair, channel,
  tenant, slot, cause, pin, rail, phase or code outside its range) finds nothing to act on and changes nothing (log 2):
  safe. -/
  | noSuchUnit
deriving DecidableEq, Repr

/-- Why a step refuses a command. -/
inductive Refusal where
  /-- A command whose meaning is not written yet, by mnemonic: safe. -/
  | notModelled (mnemonic : String)
deriving DecidableEq, Repr

/-- One detected fault, as the squall record needs it (R239, BG_SQ registers). -/
structure FaultRep where
  /-- cycle c in which the unit detected it (08:R239) -/
  cycle : Nat := 0
  /-- squall class (08:R239) -/
  cls : Nat := 0
  /-- physical field, or station (08:BG_SQLOC) -/
  pfield : Nat := 0
  /-- cluster within the field (08:BG_SQLOC) -/
  cluster : Nat := 0
  /-- physical core, 0 when no core (08:BG_SQLOC) -/
  pcore : Nat := 0
  /-- logical field, 3Fh unmapped (08:BG_SQLOC) -/
  lfield : Nat := 63
  /-- logical core, 1Fh when no core (08:BG_SQLOC) -/
  lcore : Nat := 31
  /-- unit code (08:BG_SQLOC) -/
  unit : Nat := 0
  /-- field `where`: router port, 4*side+lane, or lane (08:BG_SQLOC) -/
  loc : Nat := 0
  /-- pc of the faulting bundle (08:BG_SQPC) -/
  pc : Nat := 0
  /-- slot (08:BG_SQPC) -/
  slot : SlotKind := .S
  /-- counter named (08:BG_SQPC) -/
  counter : Nat := 0
  /-- front number (08:BG_SQPC) -/
  front : Nat := 0
  /-- aux_hi (08:BG_SQAUX) -/
  auxHi : Nat := 0
  /-- aux_lo (08:BG_SQAUX) -/
  auxLo : Nat := 0
  /-- first header (08:BG_SQHDR) -/
  hdr0 : BitVec 128 := 0
  /-- second header (08:BG_SQHDR) -/
  hdr1 : BitVec 128 := 0
  /-- front-timeout short list entries (08:R122) -/
  shorts : List (BitVec 64) := []
deriving DecidableEq, Repr

/-- Where a slot result goes (R107). -/
inductive OpDest where
  /-- scalar register -/
  | g (r : BitVec 5)
  /-- address register -/
  | a (r : BitVec 4)
  /-- predicate -/
  | p (r : BitVec 3)
  /-- vector register -/
  | v (r : BitVec 5)
deriving DecidableEq, Repr

/-- A result on its way: visible from cycle `due` (R107). Same-cycle writes apply in slot order S, V, X, M. -/
structure RegWrite where
  /-- first cycle that reads it (04:R107) -/
  due : Nat := 0
  /-- 0 S, 1 V, 2 X, 3 M (04:R107) -/
  ord : Nat := 0
  /-- register (04:R107) -/
  dest : OpDest := .g 0
  /-- cycle of the bank read a load's result came from (04:R124) -/
  rd : Option Nat := none
  /-- value, low bits for narrower registers (04:R107) -/
  val : BitVec 2048 := 0
deriving DecidableEq, Repr

/-- An rdcc in flight: reads the counter at the end of its issue cycle (R112). -/
structure CcSample where
  /-- issue cycle (04:R112) -/
  tAt : Nat := 0
  /-- destination register (04:R112) -/
  gr : BitVec 5 := 0
  /-- counter (04:R112) -/
  cc : BitVec 6 := 0
deriving DecidableEq, Repr

/-- A load on its way: reads its bank at `at`, visible at `due` (R124, R125, R138). -/
structure PendLoad where
  /-- cycle of the bank read (04:R124) -/
  tAt : Nat := 0
  /-- first cycle that sees the result (04:R138) -/
  due : Nat := 0
  /-- scratchpad offset (04:R124) -/
  off : Nat := 0
  /-- bytes read (04:R124) -/
  bytes : Nat := 0
  /-- read cycles, ending at `tAt` (03:R95) -/
  rc : Nat := 1
  /-- turned read (04:R125) -/
  tm : BitVec 3 := 0
  /-- sign-extend (04:R123) -/
  sx : Bool := false
  /-- vector destination (04:R123) -/
  vec : Bool := false
  /-- destination (04:R123) -/
  reg : BitVec 5 := 0
  /-- pc of the issuing bundle (04:R139) -/
  pc : Nat := 0
  /-- runs read so far, one a read cycle (03:R95) -/
  got : List (BitVec 8) := []
deriving DecidableEq, Repr

/-- A store on its way: writes its bank in cycle `at` (R124). -/
structure PendStore where
  /-- cycle of the bank write (04:R124) -/
  tAt : Nat := 0
  /-- scratchpad offset (04:R124) -/
  off : Nat := 0
  /-- bytes written (04:R124) -/
  data : List (BitVec 8) := []
  /-- pc of the issuing bundle (04:R139) -/
  pc : Nat := 0
  /-- a drain write (03:R77) -/
  drn : Bool := false
deriving DecidableEq, Repr

/-- A pending watch (R118). -/
structure Watch where
  /-- cycle t + d (04:R118) -/
  due : Nat := 0
  /-- counter (04:R118) -/
  cc : BitVec 6 := 0
  /-- count awaited (04:R118) -/
  count : BitVec 32 := 0
  /-- pc of the watch (04:R139) -/
  pc : BitVec 21 := 0
  /-- the counter at the end of cycle t + d (04:R118) -/
  seen : Option (BitVec 32) := none
deriving DecidableEq, Repr

/-- What a core's issue does (R117, R120). -/
inductive IssueSt where
  /-- holds no role or has not started: issues nothing -/
  | idle
  /-- issues its next bundle -/
  | run
  /-- held by a wait until the check at the end of cycle due; seen: the counter at that end (R117) -/
  | hold (due : Nat) (cc : BitVec 6) (count : BitVec 32) (pc : BitVec 21) (seen : Option (BitVec 32))
  /-- stopped at a front issued at cycle `at` (R120) -/
  | front (tAt : Nat) (num : BitVec 8) (bound : BitVec 20) (stp : Bool) (pc : BitVec 21)
  /-- stopped by a squall, a load or a forced change -/
  | stopped
deriving DecidableEq, Repr

/-- Array mode set by amode (R144). -/
structure AMode where
  /-- weight format (05:R144) -/
  wf : BitVec 4 := 0
  /-- activations E5M2 (05:R144) -/
  ae : Bool := false
  /-- exact mode (05:R144) -/
  xm : Bool := false
  /-- outlier count code (05:R144) -/
  nc : BitVec 2 := 0
  /-- ceiling, BF16 (05:R144) -/
  ceil : BitVec 16 := 0
deriving DecidableEq, Repr

/-- One shadow tile slot of an array (R64, R66, R67). -/
structure ShadowSlot where
  /-- tile record (03:R62) -/
  tile : BitVec 2048 := 0
  /-- scale record it carries (03:R63) -/
  scales : Option (BitVec 1024) := none
  /-- holds a tile not yet taken (03:R66) -/
  full : Bool := false
deriving DecidableEq, Repr

/-- One accumulator row (R72, R145). -/
structure AccRow where
  /-- lanes (03:R72) -/
  lanes : Table (BitVec 96) := []
  /-- mode it was opened under (05:R145) -/
  exact : Bool := false
  /-- anchor the row records, that of its lane 0 (05:R145) -/
  anchor : Int := 0
  /-- anchor each lane was opened with, column by column (05:R145) -/
  anchors : Table Int := []
deriving DecidableEq, Repr

/-- One entry of a drain queue (R75, R77, R151). -/
structure DrainEntry where
  /-- cycle it entered the queue (03:R77) -/
  tAt : Nat := 0
  /-- converted entry (03:R75) -/
  data : List (BitVec 8) := []
  /-- true: vector unit (05:R142) -/
  dst : Bool := false
  /-- scratchpad offset (05:R151) -/
  addr : Nat := 0
  /-- counter (03:R75) -/
  cc : BitVec 6 := 0
  /-- made available to the vector unit (05:R151) -/
  avail : Bool := false
  /-- pc of the drn (05:R168) -/
  pc : Nat := 0
  /-- its write asks for its banks (03:R77) -/
  req : Bool := false
deriving DecidableEq, Repr

/-- One array of a core (R61, R64, R72). -/
structure Arr where
  /-- active tile (03:R66) -/
  tile : BitVec 2048 := 0
  /-- active scales (03:R66) -/
  scales : BitVec 1024 := 0
  /-- shadow slots S0, S1 (03:R64) -/
  slots : Table ShadowSlot := []
  /-- accumulator file (03:R72) -/
  rows : Table AccRow := []
  /-- drain queue, oldest first (03:R75) -/
  queue : List DrainEntry := []
  /-- (group cycle E, tile) of the tiles being replaced row by row, latest first (03:R66) -/
  olds : List (Nat × BitVec 2048) := []
deriving DecidableEq, Repr

/-- One diverted outlier (R53, R71). -/
structure Outlier where
  /-- position (03:R71) -/
  pos : Nat := 0
  /-- input index in its block (03:R71) -/
  idx : Nat := 0
  /-- BF16 value (02:R53) -/
  val : BitVec 16 := 0
deriving DecidableEq, Repr

/-- A pass in flight (R80, R81): its vectors as the feeders deliver them. -/
structure Pass where
  /-- cycle of the first feeder read (03:R82) -/
  s : Nat := 0
  /-- group cycle E of the first vector (03:R80) -/
  e : Nat := 0
  /-- L (05:R148) -/
  len : Nat := 1
  /-- V, at most L (05:R148) -/
  cnt : Nat := 0
  /-- valid mask (03:R69) -/
  mask : BitVec 32 := 0
  /-- arrays (05:R140) -/
  amask : BitVec 4 := 0
  /-- base row (05:R140) -/
  base : Nat := 0
  /-- opens its rows (05:R148) -/
  opn : Bool := false
  /-- anchor (05:R141) -/
  anchor : Int := 0
  /-- mode at its start (05:R144) -/
  mode : AMode := {}
  /-- 0 plain FP8, 1 MXFP8, 2 A4 lower half, 3 A4 upper half (05:R142) -/
  af : BitVec 3 := 0
  /-- offset of the vectors (05:R149) -/
  off : Nat := 0
  /-- offset of the scales (05:R149) -/
  soff : Nat := 0
  /-- lines, or positions, the feeders have read (03:R70) -/
  lines : Nat := 0
  /-- vectors read, element r in bits [8r+7:8r] (03:R68) -/
  vecs : Table (BitVec 128) := []
  /-- activation scale codes read (03:R68) -/
  sas : Table (BitVec 8) := []
  /-- cycle in which a vector reaches the row queues (03:R82) -/
  avail : Table Nat := []
  /-- 0 active tile, 1 S0, 2 S1 (03:R66) -/
  tsrc : BitVec 2 := 0
  /-- tile each array multiplies by, taken at E (03:R66) -/
  tiles : Table (BitVec 2048) := []
  /-- scales each array applies (03:R66) -/
  scls : Table (BitVec 1024) := []
  /-- pc of the strm (03:R89) -/
  pc : Nat := 0
  /-- its first vector has entered row 0 (03:R80) -/
  begun : Bool := false
  /-- scale lines read, by line number (03:R70) -/
  sbuf : Table (BitVec 512) := []
  /-- outliers its A4 stage diverted before it began (03:R71) -/
  outs : List Outlier := []
deriving DecidableEq, Repr

/-- A drn moving rows (R75). -/
structure ActiveDrain where
  /-- group cycle of its next move (03:R75) -/
  start : Nat := 0
  /-- array (05:R140) -/
  arr : Nat := 0
  /-- next row (05:R140) -/
  row : Nat := 0
  /-- rows left (05:R140) -/
  left : Nat := 0
  /-- output form (05:R142) -/
  form : BitVec 2 := 0
  /-- vector unit (05:R142) -/
  dst : Bool := false
  /-- address of the next entry (05:R151) -/
  addr : Nat := 0
  /-- counter (05:R151) -/
  cc : BitVec 6 := 0
  /-- mode at its start (05:R144) -/
  mode : AMode := {}
  /-- pc (05:R168) -/
  pc : Nat := 0
deriving DecidableEq, Repr

/-- A cmerge adding rows (R158). -/
structure ActiveMerge where
  /-- group cycle of the next row's addition (05:R158) -/
  tAt : Nat := 0
  /-- array (05:R140) -/
  arr : Nat := 0
  /-- accumulator row (05:R140) -/
  row : Nat := 0
  /-- result row (05:R140) -/
  rrow : Nat := 0
  /-- rows left (05:R140) -/
  left : Nat := 0
  /-- mode (05:R144) -/
  mode : AMode := {}
deriving DecidableEq, Repr

/-- An ainit opening rows (R152). -/
structure ActiveInit where
  /-- group cycle of the first read (05:R152) -/
  tAt : Nat := 0
  /-- array (05:R140) -/
  arr : Nat := 0
  /-- next row (05:R140) -/
  row : Nat := 0
  /-- rows left (05:R140) -/
  left : Nat := 0
  /-- wide form (05:R142) -/
  wide : Bool := false
  /-- offset of the next entry to read (05:R152) -/
  addr : Nat := 0
  /-- mode at its start (05:R144) -/
  mode : AMode := {}
  /-- counter (05:R152) -/
  cc : BitVec 6 := 0
  /-- pc (05:R168) -/
  pc : Nat := 0
  /-- runs of that entry read (05:R152) -/
  got : List (BitVec 8) := []
  /-- entries not yet read whole (05:R152) -/
  toRead : Nat := 0
  /-- entry read whole, whose row opens in the next cycle (05:R152) -/
  ready : Option (List (BitVec 8)) := none
deriving DecidableEq, Repr

/-- A tld filling a slot of every array it names (R64, R146, R147). -/
structure ActiveLoad where
  /-- group cycle of its first beat (05:R146) -/
  beat : Nat := 0
  /-- cycles still to run after the first beat (05:R147) -/
  left : Nat := 0
  /-- arrays (05:R140) -/
  amask : BitVec 4 := 0
  /-- slot (03:R64) -/
  slot : Nat := 0
  /-- carries scale records (05:R140) -/
  sc : Bool := false
  /-- true: scratchpad (05:R142) -/
  src : Bool := false
  /-- offset of the first record (05:R147) -/
  off : Nat := 0
  /-- turned tiles (05:R147) -/
  tm : BitVec 3 := 0
  /-- record bytes taken from the weight FIFO (03:R65) -/
  recs : List (BitVec 8) := []
  /-- a beat from the scratchpad was refused (03:R89) -/
  late : Bool := false
  /-- pc (05:R168) -/
  pc : Nat := 0
  /-- scratchpad lines read, by line number (05:R147) -/
  buf : Table (BitVec 512) := []
  /-- offset of the beat refused first (03:R89) -/
  lateOff : Nat := 0
  /-- cycles lost to refused beats, its own and those of the load it follows (03:R89) -/
  lag : Nat := 0
deriving DecidableEq, Repr

/-- X-slot operations as the array command queue holds them (R79); the correction operations are held apart. -/
inductive XOp where
  /-- tile load, address read at issue -/
  | tld (amask : BitVec 4) (slot : Bool) (sc : Bool) (src : Bool) (off : Nat) (tm : BitVec 3)
  /-- stream -/
  | strm (amask : BitVec 4) (tsrc : BitVec 2) (opn : Bool) (b : Nat) (len : Nat) (v : Nat) (mask : BitVec 32) (off : Nat) (af : BitVec 3) (soff : Nat) (anchor : Int)
  /-- drain -/
  | drn (arr : Nat) (r0 : Nat) (rows : Nat) (form : BitVec 2) (dst : Bool) (off : Nat) (cc : BitVec 6)
  /-- accumulator initialisation -/
  | ainit (arr : Nat) (r0 : Nat) (rows : Nat) (form : BitVec 2) (off : Nat) (cc : BitVec 6)
  /-- array mode -/
  | amode (m : AMode)
  /-- merge -/
  | cmerge (arr : Nat) (b : Nat) (rb : Nat) (rows : Nat)
deriving DecidableEq, Repr

/-- An X operation waiting behind a freeze (R79). -/
structure XQEntry where
  /-- scheduled cycle (03:R79) -/
  tAt : Nat := 0
  /-- operation (03:R79) -/
  op : XOp := .amode {}
  /-- pc (05:R168) -/
  pc : Nat := 0
deriving DecidableEq, Repr

/-- One position of the A4 hold buffer (R71). -/
structure HoldEntry where
  /-- elements 16-31, 4 bits each (03:R71) -/
  codes : BitVec 64 := 0
  /-- block scale (03:R71) -/
  scale : BitVec 8 := 0
deriving DecidableEq, Repr

/-- The quantised t of one position (R51). -/
structure RankVec where
  /-- E4M3 elements (02:R51) -/
  codes : List (BitVec 8) := []
  /-- E8M0 scales, one per 32 elements (02:R51) -/
  scales : List (BitVec 8) := []
deriving DecidableEq, Repr

/-- One row of the correction unit's result buffer (R85, R156). -/
structure ResRow where
  /-- FP32 in [31:0], or 96-bit exact value (03:R85) -/
  lanes : Table (BitVec 96) := []
  /-- anchor recorded by open (05:R156) -/
  anchor : Int := 0
deriving DecidableEq, Repr

/-- A queued correction-unit operation (R153). -/
inductive CorrOp where
  /-- t = V^T x -/
  | cvt (rank : Nat) (vsrc : Bool) (vOff xOff sOff : Nat) (af : BitVec 2) (p ks : Nat) (anchor : Int)
  /-- U t -/
  | cut (rank : Nat) (usrc : Bool) (uOff : Nat) (p n grp : Nat) (opn : Bool) (anchor : Int) (rbase ns : Nat)
  /-- outlier terms -/
  | cout (arr : Nat) (half : Bool) (p rbase : Nat) (opn : Bool) (anchor : Int)
deriving DecidableEq, Repr

/-- A correction operation with its times (R153, R166). -/
structure CorrEntry where
  /-- operation (05:R153) -/
  op : CorrOp := .cout 0 false 1 0 false 0
  /-- start (05:R153) -/
  start : Nat := 0
  /-- it has started (05:R153) -/
  begun : Bool := false
  /-- end, once it has started (05:R166) -/
  fin : Nat := 0
  /-- counter (05:R153) -/
  cc : BitVec 6 := 0
  /-- mode at its start (05:R144) -/
  mode : AMode := {}
  /-- active tile at the start (cout) (05:R157) -/
  tile : BitVec 2048 := 0
  /-- active scales at the start (cout) (05:R157) -/
  scales : BitVec 1024 := 0
  /-- factor bytes taken from the weight FIFO (05:R154) -/
  taken : List (BitVec 8) := []
  /-- pc (05:R168) -/
  pc : Nat := 0
  /-- cycles of the operation done, refusals left out (03:R85) -/
  prog : Nat := 0
  /-- (cycle of need, operand, line number) of the lines still to read (03:R85) -/
  reads : List (Nat × Nat × Nat) := []
  /-- lines read, by operand and line number (03:R85) -/
  buf : Table (BitVec 512) := []
  /-- granules still to take (05:R154) -/
  grans : Nat := 0
  /-- outlier buffer at the start (cout) (05:R157) -/
  outs : List Outlier := []
deriving DecidableEq, Repr

/-- A port-A access of fetch or the M slot in a cycle (R88). -/
structure BankUse where
  /-- cycle (03:R88) -/
  tAt : Nat := 0
  /-- bank (03:R86) -/
  bank : Nat := 0
  /-- pc of the bundle that issued it (04:R139) -/
  pc : Nat := 0
deriving DecidableEq, Repr

/-- State of one physical core (R60, R108; table "ISA control: architectural state of one core"). -/
structure Core where
  /-- role number; none: idle core (08:R221) -/
  role : Option Nat := none
  /-- issue state (04:R117,R120) -/
  issue : IssueSt := .idle
  /-- program counter (04:R104) -/
  pc : BitVec 21 := 0
  /-- target that issues after the delay slot (04:R114) -/
  target : Option (BitVec 21) := none
  /-- the bundle to issue follows a branch or jump (04:R106) -/
  delaySlot : Bool := false
  /-- pc of the bundle issued last (04:R122) -/
  lastPc : BitVec 21 := 0
  /-- first cycle in which the next bundle may issue (03:R60,04:R117) -/
  nextAt : Nat := 0
  /-- g0-g31; g0 reads 0 (04:R107) -/
  g : Table (BitVec 64) := []
  /-- a0-a15 (04:R107) -/
  a : Table (BitVec 48) := []
  /-- p0-p7; p0 reads 1 (04:R107) -/
  p : Table Bool := []
  /-- completion counters (04:R115) -/
  cc : Table (BitVec 32) := []
  /-- increments applied to a counter in the present cycle (04:R115) -/
  incs : Table Nat := []
  /-- shape registers (04:R110) -/
  sh : Table (BitVec 64) := []
  /-- send count (04:R134) -/
  sendCnt : BitVec 16 := 0
  /-- vector registers (03:R83) -/
  v : Table (BitVec 2048) := []
  /-- results in flight (04:R107) -/
  writes : List RegWrite := []
  /-- (cycle, counter, pc) of a local count on its way (04:R135) -/
  incDue : List (Nat × Nat × Nat) := []
  /-- rdcc in flight (04:R112) -/
  samples : List CcSample := []
  /-- loads in flight (04:R124) -/
  loads : List PendLoad := []
  /-- stores in flight (04:R124) -/
  stores : List PendStore := []
  /-- port-A accesses of fetch and the M slot (03:R88) -/
  banks : List BankUse := []
  /-- (cycle, granules) of wdrops on their way (04:R129) -/
  drops : List (Nat × Nat) := []
  /-- armed targets (04:R119) -/
  armed : Table (Option (BitVec 32)) := []
  /-- watch trackers (04:R118) -/
  watches : List Watch := []
  /-- array mode (05:R144) -/
  mode : AMode := {}
  /-- arrays (03:R61) -/
  arrays : Table Arr := []
  /-- passes in flight (03:R80) -/
  passes : List Pass := []
  /-- entry cycle of the last pass's last vector (03:R80) -/
  lastE : Option Nat := none
  /-- drains moving rows (03:R75) -/
  drains : List ActiveDrain := []
  /-- merges in progress (05:R158) -/
  merges : List ActiveMerge := []
  /-- ainits in progress (05:R152) -/
  inits : List ActiveInit := []
  /-- tile loads in progress (05:R146) -/
  tloads : List ActiveLoad := []
  /-- array command queue (03:R79) -/
  xq : List XQEntry := []
  /-- the array group is frozen in the present cycle (03:R78) -/
  frozen : Bool := false
  /-- array-group cycles: plane cycles less freezes (03:R78) -/
  gcyc : Nat := 0
  /-- slip (03:R79) -/
  slip : Nat := 0
  /-- A4 hold buffer (03:R71) -/
  hold : Table HoldEntry := []
  /-- outlier buffer (03:R71) -/
  outl : List Outlier := []
  /-- rank buffer (03:R85) -/
  rank : Table RankVec := []
  /-- result buffer (03:R85) -/
  res : Table ResRow := []
  /-- correction operations, oldest first (05:R153) -/
  corr : List CorrEntry := []
  /-- weight FIFO fill position (03:R98) -/
  fill : Nat := 0
  /-- weight FIFO take position (03:R98) -/
  take : Nat := 0
  /-- arrival bits (03:R98) -/
  arrived : Table Bool := []
  /-- array mode from the next cycle on (05:R144,R166) -/
  modeNext : Option AMode := none
  /-- (counter, pc, slot) of increments that met FFFF_FFFFh in the present cycle (04:R115) -/
  overs : List (Nat × Nat × SlotKind) := []
  /-- release cycle of the last front (07:R214) -/
  relAt : Option Nat := none
  /-- banks of port A granted in the present cycle (03:R88) -/
  aBusy : List Nat := []
deriving DecidableEq, Repr

/-- A cget or cput in flight (R127). -/
structure Xfer where
  /-- identity (04:R127) -/
  id : Nat := 0
  /-- issuing physical core (04:R127) -/
  core : Nat := 0
  /-- cput (04:R127) -/
  put : Bool := false
  /-- scratchpad offset (04:R127) -/
  off : Nat := 0
  /-- cluster-memory offset (04:R127) -/
  cm : Nat := 0
  /-- lines (04:R127) -/
  lines : Nat := 0
  /-- turned tiles (04:R127) -/
  tm : BitVec 3 := 0
  /-- counter (04:R127) -/
  cc : BitVec 6 := 0
  /-- issue cycle (04:R127) -/
  tAt : Nat := 0
  /-- pc (04:R139) -/
  pc : BitVec 21 := 0
  /-- read accesses made (04:R127) -/
  reads : Nat := 0
  /-- cycle of the next read, uncontended (04:R127) -/
  tAtR : Nat := 0
  /-- runs of the turned tile being read (03:R95) -/
  tile : List (BitVec 8) := []
  /-- (first cycle of the write, line) on the way (03:R102) -/
  path : List (Nat × List (BitVec 8)) := []
  /-- lines written (04:R127) -/
  wrote : Nat := 0
deriving DecidableEq, Repr

/-- A wld at its weight port (R128, R248). -/
structure WldCmd where
  /-- issuing physical core (04:R128) -/
  core : Nat := 0
  /-- physical cluster of the port (09:R248) -/
  pcl : Nat := 0
  /-- wafer (04:R128) -/
  wafer : Nat := 0
  /-- next page to arrive (04:R128) -/
  page : Nat := 0
  /-- pages left (04:R128) -/
  left : Nat := 0
  /-- counter (04:R128) -/
  cc : BitVec 6 := 0
  /-- issue cycle (04:R128) -/
  tAt : Nat := 0
  /-- pc (04:R139) -/
  pc : BitVec 21 := 0
  /-- places of the pages left, fixed when the port starts the command (09:R252) -/
  places : List Nat := []
  /-- first cycle in which its next page may be complete (09:R249) -/
  nextAt : Nat := 0
  /-- re-reads of the next page: the cycle they end in, and their outcome (07:R215) -/
  retry : Option (Nat × PageRes) := none
deriving DecidableEq, Repr

/-- A kvld or kvst in flight (R130, R279). -/
structure KvCmd where
  /-- identity (04:R130) -/
  id : Nat := 0
  /-- issuing physical core (04:R130) -/
  core : Nat := 0
  /-- kvst (04:R130) -/
  store : Bool := false
  /-- area (04:R130) -/
  area : Nat := 0
  /-- KV address (04:R130) -/
  addr : Nat := 0
  /-- plane side is the cluster memory (04:R130) -/
  cmem : Bool := false
  /-- plane-side offset (04:R130) -/
  off : Nat := 0
  /-- lines (04:R130) -/
  lines : Nat := 0
  /-- quantisation (04:R132) -/
  qm : Nat := 0
  /-- counter (04:R130) -/
  cc : BitVec 6 := 0
  /-- path: 2 x physical cluster + KV wafer (10:R279) -/
  path : Nat := 0
  /-- pc (04:R139) -/
  pc : BitVec 21 := 0
  /-- issue cycle (04:R490) -/
  tAt : Nat := 0
  /-- plane-side accesses made, one line each (04:R490) -/
  moved : Nat := 0
  /-- lines a kvst has read (04:R490) -/
  buf : List (BitVec 8) := []
deriving DecidableEq, Repr

/-- An hput on its way to the hub (R133). -/
structure HputCmd where
  /-- identity (04:R133) -/
  id : Nat := 0
  /-- issuing physical core (04:R133) -/
  core : Nat := 0
  /-- from the cluster memory (04:R133) -/
  cmem : Bool := false
  /-- offset (04:R133) -/
  off : Nat := 0
  /-- kind (04:R133) -/
  kind : Nat := 1
  /-- lines (04:R133) -/
  lines : Nat := 0
  /-- counter (04:R133) -/
  cc : BitVec 6 := 0
  /-- pc (04:R139) -/
  pc : BitVec 21 := 0
  /-- issue cycle (04:R490) -/
  tAt : Nat := 0
  /-- lines read (04:R490) -/
  moved : Nat := 0
  /-- the lines (04:R490) -/
  buf : List (BitVec 8) := []
deriving DecidableEq, Repr

/-- Where a packet's header stands. -/
inductive PktAt where
  /-- at the router of a physical cluster, arrived by port 0 L, 1 N, 2 E, 3 S, 4 W (R178) -/
  | router (pcl : Nat) (port : Nat)
  /-- entered a gateway across a scribe link (R180) -/
  | gate (pf : Nat) (side : Nat) (lane : Nat)
  /-- entered station n from 0 clockwise-before, 1 clockwise-after, 2 the field (R180) -/
  | station (n : Nat) (frm : Nat) (lane : Nat)
  /-- ejected through L, to be written (R136) -/
  | deliver (pcl : Nat)
deriving DecidableEq, Repr

/-- The flits of a packet, read one by one at their source (R135, R137) or formed from those of combined packets (R191). -/
structure Payload where
  /-- identity (06:R171) -/
  id : Nat := 0
  /-- header of the packet (06:R175) -/
  hdr : BitVec 128 := 0
  /-- flits (06:R171) -/
  n : Nat := 1
  /-- place of flit 0 (04:R135) -/
  sa : Option Nat := none
  /-- core whose port B reads it (03:R90) -/
  core : Option Nat := none
  /-- (physical cluster, offset) of a run read from a weight FIFO window (03:R100) -/
  win : Option (Nat × Nat) := none
  /-- flit k is read in cycle issued + 1 + k; a refused read moves it by one (04:R135) -/
  issued : Nat := 0
  /-- flits read or formed so far (06:R171) -/
  flits : List (BitVec 2048) := []
  /-- (core, counter, pc) of the local count in the cycle after the last read (04:R135) -/
  lc : Option (Nat × Nat × Nat) := none
  /-- payloads that are combined into it, in port order (06:R191) -/
  parts : List Nat := []
deriving DecidableEq, Repr

/-- A packet in the Jetstream (R134, R175). -/
structure Packet where
  /-- identity (06:R175) -/
  id : Nat := 0
  /-- header on the wire (06:R175) -/
  hdr : BitVec 128 := 0
  /-- flits on the wire (06:R171) -/
  n : Nat := 1
  /-- reply header a get request carries (06:R176) -/
  reply : BitVec 128 := 0
  /-- place of the header (06:R178) -/
  loc : PktAt := .deliver 0
  /-- cycle the header is there (06:R187) -/
  t : Nat := 0
  /-- turns consumed (06:R178) -/
  turn : Nat := 0
  /-- direction of travel: 0 N, 1 E, 2 S, 3 W (06:R178) -/
  dir : Nat := 0
  /-- flits written at the destination (04:R136) -/
  written : Nat := 0
  /-- source physical core (06:R175) -/
  src : Nat := 0
  /-- its payload (06:R171) -/
  pay : Option Nat := none
  /-- it has acted at the combining router where it waits (06:R191) -/
  waits : Bool := false
deriving DecidableEq, Repr

/-- An output held by a packet (R171), for collision detection (R201). -/
structure Resv where
  /-- output, lane or injection port (06:R201) -/
  res : Nat := 0
  /-- first cycle (06:R171) -/
  tAt : Nat := 0
  /-- cycles held (06:R171) -/
  len : Nat := 0
  /-- header (06:R201) -/
  hdr : BitVec 128 := 0
deriving DecidableEq, Repr

/-- An arrival being written by DMA into a scratchpad, or as a Jetstream-class request into a cluster memory (R90, R365). -/
structure DmaJob where
  /-- physical cluster (12:R365) -/
  pcl : Nat := 0
  /-- unit (12:R364) -/
  unit : Nat := 0
  /-- offset of the next byte (12:R365) -/
  off : Nat := 0
  /-- bytes still to write (12:R365) -/
  data : List (BitVec 8) := []
  /-- physical core whose counter rises after the last byte (12:R365) -/
  core : Option Nat := none
  /-- counter (12:R364) -/
  cc : Nat := 0
deriving DecidableEq, Repr

/-- The plane: cores, SRAM and everything in flight on it. -/
structure Plane where
  /-- cycle count (read modulo 2^64) (04:R108) -/
  cycle : Nat := 0
  /-- plane clock running (07:R206) -/
  clockOn : Bool := false
  /-- a program has been started and is not stopped (04:R108) -/
  progRun : Bool := false
  /-- cores, by 32 x physical cluster + physical core (03:R60) -/
  cores : Table Core := []
  /-- scratchpads, weight FIFOs, cluster memories; unlisted reads 0 (03:R97,R421) -/
  sram : List Host.Cell := []
  /-- check-bit state of a word: 1 single-bit, 2 double-bit error (03:R96) -/
  sramErr : Table Nat := []
  /-- cget and cput in flight (04:R127) -/
  xfers : List Xfer := []
  /-- weight-port queues (09:R248) -/
  wlds : List WldCmd := []
  /-- KV commands in flight (10:R279) -/
  kvs : List KvCmd := []
  /-- hputs in flight (04:R133) -/
  hputs : List HputCmd := []
  /-- packets in flight (06:R175) -/
  packets : List Packet := []
  /-- outputs held (06:R171) -/
  resvs : List Resv := []
  /-- next identity (model's own) (06:R175) -/
  nextId : Nat := 0
  /-- faults detected and not yet recorded (08:R239) -/
  faults : List FaultRep := []
  /-- time since the first core issued the present front, holds left out (04:R122) -/
  fTimer : Nat := 0
  /-- first core to issue the present front (04:R491) -/
  fFirst : Option Nat := none
  /-- latest cycle in which a core issued the front or became ready (04:R120) -/
  fLast : Nat := 0
  /-- freeze_cnt (03:JS_ARRSTAT) -/
  freezeCnt : Nat := 0
  /-- first core that froze (03:JS_ARRSTAT) -/
  firstFrz : Option Nat := none
  /-- slip_max (03:JS_ARRSTAT) -/
  slipMax : Nat := 0
  /-- fronts (07:JS_FRONTSTAT) -/
  fronts : Nat := 0
  /-- max_wait (07:JS_FRONTSTAT) -/
  maxWait : Nat := 0
  /-- max_front (07:JS_FRONTSTAT) -/
  maxFront : Nat := 0
  /-- late_wt (07:JS_LATE) -/
  lateWt : Nat := 0
  /-- late_kv (07:JS_LATE) -/
  lateKv : Nat := 0
  /-- crossings (06:JS_TRAFFIC) -/
  crossings : Nat := 0
  /-- packets (06:JS_TRAFFIC) -/
  packetCnt : Nat := 0
  /-- arrivals being written, oldest first (12:R365) -/
  dma : List DmaJob := []
  /-- a front is released at the end of the present cycle (07:R214) -/
  relGo : Bool := false
  /-- payloads of the packets in flight (06:R171) -/
  pays : List Payload := []
deriving DecidableEq, Repr

/-- Jetstream tables and field map (R181, R188, R202, R256). -/
structure Jet where
  /-- field binding: physical field of each logical field (09:R256) -/
  binding : List (Option Nat) := (List.range 46).map some
  /-- complement of the good-core masks the core tables were built from (08:R236) -/
  badMask : Table (BitVec 32) := []
  /-- router tree tables (06:R188) -/
  router : Table (BitVec 32) := []
  /-- gateway unicast tables (06:R181) -/
  gwUni : Table (BitVec 32) := []
  /-- gateway tree tables (06:R181) -/
  gwTree : Table (BitVec 32) := []
  /-- station unicast tables (06:R181) -/
  stUni : Table (BitVec 32) := []
  /-- station tree tables (06:R181) -/
  stTree : Table (BitVec 32) := []
  /-- table selection (06:JS_TBLSEL) -/
  tblSel : BitVec 32 := 0
  /-- detour allowance (06:JS_MAPSTAT) -/
  allow : Nat := 0
  /-- rerouted legs (06:JS_MAPSTAT) -/
  rerouted : Nat := 0
  /-- from Ready JS_FMAP and JS_MAPSTAT report the binding (06:R202) -/
  mapLive : Bool := false
  /-- ref (06:JS_MAPSTAT) -/
  mapRef : Bool := false
  /-- spares (06:JS_MAPSTAT) -/
  mapSpares : Nat := 0
  /-- bypass (06:JS_MAPSTAT) -/
  mapBypass : Nat := 0
  /-- physical fields whose routers hold the loader's tree 0 (08:R229) -/
  tree0 : List Nat := []
  /-- check-bit state of a table entry: 1 single-bit, 2 double-bit error (06:R202) -/
  tblErr : Table Nat := []
deriving DecidableEq, Repr

/-- A role of the loaded image (R221 section 03h, R223). -/
structure Role where
  /-- stage offset (08:R221) -/
  stage : Nat := 0
  /-- code length (08:R221) -/
  len : Nat := 0
  /-- entry offset (08:R221) -/
  entry : Nat := 0
deriving DecidableEq, Repr

/-- What the loader keeps of an image (R220, R221). -/
structure Prog where
  /-- contract (08:R220) -/
  contract : Nat := 0
  /-- grade_min (08:R220) -/
  gradeMin : Nat := 0
  /-- K (08:R220) -/
  kCores : Nat := 0
  /-- F (08:R220) -/
  fFields : Nat := 0
  /-- wwaf (08:R220) -/
  wwaf : Nat := 0
  /-- kwaf (08:R220) -/
  kwaf : Nat := 0
  /-- k_max (08:R220) -/
  kMax : Nat := 0
  /-- detour (08:R220) -/
  detour : Nat := 0
  /-- S (08:R220) -/
  sSlots : Nat := 0
  /-- P (08:R220) -/
  pPos : Nat := 0
  /-- experts (08:R220) -/
  experts : Nat := 0
  /-- code_size (08:R220) -/
  codeSize : Nat := 0
  /-- nclass (08:R220) -/
  nclass : Nat := 0
  /-- formats (08:R220) -/
  formats : Nat := 0
  /-- kv_tok (08:R220) -/
  kvTok : Nat := 0
  /-- class maximum lengths (08:R220) -/
  classes : List Nat := []
  /-- model_id (08:R220) -/
  modelId : List (BitVec 8) := []
  /-- inst_digest (08:R220) -/
  instDig : List (BitVec 8) := []
  /-- stage_off (08:R220) -/
  stageOff : Nat := 0
  /-- stage_len (08:R220) -/
  stageLen : Nat := 0
  /-- hub_off (08:R220) -/
  hubOff : Nat := 0
  /-- role table (08:R221) -/
  roles : Table Role := []
  /-- role + 1 of each logical core, 0 for FFFFh (08:R221) -/
  placement : Table Nat := []
  /-- image digest D (08:R224) -/
  digest : List (BitVec 8) := []
deriving DecidableEq, Repr

/-- The loader (R225-R243). -/
structure Loader where
  /-- LDR_SRC (08:LDR_SRC) -/
  src : BitVec 64 := 0
  /-- discard (08:LDR_CTRL) -/
  discard : Bool := false
  /-- start reads 1 until state 8h or 9h (08:LDR_CTRL) -/
  start : Bool := false
  /-- the load waits for the step front (08:R225) -/
  waitFront : Bool := false
  /-- load state (08:R227) -/
  state : Nat := 0
  /-- loads (08:LDR_STAT) -/
  loads : Nat := 0
  /-- rounds (08:LDR_STAT) -/
  rounds : Nat := 0
  /-- blocks (08:LDR_STAT) -/
  blocks : Nat := 0
  /-- vld (08:LDR_FAULT) -/
  fVld : Bool := false
  /-- code (08:LDR_FAULT) -/
  fCode : Nat := 0
  /-- detail_a (08:LDR_FAULT) -/
  fA : Nat := 0
  /-- detail_b (08:LDR_FAULT) -/
  fB : Nat := 0
  /-- en (08:LDR_TRSEL) -/
  trEn : Bool := false
  /-- traced router (08:LDR_TRLOC) -/
  trLoc : BitVec 32 := 0
  /-- recording (08:R243) -/
  tracing : Bool := false
  /-- trace buffer (08:R243) -/
  trace : List (BitVec 256) := []
  /-- image bytes of the load in progress, pass 1 (08:R227) -/
  image : List (BitVec 8) := []
  /-- header and tables of the load in progress (08:R227) -/
  cur : Prog := {}
  /-- slot the load in progress binds (09:R255) -/
  bindTo : Option Nat := none
  /-- (logical cluster, block) not yet arrived (08:R230) -/
  missing : List (Nat × Nat) := []
  /-- logical clusters whose digest differs (08:R231) -/
  bad : List Nat := []
  /-- logical clusters whose digest matches (08:R230) -/
  checked : List Nat := []
  /-- rerouted legs of the load in progress (06:JS_MAPSTAT) -/
  rerouted : Nat := 0
  /-- program whose K, F and code size the plane uses: the loaded one, until the map state of the next load (08:R227) -/
  prog : Option Prog := none
  /-- program that ran last (08:R241) -/
  lastProg : Option Prog := none
  /-- logical clusters with a hardware fault since the load began (08:R238) -/
  hurt : List Nat := []
deriving DecidableEq, Repr

/-- A sequence of the hub in a slot (R321, R325). -/
structure Seq where
  /-- state code 1h-5h, 7h-9h; 0 slot free (11:R321) -/
  st : Nat := 0
  /-- state it was held or parked from (11:R321) -/
  was : Nat := 0
  /-- tenant (11:R316) -/
  tenant : Nat := 0
  /-- tag (11:R316) -/
  tag : BitVec 64 := 0
  /-- order of admission (11:R326) -/
  order : Nat := 0
  /-- parameter block (11:R317) -/
  pb : List (BitVec 8) := []
  /-- keep (11:R316) -/
  keep : Bool := false
  /-- stop on empty gauge (11:R316) -/
  stopEmpty : Bool := false
  /-- class (11:R317) -/
  cls : Nat := 0
  /-- region number within its class (10:R291) -/
  region : Nat := 0
  /-- holds a region (10:R291) -/
  hasRegion : Bool := false
  /-- prefix entries of its chain (10:R298) -/
  chain : List Nat := []
  /-- granule hashes of its chain (10:R298) -/
  hashes : List (BitVec 64) := []
  /-- prefix scope (10:R296) -/
  scope : Nat := 0
  /-- committed tokens (10:R292) -/
  committed : Nat := 0
  /-- prompt tokens no prefill has processed (11:R342) -/
  pending : List Nat := []
  /-- forecast depth d (11:R335) -/
  depth : Nat := 0
  /-- d_max (11:R325) -/
  dmax : Nat := 0
  /-- counter z (11:R335) -/
  z : Nat := 0
  /-- tokens generated since the last prompt (11:R317) -/
  gen : Nat := 0
  /-- generated tokens since the last prompt, latest first (stop sequences) (11:R336) -/
  genTok : List Nat := []
  /-- last committed token (11:R329) -/
  lastTok : Nat := 0
  /-- pinned adapter slot (11:R340) -/
  adp : Option Nat := none
  /-- adapter id (11:R317) -/
  adpId : BitVec 64 := 0
  /-- pinned generation (11:R340) -/
  adpGen : Nat := 0
  /-- hold or park reason (11:R319) -/
  reason : Nat := 0
  /-- engine time the hold began (11:R319) -/
  heldAt : Nat := 0
  /-- time held while a program ran (11:R327) -/
  heldRun : Nat := 0
  /-- failed park attempts (11:R321) -/
  attempts : Nat := 0
  /-- engine time of the next park attempt (11:R347) -/
  retryAt : Option Nat := none
  /-- decodes in the present step (11:R329) -/
  decodes : Bool := false
  /-- first prefill position in the present step (11:R329) -/
  pfFirst : Nat := 0
  /-- prefill positions in the present step (11:R329) -/
  pfCnt : Nat := 0
  /-- segment (10:R294) -/
  seg : Nat := 0
  /-- restoring for a continue (11:R321) -/
  contd : Bool := false
  /-- tokens a continue appends after the restore (11:R317) -/
  newTok : List Nat := []
  /-- faulted-event reason recorded for the next boundary, 0 none (10:R310) -/
  fault : Nat := 0
  /-- park id in use (11:R343) -/
  parkId : BitVec 64 := 0
  /-- first extent taken for the park in progress (11:R341) -/
  parkExt : Nat := 0
  /-- extents taken for the park in progress, 0 none (11:R341) -/
  parkN : Nat := 0
  /-- SNP_TGTA as the park in progress began (11:SNP_TGTA) -/
  parkA : BitVec 64 := 0
  /-- SNP_TGTB as the park in progress began (11:SNP_TGTB) -/
  parkB : BitVec 64 := 0
  /-- SNP_TGTC as the park in progress began (11:SNP_TGTC) -/
  parkC : BitVec 64 := 0
  /-- a stop at this boundary's commit with keep set: a pause or cancel that arrived during the step is rejected (11:R322) -/
  stopNow : Bool := false
deriving DecidableEq, Repr

/-- One park record of the snowpack index (R341, R342). -/
structure ParkRec where
  /-- tenant (11:R342) -/
  tenant : Nat := 0
  /-- tag (11:R342) -/
  tag : BitVec 64 := 0
  /-- park id (11:R343) -/
  parkId : BitVec 64 := 0
  /-- expiry, engine time (us) (11:R346) -/
  expiry : Nat := 0
  /-- first extent (11:R341) -/
  ext : Nat := 0
  /-- extents, tag table included (11:R341) -/
  next : Nat := 0
  /-- data extents (11:R342) -/
  dext : Nat := 0
  /-- state record: the sequence as parked (11:R342) -/
  seq : Seq := {}
  /-- tenant key epoch of its key (16:R462) -/
  epoch : Nat := 0
  /-- ownership epoch of its key (16:R462) -/
  oepoch : Nat := 0
  /-- SNP_TGTA it was written with (11:R341) -/
  tgt : BitVec 64 := 0
  /-- SNP_TGTB it was written with (11:R341) -/
  base : BitVec 64 := 0
deriving DecidableEq, Repr

/-- A request read from a submission ring (R316, R323), with what the hub reads for it from the host. -/
structure Req where
  /-- tenant (11:R316) -/
  tenant : Nat := 0
  /-- arrival tick (11:R323) -/
  tick : Nat := 0
  /-- tenant order within the tick (11:R323) -/
  rank : Nat := 0
  /-- entry (11:R316) -/
  entry : List (BitVec 8) := []
  /-- parameter block or adapter image; none: host read failed (11:R317) -/
  blk : Option (List (BitVec 8)) := none
  /-- prompt or token list; none: host read failed (11:R317) -/
  toks : Option (List (BitVec 8)) := none
  /-- a resume or continue the control step has acknowledged, waiting for the walk (11:R315) -/
  acked : Bool := false
  /-- lines of the staging region that a read for the request finds uncorrectable (address / 64) (12:R363) -/
  bad : List Nat := []
deriving DecidableEq, Repr

/-- A ring event (R319). -/
structure Event where
  /-- code (11:R319) -/
  code : Nat := 0
  /-- reason (11:R319) -/
  reason : Nat := 0
  /-- slot, FFFFh none (11:R319) -/
  slot : Nat := 65535
  /-- value (11:R319) -/
  value : Nat := 0
  /-- tag (11:R319) -/
  tag : BitVec 64 := 0
  /-- engine time (11:R319) -/
  time : Nat := 0
deriving DecidableEq, Repr

/-- An adapter slot (R339). -/
structure Adp where
  /-- 0 free 1 loading 2 resident 3 retiring 4 withdrawn (11:R339) -/
  st : Nat := 0
  /-- tenant (11:SRV_ADPn) -/
  tenant : Nat := 0
  /-- generation (11:R338) -/
  gen : Nat := 0
  /-- adapter id (11:R338) -/
  id : BitVec 64 := 0
  /-- model_id (11:R337) -/
  modelId : List (BitVec 8) := []
  /-- body being copied (11:R337) -/
  body : List (BitVec 8) := []
  /-- copy and digest complete: resident at the next boundary (11:R339) -/
  done : Bool := false
deriving DecidableEq, Repr

/-- A deferred adapter upload (R338). -/
structure Upload where
  /-- tenant (11:R338) -/
  tenant : Nat := 0
  /-- adapter id (11:R338) -/
  id : BitVec 64 := 0
  /-- generation (11:R338) -/
  gen : Nat := 0
  /-- model_id (11:R337) -/
  modelId : List (BitVec 8) := []
  /-- body (11:R337) -/
  body : List (BitVec 8) := []
deriving DecidableEq, Repr

/-- A candidate block of a position (R330). -/
structure Cand where
  /-- slot (11:R330) -/
  slot : Nat := 0
  /-- ordinal (11:R330) -/
  ord : Nat := 0
  /-- blocks expected, of the first block (11:R330) -/
  need : Nat := 0
  /-- blocks arrived (11:R330) -/
  got : Nat := 0
  /-- prefill (11:R330) -/
  pre : Bool := false
  /-- lse (11:R330) -/
  lse : BitVec 32 := 0
  /-- draft proposal (11:R330) -/
  prop : Nat := 0
  /-- merged list (value, index) (11:R330) -/
  list : List (BitVec 32 × BitVec 32) := []
deriving DecidableEq, Repr

/-- The serving hub (R314-R347). -/
structure Hub where
  /-- admit_off (11:SRV_CTRL) -/
  admitOff : Bool := false
  /-- park_all (11:SRV_CTRL) -/
  parkAll : Bool := false
  /-- rotating pointer (11:R323) -/
  ptr : Nat := 0
  /-- events (11:SRV_DROP) -/
  dropEv : Nat := 0
  /-- cand (11:SRV_DROP) -/
  dropCand : Nat := 0
  /-- short (11:SRV_DROP) -/
  dropShort : Nat := 0
  /-- engine time (us) (11:R314) -/
  time : Nat := 0
  /-- tenants whose requests were read in the present tick (11:R323) -/
  fresh : List Nat := []
  /-- sequence slots (11:R321) -/
  slots : Table Seq := []
  /-- admissions so far (model's own order key) (11:R326) -/
  admitNo : Nat := 0
  /-- snowpack index (11:R341) -/
  parked : List ParkRec := []
  /-- next park id (11:R343) -/
  nextPark : BitVec 64 := 0
  /-- requests read and not yet acted on, in arrival order (11:R323) -/
  queue : List Req := []
  /-- events kept while a ring is full (11:R320) -/
  evq : Table (List Event) := []
  /-- adapter slots (11:R339) -/
  adps : Table Adp := []
  /-- deferred uploads, acceptance order (11:R338) -/
  uploads : List Upload := []
  /-- last generation of each (tenant, id) (11:R338) -/
  gens : List (Nat × BitVec 64 × Nat) := []
  /-- step number since the load (11:R329) -/
  stepNo : Nat := 0
  /-- candidates of the present step (11:R330) -/
  cands : List Cand := []
  /-- the hub has committed the step and written the descriptors (04:R121) -/
  committedOk : Bool := false
  /-- park_fail (11:SNP_STAT) -/
  parkFail : Nat := 0
  /-- rest_fail (11:SNP_STAT) -/
  restFail : Nat := 0
  /-- expired (11:SNP_STAT) -/
  expired : Nat := 0
  /-- engine time since which no sequence is live, parking or restoring (13:R393) -/
  idleUs : Nat := 0
  /-- records lost with the index, to be reported at the next Ready (11:R346) -/
  lostRecs : List ParkRec := []
  /-- (tenant, adapter id) released, with no new upload resident since (11:R340) -/
  released : List (Nat × BitVec 64) := []
deriving DecidableEq, Repr

/-- Registers of one tenant block and its snowpack target (R352, R472). -/
structure Tenant where
  /-- TQ_SQBASE (12:TQ_SQBASE) -/
  sqBase : BitVec 64 := 0
  /-- TQ_SQHIDX (12:TQ_SQHIDX) -/
  sqH : BitVec 32 := 0
  /-- TQ_SQEIDX (12:TQ_SQEIDX) -/
  sqE : BitVec 32 := 0
  /-- TQ_OQBASE (12:TQ_OQBASE) -/
  oqBase : BitVec 64 := 0
  /-- TQ_OQHIDX (12:TQ_OQHIDX) -/
  oqH : BitVec 32 := 0
  /-- TQ_OQEIDX (12:TQ_OQEIDX) -/
  oqE : BitVec 32 := 0
  /-- EVT_EQBASE (12:EVT_EQBASE) -/
  eqBase : BitVec 64 := 0
  /-- EVT_EQHIDX (12:EVT_EQHIDX) -/
  eqH : BitVec 32 := 0
  /-- EVT_EQEIDX (12:EVT_EQEIDX) -/
  eqE : BitVec 32 := 0
  /-- TQ_WB (12:TQ_WB) -/
  wb : BitVec 64 := 0
  /-- draining (12:R358) -/
  draining : Bool := false
  /-- latched (12:R359) -/
  latched : Bool := false
  /-- bad (12:TQ_STAT) -/
  bad : Nat := 0
  /-- drops (12:TQ_STAT) -/
  drops : Nat := 0
  /-- gauge level L (11:R328) -/
  level : Int := 0
  /-- GAUGE_CFG (11:GAUGE_CFG) -/
  gCfg : BitVec 64 := 0
  /-- GAUGE_POL (11:GAUGE_POL) -/
  gPol : BitVec 32 := 0
  /-- ADP_QUOTA (11:ADP_QUOTA) -/
  quota : BitVec 32 := 0
  /-- WIN_An (12:WIN_An) -/
  winA : Table (BitVec 64) := []
  /-- WIN_Bn (12:WIN_Bn) -/
  winB : Table (BitVec 64) := []
  /-- SENDs received per window (12:R364) -/
  sends : Table Nat := []
  /-- WIN_PSRC (12:WIN_PSRC) -/
  pSrc : BitVec 64 := 0
  /-- WIN_PCTL, go included (12:WIN_PCTL) -/
  pCtl : BitVec 64 := 0
  /-- EVT_MOD (12:EVT_MOD) -/
  evtMod : BitVec 32 := 0
  /-- event entries since the last interrupt (12:R357) -/
  evtNew : Nat := 0
  /-- engine time of the oldest such entry (12:R357) -/
  evtAt : Nat := 0
  /-- output entries since the last interrupt (12:R357) -/
  tokNew : Nat := 0
  /-- engine time of the oldest such entry (12:R357) -/
  tokAt : Nat := 0
  /-- SNP_TGTA_t (11:SNP_TGTA) -/
  snpA : BitVec 64 := 0
  /-- SNP_TGTB_t (11:SNP_TGTB) -/
  snpB : BitVec 64 := 0
  /-- SNP_TGTC_t (11:SNP_TGTC) -/
  snpC : BitVec 64 := 0
  /-- Memory Space Enable of its VF (12:R352) -/
  mse : Bool := false
  /-- Bus Master Enable of its VF (12:R352) -/
  bme : Bool := false
deriving DecidableEq, Repr

/-- One entry of a slot's missing list (R492). -/
structure MissEnt where
  /-- 1 digest 2 source 3 not fetched 4 damaged 5 unreadable in substitution (09:R268,R272,R276) -/
  reason : Nat := 0
  /-- shard index (09:WST) -/
  shard : Nat := 0
  /-- slice index (09:WST) -/
  slice : Nat := 0
deriving DecidableEq, Repr

/-- A shard entry of a manifest (R258). -/
structure WShard where
  /-- logical field (09:R258) -/
  field : Nat := 0
  /-- wafer (09:R258) -/
  wafer : Nat := 0
  /-- 0 bulk 1 packed 2 pre-formed (09:R260) -/
  form : Nat := 0
  /-- pre-formed privilege (09:R261) -/
  priv : Bool := false
  /-- primary source (09:R258) -/
  primary : Nat := 0
  /-- alternate source, FFFFh none (09:R258) -/
  alternate : Nat := 65535
  /-- offset (09:R258) -/
  off : Nat := 0
  /-- length (09:R258) -/
  length : Nat := 0
  /-- first slice (09:R258) -/
  slice0 : Nat := 0
  /-- slices (09:R258) -/
  nsl : Nat := 0
  /-- digest (09:R258) -/
  digest : List (BitVec 8) := []
deriving DecidableEq, Repr

/-- A slice entry of a manifest (R258). -/
structure WSlice where
  /-- cluster (09:R258) -/
  cluster : Nat := 0
  /-- weight format (09:R258) -/
  wf : Nat := 0
  /-- rank code (09:R258) -/
  rank : Nat := 0
  /-- bulk source format (09:R258) -/
  sfmt : Nat := 0
  /-- K_s (09:R258) -/
  ks : Nat := 0
  /-- N_s (09:R258) -/
  ns : Nat := 0
  /-- first page (09:R258) -/
  page : Nat := 0
  /-- pages (09:R258) -/
  npages : Nat := 0
  /-- offset in the shard (09:R258) -/
  soff : Nat := 0
  /-- length (09:R258) -/
  slen : Nat := 0
  /-- digest (09:R258) -/
  digest : List (BitVec 8) := []
deriving DecidableEq, Repr

/-- A verified manifest as kept in system pages (R257, R266). -/
structure Manifest where
  /-- F (09:R258) -/
  fFields : Nat := 0
  /-- wafers (09:R258) -/
  wafers : Nat := 0
  /-- model_id (09:R258) -/
  modelId : List (BitVec 8) := []
  /-- n_0 to n_3 (09:R258) -/
  pages : List Nat := []
  /-- source entries (09:R258) -/
  sources : List (List (BitVec 8)) := []
  /-- shard table (09:R258) -/
  shards : List WShard := []
  /-- slice table (09:R258) -/
  slices : List WSlice := []
  /-- installation digest (09:R258) -/
  instDig : List (BitVec 8) := []
deriving DecidableEq, Repr

/-- A weight-store slot (R265). -/
structure WSlot where
  /-- 0 empty 1 verifying 2 installing 3 complete 4 incomplete 5 damaged 6 erasing (09:R265) -/
  st : Nat := 0
  /-- bound (09:WST_SLOTn) -/
  bound : Bool := false
  /-- stored manifest (09:R266) -/
  man : Manifest := {}
  /-- b_0 to b_3 (09:R254) -/
  base : List Nat := []
  /-- missing list (09:R492) -/
  missing : List MissEnt := []
  /-- its fields no longer stand over its pages (09:R277) -/
  invalid : Bool := false
deriving DecidableEq, Repr

/-- One weight controller of a session (R267, R268). -/
structure ShardCtl where
  /-- shard (09:R267) -/
  shard : Nat := 0
  /-- slices still to fetch and verify (09:R267) -/
  todo : List Nat := []
  /-- refetches used (09:R268) -/
  refetch : Nat := 0
  /-- bytes fetched so far, for the shard digest (09:R267) -/
  bytes : List (BitVec 8) := []
  /-- 0 fetching 1 verified 2 abandoned (09:R268) -/
  st : Nat := 0
  /-- every slice is fetched, so the shard digest is checked (09:R268) -/
  whole : Bool := true
deriving DecidableEq, Repr

/-- A field substitution in progress (R274, R275). -/
structure Subst where
  /-- logical field (09:R274) -/
  lfield : Nat := 0
  /-- fenced physical field (09:R274) -/
  lost : Nat := 0
  /-- spare physical field (09:R274) -/
  spare : Nat := 0
deriving DecidableEq, Repr

/-- The weight store (R244-R277). -/
structure Wst where
  /-- WST_MSRC (09:WST_MSRC) -/
  msrc : BitVec 64 := 0
  /-- auto_sub (09:WST_CTRL) -/
  autoSub : Bool := true
  /-- field (09:WST_CTRL) -/
  field : BitVec 6 := 0
  /-- slot (09:WST_CTRL) -/
  slot : BitVec 2 := 0
  /-- cmd (09:WST_CTRL) -/
  cmd : BitVec 4 := 0
  /-- busy (WST_CTRL.go reads it) (09:WST_STAT) -/
  busy : Bool := false
  /-- result (09:WST_STAT) -/
  result : Nat := 0
  /-- cmd (09:WST_STAT) -/
  lastCmd : Nat := 0
  /-- slot (09:WST_STAT) -/
  lastSlot : Nat := 0
  /-- done (09:WST_STAT) -/
  done : Nat := 0
  /-- total (09:WST_STAT) -/
  total : Nat := 0
  /-- bytes written in the session (GiB read) (09:WST_STAT) -/
  bytes : Nat := 0
  /-- WST_RPAGE (09:WST_RPAGE) -/
  rpage : BitVec 64 := 0
  /-- slots (09:R254) -/
  slots : Table WSlot := []
  /-- weight controllers of the session (09:R267) -/
  ctls : List ShardCtl := []
  /-- the accepted command waits for Run (09:R264) -/
  waiting : Bool := false
  /-- page contents by physical place; unlisted reads 0 (09:R244) -/
  mem : List Host.Cell := []
  /-- spare page that stands for an addressable page (09:R245) -/
  remap : Table (Option Nat) := []
  /-- remaps waiting for a step-front release (09:R273) -/
  newRemap : List (Nat × Nat) := []
  /-- spare pages used per wafer and physical cluster (09:R244,R253) -/
  spareUsed : Table Nat := []
  /-- programme cycles per erase block (09:R253) -/
  wear : Table Nat := []
  /-- reads of an erase block since its refresh (09:R251) -/
  reads : Table Nat := []
  /-- pages queued for refresh (09:R246) -/
  refreshQ : List Nat := []
  /-- reread (09:WST_HEALTH) -/
  reread : Nat := 0
  /-- refresh (09:WST_HEALTH) -/
  refresh : Nat := 0
  /-- substitution in progress (09:R274) -/
  sub : Option Subst := none
  /-- logical fields fenced and waiting for substitution (09:R274) -/
  fenced : List Nat := []
  /-- logical field that the running command 6h waits for (09:R264) -/
  subCmd : Option Nat := none
  /-- an abort waits for Run (09:R264) -/
  abortReq : Bool := false
  /-- bits corrected in page reads (09:R246) -/
  corrBits : Nat := 0
  /-- pages a port has delivered since its last scrub page (09:R250) -/
  deliv : Table Nat := []
  /-- pages of erase blocks read 2^24 times that scrub has yet to read: place, and time due (us) (09:R251) -/
  hot : List (Nat × Nat) := []
  /-- pages retired (09:R253) -/
  retired : Nat := 0
deriving DecidableEq, Repr

/-- The applied KV configuration (R282). -/
structure KvCfgA where
  /-- KV_CFG (10:R282) -/
  cfg : BitVec 64 := 0
  /-- KV_AREA (10:R282) -/
  area : BitVec 64 := 0
  /-- KV_CLASSn (10:R282) -/
  cls : List (BitVec 64) := []
  /-- KV_POOL (10:R282) -/
  pool : BitVec 32 := 0
deriving DecidableEq, Repr

/-- A prefix entry (R297). -/
structure Pfx where
  /-- 0 free 1 filling 2 ready 3 withdrawn (10:R297) -/
  st : Nat := 0
  /-- hash (10:R296) -/
  hash : BitVec 64 := 0
  /-- parent entry (10:R297) -/
  parent : Option Nat := none
  /-- scope (10:R296) -/
  scope : Nat := 0
  /-- reference count (10:R300) -/
  refs : Nat := 0
  /-- last-use tick (10:R300) -/
  tick : Nat := 0
deriving DecidableEq, Repr

/-- The KV store (R278-R313). -/
structure Kv where
  /-- KV_CFG (10:KV_CFG) -/
  cfg : BitVec 64 := 0
  /-- KV_AREA (10:KV_AREA) -/
  area : BitVec 64 := 0
  /-- KV_CLASSn (10:KV_CLASSn) -/
  cls : Table (BitVec 64) := []
  /-- KV_POOL (10:KV_POOL) -/
  pool : BitVec 32 := 0
  /-- result (10:KV_STAT) -/
  result : Nat := 0
  /-- applied configuration, every field 0 before the first apply (10:R282) -/
  app : KvCfgA := {}
  /-- KV bytes by physical place; unlisted reads 0 (10:R278) -/
  mem : List Host.Cell := []
  /-- prefix entries (10:R297) -/
  pfx : Table Pfx := []
  /-- tiles at the doubled refresh rate (10:R280) -/
  dbl : Table Bool := []
  /-- uncorr (10:KV_ECC) -/
  uncorr : Nat := 0
  /-- spared (10:KV_ECC) -/
  spared : Nat := 0
  /-- corr (10:KV_ECC) -/
  corr : Nat := 0
  /-- count (10:KV_ELOG) -/
  elogCnt : Nat := 0
  /-- next (10:KV_ELOG) -/
  elogNext : Nat := 0
  /-- error log ring (10:KV_ELOG) -/
  elog : Table (BitVec 128) := []
  /-- spare rows used per tile (10:R311) -/
  rowsUsed : Table Nat := []
deriving DecidableEq, Repr

/-- A queue pair context (R367-R369). -/
structure Qp where
  /-- context as written by Set QP (12:QP context) -/
  ctx : List (BitVec 8) := []
  /-- 0 disabled 1 ready 2 error (12:QP context) -/
  st : Nat := 0
  /-- send rate r (12:R368) -/
  rate : Nat := 0
  /-- CNPs in the present interval (12:R368) -/
  cnps : Nat := 0
  /-- quiet intervals (12:R368) -/
  quiet : Nat := 0
  /-- ACK retries used (12:R367) -/
  retries : Nat := 0
  /-- next send PSN (12:QP context) -/
  spsn : Nat := 0
  /-- expected receive PSN (12:QP context) -/
  rpsn : Nat := 0
  /-- RNR retries used (12:R367) -/
  rnr : Nat := 0
  /-- a CNP has been sent in the present rate interval (12:R367) -/
  cnpSent : Bool := false
deriving DecidableEq, Repr

/-- A snowpack or shard operation outstanding on a QP (R369). -/
structure FabOp where
  /-- queue pair (12:R369) -/
  qp : Nat := 0
  /-- 0 park 1 restore 2 shard (12:R369) -/
  kind : Nat := 0
  /-- slot or shard (12:R369) -/
  ref : Nat := 0
  /-- MiB of the operation from which the queue pair carries it (12:R369) -/
  start : Nat := 0
  /-- runs acknowledged on earlier queue pairs: pair, first MiB, end MiB (12:R369) -/
  parts : List (Nat × Nat × Nat) := []
deriving DecidableEq, Repr

/-- A fabric port (LNK_PORTn). -/
structure FPort where
  /-- en (12:LNK_PORTn) -/
  en : Bool := false
  /-- mode as written (12:LNK_PORTn) -/
  mode : BitVec 2 := 0
  /-- mode in effect (12:R366) -/
  run : BitVec 2 := 0
  /-- state (12:LNK_PORTn) -/
  st : Nat := 0
  /-- ups (12:LNK_PORTn) -/
  ups : Nat := 0
  /-- cnp (12:LNK_PORTn) -/
  cnp : Nat := 0
  /-- drops (12:LNK_PORTn) -/
  drops : Nat := 0
  /-- VLAN, MAC, IPv4 and IPv6 addresses (Set port addresses payload); of the lower half in mode 01b (12:R360) -/
  addr : List (BitVec 8) := []
  /-- addresses of the upper half in mode 01b (12:R366) -/
  addrU : List (BitVec 8) := []
deriving DecidableEq, Repr

/-- Host, fabric and mailbox (R348-R369). -/
structure HostIf where
  /-- CXLX_EQBASE (12:CXLX_EQBASE) -/
  eqBase : BitVec 64 := 0
  /-- CXLX_EQHIDX (12:CXLX_EQHIDX) -/
  eqH : BitVec 32 := 0
  /-- CXLX_EQEIDX (12:CXLX_EQEIDX) -/
  eqE : BitVec 32 := 0
  /-- owner events kept while the ring is full (12:R361) -/
  evq : List Event := []
  /-- late (12:CXLX_STAT) -/
  late : Nat := 0
  /-- replay (12:CXLX_STAT) -/
  replay : Nat := 0
  /-- hdm_oob (12:CXLX_STAT) -/
  hdmOob : Nat := 0
  /-- ide (12:CXLX_STAT) -/
  ide : Nat := 0
  /-- evdrop (12:CXLX_STAT) -/
  evdrop : Nat := 0
  /-- CXL link up (12:R350) -/
  linkUp : Bool := false
  /-- admission stopped and sequences held by a link-down (12:R350) -/
  linkHeld : Bool := false
  /-- NumVFs (12:R352) -/
  numVFs : Nat := 256
  /-- mailbox timestamp (12:R360) -/
  stamp : BitVec 64 := 0
  /-- engine time the timestamp was set (12:R360) -/
  stampAt : Nat := 0
  /-- HDM range size of the last conventional reset (12:R362) -/
  hdmSize : Nat := 0
  /-- IDE keys programmed (12:R351) -/
  ideKeys : Bool := false
  /-- queue pairs (12:R367) -/
  qps : Table Qp := []
  /-- outstanding fabric operations (12:R369) -/
  ops : List FabOp := []
  /-- fabric ports (12:LNK_PORTn) -/
  ports : Table FPort := []
  /-- late (17:LNK_STAT) -/
  lnkLate : Nat := 0
  /-- moved (17:LNK_STAT) -/
  moved : Nat := 0
  /-- qperr (17:LNK_STAT) -/
  qperr : Nat := 0
  /-- pending lower halves by view and register (00:R17) -/
  halves : Table (Option (BitVec 32)) := []
  /-- latched upper halves by view and register (00:R17) -/
  latches : Table (Option (BitVec 32)) := []
  /-- host-physical base of the range the decoder maps (12:R363) -/
  hdmBase : BitVec 64 := 0
  /-- the decoder maps its range (12:R363) -/
  hdmOn : Bool := false
  /-- rate the link trained at: 128, 64 or 32 (12:R348) -/
  linkRate : Nat := 128
  /-- width the link trained at: 16, 8 or 4 (12:R348) -/
  linkWidth : Nat := 16
  /-- mailbox control register (12:R360) -/
  mbCtl : BitVec 32 := 0
  /-- mailbox command register: opcode and payload length (12:R360) -/
  mbCmd : BitVec 64 := 0
  /-- return code of the last mailbox command (12:R360) -/
  mbRet : Nat := 0
  /-- mailbox payload registers; bytes beyond the list read 0 (12:R360) -/
  mbPay : List (BitVec 8) := []
  /-- VF Enable of function 0 (12:R352) -/
  vfEn : Bool := true
deriving DecidableEq, Repr

/-- The Isobar station (R370-R373). -/
structure Iso where
  /-- ISO_CFG (12:ISO_CFG) -/
  cfg : BitVec 64 := 0
  /-- bypass open (12:R370) -/
  opened : Bool := false
  /-- 0 bypassed 1 whole 2 broken 3 master lost (12:ISO_STAT) -/
  ring : Nat := 0
  /-- station (12:ISO_STAT) -/
  station : Nat := 0
  /-- count (12:ISO_STAT) -/
  count : Nat := 0
  /-- share (12:ISO_STAT) -/
  share : Nat := 0
  /-- crc (12:ISO_STAT) -/
  crc : Nat := 0
  /-- ring time (12:ISO_TIME) -/
  time : Nat := 0
  /-- sequence of own frames (12:R371) -/
  seq : BitVec 32 := 0
  /-- rack budget of the last time frame (12:R372) -/
  budgetB : Nat := 0
  /-- (station, demand, floor) of the present millisecond (12:R372) -/
  demands : List (Nat × Nat × Nat) := []
  /-- source stations of time frames seen since the last whole millisecond (12:R373) -/
  masters : List Nat := []
deriving DecidableEq, Repr

/-- Power control (R377-R397). -/
structure Pwr where
  /-- wake (13:PWR_CTRL) -/
  wake : Bool := false
  /-- idle_st (13:PWR_CTRL) -/
  idleSt : BitVec 3 := 0
  /-- idle_s (13:PWR_CTRL) -/
  idleS : BitVec 16 := 0
  /-- tgt (13:PWR_CTRL) -/
  tgt : BitVec 3 := 5
  /-- 0 bring-up 1 Frost 2 Calm 3 Lull 4 Breeze 5 Run (13:R386) -/
  state : Nat := 0
  /-- Off (VSB absent, or hard power-off) (13:R386) -/
  off : Bool := true
  /-- forced causes that hold (13:R392) -/
  causes : List Nat := []
  /-- a warm restart is due at the exit from Frost (13:R390) -/
  restart : Bool := false
  /-- plane clock step (13:R382) -/
  step : Nat := 0
  /-- clock step requested (07:R206) -/
  stepReq : Option Nat := none
  /-- Dzichev-compatible sensing (13:R384) -/
  compat : Bool := false
  /-- VIR_EN (13:R379) -/
  virEn : Bool := false
  /-- VIR_OK as seen (13:R379) -/
  virOk : Bool := false
  /-- setpoint (13:PWR_VIR) -/
  setpt : Nat := 0
  /-- minimum die VIR, 50 us average (13:PWR_VIR) -/
  vmin : Nat := 0
  /-- VIR current (13:PWR_VIR) -/
  amps : Nat := 0
  /-- input power, 1 ms average (13:PWR_VIR) -/
  power : Nat := 0
  /-- PWR_REGFLT (13:PWR_REGFLT) -/
  regflt : BitVec 64 := 0
  /-- single (13:PWR_STAT) -/
  single : Nat := 0
  /-- trips (13:PWR_STAT) -/
  trips : Nat := 0
  /-- tripped VTRANSIT feeds of a physical cluster (13:R397) -/
  feeds : Table Nat := []
  /-- PWRB_PRSNT_N low: power board mated (18:R477) -/
  boardIn : Bool := true
  /-- engine time a removal's parking must end (14:R432) -/
  parkS : Option Nat := none
deriving DecidableEq, Repr

/-- One sensor pair (R398, R399). -/
structure Pair where
  /-- sensor a, 1/8 degree C (13:sensor window) -/
  a : Int := 0
  /-- sensor b, 1/8 degree C (13:sensor window) -/
  b : Int := 0
  /-- calibration offset of a (13:R400) -/
  offA : Int := 0
  /-- calibration offset of b (13:R400) -/
  offB : Int := 0
  /-- split (13:R399) -/
  split : Bool := false
  /-- guard band, 1/8 K (13:R399) -/
  band : Nat := 0
  /-- engine time since which the pair differs by more than 6 K (13:R399) -/
  diffAt : Option Nat := none
  /-- consecutive samples of a above 105 degrees C (13:R403) -/
  hotA : Nat := 0
  /-- consecutive samples of b above 105 degrees C (13:R403) -/
  hotB : Nat := 0
  /-- control reading, 1/8 degree C (13:R398) -/
  ctl : Int := 0
deriving DecidableEq, Repr

/-- Thermal control and cooling (R398-R412). -/
structure Thm where
  /-- cap_w (W / 4) (13:THM_CAP) -/
  cap : Nat := 9000
  /-- rth0 (uK/W) (13:THM_RTH) -/
  rth0 : Nat := 1400
  /-- Rth of each die kind (uK/W); empty: rth0, before the first valid measurement (13:R405) -/
  rth : List Nat := []
  /-- set (0.1 L/min) (13:THM_FLOW) -/
  flowSet : Nat := 600
  /-- stop (13:THM_STAT) -/
  stop : Bool := false
  /-- hot (13:THM_STAT) -/
  hot : Bool := false
  /-- dew (13:THM_STAT) -/
  dew : Bool := false
  /-- cpl_in (13:THM_STAT) -/
  cplIn : Bool := false
  /-- cpl_out (13:THM_STAT) -/
  cplOut : Bool := false
  /-- refused (13:THM_CTRL) -/
  refused : Bool := false
  /-- sensor pairs (13:sensor window) -/
  pairs : Table Pair := []
  /-- thermal cap; none before the first computation (13:R405) -/
  therm : Option Nat := none
  /-- die kind setting it (13:THM_CAPSTAT) -/
  thermDie : Nat := 0
  /-- effective cap (13:R406) -/
  eff : Nat := 0
  /-- limiting term (13:THM_CAPSTAT) -/
  effSrc : Nat := 0
  /-- share or fallback applied (13:THM_CAPSTAT) -/
  shareApp : Nat := 0
  /-- inlet, 1/8 degree C (13:THM_COOL) -/
  inlet : Int := 0
  /-- outlet, 1/8 degree C (13:THM_COOL) -/
  outlet : Int := 0
  /-- flow, 0.1 L/min (13:THM_COOL) -/
  flow : Nat := 0
  /-- dew point, 1/8 degree C (13:THM_COOL) -/
  dewT : Int := 0
  /-- engine time since which the flow reads at least 80 % of set (13:R400,R409,R418) -/
  flowOkAt : Option Nat := none
  /-- engine time the flow last read at least 80 % of set (13:R409) -/
  flowOkEnd : Option Nat := none
  /-- engine time since which the flow reads below 20 % of set (13:R409) -/
  flowLowAt : Option Nat := none
  /-- a control reading stands above its limit (13:R401) -/
  dwellHi : Bool := false
  /-- engine time of the last step down (13:R401) -/
  dwellAt : Nat := 0
  /-- flow averaged over 100 us, 0.1 L/min (13:R409) -/
  flowAvg : Nat := 0
  /-- engine time since which the next faster step fits the cap (13:R407) -/
  fitUs : Option Nat := none
  /-- engine time since which step 6 exceeds the cap (13:R408) -/
  overUs : Option Nat := none
  /-- engine time since which step 6 fits the cap (13:R392) -/
  fit6Us : Option Nat := none
  /-- relative humidity (13:R411) -/
  mhum : Nat := 0
  /-- module ambient temperature (13:R411) -/
  amb : Int := 0
deriving DecidableEq, Repr

/-- Barograph, bring-up and squall record (R413-R428, R239). -/
structure Bg where
  /-- ready (14:BG_STAT) -/
  ready : Bool := false
  /-- clean flag (14:BG_STAT) -/
  clean : Bool := false
  /-- path (14:BG_STAT) -/
  path : Nat := 0
  /-- phase running or last run (14:BG_STAT) -/
  phase : Nat := 0
  /-- the phase is running (14:R417) -/
  phaseOn : Bool := false
  /-- stop code (14:BG_STAT) -/
  stopc : Nat := 0
  /-- cwait (14:BG_STAT) -/
  cwait : Bool := false
  /-- engine time PERST_N was released (last_ms) (14:BG_STAT) -/
  relAt : Nat := 0
  /-- last_ms (14:BG_STAT) -/
  lastMs : Nat := 0
  /-- engine time of the last full test (age) (14:BG_STAT) -/
  fullAt : Nat := 0
  /-- full (14:BG_CTRL) -/
  full : Bool := false
  /-- reset hold (14:R416) -/
  perst : Bool := true
  /-- PERST_N is released, and the hold waits for CAL_ISO_N (18:R483) -/
  relWait : Bool := false
  /-- VSB present (14:R413) -/
  vsb : Bool := false
  /-- the bring-up in progress or due is cold (14:R417) -/
  coldDue : Bool := true
  /-- a hard power-off waits for PERST_N and cooling (13:R404) -/
  hotWait : Bool := false
  /-- failures of VIR_OK in this bring-up (14:R419) -/
  virFails : Nat := 0
  /-- engine time VIR is requested again (14:R419) -/
  virRetryAt : Option Nat := none
  /-- engine time of the last vote disagreement (14:R415) -/
  voteAt : Option Nat := none
  /-- BG_TEST (14:BG_TEST) -/
  test : BitVec 64 := 0
  /-- (kind, unit) whose post-squall test is due (14:R426) -/
  testFor : Option (Nat × Nat) := none
  /-- spared (14:BG_ECC) -/
  spared : Nat := 0
  /-- lines flagged and awaiting repair (14:R427) -/
  flagged : List Nat := []
  /-- corr (14:BG_ECC) -/
  eccCorr : Nat := 0
  /-- (line, engine time) of corrections (14:R427) -/
  eccHist : List (Nat × Nat) := []
  /-- spare lines used per bank (14:R423) -/
  spareLines : Table Nat := []
  /-- field state of the fence map (14:R428) -/
  fieldSt : Table Nat := []
  /-- bad-core masks: the complement of the good-core masks, so unlisted means all good (14:R428) -/
  badMask : Table (BitVec 32) := []
  /-- sequence number of the current copy of the service record (14:R414) -/
  recSeq : Nat := 1
  /-- a copy of the service record is good (14:R414) -/
  recGood : Bool := true
  /-- vld (08:BG_SQSTAT) -/
  sqVld : Bool := false
  /-- ovw (08:BG_SQSTAT) -/
  sqOvw : Bool := false
  /-- class (08:BG_SQSTAT) -/
  sqCls : Nat := 0
  /-- sq_same (08:BG_SQSTAT) -/
  sqSame : Nat := 0
  /-- sq_later (08:BG_SQSTAT) -/
  sqLater : Nat := 0
  /-- record: cycle, location, pc, aux, headers, short list (08:BG_SQCYC..) -/
  sqRec : FaultRep := {}
deriving DecidableEq, Repr

/-- The service panel (R430-R435). -/
structure Pnl where
  /-- ident (14:PNL_CTRL) -/
  ident : Bool := false
  /-- park_s (14:PNL_CTRL) -/
  parkS : Nat := 30
  /-- engine time presence lapses (14:R430) -/
  presUntil : Option Nat := none
  /-- touch (14:PNL_STAT) -/
  touch : Bool := false
  /-- attn (14:PNL_STAT) -/
  attn : Bool := false
  /-- remove (14:PNL_STAT) -/
  remove : Bool := false
  /-- presence detects (14:PNL_PRES) -/
  pres : BitVec 18 := 0
  /-- displayed message acknowledged (14:R430) -/
  acked : Bool := false
  /-- engine time removal guidance ends (14:R430) -/
  touchUntil : Option Nat := none
deriving DecidableEq, Repr

/-- One converter channel (R437-R445). -/
structure AdcCh where
  /-- ovr (15:ADC_CHn) -/
  ovr : Bool := false
  /-- untrace (15:ADC_CHn) -/
  untrace : Bool := false
  /-- shadow (15:ADC_CHn) -/
  shadow : Bool := false
  /-- mean (15:ADC_CHn) -/
  mean : Int := 0
  /-- t_fe (15:ADC_CHn) -/
  tfe : Int := 0
  /-- last (15:ADC_CHn) -/
  last : Int := 0
  /-- t_cal (15:ADC_FEn) -/
  tcal : Int := 0
  /-- z_fe (15:ADC_FEn) -/
  z : BitVec 20 := 0
  /-- f_fe (15:ADC_FEn) -/
  span : BitVec 20 := 0
  /-- sum of the samples of the present 1 ms (15:ADC_CHn) -/
  sum : Int := 0
  /-- samples of the present 1 ms (15:ADC_CHn) -/
  cnt : Nat := 0
  /-- the latest sample stands at code 0 or 16,383 (15:R441) -/
  atRail : Bool := false
  /-- s0 (15:ADC_SYSn) -/
  s0 : BitVec 32 := 0
  /-- s1 (15:ADC_SYSn) -/
  s1 : BitVec 32 := 0
  /-- due whatever its temperature difference: 1 by ADC_DRIFT.all, 2 to be traced again (15:R442,R445) -/
  due : Nat := 0
  /-- engine time of the next try (15:R444) -/
  retryAt : Option Nat := none
  /-- consecutive 1 ms means above the threshold (15:R450) -/
  above : Nat := 0
  /-- consecutive 1 ms means below the release level (15:R450) -/
  below : Nat := 0
  /-- pad touched (15:R450) -/
  touched : Bool := false
  /-- 1 ms means while not touched, latest first (15:R450) -/
  hist : List Nat := []
deriving DecidableEq, Repr

/-- The telemetry converter (R436-R450). -/
structure Adc where
  /-- channels 0-24 (15:R436) -/
  ch : Table AdcCh := []
  /-- go (15:ADC_SYSCAL) -/
  scGo : Bool := false
  /-- result (15:ADC_SYSCAL) -/
  scResult : Nat := 0
  /-- point (15:ADC_SYSCAL) -/
  scPoint : Bool := false
  /-- ch (15:ADC_SYSCAL) -/
  scCh : BitVec 5 := 0
  /-- value (15:ADC_SYSCAL) -/
  scValue : BitVec 32 := 0
  /-- Point of the capture that runs (15:R447) -/
  capPoint : Bool := false
  /-- Channel of the capture that runs (15:R447) -/
  capCh : BitVec 5 := 0
  /-- Known value of the capture that runs (15:R447) -/
  capValue : BitVec 32 := 0
  /-- pending point 0: channel, z, and u_z as a fraction (15:R447) -/
  zeroPt : Option (Nat × Int × Int × Int) := none
  /-- dt (15:ADC_DRIFT) -/
  dt : BitVec 4 := 4
  /-- drifts (15:ADC_STAT) -/
  drifts : Nat := 0
  /-- rej (15:ADC_STAT) -/
  rej : Nat := 0
  /-- channel under drift calibration (15:ADC_STAT) -/
  busy : Option Nat := none
  /-- thr (15:ADC_TOUCH) -/
  thr : Nat := 256
  /-- frame number k (15:R437) -/
  frame : Nat := 0
  /-- sum over frames of the minimum VIR, of the present 50 us (13:R383) -/
  vSum : Nat := 0
  /-- sum of the flow samples of the present 100 us (13:R409) -/
  fSum : Int := 0
  /-- flow samples of the present 100 us (13:R409) -/
  fCnt : Nat := 0
  /-- CAL_ISO_N low (18:R483) -/
  calIsoPin : Bool := false
deriving DecidableEq, Repr

/-- The security engine (R451-R464). -/
structure Sec where
  /-- owner Ed25519 key (16:R453) -/
  edKey : Option (List (BitVec 8)) := none
  /-- owner ML-DSA-65 key (16:R453) -/
  mlKey : List (BitVec 8) := []
  /-- ownership epoch (16:R453) -/
  oepoch : BitVec 32 := 0
  /-- tenant key epochs (16:R453) -/
  tepoch : Table (BitVec 32) := []
  /-- held nonce (16:R457) -/
  nonce : Option (List (BitVec 8)) := none
  /-- sigfail (16:SEC_FAIL) -/
  sigfail : Nat := 0
  /-- stale (16:SEC_FAIL) -/
  stale : Nat := 0
  /-- Ed25519 seed (16:R451) -/
  seedEd : List (BitVec 8) := []
  /-- ML-DSA-65 seed (16:R451) -/
  seedMl : List (BitVec 8) := []
  /-- endorsement (16:R452) -/
  endorse : List (BitVec 8) := []
deriving DecidableEq, Repr

/-- Boundary-scan instructions (R376). -/
inductive JtagIr where
  /-- BYPASS -/
  | bypass
  /-- IDCODE -/
  | idcode
  /-- SAMPLE/PRELOAD -/
  | samplePreload
  /-- EXTEST -/
  | extest
  /-- CLAMP -/
  | clamp
  /-- HIGHZ -/
  | highz
  /-- EXTEST_PULSE -/
  | extestPulse
  /-- EXTEST_TRAIN -/
  | extestTrain
deriving DecidableEq, Repr

/-- The boundary-scan port (R376). -/
structure Jtag where
  /-- instruction loaded (12:R376) -/
  ir : JtagIr := .bypass
  /-- data register captured by IDCODE (12:R376) -/
  dr : BitVec 32 := 0
  /-- pins captured by SAMPLE/PRELOAD (12:R376) -/
  sample : List Bool := []
deriving DecidableEq, Repr

/-- The fuses (R413, R451, R468). -/
structure Fuses where
  /-- grade 2, 4, 6 or 8 (14:BG_ID) -/
  grade : Nat := 8
  /-- stepping B0 (14:BG_ID) -/
  b0 : Bool := true
  /-- serial number (14:BG_ID) -/
  serial : BitVec 48 := 0
  /-- device-unique secret (16:R451) -/
  dus : BitVec 256 := 0
  /-- die identifiers (17:R468) -/
  dieIds : Table (BitVec 48) := []
deriving DecidableEq, Repr

/-- What the engine puts on an outside interface, in order (model's own record). -/
inductive Out where
  /-- a write to host memory (ring entry, index writeback, snowpack record) -/
  | hostWrite (addr : BitVec 64) (data : List (BitVec 8))
  /-- an MSI-X interrupt: function 0 is the PF (R357) -/
  | msix (fn vec : Nat)
  /-- answer of a register read; none: unsupported request (R16) -/
  | mmioRead (value : Option (BitVec 64))
  /-- unsupported request for a write (R16, R348) -/
  | ur
  /-- answer of a CXL.mem read (R362) -/
  | memRead (data : List (BitVec 8))
  /-- completion of a mailbox command: return code and output payload (R360) -/
  | mbox (ret : Nat) (data : List (BitVec 8))
  /-- answer of an SMBus command (R374) -/
  | smb (data : List (BitVec 8))
  /-- a frame sent on the Isobar ring (R371) -/
  | frame (data : List (BitVec 8))
  /-- a fabric message: 0 data, 1 ACK, 2 NAK remote access, 3 NAK remote operational, 4 CNP, 5 retransmission (R364-R368) -/
  | fabric (qp : Nat) (kind : Nat) (data : List (BitVec 8))
  /-- an ARP or neighbour-solicitation answer (R367) -/
  | arp (port : Nat) (data : List (BitVec 8))
  /-- an SPDM answer on DOE (R351) -/
  | spdm (data : List (BitVec 8))
  /-- an AVSBus setpoint (R375) -/
  | avs (mv : Nat)
  /-- data register captured by the boundary-scan port (R376) -/
  | jtag (dr : BitVec 32)
deriving DecidableEq, Repr
/-- The whole engine and the queue of waiting commands. -/
structure State where
  /-- fuses (14:R413) -/
  fuses : Fuses := {}
  /-- plane (01:R18) -/
  plane : Plane := {}
  /-- Jetstream tables and field map (06:R170) -/
  jet : Jet := {}
  /-- loader (08:R225) -/
  ldr : Loader := {}
  /-- weight store (09:R244) -/
  wst : Wst := {}
  /-- KV store (10:R278) -/
  kv : Kv := {}
  /-- serving hub (11:R314) -/
  hub : Hub := {}
  /-- tenant blocks (12:R352) -/
  tenants : Table Tenant := []
  /-- host, fabric and mailbox (12:R348) -/
  host : HostIf := {}
  /-- Isobar station (12:R370) -/
  iso : Iso := {}
  /-- power control (13:R386) -/
  pwr : Pwr := {}
  /-- thermal control (13:R398) -/
  thm : Thm := {}
  /-- Barograph (14:R413) -/
  bg : Bg := {}
  /-- service panel (14:R430) -/
  pnl : Pnl := {}
  /-- telemetry converter (15:R436) -/
  adc : Adc := {}
  /-- security engine (16:R451) -/
  sec : Sec := {}
  /-- boundary-scan port (12:R376) -/
  jtag : Jtag := {}
  /-- what the engine put on its outside interfaces, oldest first (model) -/
  out : List Out := []
  /-- counter that the free values are applied to (model) -/
  free : Nat := 0
  /-- commands waiting, first in first out (model) -/
  pending : List Instr := []
deriving DecidableEq, Repr
/-- System coefficients a part ships with, in 1/256 unit: channel, s0, s1 (R448, R484). -/
def shippedScale : List (Nat × Nat × Nat) :=
  (List.range 8).map (fun n => (n, 0, 5120000)) ++ [8, 9, 10, 11].map (fun n => (n, 0, 2048000)) ++
  [(12, 3276800, 4096000), (13, 3276800, 4096000), (14, 0, 307200), (15, 0, 2560000), (16, 0, 2560000), (17, 0, 2560000),
   (18, 3276800, 4096000), (23, 0, 3840000)]

/-- The engine as its VSB rail has not yet come up: what the spec gives for reset, and the values the
assumption log names where it gives none (log 3, 4, 5). The queue is empty. -/
def State.reset : State :=
  { fuses := {},
    plane := {},
    jet := {},
    ldr := {},
    wst := {},
    kv := {},
    hub := {},
    tenants := [],
    host := {},
    iso := {},
    pwr := {},
    thm := {},
    bg := {},
    pnl := {},
    adc := {ch := shippedScale.map fun e => (e.1, ({ s0 := BitVec.ofNat 32 e.2.1, s1 := BitVec.ofNat 32 e.2.2 } : AdcCh))},
    sec := {},
    jtag := {},
    out := [],
    free := 0,
    pending := [] }

end Sys2Proof.Machine
end

