-- ==== Sys2Proof/Machine/Ops.lean ====
section
/-! DEFINITION. The named operations over tables, memory, cores, counters and the squall wires that every meaning
uses. Raising a squall is one operation, `raise`. -/

namespace Sys2Proof.Machine

open Sys2Proof

/-- The outcome type of a meaning. -/
abbrev Res := Host.Outcome State Fault Refusal

/-! ### Sparse tables -/

/-- Reads entry k; an unlisted entry reads d. -/
def tget {α : Type} (d : α) : Table α → Nat → α
  | [], _ => d
  | (j, w) :: r, k => if k < j then d else if k = j then w else tget d r k

/-- Writes entry k, keeping the canonical form: writing d removes the entry. -/
def tset {α : Type} [DecidableEq α] (d : α) : Table α → Nat → α → Table α
  | [], k, v => if v = d then [] else [(k, v)]
  | (j, w) :: r, k, v =>
    if k < j then (if v = d then (j, w) :: r else (k, v) :: (j, w) :: r)
    else if k = j then (if v = d then r else (k, v) :: r)
    else (j, w) :: tset d r k v

/-- Keys strictly above k rise, and no entry holds d. -/
def twfFrom {α : Type} [DecidableEq α] (d : α) : Nat → Table α → Bool
  | _, [] => true
  | k, (j, w) :: r => decide (k ≤ j) && decide (w ≠ d) && twfFrom d (j + 1) r

/-- The canonical form of a table. -/
def twf {α : Type} [DecidableEq α] (d : α) (t : Table α) : Bool := twfFrom d 0 t

/-- Applies f to entry k. -/
def tmod {α : Type} [DecidableEq α] (d : α) (t : Table α) (k : Nat) (f : α → α) : Table α := tset d t k (f (tget d t k))

/-- Applies f to every listed entry, keeping the canonical form; f keeps the default. -/
def tmap {α : Type} [DecidableEq α] (d : α) (f : α → α) (t : Table α) : Table α :=
  (t.map fun e => (e.1, f e.2)).filter fun e => decide (e.2 ≠ d)

/-! ### Bytes and memories -/

/-- `n` little-endian bytes of v (R4). -/
def leBytes : Nat → Nat → List Byte
  | 0, _ => []
  | n + 1, v => BitVec.ofNat 8 v :: leBytes n (v / 256)

/-- The number a little-endian byte run stands for (R4). -/
def ofLe : List Byte → Nat
  | [] => 0
  | b :: r => b.toNat + 256 * ofLe r

/-- One byte of a memory; an unlisted byte reads 0. -/
def mget (m : List Host.Cell) (a : Nat) : Byte := tget 0 m a

def mset (m : List Host.Cell) (a : Nat) (b : Byte) : List Host.Cell := tset 0 m a b

/-- The canonical form of a memory: addresses strictly rising, no entry equal to what an unlisted byte reads. -/
def memWf (m : List Host.Cell) : Bool := twf (0 : Byte) m

/-- `n` bytes from address a on. -/
def mread (m : List Host.Cell) (a : Nat) : Nat → List Byte
  | 0 => []
  | n + 1 => mget m a :: mread m (a + 1) n

/-- Writes a run of bytes from address a on. -/
def mwrite (m : List Host.Cell) (a : Nat) : List Byte → List Host.Cell
  | [] => m
  | b :: r => mwrite (mset m a b) (a + 1) r

/-- Stores cells one by one over a memory. -/
def storeCells (m l : List Host.Cell) : List Host.Cell := l.foldl (fun m c => mset m c.1 c.2) m

/-- Drops every cell at lo to hi - 1. -/
def mclear (m : List Host.Cell) (lo hi : Nat) : List Host.Cell := m.filter fun c => c.1 < lo || hi ≤ c.1

/-- Byte i of a run, 0 beyond its end. -/
def byteAt (l : List Byte) (i : Nat) : Byte := l.getD i 0

/-- n-byte little-endian number at offset i of a run. -/
def leAt (l : List Byte) (i n : Nat) : Nat := ofLe ((l.drop i).take n)

/-- Bits [hi:lo] of a number. -/
def bits (v hi lo : Nat) : Nat := v / 2 ^ lo % 2 ^ (hi + 1 - lo)

/-- Bit i of a number. -/
def bit (v i : Nat) : Bool := decide (v / 2 ^ i % 2 = 1)

def b2n (b : Bool) : Nat := if b then 1 else 0

/-- Saturating count. -/
def satAdd (top a b : Nat) : Nat := min top (a + b)

/-- Ceiling division. -/
def cdivN (a b : Nat) : Nat := (a + b - 1) / b

/-! ### Numbering (R11, R12) -/

/-- Cores of the plane: 48 physical fields of 12 clusters of 32 physical cores. -/
def nCores : Nat := 18432

def pfOf (c : Nat) : Nat := c / 384
def clOf (c : Nat) : Nat := c / 32 % 12
def pcOf (c : Nat) : Nat := c % 32
/-- Physical cluster of a core, 12 x physical field + cluster. -/
def pclOf (c : Nat) : Nat := c / 32

/-- Physical field that logical field lf stands at (R256). -/
def pfieldOf (s : State) (lf : Nat) : Option Nat := s.jet.binding.getD lf none

/-- Logical field of a physical field; none when the field map does not use it. -/
def lfieldOf (s : State) (pf : Nat) : Option Nat :=
  (List.range 46).find? fun lf => decide (pfieldOf s lf = some pf)

/-- Physical cores of physical cluster pcl that the core tables count as good, ascending. -/
def goodCores (s : State) (pcl : Nat) : List Nat :=
  (List.range 32).filter fun k => !bit (tget 0 s.jet.badMask pcl).toNat k

/-- Physical core of logical core k of a cluster: the (k+1)-th good one (R236). -/
def pcoreOf (s : State) (pcl k : Nat) : Option Nat := (goodCores s pcl)[k]?

/-- Logical core number of physical core p of a cluster. -/
def lcoreOf (s : State) (pcl p : Nat) : Option Nat :=
  (List.range 28).find? fun k => decide (pcoreOf s pcl k = some p)

/-- Plane-wide logical cluster, 12 x field + cluster, of a physical cluster (R9). -/
def lclOf (s : State) (pcl : Nat) : Option Nat := (lfieldOf s (pcl / 12)).map fun lf => 12 * lf + pcl % 12

/-- Physical cluster of a plane-wide logical cluster. -/
def pclOfL (s : State) (lcl : Nat) : Option Nat := (pfieldOf s (lcl / 12)).map fun pf => 12 * pf + lcl % 12

/-! ### Plane memories: where each byte stands in `plane.sram` -/

/-- Scratchpad byte of a core (R86). -/
def spmAddr (c off : Nat) : Nat := c * 2 ^ 21 + off
/-- Weight-FIFO byte of a core (R98). -/
def fifoAddr (c off : Nat) : Nat := 2 ^ 36 + c * 2 ^ 16 + off
/-- Cluster-memory byte of a physical cluster (R101). -/
def cmAddr (pcl off : Nat) : Nat := 2 ^ 37 + pcl * 2 ^ 25 + off

def spmSize : Nat := 0x180000
def cmSize : Nat := 0x1800000
def fifoSize : Nat := 0x10000

/-- Bank of a scratchpad offset (R86). -/
def bankOf (off : Nat) : Nat := 4 * (off / 2 ^ 18) + off / 64 % 4

/-- Line within its bank of a scratchpad offset (R86). -/
def bankLine (off : Nat) : Nat := off / 64 % 4096 / 4

/-- Bank of a cluster-memory offset (R101). -/
def cmBankOf (off : Nat) : Nat := 4 * (off / 2 ^ 21) + off / 64 % 4

/-- Size of the code region in bytes (R92). -/
def codeBytes (s : State) : Nat :=
  match s.ldr.prog with
  | some p => p.codeSize * 0x10000
  | none => 0

/-- An offset lies in the code region (R92). -/
def inCode (s : State) (off : Nat) : Bool := decide (spmSize - codeBytes s ≤ off ∧ off < spmSize)

/-! ### Plane and cores -/

def State.withPlane (s : State) (p : Plane) : State := { s with plane := p }

def State.core (s : State) (c : Nat) : Core := tget {} s.plane.cores c

def State.setCore (s : State) (c : Nat) (k : Core) : State :=
  { s with plane := { s.plane with cores := tset {} s.plane.cores c k } }

def State.modCore (s : State) (c : Nat) (f : Core → Core) : State := s.setCore c (f (s.core c))

def State.cycle (s : State) : Nat := s.plane.cycle

def State.sramGet (s : State) (a n : Nat) : List Byte := mread s.plane.sram a n

def State.sramSet (s : State) (a : Nat) (d : List Byte) : State :=
  { s with plane := { s.plane with sram := mwrite s.plane.sram a d } }

/-- Appends an output of an outside interface. -/
def State.emit (s : State) (o : Out) : State := { s with out := s.out ++ [o] }

/-- A fresh index for a free value. -/
def State.bumpFree (s : State) : State := { s with free := s.free + 1 }

def State.tenant (s : State) (t : Nat) : Tenant := tget {} s.tenants t

def State.setTenant (s : State) (t : Nat) (v : Tenant) : State := { s with tenants := tset {} s.tenants t v }

def State.modTenant (s : State) (t : Nat) (f : Tenant → Tenant) : State := s.setTenant t (f (s.tenant t))

/-! ### Queue pairs (R367, R369) -/

def State.qp (s : State) (n : Nat) : Qp := tget {} s.host.qps n

def State.setQp (s : State) (n : Nat) (q : Qp) : State := { s with host := { s.host with qps := tset {} s.host.qps n q } }

/-- Packets a message of n bytes takes on a queue pair, by its MTU. -/
def qpPackets (q : Qp) (n : Nat) : Nat := max 1 (cdivN n (1024 * 2 ^ (min 2 (byteAt q.ctx 3).toNat)))

/-- Requester messages on a queue pair advance its send PSN; their end clears the ACK retries. -/
def State.qpSent (s : State) (n bytes : Nat) : State :=
  let q := s.qp n
  s.setQp n { q with spsn := (q.spsn + qpPackets q bytes) % 2 ^ 24, retries := 0 }

/-- A new operation runs on the queue pair its target names (R369): kind 0 park, 1 restore, 2 shard. -/
def State.clearOp (s : State) (kind ref : Nat) : State :=
  { s with host := { s.host with ops := s.host.ops.filter fun o => !(o.kind == kind && o.ref == ref) } }

/-- A fabric operation: on the queue pair it was moved to, else whole on the one its target names. -/
def fabOp (s : State) (kind ref dflt : Nat) : FabOp :=
  (s.host.ops.find? fun o => o.kind == kind && o.ref == ref).getD { qp := dflt, kind := kind, ref := ref }

/-- Queue pair an operation runs on. -/
def opQp (s : State) (kind ref dflt : Nat) : Nat := (fabOp s kind ref dflt).qp

/-- A completion after its upper timeout is dropped, and counted in LNK_STAT or CXLX_STAT (R216). -/
def lateDone (s : State) (fab : Bool) : State :=
  if fab then { s with host := { s.host with lnkLate := satAdd 65535 s.host.lnkLate 1 } }
  else { s with host := { s.host with late := satAdd 65535 s.host.late 1 } }

/-- Engine time in microseconds (R314). -/
def State.now (s : State) : Nat := s.hub.time

/-- A program runs: loaded and not stopped (R227 state 8h). -/
def State.running (s : State) : Bool := decide (s.ldr.state = 8)

/-! ### The squall wires (R239) -/

/-- Raises a fault on the squall wires: it waits for the stop while a program runs; with the program stopped by a squall
it is only counted in sq_later (R239); during a load it is not recorded (R225), but a hardware fault in a used cluster (class
0Eh or 0Fh, or 0Ch once nothing of the previous program is in flight) costs that cluster a block (R238). -/
def State.raise (s : State) (f : FaultRep) : State :=
  if s.plane.progRun then { s with plane := { s.plane with faults := s.plane.faults ++ [f] } }
  else if s.ldr.state = 10 then { s with bg := { s.bg with sqLater := satAdd 255 s.bg.sqLater 1 } }
  else if 1 ≤ s.ldr.state ∧ s.ldr.state ≤ 7 ∧ (f.cls = 0xE ∨ f.cls = 0xF ∨ (f.cls = 0xC ∧ 5 ≤ s.ldr.state)) then
    match lfieldOf s f.pfield with
    | some lf => { s with ldr := { s.ldr with hurt := s.ldr.hurt ++ [12 * lf + f.cluster] } }
    | none => s
  else s

/-- The location fields of a core's fault record (BG_SQLOC). -/
def coreRep (s : State) (c cls : Nat) (slot : SlotKind) (pc : Nat) : FaultRep :=
  { cycle := s.cycle, cls := cls, pfield := pfOf c, cluster := clOf c, pcore := pcOf c,
    lfield := (lfieldOf s (pfOf c)).getD 63, lcore := (lcoreOf s (pclOf c) (pcOf c)).getD 31,
    unit := 0, pc := pc, slot := slot }

/-- A fault of a core's slot operation: class, slot and pc (R139, R168). -/
def State.raiseCore (s : State) (c cls : Nat) (slot : SlotKind) (pc : Nat) : State := s.raise (coreRep s c cls slot pc)

/-- A fault at a unit of a cluster that is not a core. -/
def unitRep (s : State) (pcl cls unit loc : Nat) : FaultRep :=
  { cycle := s.cycle, cls := cls, pfield := pcl / 12, cluster := pcl % 12, pcore := 0,
    lfield := (lfieldOf s (pcl / 12)).getD 63, lcore := 31, unit := unit, loc := loc }

/-! ### Completion counters (R115, R116) -/

def Core.ccGet (k : Core) (i : Nat) : BitVec 32 := tget 0 k.cc i
def Core.ccSet (k : Core) (i : Nat) (v : BitVec 32) : Core := { k with cc := tset 0 k.cc i v }

/-- One increment of counter i of core c by a completion (R115). One that would pass FFFF_FFFFh stands over to the end of
the cycle: an operation of the same cycle on the counter comes before it, and without one it raises the
counter-overflow squall (R116). -/
def State.incr (s : State) (c i pc : Nat) (slot : SlotKind) : State :=
  let k := s.core c
  if (k.ccGet i).toNat = 2 ^ 32 - 1 then s.setCore c { k with overs := k.overs ++ [(i, pc, slot)] }
  else s.setCore c { k.ccSet i (k.ccGet i + 1) with incs := tmod 0 k.incs i (· + 1) }

/-- n increments of counter i of core c, at one time each. -/
def State.incrN (s : State) (c i pc : Nat) (slot : SlotKind) : Nat → State
  | 0 => s
  | n + 1 => (s.incr c i pc slot).incrN c i pc slot n

/-! ### Check bits (R96) -/

/-- Address of the first 8-byte word of a run that holds a double-bit error. -/
def sramBad (s : State) (a n : Nat) : Option Nat :=
  (s.plane.sramErr.find? fun e => decide (a / 8 ≤ e.1) && decide (e.1 < (a + n + 7) / 8) && e.2 == 2).map (8 * ·.1)

/-- Record of an SRAM double-bit error at an address of the plane's memories: core or cluster, memory, bank and line
(R96, BG_SQAUX). -/
def memRep (s : State) (sl : SlotKind) (pc a : Nat) : FaultRep :=
  if a < 2 ^ 36 then
    { coreRep s (a / 2 ^ 21) 0xC sl pc with auxHi := bankOf (a % 2 ^ 21), auxLo := bankLine (a % 2 ^ 21) }
  else if a < 2 ^ 37 then
    let x := (Config.fifoPlace ((a - 2 ^ 36) % 2 ^ 16 / 128)).toNat
    { coreRep s ((a - 2 ^ 36) / 2 ^ 16) 0xC sl pc with auxHi := x / 2 ^ 32, auxLo := x % 2 ^ 32 }
  else
    let o := (a - 2 ^ 37) % 2 ^ 25
    { unitRep s ((a - 2 ^ 37) / 2 ^ 25) 0xC 1 0 with auxHi := cmBankOf o, auxLo := o / 64 % 32768 / 4 }

/-- The words of a run read good from now on (a write, or a corrected read with write-back). -/
def sramClean (s : State) (a n : Nat) : State :=
  { s with plane := { s.plane with
      sramErr := s.plane.sramErr.filter fun e => e.1 < a / 8 || (a + n + 7) / 8 ≤ e.1 } }

/-- Microseconds of 24 h. -/
def dayUs : Nat := 86400000000

/-- A line corrected three times within 24 h of engine time is flagged (R427). -/
def flagLine (s : State) (line : Nat) : State :=
  let hist := (s.bg.eccHist ++ [(line, s.now)]).filter fun e => decide (s.now < e.2 + dayUs)
  let n := (hist.filter fun e => e.1 == line).length
  { s with bg := { s.bg with
      eccHist := hist
      flagged := if 3 ≤ n && !s.bg.flagged.contains line then s.bg.flagged ++ [line] else s.bg.flagged } }

/-- The words of a run with a single-bit error. -/
def singleWords (s : State) (a n : Nat) : List Nat :=
  (s.plane.sramErr.filter fun e => a / 8 ≤ e.1 && e.1 < (a + n + 7) / 8 && e.2 == 1).map (·.1)

/-- A read of a run corrects its single-bit errors and counts them, each under its 64-byte line (R96, R427). -/
def sramCorrect (s : State) (a n : Nat) : State :=
  let ws := singleWords s a n
  if ws.isEmpty then s
  else
    let s1 : State := { s with
      plane := { s.plane with sramErr := s.plane.sramErr.filter fun e => !(a / 8 ≤ e.1 && e.1 < (a + n + 7) / 8 && e.2 == 1) }
      bg := { s.bg with eccCorr := satAdd (2 ^ 32 - 1) s.bg.eccCorr ws.length } }
    ws.foldl (fun s w => flagLine s (w / 8)) s1

/-- The words that a run covers in part. -/
def partWords (a n : Nat) : List Nat :=
  (if a % 8 ≠ 0 then [a / 8] else []) ++ (if (a + n) % 8 ≠ 0 then [(a + n) / 8] else [])

/-- Reads a run of plane SRAM: single-bit errors are corrected and counted, a double-bit error raises the squall of class
0Ch and the read yields nothing (R96, R239). -/
def sramRead (s : State) (sl : SlotKind) (pc a n : Nat) : Option (List Byte) × State :=
  match sramBad s a n with
  | some w => (none, s.raise (memRep s sl pc w))
  | none => (some (s.sramGet a n), sramCorrect s a n)

/-- Reads several runs as one operation. -/
def sramReadAll (s : State) (sl : SlotKind) (pc : Nat) (runs : List (Nat × Nat)) : Option (List (List Byte)) × State :=
  match runs.findSome? fun r => sramBad s r.1 r.2 with
  | some w => (none, s.raise (memRep s sl pc w))
  | none => (some (runs.map fun r => s.sramGet r.1 r.2), runs.foldl (fun s r => sramCorrect s r.1 r.2) s)

/-- Writes a run of plane SRAM: words written whole lose their errors; a word written in part is read and merged, so that
a single-bit error there is corrected and counted, and a double-bit error makes the write take no effect and raises the
squall of class 0Ch (R96). -/
def sramStore (s : State) (sl : SlotKind) (pc a : Nat) (d : List Byte) : State :=
  match (partWords a d.length).find? fun w => tget 0 s.plane.sramErr w == 2 with
  | some w => s.raise (memRep s sl pc (8 * w))
  | none => (sramClean ((partWords a d.length).foldl (fun s w => sramCorrect s (8 * w) 8) s) a d.length).sramSet a d

end Sys2Proof.Machine
end

