-- ==== Sys2Proof/Machine/Flags.lean ====
section
/-! DEFINITION. The conditions an instruction computes: scalar compares, predicate logic, guards, vector compares. -/

namespace Sys2Proof.Machine

open Sys2Proof

/-- cond of cmp (R113); reserved values never reach it. -/
def cmpCond (cond : BitVec 4) (x y : BitVec 64) : Bool :=
  match cond.toNat with
  | 0 => x == y
  | 1 => x != y
  | 2 => BitVec.slt x y
  | 3 => !BitVec.slt x y
  | 4 => BitVec.ult x y
  | _ => !BitVec.ult x y

/-- fn of plog (R112). -/
def plogFn (fn : BitVec 2) (x y : Bool) : Bool :=
  match fn.toNat with
  | 0 => x && y
  | 1 => x || y
  | _ => x != y

/-- cond of vcmp on two lane values (R160): every comparison with a NaN is false except ne and unordered. -/
def vcmpCond (cond : BitVec 4) (x y : FV) : Bool :=
  let un := x.isNan || y.isNan
  match cond.toNat with
  | 0 => !un && FV.eqv x y
  | 1 => un || !FV.eqv x y
  | 2 => FV.lt x y
  | 3 => !un && !FV.lt y x
  | 4 => FV.lt y x
  | 5 => !un && !FV.lt x y
  | _ => un

/-- x orders below y, with -0 below +0 (R160); neither is a NaN. -/
def FV.below (x y : FV) : Bool := FV.lt x y || (FV.eqv x y && x.isNeg && !y.isNeg)

/-- Lane minimum (R160). -/
def FV.vmin (x y : FV) : FV := if x.isNan || y.isNan then .nan else if FV.below y x then y else x

/-- Lane maximum (R160). -/
def FV.vmax (x y : FV) : FV := if x.isNan || y.isNan then .nan else if FV.below x y then y else x

/-- Predicate register (R105): p0 reads 1. -/
def Core.pGet (k : Core) (r : Nat) : Bool := if r = 0 then true else tget false k.p r

/-- A guard lets its operation take effect: p[gp] XOR gn is 1 (R105). -/
def guardOn (k : Core) (g : Guard) : Bool := k.pGet g.gp.toNat != g.gn

end Sys2Proof.Machine
end

