-- ==== Sys2Proof/Machine/Operands.lean ====
section
/-! DEFINITION. Operands of slot operations: registers, results on their way, addresses, and the one frame every slot
operation runs in (encoding check, guard, effect). -/

namespace Sys2Proof.Machine

open Sys2Proof

/-! ### Registers (R107, R83) -/

/-- Scalar register; g0 reads 0. -/
def Core.gGet (k : Core) (r : Nat) : BitVec 64 := if r = 0 then 0 else tget 0 k.g r

def Core.aGet (k : Core) (r : Nat) : BitVec 48 := tget 0 k.a r

def Core.vGet (k : Core) (r : Nat) : BitVec 2048 := tget 0 k.v r

def Core.shGet (k : Core) (r : Nat) : BitVec 64 := tget 0 k.sh r

/-- Writes a register now; writes to g0 and p0 are ignored. -/
def Core.put (k : Core) (d : OpDest) (v : BitVec 2048) : Core :=
  match d with
  | .g r => if r = 0 then k else { k with g := tset 0 k.g r.toNat (v.setWidth 64) }
  | .a r => { k with a := tset 0 k.a r.toNat (v.setWidth 48) }
  | .p r => if r = 0 then k else { k with p := tset false k.p r.toNat (v.getLsbD 0) }
  | .v r => { k with v := tset 0 k.v r.toNat v }

/-- Order of same-cycle writes: S, V, X, M (R107). -/
def slotOrd : SlotKind → Nat
  | .S => 0 | .V => 1 | .X => 2 | .M => 3

/-- Schedules a result that is visible from cycle `due` on. -/
def Core.later (k : Core) (due : Nat) (sl : SlotKind) (d : OpDest) (v : BitVec 2048) : Core :=
  { k with writes := k.writes ++ [{ due := due, ord := slotOrd sl, dest := d, val := v }] }

/-- Schedules a scalar result of the S slot, `lat` cycles after issue. -/
def State.laterG (s : State) (c : Nat) (lat : Nat) (sl : SlotKind) (r : BitVec 5) (v : BitVec 64) : State :=
  s.modCore c fun k => k.later (s.cycle + lat) sl (.g r) (v.setWidth 2048)

def State.laterA (s : State) (c : Nat) (r : BitVec 5) (v : BitVec 48) : State :=
  s.modCore c fun k => k.later (s.cycle + 1) .S (.a (r.setWidth 4)) (v.setWidth 2048)

def State.laterP (s : State) (c : Nat) (r : BitVec 3) (v : Bool) : State :=
  s.modCore c fun k => k.later (s.cycle + 1) .S (.p r) (if v then 1 else 0)

def State.laterV (s : State) (c : Nat) (lat : Nat) (r : Nat) (v : BitVec 2048) : State :=
  s.modCore c fun k => k.later (s.cycle + lat) .V (.v (BitVec.ofNat 5 r)) v

/-! ### The frame of a slot operation (R105, R106) -/

/-- Encoding check whatever the guard, then the guard, then the effect on the core's state as it reads at issue. -/
def issueSlot (s : State) (c : Nat) (sl : SlotKind) (gd : Guard) (legal : Bool) (act : Core → State) : Res :=
  if nCores ≤ c then .next s
  else
    let k := s.core c
    if !legal then .next (s.raiseCore c 7 sl k.pc.toNat)
    else if guardOn k gd then .next (act k)
    else .next s

/-! ### Addresses (R6, R109) -/

def addrUnit (a : BitVec 48) : Nat := bits a.toNat 37 32
def addrOff (a : BitVec 48) : Nat := a.toNat % 2 ^ 32
def addrField (a : BitVec 48) : Nat := bits a.toNat 47 42
def addrCluster (a : BitVec 48) : Nat := bits a.toNat 41 38

/-- Bits [31:0] plus x modulo 2^32; the upper bits stay (R109). -/
def addrAdd (a : BitVec 48) (x : BitVec 32) : BitVec 48 :=
  BitVec.ofNat 48 (a.toNat / 2 ^ 32 * 2 ^ 32 + (a.toNat + x.toNat) % 2 ^ 32)

/-- An address register plus a signed 20-bit offset. -/
def addrImm (a : BitVec 48) (off : BitVec 20) : BitVec 48 := addrAdd a (off.signExtend 32)

/-- A local scratchpad run: unit 3Fh and every byte below the scratchpad's end. -/
def spmRun (a : BitVec 48) (off n : Nat) : Bool := decide (addrUnit a = 0x3F ∧ off + n ≤ spmSize)

/-- Count operand of a C-format operation: imm24 when src is 0, or g[g][31:0] when src is 1 (R115). -/
def ccCount (k : Core) (g : BitVec 5) (src : Bool) (imm : BitVec 24) : BitVec 32 :=
  if src then (k.gGet g.toNat).setWidth 32 else imm.setWidth 32

/-- The half of the count operand that is not used is zero (R112). -/
def ccLegal (g : BitVec 5) (src : Bool) (imm : BitVec 24) : Bool := if src then imm == 0 else g == 0

/-- Code of a scratchpad fault on a core's own port-A run: aux holds bank and line (R89, R96). -/
def bankRep (s : State) (c cls : Nat) (sl : SlotKind) (pc off : Nat) : FaultRep :=
  { coreRep s c cls sl pc with auxHi := bankOf off, auxLo := bankLine off }

/-! ### Rows of bytes as vector registers -/

/-- The number a run of bytes stands for, as an n-bit vector. -/
def packBv (n : Nat) (l : List Byte) : BitVec n := BitVec.ofNat n (ofLe l)

/-- 256 bytes of a vector register. -/
def vBytes (v : BitVec 2048) : List Byte := leBytes 256 v.toNat

/-- Lane i of 32 bits. -/
def lane32 (v : BitVec 2048) (i : Nat) : BitVec 32 := v.extractLsb' (32 * i) 32

/-- Lane i of 16 bits. -/
def lane16 (v : BitVec 2048) (i : Nat) : BitVec 16 := v.extractLsb' (16 * i) 16

/-- Packs numbers of w bits each from the least significant end (R34). -/
def packNat (w : Nat) : List Nat → Nat
  | [] => 0
  | x :: r => x % 2 ^ w + 2 ^ w * packNat w r

def vecOf32 (l : List (BitVec 32)) : BitVec 2048 := BitVec.ofNat 2048 (packNat 32 (l.map BitVec.toNat))
def vecOf16 (l : List (BitVec 16)) : BitVec 2048 := BitVec.ofNat 2048 (packNat 16 (l.map BitVec.toNat))

/-! ### Turned tiles (R94) -/

/-- (side, element bits) of a turned tile; none for tm 0 and the reserved values. -/
def turnShape (tm : BitVec 3) : Option (Nat × Nat) :=
  match tm.toNat with
  | 1 => some (16, 8)
  | 2 => some (16, 16)
  | 3 => some (32, 4)
  | 4 => some (32, 8)
  | _ => none

/-- Bytes of a turned tile, 256 when not turned. -/
def turnBytes (tm : BitVec 3) : Nat :=
  match turnShape tm with
  | some (n, w) => n * n * w / 8
  | none => 256

/-- Read cycles of a turned tile (R95). -/
def turnCycles (tm : BitVec 3) : Nat := turnBytes tm / 256

/-- Element i of a run packed by R34 with w bits each. -/
def elemAt (w : Nat) (v : Nat) (i : Nat) : Nat := v / 2 ^ (w * i) % 2 ^ w

/-- A tile stored row-major, as its columns one after the other (R94). -/
def turnTile (n w : Nat) (tile : List Byte) : List Byte :=
  let v := ofLe tile
  let cols := (List.range (n * n)).map fun i => elemAt w v (n * (i % n) + i / n)
  leBytes (n * n * w / 8) (packNat w cols)

/-- Turns every whole tile of a run. -/
def turnRun (tm : BitVec 3) (d : List Byte) : List Byte :=
  match turnShape tm with
  | none => d
  | some (n, w) =>
    let tb := n * n * w / 8
    (List.range (d.length / tb)).flatMap fun i => turnTile n w ((d.drop (i * tb)).take tb)

end Sys2Proof.Machine
end

