-- ==== Sys2Proof/Machine/Local.lean ====
section
/-! DEFINITION. M-slot operations on the scratchpad and the own cluster memory, and wdrop (chapter 04, R123-R129),
with the scratchpad's protected reads and writes (R92, R96). -/

namespace Sys2Proof.Machine

open Sys2Proof

/-! ### Protected accesses (R92, R96) -/

/-- Reads n bytes of a scratchpad. -/
def spmRead (s : State) (c off n : Nat) (sl : SlotKind) (pc : Nat) : Option (List Byte) × State :=
  sramRead s sl pc (spmAddr c off) n

/-- Writes a run of a core's scratchpad. -/
def spmWrite (s : State) (c off : Nat) (d : List Byte) (sl : SlotKind) (pc : Nat) : State :=
  sramStore s sl pc (spmAddr c off) d

/-- Any byte of a run lies in the code region. -/
def runInCode (s : State) (off n : Nat) : Bool := decide (spmSize - codeBytes s < off + n ∧ off < spmSize ∧ 0 < codeBytes s)

/-- Banks of a run of up to 256 B. -/
def runBanks (off n : Nat) : List Nat := (List.range (cdivN (off % 64 + n) 64)).map fun i => bankOf (off + 64 * i)

/-- Records port-A accesses of the bundle at pc, of fetch or of the M slot (R88). -/
def Core.useBanks (k : Core) (t pc : Nat) (l : List Nat) : Core :=
  { k with banks := k.banks ++ l.map fun b => { tAt := t, bank := b, pc := pc } }

/-- Banks that fetch and the M slot use in cycle n: fixed clients, served first (R88). -/
def fixedBanks (k : Core) (n : Nat) : List Nat := (k.banks.filter fun b => b.tAt == n).map (·.bank)

def meets (a b : List Nat) : Bool := a.any b.contains

/-- Port A of core c grants a queued client banks for the rest of the present cycle (R87, R88). -/
def grantA (s : State) (c : Nat) (l : List Nat) : State := s.modCore c fun k => { k with aBusy := k.aBusy ++ l }

/-! ### Loads and stores (R124-R126) -/

/-- Bytes of an ld or st. -/
def memSize (size : BitVec 2) : Nat := 2 ^ size.toNat

/-- LD (R124): the bank is read at t + 1 and the result is visible at t + 3. -/
def execLd (c : Nat) (gd : Guard) (a : BitVec 4) (reg : BitVec 5) (size : BitVec 2) (sx : Bool) (off : BitVec 20)
    (s : State) : Res :=
  issueSlot s c .M gd true fun k =>
    let n := memSize size
    let ad := addrImm (k.aGet a.toNat) off
    let o := addrOff ad / n * n
    if spmRun ad o n then
      let l : PendLoad := { tAt := s.cycle + 1, due := s.cycle + 3, off := o, bytes := n, sx := sx, reg := reg, pc := k.pc.toNat }
      s.setCore c (Core.useBanks { k with loads := k.loads ++ [l] } (s.cycle + 1) k.pc.toNat (runBanks o n))
    else s.raiseCore c 3 .M k.pc.toNat

/-- Schedules a store for cycle t + 1, or raises the squalls of R92 and R126. -/
def issueStore (s : State) (c : Nat) (k : Core) (ad : BitVec 48) (o : Nat) (d : List Byte) : State :=
  if !spmRun ad o d.length then s.raiseCore c 3 .M k.pc.toNat
  else if runInCode s o d.length then s.raiseCore c 4 .M k.pc.toNat
  else
    let w : PendStore := { tAt := s.cycle + 1, off := o, data := d, pc := k.pc.toNat }
    s.setCore c (Core.useBanks { k with stores := k.stores ++ [w] } (s.cycle + 1) k.pc.toNat (runBanks o d.length))

/-- ST (R124). -/
def execSt (c : Nat) (gd : Guard) (a : BitVec 4) (reg : BitVec 5) (size : BitVec 2) (off : BitVec 20) (s : State) : Res :=
  issueSlot s c .M gd true fun k =>
    let n := memSize size
    let ad := addrImm (k.aGet a.toNat) off
    issueStore s c k ad (addrOff ad / n * n) (leBytes n (k.gGet reg.toNat).toNat)

/-- LDV (R124, R125): with tm, a turned tile into one, two or four registers. -/
def execLdv (c : Nat) (gd : Guard) (a : BitVec 4) (reg : BitVec 5) (tm : BitVec 3) (off : BitVec 20) (s : State) : Res :=
  issueSlot s c .M gd (decide (tm.toNat ≤ 4) && decide (reg.toNat % turnCycles tm = 0)) fun k =>
    let ad := addrImm (k.aGet a.toNat) off
    let o := addrOff ad / 256 * 256
    let rc := turnCycles tm
    if spmRun ad o (turnBytes tm) then
      let k' := { k with loads := k.loads ++
        [{ tAt := s.cycle + rc, due := if tm = 0 then s.cycle + 3 else s.cycle + 5 + rc, off := o, bytes := turnBytes tm,
           rc := rc, tm := tm, vec := true, reg := reg, pc := k.pc.toNat }] }
      s.setCore c ((List.range rc).foldl (fun k i => k.useBanks (s.cycle + 1 + i) k.pc.toNat (runBanks (o + 256 * i) 256)) k')
    else s.raiseCore c 3 .M k.pc.toNat

/-- STV (R124). -/
def execStv (c : Nat) (gd : Guard) (a : BitVec 4) (reg : BitVec 5) (off : BitVec 20) (s : State) : Res :=
  issueSlot s c .M gd true fun k =>
    let ad := addrImm (k.aGet a.toNat) off
    issueStore s c k ad (addrOff ad / 256 * 256) (vBytes (k.vGet reg.toNat))

/-- Registers a load writes: the value of an ld, or one vector register for each 256 B of an ldv. -/
def loadWrites (l : PendLoad) (d : List Byte) : List RegWrite :=
  if l.vec then
    (List.range (l.bytes / 256)).map fun i =>
      { due := l.due, ord := 3, dest := .v (l.reg + BitVec.ofNat 5 i), rd := some l.tAt,
        val := packBv 2048 (((turnRun l.tm d).drop (256 * i)).take 256) }
  else
    let v := ofLe d
    let w := 8 * l.bytes
    let x : BitVec 64 := if l.sx then (BitVec.ofNat w v).signExtend 64 else BitVec.ofNat 64 v
    [{ due := l.due, ord := 3, dest := .g l.reg, rd := some l.tAt, val := x.setWidth 2048 }]

/-- Bytes a load reads in one read cycle: all of them, or one 256 B run of a turned tile (R95). -/
def PendLoad.runBytes (l : PendLoad) : Nat := if l.rc = 1 then l.bytes else 256

/-- A load reads the present cycle's run (R95, R124); with the last one its result is on its way. A double-bit error in a
run ends it (R96, R239). -/
def readLoad (s : State) (c : Nat) (l : PendLoad) : State :=
  let put (l' : PendLoad) (s : State) : State := s.modCore c fun k => { k with loads := k.loads ++ [l'] }
  if s.cycle + l.rc ≤ l.tAt then put l s
  else
    match spmRead s c (l.off + l.got.length) l.runBytes .M l.pc with
    | (none, s1) => s1
    | (some d, s1) =>
      if s.cycle < l.tAt then put { l with got := l.got ++ d } s1
      else s1.modCore c fun k => { k with writes := k.writes ++ loadWrites l (l.got ++ d) }

/-- The M-slot reads of the present cycle, in issue order. -/
def readLoads (s : State) (c : Nat) : State :=
  (s.core c).loads.foldl (fun s l => readLoad s c l) (s.modCore c fun k => { k with loads := [] })

/-- A store writes its bank. -/
def doStore (s : State) (c : Nat) (w : PendStore) : State := spmWrite s c w.off w.data (if w.drn then .X else .M) w.pc

/-! ### Cluster-memory transfers (R127) -/

/-- Frame of cget and cput: addresses checked at issue, then the transfer runs on its own. -/
def issueXfer (s : State) (c : Nat) (k : Core) (put : Bool) (a : BitVec 4) (g : BitVec 5) (cc : BitVec 6)
    (lines : Nat) (tm : BitVec 3) : State :=
  let ad := k.aGet a.toNat
  let o := addrOff ad / 64 * 64
  let raw := ((k.gGet g.toNat).setWidth 32).toNat
  let cm := raw / 64 * 64
  if !spmRun ad o (64 * lines) || decide (cmSize < cm + 64 * lines) || (tm != 0 && decide (raw % 256 ≠ 0)) then
    s.raiseCore c 3 .M k.pc.toNat
  else if !put && runInCode s o (64 * lines) then s.raiseCore c 4 .M k.pc.toNat
  else
    let x : Xfer :=
      { id := s.plane.nextId, core := c, put := put, off := o, cm := cm, lines := lines, tm := tm, cc := cc,
        tAt := s.cycle, tAtR := s.cycle + 1, pc := k.pc }
    { s with plane := { s.plane with nextId := s.plane.nextId + 1, xfers := s.plane.xfers ++ [x] } }

/-- CGET (R127): a turned one moves whole tiles. -/
def execCget (c : Nat) (gd : Guard) (a : BitVec 4) (g : BitVec 5) (cc lines : BitVec 6) (tm : BitVec 3) (s : State) : Res :=
  issueSlot s c .M gd (decide (tm.toNat ≤ 4) &&
      (tm == 0 || decide ((lines.toNat + 1) % (turnBytes tm / 64) = 0))) fun k =>
    issueXfer s c k false a g cc (lines.toNat + 1) tm

/-- CPUT (R127). -/
def execCput (c : Nat) (gd : Guard) (a : BitVec 4) (g : BitVec 5) (cc lines : BitVec 6) (s : State) : Res :=
  issueSlot s c .M gd true fun k => issueXfer s c k true a g cc (lines.toNat + 1) 0

/-- Reads a run of cluster memory. -/
def cmRead (s : State) (pcl off n : Nat) : Option (List Byte) × State := sramRead s .S 0 (cmAddr pcl off) n

/-- Writes a run of cluster memory. -/
def cmWrite (s : State) (pcl off : Nat) (d : List Byte) : State := sramStore s .S 0 (cmAddr pcl off) d

/-- An increment of a running program's counter; counts of a stopped program are dropped (R240). -/
def incrRun (s : State) (c i pc : Nat) (sl : SlotKind) : State := if s.plane.progRun then s.incr c i pc sl else s

/-- CLUSTER_TRANSFER_COMPLETE (R127): once the last line has been written, no earlier than t + 9 + lines, the counter
rises. -/
def execClusterTransferComplete (id : Nat) (s : State) : Res :=
  match s.plane.xfers.find? fun x => x.id == id with
  | none => .next s
  | some x =>
    if s.cycle < x.tAt + 9 + x.lines ∨ x.wrote < x.lines then .next s
    else
      .next (incrRun { s with plane := { s.plane with xfers := s.plane.xfers.filter fun y => y.id != id } }
        x.core x.cc.toNat x.pc.toNat .M)

/-! ### Weight FIFO takes (R98, R99, R129) -/

/-- Takes n granules of a core's weight FIFO in ring order: their content, stale or not, and the core with the ring
advanced and the arrival bits cleared. -/
def takeGranules (s : State) (c : Nat) (n : Nat) : List Byte × State :=
  let k := s.core c
  let gs := (List.range n).map fun i => (k.take + i) % 512
  let d := gs.flatMap fun g => s.sramGet (fifoAddr c (128 * g)) 128
  (d, s.setCore c { k with
    take := (k.take + n) % 512
    arrived := gs.foldl (fun t g => tset false t g false) k.arrived })

/-- A take whose content is used: a double-bit error in a granule raises the squall of class 0Ch and nothing is taken
(R96, R239). -/
def takeChecked (s : State) (c n : Nat) (sl : SlotKind) (pc : Nat) : Option (List Byte) × State :=
  match sramReadAll s sl pc ((List.range n).map fun i => (fifoAddr c (128 * (((s.core c).take + i) % 512)), 128)) with
  | (none, s1) => (none, s1)
  | (some _, s1) => let (d, s2) := takeGranules s1 c n; (some d, s2)

/-- WDROP (R129): the take starts at t + 1. -/
def execWdrop (c : Nat) (gd : Guard) (granules : BitVec 9) (s : State) : Res :=
  issueSlot s c .M gd true fun k =>
    s.setCore c { k with drops := k.drops ++ [(s.cycle + 1, granules.toNat + 1)] }

end Sys2Proof.Machine
end

