-- ==== Sys2Proof/Machine/Scalar.lean ====
section
/-! DEFINITION. S-slot operations (chapter 04, R111-R120). -/

namespace Sys2Proof.Machine

open Sys2Proof

/-- g[d] = f g[s1] g[s2], visible after lat cycles (R112). -/
def sBin (s : State) (c : Nat) (gd : Guard) (d s1 s2 : BitVec 5) (lat : Nat) (f : BitVec 64 → BitVec 64 → BitVec 64) : Res :=
  issueSlot s c .S gd true fun k => s.laterG c lat .S d (f (k.gGet s1.toNat) (k.gGet s2.toNat))

/-- g[d] = f g[s1] imm (R112). -/
def sImm (s : State) (c : Nat) (gd : Guard) (d s1 : BitVec 5) (legal : Bool) (f : BitVec 64 → BitVec 64) : Res :=
  issueSlot s c .S gd legal fun k => s.laterG c 1 .S d (f (k.gGet s1.toNat))

/-- NOP (R105). A nop has every other bit 0, so its guard field is 0 too. -/
def execNop (c : Nat) (sl : SlotKind) (gd : Guard) (s : State) : Res :=
  issueSlot s c sl gd (decide (gd = {})) fun _ => s

/-- ADD (R112), latency 1. -/
def execAdd (c : Nat) (gd : Guard) (d s1 s2 : BitVec 5) (s : State) : Res :=
  sBin s c gd d s1 s2 1 fun x y => x + y

/-- SUB (R112), latency 1. -/
def execSub (c : Nat) (gd : Guard) (d s1 s2 : BitVec 5) (s : State) : Res :=
  sBin s c gd d s1 s2 1 fun x y => x - y

/-- AND (R112), latency 1. -/
def execAnd (c : Nat) (gd : Guard) (d s1 s2 : BitVec 5) (s : State) : Res :=
  sBin s c gd d s1 s2 1 fun x y => x &&& y

/-- OR (R112), latency 1. -/
def execOr (c : Nat) (gd : Guard) (d s1 s2 : BitVec 5) (s : State) : Res :=
  sBin s c gd d s1 s2 1 fun x y => x ||| y

/-- XOR (R112), latency 1. -/
def execXor (c : Nat) (gd : Guard) (d s1 s2 : BitVec 5) (s : State) : Res :=
  sBin s c gd d s1 s2 1 fun x y => x ^^^ y

/-- SHL (R112), latency 1. -/
def execShl (c : Nat) (gd : Guard) (d s1 s2 : BitVec 5) (s : State) : Res :=
  sBin s c gd d s1 s2 1 fun x y => x <<< (y.toNat % 64)

/-- SHR (R112), latency 1. -/
def execShr (c : Nat) (gd : Guard) (d s1 s2 : BitVec 5) (s : State) : Res :=
  sBin s c gd d s1 s2 1 fun x y => x >>> (y.toNat % 64)

/-- SRA (R112), latency 1. -/
def execSra (c : Nat) (gd : Guard) (d s1 s2 : BitVec 5) (s : State) : Res :=
  sBin s c gd d s1 s2 1 fun x y => x.sshiftRight (y.toNat % 64)

/-- MUL (R112), latency 3. -/
def execMul (c : Nat) (gd : Guard) (d s1 s2 : BitVec 5) (s : State) : Res :=
  sBin s c gd d s1 s2 3 fun x y => x * y

/-- MIN (R112), latency 1. -/
def execMin (c : Nat) (gd : Guard) (d s1 s2 : BitVec 5) (s : State) : Res :=
  sBin s c gd d s1 s2 1 fun x y => if BitVec.slt y x then y else x

/-- MAX (R112), latency 1. -/
def execMax (c : Nat) (gd : Guard) (d s1 s2 : BitVec 5) (s : State) : Res :=
  sBin s c gd d s1 s2 1 fun x y => if BitVec.slt x y then y else x

/-- ADDI (R112). -/
def execAddi (c : Nat) (gd : Guard) (d s1 : BitVec 5) (imm : BitVec 32) (s : State) : Res :=
  sImm s c gd d s1 (true) fun x => x + imm.signExtend 64

/-- ANDI (R112). -/
def execAndi (c : Nat) (gd : Guard) (d s1 : BitVec 5) (imm : BitVec 32) (s : State) : Res :=
  sImm s c gd d s1 (true) fun x => x &&& imm.signExtend 64

/-- ORI (R112). -/
def execOri (c : Nat) (gd : Guard) (d s1 : BitVec 5) (imm : BitVec 32) (s : State) : Res :=
  sImm s c gd d s1 (true) fun x => x ||| imm.signExtend 64

/-- XORI (R112). -/
def execXori (c : Nat) (gd : Guard) (d s1 : BitVec 5) (imm : BitVec 32) (s : State) : Res :=
  sImm s c gd d s1 (true) fun x => x ^^^ imm.signExtend 64

/-- SHLI (R112); imm32[31:6] is zero. -/
def execShli (c : Nat) (gd : Guard) (d s1 : BitVec 5) (imm : BitVec 32) (s : State) : Res :=
  sImm s c gd d s1 (decide (imm.toNat < 64)) fun x => x <<< imm.toNat

/-- SHRI (R112); imm32[31:6] is zero. -/
def execShri (c : Nat) (gd : Guard) (d s1 : BitVec 5) (imm : BitVec 32) (s : State) : Res :=
  sImm s c gd d s1 (decide (imm.toNat < 64)) fun x => x >>> imm.toNat

/-- SRAI (R112); imm32[31:6] is zero. -/
def execSrai (c : Nat) (gd : Guard) (d s1 : BitVec 5) (imm : BitVec 32) (s : State) : Res :=
  sImm s c gd d s1 (decide (imm.toNat < 64)) fun x => x.sshiftRight imm.toNat

/-- LI (R112). -/
def execLi (c : Nat) (gd : Guard) (d : BitVec 5) (imm : BitVec 32) (s : State) : Res :=
  sImm s c gd d 0 true fun _ => imm.signExtend 64

/-- LIH (R112): the low half stays. -/
def execLih (c : Nat) (gd : Guard) (d : BitVec 5) (imm : BitVec 32) (s : State) : Res :=
  sImm s c gd d d true fun x => imm ++ x.setWidth 32

/-- CMP (R113): conditions 6h-Fh are reserved; with im, s2 is zero. -/
def execCmp (c : Nat) (gd : Guard) (pd : BitVec 3) (cond : BitVec 4) (s1 s2 : BitVec 5) (im : Bool) (imm : BitVec 32)
    (s : State) : Res :=
  issueSlot s c .S gd (decide (cond.toNat ≤ 5) && (if im then s2 == 0 else imm == 0)) fun k =>
    s.laterP c pd (cmpCond cond (k.gGet s1.toNat) (if im then imm.signExtend 64 else k.gGet s2.toNat))

/-- PLOG (R112): fn 11b is reserved. -/
def execPlog (c : Nat) (gd : Guard) (pd ps1 : BitVec 3) (n1 : Bool) (ps2 : BitVec 3) (n2 : Bool) (fn : BitVec 2)
    (s : State) : Res :=
  issueSlot s c .S gd (fn != 3) fun k =>
    s.laterP c pd (plogFn fn (k.pGet ps1.toNat != n1) (k.pGet ps2.toNat != n2))

/-- AMOV (R112): d is an address register. -/
def execAmov (c : Nat) (gd : Guard) (d s1 : BitVec 5) (s : State) : Res :=
  issueSlot s c .S gd (decide (d.toNat < 16)) fun k => s.laterA c d ((k.gGet s1.toNat).setWidth 48)

/-- GMOV (R112): s1 is an address register. -/
def execGmov (c : Nat) (gd : Guard) (d s1 : BitVec 5) (s : State) : Res :=
  issueSlot s c .S gd (decide (s1.toNat < 16)) fun k => s.laterG c 1 .S d ((k.aGet s1.toNat).setWidth 64)

/-- AADD (R109, R112): only bits [31:0] change. -/
def execAadd (c : Nat) (gd : Guard) (d s1 : BitVec 5) (imm : BitVec 32) (s : State) : Res :=
  issueSlot s c .S gd (decide (d.toNat < 16) && decide (s1.toNat < 16)) fun k =>
    s.laterA c d (addrAdd (k.aGet s1.toNat) imm)

/-- AADDG (R109, R112). -/
def execAaddg (c : Nat) (gd : Guard) (d s1 s2 : BitVec 5) (s : State) : Res :=
  issueSlot s c .S gd (decide (d.toNat < 16) && decide (s1.toNat < 16)) fun k =>
    s.laterA c d (addrAdd (k.aGet s1.toNat) ((k.gGet s2.toNat).setWidth 32))

/-! ### Branches (R114) -/

/-- pc + 32 x offset, modulo 2^21: the spec gives pc 21 bits and does not say what a sum outside them does (log 94: the
model's choice). -/
def branchTarget (k : Core) (off : BitVec 24) : BitVec 21 :=
  BitVec.ofInt 21 ((k.pc.toNat : Int) + 32 * off.toInt)

/-- Frame of a branch: illegal in a delay slot (R106); the bundle that follows it is a delay slot. -/
def branchSlot (s : State) (c : Nat) (gd : Guard) (act : Core → Core) : Res :=
  issueSlot s c .S gd (!(s.core c).delaySlot) fun k => s.setCore c { act k with delaySlot := true }

/-- BR (R114). -/
def execBr (c : Nat) (gd : Guard) (off : BitVec 24) (s : State) : Res :=
  branchSlot s c gd fun k => { k with target := some (branchTarget k off) }

/-- BDEC (R112, R114): taken when the decremented value is not 0. -/
def execBdec (c : Nat) (gd : Guard) (g : BitVec 5) (off : BitVec 24) (s : State) : Res :=
  branchSlot s c gd fun k =>
    let v := k.gGet g.toNat - 1
    let k' := k.later (s.cycle + 1) .S (.g g) (v.setWidth 2048)
    if v = 0 then k' else { k' with target := some (branchTarget k off) }

/-- JR (R112): bits [4:0] of the target are ignored. -/
def execJr (c : Nat) (gd : Guard) (g : BitVec 5) (s : State) : Res :=
  branchSlot s c gd fun k =>
    { k with target := some (BitVec.ofNat 21 ((k.gGet g.toNat).toNat % 2 ^ 21 / 32 * 32)) }

/-- JAL (R112): g[g] = pc + 64. -/
def execJal (c : Nat) (gd : Guard) (g : BitVec 5) (off : BitVec 24) (s : State) : Res :=
  branchSlot s c gd fun k =>
    { k.later (s.cycle + 1) .S (.g g) (BitVec.ofNat 2048 (k.pc.toNat + 64)) with
      target := some (branchTarget k off) }

/-! ### Shape registers, cycle count, counters -/

/-- RDSH (R110, R112): s1 16-31 is reserved. -/
def execRdsh (c : Nat) (gd : Guard) (d s1 : BitVec 5) (s : State) : Res :=
  issueSlot s c .S gd (decide (s1.toNat < 16)) fun k => s.laterG c 1 .S d (k.shGet s1.toNat)

/-- RDCYC (R108). -/
def execRdcyc (c : Nat) (gd : Guard) (d : BitVec 5) (s : State) : Res :=
  issueSlot s c .S gd true fun _ => s.laterG c 1 .S d (BitVec.ofNat 64 s.cycle)

/-- RDCC (R112): the counter is read at the end of the issue cycle. -/
def execRdcc (c : Nat) (gd : Guard) (cc : BitVec 6) (g : BitVec 5) (s : State) : Res :=
  issueSlot s c .S gd true fun k =>
    s.setCore c { k with samples := k.samples ++ [{ tAt := s.cycle, gr := g, cc := cc }] }

/-- Replaces what counter i held before this cycle's increments by f of it, and applies the increments after
(R115), those that stood over among them; a result outside 0 to FFFF_FFFFh raises the counter-overflow squall and changes
nothing (R116). -/
def ccOp (s : State) (c : Nat) (i : Nat) (f : Int → Int) : State :=
  let k := s.core c
  let tally := tget 0 k.incs i
  let late := k.overs.filter fun o => o.1 == i
  let v := f (((k.ccGet i).toNat : Int) - tally)
  if v < 0 ∨ (2 ^ 32 : Int) ≤ v then s.raise { coreRep s c 6 .S k.pc.toNat with counter := i }
  else
    let all := v.toNat + tally + late.length
    let new := min all (2 ^ 32 - 1)
    let k1 := k.ccSet i (BitVec.ofNat 32 new)
    s.setCore c { k1 with
      incs := tset 0 k.incs i (new - v.toNat)
      overs := (k.overs.filter fun o => o.1 != i) ++ late.drop (late.length - (all - new)) }

/-- CSET (R115). -/
def execCset (c : Nat) (gd : Guard) (cc : BitVec 6) (g : BitVec 5) (src : Bool) (imm : BitVec 24) (s : State) : Res :=
  issueSlot s c .S gd (ccLegal g src imm) fun k => ccOp s c cc.toNat fun _ => (ccCount k g src imm).toNat

/-- CADD (R115, R116). -/
def execCadd (c : Nat) (gd : Guard) (cc : BitVec 6) (g : BitVec 5) (src : Bool) (imm : BitVec 24) (s : State) : Res :=
  issueSlot s c .S gd (ccLegal g src imm) fun k => ccOp s c cc.toNat fun v => v + (ccCount k g src imm).toNat

/-- CSUB (R115, R116). -/
def execCsub (c : Nat) (gd : Guard) (cc : BitVec 6) (g : BitVec 5) (src : Bool) (imm : BitVec 24) (s : State) : Res :=
  issueSlot s c .S gd (ccLegal g src imm) fun k => ccOp s c cc.toNat fun v => v - (ccCount k g src imm).toNat

/-! ### Waits and watches (R117, R118) -/

/-- WAIT (R117): holds issue until the check at the end of cycle t + d. -/
def execWait (c : Nat) (gd : Guard) (cc : BitVec 6) (g : BitVec 5) (src : Bool) (d : BitVec 16) (imm : BitVec 24)
    (s : State) : Res :=
  issueSlot s c .S gd (ccLegal g src imm) fun k =>
    s.setCore c { k with issue := .hold (s.cycle + d.toNat) cc (ccCount k g src imm) k.pc none }

/-- Bank the fetch of the bundle at pc reads. -/
def fetchBank (pc : BitVec 21) : Nat := bankOf pc.toNat

/-- The core stops at a bundle it cannot fetch. -/
def fetchFail (s : State) (c : Nat) : State := s.modCore c fun k => { k with issue := .stopped }

/-- The present cycle's fetch of the bundle at the core's pc against the M slot: when both want one bank, the squall of
R89 names the bundle that issued the M-slot access (R139), which takes no effect (R239). -/
def fetchClash (s : State) (c : Nat) : State :=
  let k := s.core c
  let b := fetchBank k.pc
  match k.banks.find? fun u => u.tAt == s.cycle && u.bank == b with
  | some u =>
    (s.setCore c { k with
      stores := k.stores.filter fun w => w.tAt != s.cycle
      loads := k.loads.filter fun w => !(s.cycle ≤ w.tAt && w.tAt < s.cycle + w.rc) }).raise
      (bankRep s c 0xB .M u.pc k.pc.toNat)
  | none => s.setCore c (k.useBanks s.cycle k.pc.toNat [b])

/-- The fetch of the bundle at the core's pc in the present cycle (R93): a place outside the code region (R114) or a
double-bit error in its line (R96) raises a squall and the core stops. -/
def fetchNow (s : State) (c : Nat) : State :=
  let pc := (s.core c).pc.toNat
  if !inCode s pc then fetchFail (s.raiseCore c 3 .S pc) c
  else
    match spmRead s c (pc / 64 * 64) 64 .S pc with
    | (none, s1) => fetchFail s1 c
    | (some _, s1) => fetchClash s1 c

/-- A wait that holds nothing (d = 0) issued in cycle due, in the line of the next bundle: no further fetch (R93). -/
def lineRead (k : Core) (due : Nat) : Bool := k.nextAt == due + 1 && k.pc.toNat / 64 == k.lastPc.toNat / 64

/-- In the last cycle of a wait the bundle that follows it is fetched, whatever the check will find (R93, R117; log 86). -/
def waitFetch (s : State) (c : Nat) : State :=
  let k := s.core c
  match k.issue with
  | .hold due _ _ _ _ => if due = s.cycle ∧ !lineRead k due then fetchNow s c else s
  | _ => s

/-- What the checks due at the end of cycle n see: the counters after that cycle's increments (R117, R118). -/
def noteChecks (k : Core) (n : Nat) : Core :=
  { k with
    issue := match k.issue with
      | .hold due cc count pc seen => .hold due cc count pc (if due = n then some (k.ccGet cc.toNat) else seen)
      | i => i
    watches := k.watches.map fun w => if w.due = n then { w with seen := some (k.ccGet w.cc.toNat) } else w }

/-- The record of a count not reached at its check, at the end of cycle due (class 05h). -/
def missRep (s : State) (c due : Nat) (cc : BitVec 6) (seen count : BitVec 32) (pc : BitVec 21) : FaultRep :=
  { coreRep s c 5 .S pc.toNat with cycle := due, counter := cc.toNat, auxHi := seen.toNat, auxLo := count.toNat }

/-- WAIT_CHECK (R117): what the counter was at the end of cycle t + d decides: the core goes on at t + d + 1, or the squall
of class 05h is raised and the core stays stopped. Before that end nothing happens. -/
def execWaitCheck (c : Nat) (s : State) : Res :=
  if nCores ≤ c then .next s
  else
    let k := s.core c
    match k.issue with
    | .hold due cc count pc (some seen) =>
      if count.toNat ≤ seen.toNat then .next (s.setCore c { k with issue := .run, nextAt := due + 1 })
      else .next ((s.setCore c { k with issue := .stopped }).raise (missRep s c due cc seen count pc))
    | _ => .next s

/-- WATCH (R118): a fifth pending watch is a counter overflow; one whose check is past no longer pends. -/
def execWatch (c : Nat) (gd : Guard) (cc : BitVec 6) (g : BitVec 5) (src : Bool) (d : BitVec 16) (imm : BitVec 24)
    (s : State) : Res :=
  issueSlot s c .S gd (ccLegal g src imm) fun k =>
    if 4 ≤ (k.watches.filter fun w => w.seen.isNone).length then s.raise { coreRep s c 6 .S k.pc.toNat with counter := cc.toNat }
    else s.setCore c { k with watches := k.watches ++
      [{ due := s.cycle + d.toNat, cc := cc, count := ccCount k g src imm, pc := k.pc }] }

/-- Raises the squall of every watch of a list that saw too low a count. -/
def raiseWatches (s : State) (c : Nat) : List Watch → State
  | [] => s
  | w :: r =>
    raiseWatches (match w.seen with
      | some v => if w.count.toNat ≤ v.toNat then s else s.raise (missRep s c w.due w.cc v w.count w.pc)
      | none => s) c r

/-- WATCH_CHECK (R118): the watches whose check is past. -/
def execWatchCheck (c : Nat) (s : State) : Res :=
  if nCores ≤ c then .next s
  else
    let k := s.core c
    .next (raiseWatches (s.setCore c { k with watches := k.watches.filter fun w => w.seen.isNone }) c
      (k.watches.filter fun w => w.seen.isSome))

/-! ### Fronts (R119, R120) -/

/-- ARM (R119): replaces an earlier target. In the cycle in which a front releases the core the release clears it
(R214). -/
def execArm (c : Nat) (gd : Guard) (cc : BitVec 6) (g : BitVec 5) (src : Bool) (imm : BitVec 24) (s : State) : Res :=
  issueSlot s c .S gd (ccLegal g src imm) fun k =>
    if k.relAt = some s.cycle then s
    else s.setCore c { k with armed := tset none k.armed cc.toNat (some (ccCount k g src imm)) }

/-- The first core to issue the present front; in one cycle the lowest counts as the first (R491). -/
def firstFront (s : State) (c : Nat) : Nat :=
  match s.plane.fFirst with
  | none => c
  | some f =>
    match (s.core f).issue with
    | .front t _ _ _ _ => if t = s.cycle ∧ c < f then c else f
    | _ => f

/-- FRONT (R120): stops issue on the core; bound 0 is reserved; illegal in a delay slot. -/
def execFront (c : Nat) (gd : Guard) (num : BitVec 8) (bound : BitVec 20) (stp : Bool) (s : State) : Res :=
  issueSlot s c .S gd (bound != 0 && !(s.core c).delaySlot) fun k =>
    let s' := s.setCore c { k with issue := .front s.cycle num bound stp k.pc }
    { s' with plane := { s'.plane with
        fFirst := some (firstFront s c), fLast := s.cycle,
        fTimer := if s.plane.fFirst.isSome then s.plane.fTimer else 0 } }

end Sys2Proof.Machine
end

