-- ==== Sys2Proof/Machine/Vector.lean ====
section
/-! DEFINITION. V-slot operations (chapter 05, R159-R167; arithmetic R56-R58). -/

namespace Sys2Proof.Machine

open Sys2Proof

/-- Declared timing contract of the loaded program: true for B (R2, R84). -/
def contractB (s : State) : Bool :=
  match s.ldr.prog with
  | some p => p.contract == 1
  | none => false

/-- Latency of vexp and vrcp (R84). -/
def latExp (s : State) : Nat := if contractB s then 11 else 14

def lanes32 (v : BitVec 2048) : List (BitVec 32) := (List.range 64).map (lane32 v)
def lanes16 (v : BitVec 2048) : List (BitVec 16) := (List.range 128).map (lane16 v)

/-- FP32 result of a lane operation. -/
def out32 (v : FV) : BitVec 32 := encFp32 v

/-- BF16 lane operations compute in FP32 and round the result to BF16 (R56). -/
def out16 (v : FV) : BitVec 16 := encBf16 (decFp32 (encFp32 v))

/-- Applies a lane function of one, two or three sources; ty 1 is BF16. -/
def vLanes (ty : Bool) (f : FV → FV → FV → FV) (x y z : BitVec 2048) : BitVec 2048 :=
  if ty then vecOf16 ((List.range 128).map fun i =>
    out16 (f (decBf16 (lane16 x i)) (decBf16 (lane16 y i)) (decBf16 (lane16 z i))))
  else vecOf32 ((List.range 64).map fun i =>
    out32 (f (decFp32 (lane32 x i)) (decFp32 (lane32 y i)) (decFp32 (lane32 z i))))

/-- A lane operation of two sources with latency 4 (R84). -/
def vBin (s : State) (c : Nat) (gd : Guard) (vd vs1 vs2 : BitVec 5) (ty : Bool) (f : FV → FV → FV) : Res :=
  issueSlot s c .V gd true fun k =>
    s.laterV c 4 vd.toNat (vLanes ty (fun x y _ => f x y) (k.vGet vs1.toNat) (k.vGet vs2.toNat) 0)

/-- An FP32 operation on each lane of one source; ty 1 is reserved (R159). -/
def vFn (s : State) (c : Nat) (gd : Guard) (vd vs1 : BitVec 5) (ty : Bool) (lat : Nat) (f : BitVec 32 → BitVec 32) : Res :=
  issueSlot s c .V gd (!ty) fun k =>
    s.laterV c lat vd.toNat (vecOf32 ((lanes32 (k.vGet vs1.toNat)).map f))

/-- An FP32 lane reduction, its result in every lane of vd; ty 1 is reserved. -/
def vRed (s : State) (c : Nat) (gd : Guard) (vd vs1 : BitVec 5) (ty : Bool) (lat : Nat)
    (f : List (BitVec 32) → BitVec 32) : Res :=
  issueSlot s c .V gd (!ty) fun k =>
    s.laterV c lat vd.toNat (vecOf32 (List.replicate 64 (f (lanes32 (k.vGet vs1.toNat)))))

/-- VADD (R56, R159). -/
def execVadd (c : Nat) (gd : Guard) (vd vs1 vs2 : BitVec 5) (ty : Bool) (s : State) : Res :=
  vBin s c gd vd vs1 vs2 ty FV.add

/-- VSUB (R56, R159). -/
def execVsub (c : Nat) (gd : Guard) (vd vs1 vs2 : BitVec 5) (ty : Bool) (s : State) : Res :=
  vBin s c gd vd vs1 vs2 ty (fun x y => FV.add x (FV.neg y))

/-- VMUL (R56, R159). -/
def execVmul (c : Nat) (gd : Guard) (vd vs1 vs2 : BitVec 5) (ty : Bool) (s : State) : Res :=
  vBin s c gd vd vs1 vs2 ty FV.mul

/-- VFMA (R56): one rounding in FP32. -/
def execVfma (c : Nat) (gd : Guard) (vd vs1 vs2 vs3 : BitVec 5) (ty : Bool) (s : State) : Res :=
  issueSlot s c .V gd true fun k =>
    s.laterV c 4 vd.toNat (vLanes ty (fun x y z => FV.add (FV.mul x y) z)
      (k.vGet vs1.toNat) (k.vGet vs2.toNat) (k.vGet vs3.toNat))

/-- VMIN (R160). -/
def execVmin (c : Nat) (gd : Guard) (vd vs1 vs2 : BitVec 5) (ty : Bool) (s : State) : Res :=
  vBin s c gd vd vs1 vs2 ty FV.vmin

/-- VMAX (R160). -/
def execVmax (c : Nat) (gd : Guard) (vd vs1 vs2 : BitVec 5) (ty : Bool) (s : State) : Res :=
  vBin s c gd vd vs1 vs2 ty FV.vmax

/-- Lane masks of a comparison (R160). -/
def vcmpVec (ty : Bool) (cond : BitVec 4) (x y : BitVec 2048) : BitVec 2048 :=
  if ty then vecOf16 ((List.range 128).map fun i =>
    if vcmpCond cond (decBf16 (lane16 x i)) (decBf16 (lane16 y i)) then 0xFFFF else 0)
  else vecOf32 ((List.range 64).map fun i =>
    if vcmpCond cond (decFp32 (lane32 x i)) (decFp32 (lane32 y i)) then 0xFFFFFFFF else 0)

/-- VCMP (R160): conditions 7h-Fh are reserved. -/
def execVcmp (c : Nat) (gd : Guard) (vd vs1 vs2 : BitVec 5) (ty : Bool) (cond : BitVec 4) (s : State) : Res :=
  issueSlot s c .V gd (decide (cond.toNat ≤ 6)) fun k =>
    s.laterV c 4 vd.toNat (vcmpVec ty cond (k.vGet vs1.toNat) (k.vGet vs2.toNat))

/-- Takes lanes of x where the sign bit of m is 1, of y elsewhere (R160). -/
def vselVec (ty : Bool) (x y m : BitVec 2048) : BitVec 2048 :=
  if ty then vecOf16 ((List.range 128).map fun i => if (lane16 m i).msb then lane16 x i else lane16 y i)
  else vecOf32 ((List.range 64).map fun i => if (lane32 m i).msb then lane32 x i else lane32 y i)

/-- VSEL (R160). -/
def execVsel (c : Nat) (gd : Guard) (vd vs1 vs2 vs3 : BitVec 5) (ty : Bool) (s : State) : Res :=
  issueSlot s c .V gd true fun k =>
    s.laterV c 4 vd.toNat (vselVec ty (k.vGet vs1.toNat) (k.vGet vs2.toNat) (k.vGet vs3.toNat))

/-- VEXP (R57, R84). -/
def execVexp (c : Nat) (gd : Guard) (vd vs1 : BitVec 5) (ty : Bool) (s : State) : Res :=
  vFn s c gd vd vs1 ty (latExp s) fpExp

/-- VLOG (R57, R84). -/
def execVlog (c : Nat) (gd : Guard) (vd vs1 : BitVec 5) (ty : Bool) (s : State) : Res :=
  vFn s c gd vd vs1 ty 16 fpLog

/-- VRCP (R57, R84). -/
def execVrcp (c : Nat) (gd : Guard) (vd vs1 : BitVec 5) (ty : Bool) (s : State) : Res :=
  vFn s c gd vd vs1 ty (latExp s) fpRcp

/-- VRSQ (R57, R84). -/
def execVrsq (c : Nat) (gd : Guard) (vd vs1 : BitVec 5) (ty : Bool) (s : State) : Res :=
  vFn s c gd vd vs1 ty 16 fpRsq

/-- Adds neighbours pairwise (R58). -/
def pairAdd : List (BitVec 32) → List (BitVec 32)
  | x :: y :: r => fpAdd x y :: pairAdd r
  | l => l

/-- Six levels of the fixed tree (R58). -/
def treeSum (l : List (BitVec 32)) : BitVec 32 :=
  (pairAdd (pairAdd (pairAdd (pairAdd (pairAdd (pairAdd l)))))).headD 0

def foldFV (f : FV → FV → FV) : List (BitVec 32) → BitVec 32
  | [] => 0
  | x :: r => encFp32 (r.foldl (fun a y => f a (decFp32 y)) (f (decFp32 x) (decFp32 x)))

/-- VRSUM (R58). -/
def execVrsum (c : Nat) (gd : Guard) (vd vs1 : BitVec 5) (ty : Bool) (s : State) : Res :=
  vRed s c gd vd vs1 ty 12 treeSum

/-- VRMAX (R58): a NaN in any lane gives NaN, and -0 orders below +0. -/
def execVrmax (c : Nat) (gd : Guard) (vd vs1 : BitVec 5) (ty : Bool) (s : State) : Res :=
  vRed s c gd vd vs1 ty 7 (foldFV FV.vmax)

/-- VRMIN (R58). -/
def execVrmin (c : Nat) (gd : Guard) (vd vs1 : BitVec 5) (ty : Bool) (s : State) : Res :=
  vRed s c gd vd vs1 ty 7 (foldFV FV.vmin)

/-! ### Conversions (R40, R161) -/

/-- Bits of an element of format code 0h-7h. -/
def fmtBits (f : Nat) : Nat :=
  match f with
  | 0 => 32
  | 1 => 16
  | 2 => 16
  | 6 => 4
  | 7 => 4
  | _ => 8

def decFmt (f : Nat) (w : Nat) : FV :=
  match f with
  | 0 => decIeee 8 23 w
  | 1 => decIeee 8 7 w
  | 2 => decIeee 5 10 w
  | 3 => decElem .e4m3 w
  | 4 => decElem .e5m2 w
  | 5 => decElem .int8 w
  | 6 => decElem .fp4 w
  | _ => decElem .int4 w

def encFmt (f : Nat) (v : FV) : Nat :=
  match f with
  | 0 => encIeee 8 23 false v
  | 1 => encIeee 8 7 false v
  | 2 => encIeee 5 10 false v
  | 3 => encElem .e4m3 v
  | 4 => encElem .e5m2 v
  | 5 => encElem .int8 v
  | 6 => encElem .fp4 v
  | _ => encElem .int4 v

/-- Conversion of one element (R40): BF16 and FP16 to themselves keep every bit. -/
def cvtElem (sf df w : Nat) : Nat := if sf = df ∧ (sf = 1 ∨ sf = 2) then w else encFmt df (decFmt sf w)

def vcvtVec (sf df : Nat) (h : Nat) (x : BitVec 2048) : BitVec 2048 :=
  let w := fmtBits sf
  BitVec.ofNat 2048 (packNat (fmtBits df) ((List.range 64).map fun i => cvtElem sf df (elemAt w x.toNat (64 * h + i))))

/-- VCVT (R161): with h, an FP32 source is reserved. -/
def execVcvt (c : Nat) (gd : Guard) (vd vs1 : BitVec 5) (sf df : BitVec 4) (h : Bool) (s : State) : Res :=
  issueSlot s c .V gd (decide (sf.toNat ≤ 7) && decide (df.toNat ≤ 7) && !(h && sf == 0)) fun k =>
    s.laterV c 4 vd.toNat (vcvtVec sf.toNat df.toNat (b2n h) (k.vGet vs1.toNat))

/-- Block format of codes 8h-Bh. -/
def blockFmt (f : Nat) : BFmt :=
  match f with
  | 8 => .mx8 false
  | 9 => .mx8 true
  | 10 => .mx4
  | _ => .t2

/-- Bits of an element of a block format. -/
def BFmt.bits : BFmt → Nat
  | .mx8 _ => 8
  | .mx4 => 4
  | .t2 => 2

/-- Bytes of a scale of a block format. -/
def BFmt.sbytes : BFmt → Nat
  | .t2 => 2
  | _ => 1

/-- Splits a list into runs of n. -/
def chunks {α : Type} (n : Nat) (l : List α) : List (List α) :=
  (List.range (l.length / n)).map fun i => (l.drop (n * i)).take n

def vquantVec (sf : Nat) (f : BFmt) (x : BitVec 2048) : BitVec 2048 :=
  let w := fmtBits sf
  let vs := (List.range (2048 / w)).map fun i => decFmt sf (elemAt w x.toNat i)
  let bs := (chunks f.len vs).map (quantise f)
  BitVec.ofNat 2048 (packNat f.bits (bs.flatMap Prod.snd) + 2 ^ 1024 * packNat (8 * f.sbytes) (bs.map Prod.fst))

/-- VQUANT (R39, R161). -/
def execVquant (c : Nat) (gd : Guard) (vd vs1 : BitVec 5) (sf df : BitVec 4) (h : Bool) (s : State) : Res :=
  issueSlot s c .V gd (decide (sf.toNat ≤ 1) && decide (8 ≤ df.toNat) && decide (df.toNat ≤ 11) && !h) fun k =>
    s.laterV c 6 vd.toNat (vquantVec sf.toNat (blockFmt df.toNat) (k.vGet vs1.toNat))

def vdeqVec (f : BFmt) (df h : Nat) (x : BitVec 2048) : BitVec 2048 :=
  let one (i : Nat) : FV :=
    decBlock f (x.toNat / 2 ^ (1024 + 8 * f.sbytes * (i / f.len)) % 2 ^ (8 * f.sbytes)) (elemAt f.bits x.toNat i)
  if df = 0 then vecOf32 ((List.range 64).map fun i => encFp32 (one (64 * h + i)))
  else vecOf16 ((List.range 128).map fun i => encBf16 (one i))

/-- VDEQ (R40, R161). -/
def execVdeq (c : Nat) (gd : Guard) (vd vs1 : BitVec 5) (sf df : BitVec 4) (h : Bool) (s : State) : Res :=
  issueSlot s c .V gd (decide (8 ≤ sf.toNat) && decide (sf.toNat ≤ 11) && decide (df.toNat ≤ 1) && !(h && df == 1)) fun k =>
    s.laterV c 4 vd.toNat (vdeqVec (blockFmt sf.toNat) df.toNat (b2n h) (k.vGet vs1.toNat))

/-! ### Wide partials (R47, R48, R162) -/

/-- A wide partial: accumulator and anchor. -/
def widePart (acc : BitVec 96) (anchor : Int) : BitVec 128 :=
  (0 : BitVec 16) ++ (BitVec.ofInt 16 anchor ++ acc)

def wideAcc (w : BitVec 128) : BitVec 96 := w.extractLsb' 0 96
def wideAnchor (w : BitVec 128) : Int := (w.extractLsb' 96 16).toInt

/-- Wide add (R48): the first operand's anchor stands. -/
def wideAdd (x y : BitVec 128) : BitVec 128 := widePart (wideAcc x + wideAcc y) (wideAnchor x)

/-- Partial j of a register. -/
def partAt (v : BitVec 2048) (j : Nat) : BitVec 128 := v.extractLsb' (128 * j) 128

/-- Packs 16 partials. -/
def vecOfParts (l : List (BitVec 128)) : BitVec 2048 := BitVec.ofNat 2048 (packNat 128 (l.map BitVec.toNat))

/-- Writes four consecutive registers. -/
def laterGroup (s : State) (c lat vd : Nat) : List (BitVec 2048) → State
  | [] => s
  | v :: r => laterGroup (s.laterV c lat vd v) c lat (vd + 1) r

/-- VWADD (R48, R162): groups of four registers. -/
def execVwadd (c : Nat) (gd : Guard) (vd vs1 vs2 : BitVec 5) (ty : Bool) (s : State) : Res :=
  issueSlot s c .V gd (!ty && decide (vd.toNat % 4 = 0) && decide (vs1.toNat % 4 = 0) && decide (vs2.toNat % 4 = 0)) fun k =>
    laterGroup s c 4 vd.toNat ((List.range 4).map fun q =>
      vecOfParts ((List.range 16).map fun j =>
        wideAdd (partAt (k.vGet (vs1.toNat + q)) j) (partAt (k.vGet (vs2.toNat + q)) j)))

/-- VWRND (R48, R162): 64 FP32 lanes into one register. -/
def execVwrnd (c : Nat) (gd : Guard) (vd vs1 : BitVec 5) (ty : Bool) (s : State) : Res :=
  issueSlot s c .V gd (!ty && decide (vs1.toNat % 4 = 0)) fun k =>
    s.laterV c 4 vd.toNat (vecOf32 ((List.range 64).map fun i =>
      let w := partAt (k.vGet (vs1.toNat + i / 16)) (i % 16)
      roundExact (wideAcc w) (wideAnchor w)))

/-! ### Pops, lane moves, top-64 (R163-R165) -/

/-- The oldest entry of a drain queue that stands available to the vector unit, and the queue without it. -/
def popEntry : List DrainEntry → List Byte × List DrainEntry
  | [] => ([], [])
  | e :: r => if e.dst && e.avail then (e.data, r) else let (d, r') := popEntry r; (d, e :: r')

/-- VPOP (R83, R163): entry bytes beyond the group are lost; group bytes beyond the entry become 0; grp 11b is reserved. -/
def execVpop (c : Nat) (gd : Guard) (vd : BitVec 5) (arr grp : BitVec 2) (s : State) : Res :=
  let n := 2 ^ grp.toNat
  issueSlot s c .V gd (grp != 3 && decide (vd.toNat % n = 0)) fun k =>
    let q := tget {} k.arrays arr.toNat
    let (d, rest) := popEntry q.queue
    laterGroup (s.setCore c { k with arrays := tset {} k.arrays arr.toNat { q with queue := rest } }) c 2 vd.toNat
      ((List.range n).map fun i => packBv 2048 ((d.drop (256 * i)).take 256))

/-- VEXT (R164): the result reaches a scalar register after 2 cycles. -/
def execVext (c : Nat) (gd : Guard) (d s1 : BitVec 5) (lane : BitVec 6) (ty : Bool) (s : State) : Res :=
  issueSlot s c .V gd (!ty) fun k =>
    s.laterG c 2 .V d ((lane32 (k.vGet s1.toNat) lane.toNat).setWidth 64)

/-- VSPLAT (R164). -/
def execVsplat (c : Nat) (gd : Guard) (d s1 : BitVec 5) (ty : Bool) (s : State) : Res :=
  issueSlot s c .V gd true fun k =>
    s.laterV c 2 d.toNat
      (if ty then vecOf16 (List.replicate 128 ((k.gGet s1.toNat).setWidth 16))
       else vecOf32 (List.replicate 64 ((k.gGet s1.toNat).setWidth 32)))

/-- Entry x stands before entry y in a top list (R165): larger value, then lower index; NaN ranks below everything. -/
def topBefore (x y : BitVec 32 × BitVec 32) : Bool :=
  let a := decFp32 x.1
  let b := decFp32 y.1
  if a.isNan && b.isNan then BitVec.ult x.2 y.2
  else if a.isNan then false
  else if b.isNan then true
  else if FV.lt b a then true
  else if FV.lt a b then false
  else BitVec.ult x.2 y.2

/-- Inserts an entry into an ordered list, after entries it does not stand before. -/
def topInsert (x : BitVec 32 × BitVec 32) : List (BitVec 32 × BitVec 32) → List (BitVec 32 × BitVec 32)
  | [] => [x]
  | y :: r => if topBefore x y then x :: y :: r else y :: topInsert x r

/-- The first n entries of two lists together, in order. -/
def topMerge (n : Nat) (a b : List (BitVec 32 × BitVec 32)) : List (BitVec 32 × BitVec 32) :=
  ((a ++ b).foldl (fun l x => topInsert x l) []).take n

/-- VTOPM (R165): vd is even; with init, the list starts as 64 entries of (-infinity, FFFF_FFFFh). -/
def execVtopm (c : Nat) (gd : Guard) (vd vs1 gs : BitVec 5) (init : Bool) (s : State) : Res :=
  issueSlot s c .V gd (decide (vd.toNat % 2 = 0)) fun k =>
    let base := (k.gGet gs.toNat).setWidth 32
    let old := if init then List.replicate 64 ((0xFF800000 : BitVec 32), (0xFFFFFFFF : BitVec 32))
      else (lanes32 (k.vGet vd.toNat)).zip (lanes32 (k.vGet (vd.toNat + 1)))
    let new := (List.range 64).map fun l => (lane32 (k.vGet vs1.toNat) l, base + BitVec.ofNat 32 l)
    let top := topMerge 64 old new
    laterGroup s c 8 vd.toNat [vecOf32 (top.map Prod.fst), vecOf32 (top.map Prod.snd)]

end Sys2Proof.Machine
end

