-- ==== Sys2Proof/Machine/Tiles.lean ====
section
/-! DEFINITION. The arithmetic of weight tiles, activation vectors, accumulator rows and drain entries
(R41-R47, R53, R54, R61-R63, R68-R77). -/

namespace Sys2Proof.Machine

open Sys2Proof

/-! ### Weight tiles (R61-R63) -/

/-- Outputs of a tile by weight format code (R61). -/
def wOuts (wf : BitVec 4) : Nat :=
  match wf.toNat with
  | 5 => 32
  | 6 => 32
  | 7 => 64
  | _ => 16

/-- Weight of input r for output o as stored: byte 16r + column, by R62. -/
def wCode (wf : BitVec 4) (tile : BitVec 2048) (r o : Nat) : Nat :=
  let per := wOuts wf / 16
  let w := 8 / per
  elemAt w (tile.extractLsb' (8 * (16 * r + o / per)) 8).toNat (o % per)

/-- Decoded weight without its scale. -/
def wDec (wf : BitVec 4) (code : Nat) : FV :=
  match wf.toNat with
  | 0 => decE4m3 code
  | 1 => decE5m2 code
  | 2 => decInt 8 code
  | 3 => decE4m3 code
  | 4 => decE5m2 code
  | 5 => decInt 4 code
  | 6 => decFp4 code
  | _ => decTern code

/-- Scale of output o: E8M0 for the MX formats, BF16 for the rest (R61, R63). -/
def wScale (wf : BitVec 4) (scales : BitVec 1024) (o : Nat) : Option Dy :=
  if wf = 3 ∨ wf = 4 ∨ wf = 6 then decE8m0 (scales.extractLsb' (8 * o) 8).toNat
  else decScale16 (scales.extractLsb' (16 * o) 16)

/-! ### Activations (R68) -/

/-- Decoded activation code; A4 passes hold FP4 codes. -/
def aDec (a4 ae : Bool) (code : Nat) : FV :=
  if a4 then decFp4 code else if ae then decE5m2 code else decE4m3 code

/-- Codes of a vector, element r in bits [8r+7:8r]. -/
def vecCode (v : BitVec 128) (r : Nat) : Nat := (v.extractLsb' (8 * r) 8).toNat

/-- The products of one tile column entry: weight x activation, an operand that is not finite giving zero (R43). -/
def tileProducts (wf : BitVec 4) (tile : BitVec 2048) (a4 ae : Bool) (v : BitVec 128) (o : Nat) : List Dy :=
  (List.range 16).map fun r => Dy.mul (wDec wf (wCode wf tile r o)).dy (aDec a4 ae (vecCode v r)).dy

/-- Product of the two scales; none makes every governed product zero (R36, R43). -/
def scalePair (a b : Option Dy) : Option Dy :=
  match a, b with
  | some x, some y => some (Dy.mul x y)
  | _, _ => none

/-- Fast accumulation of one tile sum (R42, R44). -/
def addFast (acc : BitVec 96) (sc : Option Dy) (ps : List Dy) : BitVec 96 :=
  let t := match sc with
    | some d => Dy.mul (Dy.sum ps) d
    | none => Dy.zero
  (accFast (acc.setWidth 32) (FV.ofDy t)).setWidth 96

/-- Exact accumulation: each product is placed at the anchor by itself (R45, R49). -/
def addExact (acc : BitVec 96) (anchor : Int) (sc : Option Dy) (ps : List Dy) : BitVec 96 :=
  match sc with
  | some d => ps.foldl (fun a p => a + place (Dy.mul p d) anchor) acc
  | none => acc

/-! ### Accumulator rows and drain entries (R72, R75, R151) -/

def AccRow.lane (r : AccRow) (o : Nat) : BitVec 96 := tget 0 r.lanes o
def AccRow.setLane (r : AccRow) (o : Nat) (v : BitVec 96) : AccRow := { r with lanes := tset 0 r.lanes o v }

/-- Anchor a lane was opened with (R145). -/
def AccRow.laneAnchor (r : AccRow) (o : Nat) : Int := tget 0 r.anchors o

/-- Opens one lane at a value and an anchor; lane 0 gives the row its mode and anchor (R145, R148, R152). -/
def AccRow.openLane (r : AccRow) (exact : Bool) (anchor : Int) (o : Nat) (v : BitVec 96) : AccRow :=
  let r1 := { r.setLane o v with anchors := tset 0 r.anchors o anchor }
  if o = 0 then { r1 with exact := exact, anchor := anchor } else r1

/-- Bytes of a drain entry (R151). -/
def entryBytes (nt : Nat) (form : BitVec 2) : Nat :=
  match form.toNat with
  | 0 => nt * 4
  | 1 => nt * 2
  | _ => nt * 16

/-- FP32 value of a lane under the drain's own mode (R47, R145). -/
def laneFp32 (exact : Bool) (r : AccRow) (o : Nat) : BitVec 32 :=
  if exact then roundExact (r.lane o) (r.laneAnchor o) else (r.lane o).setWidth 32

/-- Conversion of a row into its drain entry. A BF16 entry of an exact row is rounded to FP32 by R47 and then to BF16:
two roundings (log 93: the model's choice). -/
def drainEntry (exact : Bool) (nt : Nat) (form : BitVec 2) (r : AccRow) : List Byte :=
  (List.range nt).flatMap fun o =>
    match form.toNat with
    | 0 => leBytes 4 (laneFp32 exact r o).toNat
    | 1 => leBytes 2 (encBf16 (decFp32 (laneFp32 exact r o))).toNat
    | _ => leBytes 16 (widePart (r.lane o) (if r.exact then r.laneAnchor o else 0)).toNat

/-- A row opened with the values of an entry (R152): every lane takes the anchor of lane 0's partial, the lanes beyond the
entry are zero. -/
def openFrom (wide : Bool) (nt : Nat) (d : List Byte) (exact : Bool) : AccRow :=
  let anchor : Int := if wide then (BitVec.ofNat 16 (leAt d 12 2)).toInt else 0
  (List.range 64).foldl (fun r o => r.openLane exact anchor o
    (if o < nt then BitVec.ofNat 96 (if wide then leAt d (16 * o) 12 else leAt d (4 * o) 4) else 0)) { exact := exact }

/-! ### The A4 stage (R53, R54, R71) -/

/-- Index of the element of largest magnitude above c, the lower index on ties; none when no element is above c. -/
def maxOutlier (c : FV) (vs : List FV) : Option Nat :=
  ((List.range vs.length).foldl (fun (b : Option (Nat × FV)) i =>
    let x := vs.getD i .nan
    if FV.lt c x.abs then
      match b with
      | none => some (i, x.abs)
      | some (_, y) => if FV.lt y x.abs then some (i, x.abs) else b
    else b) none).map Prod.fst

/-- Diverts up to n outliers: what remains of the block, and the diverted ones by input index. -/
def divert (c : FV) : Nat → List FV → List (Nat × FV) → List FV × List (Nat × FV)
  | 0, vs, out => (vs, out)
  | n + 1, vs, out =>
    match maxOutlier c vs with
    | none => (vs, out)
    | some i => divert c n (vs.set i (.num false 0 0)) ((i, vs.getD i .nan) :: out)

/-- Outlier count of the nc code (R142). -/
def outCount (nc : BitVec 2) : Nat :=
  match nc.toNat with
  | 0 => 0
  | 1 => 1
  | 2 => 2
  | _ => 4

/-- One A4 block: scale code, 32 element codes, diverted outliers (index, BF16). -/
def a4Block (m : AMode) (vs : List FV) : Nat × List Nat × List (Nat × BitVec 16) :=
  let c := decBf16 m.ceil
  let (rest, out) := divert c (outCount m.nc) vs []
  let top := blockMax rest
  let (sc, codes) := quantiseWith .mx4 (if FV.lt c top then c else top) rest
  (sc, codes, out.map fun (i, v) => (i, encBf16 v))

/-- The 32 BF16 values of a 64 B line. -/
def bf16Line (d : List Byte) : List FV := (List.range 32).map fun i => decBf16 (BitVec.ofNat 16 (leAt d (2 * i) 2))

end Sys2Proof.Machine
end

