-- ==== Sys2Proof/Machine/Arrays.lean ====
section
/-! DEFINITION. X-slot array operations and the array group's work in one plane cycle: command queue, freeze and slip,
feeders, passes, drains, merges and accumulator initialisation (chapters 03 and 05, R64-R82, R140-R152, R158). -/

namespace Sys2Proof.Machine

open Sys2Proof

/-! ### Issue: every array operation enters the array command queue (R79) -/

def enqueueX (s : State) (c : Nat) (k : Core) (op : XOp) : State :=
  s.setCore c { k with xq := k.xq ++ [{ tAt := s.cycle, op := op, pc := k.pc.toNat }] }

/-- Number of arrays a mask names. -/
def popMask (m : BitVec 4) : Nat := ((List.range 4).filter fun i => m.getLsbD i).length

/-- Arrays a mask names, ascending. -/
def maskArrays (m : BitVec 4) : List Nat := (List.range 4).filter fun i => m.getLsbD i

/-- Encoding checks of tld (R142, R143). -/
def tldLegal (amask : BitVec 4) (sc src : Bool) (a : BitVec 4) (tm : BitVec 3) : Bool :=
  amask != 0 && (src || (a == 0 && tm == 0)) &&
  (match tm.toNat with
   | 0 => true
   | 1 => true
   | 3 => !sc && (popMask amask == 2 || popMask amask == 4)
   | 4 => !sc && amask == 15
   | _ => false)

/-- Offset between the records of one array and the next in the scratchpad (R147). -/
def tldStride (sc : Bool) : Nat := if sc then 512 else 256

/-- Bytes of a tile load's run in the scratchpad (R147). -/
def tldRun (m : Nat) (sc : Bool) : Nat := if sc then 512 * (m - 1) + 384 else 256 * m

/-- TLD (R146, R147): a load from the scratchpad checks its run at issue (R168). -/
def execTld (c : Nat) (gd : Guard) (amask : BitVec 4) (slot sc src : Bool) (a : BitVec 4) (tm : BitVec 3)
    (s : State) : Res :=
  issueSlot s c .X gd (tldLegal amask sc src a tm) fun k =>
    let ad := k.aGet a.toNat
    let o := addrOff ad / 256 * 256
    if src && !spmRun ad o (tldRun (popMask amask) sc) then s.raiseCore c 3 .X k.pc.toNat
    else enqueueX s c k (.tld amask slot sc src o tm)

/-- Encoding checks of strm (R142, R143). -/
def strmLegal (amask : BitVec 4) (tsrc : BitVec 2) (b len : BitVec 5) (a : BitVec 4) (af : BitVec 3) (asr : BitVec 4) : Bool :=
  amask != 0 && tsrc != 3 && decide (af.toNat ≤ 3) && decide (b.toNat + len.toNat ≤ 31) &&
  (af != 3 || (a == 0 && asr == 0))

/-- Every vector of a stream lies in the scratchpad (R149). -/
def strmInBounds (af : BitVec 3) (v : Nat) (ad sad : BitVec 48) : Bool :=
  match af.toNat with
  | 0 => spmRun ad (addrOff ad) (16 * v)
  | 1 => spmRun ad (addrOff ad) (16 * v) && spmRun sad (addrOff sad) v
  | 2 => spmRun ad (addrOff ad) (64 * v)
  | _ => true

/-- STRM (R148): V, the valid mask and the addresses are read at issue; V above L is taken as L. -/
def execStrm (c : Nat) (gd : Guard) (amask : BitVec 4) (tsrc : BitVec 2) (opn : Bool) (b len gV gM : BitVec 5)
    (a : BitVec 4) (af : BitVec 3) (asr : BitVec 4) (anchor : BitVec 10) (s : State) : Res :=
  issueSlot s c .X gd (strmLegal amask tsrc b len a af asr) fun k =>
    let l := len.toNat + 1
    let v := min ((k.gGet gV.toNat).toNat % 64) l
    let ad := k.aGet a.toNat
    let sad := k.aGet asr.toNat
    if strmInBounds af v ad sad then
      enqueueX s c k (.strm amask tsrc opn b.toNat l v ((k.gGet gM.toNat).setWidth 32) (addrOff ad) af (addrOff sad)
        anchor.toInt)
    else s.raiseCore c 3 .X k.pc.toNat

/-- DRN (R151): rows above 31, a reserved form, and a nonzero a with dst 1 are illegal. -/
def execDrn (c : Nat) (gd : Guard) (arr : BitVec 2) (r0 rows : BitVec 5) (form : BitVec 2) (dst : Bool) (a : BitVec 4)
    (cc : BitVec 6) (s : State) : Res :=
  issueSlot s c .X gd (decide (r0.toNat + rows.toNat ≤ 31) && form != 3 && (!dst || a == 0)) fun k =>
    let ad := k.aGet a.toNat
    if !dst && addrUnit ad != 0x3F then s.raiseCore c 3 .X k.pc.toNat
    else enqueueX s c k (.drn arr.toNat r0.toNat (rows.toNat + 1) form dst (addrOff ad / 64 * 64) cc)

/-- AINIT (R152): forms 00b and 10b only; there is no vector-unit source. -/
def execAinit (c : Nat) (gd : Guard) (arr : BitVec 2) (r0 rows : BitVec 5) (form : BitVec 2) (dst : Bool) (a : BitVec 4)
    (cc : BitVec 6) (s : State) : Res :=
  issueSlot s c .X gd (decide (r0.toNat + rows.toNat ≤ 31) && (form == 0 || form == 2) && !dst) fun k =>
    let ad := k.aGet a.toNat
    if addrUnit ad != 0x3F then s.raiseCore c 3 .X k.pc.toNat
    else enqueueX s c k (.ainit arr.toNat r0.toNat (rows.toNat + 1) form (addrOff ad) cc)

/-- AMODE (R144): weight formats 8h-Fh are reserved. -/
def execAmode (c : Nat) (gd : Guard) (wf : BitVec 4) (ae xm : Bool) (nc : BitVec 2) (ceil : BitVec 16) (s : State) : Res :=
  issueSlot s c .X gd (decide (wf.toNat ≤ 7)) fun k =>
    enqueueX s c k (.amode { wf := wf, ae := ae, xm := xm, nc := nc, ceil := ceil })

/-- CMERGE (R158). -/
def execCmerge (c : Nat) (gd : Guard) (arr : BitVec 2) (b rbase rows : BitVec 5) (s : State) : Res :=
  issueSlot s c .X gd (decide (b.toNat + rows.toNat ≤ 31) && decide (rbase.toNat + rows.toNat ≤ 31)) fun k =>
    enqueueX s c k (.cmerge arr.toNat b.toNat rbase.toNat (rows.toNat + 1))

/-! ### Array state -/

def Core.arr (k : Core) (i : Nat) : Arr := tget {} k.arrays i
def Core.setArr (k : Core) (i : Nat) (a : Arr) : Core := { k with arrays := tset {} k.arrays i a }
def Arr.row (a : Arr) (r : Nat) : AccRow := tget {} a.rows r
def Arr.setRow (a : Arr) (r : Nat) (v : AccRow) : Arr := { a with rows := tset {} a.rows r v }

/-! ### Starting an operation of the queue (R75, R80, R146, R148) -/

/-- Weight-port beats on each path, or cycles of a scratchpad load (R146, R147). -/
def loadCycles (amask : BitVec 4) (sc src : Bool) (tm : BitVec 3) : Nat :=
  let m := popMask amask
  let beats := if sc then 3 * m else 2 * m
  if src then
    let tiles := match tm.toNat with
      | 0 => 0
      | 1 => m
      | 3 => m / 2
      | _ => m / 4
    cdivN beats 2 + tiles * (turnCycles tm + 2)
  else if sc then 3 else 2

/-- Starts an operation in group cycle g of plane cycle s.cycle. A mode set by amode stands from the next cycle on (R166). -/
def startX (s : State) (c : Nat) (e : XQEntry) : State :=
  let k := s.core c
  let g := k.gcyc
  match e.op with
  | .amode m => s.setCore c { k with modeNext := some m }
  | .tld amask slot sc src off tm =>
    let l : ActiveLoad :=
      { beat := if src then g + 1 else g, left := loadCycles amask sc src tm, amask := amask, slot := b2n slot, sc := sc,
        src := src, off := off, tm := tm, pc := e.pc }
    s.setCore c { k with tloads := k.tloads ++ [l] }
  | .strm amask tsrc opn b len v mask off af soff anchor =>
    let p : Pass :=
      { s := s.cycle, e := g + 3, len := len, cnt := v, mask := mask, amask := amask, base := b, opn := opn,
        anchor := anchor, af := af, off := off, soff := soff, tsrc := tsrc, pc := e.pc }
    s.setCore c { k with passes := k.passes ++ [p] }
  | .drn arr r0 rows form dst off cc =>
    let n := rows * entryBytes (wOuts k.mode.wf) form
    if !dst && decide (spmSize < off + n) then s.raiseCore c 3 .X e.pc
    else if !dst && runInCode s off n then s.raiseCore c 4 .X e.pc
    else
      let d : ActiveDrain :=
        { start := g + 1, arr := arr, row := r0, left := rows, form := form, dst := dst, addr := off, cc := cc,
          mode := k.mode, pc := e.pc }
      s.setCore c { k with drains := k.drains ++ [d] }
  | .ainit arr r0 rows form off cc =>
    if spmSize < off + rows * entryBytes (wOuts k.mode.wf) form then s.raiseCore c 3 .X e.pc
    else
      let i : ActiveInit :=
        { tAt := g + 1, arr := arr, row := r0, left := rows, toRead := rows, wide := form == 2, addr := off, mode := k.mode,
          cc := cc, pc := e.pc }
      s.setCore c { k with inits := k.inits ++ [i] }
  | .cmerge arr b rb rows =>
    s.setCore c { k with merges := k.merges ++
      [{ tAt := g + 1, arr := arr, row := b, rrow := rb, left := rows, mode := k.mode }] }

/-- Records a slip in JS_ARRSTAT and in the core (R79, R103). -/
def noteSlip (s : State) (c : Nat) (slip : Nat) : State :=
  let s := s.modCore c fun k => { k with slip := slip }
  { s with plane := { s.plane with slipMax := max s.plane.slipMax (min slip 16) } }

/-- The head of the array command queue starts; past 16 cycles of slip it takes no effect and raises the
counter-overflow squall (R79). -/
def popX (s : State) (c : Nat) : State :=
  let k := s.core c
  match k.xq with
  | [] => s
  | e :: r =>
    let s1 := s.setCore c { k with xq := r }
    let slip := s.cycle - e.tAt
    if 16 < slip then (noteSlip s1 c slip).raiseCore c 6 .X e.pc else startX (noteSlip s1 c slip) c e

/-! ### Feeders (R69-R71, R82) -/

/-- Cycles between a pass's vectors. -/
def Pass.step (p : Pass) : Nat := if p.mode.xm then 2 else 1

/-- Reads a feeder makes for a pass: lines of four vectors, or positions of an A4 pass. -/
def Pass.reads (p : Pass) : Nat :=
  if p.cnt = 0 then 0
  else if p.af = 2 ∨ p.af = 3 then p.cnt
  else (p.off + 16 * (p.cnt - 1)) / 64 - p.off / 64 + 1

/-- Vectors whose line is the i-th read: those whose first byte lies in it. -/
def Pass.ofLine (p : Pass) (i : Nat) : List Nat :=
  if p.af = 2 ∨ p.af = 3 then [i]
  else (List.range p.cnt).filter fun v => (p.off + 16 * v) / 64 == p.off / 64 + i

/-- Entries of the row queues in use at group cycle g. -/
def queued (k : Core) (g : Nat) : Nat :=
  (k.passes.map fun p => (p.vecs.filter fun v => !p.begun || decide (g ≤ p.e + p.step * v.1)).length).sum

def Pass.put (p : Pass) (v : Nat) (x : BitVec 128) (sa : BitVec 8) (t : Nat) : Pass :=
  { p with vecs := p.vecs ++ [(v, x)], sas := tset 0 p.sas v sa, avail := tset 0 p.avail v t }

/-- Scale lines of an MXFP8 pass that the next read needs and has not read yet. -/
def Pass.scaleLines (p : Pass) : List Nat :=
  if p.af = 1 then
    (((p.ofLine p.lines).map fun v => (p.soff + v) / 64).eraseDups).filter fun l => !(p.sbuf.any fun e => e.1 == l)
  else []

/-- Scratchpad lines the next read of a pass takes, by offset: its vectors' line, by the bank of their first byte also
where an address that is not aligned lets them run into the next line (log 95: the model's choice), and its scales'. -/
def Pass.nextLines (p : Pass) : List Nat :=
  match p.af.toNat with
  | 2 => [(p.off / 64 + p.lines) * 64]
  | 3 => []
  | _ => (p.off / 64 + p.lines) * 64 :: p.scaleLines.map (64 * ·)

/-- Byte a of the scale lines a pass has read. -/
def Pass.scaleAt (p : Pass) (a : Nat) : BitVec 8 := (tget 0 p.sbuf (a / 64)).extractLsb' (8 * (a % 64)) 8

/-- The vectors of one read of a pass, with what the A4 stage does to the hold and outlier buffers. The stage takes the
pass's mode, or before its start the mode that stands (R144); outliers of a pass that has not started wait in it (R157). -/
def feedLine (s : State) (c : Nat) (k : Core) (p : Pass) : Pass × Core :=
  let t := s.cycle + 2
  let i := p.lines
  match p.af.toNat with
  | 2 =>
    let m := if p.begun then p.mode else k.mode
    let (sc, codes, out) := a4Block m (bf16Line (s.sramGet (spmAddr c (p.off + 64 * i)) 64))
    let h : HoldEntry := { codes := BitVec.ofNat 64 (packNat 4 (codes.drop 16)), scale := BitVec.ofNat 8 sc }
    let outs : List Outlier := out.map fun (x, w) => { pos := i, idx := x, val := w }
    let q := p.put i (BitVec.ofNat 128 (packNat 8 (codes.take 16))) (BitVec.ofNat 8 sc) t
    let k' := { k with hold := tset {} k.hold i h }
    if p.begun then (q, { k' with outl := k'.outl ++ outs }) else ({ q with outs := q.outs ++ outs }, k')
  | 3 =>
    let h := tget {} k.hold i
    (p.put i (BitVec.ofNat 128 (packNat 8 ((List.range 16).map fun r => elemAt 4 h.codes.toNat r))) h.scale t, k)
  | af =>
    let p := { p with sbuf := p.scaleLines.foldl (fun b l => tset 0 b l (packBv 512 (s.sramGet (spmAddr c (64 * l)) 64))) p.sbuf }
    ((p.ofLine i).foldl (fun q v => q.put v (packBv 128 (s.sramGet (spmAddr c (p.off + 16 * v)) 16))
      (if af = 1 then p.scaleAt (p.soff + v) else 0x7F) t) p, k)

/-- The first pass that still has reads to make, with what stands before and after it. -/
def nextFeed : List Pass → Option (List Pass × Pass × List Pass)
  | [] => none
  | p :: r =>
    if p.lines < p.reads then some ([], p, r)
    else (nextFeed r).map fun (a, q, b) => (p :: a, q, b)

/-- One feeder read: the line of the oldest pass with reads left, and the scale lines that go with it, when port A grants
their banks and the queues have room. A double-bit error in it raises the squall of class 0Ch, and the pass takes no
effect (R96, R239). -/
def feederStep (s : State) (c : Nat) : State :=
  let k := s.core c
  match nextFeed k.passes with
  | none => s
  | some (a, p, b) =>
    let banks := p.nextLines.map bankOf
    if s.cycle < p.s ∨ meets k.aBusy banks ∨ 32 < queued k k.gcyc + (p.ofLine p.lines).length then s
    else
      match sramReadAll s .X p.pc (p.nextLines.map fun l => (spmAddr c l, 64)) with
      | (none, s1) => s1.setCore c { k with passes := a ++ b }
      | (some _, s1) =>
        let (q, k') := feedLine s c k p
        grantA (s1.setCore c { k' with passes := a ++ { q with lines := p.lines + 1 } :: b }) c banks

/-! ### Passes (R66, R81, R89) -/

/-- Row r of the active tile as the cells of that row see it in group cycle g: a tile taken at E stands in row r from
E + r on (R66). -/
def rowTile (g r : Nat) : BitVec 2048 → List (Nat × BitVec 2048) → BitVec 2048
  | now, [] => now
  | now, (e, old) :: l => if e + r ≤ g then now else rowTile g r old l

/-- The active tile of an array in group cycle g, row by row. -/
def activeTile (a : Arr) (g : Nat) : BitVec 2048 :=
  BitVec.ofNat 2048 (packNat 128 ((List.range 16).map fun r => ((rowTile g r a.tile a.olds).extractLsb' (128 * r) 128).toNat))

/-- A pass takes its tiles at E: a slot's tile becomes the active tile, with its scales when it carries some. -/
def takeTile (k : Core) (p : Pass) : List Nat → Core × Pass
  | [] => (k, p)
  | i :: r =>
    let a := k.arr i
    let a' :=
      if p.tsrc = 0 then a
      else
        let sl := tget {} a.slots (p.tsrc.toNat - 1)
        { a with tile := sl.tile, scales := sl.scales.getD a.scales,
                 olds := (k.gcyc, a.tile) :: a.olds.filter fun o => decide (k.gcyc < o.1 + 15),
                 slots := tset {} a.slots (p.tsrc.toNat - 1) { sl with full := false } }
    takeTile (k.setArr i a')
      { p with tiles := tset 0 p.tiles i a'.tile, scls := tset 0 p.scls i a'.scales } r

/-- The load that fills a slot the pass needs and would have filled it by now but for refused scratchpad beats (R89). -/
def slotLate (k : Core) (p : Pass) : Option ActiveLoad :=
  if p.tsrc = 0 then none
  else k.tloads.find? fun l => l.late && decide (l.left ≤ l.lag) && l.slot == p.tsrc.toNat - 1 && (l.amask &&& p.amask) != 0

/-- The vector of the pass that is due at row 0 in group cycle g and is not in the row queues (R89). -/
def vectorAbsent (p : Pass) (g n : Nat) : Option Nat :=
  (List.range p.cnt).find? fun v => p.e + p.step * v == g && (tget 0 p.avail v == 0 || decide (n ≤ tget 0 p.avail v))

/-- Offset of the line a vector's elements come from; when that line has been read, of its scale's. -/
def absentOff (p : Pass) (v : Nat) : Nat :=
  match p.af.toNat with
  | 1 => if p.sbuf.any fun e => e.1 == (p.soff + v) / 64 then p.off + 16 * v else p.soff + v
  | 2 => p.off + 64 * v
  | 3 => p.off
  | _ => p.off + 16 * v

/-- Column j of row b + v of one array at its accumulate cycle: a bubble adds nothing (R69, R72). An A4 stream under a
weight format of one output per column (wf 0h-4h) multiplies its FP4 codes by those weights: R41 lists no such pair and no
rule makes it illegal (log 96: the model's choice). -/
def accColumn (p : Pass) (i v j : Nat) (row : AccRow) : AccRow :=
  let per := wOuts p.mode.wf / 16
  let a4 := p.af == 2 || p.af == 3
  let x := tget 0 p.vecs v
  let sa := if p.af = 0 then some (Dy.pow2 0) else decE8m0 (tget 0 p.sas v).toNat
  if decide (v < p.cnt) && p.mask.getLsbD v then
    (List.range per).foldl (fun r q =>
      let o := per * j + q
      let ps := tileProducts p.mode.wf (tget 0 p.tiles i) a4 p.mode.ae x o
      let sc := scalePair (wScale p.mode.wf (tget 0 p.scls i) o) sa
      r.setLane o (if p.mode.xm then addExact (r.lane o) (r.laneAnchor o) sc ps else addFast (r.lane o) sc ps)) row
  else row

/-- Column j of a row that the pass opens, in the cycle its vector reaches the accumulate stage (R73, R148): with column 0
the lanes that belong to no output of the tile start from 0 too. -/
def openColumn (p : Pass) (j : Nat) (row : AccRow) : AccRow :=
  let per := wOuts p.mode.wf / 16
  let anchor := if p.mode.xm then p.anchor else 0
  let rest := if j = 0 then (List.range 64).filter fun o => decide (wOuts p.mode.wf ≤ o) else []
  (((List.range per).map fun q => per * j + q) ++ rest).foldl (fun r o => r.openLane p.mode.xm anchor o 0) row

/-- Applies f to column g - t0 of every row of the pass whose column is at that stage in group cycle g, t0 after its
vector's entry. -/
def passColumns (k : Core) (p : Pass) (g after : Nat) (f : Nat → Nat → Nat → AccRow → AccRow) : Core :=
  (List.range p.len).foldl (fun k v =>
    let t0 := p.e + p.step * v + after
    if p.begun ∧ t0 ≤ g ∧ g < t0 + 16 then
      (maskArrays p.amask).foldl (fun k i =>
        let a := k.arr i
        k.setArr i (a.setRow (p.base + v) (f i v (g - t0) (a.row (p.base + v))))) k
    else k) k

/-- The additions of a pass in group cycle g: column j at 17 + j after entry, 18 + j in exact mode (R81). -/
def accPass (k : Core) (p : Pass) (g : Nat) : Core := passColumns k p g (if p.mode.xm then 18 else 17) (accColumn p)

/-- The openings of a pass in group cycle g: column j at 16 + j after entry (R148). -/
def openPass (k : Core) (p : Pass) (g : Nat) : Core :=
  if p.opn then passColumns k p g 16 fun _ _ j row => openColumn p j row else k

/-- Last group cycle in which a pass updates a row. -/
def Pass.lastCycle (p : Pass) : Nat := p.e + p.step * (p.len - 1) + (if p.mode.xm then 33 else 32)

/-- The oldest pass that has not begun may begin in group cycle g: three cycles after its start, and after the last vector
of the pass before it by one cycle, or two in exact mode (R80). -/
def mayBegin (k : Core) (p : Pass) : Bool :=
  !p.begun && decide (p.e ≤ k.gcyc) &&
  (match k.lastE with
   | none => true
   | some x => decide (x + (if k.mode.xm then 2 else 1) ≤ k.gcyc))

/-- A pass begins (R66, R80, R144, R157): it takes the mode that stands, its tiles, and with a lower-half A4 pass the
outlier buffer holds its outliers and no others. -/
def beginPass (k : Core) (p : Pass) : Core :=
  let p0 := { p with begun := true, e := k.gcyc, mode := k.mode, outs := [] }
  let (k1, p1) := takeTile k p0 (maskArrays p.amask)
  { k1 with
    passes := k1.passes.map fun q => if q = p then p1 else q
    lastE := some (k.gcyc + p0.step * (p.len - 1))
    outl := if p.af = 2 then p.outs else k1.outl }

/-- The oldest pass that has not begun begins when it may; a slot that is late by refusals raises the squall of R89, and
the pass takes no effect. -/
def beginPasses (s : State) (c : Nat) : State :=
  let k := s.core c
  match k.passes.find? fun p => !p.begun with
  | none => s
  | some p =>
    if !mayBegin k p then s
    else
      match slotLate k p with
      | some l => (s.setCore c { k with passes := k.passes.filter fun q => q != p }).raise (bankRep s c 0xB .X p.pc l.lateOff)
      | none => s.setCore c (beginPass k p)

/-- A pass whose vector is due at row 0 and is not in the row queues takes no further effect (R89). -/
def checkPass (s : State) (c : Nat) (p : Pass) : State :=
  let k := s.core c
  match (if p.begun then vectorAbsent p k.gcyc s.cycle else none) with
  | some v => (s.setCore c { k with passes := k.passes.filter fun q => q != p }).raise (bankRep s c 0xB .X p.pc (absentOff p v))
  | none => s

def checkPasses (s : State) (c : Nat) : State := (s.core c).passes.foldl (fun s p => checkPass s c p) s

/-! ### Weight-port loads (R64-R67, R146, R147) -/

/-- Offset of beat b of a load from the scratchpad: two for each tile, and a third for its scales. -/
def beatOff (l : ActiveLoad) (b : Nat) : Nat :=
  let per := if l.sc then 3 else 2
  l.off + b / per * tldStride l.sc + 128 * (b % per)

/-- Beats that one turned tile of a load supplies; 0 when it turns none. -/
def turnBeats (l : ActiveLoad) : Nat :=
  match l.tm.toNat with
  | 0 => 0
  | 1 => if l.sc then 3 else 2
  | 3 => 4
  | _ => 8

/-- Offset of the turned tile that begins with beat b. -/
def turnOff (l : ActiveLoad) (b : Nat) : Nat :=
  if l.tm = 1 then beatOff l b else l.off + 128 * b

/-- Lines of the present beat pair that are read from the scratchpad: those of tiles that are not turned, and scales. -/
def beatLines (l : ActiveLoad) (b : Nat) : List Nat :=
  let scale := l.sc && b % 3 == 2
  if l.tm = 0 || scale then [beatOff l b, beatOff l b + 64] else []

/-- The steps of a load from the scratchpad, in record order: before the pair of beats in which a turned tile begins, its
read cycles and the two cycles of the turn buffer; then the pair. Each step gives the lines it reads (R95, R147). -/
def loadSteps (l : ActiveLoad) : List (List Nat) :=
  let beats := (if l.sc then 3 else 2) * popMask l.amask
  (List.range (cdivN beats 2)).flatMap fun p =>
    let pair := ([2 * p, 2 * p + 1]).filter (· < beats)
    let turns := pair.filter fun b => turnBeats l != 0 && b % turnBeats l == 0
    (turns.flatMap fun b =>
      ((List.range (turnCycles l.tm)).map fun i => (List.range 4).map fun j => turnOff l b + 256 * i + 64 * j) ++ [[], []]) ++
      [pair.flatMap fun b => beatLines l b]

/-- n bytes at offset a of the lines a load has read. -/
def bufBytes (t : Table (BitVec 512)) (a n : Nat) : List Byte :=
  (List.range n).map fun i => (tget 0 t ((a + i) / 64)).extractLsb' (8 * ((a + i) % 64)) 8

/-- The records of a load from the scratchpad, tile and scale of each array in order. -/
def spmRecords (l : ActiveLoad) : List (List Byte × List Byte) :=
  let m := popMask l.amask
  if l.tm = 0 ∨ l.tm = 1 then
    (List.range m).map fun i =>
      let o := l.off + i * tldStride l.sc
      (turnRun l.tm (bufBytes l.buf o 256), bufBytes l.buf (o + 256) 128)
  else
    let d := turnRun l.tm (bufBytes l.buf l.off (256 * m))
    (List.range m).map fun i => ((d.drop (256 * i)).take 256, [])

/-- The records of a load from the weight FIFO (R65). -/
def fifoRecords (l : ActiveLoad) : List (List Byte × List Byte) :=
  let n := if l.sc then 384 else 256
  (List.range (popMask l.amask)).map fun i => ((l.recs.drop (n * i)).take 256, (l.recs.drop (n * i + 256)).take 128)

/-- Fills the slot of every named array. -/
def fillSlots (k : Core) (l : ActiveLoad) : List Nat → List (List Byte × List Byte) → Core
  | i :: r, (t, sc) :: q =>
    let a := k.arr i
    let sl : ShadowSlot := { tile := packBv 2048 t, scales := if l.sc then some (packBv 1024 sc) else none, full := true }
    fillSlots (k.setArr i { a with slots := tset {} a.slots l.slot sl }) l r q
  | _, _ => k

/-- One cycle of a load whose paths are free: from the weight FIFO a beat on each path, so a granule for each array, in
ring order (R65, R98, R146); from the scratchpad the step's lines. Answers the load gone on, nothing when a double-bit
error ended it with the squall of class 0Ch (R96). -/
def loadBeat (s : State) (c : Nat) (l : ActiveLoad) (lines : List Nat) : Option ActiveLoad × State :=
  if l.src then
    match sramReadAll s .X l.pc (lines.map fun o => (spmAddr c o, 64)) with
    | (none, s1) => (none, s1)
    | (some d, s1) =>
      (some { l with
        left := l.left - 1
        buf := (lines.zip d).foldl (fun b x => tset 0 b (x.1 / 64) (packBv 512 x.2)) l.buf }, grantA s1 c (lines.map bankOf))
  else
    match takeChecked s c (popMask l.amask) .X l.pc with
    | (none, s1) => (none, s1)
    | (some d, s1) => (some { l with left := l.left - 1, recs := l.recs ++ d }, s1)

/-- A load goes on to the next cycle, or its slots are filled after the last beat (R64). -/
def loadGoes (s : State) (c : Nat) (l : ActiveLoad) : State :=
  s.modCore c fun k =>
    if l.left = 0 then fillSlots k l (maskArrays l.amask) (if l.src then spmRecords l else fifoRecords l)
    else { k with tloads := k.tloads ++ [l] }

/-- A load loses a cycle to a refused beat, its own or one of the load it follows (R89). -/
def loadLoses (l : ActiveLoad) (off : Nat) : ActiveLoad :=
  { l with late := true, lateOff := if l.lag = 0 then off else l.lateOff, lag := l.lag + 1 }

/-- One group cycle of the tile loads, in issue order: a load whose path an earlier one still uses waits (R146); a
refused scratchpad read delays it (R88). `used` are the arrays of earlier loads, `lost` those of them that lost this
cycle to a refusal, `off` the offset refused. -/
def loadsStep (s : State) (c : Nat) (used lost : BitVec 4) (off : Nat) : List ActiveLoad → State
  | [] => s
  | l :: r =>
    let k := s.core c
    let put (l' : ActiveLoad) : State := s.setCore c { k with tloads := k.tloads ++ [l'] }
    let used' := used ||| l.amask
    if k.gcyc < l.beat then loadsStep (put l) c used' lost off r
    else if (l.amask &&& used) ≠ 0 then
      if (l.amask &&& lost) ≠ 0 then loadsStep (put (loadLoses l off)) c used' (lost ||| l.amask) off r
      else loadsStep (put l) c used' lost off r
    else
      let steps := if l.src then loadSteps l else []
      let lines := steps.getD (steps.length - l.left) []
      match lines.find? fun o => k.aBusy.contains (bankOf o) with
      | some o => loadsStep (put (loadLoses l o)) c used' (lost ||| l.amask) o r
      | none =>
        match loadBeat s c l lines with
        | (none, s1) => loadsStep s1 c used' lost off r
        | (some l1, s1) => loadsStep (loadGoes s1 c l1) c used' lost off r

/-! ### Drains, merges, initialisation (R75, R76, R152, R158) -/

/-- A drain of the array stands in an earlier place of the list. -/
def firstOfArr (ds : List ActiveDrain) (d : ActiveDrain) : Bool :=
  (ds.find? fun e => e.arr == d.arr) == some d

/-- A drain must move a row into a full queue in this group cycle (R78). -/
def mustFreeze (k : Core) : Bool :=
  k.drains.any fun d => decide (d.start ≤ k.gcyc) && firstOfArr k.drains d && decide (32 ≤ (k.arr d.arr).queue.length)

/-- One row of a drain moves into its queue, converted. -/
def moveRow (s : State) (c : Nat) (d : ActiveDrain) : State :=
  let k := s.core c
  let a := k.arr d.arr
  let nt := wOuts d.mode.wf
  let e : DrainEntry :=
    { tAt := s.cycle, data := drainEntry d.mode.xm nt d.form (a.row d.row), dst := d.dst, addr := d.addr, cc := d.cc,
      pc := d.pc }
  let k := k.setArr d.arr { a with queue := a.queue ++ [e] }
  let d' := { d with start := k.gcyc + 1, row := d.row + 1, left := d.left - 1, addr := d.addr + entryBytes nt d.form }
  s.setCore c { k with drains :=
    if d'.left = 0 then k.drains.filter fun x => x != d else k.drains.map fun x => if x = d then d' else x }

/-- The drains that are due in this group cycle, one row each, one drain at a time for each array. -/
def drainsStep (s : State) (c : Nat) : State :=
  let k := s.core c
  (k.drains.filter fun d => decide (d.start ≤ k.gcyc) && firstOfArr k.drains d).foldl (fun s d => moveRow s c d) s

/-- Lane sum of a merge (R158). -/
def mergeLane (exact : Bool) (x y : BitVec 96) : BitVec 96 :=
  if exact then x + y
  else (accFast (x.setWidth 32) (decFp32 (y.setWidth 32))).setWidth 96

/-- One row of each merge that is due. -/
def mergesStep (k : Core) : Core :=
  let due := k.merges.filter fun m => m.tAt == k.gcyc
  let k1 := due.foldl (fun k m =>
    let a := k.arr m.arr
    let r := a.row m.row
    let q := tget {} k.res m.rrow
    k.setArr m.arr (a.setRow m.row ((List.range (wOuts m.mode.wf)).foldl
      (fun r o => r.setLane o (mergeLane m.mode.xm (r.lane o) (tget 0 q.lanes o))) r))) k
  let stepped := k.merges.map fun m =>
    if m.tAt = k.gcyc then { m with tAt := m.tAt + 1, row := m.row + 1, rrow := m.rrow + 1, left := m.left - 1 } else m
  { k1 with merges := stepped.filter fun m => m.left != 0 }

/-- The row whose entry has been read opens; the counter rises with the last one (R152). Every row has 64 lanes. -/
def initOpens (s : State) (c : Nat) (i : ActiveInit) : ActiveInit × State :=
  match i.ready with
  | none => (i, s)
  | some d =>
    let s1 := s.modCore c fun k =>
      let a := k.arr i.arr
      k.setArr i.arr (a.setRow i.row (openFrom i.wide (wOuts i.mode.wf) d i.mode.xm))
    ({ i with ready := none, row := i.row + 1, left := i.left - 1 },
      if i.left = 1 then incrRun s1 c i.cc.toNat i.pc .X else s1)

/-- The next 256 B run of the entry being read, when port A grants its banks (R88, R152). A double-bit error ends the
operation with the squall of class 0Ch (R96). -/
def initReads (s : State) (c : Nat) (i : ActiveInit) : Option ActiveInit × State :=
  let k := s.core c
  let eb := entryBytes (wOuts i.mode.wf) (if i.wide then 2 else 0)
  let o := i.addr + i.got.length
  let n := min 256 (eb - i.got.length)
  if i.toRead = 0 ∨ k.gcyc < i.tAt ∨ meets k.aBusy (runBanks o n) then (some i, s)
  else
    match spmRead s c o n .X i.pc with
    | (none, s1) => (none, s1)
    | (some d, s1) =>
      let got := i.got ++ d
      (some (if eb ≤ got.length then { i with got := [], ready := some got, toRead := i.toRead - 1, addr := i.addr + eb }
        else { i with got := got }), grantA s1 c (runBanks o n))

/-- One group cycle of the accumulator initialisations, in issue order. -/
def initsStep (s : State) (c : Nat) (i : ActiveInit) : State :=
  let (i1, s1) := initOpens s c i
  if i1.left = 0 then s1
  else
    match initReads s1 c i1 with
    | (none, s2) => s2
    | (some i2, s2) => s2.modCore c fun k => { k with inits := k.inits ++ [i2] }

/-! ### Drain writes (R77) -/

/-- The oldest entry of a queue whose write asks for its banks is written in the first cycle that grants them, and its
counter rises. -/
def drainWrite (s : State) (c arr : Nat) : State :=
  let k := s.core c
  let a := k.arr arr
  match a.queue.find? fun e => e.req with
  | none => s
  | some e =>
    let bs := runBanks e.addr e.data.length
    if s.cycle ≤ e.tAt ∨ meets k.aBusy bs then s
    else
      let k1 := k.setArr arr { a with queue := a.queue.erase e }
      let w : PendStore := { tAt := s.cycle, off := e.addr, data := e.data, pc := e.pc, drn := true }
      incrRun (grantA (s.setCore c { k1 with stores := k1.stores ++ [w] }) c bs) c e.cc.toNat e.pc .X

/-- The drain writes of the present cycle, lowest array first (R88). -/
def drainWrites (s : State) (c : Nat) : State := (List.range 4).foldl (fun s i => drainWrite s c i) s

/-- DRAIN_WRITE (R77): the oldest entry of the queue not yet delivered asks for its banks, and is written in the first
cycle that grants them (`drainWrite`), its counter rising then; an entry for the vector unit is made available and its
counter rises. Before the cycle after its conversion nothing happens. -/
def execDrainWrite (c : Nat) (arr : BitVec 2) (s : State) : Res :=
  if nCores ≤ c then .next s
  else
    let k := s.core c
    let a := k.arr arr.toNat
    match a.queue.find? fun e => !e.avail && !e.req with
    | none => .next s
    | some e =>
      let put (e' : DrainEntry) : State :=
        s.setCore c (k.setArr arr.toNat { a with queue := a.queue.map fun x => if x = e then e' else x })
      if s.cycle ≤ e.tAt then .next s
      else if e.dst then .next (incrRun (put { e with avail := true }) c e.cc.toNat e.pc .X)
      else .next (put { e with req := true })

/-! ### One plane cycle of the array group -/

/-- Counts a freeze cycle; the first core to freeze is kept, the lowest physical one of those that freeze first in one
cycle (R78, R103; log 97: the model's choice). -/
def noteFreeze (s : State) (c : Nat) : State :=
  { s with plane := { s.plane with
      freezeCnt := satAdd (2 ^ 32 - 1) s.plane.freezeCnt 1
      firstFrz := some (s.plane.firstFrz.getD c) } }

/-- The head of the command queue has waited so long that its slip would exceed 16 cycles (R79). -/
def slipOver (s : State) (c : Nat) : State :=
  let k := s.core c
  match k.xq with
  | e :: r => if 16 ≤ s.cycle - e.tAt then (s.setCore c { k with xq := r }).raiseCore c 6 .X e.pc else s
  | [] => s

/-- The group's work in one group cycle: an operation starts, drains move rows as they stand, passes begin, the cycle's
sums, merges and openings follow, and then the accumulator initialisations and tile loads (R74, R76, R81, R88). -/
def groupCycle (s : State) (c : Nat) : State :=
  let s := popX (s.modCore c fun k => { k with frozen := false }) c
  let s := checkPasses (beginPasses (drainsStep s c) c) c
  let s := s.modCore c fun k =>
    let k1 := mergesStep (k.passes.foldl (fun k p => accPass k p k.gcyc) k)
    k1.passes.foldl (fun k p => openPass k p k.gcyc) k1
  let s := (s.core c).inits.foldl (fun s i => initsStep s c i) (s.modCore c fun k => { k with inits := [] })
  let s := loadsStep (s.modCore c fun k => { k with tloads := [] }) c 0 0 0 (s.core c).tloads
  s.modCore c fun k => { k with
    passes := k.passes.filter fun p => !p.begun || decide (k.gcyc < p.lastCycle)
    gcyc := k.gcyc + 1 }

/-- A plane cycle of a core's array group: frozen, or one group cycle of work. A freeze holds the accumulator
initialisations with the rest of the group: R78 does not name them (log 98: the model's choice). -/
def arrayCycle (s : State) (c : Nat) : State :=
  if mustFreeze (s.core c) then slipOver (noteFreeze (s.modCore c fun k => { k with frozen := true }) c) c
  else groupCycle s c

end Sys2Proof.Machine
end

