-- ==== Sys2Proof/Machine/Correction.lean ====
section
/-! DEFINITION. The correction unit: cvt, cut, cout and the end of an operation (R49-R52, R55, R85, R153-R157, R166). -/

namespace Sys2Proof.Machine

open Sys2Proof

/-- Rank of a rank code (R142). -/
def rankOf (r : BitVec 2) : Nat := 8 * 2 ^ r.toNat

/-- Enters an operation in the correction unit's queue (R153). -/
def enqueueCorr (s : State) (c : Nat) (k : Core) (op : CorrOp) (cc : BitVec 6) : State :=
  s.setCore c { k with corr := k.corr ++ [{ op := op, cc := cc, pc := k.pc.toNat }] }

/-- Bytes of Vt with its scales (R154). -/
def vFactorBytes (r ks : Nat) : Nat := r * ks + 2 * r

/-- Bytes of U with its scales (R154). -/
def uFactorBytes (r ns : Nat) : Nat := ns * r + 2 * ns

/-- CVT (R155): formats above 10b, and a nonzero a_v with vsrc 1, are illegal. -/
def execCvt (c : Nat) (gd : Guard) (rank : BitVec 2) (vsrc : Bool) (av ax asr : BitVec 4) (af : BitVec 2) (p : BitVec 5)
    (ks anchor : BitVec 10) (cc : BitVec 6) (s : State) : Res :=
  issueSlot s c .X gd (af != 3 && (!vsrc || av == 0)) fun k =>
    let r := rankOf rank
    let np := p.toNat + 1
    let kk := 32 * (ks.toNat + 1)
    let va := k.aGet av.toNat
    let xa := k.aGet ax.toNat
    let sa := k.aGet asr.toNat
    let xrun := if af = 2 then 2048 * (kk / 32 - 1) + 64 * np else 512 * (kk / 16 - 1) + 16 * np
    if (!vsrc && !spmRun va (addrOff va / 64 * 64) (vFactorBytes r kk)) || !spmRun xa (addrOff xa) xrun ||
        (af == 1 && !spmRun sa (addrOff sa) (32 * (kk / 32 - 1) + np)) then
      s.raiseCore c 3 .X k.pc.toNat
    else
      enqueueCorr s c k (.cvt r vsrc (addrOff va / 64 * 64) (addrOff xa) (addrOff sa) af np kk anchor.toInt) cc

/-- CUT (R156): the named rows lie within the factor, the result rows within the buffer (R143). -/
def execCut (c : Nat) (gd : Guard) (rank : BitVec 2) (usrc : Bool) (au : BitVec 4) (p : BitVec 5) (outs : BitVec 2)
    (grp : BitVec 9) (opn : Bool) (anchor : BitVec 10) (cc : BitVec 6) (rbase : BitVec 5) (ns : BitVec 7) (s : State) : Res :=
  let n := 16 * 2 ^ outs.toNat
  let nn := 16 * (ns.toNat + 1)
  issueSlot s c .X gd (outs != 3 && (!usrc || au == 0) && decide (rbase.toNat + p.toNat ≤ 31) &&
      decide (16 * grp.toNat + n ≤ nn)) fun k =>
    let r := rankOf rank
    let ua := k.aGet au.toNat
    if !usrc && !spmRun ua (addrOff ua / 64 * 64) (nn * r + 2 * (16 * grp.toNat + n)) then s.raiseCore c 3 .X k.pc.toNat
    else
      enqueueCorr s c k
        (.cut r usrc (addrOff ua / 64 * 64) (p.toNat + 1) n grp.toNat opn anchor.toInt rbase.toNat nn) cc

/-- COUT (R157). -/
def execCout (c : Nat) (gd : Guard) (arr : BitVec 2) (half : Bool) (p rbase : BitVec 5) (opn : Bool) (anchor : BitVec 10)
    (cc : BitVec 6) (s : State) : Res :=
  issueSlot s c .X gd (decide (rbase.toNat + p.toNat ≤ 31)) fun k =>
    enqueueCorr s c k (.cout arr.toNat half (p.toNat + 1) rbase.toNat opn anchor.toInt) cc

/-- Cycles from start to end (R166). -/
def corrCycles (op : CorrOp) (exact : Bool) : Nat :=
  let rate := if exact then 256 else 512
  match op with
  | .cvt r _ _ _ _ _ p ks _ => 8 + cdivN (p * ks * r) rate
  | .cut r _ _ p n _ _ _ _ _ => 4 + cdivN (p * n * r) rate
  | .cout _ _ p _ _ _ => if exact then 4 + 2 * p else 4 + p

/-- Granules an operation takes from the weight FIFO (R154, R156). -/
def corrGranules (op : CorrOp) : Nat :=
  match op with
  | .cvt r true _ _ _ _ _ ks _ => cdivN (vFactorBytes r ks) 128
  | .cut r true _ _ _ _ _ _ _ ns => cdivN (uFactorBytes r ns) 128
  | _ => 0

/-! ### The arithmetic (R49-R52, R55) -/

/-- Sum of products in FP32, one RNE rounding each, over ascending index. -/
def fastSum (ps : List Dy) : BitVec 32 := ps.foldl (fun a p => accFast a (FV.ofDy p)) 0

/-- The row's sum times the row scale, rounded once; a scale of none makes it zero (R36, R51). -/
def scaleSum (x : BitVec 32) (sc : Option Dy) : BitVec 32 :=
  match sc with
  | some d => encFp32 (FV.mul (decFp32 x) (FV.ofDy d))
  | none => 0

/-- Operand o of a correction operation: 0 its factor, 1 its activations, 2 their scales. n bytes at an offset, from the
lines read for that operand (R85). -/
def CorrEntry.bytes (e : CorrEntry) (o a n : Nat) : List Byte :=
  (List.range n).map fun i => (tget 0 e.buf (3 * ((a + i) / 64) + o)).extractLsb' (8 * ((a + i) % 64)) 8

/-- Activation elements of position p, decoded with their scales, as the arrays see them (R51, R150, R155). -/
def actRow (e : CorrEntry) (af : BitVec 2) (xOff sOff ks p : Nat) : List Dy :=
  if af = 2 then
    (List.range (ks / 32)).flatMap fun b =>
      let (sc, codes, _) := a4Block e.mode (bf16Line (e.bytes 1 (xOff + 2048 * b + 64 * p) 64))
      codes.map fun w => scaleZ (decFp4 w) (decE8m0 sc)
  else
    (List.range (ks / 16)).flatMap fun j =>
      let sc := if af = 1 then decE8m0 (byteAt (e.bytes 2 (sOff + 32 * (j / 2) + p) 1) 0).toNat else some (Dy.pow2 0)
      (e.bytes 1 (xOff + 512 * j + 16 * p) 16).map fun b => scaleZ (aDec false e.mode.ae b.toNat) sc

/-- One element of t: row j of Vt against x (R49, R51). -/
def tElem (exact : Bool) (anchor : Int) (row : List Byte) (sc : Option Dy) (x : List Dy) : BitVec 32 :=
  let ps := (row.zip x).map fun (w, d) => Dy.mul (decE4m3 w.toNat).dy d
  if exact then roundExact (addExact 0 anchor sc ps) anchor else scaleSum (fastSum ps) sc

/-- The quantised t of one position (R51). -/
def quantT (t : List (BitVec 32)) : RankVec :=
  let bs := (if t.length ≤ 32 then [t] else [t.take 32, t.drop 32]).map fun b => quantise (.mx8 false) (b.map decFp32)
  { codes := bs.flatMap fun b => b.2.map (BitVec.ofNat 8), scales := bs.map fun b => BitVec.ofNat 8 b.1 }

/-- Decoded element j of a rank-buffer position. -/
def rankElem (v : RankVec) (j : Nat) : Dy :=
  scaleZ (decE4m3 (byteAt v.codes j).toNat) (decE8m0 (byteAt v.scales (j / 32)).toNat)

/-- Adds the products of row i of U to one lane (R49, R52, R156). -/
def cutLane (exact : Bool) (anchor : Int) (old : BitVec 96) (row : List Byte) (sc : Option Dy) (t : RankVec) : BitVec 96 :=
  let ps := (List.range row.length).map fun j => Dy.mul (decE4m3 (byteAt row j).toNat).dy (rankElem t j)
  if exact then addExact old anchor sc ps
  else (accFast (old.setWidth 32) (decFp32 (scaleSum (fastSum ps) sc))).setWidth 96

/-- The term of an infinite outlier against a weight and its scale: none or an operand that is not finite gives zero (R36,
R43), as a zero weight does not (log 21). -/
inductive InfTerm where
  /-- no term: the weight or its scale is not finite -/
  | zero
  /-- an infinity of this sign, in fast mode -/
  | inf (neg : Bool)
  /-- the spec states no value -/
  | free
deriving DecidableEq, Repr

/-- What an outlier of infinite value gives against a weight: in fast mode a nonzero finite product of weight and scale
makes the FP32 sum infinite (R52); a zero weight, and every term in exact mode, has no stated value. -/
def infTerm (exact : Bool) (w : FV) (sc : Option Dy) (neg : Bool) : InfTerm :=
  match w, sc with
  | .num sg m _, some d =>
    if m = 0 ∨ d.m = 0 ∨ exact then .free else .inf (xor neg (xor sg (decide (d.m < 0))))
  | _, _ => .zero

/-- Adds one diverted outlier's term to a lane (R52, R55); where the spec states no term of an infinite outlier the term is
a free value, added as any other (log 21). -/
def outLane (exact : Bool) (anchor : Int) (old : BitVec 96) (wf : BitVec 4) (code : Nat) (sc : Option Dy)
    (x : BitVec 16) : BitVec 96 :=
  match decBf16 x with
  | .num n m e =>
    let p := Dy.mul (wDec wf code).dy (FV.dy (.num n m e))
    if exact then addExact old anchor sc [p] else addFast old sc [p]
  | v =>
    match infTerm exact (wDec wf code) sc v.isNeg with
    | .zero => old
    | .inf neg => (accFast (old.setWidth 32) (.inf neg)).setWidth 96
    | .free =>
      let t := Config.infOutlierTerm v.isNeg code
      if exact then old + t else (accFast (old.setWidth 32) (decFp32 (t.setWidth 32))).setWidth 96

/-- A result row under `opn`: the named lanes at zero and, in exact mode, the anchor recorded (R156); in fast mode the
operation's anchor is ignored (R141), and the row holds 0 as its anchor, as after a load. -/
def openRes (r : ResRow) (opn exact : Bool) (anchor : Int) (n : Nat) : ResRow :=
  if opn then { lanes := r.lanes.filter fun l => n ≤ l.1, anchor := if exact then anchor else 0 } else r

def ResRow.setLane (r : ResRow) (o : Nat) (v : BitVec 96) : ResRow := { r with lanes := tset 0 r.lanes o v }

/-- Rows [lo, lo+n) of a position run, each changed by f. -/
def modRes (k : Core) (base p : Nat) (f : Nat → ResRow → ResRow) : Core :=
  (List.range p).foldl (fun k i => { k with res := tmod {} k.res (base + i) (f i) }) k

/-- The results of a correction operation, written when it ends (R153). -/
def corrResult (k : Core) (e : CorrEntry) : Core :=
  let xm := e.mode.xm
  match e.op with
  | .cvt r vsrc vOff xOff sOff af p ks anchor =>
    let d := if vsrc then e.taken else e.bytes 0 vOff (vFactorBytes r ks)
    (List.range p).foldl (fun k i =>
      let x := actRow e af xOff sOff ks i
      let t := (List.range r).map fun j =>
        tElem xm anchor ((d.drop (j * ks)).take ks) (decScale16 (BitVec.ofNat 16 (leAt d (r * ks + 2 * j) 2))) x
      { k with rank := tset {} k.rank i (quantT t) }) k
  | .cut r usrc uOff p n grp opn anchor rbase ns =>
    modRes k rbase p fun i q =>
      (List.range n).foldl (fun q o =>
        let row := 16 * grp + o
        let u := if usrc then (e.taken.drop (row * r)).take r else e.bytes 0 (uOff + row * r) r
        let sc := if usrc then (e.taken.drop (ns * r + 2 * row)).take 2 else e.bytes 0 (uOff + ns * r + 2 * row) 2
        q.setLane o (cutLane xm q.anchor (tget 0 q.lanes o) u (decScale16 (BitVec.ofNat 16 (ofLe sc)))
          (tget {} k.rank i))) (openRes q opn xm anchor n)
  | .cout _ half p rbase opn anchor =>
    let nt := wOuts e.mode.wf
    modRes k rbase p fun i q =>
      let outs := (List.range 16).flatMap fun r =>
        e.outs.filter fun o => o.pos == i && o.idx == (if half then 16 else 0) + r
      outs.foldl (fun q o =>
        (List.range nt).foldl (fun q j =>
          q.setLane j (outLane xm q.anchor (tget 0 q.lanes j) e.mode.wf (wCode e.mode.wf e.tile (o.idx % 16) j)
            (wScale e.mode.wf e.scales j) o.val)) q) (openRes q opn xm anchor nt)

/-! ### The unit's cycle (R85, R153, R154, R166) -/

/-- MACs a cycle (R85). -/
def corrRate (exact : Bool) : Nat := if exact then 256 else 512

/-- Lines of a run of n bytes from offset a, each with the first byte of the run that it holds. -/
def runLines (a n : Nat) : List (Nat × Nat) :=
  if n = 0 then [] else (List.range ((a + n - 1) / 64 + 1 - a / 64)).map fun i => (a / 64 + i, max a (64 * (a / 64 + i)))

/-- The scratchpad lines an operation reads, as (cycle of need, operand, line): each is needed in the cycle, counted from
the operation's start, before its first product is formed, products following each other in the order of the factor's
rows, the row's elements and the positions; a row's scale is needed with the row's last product (R85, R154-R156; log 13:
the order of the products and the start's own cycle as the first are the model's choice). -/
def corrReads (op : CorrOp) (exact : Bool) : List (Nat × Nat × Nat) :=
  let rate := corrRate exact
  match op with
  | .cvt r vsrc vOff xOff sOff af p ks _ =>
    (if vsrc then []
     else ((runLines vOff (r * ks)).map fun l => ((l.2 - vOff) * p / rate, 0, l.1)) ++
       (runLines (vOff + r * ks) (2 * r)).map fun l =>
         ((((l.2 - (vOff + r * ks)) / 2 + 1) * ks * p - 1) / rate, 0, l.1)) ++
    (if af = 2 then
       (List.range (ks / 32)).flatMap fun b =>
         (runLines (xOff + 2048 * b) (64 * p)).map fun l => ((32 * b * p + (l.2 - (xOff + 2048 * b)) / 64) / rate, 1, l.1)
     else
       (List.range (ks / 16)).flatMap fun j =>
         (runLines (xOff + 512 * j) (16 * p)).map fun l => ((16 * j * p + (l.2 - (xOff + 512 * j)) / 16) / rate, 1, l.1)) ++
    (if af = 1 then
       (List.range (ks / 32)).flatMap fun b =>
         (runLines (sOff + 32 * b) p).map fun l => ((32 * b * p + (l.2 - (sOff + 32 * b))) / rate, 2, l.1)
     else [])
  | .cut r usrc uOff p n grp _ _ _ ns =>
    if usrc then []
    else
      let u := uOff + 16 * grp * r
      let sc := uOff + ns * r + 32 * grp
      ((runLines u (n * r)).map fun l => ((l.2 - u) * p / rate, 0, l.1)) ++
        (runLines sc (2 * n)).map fun l => ((((l.2 - sc) / 2 + 1) * r * p - 1) / rate, 0, l.1)
  | .cout _ _ _ _ _ _ => []

/-- The oldest operation starts in the present cycle: it takes the mode that stands, and a cout the active tile and the
outliers (R144, R153, R157). -/
def corrStart (s : State) (k : Core) (e : CorrEntry) : CorrEntry :=
  let e1 := { e with
    begun := true, start := s.cycle, fin := s.cycle + corrCycles e.op k.mode.xm, mode := k.mode,
    reads := corrReads e.op k.mode.xm, grans := corrGranules e.op }
  match e.op with
  | .cout arr _ _ _ _ _ =>
    { e1 with tile := activeTile (k.arr arr) k.gcyc, scales := (k.arr arr).scales, outs := k.outl }
  | _ => e1

/-- The reads of the present cycle: every line needed by now whose bank port A grants; a refusal delays the rest of the
operation, and its end, by one cycle (R85, R166). The unit's own lines of one cycle do not refuse each other: the worked
example "schedule of the slice" reads three lines of one bank for one cycle's products and ends on time (DEDUCED, log 13).
A double-bit error ends the operation with the squall of class 0Ch (R96). -/
def corrReadStep (s : State) (c : Nat) (e : CorrEntry) : Option CorrEntry × State :=
  let busy := (s.core c).aBusy
  let due := e.reads.filter fun r => decide (r.1 ≤ e.prog)
  let ok := due.filter fun r => !busy.contains (bankOf (64 * r.2.2))
  match sramReadAll s .X e.pc (ok.map fun r => (spmAddr c (64 * r.2.2), 64)) with
  | (none, s1) => (none, s1)
  | (some d, s1) =>
    let refused := decide (ok.length < due.length)
    (some { e with
      reads := (due.filter fun r => busy.contains (bankOf (64 * r.2.2))) ++ e.reads.filter fun r => decide (e.prog < r.1)
      buf := (ok.zip d).foldl (fun b x => tset 0 b (3 * x.1.2.2 + x.1.2.1) (packBv 512 x.2)) e.buf
      prog := if refused then e.prog else e.prog + 1
      fin := if refused then e.fin + 1 else e.fin }, grantA s1 c (ok.map fun r => bankOf (64 * r.2.2)))

/-- The granules of the present cycle, up to four in ring order, after the weight port's (R98, R154). -/
def corrTake (s : State) (c : Nat) (e : CorrEntry) : Option CorrEntry × State :=
  match takeChecked s c (min 4 e.grans) .X e.pc with
  | (none, s1) => (none, s1)
  | (some d, s1) => (some { e with grans := e.grans - 4, taken := e.taken ++ d }, s1)

/-- One cycle of the correction unit: the oldest operation starts if it has not, takes its granules and reads its lines. -/
def corrCycle (s : State) (c : Nat) : State :=
  let k := s.core c
  match k.corr with
  | [] => s
  | e0 :: r =>
    let e := if e0.begun then e0 else corrStart s k e0
    match corrTake s c e with
    | (none, s1) => s1.modCore c fun k => { k with corr := r }
    | (some e1, s1) =>
      match corrReadStep s1 c e1 with
      | (none, s2) => s2.modCore c fun k => { k with corr := r }
      | (some e2, s2) => s2.modCore c fun k => { k with corr := e2 :: r }

/-- CORRECTION_OP_END (R153): the oldest operation ends, not before its time and not before everything it takes has been
read; its results stand and its counter rises. -/
def execCorrectionOpEnd (c : Nat) (s : State) : Res :=
  if nCores ≤ c then .next s
  else
    let k := s.core c
    match k.corr with
    | [] => .next s
    | e :: r =>
      if !e.begun || decide (s.cycle < e.fin) || !e.reads.isEmpty || e.grans != 0 then .next s
      else .next (incrRun (s.setCore c { corrResult k e with corr := r }) c e.cc.toNat e.pc .X)

end Sys2Proof.Machine
end

