-- ==== Sys2Proof/Machine/Events.lean ====
section
/-! DEFINITION. Rings in host memory, tenant and owner events, tokens, index writeback and MSI-X (R319, R320,
R354-R361). -/

namespace Sys2Proof.Machine

open Sys2Proof

/-! ### Ring registers (R354, R355) -/

/-- Entries of a ring: 2^(lgsz + 6), lgsz Bh-Fh taken as Ah. -/
def ringSize (base : BitVec 64) : Nat := 2 ^ (min (base.toNat % 16) 10 + 6)

def ringEn (base : BitVec 64) : Bool := bit base.toNat 11

/-- Host address of entry i of a ring of n-byte entries. -/
def ringAddr (base : BitVec 64) (i : BitVec 32) (n : Nat) : BitVec 64 :=
  BitVec.ofNat 64 (base.toNat / 4096 * 4096 + n * (i.toNat % ringSize base))

/-- Occupancy: one index less the other, modulo 2^32 (R354). -/
def ringOcc (ahead behind : BitVec 32) : Nat := (ahead - behind).toNat

/-- Free entries of an output or event ring; a disabled ring counts as full (R355). -/
def ringFree (base : BitVec 64) (e h : BitVec 32) : Nat := if ringEn base then ringSize base - ringOcc e h else 0

/-- 32 bytes of an event entry (R319). -/
def eventBytes (e : Event) : List Byte :=
  leBytes 1 e.code ++ leBytes 1 e.reason ++ leBytes 2 e.slot ++ leBytes 4 e.value ++ leBytes 8 e.tag.toNat ++
    leBytes 8 e.time ++ leBytes 8 0

/-! ### Tenant rings -/

/-- A tenant is enabled: its VF exists (VF Enable is set and NumVFs covers it), has both enables, and no drain runs (R352). -/
def tenantEnabled (s : State) (t : Nat) : Bool :=
  s.host.vfEn && decide (t < s.host.numVFs) && (s.tenant t).mse && (s.tenant t).bme && !(s.tenant t).draining

/-- Writes a tenant's three engine indices to TQ_WB's address. -/
def writeBack (s : State) (t : Nat) : State :=
  let k := s.tenant t
  if bit k.wb.toNat 0 then
    s.emit (.hostWrite (BitVec.ofNat 64 (k.wb.toNat / 64 * 64))
      (leBytes 4 k.sqE.toNat ++ leBytes 4 k.oqE.toNat ++ leBytes 4 k.eqE.toNat))
  else s

/-- The count or the wait of EVT_MOD is reached for entries written since the last interrupt (R357). -/
def modDue (new at' cnt us now : Nat) : Bool := decide (0 < new) && (decide (cnt ≤ new) || (us != 0 && decide (at' + us ≤ now)))

def evtDue (s : State) (t : Nat) : Bool :=
  let k := s.tenant t
  modDue k.evtNew k.evtAt (bits k.evtMod.toNat 15 8) (bits k.evtMod.toNat 7 0) s.now

def tokDue (s : State) (t : Nat) : Bool :=
  let k := s.tenant t
  modDue k.tokNew k.tokAt (bits k.evtMod.toNat 31 24) (bits k.evtMod.toNat 23 16) s.now

/-- Raises vector 0 of a tenant's function when it is due. -/
def raiseEvt (s : State) (t : Nat) : State :=
  if evtDue s t then (s.modTenant t fun k => { k with evtNew := 0 }).emit (.msix (t + 1) 0) else s

/-- Raises vector 1 of a tenant's function when it is due. -/
def raiseTok (s : State) (t : Nat) : State :=
  if tokDue s t then (s.modTenant t fun k => { k with tokNew := 0 }).emit (.msix (t + 1) 1) else s

/-- Writes one entry to a tenant's event ring: the entry, then the index, its writeback, the interrupt (R355). -/
def putEvent (s : State) (t : Nat) (e : Event) : State :=
  let k := s.tenant t
  let s1 := s.emit (.hostWrite (ringAddr k.eqBase k.eqE 32) (eventBytes e))
  let s2 := s1.modTenant t fun k => { k with
    eqE := k.eqE + 1, evtNew := k.evtNew + 1, evtAt := if k.evtNew = 0 then s.now else k.evtAt }
  raiseEvt (writeBack s2 t) t

def evqOf (s : State) (t : Nat) : List Event := tget [] s.hub.evq t

def State.setEvq (s : State) (t : Nat) (l : List Event) : State :=
  { s with hub := { s.hub with evq := tset [] s.hub.evq t l } }

/-- Writes as many of the events of a list as the ring has room for, and keeps the rest queued. -/
def flushList (s : State) (t : Nat) : List Event → State
  | [] => s.setEvq t []
  | e :: r =>
    let k := s.tenant t
    if ringFree k.eqBase k.eqE k.eqH = 0 then s.setEvq t (e :: r) else flushList (putEvent s t e) t r

/-- Room in a tenant's event ring: the queued events are written, oldest first. -/
def flushEvents (s : State) (t : Nat) : State := if (s.tenant t).draining then s else flushList s t (evqOf s t)

/-- An event to a tenant, stamped with engine time: to the ring, else to the queue of 4,096, else dropped and counted
(R320). Nothing is written for a draining tenant (R358). -/
def sendEvent (s : State) (t : Nat) (e : Event) : State :=
  let e : Event := { e with time := s.now % 2 ^ 64 }
  if (s.tenant t).draining then s
  else
    let q := evqOf s t
    let k := s.tenant t
    if q.isEmpty && ringFree k.eqBase k.eqE k.eqH != 0 then putEvent s t e
    else if q.length < 4096 then s.setEvq t (q ++ [e])
    else { s with hub := { s.hub with dropEv := satAdd (2 ^ 32 - 1) s.hub.dropEv 1 } }

/-- 16 bytes of a token entry (R319). -/
def tokenBytes (tag : BitVec 64) (last stop first : Bool) (tnum token : Nat) : List Byte :=
  leBytes 8 (b2n last * 2 ^ 63 + b2n stop * 2 ^ 62 + b2n first * 2 ^ 61 + tnum % 2 ^ 24 * 2 ^ 32 + token % 2 ^ 32) ++
    leBytes 8 tag.toNat

/-- Writes one entry to a tenant's output ring; nothing is written to a ring without a free entry (R355). -/
def sendToken (s : State) (t : Nat) (d : List Byte) : State :=
  let k := s.tenant t
  if k.draining || ringFree k.oqBase k.oqE k.oqH == 0 then s
  else
    let s1 := s.emit (.hostWrite (ringAddr k.oqBase k.oqE 16) d)
    let s2 := s1.modTenant t fun k => { k with
      oqE := k.oqE + 1, tokNew := k.tokNew + 1, tokAt := if k.tokNew = 0 then s.now else k.tokAt }
    raiseTok (writeBack s2 t) t

/-! ### Owner event ring (R357, R361) -/

def putOwner (s : State) (e : Event) : State :=
  let h := s.host
  let s1 := s.emit (.hostWrite (ringAddr h.eqBase h.eqE 32) (eventBytes e))
  ({ s1 with host := { s1.host with eqE := s1.host.eqE + 1 } }).emit (.msix 0 0)

def flushOwnerList (s : State) : List Event → State
  | [] => { s with host := { s.host with evq := [] } }
  | e :: r =>
    let h := s.host
    if ringFree h.eqBase h.eqE h.eqH = 0 then { s with host := { s.host with evq := e :: r } }
    else flushOwnerList (putOwner s e) r

def flushOwner (s : State) : State := flushOwnerList s s.host.evq

/-- An owner event: code, reason, value and tag of the table "Host: owner events"; no slot. -/
def ownerEvent (s : State) (code reason value : Nat) (tag : BitVec 64) : State :=
  let e : Event := { code := code, reason := reason, value := value % 2 ^ 32, tag := tag, time := s.now % 2 ^ 64 }
  let h := s.host
  if h.evq.isEmpty && ringFree h.eqBase h.eqE h.eqH != 0 then putOwner s e
  else if h.evq.length < 4096 then { s with host := { h with evq := h.evq ++ [e] } }
  else { s with host := { h with evdrop := satAdd 255 h.evdrop 1 } }

/-! ### Ring register writes (R355, R359) -/

/-- A write dropped while a drain runs, counted in TQ_STAT.drops (R359). -/
def drainDrop (s : State) (t : Nat) : State := s.modTenant t fun k => { k with drops := satAdd 255 k.drops 1 }

/-- A host index write ignored, counted in TQ_STAT.bad (R355). -/
def badIndex (s : State) (t : Nat) : State := s.modTenant t fun k => { k with bad := satAdd 255 k.bad 1 }

/-- Bits of a base register that are kept: base, en and lgsz. -/
def baseMask (v : BitVec 64) : BitVec 64 := v &&& 0xFFFFFFFFFFFFF80F#64

/-- A write of a ring's base register: the value, and both indices 0 (R355). An enabled event ring then takes the
events queued for it. -/
def writeRingBase (s : State) (r : RingId) (v : BitVec 64) : State :=
  match r with
  | .sq t =>
    if (s.tenant t).draining then drainDrop s t
    else s.modTenant t fun k => { k with sqBase := baseMask v, sqH := 0, sqE := 0 }
  | .oq t =>
    if (s.tenant t).draining then drainDrop s t
    else s.modTenant t fun k => { k with oqBase := baseMask v, oqH := 0, oqE := 0 }
  | .eq t =>
    if (s.tenant t).draining then drainDrop s t
    else flushEvents (s.modTenant t fun k => { k with eqBase := baseMask v, eqH := 0, eqE := 0 }) t
  | .owner => flushOwner { s with host := { s.host with eqBase := baseMask v, eqH := 0, eqE := 0 } }

/-- A host index write to an output or event ring (R355): ignored and counted when it would give an occupancy above
the size; else entries are freed and queued events written. -/
def writeHostIndex (s : State) (r : RingId) (v : BitVec 32) : State :=
  match r with
  | .sq _ => s
  | .oq t =>
    let k := s.tenant t
    if k.draining then drainDrop s t
    else if ringSize k.oqBase < ringOcc k.oqE v then badIndex s t
    else s.modTenant t fun k => { k with oqH := v }
  | .eq t =>
    let k := s.tenant t
    if k.draining then drainDrop s t
    else if ringSize k.eqBase < ringOcc k.eqE v then badIndex s t
    else flushEvents (s.modTenant t fun k => { k with eqH := v }) t
  | .owner =>
    if ringSize s.host.eqBase < ringOcc s.host.eqE v then s
    else flushOwner { s with host := { s.host with eqH := v } }

/-- Tenant a ring belongs to exists. -/
def ringOk (r : RingId) : Bool :=
  match r with
  | .sq t | .oq t | .eq t => decide (t < 256)
  | .owner => true

/-- RING_CONFIG_WRITE (R355, R359): a write of a ring's base register, from either view; only the owner reaches the
owner ring. -/
def execRingConfigWrite (owner : Bool) (ring : RingId) (v : BitVec 64) (s : State) : Res :=
  if !ringOk ring || (!owner && ring == .owner) then .next s else .next (writeRingBase s ring v)

end Sys2Proof.Machine
end

