-- ==== Sys2Proof/Machine/Fence.lean ====
section
/-! DEFINITION. Grades, fences, the field binding and the start of a field substitution (R18, R22-R24, R253, R256, R274,
R277, R428). -/

namespace Sys2Proof.Machine

open Sys2Proof

/-- Weight wafers of the grade (R18). -/
def gradeWt (s : State) : Nat :=
  match s.fuses.grade with
  | 4 => 1
  | 6 => 3
  | 8 => 4
  | _ => 0

/-- KV wafers of the grade (R18). -/
def gradeKv (s : State) : Nat :=
  match s.fuses.grade with
  | 4 | 6 => 1
  | 8 => 2
  | _ => 0

/-- Logical fields the binding maps. -/
def usedFields (s : State) : Nat := (s.jet.binding.filter Option.isSome).length

/-- Field state of the fence map: 0 in service or spare, 1 fenced, 2 transit fenced (R428). -/
def fieldState (s : State) (pf : Nat) : Nat := tget 0 s.bg.fieldSt pf

/-- Unfenced physical fields that the binding does not use, ascending (R22). -/
def sparesOf (s : State) : List Nat :=
  (List.range 48).filter fun pf => fieldState s pf == 0 && (lfieldOf s pf).isNone

/-- Spares that no substitution, running or waiting, is going to take. A spare that one is about to take does not count as
remaining when a further field is fenced, so that field is dropped (DESIGN CHOICE, log 104: R24 does not say). -/
def freeSpares (s : State) : Nat := (sparesOf s).length - b2n s.wst.sub.isSome - s.wst.fenced.length

/-- The service record is written: the other copy, with the next sequence number (R414). -/
def writeRecord (s : State) : State := { s with bg := { s.bg with recSeq := s.bg.recSeq + 1, recGood := true } }

/-- Ends the running command with a result: WST_STAT, and owner event 04h (R264). -/
def wstEnd (s : State) (result : Nat) : State :=
  let w := s.wst
  ownerEvent { s with wst := { w with
      busy := false, waiting := false, result := result, ctls := [], subCmd := none, abortReq := false } } 4 result w.lastCmd
    (BitVec.ofNat 64 w.lastSlot)

/-- A logical number after logical field lf has been dropped. -/
def downOver (lf x : Nat) : Nat := if lf < x then x - 1 else x

/-- Every mapped logical field stands at its reference position. -/
def allHome (s : State) : Bool := (List.range 46).all fun lf => (pfieldOf s lf).isNone || pfieldOf s lf == some lf

/-- The field drop of R24: every logical field above lf moves down by one; installations that reached beyond lf no
longer stand over their pages, and a command 6h that waits for lf ends with result 09h (R277). -/
def dropField (s : State) (lf : Nat) : State :=
  let inv := s.wst.slots.map fun e => (e.1, if lf < e.2.man.fFields then { e.2 with invalid := true } else e.2)
  let sub := s.wst.sub.map fun x => { x with lfield := downOver lf x.lfield }
  let s1 : State := { s with jet := { s.jet with binding := s.jet.binding.eraseIdx lf ++ [none] } }
  let s2 : State := { s1 with
    jet := { s1.jet with mapSpares := 0, mapRef := s1.jet.mapRef && allHome s1 }
    wst := { s1.wst with
      slots := inv, sub := sub, fenced := (s.wst.fenced.filter (· != lf)).map (downOver lf)
      subCmd := s.wst.subCmd.map (downOver lf) } }
  if s.wst.subCmd = some lf then wstEnd s2 9 else s2

/-- A load is in progress: states 1h to 7h. -/
def loading (s : State) : Bool := decide (1 ≤ s.ldr.state ∧ s.ldr.state ≤ 7)

/-- Starts the substitution of the first waiting logical field by the lowest spare, when none runs. An installation
session stands still while it runs (R270, R274). The spare's own core counts are not looked at (DESIGN CHOICE, log 105:
R23 tests used clusters only). -/
def startSubst (s : State) : State :=
  match s.wst.sub, s.wst.fenced, sparesOf s with
  | none, lf :: rest, sp :: _ =>
    match pfieldOf s lf with
    | none => s
    | some lost => { s with wst := { s.wst with sub := some { lfield := lf, lost := lost, spare := sp }, fenced := rest } }
  | _, _, _ => s

/-- A fenced logical field is substituted when a spare remains, at once when auto_sub is set; else it is dropped
(R24, R274). During bring-up the substitution waits for Ready (R421), and a drop during a load waits for its end, since
the field binding is the load's field map (R256; DESIGN CHOICE, log 107). -/
def loseField (s : State) (lf : Nat) : State :=
  if freeSpares s = 0 then
    if loading s then { s with wst := { s.wst with fenced := s.wst.fenced ++ [lf] } } else dropField s lf
  else
    let s1 : State := { s with wst := { s.wst with fenced := s.wst.fenced ++ [lf] } }
    if s.wst.autoSub && s.bg.ready then startSubst s1 else s1

/-- Masks of all 12 clusters of a physical field become 0. -/
def maskField (s : State) (pf : Nat) : State :=
  { s with bg := { s.bg with
      badMask := (List.range 12).foldl (fun t k => tset 0 t (12 * pf + k) 0xFFFFFFFF#32) s.bg.badMask } }

/-- Fields that wait for more spares than there are: the latest are dropped (R24). -/
def dropExcess : Nat → State → State
  | 0, s => s
  | n + 1, s =>
    if !loading s && decide ((sparesOf s).length < s.wst.fenced.length + b2n s.wst.sub.isSome) then
      match s.wst.fenced.getLast? with
      | some lf => dropExcess n (dropField s lf)
      | none => s
    else s

/-- A spare is fenced: a substitution onto it starts again with another spare, and fields that no spare is left for are
dropped (R24, R274). -/
def abandonSpare (s : State) (pf : Nat) : State :=
  match s.wst.sub with
  | some x =>
    if x.spare = pf then
      let s1 := dropExcess 48 { s with wst := { s.wst with sub := none, fenced := x.lfield :: s.wst.fenced } }
      if (s1.wst.autoSub && s1.bg.ready) || s1.wst.subCmd.isSome then startSubst s1 else s1
    else dropExcess 48 s
  | none => dropExcess 48 s

/-- Fences a physical field (R23): state 1 fenced, 2 transit fenced; the fence map is rewritten. -/
def fenceField (s : State) (pf st : Nat) : State :=
  if fieldState s pf ≠ 0 then
    { s with bg := { s.bg with fieldSt := tmod 0 s.bg.fieldSt pf fun x => max x st } }
  else
    let lf := lfieldOf s pf
    let s1 := maskField { s with bg := { s.bg with fieldSt := tset 0 s.bg.fieldSt pf st } } pf
    match lf with
    | some l => loseField (writeRecord s1) l
    | none => abandonSpare (writeRecord s1) pf

/-- A cluster-level failure fences the cluster and, by R23, its field. -/
def fenceCluster (s : State) (pcl : Nat) : State := fenceField s (pcl / 12) 1

/-- Good physical cores of a cluster by the fence map. -/
def goodCount (s : State) (pcl : Nat) : Nat :=
  ((List.range 32).filter fun k => !bit (tget 0 s.bg.badMask pcl).toNat k).length

/-- Fences a physical core; a used cluster left with fewer than 28 good cores loses its field (R23). -/
def fenceCore (s : State) (c : Nat) : State :=
  let pcl := pclOf c
  let m : BitVec 32 := 1#32 <<< pcOf c
  let s1 := writeRecord { s with bg := { s.bg with badMask := tmod 0 s.bg.badMask pcl (· ||| m) } }
  if (lfieldOf s1 (pfOf c)).isSome && decide (goodCount s1 pcl < 28) then fenceField s1 (pfOf c) 1 else s1

/-- FIELD_SUBSTITUTION_START (R274): a fenced field waiting, auto_sub set, none running. -/
def execFieldSubstitutionStart (s : State) : Res :=
  .next (if s.wst.autoSub && s.bg.ready then startSubst s else s)

end Sys2Proof.Machine
end

