-- ==== Sys2Proof/Machine/KvMap.lean ====
section
/-! DEFINITION. KV space: the applied configuration, the mapping onto tiles, and reads and writes of its bytes
(R278-R289, R304). -/

namespace Sys2Proof.Machine

open Sys2Proof

/-! ### Fields of the configuration registers (KV_CFG, KV_AREA, KV_CLASSn, KV_POOL) -/

def cfgLanes (v : BitVec 64) : Nat := bits v.toNat 63 55
def cfgHeads (v : BitVec 64) : Nat := bits v.toNat 54 48
/-- Chunk length C in tokens. -/
def cfgChunk (v : BitVec 64) : Nat := 64 * 2 ^ bits v.toNat 47 46
def cfgSlab (v : BitVec 64) : Nat := bits v.toNat 45 39
def cfgShared (v : BitVec 64) : Bool := bit v.toNat 38
def cfgFmt (v : BitVec 64) : Nat := bits v.toNat 37 36
def cfgFields (v : BitVec 64) : Nat := bits v.toNat 35 30
def cfgKvTok (v : BitVec 64) : Nat := bits v.toNat 23 0
/-- Blocks of a page (R283). -/
def cfgG (v : BitVec 64) : Nat := if cfgFmt v = 0 then 17 else 33
def cfgPage (v : BitVec 64) : Nat := cfgG v * 16384
/-- Page rows of area 0 sequence, 1 prefix, 2 adapter, 3 staging. -/
def areaRows (v : BitVec 64) (area : Nat) : Nat := bits v.toNat (63 - 16 * area) (48 - 16 * area)
/-- First row of an area (R284). -/
def areaRow0 (v : BitVec 64) (area : Nat) : Nat := ((List.range area).map (areaRows v)).sum
def clsRegions (v : BitVec 64) : Nat := bits v.toNat 40 32
def clsMax (v : BitVec 64) : Nat := bits v.toNat 23 0

/-- W of the mapping: the grade's KV-wafer count, 1 on ILX2 (R288). -/
def mapW (s : State) : Nat := if gradeKv s = 0 then 1 else gradeKv s

/-- Pages of a slab of an area (R285). -/
def sigmaOf (cfg : BitVec 64) (area : Nat) : Nat := if area = 1 then cfgSlab cfg * 64 / cfgChunk cfg else cfgSlab cfg

/-- Page rows of a port (R284, R288). -/
def portRows (s : State) (cfg : BitVec 64) (pool : BitVec 32) : Nat :=
  if gradeKv s = 0 then bits pool.toNat 22 14 * 65536 / cfgPage cfg else 262144 / cfgG cfg

/-- Slabs of an area. -/
def areaSlabs (s : State) (a : KvCfgA) (area : Nat) : Nat :=
  cfgFields a.cfg * (areaRows a.area area * (12 * mapW s) / sigmaOf a.cfg area)

/-- Size of an area in bytes. -/
def areaSize (s : State) (a : KvCfgA) (area : Nat) : Nat := areaSlabs s a area * sigmaOf a.cfg area * cfgPage a.cfg

/-- Prefix entries E_p (R297). -/
def pfxTotal (s : State) (a : KvCfgA) : Nat := min 262143 (areaSlabs s a 1 / cfgHeads a.cfg)

/-- Slabs of one region of a class (R289). -/
def regionSlabs (a : KvCfgA) (v : BitVec 64) : Nat := cdivN (clsMax v) (cfgChunk a.cfg) * cfgHeads a.cfg

def clsOf (a : KvCfgA) (n : Nat) : BitVec 64 := a.cls.getD n 0

/-- First slab of region r of class n (R289). -/
def regionSlab (a : KvCfgA) (n r : Nat) : Nat :=
  ((List.range n).map fun i => clsRegions (clsOf a i) * regionSlabs a (clsOf a i)).sum + r * regionSlabs a (clsOf a n)

/-- Sequence-area address of a slab. -/
def slabAddr (a : KvCfgA) (area slab : Nat) : Nat := slab * sigmaOf a.cfg area * cfgPage a.cfg

/-! ### The mapping (R285) -/

/-- Where an address of an area stands. -/
structure KvPlace where
  /-- logical field -/
  field : Nat
  /-- cluster within the field -/
  cluster : Nat
  /-- KV wafer -/
  wafer : Nat
  /-- page row of the port -/
  row : Nat
  /-- block within the page -/
  blk : Nat
deriving DecidableEq, Repr

/-- kv_map of R285. -/
def kvMap (s : State) (area addr : Nat) : KvPlace :=
  let a := s.kv.app
  let g := cfgG a.cfg
  let sg := sigmaOf a.cfg area
  let b := addr / 16384
  let p := b / g
  let sl := p / sg
  let k := p % sg
  let u := sl / cfgFields a.cfg * sg + k
  let j := u % (12 * mapW s)
  { field := sl % cfgFields a.cfg, cluster := j % 12, wafer := j / 12,
    row := areaRow0 a.area area + u / (12 * mapW s), blk := b % g }

/-- Byte of a page row within its tile. -/
def rowByte (s : State) (row blk off : Nat) : Nat := row * cfgPage s.kv.app.cfg + blk * 16384 + off

/-- First byte of the tile of a physical cluster and KV wafer in `kv.mem`. -/
def tileBase (pcl wafer : Nat) : Nat := (2 * pcl + wafer) * 2 ^ 32

/-- Physical cluster and byte within the port of an address. -/
def kvPort (s : State) (area addr : Nat) : Option (Nat × Nat × Nat) :=
  let m := kvMap s area addr
  (pfieldOf s m.field).map fun pf => (12 * pf + m.cluster, m.wafer, rowByte s m.row m.blk (addr % 16384))

/-- Place in plane SRAM of byte o of a port's rows on ILX2: the pool in the cluster's memory (R288). -/
def poolAddr (s : State) (pcl o : Nat) : Nat := cmAddr pcl (bits s.kv.app.pool.toNat 31 23 * 65536 + o)

/-- Reads n bytes of a block of KV space: from its tile, or on ILX2 from the pool in cluster memory (R288). -/
def kvBlockRead (s : State) (area addr n : Nat) : List Byte :=
  match kvPort s area addr with
  | none => List.replicate n 0
  | some (pcl, w, o) =>
    if gradeKv s = 0 then s.sramGet (poolAddr s pcl o) n
    else mread s.kv.mem (tileBase pcl w + o) n

/-- Writes a run of bytes within a block of KV space: to its tile, or on ILX2 to cluster memory with its check bits (R96,
R288). -/
def kvBlockWrite (s : State) (area addr : Nat) (d : List Byte) : State :=
  match kvPort s area addr with
  | none => s
  | some (pcl, w, o) =>
    if gradeKv s = 0 then sramStore s .M 0 (poolAddr s pcl o) d
    else { s with kv := { s.kv with mem := mwrite s.kv.mem (tileBase pcl w + o) d } }

/-- Reads `n` blocks from a block-aligned address. -/
def kvBlocksRead (s : State) (area addr n : Nat) : List Byte :=
  (List.range n).flatMap fun i => kvBlockRead s area (addr + 16384 * i) 16384

/-- Writes `n` blocks from a block-aligned address. -/
def kvBlocksWrite (s : State) (area addr : Nat) (d : List Byte) : Nat → State
  | 0 => s
  | n + 1 => kvBlocksWrite (kvBlockWrite s area addr (d.take 16384)) area (addr + 16384) (d.drop 16384) n

/-- Reads a run from a 64 B-aligned address, line after line. -/
def kvRunRead (s : State) (area addr n : Nat) : List Byte :=
  ((List.range (cdivN n 64)).flatMap fun i => kvBlockRead s area (addr + 64 * i) 64).take n

/-- Writes a run at a 64 B-aligned address, line after line. -/
def kvRunWrite (s : State) (area addr : Nat) (d : List Byte) : Nat → State
  | 0 => s
  | n + 1 => kvRunWrite (kvBlockWrite s area addr (d.take 64)) area (addr + 64) (d.drop 64) n

/-- Lines of a run. -/
def kvWriteAll (s : State) (area addr : Nat) (d : List Byte) : State := kvRunWrite s area addr d (cdivN d.length 64)

/-! ### The staging region (R309, R362, R363) -/

/-- Staging size as applied. -/
def stagingSize (s : State) : Nat := areaSize s s.kv.app 3

/-- One line of the staging region: zeros where it cannot be corrected, and beyond the size as applied. -/
def hdmLine (s : State) (bad : List Nat) (l : Nat) : List Byte :=
  if bad.contains l || decide (stagingSize s < 64 * l + 64) then List.replicate 64 0 else kvRunRead s 3 (64 * l) 64

/-- Lines of a run of n bytes at addr. -/
def linesOf (addr n : Nat) : List Nat := (List.range ((addr + n + 63) / 64 - addr / 64)).map (addr / 64 + ·)

/-- Reads a run of the staging region. -/
def hdmRead (s : State) (bad : List Nat) (addr n : Nat) : List Byte :=
  (((linesOf addr n).flatMap (hdmLine s bad)).drop (addr % 64)).take n

/-- Writes a run over the lines it covers, those within the staging size. -/
def hdmWrite (s : State) (addr : Nat) (d : List Byte) (bad : List Nat) : State :=
  let ls := linesOf addr d.length
  let old := ls.flatMap (hdmLine s bad)
  let new := old.take (addr % 64) ++ d ++ old.drop (addr % 64 + d.length)
  let ok := ls.filter fun l => decide (64 * l + 64 ≤ stagingSize s)
  ok.foldl (fun s l => kvRunWrite s 3 (64 * l) ((new.drop (64 * (l - addr / 64))).take 64) 1) s

/-- Lines of the staging region that an access reads: those within the staging size, and for a write those it covers in
part. -/
def hdmTouched (s : State) (addr n : Nat) (wr : Bool) : List Nat :=
  (linesOf addr n).filter fun l => decide (64 * l + 64 ≤ stagingSize s) &&
    !(wr && decide (addr ≤ 64 * l ∧ 64 * l + 64 ≤ addr + n))

/-- Offset in the staging region of a host run that lies in the range the decoder maps (R363); none: the run is read and
written over the link, as is one that only starts or ends in the range (log 64). -/
def decoderOff (s : State) (addr n : Nat) : Option Nat :=
  let b := s.host.hdmBase.toNat
  if s.host.hdmOn ∧ b ≤ addr ∧ addr + n ≤ b + s.host.hdmSize then some (addr - b) else none

/-- A read by the hub of a host run: the staging region directly where the decoder maps the run (R363), else what the host
answers. -/
def hubRead (s : State) (addr n : Nat) (ans : Option (List Byte)) : Option (List Byte) :=
  match decoderOff s addr n with
  | some o => some (hdmRead s [] o n)
  | none => ans

/-! ### From a line of a tile back to KV space -/

/-- Area of a page row, by the four runs of R284. -/
def rowArea (v : BitVec 64) (row : Nat) : Option Nat :=
  (List.range 4).find? fun a => decide (areaRow0 v a ≤ row ∧ row < areaRow0 v a + areaRows v a)

/-- Area and address of physical line `line`, if the mapping places any there. -/
def kvWhere (s : State) (line : Nat) : Option (Nat × Nat) :=
  let a := s.kv.app
  let tile := line * 64 / 2 ^ 32
  let o := line * 64 % 2 ^ 32
  let pcl := tile / 2
  let row := o / cfgPage a.cfg
  match lfieldOf s (pcl / 12), rowArea a.area row with
  | some f, some area =>
    let sg := sigmaOf a.cfg area
    let u := (row - areaRow0 a.area area) * (12 * mapW s) + (tile % 2 * 12 + pcl % 12)
    let p := (u / sg * cfgFields a.cfg + f) * sg + u % sg
    let addr := p * cfgPage a.cfg + o % cfgPage a.cfg
    if f < cfgFields a.cfg ∧ addr < areaSize s a area then some (area, addr) else none
  | _, _ => none

/-- Physical line of an address, none on ILX2. -/
def kvLineOf (s : State) (area addr : Nat) : Option Nat :=
  if gradeKv s = 0 then none else (kvPort s area addr).map fun (pcl, w, o) => (tileBase pcl w + o) / 64

/-! ### Regions (R289, R291) -/

/-- Class, region and slab within it of a slab of the sequence area. -/
def regionOf (a : KvCfgA) (slab : Nat) : Option (Nat × Nat × Nat) :=
  ((List.range 8).filter fun n => decide (0 < regionSlabs a (clsOf a n))).findSome? fun n =>
    let b := regionSlab a n 0
    let z := regionSlabs a (clsOf a n)
    if b ≤ slab ∧ slab < b + clsRegions (clsOf a n) * z then some (n, (slab - b) / z, (slab - b) % z) else none

/-- Slot of the sequence that holds region r of class n. -/
def regionHolder (s : State) (n r : Nat) : Option Nat :=
  (s.hub.slots.find? fun e => e.2.hasRegion && e.2.cls == n && e.2.region == r).map (·.1)

/-- Lowest-numbered free region of a class (R291). -/
def freeRegion (s : State) (n : Nat) : Option Nat :=
  (List.range (clsRegions (clsOf s.kv.app n))).find? fun r => (regionHolder s n r).isNone

/-- T_c of a sequence (R292). -/
def Seq.chainTok (q : Seq) : Nat := 64 * q.chain.length

/-- Committed tokens whose keys and values stand in KV space: the last token of a sequence whose prompt is processed is
the input of its next position 0 and is computed in the step (R295, R329; log 32). -/
def Seq.kvTok (q : Seq) : Nat := if q.pending.isEmpty then q.committed - 1 else q.committed

/-- Committed region tokens R_c. -/
def Seq.regionTok (q : Seq) : Nat := q.kvTok - q.chainTok

end Sys2Proof.Machine
end

