-- ==== Sys2Proof/Machine/KvStore.lean ====
section
/-! DEFINITION. The KV store: prefix entries, containment of uncorrectable lines, kvld and kvst with their completions,
patrol scrub and the apply of a configuration (chapter 10, R130-R132, R279-R313). -/

namespace Sys2Proof.Machine

open Sys2Proof

/-! ### Prefix entries (R296-R300) -/

def State.pfx (s : State) (g : Nat) : Pfx := tget {} s.kv.pfx g

def State.setPfx (s : State) (g : Nat) (e : Pfx) : State := { s with kv := { s.kv with pfx := tset {} s.kv.pfx g e } }

/-- Hash of a granule from its parent's hash, the scope, the model identity and its 64 tokens (R296). -/
def granuleHash (h : BitVec 64) (scope : Nat) (modelId instDig : List Byte) (toks : List Nat) : BitVec 64 :=
  BitVec.ofNat 64 (leAt (sha512 (leBytes 8 h.toNat ++ leBytes 4 scope ++ (List.range 16).map (byteAt modelId) ++
    (List.range 64).map (byteAt instDig) ++ toks.flatMap (leBytes 4))) 0 8)

/-- Hashes of the first n granules of a prompt, in order. -/
def granuleHashes (scope : Nat) (modelId instDig : List Byte) : Nat → BitVec 64 → List Nat → List (BitVec 64)
  | 0, _, _ => []
  | n + 1, h, toks =>
    let x := granuleHash h scope modelId instDig (toks.take 64)
    x :: granuleHashes scope modelId instDig n x (toks.drop 64)

/-- Lowest entry in state st with a hash, scope and parent. -/
def pfxFind (s : State) (st : Nat) (h : BitVec 64) (scope : Nat) (parent : Option Nat) : Option Nat :=
  (s.kv.pfx.find? fun e => e.2.st == st && e.2.hash == h && e.2.scope == scope && e.2.parent == parent).map (·.1)

/-- Ready entries of the longest matching chain (R298). -/
def pfxMatch (s : State) (scope : Nat) : Option Nat → List (BitVec 64) → List Nat
  | _, [] => []
  | par, h :: r =>
    match pfxFind s 2 h scope par with
    | some g => g :: pfxMatch s scope (some g) r
    | none => []

/-- An entry that is not free has g as its parent. -/
def hasChild (s : State) (g : Nat) : Bool := s.kv.pfx.any fun e => e.2.st != 0 && e.2.parent == some g

/-- Lowest free entry, or the entry an allocation evicts (R299). -/
def pfxAlloc (s : State) : Option Nat :=
  match (List.range (pfxTotal s s.kv.app)).find? fun g => (s.pfx g).st == 0 with
  | some g => some g
  | none =>
    let cand := s.kv.pfx.filter fun e => e.2.st == 2 && e.2.refs == 0 && !hasChild s e.1
    cand.foldl (fun best e =>
      match best with
      | none => some e.1
      | some b => if e.2.tick < (s.pfx b).tick then some e.1 else some b) none

/-- One more reference, with the last-use tick set (R300). -/
def pfxRef (s : State) (g : Nat) : State :=
  let e := s.pfx g
  s.setPfx g { e with refs := e.refs + 1, tick := s.now }

/-- Allocates entries for further granules in state st (1 filling, 2 ready), each with one reference, until one is
already filling or none can be had (R298). Answers the entries. -/
def pfxExtend (s : State) (scope st : Nat) : Option Nat → List (BitVec 64) → List Nat × State
  | _, [] => ([], s)
  | par, h :: r =>
    if (pfxFind s 1 h scope par).isSome then ([], s)
    else
      match pfxAlloc s with
      | none => ([], s)
      | some g =>
        let s1 := s.setPfx g { st := st, hash := h, parent := par, scope := scope, refs := 1, tick := s.now }
        let (l, s2) := pfxExtend s1 scope st (some g) r
        (g :: l, s2)

/-- Releases one reference: a filling entry becomes free, a withdrawn one when no reference is left (R297, R300). -/
def pfxRelease (s : State) (g : Nat) : State :=
  let e := s.pfx g
  if e.st = 1 ∨ (e.st = 3 ∧ e.refs ≤ 1) then s.setPfx g {}
  else s.setPfx g { e with refs := e.refs - 1, tick := s.now }

def releaseChain (s : State) (l : List Nat) : State := l.foldl pfxRelease s

/-- An entry and its descendants, by n rounds over the tree. -/
def pfxTree (s : State) : Nat → List Nat → List Nat
  | 0, l => l
  | n + 1, l =>
    let more := (s.kv.pfx.filter fun e => e.2.st != 0 && !l.contains e.1 &&
      (match e.2.parent with | some p => l.contains p | none => false)).map (·.1)
    if more.isEmpty then l else pfxTree s n (l ++ more)

/-- Withdraws an entry, or frees a ready one that nothing references (R297, R309). A filling entry stays as it is: its
sequence, which is marked, faults at the next boundary and then releases it (R300, R310). -/
def pfxWithdraw (s : State) (g : Nat) : State :=
  let e := s.pfx g
  if e.st ≠ 2 then s
  else if 0 < e.refs then s.setPfx g { e with st := 3 }
  else s.setPfx g {}

/-! ### Sequence faults recorded for the next boundary (R310) -/

/-- Records a faulted-event reason for a live sequence; the first recorded stays. -/
def markFault (s : State) (slot reason : Nat) : State :=
  let q := tget {} s.hub.slots slot
  if q.st = 0 ∨ 8 ≤ q.st ∨ q.fault ≠ 0 then s
  else { s with hub := { s.hub with slots := tset {} s.hub.slots slot { q with fault := reason } } }

/-- Marks every sequence whose chain meets a set of entries. -/
def markChains (s : State) (l : List Nat) : State :=
  (s.hub.slots.filter fun e => e.2.chain.any l.contains).foldl (fun s e => markFault s e.1 2) s

/-! ### The KV error log and containment (R309-R311) -/

/-- Writes an entry of the error log: area, address, place, outcome code, the unit concerned, and a tenant. -/
def elogAdd (s : State) (area addr tile code who : Nat) (ten : Option Nat) : State :=
  let w0 := 2 ^ 63 + (match ten with | some t => 2 ^ 62 + t % 256 * 2 ^ 54 | none => 0) + area % 4 * 2 ^ 46 + addr % 2 ^ 44
  let pcl := tile / 2
  let w1 := pcl / 12 + 2 ^ 8 * (pcl % 12) + 2 ^ 16 * (tile % 2) + 2 ^ 24 * code + 2 ^ 32 * (who % 2 ^ 32)
  { s with kv := { s.kv with
      elog := tset 0 s.kv.elog s.kv.elogNext (BitVec.ofNat 128 (w0 + 2 ^ 64 * w1))
      elogNext := (s.kv.elogNext + 1) % 256
      elogCnt := satAdd 255 s.kv.elogCnt 1 } }

/-- The row of an uncorrectable line is replaced and the line holds zeros; the KV port of a tile with no spare row left has
failed (R311, R424). -/
def spareRow (s : State) (line : Nat) : State :=
  let tile := line * 64 / 2 ^ 32
  let s1 : State := { s with kv := { s.kv with
    uncorr := satAdd 65535 s.kv.uncorr 1
    mem := mclear s.kv.mem (64 * line) (64 * line + 64) } }
  let n := tget 0 s.kv.rowsUsed tile
  if 512 ≤ n then fenceCluster s1 (tile / 2)
  else
    let s2 : State := { s1 with kv := { s1.kv with
      rowsUsed := tset 0 s1.kv.rowsUsed tile (n + 1), spared := satAdd 65535 s1.kv.spared 1 } }
    if n = 511 then fenceCluster s2 (tile / 2) else s2

/-- Pins of an adapter slot (R340). -/
def pinsOf (s : State) (a : Nat) : Nat := (s.hub.slots.filter fun e => e.2.adp == some a).length

/-- Containment by the area and the owner of an address: outcome code, unit concerned, tenant, and the effect. -/
def contain (s : State) (area addr : Nat) : Nat × Nat × Option Nat × State :=
  let a := s.kv.app
  let page := addr / cfgPage a.cfg
  match area with
  | 0 =>
    match regionOf a (page / sigmaOf a.cfg 0) with
    | none => (0, 0, none, s)
    | some (n, r, sl) =>
      match regionHolder s n r with
      | none => (0, 0, none, s)
      | some slot =>
        let q := tget {} s.hub.slots slot
        if sl / cfgHeads a.cfg < cdivN q.regionTok (cfgChunk a.cfg) then (1, slot, some q.tenant, markFault s slot 1)
        else (7, slot, some q.tenant, s)
  | 1 =>
    let g := page / sigmaOf a.cfg 1 / cfgHeads a.cfg
    if (s.pfx g).st = 1 ∨ (s.pfx g).st = 2 then
      let l := pfxTree s s.kv.pfx.length [g]
      (2, g, none, l.foldl pfxWithdraw (markChains s l))
    else (0, 0, none, s)
  | 2 =>
    let k := page / (areaSlabs s a 2 * sigmaOf a.cfg 2 / 64)
    let d := tget {} s.hub.adps k
    if d.st = 2 ∨ d.st = 3 then
      let s1 : State := { s with hub := { s.hub with adps := tset {} s.hub.adps k { d with st := 4 } } }
      (3, k, none, (s.hub.slots.filter fun e => e.2.adp == some k).foldl (fun s e => markFault s e.1 3) s1)
    else (0, 0, none, s)
  | _ => (4, 0, none, ownerEvent s 6 4 0 (BitVec.ofNat 64 addr))

/-- An uncorrectable line of KV storage: contained, recorded once and its row spared; `via` names the copy that read
it, which sets the code (R309). -/
def lineFault (s : State) (line : Nat) (via : Option (Nat × Nat × Option Nat)) : State :=
  let tile := line * 64 / 2 ^ 32
  match kvWhere s line with
  | none => spareRow s line
  | some (area, addr) =>
    match via with
    | some (5, slot, ten) => spareRow (elogAdd (markFault s slot 1) area addr tile 5 slot ten) line
    | some (code, _, _) =>
      let (_, who, ten, s1) := contain s area addr
      spareRow (elogAdd s1 area addr tile code who ten) line
    | none =>
      let (code, who, ten, s1) := contain s area addr
      spareRow (elogAdd s1 area addr tile code who ten) line

/-- Lines corrected are counted in KV_ECC (R281). -/
def kvCorrected (s : State) (n : Nat) : State := { s with kv := { s.kv with corr := satAdd (2 ^ 32 - 1) s.kv.corr n } }

/-- Lines of a run of an area found uncorrectable, given as address / 64. -/
def badLines (s : State) (area : Nat) : List Nat → State
  | [] => s
  | l :: r =>
    badLines (match kvLineOf s area (64 * l) with | some p => lineFault s p none | none => s) area r

/-! ### kvld and kvst (R130-R132, R279, R287, R490) -/

/-- Bytes an element block of one source line takes: 64 for a copy, else 32 or 16 (R287). -/
def kvElem (qm : Nat) : Nat := if qm = 1 then 32 else if qm = 2 then 16 else 64

/-- Plane-side run of a kvld, kvst or hput: (in cluster memory, offset, in bounds). -/
def planeRun (ad : BitVec 48) (lines : Nat) : Bool × Nat × Bool :=
  let o := addrOff ad / 64 * 64
  if addrUnit ad = 0x3F then (false, o, decide (o + 64 * lines ≤ spmSize))
  else (true, o, decide (addrUnit ad = 0x20 ∧ o + 64 * lines ≤ cmSize))

/-- The cases of R131 for a run of n bytes at an address. -/
def kvRunBad (s : State) (c area addr n : Nat) (store : Bool) : Bool :=
  gradeKv s == 0 || decide (16384 < addr % 16384 + n) || decide (areaSize s s.kv.app area ≤ addr) ||
  lfieldOf s (pfOf c) != some (kvMap s area addr).field || (store && area == 2)

/-- A command before another in the order in which they reach a path or tile: by issue cycle, then by cluster and core
(R279). -/
def kvBefore (x y : KvCmd) : Bool := decide (x.tAt < y.tAt ∨ (x.tAt = y.tAt ∧ x.core ≤ y.core))

/-- Enters a command in that order. -/
def insertKv (x : KvCmd) : List KvCmd → List KvCmd
  | [] => [x]
  | y :: r => if kvBefore y x then y :: insertKv x r else x :: y :: r

/-- The command that a path turns away when it would hold 129: the last in order (R279). -/
def kvOver (l : List KvCmd) (path : Nat) : Option KvCmd :=
  let on := l.filter fun x => x.path == path
  if 128 < on.length then on.getLast? else none

/-- Issue of a kvld or kvst: bounds, then the 128 commands of its path, then the command is in flight. -/
def issueKv (s : State) (c : Nat) (k : Core) (store : Bool) (area : Nat) (g : BitVec 5) (a : BitVec 4) (lines qm : Nat)
    (cc : BitVec 6) : State :=
  let addr := (k.gGet g.toNat).toNat % 2 ^ 44 / 64 * 64
  let (cm, o, ok) := planeRun (k.aGet a.toNat) lines
  if !ok || kvRunBad s c area addr (lines * kvElem qm) store then s.raiseCore c 3 .M k.pc.toNat
  else if !store && !cm && runInCode s o (64 * lines) then s.raiseCore c 4 .M k.pc.toNat
  else
    let x : KvCmd :=
      { id := s.plane.nextId, core := c, store := store, area := area, addr := addr, cmem := cm, off := o, lines := lines,
        qm := qm, cc := cc, path := 2 * pclOf c + (kvMap s area addr).wafer, pc := k.pc, tAt := s.cycle }
    let l := insertKv x s.plane.kvs
    let s1 : State := { s with plane := { s.plane with nextId := s.plane.nextId + 1 } }
    match kvOver l x.path with
    | some y => ({ s1 with plane := { s1.plane with kvs := l.filter fun z => z.id != y.id } }).raiseCore y.core 6 .M y.pc.toNat
    | none => { s1 with plane := { s1.plane with kvs := l } }

/-- KVLD (R130): area 11b is reserved. -/
def execKvld (c : Nat) (gd : Guard) (area : BitVec 2) (g : BitVec 5) (a : BitVec 4) (lines : BitVec 8) (cc : BitVec 6)
    (s : State) : Res :=
  issueSlot s c .M gd (area != 3) fun k => issueKv s c k false area.toNat g a (lines.toNat + 1) 0 cc

/-- KVST (R130, R132): area 11b and qm 11b are reserved. -/
def execKvst (c : Nat) (gd : Guard) (area : BitVec 2) (g : BitVec 5) (a : BitVec 4) (lines : BitVec 8) (cc : BitVec 6)
    (qm : BitVec 2) (s : State) : Res :=
  issueSlot s c .M gd (area != 3 && qm != 3) fun k => issueKv s c k true area.toNat g a (lines.toNat + 1) qm.toNat cc

/-- A count of a KV or hub transfer: to the counter while the program runs, else to JS_LATE (R216, R240). -/
def kvCount (s : State) (c i pc : Nat) : State :=
  if s.plane.progRun then s.incr c i pc .M
  else { s with plane := { s.plane with lateKv := satAdd 65535 s.plane.lateKv 1 } }

/-- Reads a plane-side run. -/
def planeRead (s : State) (c : Nat) (cm : Bool) (o n pc : Nat) : Option (List Byte) × State :=
  if cm then cmRead s (pclOf c) o n else spmRead s c o n .M pc

/-- Writes a plane-side run. -/
def planeWrite (s : State) (c : Nat) (cm : Bool) (o pc : Nat) (d : List Byte) : State :=
  if cm then cmWrite s (pclOf c) o d else spmWrite s c o d .M pc

def takeKv (s : State) (id : Nat) : State := { s with plane := { s.plane with kvs := s.plane.kvs.filter fun y => y.id != id } }

/-- Tile a command acts at, by physical cluster and wafer. -/
def kvTile (s : State) (x : KvCmd) : Option (Nat × Nat) := (kvPort s x.area x.addr).map fun p => (p.1, p.2.1)

/-- A command may complete: its plane side has been served line by line (R490), and no earlier command of its path or of
its tile is still in flight (R279). -/
def kvReady (s : State) (x : KvCmd) : Bool :=
  decide (x.lines ≤ x.moved) &&
  !(s.plane.kvs.takeWhile fun y => y.id != x.id).any fun y => y.path == x.path || kvTile s y == kvTile s x

/-- KVLD_COMPLETE (R130, R281, R309, R490): lines corrected are counted; lines found uncorrectable, given as address / 64
and inside the run, are contained and read zeros. The lines stand on the plane from the cycle of the count on: the spec
lets a read before it return old or new content (log 99: the model's choice). -/
def execKvldComplete (id corr : Nat) (bad : List Nat) (s : State) : Res :=
  match s.plane.kvs.find? fun x => x.id == id && !x.store with
  | none => .next s
  | some x =>
    if !kvReady s x then .next s
    else
      let inRun := (List.range x.lines).map fun i => x.addr / 64 + i
      let s1 := badLines s x.area (inRun.filter bad.contains)
      let s2 := kvCorrected s1 (min corr x.lines)
      let s3 := planeWrite (takeKv s2 id) x.core x.cmem x.off x.pc.toNat (kvRunRead s2 x.area x.addr (64 * x.lines))
      .next (kvCount s3 x.core x.cc.toNat x.pc.toNat)

/-- 32 BF16 numbers of a 64-byte line. -/
def lineBf16 (d : List Byte) : List FV := (List.range 32).map fun i => decBf16 (BitVec.ofNat 16 (leAt d (2 * i) 2))

/-- Elements and scale of one quantised source line (R132). -/
def kvQuant (qm : Nat) (d : List Byte) : List Byte × Byte :=
  let (sc, el) := quantise (if qm = 1 then .mx8 false else .mx4) (lineBf16 d)
  (leBytes (kvElem qm) (packNat (if qm = 1 then 8 else 4) el), BitVec.ofNat 8 sc)

/-- Address of the scale of source line i of a quantising kvst to address A (R287). -/
def scaleAddr (s : State) (addr qm i : Nat) : Nat :=
  let g := cfgG s.kv.app.cfg
  let b := addr / 16384
  let e := b % g
  (b / g * g + (g - 1)) * 16384 + e * (16384 / kvElem qm) + (addr % 16384 + i * kvElem qm) / kvElem qm

/-- Stores source line i of a quantising kvst: elements, and the scale unless A lies in a scale block. -/
def kvQuantLine (s : State) (x : KvCmd) (d : List Byte) (i : Nat) : State :=
  let (el, sc) := kvQuant x.qm ((d.drop (64 * i)).take 64)
  let s1 := kvBlockWrite s x.area (x.addr + i * kvElem x.qm) el
  if x.addr / 16384 % cfgG s.kv.app.cfg = cfgG s.kv.app.cfg - 1 then s1
  else kvBlockWrite s1 x.area (scaleAddr s x.addr x.qm i) [sc]

/-- Lines that a run of n bytes from address a covers in part. -/
def partOf (a n : Nat) : List Nat :=
  ((List.range ((a + n + 63) / 64 - a / 64)).map (a / 64 + ·)).filter fun l =>
    !(decide (a ≤ 64 * l ∧ 64 * l + 64 ≤ a + n))

/-- Lines that a kvst writes in part (R309): of a quantising one, among its element lines and its scale lines. -/
def partLines (s : State) (x : KvCmd) : List Nat :=
  if x.qm = 0 then []
  else
    let g := cfgG s.kv.app.cfg
    partOf x.addr (x.lines * kvElem x.qm) ++
      (if x.addr / 16384 % g = g - 1 then [] else partOf (scaleAddr s x.addr x.qm 0) x.lines)

/-- KVST_COMPLETE (R130, R281, R287, R309, R490): the lines read from the plane are stored; of the partly written lines,
those corrected are counted, and those found uncorrectable are contained first, and the bytes go into lines of zeros. -/
def execKvstComplete (id : Nat) (ecc : LineRes) (s : State) : Res :=
  match s.plane.kvs.find? fun x => x.id == id && x.store with
  | none => .next s
  | some x =>
    if !kvReady s x then .next s
    else
      let part := (partLines s x).eraseDups
      let s2 := badLines (kvCorrected (takeKv s id) (min ecc.corr part.length)) x.area (part.filter ecc.bad.contains)
      let s3 := if x.qm = 0 then kvWriteAll s2 x.area x.addr x.buf
        else (List.range x.lines).foldl (fun s i => kvQuantLine s x x.buf i) s2
      .next (kvCount s3 x.core x.cc.toNat x.pc.toNat)

/-! ### Patrol scrub (R281) -/

/-- KV_PATROL_SCRUB: in Run and Breeze, a physical line read good (0), corrected and counted (1), or uncorrectable. -/
def execKvPatrolScrub (line res : Nat) (s : State) : Res :=
  if 1152 * 2 ^ 26 ≤ line ∨ gradeKv s ≤ line * 64 / 2 ^ 32 % 2 then .next s
  else if s.pwr.state < 4 then .next s
  else if res = 0 then .next s
  else if res = 1 then .next (kvCorrected s 1)
  else .next (lineFault s line none)

/-! ### Applying a configuration (R282-R290) -/

/-- The written registers as a configuration. -/
def writtenKv (s : State) : KvCfgA :=
  { cfg := s.kv.cfg, area := s.kv.area, cls := (List.range 8).map (tget 0 s.kv.cls), pool := s.kv.pool }

/-- A sequence is live, parking or restoring, or parked (R282). -/
def anySeq (s : State) : Bool := s.hub.slots.any (fun e => e.2.st != 0) || !s.hub.parked.isEmpty

/-- Result 02h: a field out of its range. -/
def kvRangeBad (a : KvCfgA) : Bool :=
  let v := a.cfg
  cfgLanes v == 0 || decide (336 < cfgLanes v) || cfgHeads v == 0 || decide (64 < cfgHeads v) || cfgSlab v == 0 ||
  decide (64 < cfgSlab v) || cfgFields v == 0 || decide (46 < cfgFields v) || decide (2 ≤ cfgFmt v) ||
  a.cls.any fun c => decide (256 < clsRegions c)

/-- Result 03h: capacity (R284, R289). -/
def kvCapBad (s : State) (a : KvCfgA) : Bool :=
  let regs := (a.cls.map clsRegions).sum
  let slabs := (a.cls.map fun c => clsRegions c * regionSlabs a c).sum
  decide (portRows s a.cfg a.pool < areaRow0 a.area 4) || decide (256 * 2 ^ 30 < areaSize s a 3) ||
  decide (256 < regs) || decide (areaSlabs s a 0 < slabs)

/-- Result 04h: layout (R289). -/
def kvLayoutBad (a : KvCfgA) : Bool :=
  let v := a.cfg
  (a.cls.any fun c => decide (clsMax c % cfgChunk v ≠ 0)) ||
  decide (cfgHeads v * cfgSlab v * cfgPage v < cfgKvTok v * cfgChunk v) || decide (cfgSlab v * 64 % cfgChunk v ≠ 0)

/-- Result 05h: ILX2 gives no staging rows, and the pool lies inside the cluster memory (R288). -/
def kvGradeBad (s : State) (a : KvCfgA) : Bool :=
  gradeKv s == 0 && (areaRows a.area 3 != 0 ||
    decide (cmSize < (bits a.pool.toNat 31 23 + bits a.pool.toNat 22 14) * 65536))

/-- Result of an apply: the lowest-numbered whose condition holds, 0 when accepted. -/
def kvResult (s : State) (a : KvCfgA) : Nat :=
  if s.running || anySeq s then 1
  else if kvRangeBad a then 2
  else if kvCapBad s a then 3
  else if kvLayoutBad a then 4
  else if kvGradeBad s a then 5
  else 0

/-- An address of cluster memory lies in the ILX2 pool of a configuration (R288). -/
def inPool (a : KvCfgA) (x : Nat) : Bool :=
  let o := (x - cmAddr 0 0) % 2 ^ 25
  let b := bits a.pool.toNat 31 23 * 65536
  decide (cmAddr 0 0 ≤ x ∧ x < cmAddr 576 0 ∧ b ≤ o ∧ o < b + bits a.pool.toNat 22 14 * 65536)

/-- The content of every area after an accepted apply: undefined, so free (R282; log 30). -/
def kvScatter (s : State) (a : KvCfgA) : State :=
  let l := Config.kvContent s.free
  let s1 := s.bumpFree
  if gradeKv s = 0 then
    { s1 with plane := { s1.plane with
        sram := storeCells (s1.plane.sram.filter fun c => !inPool a c.1) (l.filter fun c => inPool a c.1) } }
  else { s1 with kv := { s1.kv with mem := storeCells [] (l.filter fun c => decide (c.1 < 1152 * 2 ^ 32)) } }

/-- The apply of R282: refused, or the configuration in force with every region, prefix entry and adapter slot free and
the content of every area undefined. -/
def kvApply (s : State) : State :=
  let a := writtenKv s
  let r := kvResult s a
  if r = 0 then
    let s1 := kvScatter s a
    { s1 with
      kv := { s1.kv with app := a, result := 0, pfx := [] }
      hub := { s1.hub with adps := [] } }
  else { s with kv := { s.kv with result := r } }

/-- KV_APPLY (R282). -/
def execKvApply (s : State) : Res := .next (kvApply s)

end Sys2Proof.Machine
end

