-- ==== Sys2Proof/Machine/Hput.lean ====
section
/-! DEFINITION. hput and the candidate blocks the hub takes (R133, R330, R331, R490). -/

namespace Sys2Proof.Machine

open Sys2Proof

/-- HPUT (R133): kind 01h is the only kind the hub defines, checked whatever the guard. -/
def execHput (c : Nat) (gd : Guard) (a : BitVec 4) (kind : BitVec 8) (cc lines : BitVec 6) (s : State) : Res :=
  issueSlot s c .M gd (kind == 1) fun k =>
    let n := lines.toNat + 1
    let (cm, o, ok) := planeRun (k.aGet a.toNat) n
    if !ok then s.raiseCore c 3 .M k.pc.toNat
    else
      let x : HputCmd :=
        { id := s.plane.nextId, core := c, cmem := cm, off := o, kind := kind.toNat, lines := n, cc := cc, pc := k.pc, tAt := s.cycle }
      { s with plane := { s.plane with nextId := s.plane.nextId + 1, hputs := s.plane.hputs ++ [x] } }

/-- The slot takes part in the present step, and the ordinal is one of its positions (R331). -/
def candWanted (s : State) (slot ord : Nat) : Bool :=
  let q := tget {} s.hub.slots slot
  decide (slot < 256) && ((q.decodes && decide (ord ≤ q.depth)) || (!q.decodes && q.pfCnt != 0 && ord == 0))

/-- The (value, index) pairs of a block: lines 1-4 and 5-8 (R330). -/
def candPairs (d : List Byte) : List (BitVec 32 × BitVec 32) :=
  (List.range 64).map fun i => (BitVec.ofNat 32 (leAt d (64 + 4 * i) 4), BitVec.ofNat 32 (leAt d (320 + 4 * i) 4))

/-- Adds a block to its position: the header is that of the first block, the lists merge (R330). -/
def addCand (d : List Byte) (slot ord : Nat) : List Cand → List Cand
  | [] => [{ slot := slot, ord := ord, need := leAt d 4 2, got := 1, pre := bit (leAt d 6 1) 0,
             lse := BitVec.ofNat 32 (leAt d 8 4), prop := leAt d 12 4, list := topMerge 64 [] (candPairs d) }]
  | x :: r =>
    if x.slot = slot ∧ x.ord = ord then { x with got := x.got + 1, list := topMerge 64 x.list (candPairs d) } :: r
    else x :: addCand d slot ord r

/-- The hub takes a block of kind 01h, or drops and counts it (R331). -/
def hubTake (s : State) (lines : Nat) (d : List Byte) : State :=
  let slot := leAt d 0 2
  let ord := leAt d 2 2
  if lines ≠ 9 ∨ !candWanted s slot ord then
    { s with hub := { s.hub with dropCand := satAdd 65535 s.hub.dropCand 1 } }
  else { s with hub := { s.hub with cands := addCand d slot ord s.hub.cands } }

/-- HPUT_ACCEPT (R133, R216, R240, R490): every line of the block has been read; the hub takes it and the counter
increments; after a stop the completion is counted in JS_LATE. -/
def execHputAccept (id : Nat) (s : State) : Res :=
  match s.plane.hputs.find? fun x => x.id == id with
  | none => .next s
  | some x =>
    if x.moved < x.lines then .next s
    else
      let s1 : State := { s with plane := { s.plane with hputs := s.plane.hputs.filter fun y => y.id != id } }
      let s2 := if s.plane.progRun then hubTake s1 x.lines x.buf else s1
      .next (kvCount s2 x.core x.cc.toNat x.pc.toNat)

end Sys2Proof.Machine
end

