-- ==== Sys2Proof/Machine/Jet.lean ====
section
/-! DEFINITION. The Jetstream network: packet headers, send and get, routers, gateways, stations, reduction and delivery
(chapter 06, R134-R137, R170-R202). -/

namespace Sys2Proof.Machine

open Sys2Proof

/-! ### Header fields (R175) -/

def hTree (h : BitVec 128) : Nat := bits h.toNat 127 116
def hMc (h : BitVec 128) : Bool := bit h.toNat 115
def hFmt (h : BitVec 128) : Bool := bit h.toNat 114
def hOp (h : BitVec 128) : Nat := bits h.toNat 113 112
def hKind (h : BitVec 128) : Nat := bits h.toNat 111 110
def hDir (h : BitVec 128) : Nat := bits h.toNat 109 108
def hTcnt (h : BitVec 128) : Nat := bits h.toNat 107 104
def hTurn (h : BitVec 128) (i : Nat) : Nat := bits h.toNat (81 + 2 * i) (80 + 2 * i)
def hFrow (h : BitVec 128) : Nat := bits h.toNat 105 100
def hFcol (h : BitVec 128) : Nat := bits h.toNat 99 92
def hCmask (h : BitVec 128) : Nat := bits h.toNat 91 80
def hLw (h : BitVec 128) : Nat := bits h.toNat 81 80
def hSeq (h : BitVec 128) : Nat := bits h.toNat 79 64
def hCcore (h : BitVec 128) : Nat := bits h.toNat 62 58
def hDcc (h : BitVec 128) : Nat := bits h.toNat 57 52
def hLen (h : BitVec 128) : Nat := bits h.toNat 51 48
def hField (h : BitVec 128) : Nat := bits h.toNat 47 42
def hCluster (h : BitVec 128) : Nat := bits h.toNat 41 38
def hUnit (h : BitVec 128) : Nat := bits h.toNat 37 32
/-- Destination offset; bits [7:0] are ignored. -/
def hOff (h : BitVec 128) : Nat := bits h.toNat 31 8 * 256

/-- Replaces bits [hi:lo] of a header. -/
def hSet (h : BitVec 128) (hi lo v : Nat) : BitVec 128 :=
  BitVec.ofNat 128 (h.toNat / 2 ^ (hi + 1) * 2 ^ (hi + 1) + v % 2 ^ (hi + 1 - lo) * 2 ^ lo + h.toNat % 2 ^ lo)

def isUnicast (h : BitVec 128) : Bool := !hMc h && hOp h == 0

/-- The multicast set names cluster c of logical field f (R175). -/
def hNames (h : BitVec 128) (f c : Nat) : Bool := bit (hFrow h) (f / 8) && bit (hFcol h) (f % 8) && bit (hCmask h) c

/-- K and F of the loaded program. -/
def progK (s : State) : Nat := (s.ldr.prog.map (·.kCores)).getD 0
def progF (s : State) : Nat := (s.ldr.prog.map (·.fFields)).getD 0

/-! ### The checks of R177 -/

/-- Encoding of a header; `req` marks a get request, `rep` its reply header (whose kind bits are ignored). -/
def hdrLegal (h : BitVec 128) (req rep : Bool) : Bool :=
  let z hi lo := bits h.toNat hi lo == 0
  let kindOk := rep || hKind h == (if req then 1 else 0)
  let routeOk :=
    if isUnicast h then
      decide (hTcnt h ≤ 12) && (List.range 12).all fun i => decide (i < hTcnt h) || hTurn h i == 0
    else if hMc h then z 109 106 && z 47 38
    else z 109 82 && (if hOp h = 3 then hLw h != 3 else hLw h == 0)
  kindOk && z 63 63 && routeOk &&
  !(hMc h && hOp h != 0) &&
  (if isUnicast h then hTree h == 0 else hTree h != 0) &&
  !(hFmt h && (hOp h == 0 || hOp h == 3)) &&
  !((req || rep) && !isUnicast h) &&
  !(req && (hDcc h != 0 || hCcore h != 0)) &&
  !(hOp h == 3 && hLen h * 64 % (64 * 2 ^ hLw h) != 0)

/-- Size of the unit a header's dest names; 0 for a unit that does not exist. -/
def unitSize (s : State) (u : Nat) : Nat :=
  if u < 28 then (if u < progK s then spmSize else 0)
  else if u = 0x20 then cmSize
  else if u = 0x30 then 0x1C0000
  else 0

/-- Destination bounds of R177: `req` for a get request, whose run is the remote one. -/
def hdrBounds (s : State) (h : BitVec 128) (req : Bool) : Bool :=
  (hMc h || (decide (hField h < 46) && decide (hCluster h < 12))) &&
  decide (hOff h + 256 * (hLen h + 1) ≤ unitSize s (hUnit h)) &&
  (req || (if hUnit h < 28 then hCcore h == 0 else decide (hCcore h < progK s)))

/-- A multicast set names only fields below F (R177). -/
def hdrSet (s : State) (h : BitVec 128) : Bool :=
  !hMc h || (List.range 48).all fun f => !(bit (hFrow h) (f / 8) && bit (hFcol h) (f % 8)) || decide (f < progF s)

/-- Squall class a header raises at send, if any (R177). -/
def hdrFault (s : State) (h : BitVec 128) (req rep : Bool) : Option Nat :=
  if !hdrLegal h req rep then some 7
  else if !hdrBounds s h req then some 3
  else if !hdrSet s h then some 0xA
  else none

/-! ### Send and get (R134, R135, R137) -/

/-- Header of a send or get: the register pair, with the length and the send count written over it (R134, R175). -/
def wireHdr (k : Core) (g : BitVec 5) (len : Nat) : BitVec 128 :=
  let h : BitVec 128 := (k.gGet (g.toNat + 1)) ++ (k.gGet g.toNat)
  hSet (hSet h 51 48 len) 79 64 k.sendCnt.toNat

/-- Payload of a packet. -/
def payOf (s : State) (p : Packet) : Option Payload := p.pay.bind fun i => s.plane.pays.find? fun y => y.id == i

/-- Flits of a packet that have been read or formed. -/
def flitsOf (s : State) (p : Packet) : List (BitVec 2048) := ((payOf s p).map (·.flits)).getD []

/-- Injects a packet of core c with its payload; the send count advances and the packet is counted. -/
def inject (s : State) (c : Nat) (k : Core) (p : Packet) (pay : List Payload) : State :=
  let s := s.setCore c { k with sendCnt := k.sendCnt + 1 }
  { s with plane := { s.plane with
      nextId := s.plane.nextId + 1
      packets := s.plane.packets ++ [p]
      pays := s.plane.pays ++ pay
      packetCnt := satAdd (2 ^ 32 - 1) s.plane.packetCnt 1 } }

/-- SEND (R134, R135): gH is even, and cc is zero when lc is 0. Flit k is read at t + 1 + k, the header enters the source
router at t + 3, and the local count falls in the cycle after the last read. -/
def execSend (c : Nat) (gd : Guard) (a : BitVec 4) (gH : BitVec 5) (flits : BitVec 4) (cc : BitVec 6) (lc : Bool)
    (s : State) : Res :=
  issueSlot s c .M gd (decide (gH.toNat % 2 = 0) && (lc || cc == 0)) fun k =>
    let ad := k.aGet a.toNat
    let o := addrOff ad / 256 * 256
    let n := flits.toNat + 1
    let h := wireHdr k gH flits.toNat
    if !spmRun ad o (256 * n) then s.raiseCore c 3 .M k.pc.toNat
    else
      match hdrFault s h false false with
      | some cls => s.raise { coreRep s c cls .M k.pc.toNat with hdr0 := h }
      | none =>
        let id := s.plane.nextId
        inject s c k { id := id, hdr := h, n := n, loc := .router (pclOf c) 0, t := s.cycle + 3, src := c, pay := some id }
          [{ id := id, hdr := h, n := n, sa := some (spmAddr c o), core := some c, issued := s.cycle,
             lc := if lc then some (c, cc.toNat, k.pc.toNat) else none }]

/-- GET (R137): the request carries the reply header; both pairs are even. Its local count falls at t + 2. -/
def execGet (c : Nat) (gd : Guard) (gH gR : BitVec 5) (flits : BitVec 4) (cc : BitVec 6) (lc : Bool) (s : State) : Res :=
  issueSlot s c .M gd (decide (gH.toNat % 2 = 0) && decide (gR.toNat % 2 = 0) && (lc || cc == 0)) fun k =>
    let h := wireHdr k gH flits.toNat
    let r := hSet (wireHdr k gR flits.toNat) 111 110 2
    match hdrFault s h true false, hdrFault s r false true with
    | some cls, _ => s.raise { coreRep s c cls .M k.pc.toNat with hdr0 := h }
    | none, some cls => s.raise { coreRep s c cls .M k.pc.toNat with hdr0 := r }
    | none, none =>
      inject s c { k with incDue := if lc then k.incDue ++ [(s.cycle + 2, cc.toNat, k.pc.toNat)] else k.incDue }
        { id := s.plane.nextId, hdr := h, n := 1, reply := r, loc := .router (pclOf c) 0, t := s.cycle + 3, src := c } []

/-! ### Places in the plane (R170-R173) -/

/-- Field beyond side d (0 N, 1 E, 2 S, 3 W) of physical field p. -/
def fieldBeyond (p d : Nat) : Option Nat :=
  match d with
  | 0 => if 8 ≤ p then some (p - 8) else none
  | 1 => if p % 8 < 7 then some (p + 1) else none
  | 2 => if p / 8 < 5 then some (p + 8) else none
  | _ => if 0 < p % 8 then some (p - 1) else none

/-- Cluster of the same field beyond side d of cluster c. -/
def clusterBeyond (c d : Nat) : Option Nat :=
  match d with
  | 0 => if 4 ≤ c then some (c - 4) else none
  | 1 => if c % 4 < 3 then some (c + 1) else none
  | 2 => if c / 4 < 2 then some (c + 4) else none
  | _ => if 0 < c % 4 then some (c - 1) else none

def opposite (d : Nat) : Nat := (d + 2) % 4

/-- Lane of a boundary router (R172). -/
def laneOf (c d : Nat) : Nat := if d % 2 = 0 then c % 4 else c / 4

/-- Boundary router behind a lane of side d; none for lane 3 of an E or W side. -/
def clusterAt (d lane : Nat) : Option Nat :=
  match d with
  | 0 => some lane
  | 2 => some (8 + lane)
  | 1 => if lane < 3 then some (4 * lane + 3) else none
  | _ => if lane < 3 then some (4 * lane) else none

/-- Station that faces side d of an edge field, clockwise from the N edge's column 0 (R173). -/
def stationOf (p d : Nat) : Nat :=
  match d with
  | 0 => p % 8
  | 1 => 8 + p / 8
  | 2 => 14 + (7 - p % 8)
  | _ => 22 + (5 - p / 8)

/-- Field and side a station faces. -/
def stationField (n : Nat) : Nat × Nat :=
  if n < 8 then (n, 0)
  else if n < 14 then (8 * (n - 8) + 7, 1)
  else if n < 22 then (40 + (7 - (n - 14)), 2)
  else (8 * (5 - (n - 22)), 3)

/-- A field whose transit domain is fenced: its gateways are bypassed (R174). -/
def bypassed (s : State) (p : Nat) : Bool := tget 0 s.bg.fieldSt p == 2

/-! ### Faults and outputs held (R171, R201) -/

def rtrRep (s : State) (pcl cls port : Nat) (h : BitVec 128) : FaultRep := { unitRep s pcl cls 2 port with hdr0 := h }

def gateRep (s : State) (pf side lane cls : Nat) (h : BitVec 128) : FaultRep :=
  { unitRep s (12 * pf) cls 3 (4 * side + lane) with hdr0 := h }

def stationRep (s : State) (n lane cls : Nat) (h : BitVec 128) : FaultRep :=
  { cycle := s.cycle, cls := cls, pfield := n, unit := 4, loc := lane, lcore := 31, hdr0 := h }

/-- Removes a packet. -/
def dropPkt (s : State) (id : Nat) : State :=
  { s with plane := { s.plane with packets := s.plane.packets.filter fun p => p.id != id } }

/-- Holds an output for a packet's flits from cycle t on; the header of an overlapping packet when there is one. -/
def holdOut (s : State) (res t len : Nat) (h : BitVec 128) : Except (BitVec 128) State :=
  match s.plane.resvs.find? fun r => r.res == res && decide (r.tAt < t + len) && decide (t < r.tAt + r.len) with
  | some r => .error r.hdr
  | none => .ok { s with plane := { s.plane with resvs := s.plane.resvs ++ [{ res := res, tAt := t, len := len, hdr := h }] } }

/-- Resource numbers: router outputs and injections, gateway lanes, station lanes. -/
def resRouter (pcl port : Nat) : Nat := 8 * pcl + port
def resGate (pf side lane : Nat) : Nat := 0x10000 + 16 * pf + 4 * side + lane
def resStation (n dir lane : Nat) : Nat := 0x20000 + 16 * n + 4 * dir + lane
/-- Lane of a gateway toward the boundary router behind it. -/
def resArrive (pf side lane : Nat) : Nat := 0x30000 + 16 * pf + 4 * side + lane

/-- A collision: the later packet takes no effect. -/
def collide (s : State) (id : Nat) (rep : FaultRep) (other : BitVec 128) : State :=
  dropPkt (s.raise { rep with cls := 1, hdr0 := other, hdr1 := rep.hdr0 }) id

def putPkt (s : State) (p : Packet) : State :=
  { s with plane := { s.plane with packets := s.plane.packets.map fun q => if q.id = p.id then p else q } }

def addPkt (s : State) (p : Packet) : State :=
  { s with plane := { s.plane with packets := s.plane.packets ++ [{ p with id := s.plane.nextId }], nextId := s.plane.nextId + 1 } }

/-- Traffic trace (R243): a 32-byte entry for each header that leaves the traced router. -/
def trace (s : State) (pcl port t : Nat) (h : BitVec 128) : State :=
  let loc := s.ldr.trLoc.toNat
  if s.ldr.tracing && decide (12 * bits loc 9 4 + bits loc 3 0 = pcl) && decide (s.ldr.trace.length < 8192) then
    let e : BitVec 256 := BitVec.ofNat 256 (t % 2 ^ 64 + 2 ^ 64 * h.toNat + 2 ^ 192 * port)
    { s with ldr := { s.ldr with trace := s.ldr.trace ++ [e] } }
  else s

/-- Field crossings, one for each scribe link, are counted (JS_TRAFFIC). -/
def countCrossing (s : State) (n : Nat) : State :=
  { s with plane := { s.plane with crossings := satAdd (2 ^ 32 - 1) s.plane.crossings n } }

/-- Through bypassed fields straight across, from field p in direction d: field or station reached and the crossings. -/
def crossTo (s : State) : Nat → Nat → Nat → Nat → Option Nat × Nat × Nat
  | 0, p, d, n => (fieldBeyond p d, p, n)
  | f + 1, p, d, n =>
    match fieldBeyond p d with
    | none => (none, p, n)
    | some q => if bypassed s q then crossTo s f q d (n + 1) else (some q, p, n)

/-- Sends a header across the scribe link of side d of field p on a lane, leaving at cycle t: 6 cycles for each scribe
link to the next gateway or station (R183). -/
def crossField (s : State) (p : Packet) (pf d lane t : Nat) : State :=
  match crossTo s 8 pf d 1 with
  | (some q, _, n) => putPkt (countCrossing s n) { p with loc := .gate q (opposite d) lane, t := t + 6 * n, dir := d }
  | (none, e, n) => putPkt (countCrossing s n) { p with loc := .station (stationOf e d) 2 lane, t := t + 6 * n, dir := d }

/-- A header leaves a router through a mesh port toward direction d at cycle t (R178, R180, R187). A gateway of a bypassed
field would have to turn it: a route squall (R174, R182). -/
def leaveRouter (s : State) (p : Packet) (pcl d t : Nat) : State :=
  let rep := rtrRep s pcl 2 (d + 1) p.hdr
  match holdOut s (resRouter pcl (d + 1)) t p.n p.hdr with
  | .error h => collide s p.id rep h
  | .ok s =>
    let s := trace s pcl (d + 1) t p.hdr
    let pf := pcl / 12
    let c := pcl % 12
    match clusterBeyond c d with
    | some c' => putPkt s { p with loc := .router (12 * pf + c') (opposite d + 1), t := t + 2, dir := d }
    | none =>
      if (fieldBeyond pf d).isNone && isUnicast p.hdr && lfieldOf s pf == some (hField p.hdr) then
        dropPkt (s.raise rep) p.id
      else if bypassed s pf then dropPkt (s.raise (gateRep s pf d (laneOf c d) 2 p.hdr)) p.id
      else
        match holdOut s (resGate pf d (laneOf c d)) t p.n p.hdr with
        | .error h => collide s p.id (gateRep s pf d (laneOf c d) 2 p.hdr) h
        | .ok s => crossField s p pf d (laneOf c d) t

/-- The cluster of the router holds a logical core of the running program (R200). -/
def clusterUsed (s : State) (pcl : Nat) : Bool :=
  match lfieldOf s (pcl / 12) with
  | some f => decide (f < progF s)
  | none => false

/-- A header leaves through L at cycle t, to be delivered (R179, R191, R200). -/
def ejectPkt (s : State) (p : Packet) (pcl t : Nat) : State :=
  let rep := rtrRep s pcl 2 0 p.hdr
  match holdOut s (resRouter pcl 0) t p.n p.hdr with
  | .error h => collide s p.id rep h
  | .ok s =>
    let s := trace s pcl 0 t p.hdr
    let here := lfieldOf s (pcl / 12) == some (hField p.hdr) && pcl % 12 == hCluster p.hdr
    if here && clusterUsed s pcl then putPkt s { p with loc := .deliver pcl, t := t }
    else dropPkt (s.raise rep) p.id

/-- A multicast copy reaches L: delivered when its set names the cluster, dropped otherwise (R189). -/
def ejectCopy (s : State) (p : Packet) (pcl t : Nat) : State :=
  let rep := rtrRep s pcl 2 0 p.hdr
  match holdOut s (resRouter pcl 0) t p.n p.hdr with
  | .error h => collide s p.id rep h
  | .ok s =>
    let s := trace s pcl 0 t p.hdr
    match lfieldOf s (pcl / 12) with
    | some f =>
      if hNames p.hdr f (pcl % 12) && decide (f < progF s) then putPkt s { p with loc := .deliver pcl, t := t }
      else dropPkt s p.id
    | none => dropPkt s p.id

/-- Keys of table entries in the check bits' state: router, gateway unicast, gateway tree, station unicast, station tree. -/
def keyRouter (pcl tree : Nat) : Nat := 4096 * pcl + tree
def keyPlace (kind i h : Nat) : Nat := 2 ^ 32 * kind + 4096 * i + h

/-- A lookup reads a table entry under SECDED: a single-bit error is corrected and counted; with a double-bit error the
lookup takes no effect, and the squall of class 0Ch names its place (R96, R202; log 109). -/
def tableRead (s : State) (key : Nat) (rep : FaultRep) : Except State State :=
  match tget 0 s.jet.tblErr key with
  | 0 => .ok s
  | 1 => .ok { s with
      jet := { s.jet with tblErr := tset 0 s.jet.tblErr key 0 }
      bg := { s.bg with eccCorr := satAdd (2 ^ 32 - 1) s.bg.eccCorr 1 } }
  | _ =>
    let x := (Config.tablePlace key).toNat
    .error (s.raise { rep with cls := 0xC, auxHi := x / 2 ^ 32, auxLo := x % 2 ^ 32 })

/-- Router tree entry (R188). -/
def treeEntry (s : State) (pcl tree : Nat) : Nat := (tget 0 s.jet.router (4096 * pcl + tree)).toNat

/-- Ports named in a 5-bit field, L N E S W from its most significant bit, as port numbers 0 to 4. -/
def portsOf (f : Nat) : List Nat := (List.range 5).filter fun i => bit f (4 - i)

/-- One copy of a multicast packet for each port named; the first keeps the packet's identity. -/
def copyOut (s : State) (p : Packet) (pcl : Nat) : Bool → List Nat → State
  | _, [] => s
  | first, o :: r =>
    let s1 := if first then s else addPkt s p
    let q := if first then p else { p with id := s.plane.nextId }
    copyOut (if o = 0 then ejectCopy s1 q pcl p.t else leaveRouter s1 q pcl (o - 1) p.t) p pcl false r

/-- Multicast at a router (R189). -/
def mcHop (s : State) (p : Packet) (pcl port : Nat) : State :=
  let e := treeEntry s pcl (hTree p.hdr)
  if !bit e 31 || bit e 30 || portsOf (bits e 24 20) != [port] then dropPkt (s.raise (rtrRep s pcl 2 port p.hdr)) p.id
  else
    match portsOf (bits e 29 25) with
    | [] => dropPkt s p.id
    | l => copyOut s p pcl true l

/-- A packet leaves a reduce router by port o at cycle t. -/
def reduceOut (s : State) (p : Packet) (pcl o t : Nat) : State :=
  if o = 0 then ejectPkt s p pcl t else leaveRouter s p pcl (o - 1) t

/-- Reduction at a router: an invalid entry, an unnamed port or more than one output is a mismatch; one input forwards;
at a combining router the packet waits for the others (R191, R192). -/
def reduceHop (s : State) (p : Packet) (pcl port : Nat) : State :=
  let e := treeEntry s pcl (hTree p.hdr)
  let ins := portsOf (bits e 24 20)
  match portsOf (bits e 29 25) with
  | [o] =>
    if !bit e 31 || !bit e 30 || !ins.contains port then dropPkt (s.raise (rtrRep s pcl 8 port p.hdr)) p.id
    else if ins.length = 1 then reduceOut s p pcl o p.t
    else putPkt s { p with waits := true }
  | _ => dropPkt (s.raise (rtrRep s pcl 8 port p.hdr)) p.id

/-- Unicast at a router (R178, R179): from L it leaves by dir, or is ejected with no turns; otherwise it consumes a turn. -/
def uniHop (s : State) (p : Packet) (pcl port : Nat) : State :=
  if port = 0 then
    if hTcnt p.hdr = 0 then ejectPkt s p pcl p.t else leaveRouter s p pcl (hDir p.hdr) p.t
  else if hTcnt p.hdr ≤ p.turn then dropPkt (s.raise (rtrRep s pcl 2 port p.hdr)) p.id
  else
    let q := { p with turn := p.turn + 1 }
    match hTurn p.hdr p.turn with
    | 0 => leaveRouter (putPkt s q) q pcl p.dir p.t
    | 1 => leaveRouter (putPkt s q) q pcl ((p.dir + 3) % 4) p.t
    | 2 => leaveRouter (putPkt s q) q pcl ((p.dir + 1) % 4) p.t
    | _ => ejectPkt (putPkt s q) q pcl p.t

def findPkt (s : State) (id : Nat) : Option Packet := s.plane.packets.find? fun p => p.id == id

/-- A packet from L takes the injection port of its router for one cycle (R171, R201). -/
def takeInjection (s : State) (p : Packet) (pcl port : Nat) : Except (BitVec 128) State :=
  if port = 0 then holdOut s (resRouter pcl 5) p.t 1 p.hdr else .ok s

/-- A packet's header acts at its router (R178, R189, R191). -/
def routerHop (s : State) (p : Packet) (pcl port : Nat) : State :=
  match takeInjection s p pcl port with
  | .error h => collide s p.id (rtrRep s pcl 1 0 p.hdr) h
  | .ok s =>
    if isUnicast p.hdr then uniHop s p pcl port
    else
      match tableRead s (keyRouter pcl (hTree p.hdr)) (rtrRep s pcl 2 port p.hdr) with
      | .error s => dropPkt s p.id
      | .ok s => if hMc p.hdr then mcHop s p pcl port else reduceHop s p pcl port

/-- ROUTER_HOP (R178): the header of a packet acts at the router where it stands, not before the cycle it is there; one
that has acted at a combining router and waits there does not act again. -/
def execRouterHop (id : Nat) (s : State) : Res :=
  match findPkt s id with
  | none => .next s
  | some p =>
    match p.loc with
    | .router pcl port => if s.cycle < p.t ∨ p.waits then .next s else .next (routerHop s p pcl port)
    | _ => .next s

/-! ### Gateways and stations (R180-R183) -/

/-- Table entry for a packet, by its destination field or its tree (R180, R181). -/
def fieldEntry (uni : Table (BitVec 32)) (tree : Table (BitVec 32)) (i : Nat) (h : BitVec 128) : Nat :=
  if isUnicast h then (tget 0 uni (64 * i + hField h)).toNat else (tget 0 tree (4096 * i + hTree h)).toNat

/-- Key of the entry a packet looks up at gateway or station i: tables of kind k (unicast) and k + 1 (tree). -/
def placeKey (h : BitVec 128) (k i : Nat) : Nat := if isUnicast h then keyPlace k i (hField h) else keyPlace (k + 1) i (hTree h)

/-- act and fwd of an entry are usable (R182). -/
def entryOk (h : BitVec 128) (e : Nat) (sides : List Nat) : Bool :=
  bit e 31 && bits e 30 29 != 3 &&
  !(isUnicast h && bits e 30 29 == 2) && !(isUnicast h && bits e 30 29 == 0 && sides.length != 1)

/-- Forwards a packet from a gateway by the sides named; the last one keeps its identity. -/
def forwardGate (s : State) (p : Packet) (pf lane t : Nat) (keep : Bool) : List Nat → State
  | [] => if keep then s else dropPkt s p.id
  | d :: r =>
    let last := r.isEmpty && !keep
    let s1 := if last then s else addPkt s p
    let q := if last then p else { p with id := s.plane.nextId }
    let s2 := match holdOut s1 (resGate pf d lane) t p.n p.hdr with
      | .error h => collide s1 q.id (gateRep s pf d lane 1 p.hdr) h
      | .ok s1 => crossField s1 q pf d lane t
    if last then s2 else forwardGate s2 p pf lane t keep r

/-- An arrive hands the packet to the boundary router behind its lane, over that lane's link (R181, R201). -/
def arriveGate (s : State) (p : Packet) (pf side lane t : Nat) : State :=
  match clusterAt side lane with
  | some c =>
    match holdOut s (resArrive pf side lane) t p.n p.hdr with
    | .error h => collide s p.id (gateRep s pf side lane 1 p.hdr) h
    | .ok s => putPkt s { p with loc := .router (12 * pf + c) (side + 1), t := t, dir := opposite side }
  | none => dropPkt (s.raise (gateRep s pf side lane 2 p.hdr)) p.id

/-- A header stands at a gateway that is bypassed: what its entry sends straight across passes; a turn or an arrive is a
route squall (R174, R182). -/
def bypassedGate (s : State) (p : Packet) (pf side lane : Nat) (straight : Bool) : State :=
  if straight then forwardGate s p pf lane p.t false [opposite side]
  else dropPkt (s.raise (gateRep s pf side lane 2 p.hdr)) p.id

/-- Lookup at a gateway (R180-R183, R200). -/
def gateLookup (s : State) (p : Packet) (pf side lane : Nat) : State :=
  let e := fieldEntry s.jet.gwUni s.jet.gwTree (4 * pf + side) p.hdr
  let act := bits e 30 29
  let sides := (List.range 4).filter fun d => bit e (28 - d)
  let t := p.t + bits e 24 17
  let fwd := act != 1
  let arr := act != 0
  if (!hMc p.hdr && decide (progF s ≤ hField p.hdr)) || !entryOk p.hdr e sides ||
      (lane == 3 && ((fwd && sides.any fun d => d % 2 == 1) || (arr && side % 2 == 1))) then
    dropPkt (s.raise (gateRep s pf side lane 2 p.hdr)) p.id
  else if bypassed s pf then bypassedGate s p pf side lane (!arr && sides == [opposite side])
  else
    let s1 := if fwd then forwardGate s p pf lane t arr sides else s
    if arr then arriveGate s1 p pf side lane t else s1

/-- Sends a packet from station n: 0 clockwise, 1 counter-clockwise, 2 into the field. -/
def stationOut (s : State) (p : Packet) (n dir lane t : Nat) : State :=
  match holdOut s (resStation n dir lane) t p.n p.hdr with
  | .error h => collide s p.id (stationRep s n lane 1 p.hdr) h
  | .ok s =>
    match dir with
    | 0 => putPkt (countCrossing s 1) { p with loc := .station ((n + 1) % 28) 0 lane, t := t + 6 }
    | 1 => putPkt (countCrossing s 1) { p with loc := .station ((n + 27) % 28) 1 lane, t := t + 6 }
    | _ =>
      let (f, d) := stationField n
      if bypassed s f then crossField (countCrossing s 1) p f (opposite d) lane (t + 6)
      else putPkt (countCrossing s 1) { p with loc := .gate f d lane, t := t + 6, dir := opposite d }

def forwardStation (s : State) (p : Packet) (n lane t : Nat) : List Nat → State
  | [] => dropPkt s p.id
  | [d] => stationOut s p n d lane t
  | d :: r => forwardStation (stationOut (addPkt s p) { p with id := s.plane.nextId } n d lane t) p n lane t r

/-- Lookup at a station: an arrive has no router behind it, so it is a route squall; lane 3 cannot enter an E or W side. -/
def stationLookup (s : State) (p : Packet) (n lane : Nat) : State :=
  let e := fieldEntry s.jet.stUni s.jet.stTree n p.hdr
  let dirs := (List.range 3).filter fun d => bit e (28 - d)
  let t := p.t + bits e 24 17
  let intoEW := dirs.contains 2 && (stationField n).2 % 2 == 1 && lane == 3
  if (!hMc p.hdr && decide (progF s ≤ hField p.hdr)) || !entryOk p.hdr e dirs || bits e 30 29 != 0 || intoEW then
    dropPkt (s.raise (stationRep s n lane 2 p.hdr)) p.id
  else forwardStation s p n lane t dirs

/-- GATEWAY_LOOKUP (R180): the header acts at the gateway or station it entered, not before it is there. -/
def execGatewayLookup (id : Nat) (s : State) : Res :=
  match findPkt s id with
  | none => .next s
  | some p =>
    if s.cycle < p.t then .next s
    else
      match p.loc with
      | .gate pf side lane =>
        match tableRead s (placeKey p.hdr 1 (4 * pf + side)) (gateRep s pf side lane 2 p.hdr) with
        | .error s => .next (dropPkt s id)
        | .ok s => .next (gateLookup s p pf side lane)
      | .station n _ lane =>
        match tableRead s (placeKey p.hdr 3 n) (stationRep s n lane 2 p.hdr) with
        | .error s => .next (dropPkt s id)
        | .ok s => .next (stationLookup s p n lane)
      | _ => .next s

/-! ### Reduction (R191-R195) -/

/-- One lane of a sum or max of two FP32 elements (R193). -/
def reduceElem (op : Nat) (x y : BitVec 32) : BitVec 32 :=
  if op = 1 then fpAdd x y else encFp32 (FV.vmax (decFp32 x) (decFp32 y))

/-- Folds the inputs' elements at one position, in port order. -/
def reduceFold (op : Nat) : List (BitVec 32) → BitVec 32
  | [] => 0
  | x :: r => r.foldl (reduceElem op) (if op = 1 then x else encFp32 (FV.vmax (decFp32 x) (decFp32 x)))

/-- One flit of a sum or max: FP32 lanes, or BF16 lanes converted exactly and rounded once at the end (R193). -/
def reduceFlit (op : Nat) (fmt : Bool) (ins : List (BitVec 2048)) : BitVec 2048 :=
  if fmt then
    vecOf16 ((List.range 128).map fun i =>
      encBf16 (decFp32 (reduceFold op (ins.map fun v => encFp32 (decBf16 (lane16 v i))))))
  else vecOf32 ((List.range 64).map fun i => reduceFold op (ins.map fun v => lane32 v i))

/-- -infinity in FP32. -/
def negInf32 : BitVec 32 := 0xFF800000

/-- The scales and the merged (m, l) of two partials (R195). -/
def lseHead (m1 l1 m2 l2 : BitVec 32) : BitVec 32 × BitVec 32 × BitVec 32 × BitVec 32 :=
  if m1 = negInf32 ∧ m2 = negInf32 then (negInf32, 0, 0, 0)
  else
    let m := encFp32 (FV.vmax (decFp32 m1) (decFp32 m2))
    let s1 := if m1 = negInf32 then 0 else fpExp (fpSub m1 m)
    let s2 := if m2 = negInf32 then 0 else fpExp (fpSub m2 m)
    (m, fpAdd (fpMul l1 s1) (fpMul l2 s2), s1, s2)

/-- Element e of row i of an lse-merge payload (R194): flits after the first, row after row. -/
def lseElem (fl : List (BitVec 2048)) (w i e : Nat) : BitVec 32 :=
  let x := i * w + e
  lane32 (fl.getD (1 + x / 64) 0) (x % 64)

/-- Merge of two lse payloads of q rows of w elements (R194, R195). -/
def lseMerge (w q : Nat) (a b : List (BitVec 2048)) : List (BitVec 2048) :=
  let a0 := a.getD 0 0
  let b0 := b.getD 0 0
  let heads := (List.range q).map fun i => lseHead (lane32 a0 (2 * i)) (lane32 a0 (2 * i + 1)) (lane32 b0 (2 * i)) (lane32 b0 (2 * i + 1))
  let both := fun (i : Nat) => lane32 a0 (2 * i) == negInf32 && lane32 b0 (2 * i) == negInf32
  let os := (List.range q).flatMap fun i =>
    let (_, _, s1, s2) := heads.getD i (0, 0, 0, 0)
    (List.range w).map fun e =>
      if both i then 0 else fpAdd (fpMul (lseElem a w i e) s1) (fpMul (lseElem b w i e) s2)
  vecOf32 (heads.flatMap fun (m, l, _, _) => [m, l]) :: (chunks 64 os).map vecOf32

/-- Payload of the combined packet (R193-R195). -/
def combine (h : BitVec 128) (n : Nat) (ins : List (List (BitVec 2048))) : List (BitVec 2048) :=
  if hOp h = 3 then
    let w := 64 * 2 ^ hLw h
    let q := (n - 1) * 64 / w
    match ins with
    | [] => []
    | a :: r => r.foldl (lseMerge w q) a
  else (List.range n).map fun k => reduceFlit (hOp h) (hFmt h) (ins.map fun f => f.getD k 0)

/-- The header fields inputs that combine must share (R192). -/
def sameReduce (a b : BitVec 128) : Bool :=
  hTree a == hTree b && hOp a == hOp b && hFmt a == hFmt b && hLen a == hLen b && hLw a == hLw b &&
  bits a.toNat 47 8 == bits b.toNat 47 8 && hDcc a == hDcc b && hCcore a == hCcore b

/-- A packet waits at a combining router of a tree, with its port. -/
def waitsAt (pcl tree : Nat) (p : Packet) : Option Nat :=
  match p.loc with
  | .router q port => if q = pcl ∧ hOp p.hdr ≠ 0 ∧ hTree p.hdr = tree then some port else none
  | _ => none

/-- The packets that combine: their payloads, flit by flit, become that of one packet with the header of the first
(R191-R193). -/
def combined (s : State) (a : Packet) (ports : List Packet) : Packet × State :=
  let id := s.plane.nextId
  let y : Payload := { id := id, hdr := a.hdr, n := a.n, parts := ports.filterMap (·.pay) }
  let q : Packet := { a with pay := some id, waits := false }
  (q, { s with plane := { s.plane with nextId := id + 1, packets := s.plane.packets ++ [q], pays := s.plane.pays ++ [y] } })

/-- Every packet of a list that comes from L takes the injection port, unless it took it before; a packet that finds it
taken collides (R171, R201). -/
def injectAll (s : State) (pcl : Nat) : List Packet → Except State State
  | [] => .ok s
  | p :: r =>
    match (if p.waits then .ok s else takeInjection s p pcl (match p.loc with | .router _ port => port | _ => 1)) with
    | .error h => .error (collide s p.id (rtrRep s pcl 1 0 p.hdr) h)
    | .ok s1 => injectAll s1 pcl r

/-- The reduce entry of a router acts on the packets of one cycle, by the ports its `in` names. -/
def reduceGroup (s : State) (pcl : Nat) (p0 : Packet) (grp : List Packet) : State :=
  let tree := hTree p0.hdr
  let e := treeEntry s pcl tree
  let ins := portsOf (bits e 24 20)
  let ports := ins.filterMap fun i => grp.find? fun p => waitsAt pcl tree p == some i
  let s0 := grp.foldl (fun s p => dropPkt s p.id) s
  match ports, portsOf (bits e 29 25) with
  | a :: r, [o] =>
    if !bit e 31 || !bit e 30 || ports.length != ins.length || grp.length != ports.length ||
        !r.all (fun p => sameReduce a.hdr p.hdr) then
      s0.raise { rtrRep s pcl 8 ((waitsAt pcl tree a).getD 0) a.hdr with hdr1 := (r.head?.map (·.hdr)).getD 0 }
    else if ins.length < 2 then reduceOut s a pcl o a.t
    else
      let (q, s1) := combined s0 a ports
      reduceOut s1 q pcl o (a.t + 1)
  | a :: _, _ => s0.raise (rtrRep s pcl 8 ((waitsAt pcl tree a).getD 0) a.hdr)
  | [], _ => s0.raise (rtrRep s pcl 8 ((waitsAt pcl tree p0).getD 0) p0.hdr)

/-- REDUCE_COMBINE (R191-R193): the packets of a tree whose headers reached the router in one cycle are combined, or the
mismatch squall is raised; the result leaves 3 cycles after arrival, one later than a forwarded packet. An entry with one
input forwards. -/
def execReduceCombine (pcl tree : Nat) (s : State) : Res :=
  if 576 ≤ pcl then .next s
  else
    let here := s.plane.packets.filter fun p => (waitsAt pcl tree p).isSome && decide (p.t ≤ s.cycle)
    match here with
    | [] => .next s
    | p0 :: _ =>
      let grp := here.filter fun p => p.t == p0.t
      match injectAll s pcl grp with
      | .error s1 => .next s1
      | .ok s1 => .next (reduceGroup s1 pcl p0 grp)

/-! ### Delivery and get replies (R136, R137, R197) -/

/-- Place of a run in the plane's memories: physical cluster, unit, offset. -/
def unitPlace (s : State) (pcl unit off : Nat) : Option Nat :=
  if unit < 28 then (pcoreOf s pcl unit).map fun p => spmAddr (32 * pcl + p) off
  else if unit = 0x20 then some (cmAddr pcl off)
  else (pcoreOf s pcl (off / 0x10000)).map fun p => fifoAddr (32 * pcl + p) (off % 0x10000)

/-- Physical core whose counter a delivery increments. -/
def countCore (s : State) (pcl : Nat) (h : BitVec 128) : Option Nat :=
  (pcoreOf s pcl (if hUnit h < 28 then hUnit h else hCcore h)).map fun p => 32 * pcl + p

/-- Marks the granules of a weight-FIFO run as arrived (R100). -/
def markArrived (s : State) (pcl off n : Nat) : State :=
  match pcoreOf s pcl (off / 0x10000) with
  | none => s
  | some p =>
    s.modCore (32 * pcl + p) fun k =>
      { k with arrived := (List.range (n / 128)).foldl (fun t i => tset false t (off % 0x10000 / 128 + i) true) k.arrived }

/-- A run of a delivery would write into the code region of a core (R92, R197). -/
def deliversCode (s : State) (h : BitVec 128) (off n : Nat) : Bool := decide (hUnit h < 28) && runInCode s off n

/-- PACKET_DELIVERY (R136): once every flit has been written (`deliverFlit`), in the cycle after the last one, the
destination counter rises. -/
def execPacketDelivery (id : Nat) (s : State) : Res :=
  match findPkt s id with
  | none => .next s
  | some p =>
    match p.loc with
    | .deliver pcl =>
      if hKind p.hdr = 1 ∨ s.cycle < p.t + 2 + p.n ∨ p.written < p.n then .next s
      else
        match countCore s pcl p.hdr with
        | some c => .next (incrRun (dropPkt s id) c (hDcc p.hdr) 0 .M)
        | none => .next (dropPkt s id)
    | _ => .next s

/-- Where the flits of a reply are read: a scratchpad through port B, a cluster memory, or the weight FIFO window, which
places each flit by itself (R90, R100, R102). -/
def replyPay (s : State) (id pcl : Nat) (h req : BitVec 128) (issued : Nat) : Payload :=
  let base : Payload := { id := id, hdr := h, n := hLen req + 1, issued := issued }
  if hUnit req = 0x30 then { base with win := some (pcl, hOff req) }
  else
    { base with
      sa := unitPlace s pcl (hUnit req) (hOff req)
      core := if hUnit req < 28 then (pcoreOf s pcl (hUnit req)).map fun p => 32 * pcl + p else none }

/-- GET_REPLY (R137, R176): the remote run becomes a reply: flit k is read at u + 2 + k, and its header enters the remote
router at u + 4. A logical core that the core table does not place answers nothing. -/
def execGetReply (id : Nat) (s : State) : Res :=
  match findPkt s id with
  | none => .next s
  | some p =>
    match p.loc with
    | .deliver pcl =>
      if hKind p.hdr ≠ 1 ∨ s.cycle < p.t then .next s
      else
        let h := hSet (hSet (hSet p.reply 111 110 2) 51 48 (hLen p.hdr)) 79 64 (hSeq p.hdr)
        if (unitPlace s pcl (hUnit p.hdr) (hOff p.hdr)).isNone then .next (dropPkt s id)
        else
          let s1 := putPkt s
            { id := id, hdr := h, n := hLen p.hdr + 1, loc := .router pcl 0, t := p.t + 4, src := p.src, pay := some id }
          .next { s1 with plane := { s1.plane with
            pays := s1.plane.pays ++ [replyPay s id pcl h p.hdr (p.t + 1)]
            packetCnt := satAdd (2 ^ 32 - 1) s1.plane.packetCnt 1 } }
    | _ => .next s

end Sys2Proof.Machine
end

