-- ==== Sys2Proof/Machine/Signatures.lean ====
section
/-! DEFINITION. Ed25519 (RFC 8032) and ML-DSA-65 (FIPS 204, with SHAKE), by which the spec makes keys and signatures
(R224, R451, R453, R457, R461; log 41). -/

namespace Sys2Proof.Machine

open Sys2Proof

/-- b to the power e modulo m, for an exponent of at most n bits. -/
def powMod (m : Nat) : Nat → Nat → Nat → Nat
  | 0, _, _ => 1
  | n + 1, b, e => if e % 2 = 1 then b * powMod m n (b * b % m) (e / 2) % m else powMod m n (b * b % m) (e / 2)

/-! ### Ed25519: the field, points and scalars -/

/-- The field's prime, 2^255 - 19. -/
def edP : Nat := 2 ^ 255 - 19

/-- The order of the base point. -/
def edL : Nat := 2 ^ 252 + 27742317777372353535851937790883648493

/-- The curve's constant, -121665/121666. -/
def edD : Nat := (edP - 121665) * powMod edP 255 121666 (edP - 2) % edP

/-- A difference in the field, of reduced numbers. -/
def edSub (a b : Nat) : Nat := (a + edP - b) % edP

/-- A point in extended coordinates, x = X / Z and y = Y / Z with T = XY / Z. -/
structure EdPoint where
  x : Nat
  y : Nat
  z : Nat
  t : Nat
deriving DecidableEq, Repr

def edZero : EdPoint := { x := 0, y := 1, z := 1, t := 0 }

/-- The sum of two points. -/
def edAdd (p q : EdPoint) : EdPoint :=
  let a := edSub p.y p.x * edSub q.y q.x % edP
  let b := (p.y + p.x) * (q.y + q.x) % edP
  let c := 2 * p.t * q.t * edD % edP
  let d := 2 * p.z * q.z % edP
  let e := edSub b a
  let f := edSub d c
  let g := (d + c) % edP
  let h := (b + a) % edP
  { x := e * f % edP, y := g * h % edP, z := f * g % edP, t := e * h % edP }

/-- k times a point, for k below 2^n. -/
def edMul (q : EdPoint) : Nat → Nat → EdPoint
  | 0, _ => edZero
  | n + 1, k =>
    let r := edMul q n (k / 2)
    if k % 2 = 1 then edAdd (edAdd r r) q else edAdd r r

/-- Two points are the same. -/
def edSame (p q : EdPoint) : Bool := p.x * q.z % edP == q.x * p.z % edP && p.y * q.z % edP == q.y * p.z % edP

/-- The x of the curve over y whose low bit is `sign`; none: no point. -/
def edRoot (y sign : Nat) : Option Nat :=
  let x2 := edSub (y * y % edP) 1 * powMod edP 255 ((edD * (y * y) + 1) % edP) (edP - 2) % edP
  let r := powMod edP 255 x2 ((edP + 3) / 8)
  let x := if r * r % edP = x2 then r else r * powMod edP 255 2 ((edP - 1) / 4) % edP
  if edP ≤ y ∨ x * x % edP ≠ x2 ∨ (x = 0 ∧ sign = 1) then none else some (if x % 2 = sign then x else (edP - x) % edP)

/-- Decodes 32 bytes to a point. -/
def edDecode (d : List Byte) : Option EdPoint :=
  let v := leAt d 0 32
  let y := v % 2 ^ 255
  (edRoot y (v / 2 ^ 255)).map fun x => { x := x, y := y, z := 1, t := x * y % edP }

/-- Encodes a point: y, and the low bit of x as bit 255. -/
def edEncode (p : EdPoint) : List Byte :=
  let zi := powMod edP 255 p.z (edP - 2)
  leBytes 32 (p.y * zi % edP + p.x * zi % edP % 2 * 2 ^ 255)

/-- The base point: y = 4/5 and x even. -/
def edBase : EdPoint :=
  let y := 4 * powMod edP 255 5 (edP - 2) % edP
  let x := (edRoot y 0).getD 0
  { x := x, y := y, z := 1, t := x * y % edP }

/-! ### Ed25519: keys and signatures -/

/-- The secret scalar of a seed: the low half of its hash, pruned. -/
def edScalar (seed : List Byte) : Nat :=
  let a := leAt (sha512 seed) 0 32
  2 ^ 254 + a % 2 ^ 254 / 8 * 8

/-- Public key of a seed (R451). -/
def edPublic (seed : List Byte) : List Byte := edEncode (edMul edBase 256 (edScalar seed))

/-- Signature of a message under a seed (R451, R461). -/
def edSign (seed m : List Byte) : List Byte :=
  let r := leAt (sha512 ((sha512 seed).drop 32 ++ m)) 0 64 % edL
  let rr := edEncode (edMul edBase 256 r)
  let k := leAt (sha512 (rr ++ edPublic seed ++ m)) 0 64 % edL
  rr ++ leBytes 32 ((r + k * edScalar seed) % edL)

/-- Verification: 8SB = 8R + 8kA (R224, R453, R457). -/
def edVerify (key m sig : List Byte) : Bool :=
  match edDecode key, edDecode (sig.take 32) with
  | some a, some r =>
    let s := leAt sig 32 32
    let k := leAt (sha512 (sig.take 32 ++ key ++ m)) 0 64 % edL
    key.length == 32 && sig.length == 64 && decide (s < edL) &&
      edSame (edMul (edMul edBase 256 s) 4 8) (edMul (edAdd r (edMul a 256 k)) 4 8)
  | _, _ => false

/-! ### SHAKE -/

/-- Round constants of Keccak-f[1600]. -/
def keccakRc : List (BitVec 64) :=
  [0x0000000000000001#64, 0x0000000000008082#64, 0x800000000000808A#64, 0x8000000080008000#64] ++
  [0x000000000000808B#64, 0x0000000080000001#64, 0x8000000080008081#64, 0x8000000000008009#64] ++
  [0x000000000000008A#64, 0x0000000000000088#64, 0x0000000080008009#64, 0x000000008000000A#64] ++
  [0x000000008000808B#64, 0x800000000000008B#64, 0x8000000000008089#64, 0x8000000000008003#64] ++
  [0x8000000000008002#64, 0x8000000000000080#64, 0x000000000000800A#64, 0x800000008000000A#64] ++
  [0x8000000080008081#64, 0x8000000000008080#64, 0x0000000080000001#64, 0x8000000080008008#64]

/-- Rotation of lane x + 5y. -/
def keccakRot : List Nat :=
  [0, 1, 62, 28, 27] ++ [36, 44, 6, 55, 20] ++ [3, 10, 43, 25, 39] ++ [41, 45, 15, 21, 8] ++ [18, 2, 61, 56, 14]

/-- One round on 25 lanes, lane x + 5y. -/
def keccakRound (a : List (BitVec 64)) (rc : BitVec 64) : List (BitVec 64) :=
  let c := (List.range 5).map fun x => (List.range 5).foldl (fun v y => v ^^^ a.getD (x + 5 * y) 0) 0
  let d := (List.range 5).map fun x => c.getD ((x + 4) % 5) 0 ^^^ (c.getD ((x + 1) % 5) 0).rotateLeft 1
  let b := (List.range 25).map fun i =>
    let x := i % 5
    let y := i / 5
    let from' := (x + 3 * y) % 5 + 5 * x
    (a.getD from' 0 ^^^ d.getD (from' % 5) 0).rotateLeft (keccakRot.getD from' 0)
  ((List.range 25).map fun i =>
    let row := 5 * (i / 5)
    b.getD i 0 ^^^ (~~~(b.getD (row + (i + 1) % 5) 0) &&& b.getD (row + (i + 2) % 5) 0)).zipIdx.map fun (v, i) =>
      if i = 0 then v ^^^ rc else v

def keccakF (a : List (BitVec 64)) : List (BitVec 64) := keccakRc.foldl keccakRound a

/-- The input of SHAKE in whole blocks of `rate` bytes. -/
def shakePad (rate : Nat) (m : List Byte) : List Byte :=
  let n := rate - 1 - m.length % rate
  if n = 0 then m ++ [0x9F#8] else m ++ 0x1F#8 :: List.replicate (n - 1) 0 ++ [0x80#8]

/-- Absorbs one block. -/
def shakeAbsorb (a : List (BitVec 64)) (blk : List Byte) : List (BitVec 64) :=
  keccakF (a.zipIdx.map fun (v, i) => v ^^^ BitVec.ofNat 64 (leAt blk (8 * i) 8))

/-- n blocks of output. -/
def shakeOut (rate : Nat) : Nat → List (BitVec 64) → List Byte
  | 0, _ => []
  | n + 1, a => (a.flatMap fun v => leBytes 8 v.toNat).take rate ++ shakeOut rate n (keccakF a)

/-- n bytes of SHAKE with a rate: 168 for SHAKE128, 136 for SHAKE256. -/
def shake (rate : Nat) (m : List Byte) (n : Nat) : List Byte :=
  let p := shakePad rate m
  let a := (List.range (p.length / rate)).foldl (fun a i => shakeAbsorb a ((p.drop (rate * i)).take rate)) (List.replicate 25 0)
  (shakeOut rate (cdivN n rate) a).take n

/-- H of FIPS 204: n bytes of SHAKE256. -/
def shake256 (m : List Byte) (n : Nat) : List Byte := shake 136 m n

/-! ### ML-DSA-65: polynomials -/

/-- The modulus q. -/
def mlQ : Nat := 8380417

/-- A polynomial: 256 coefficients modulo q. -/
abbrev MlPoly := List Nat

def mlAdd (a b : MlPoly) : MlPoly := List.zipWith (fun x y => (x + y) % mlQ) a b
def mlSub (a b : MlPoly) : MlPoly := List.zipWith (fun x y => (x + mlQ - y) % mlQ) a b
def mlMul (a b : MlPoly) : MlPoly := List.zipWith (fun x y => x * y % mlQ) a b

/-- The eight bits of m reversed. -/
def bitRev8 (m : Nat) : Nat := ((List.range 8).map fun i => m / 2 ^ i % 2 * 2 ^ (7 - i)).sum

/-- The root of unity of node m of the transform: 1753 to the power of m's bits reversed. -/
def mlZeta (m : Nat) : Nat := powMod mlQ 8 1753 (bitRev8 m)

/-- The number-theoretic transform of 2^n coefficients from node m on. -/
def mlNtt : Nat → Nat → MlPoly → MlPoly
  | 0, _, a => a
  | n + 1, m, a =>
    let z := mlZeta m
    let lo := a.take (2 ^ n)
    let t := (a.drop (2 ^ n)).map fun x => z * x % mlQ
    mlNtt n (2 * m) (mlAdd lo t) ++ mlNtt n (2 * m + 1) (mlSub lo t)

/-- Its inverse, without the factor 2^-n. -/
def mlIntt : Nat → Nat → MlPoly → MlPoly
  | 0, _, a => a
  | n + 1, m, a =>
    let z := powMod mlQ 23 (mlZeta m) (mlQ - 2)
    let lo := mlIntt n (2 * m) (a.take (2 ^ n))
    let hi := mlIntt n (2 * m + 1) (a.drop (2 ^ n))
    mlAdd lo hi ++ (mlSub lo hi).map fun x => z * x % mlQ

def mlFwd (a : MlPoly) : MlPoly := mlNtt 8 1 a

/-- The inverse transform: 8347681 is 256^-1. -/
def mlInv (a : MlPoly) : MlPoly := (mlIntt 8 1 a).map fun x => x * 8347681 % mlQ

/-- A row of a matrix times a vector, both transformed. -/
def mlDot (a b : List MlPoly) : MlPoly := (List.zipWith mlMul a b).foldl mlAdd (List.replicate 256 0)

/-- A coefficient as a number of least magnitude. -/
def mlCenter (x : Nat) : Int := if mlQ / 2 < x then (x : Int) - mlQ else x

/-- An integer modulo q. -/
def mlOf (x : Int) : Nat := (x % mlQ).toNat

/-- Every coefficient is below n in magnitude. -/
def mlBelow (n : Nat) (a : MlPoly) : Bool := a.all fun x => decide ((mlCenter x).natAbs < n)

/-- n bits of each number, packed little-endian. -/
def mlPack (n : Nat) (l : List Nat) : List Byte := leBytes (n * l.length / 8) (l.foldr (fun x v => x % 2 ^ n + 2 ^ n * v) 0)

/-- The k numbers of n bits of a packed run. -/
def mlUnpack (n k : Nat) (d : List Byte) : List Nat := (List.range k).map fun i => ofLe (d.drop (n * i / 8) |>.take (n / 8 + 2)) / 2 ^ (n * i % 8) % 2 ^ n

/-! ### ML-DSA-65: sampling -/

/-- Three bytes of SHAKE128 at a time give a coefficient below q. -/
def mlRejNtt (seed : List Byte) : MlPoly :=
  let d := shake 168 seed 894
  let l := ((List.range 298).map fun i => leAt d (3 * i) 3 % 2 ^ 23).filter fun x => decide (x < mlQ)
  (l ++ List.replicate 256 0).take 256

/-- Half-bytes of SHAKE256 below 9 give coefficients of 4 to -4. -/
def mlRejBounded (seed : List Byte) : MlPoly :=
  let d := shake256 seed 481
  let l := (d.flatMap fun b => [b.toNat % 16, b.toNat / 16]).filter fun x => decide (x < 9)
  ((l ++ List.replicate 256 4).take 256).map fun x => mlOf (4 - (x : Int))

/-- The matrix: 6 rows of 5, transformed. -/
def mlMatrix (rho : List Byte) : List (List MlPoly) :=
  (List.range 6).map fun r => (List.range 5).map fun s => mlRejNtt (rho ++ leBytes 1 s ++ leBytes 1 r)

/-- The mask vector of a signing attempt: 20-bit numbers from 2^19 downwards. -/
def mlMask (seed : List Byte) (kappa : Nat) : List MlPoly :=
  (List.range 5).map fun r =>
    (mlUnpack 20 256 (shake256 (seed ++ leBytes 2 (kappa + r)) 640)).map fun x => mlOf (2 ^ 19 - (x : Int))

/-- Places the signs of positions i to 255 of a challenge, from the bytes that follow. -/
def mlBall (signs : Nat) : Nat → List Byte → MlPoly → MlPoly
  | _, [], c => c
  | i, b :: r, c =>
    if 256 ≤ i then c
    else if i < b.toNat then mlBall signs i r c
    else
      let s := if bit signs (i + 49 - 256) then mlQ - 1 else 1
      mlBall signs (i + 1) r ((c.set i (c.getD b.toNat 0)).set b.toNat s)

/-- The challenge polynomial, of 49 coefficients 1 or -1. -/
def mlChallenge (ct : List Byte) : MlPoly :=
  let d := shake256 ct 121
  mlBall (leAt d 0 8) 207 (d.drop 8) (List.replicate 256 0)

/-! ### ML-DSA-65: rounding -/

/-- Low and high part by 2^13. -/
def mlPower2 (x : Nat) : Nat × Nat :=
  let r0 : Int := if 4096 < x % 8192 then (x % 8192 : Int) - 8192 else x % 8192
  ((((x : Int) - r0) / 8192).toNat, mlOf r0)

/-- High and low part by 2 gamma2 = 523,776. -/
def mlDecompose (x : Nat) : Nat × Int :=
  let r0 : Int := if 261888 < x % 523776 then (x % 523776 : Int) - 523776 else x % 523776
  if (x : Int) - r0 = mlQ - 1 then (0, r0 - 1) else ((((x : Int) - r0) / 523776).toNat, r0)

def mlHigh (a : MlPoly) : List Nat := a.map fun x => (mlDecompose x).1

/-- Low parts are below n in magnitude. -/
def mlLowBelow (n : Nat) (a : MlPoly) : Bool := a.all fun x => decide ((mlDecompose x).2.natAbs < n)

/-- High part of a coefficient under its hint. -/
def mlUseHint (h : Bool) (x : Nat) : Nat :=
  let (r1, r0) := mlDecompose x
  if !h then r1 else if 0 < r0 then (r1 + 1) % 16 else (r1 + 15) % 16

/-- The hint of a vector: positions of the coefficients it marks. -/
def mlHintPack (h : List (List Bool)) : List Byte :=
  let pos := h.map fun p => (p.zipIdx.filter (·.1)).map (·.2)
  let all := pos.flatten
  (all ++ List.replicate (55 - all.length) 0).flatMap (leBytes 1) ++
    (List.range 6).flatMap fun i => leBytes 1 (((pos.take (i + 1)).map List.length).sum)

/-- Rising numbers. -/
def rising : List Nat → Bool
  | [] => true
  | [_] => true
  | x :: y :: r => decide (x < y) && rising (y :: r)

/-- The hint of 61 bytes; none: malformed. -/
def mlHintUnpack (d : List Byte) : Option (List (List Bool)) :=
  let ends := 0 :: (List.range 6).map fun i => (byteAt d (55 + i)).toNat
  let runs := (List.range 6).map fun i => ((d.take 55).drop (ends.getD i 0)).take (ends.getD (i + 1) 0 - ends.getD i 0) |>.map (·.toNat)
  if (List.range 6).all (fun i => decide (ends.getD i 0 ≤ ends.getD (i + 1) 0 ∧ ends.getD (i + 1) 0 ≤ 55)) &&
      runs.all rising && ((d.take 55).drop (ends.getD 6 0)).all (· == 0) then
    some (runs.map fun p => (List.range 256).map p.contains)
  else none

/-! ### ML-DSA-65: keys and signatures -/

/-- What a seed gives: matrix seed, secret vectors, their image t in two parts, the signing key, the public key. -/
structure MlKey where
  rho : List Byte
  s1 : List MlPoly
  s2 : List MlPoly
  t0 : List MlPoly
  k : List Byte
  pub : List Byte
deriving DecidableEq, Repr

/-- The matrix times a vector given transformed. -/
def mlApply (a : List (List MlPoly)) (v : List MlPoly) : List MlPoly := a.map fun row => mlInv (mlDot row v)

/-- Key generation from the seed xi (R451). -/
def mlKeyGen (seed : List Byte) : MlKey :=
  let d := shake256 (seed ++ [6#8, 5#8]) 128
  let rho := d.take 32
  let rho' := (d.drop 32).take 64
  let s1 := (List.range 5).map fun r => mlRejBounded (rho' ++ leBytes 2 r)
  let s2 := (List.range 6).map fun r => mlRejBounded (rho' ++ leBytes 2 (r + 5))
  let t := List.zipWith mlAdd (mlApply (mlMatrix rho) (s1.map mlFwd)) s2
  { rho := rho, s1 := s1, s2 := s2, t0 := t.map fun p => p.map fun x => (mlPower2 x).2, k := d.drop 96
    pub := rho ++ t.flatMap fun p => mlPack 10 (p.map fun x => (mlPower2 x).1) }

/-- Public key of a seed (R451). -/
def mlPublic (seed : List Byte) : List Byte := (mlKeyGen seed).pub

/-- The hash of a key and a message with a context string. -/
def mlMu (pub ctx m : List Byte) : List Byte := shake256 (shake256 pub 64 ++ [0#8] ++ leBytes 1 ctx.length ++ ctx ++ m) 64

/-- The commitment hash. -/
def mlCommit (mu : List Byte) (w1 : List (List Nat)) : List Byte := shake256 (mu ++ w1.flatMap (mlPack 4)) 48

/-- Attempts at a signature, with kappa rising by 5; after 814 of them none is made (FIPS 204, appendix C). -/
def mlTries (key : MlKey) (a : List (List MlPoly)) (mu rho : List Byte) : Nat → Nat → List Byte
  | 0, _ => []
  | n + 1, kappa =>
    let y := mlMask rho kappa
    let w := mlApply a (y.map mlFwd)
    let ct := mlCommit mu (w.map mlHigh)
    let c := mlFwd (mlChallenge ct)
    let times (v : List MlPoly) : List MlPoly := v.map fun p => mlInv (mlMul c (mlFwd p))
    let z := List.zipWith mlAdd y (times key.s1)
    let r := List.zipWith mlSub w (times key.s2)
    let t := times key.t0
    let h := List.zipWith (fun r t => List.zipWith (fun x y => decide ((mlDecompose x).1 ≠ (mlDecompose ((x + y) % mlQ)).1)) r t) r t
    if z.all (mlBelow (2 ^ 19 - 196)) && r.all (mlLowBelow (261888 - 196)) && t.all (mlBelow 261888) &&
        decide (((h.map fun p => p.count true)).sum ≤ 55) then
      ct ++ (z.flatMap fun p => mlPack 20 (p.map fun x => (2 ^ 19 - mlCenter x).toNat)) ++ mlHintPack h
    else mlTries key a mu rho n (kappa + 5)

/-- Signature of a message with a context string under a seed; rnd: the 32 random bytes that FIPS 204 mixes in
(R451, R461). -/
def mlSign (seed ctx m rnd : List Byte) : List Byte :=
  let key := mlKeyGen seed
  let mu := mlMu key.pub ctx m
  mlTries key (mlMatrix key.rho) mu (shake256 (key.k ++ rnd ++ mu) 64) 814 0

/-- Verification of a signature over a message with a context string (R224, R453, R457). -/
def mlVerify (pub ctx m sig : List Byte) : Bool :=
  let ct := sig.take 48
  let z := (List.range 5).map fun i =>
    (mlUnpack 20 256 ((sig.drop (48 + 640 * i)).take 640)).map fun x => mlOf (2 ^ 19 - (x : Int))
  match mlHintUnpack (sig.drop 3248) with
  | none => false
  | some h =>
    let c := mlFwd (mlChallenge ct)
    let t := (List.range 6).map fun i =>
      mlFwd ((mlUnpack 10 256 ((pub.drop (32 + 320 * i)).take 320)).map fun x => x * 8192 % mlQ)
    let zh := z.map mlFwd
    let w := List.zipWith (fun row t => mlInv (mlSub (mlDot row zh) (mlMul c t))) (mlMatrix (pub.take 32)) t
    let w1 := List.zipWith (fun h p => List.zipWith mlUseHint h p) h w
    pub.length == 1952 && sig.length == 3309 && z.all (mlBelow (2 ^ 19 - 196)) && ct == mlCommit (mlMu pub ctx m) w1

end Sys2Proof.Machine
end

