-- ==== Sys2Proof/Machine/Manifest.lean ====
section
/-! DEFINITION. The installation manifest and the transport forms (R257-R263): parsing, checks, digest, and the installed
bytes of a slice. -/

namespace Sys2Proof.Machine

open Sys2Proof

/-! ### Signatures (R224, R257) -/

/-- The signed digest of an image or a manifest: SHA-512 of all but its last 4,096 bytes. -/
def bodyDigest (m : List Byte) : List Byte := sha512 (m.take (m.length - 4096))

/-- Ed25519 signature of the signature block verifies against the enrolled key. -/
def edOk (s : State) (m : List Byte) : Bool :=
  match s.sec.edKey with
  | none => false
  | some k => edVerify k (bodyDigest m) ((m.drop (m.length - 4096)).take 64)

/-- ML-DSA-65 signature of the signature block verifies against the enrolled key. -/
def mlOk (s : State) (m : List Byte) : Bool :=
  s.sec.edKey.isSome && mlVerify s.sec.mlKey [] (bodyDigest m) ((m.drop (m.length - 4096 + 64)).take 3309)

/-- An object or a command has been rejected by a signature (SEC_FAIL). -/
def sigFail (s : State) : State := { s with sec := { s.sec with sigfail := satAdd 65535 s.sec.sigfail 1 } }

/-! ### Parsing (R258) -/

/-- Bytes lo to hi - 1 of a run are 0. -/
def zeroRun (m : List Byte) (lo hi : Nat) : Bool := ((m.drop lo).take (hi - lo)).all (· == 0)

/-- A shard entry of 128 bytes. -/
def parseShard (e : List Byte) : WShard :=
  { field := leAt e 0 1, wafer := leAt e 1 1, form := leAt e 2 1, priv := bit (leAt e 3 1) 0, primary := leAt e 4 2,
    alternate := leAt e 6 2, off := leAt e 8 8, length := leAt e 16 8, slice0 := leAt e 24 4, nsl := leAt e 28 4,
    digest := (e.drop 64).take 64 }

/-- A slice entry of 128 bytes. -/
def parseSlice (e : List Byte) : WSlice :=
  { cluster := leAt e 0 1, wf := leAt e 1 1, rank := leAt e 2 1, sfmt := leAt e 3 1, ks := leAt e 4 4, ns := leAt e 8 4,
    page := leAt e 12 4, npages := leAt e 16 4, soff := leAt e 20 8, slen := leAt e 28 8, digest := (e.drop 64).take 64 }

/-- n entries of w bytes from offset o. -/
def entries (m : List Byte) (o w n : Nat) : List (List Byte) := (List.range n).map fun i => (m.drop (o + w * i)).take w

/-- Offsets and counts of the three tables. -/
def manSrc (m : List Byte) : Nat × Nat := (leAt m 56 8, leAt m 48 2)
def manShard (m : List Byte) : Nat × Nat := (leAt m 64 8, leAt m 50 2)
def manSlice (m : List Byte) : Nat × Nat := (leAt m 72 8, leAt m 52 4)

/-- Replaces bytes lo to hi - 1 by zeros. -/
def blank (l : List Byte) (lo hi : Nat) : List Byte := l.take lo ++ List.replicate (hi - lo) 0 ++ l.drop hi

/-- Installation digest (R258): header, shard table, slice table, source-locating fields set to zero. -/
def instDigest (m : List Byte) : List Byte :=
  let h := blank (blank (blank (m.take 512) 8 16) 48 50) 56 80
  let sh := (entries m (manShard m).1 128 (manShard m).2).flatMap fun e => blank e 4 16
  let sl := (m.drop (manSlice m).1).take (128 * (manSlice m).2)
  sha512 (h ++ sh ++ sl)

def parseManifest (m : List Byte) : Manifest :=
  { fFields := leAt m 6 1, wafers := leAt m 7 1, modelId := (m.drop 16).take 16,
    pages := (List.range 4).map fun w => leAt m (32 + 4 * w) 4,
    sources := entries m (manSrc m).1 32 (manSrc m).2,
    shards := (entries m (manShard m).1 128 (manShard m).2).map parseShard,
    slices := (entries m (manSlice m).1 128 (manSlice m).2).map parseSlice,
    instDig := instDigest m }

/-! ### Format checks (R257, R258) -/

def tableOk (m : List Byte) (o n w : Nat) : Bool := decide (o % 4096 = 0 ∧ 512 ≤ o ∧ o + w * n + 4096 ≤ m.length)

def sourceOk (e : List Byte) : Bool :=
  decide (leAt e 0 1 ≤ 1) && zeroRun e 2 4 && zeroRun e 7 8 && zeroRun e 20 32 &&
  (if leAt e 0 1 = 0 then zeroRun e 1 8 && zeroRun e 16 20 else decide (leAt e 1 1 < 12))

def shardFmtOk (m : List Byte) (e : List Byte) : Bool :=
  let x := parseShard e
  decide (x.field < leAt m 6 1 ∧ x.wafer < leAt m 7 1 ∧ x.form ≤ 2 ∧ leAt e 3 1 ≤ 1 ∧ x.primary < (manSrc m).2) &&
  (x.alternate == 65535 || decide (x.alternate < (manSrc m).2)) && zeroRun e 32 64 &&
  decide (x.slice0 + x.nsl ≤ (manSlice m).2)

/-- Every byte the manifest does not assign is 0. -/
def gapsZero (m : List Byte) : Bool :=
  let (so, sn) := manSrc m
  let (ho, hn) := manShard m
  let (lo, ln) := manSlice m
  m.zipIdx.all fun (b, i) =>
    b == 0 || decide (i < 80 ∨ (so ≤ i ∧ i < so + 32 * sn) ∨ (ho ≤ i ∧ i < ho + 128 * hn) ∨
      (lo ≤ i ∧ i < lo + 128 * ln) ∨ (m.length - 4096 ≤ i ∧ i < m.length - 4096 + 3373))

/-- Result 02h when false: the manifest's format. -/
def manFormatOk (m : List Byte) : Bool :=
  let man := parseManifest m
  decide (4608 ≤ m.length ∧ m.length % 4096 = 0 ∧ m.length ≤ 2 ^ 30 ∧ leAt m 0 4 = 0x4D584C49 ∧ leAt m 4 2 = 1) &&
  decide (leAt m 8 8 = m.length ∧ 1 ≤ man.fFields ∧ man.fFields ≤ 46 ∧ 1 ≤ man.wafers ∧ man.wafers ≤ 4) &&
  decide (1 ≤ (manSrc m).2 ∧ (manSrc m).2 ≤ 64 ∧ (manShard m).2 = man.fFields * man.wafers) &&
  tableOk m (manSrc m).1 (manSrc m).2 32 && tableOk m (manShard m).1 (manShard m).2 128 &&
  tableOk m (manSlice m).1 (manSlice m).2 128 && gapsZero m &&
  ((List.range 4).all fun w => decide (w < man.wafers) || man.pages.getD w 0 == 0) &&
  man.sources.all sourceOk && (entries m (manShard m).1 128 (manShard m).2).all (shardFmtOk m) &&
  ((entries m (manSlice m).1 128 (manSlice m).2).all fun e => decide (leAt e 0 1 < 12) && zeroRun e 36 64)

/-! ### Standard record order (R61, R262) -/

/-- Rank of a slice entry's rank code. -/
def sliceRank (code : Nat) : Nat := if code = 0 then 0 else 8 * 2 ^ (code - 1)

/-- Outputs of a tile, block length and tiles per scale record of wf 3h, 4h, 6h, 7h (R35, R61). -/
def wfNt (wf : Nat) : Nat := if wf = 6 then 32 else if wf = 7 then 64 else 16
def wfBlock (wf : Nat) : Nat := if wf = 7 then 64 else 32
def padTo (x m : Nat) : Nat := cdivN x m * m

/-- A quantised output row: element codes and block scales. -/
abbrev QRow := List Nat × List Nat

def rowCode (rows : List QRow) (o i : Nat) : Nat := ((rows.getD o ([], [])).1).getD i 0
def rowScale (rows : List QRow) (o b : Nat) : Nat := ((rows.getD o ([], [])).2).getD b 0

/-- Tile record of outputs o0 on and input tile j (R62). -/
def tileRec (wf : Nat) (rows : List QRow) (o0 j : Nat) : List Byte :=
  let per := wfNt wf / 16
  (List.range 256).map fun b =>
    BitVec.ofNat 8 (packNat (8 / per) ((List.range per).map fun q => rowCode rows (o0 + per * (b % 16) + q) (16 * j + b / 16)))

/-- Scale record of outputs o0 on and block b (R63). -/
def scaleRec (wf : Nat) (rows : List QRow) (o0 b : Nat) : List Byte :=
  let sz := if wf = 7 then 2 else 1
  let d := (List.range (wfNt wf)).flatMap fun n => leBytes sz (rowScale rows (o0 + n) b)
  d ++ List.replicate (128 - d.length) 0

/-- The tile and scale records of a slice (R262 steps 3, 4). -/
def recordRun (wf kp np : Nat) (rows : List QRow) : List Byte :=
  let nt := wfNt wf
  let per := wfBlock wf / 16
  (List.range (cdivN np (4 * nt))).flatMap fun g =>
    let arrays := min 4 (cdivN (np - 4 * nt * g) nt)
    (List.range (kp / 16)).flatMap fun j =>
      (List.range arrays).flatMap fun a =>
        let o0 := 4 * nt * g + nt * a
        tileRec wf rows o0 j ++ (if j % per = 0 then scaleRec wf rows o0 (j / per) else [])

/-- Pads a run with zeros to n bytes. -/
def padZ (l : List Byte) (n : Nat) : List Byte := l ++ List.replicate (n - l.length) 0

/-- Bytes of a slice's tile records. -/
def recordBytes (wf kp np : Nat) : Nat :=
  let recs := kp / 16 * (np / wfNt wf)
  256 * recs + 128 * (kp / wfBlock wf * (np / wfNt wf))

/-- Bytes of a laid-out slice up to the end of U (R262 steps 4, 5). -/
def laidBytes (x : WSlice) : Nat :=
  let kp := padTo x.ks (wfBlock x.wf)
  let np := padTo x.ns (wfNt x.wf)
  let r := sliceRank x.rank
  let base := recordBytes x.wf kp np
  if r = 0 then base else padTo (padTo base 128 + r * kp + 2 * r) 128 + np * r + 2 * np

/-- The factor pair at source lengths, padded to K' and N' and laid from the next granule on (R154, R262). -/
def factorRun (x : WSlice) (d : List Byte) : List Byte :=
  let r := sliceRank x.rank
  let kp := padTo x.ks (wfBlock x.wf)
  let np := padTo x.ns (wfNt x.wf)
  if r = 0 then []
  else
    let v := (List.range r).flatMap fun j => padZ ((d.drop (j * x.ks)).take x.ks) kp
    let vs := (d.drop (r * x.ks)).take (2 * r)
    let ud := d.drop (r * x.ks + 2 * r)
    let u := padZ (ud.take (x.ns * r)) (np * r)
    let us := padZ ((ud.drop (x.ns * r)).take (2 * x.ns)) (2 * np)
    let vt := v ++ vs
    padZ vt (padTo vt.length 128) ++ u ++ us

/-- Bytes of the factor pair at source lengths (R154). -/
def factorBytes (x : WSlice) : Nat :=
  let r := sliceRank x.rank
  if r = 0 then 0 else r * x.ks + 2 * r + x.ns * r + 2 * x.ns

/-- The installed pages of a slice from its quantised rows and its factor bytes. -/
def layOut (x : WSlice) (rows : List QRow) (fac : List Byte) : List Byte :=
  let kp := padTo x.ks (wfBlock x.wf)
  let np := padTo x.ns (wfNt x.wf)
  let recs := recordRun x.wf kp np rows
  padZ (padZ recs (padTo recs.length 128) ++ factorRun x fac) (4096 * x.npages)

/-! ### Bulk form (R260) -/

/-- Bytes of a source element: BF16 2, FP8 1. -/
def sfmtBytes (sf : Nat) : Nat := if sf = 0 then 2 else 1

def sfmtDec (sf : Nat) (d : List Byte) (i : Nat) : FV :=
  if sf = 0 then decBf16 (BitVec.ofNat 16 (leAt d (2 * i) 2))
  else if sf = 1 then decE4m3 (leAt d i 1) else decE5m2 (leAt d i 1)

def wfBFmt (wf : Nat) : BFmt := if wf = 3 then .mx8 false else if wf = 4 then .mx8 true else if wf = 6 then .mx4 else .t2

/-- Quantises one output row by blocks (R39), its end padded with zeros. -/
def quantRow (x : WSlice) (d : List Byte) : QRow :=
  let b := wfBlock x.wf
  let vs := (List.range (padTo x.ks b)).map fun i => if i < x.ks then sfmtDec x.sfmt d i else .num false 0 0
  let qs := (chunks b vs).map (quantise (wfBFmt x.wf))
  (qs.flatMap (·.2), qs.map (·.1))

/-- Length of a bulk slice's bytes. -/
def bulkLen (x : WSlice) : Nat := x.ns * x.ks * sfmtBytes x.sfmt + factorBytes x

/-- Installed pages of a bulk slice. -/
def layBulk (x : WSlice) (d : List Byte) : Option (List Byte) :=
  let rb := x.ks * sfmtBytes x.sfmt
  some (layOut x ((List.range x.ns).map fun o => quantRow x ((d.drop (rb * o)).take rb)) (d.drop (x.ns * rb)))

/-! ### Packed form (R263) -/

/-- Code lengths of the 16 FP4 codes. -/
def packLens (d : List Byte) : List Nat := (List.range 16).map fun v => (byteAt d (v / 2)).toNat / 16 ^ (v % 2) % 16

/-- Codewords of one length, from the first free codeword: (length, codeword, code). -/
def codesOfLen (lens : List Nat) (n first : Nat) : List (Nat × Nat × Nat) :=
  (((List.range 16).filter fun v => lens.getD v 0 == n).zipIdx).map fun (v, i) => (n, first + i, v)

/-- The canonical code, by ascending length; `left` lengths remain. -/
def canonFrom (lens : List Nat) : Nat → Nat → Nat → List (Nat × Nat × Nat)
  | 0, _, _ => []
  | left + 1, n, first =>
    let l := codesOfLen lens n first
    l ++ canonFrom lens left (n + 1) (2 * (first + l.length))

def canonCode (lens : List Nat) : List (Nat × Nat × Nat) := canonFrom lens 15 1 0

/-- Decodes codewords from a bit stream until n codes are had; answers them and the bits used. -/
def unpackBits (tab : List (Nat × Nat × Nat)) : List Bool → Nat → Nat → Nat → Nat → List Nat × Nat
  | _, 0, _, _, used => ([], used)
  | [], _ + 1, _, _, used => ([], used)
  | b :: r, n + 1, len, cur, used =>
    let cur := 2 * cur + b2n b
    let len := len + 1
    match tab.find? fun e => e.1 == len && e.2.1 == cur with
    | some (_, _, v) =>
      let (l, u) := unpackBits tab r n 0 0 (used + 1)
      (v :: l, u)
    | none => unpackBits tab r (n + 1) len cur (used + 1)

/-- Bits of a byte run, bit 0 of the first byte first. -/
def bitsOf (d : List Byte) : List Bool := d.flatMap fun b => (List.range 8).map fun i => b.getLsbD i

/-- Installed pages of a packed slice; none on a slice fault. -/
def layPacked (x : WSlice) (d : List Byte) : Option (List Byte) :=
  let lens := packLens d
  let nsc := x.ns * x.ks / 32
  let full := ((lens.filter (· != 0)).map fun n => 2 ^ (15 - n)).sum
  let strm := d.drop (16 + nsc)
  let (codes, used) := unpackBits (canonCode lens) (bitsOf strm) (x.ns * x.ks) 0 0 0
  let sb := cdivN used 64 * 8
  if full ≠ 2 ^ 15 ∨ !zeroRun d 8 16 ∨ x.ks % 32 ≠ 0 ∨ codes.length ≠ x.ns * x.ks ∨
      ((bitsOf (strm.take sb)).drop used).any id ∨ d.length ≠ 16 + nsc + sb + factorBytes x then none
  else
    let rows := (List.range x.ns).map fun o =>
      ((codes.drop (o * x.ks)).take x.ks, (List.range (x.ks / 32)).map fun b => (byteAt d (16 + o * (x.ks / 32) + b)).toNat)
    some (layOut x rows (strm.drop sb))

/-- Installed pages of a slice by its shard's form (R260); none on a slice fault. -/
def layForm (form : Nat) (x : WSlice) (d : List Byte) : Option (List Byte) :=
  if form = 2 then some d else if form = 1 then layPacked x d else layBulk x d

/-! ### Layout checks (R259-R261) -/

/-- The slices of a shard, with their indexes. -/
def shardSlices (m : Manifest) (h : WShard) : List (Nat × WSlice) :=
  (List.range h.nsl).map fun i => (h.slice0 + i, m.slices.getD (h.slice0 + i) {})

/-- The slice bytes of a shard are laid end to end (R259). -/
def contiguous : Nat → List (Nat × WSlice) → Option Nat
  | o, [] => some o
  | o, (_, x) :: r => if x.soff = o then contiguous (o + x.slen) r else none

/-- Checks of one slice by form (R260). -/
def sliceOk (m : Manifest) (h : WShard) (x : WSlice) : Bool :=
  decide (x.page + x.npages ≤ m.pages.getD h.wafer 0) &&
  (if h.form = 2 then decide (x.wf ≤ 7 ∧ x.slen = 4096 * x.npages ∧ x.sfmt = 0)
   else
    (if h.form = 1 then x.wf == 6 && x.sfmt == 0
     else (x.wf == 3 || x.wf == 4 || x.wf == 6 || x.wf == 7) && decide (x.sfmt ≤ 2) && x.slen == bulkLen x) &&
    decide (x.rank ≤ 4 ∧ x.ks ≤ 32768 ∧ x.npages = cdivN (laidBytes x) 4096))

/-- Two page runs do not meet. -/
def apart (x y : WSlice) : Bool := decide (x.page + x.npages ≤ y.page ∨ y.page + y.npages ≤ x.page) || x.cluster != y.cluster

/-- Pairwise on a list. -/
def allPairs (p : WSlice → WSlice → Bool) : List WSlice → Bool
  | [] => true
  | x :: r => r.all (p x) && allPairs p r

def shardOk (m : Manifest) (h : WShard) : Bool :=
  let l := shardSlices m h
  contiguous 0 l == some h.length && l.all (fun e => sliceOk m h e.2) && allPairs apart (l.map (·.2))

/-- Exactly one shard for each pair of field and wafer (R259). -/
def pairsOk (m : Manifest) : Bool :=
  (List.range m.fFields).all fun f => (List.range m.wafers).all fun w =>
    (m.shards.filter fun h => h.field == f && h.wafer == w).length == 1

/-- Result of verifying a manifest (R266): 0, or 02h format, 01h signature, 07h grade, 03h privilege. -/
def manResult (s : State) (b : List Byte) : Nat :=
  let m := parseManifest b
  if !manFormatOk b then 2
  else if !edOk s b || !mlOk s b then 1
  else if gradeWt s < m.wafers then 7
  else if m.shards.any fun h => h.form == 2 && !h.priv then 3
  else if !pairsOk m || !m.shards.all (shardOk m) then 2
  else 0

end Sys2Proof.Machine
end

