-- ==== Sys2Proof/Machine/Weight.lean ====
section
/-! DEFINITION. The weight store: pages and ports, scrub and wear, installation sessions, damage, re-provisioning and
field substitution (chapter 09, R128). -/

namespace Sys2Proof.Machine

open Sys2Proof

/-! ### Pages (R244, R245) -/

def addrPages : Nat := 8388608
def sparePages : Nat := 131072

/-- Number of a page of a physical cluster and wafer; spare page i is `addrPages + i`. -/
def pageKey (pcl wafer page : Nat) : Nat := (4 * pcl + wafer) * 2 ^ 24 + page

/-- Page that stands for an addressable page (R245). -/
def pagePlace (s : State) (pcl wafer page : Nat) : Nat :=
  let k := pageKey pcl wafer page
  (tget none s.wst.remap k).getD k

def pageRead (s : State) (place : Nat) : List Byte := mread s.wst.mem (4096 * place) 4096

def pageWrite (s : State) (place : Nat) (d : List Byte) : State :=
  { s with wst := { s.wst with mem := mwrite s.wst.mem (4096 * place) (d.take 4096) } }

/-- Slot, and its page relative to b_w, that hold a page of a logical cluster (R254). -/
def slotOfPage (s : State) (lcl wafer page : Nat) : Option (Nat × Nat) :=
  (List.range 4).findSome? fun n =>
    let x := tget {} s.wst.slots n
    let b := x.base.getD wafer 0
    if x.st ≠ 0 ∧ lcl < 12 * x.man.fFields ∧ wafer < x.man.wafers ∧ b ≤ page ∧ page < b + x.man.pages.getD wafer 0 then
      some (n, page - b)
    else none

/-- Shard and slice of a manifest that hold a relative page. -/
def sliceOfPage (m : Manifest) (lcl wafer rel : Nat) : Option (Nat × Nat) :=
  m.shards.zipIdx.findSome? fun (h, i) =>
    if h.field = lcl / 12 ∧ h.wafer = wafer then
      (shardSlices m h).findSome? fun (j, x) =>
        if x.cluster = lcl % 12 ∧ x.page ≤ rel ∧ rel < x.page + x.npages then some (i, j) else none
    else none

def State.wslot (s : State) (n : Nat) : WSlot := tget {} s.wst.slots n

def State.setWslot (s : State) (n : Nat) (x : WSlot) : State :=
  { s with wst := { s.wst with slots := tset {} s.wst.slots n x } }

/-- Lists a slice missing, unless it is listed already (R492). -/
def listMissing (s : State) (n reason shard slice : Nat) : State :=
  let x := s.wslot n
  if x.missing.any fun e => e.slice == slice then s
  else s.setWslot n { x with missing := x.missing ++ [{ reason := reason, shard := shard, slice := slice }] }

/-- A page found uncorrectable: its slice is listed and a complete slot becomes damaged (R272, R276). -/
def listDamage (s : State) (lcl wafer page reason : Nat) : State :=
  match slotOfPage s lcl wafer page with
  | none => s
  | some (n, rel) =>
    match sliceOfPage (s.wslot n).man lcl wafer rel with
    | none => s
    | some (sh, sl) =>
      let s1 := listMissing s n reason sh sl
      let x := s1.wslot n
      s1.setWslot n (if x.st = 3 then { x with st := 5 } else x)

/-! ### Spare pages and wear (R251-R253) -/

/-- First spare page from n on that does not lie in a retired erase block. -/
def liveSpare (s : State) (t : Nat) : Nat → Nat → Nat
  | 0, n => n
  | f + 1, n =>
    if tget 0 s.wst.wear ((t * 2 ^ 24 + addrPages + n) / 256) < 10000 then n else liveSpare s t f ((n / 256 + 1) * 256)

/-- Takes the next spare page of a physical cluster and wafer; none left is a cluster-level failure. -/
def takeSpare (s : State) (pcl wafer : Nat) : Option Nat × State :=
  let t := 4 * pcl + wafer
  let n := liveSpare s t 512 (tget 0 s.wst.spareUsed t)
  if sparePages ≤ n then (none, fenceCluster s pcl)
  else (some (pageKey pcl wafer (addrPages + n)), { s with wst := { s.wst with spareUsed := tset 0 s.wst.spareUsed t (n + 1) } })

/-- Addressable page that stands at a place, by the inverse of the remap table. -/
def pageAt (s : State) (place : Nat) : Nat :=
  if place % 2 ^ 24 < addrPages then place
  else ((s.wst.remap.find? fun e => e.2 == some place).map (·.1)).getD place

/-- Addressable page of a place that stands there now. -/
def standsAt (s : State) (place : Nat) : Option Nat :=
  let key := pageAt s place
  if key % 2 ^ 24 < addrPages ∧ pagePlace s (key / 2 ^ 26) (key / 2 ^ 24 % 4) (key % 2 ^ 24) = place then some key else none

/-- Commands of a port, in its order. -/
def portWlds (s : State) (pcl wafer : Nat) : List WldCmd := s.plane.wlds.filter fun x => x.pcl == pcl && x.wafer == wafer

/-- The first six commands of a port are on its channels: one that starts fixes the places of its pages (R248, R252). -/
def startWlds (s : State) (pcl wafer : Nat) : State :=
  let on := (portWlds s pcl wafer).take 6
  { s with plane := { s.plane with wlds := s.plane.wlds.map fun x =>
      if x.places.isEmpty && on.contains x then
        { x with places := (List.range x.left).map fun i => pagePlace s pcl wafer (x.page + i) } else x } }

/-- Fixes the places of every command that a port has started, before a remap changes them (R252). -/
def fixPlaces (s : State) : State :=
  ((s.plane.wlds.map fun x => (x.pcl, x.wafer)).eraseDups).foldl (fun s p => startWlds s p.1 p.2) s

/-- Moves the content of an addressable page to a spare page and retires the old one; answers the erase block programmed.
Nothing moves when no spare is left. -/
def movePage (s : State) (pcl wafer page : Nat) : Option Nat × State :=
  let d := pageRead s (pagePlace s pcl wafer page)
  match takeSpare s pcl wafer with
  | (none, s1) => (none, s1)
  | (some q, s1) =>
    let s2 := pageWrite (fixPlaces s1) q d
    (some (q / 256), { s2 with wst := { s2.wst with
      remap := tset none s2.wst.remap (pageKey pcl wafer page) (some q), retired := s2.wst.retired + 1 } })

/-- Retires an erase block: every page that stands in it moves to a spare page (R253). Answers the blocks programmed. -/
def retireBlock (s : State) (blk : Nat) : List Nat × State :=
  (List.range 256).foldl (fun (l, s) i =>
    match standsAt s (256 * blk + i) with
    | none => (l, s)
    | some key =>
      match movePage s (key / 2 ^ 26) (key / 2 ^ 24 % 4) (key % 2 ^ 24) with
      | (some b, s1) => (if l.contains b then l else l ++ [b], s1)
      | (none, s1) => (l, s1)) ([], s)

/-- One programme cycle of each erase block of a list; one that reaches 10,000 is retired, which programmes others
(R253). -/
def wearBlocks : Nat → State → List Nat → State
  | _, s, [] => s
  | 0, s, _ => s
  | f + 1, s, b :: r =>
    let w := tget 0 s.wst.wear b
    if 10000 ≤ w then wearBlocks f s r
    else
      let s1 : State := { s with wst := { s.wst with wear := tset 0 s.wst.wear b (w + 1) } }
      if w + 1 < 10000 then wearBlocks f s1 r
      else
        let (l, s2) := retireBlock s1 b
        wearBlocks f s2 (r ++ l)

/-- A programming operation over places: each erase block it touches counts one cycle (log 28). -/
def wearPlaces (s : State) (places : List Nat) : State :=
  let l := (places.map (· / 256)).eraseDups
  wearBlocks (l.length + 512) s l

/-- Programmes the pages of a slice in place. -/
def writePages (s : State) (pcl wafer page n : Nat) (d : List Byte) : State :=
  let places := (List.range n).map fun i => pagePlace s pcl wafer (page + i)
  let s1 := places.zipIdx.foldl (fun s (q, i) => pageWrite s q ((d.drop (4096 * i)).take 4096)) s
  wearPlaces s1 places

/-- A page's read counts for its erase block: at 2^24 reads since the block's refresh scrub owes every page that stands in
it a read within an hour (R251). -/
def countRead (s : State) (place : Nat) : State :=
  let b := place / 256
  let n := tget 0 s.wst.reads b + 1
  let s1 : State := { s with wst := { s.wst with reads := tset 0 s.wst.reads b n } }
  if n ≠ 2 ^ 24 then s1
  else
    let l := ((List.range 256).map (256 * b + ·)).filter fun q => (standsAt s q).isSome && !s.wst.hot.any fun e => e.1 == q
    { s1 with wst := { s1.wst with hot := s1.wst.hot ++ l.map fun q => (q, s.now + 3600000000) } }

/-! ### wld and page arrival (R128, R246-R249, R272) -/

/-- Re-reads a page took: three when they all failed (R246). -/
def pageTries (r : PageRes) : Nat := if r.fail then 3 else min 3 r.rereads

/-- The LDPC outcome of a page read: corrected bits, and a page that needed re-reads is counted and, when one succeeds,
queued for refresh (R246). -/
def noteRead (s : State) (key : Nat) (r : PageRes) : State :=
  let again := decide (0 < pageTries r)
  { s with wst := { s.wst with
      corrBits := s.wst.corrBits + (if r.fail then 0 else r.bits)
      reread := satAdd 65535 s.wst.reread (b2n again)
      refreshQ := if again && !r.fail && !s.wst.refreshQ.contains key then s.wst.refreshQ ++ [key] else s.wst.refreshQ } }

/-- Enters a command in the port's order: by issue cycle, then by core (R248). -/
def insertWld (x : WldCmd) : List WldCmd → List WldCmd
  | [] => [x]
  | y :: r => if y.tAt < x.tAt ∨ (y.tAt = x.tAt ∧ y.core ≤ x.core) then y :: insertWld x r else x :: y :: r

/-- WLD (R128, R248): bounds, then the 448 commands of the port, the last in order of which is turned away. -/
def execWld (c : Nat) (gd : Guard) (wafer : BitVec 2) (g : BitVec 5) (pages : BitVec 4) (cc : BitVec 6) (s : State) : Res :=
  issueSlot s c .M gd true fun k =>
    let p := (k.gGet g.toNat).toNat % 2 ^ 23
    let n := pages.toNat + 1
    if gradeWt s ≤ wafer.toNat ∨ addrPages < p + n then s.raiseCore c 3 .M k.pc.toNat
    else
      let x : WldCmd := { core := c, pcl := pclOf c, wafer := wafer.toNat, page := p, left := n, cc := cc, tAt := s.cycle, pc := k.pc }
      let s1 : State := { s with plane := { s.plane with wlds := insertWld x s.plane.wlds } }
      let l := portWlds s1 x.pcl x.wafer
      match (if 448 < l.length then l.getLast? else none) with
      | some y => ({ s1 with plane := { s1.plane with wlds := s1.plane.wlds.erase y } }).raiseCore y.core 6 .M y.pc.toNat
      | none => s1

/-- Granules fill..fill+31 of a FIFO are free: the port has credit (R98). -/
def fifoCredit (k : Core) : Bool := (List.range 32).all fun i => !tget false k.arrived ((k.fill + i) % 512)

/-- Writes a page into the FIFO in ring order and sets the arrival bits. -/
def fillFifo (s : State) (c : Nat) (d : List Byte) : State :=
  let f := (s.core c).fill
  let s1 := (List.range 32).foldl (fun s i =>
    (sramClean s (fifoAddr c (128 * ((f + i) % 512))) 128).sramSet (fifoAddr c (128 * ((f + i) % 512))) ((d.drop (128 * i)).take 128)) s
  s1.modCore c fun k => { k with
    fill := (f + 32) % 512
    arrived := (List.range 32).foldl (fun t i => tset false t ((f + i) % 512) true) k.arrived }

/-- The command after its next page, which ended in cycle n: the page after it is complete no sooner than one interval, 8
cycles, later (R211, R249). -/
def WldCmd.next (x : WldCmd) (n : Nat) : WldCmd :=
  { x with page := x.page + 1, left := x.left - 1, places := x.places.drop 1, nextAt := n + 8, retry := none }

/-- Replaces a command of a list, or drops it. -/
def putWld : List WldCmd → WldCmd → Option WldCmd → List WldCmd
  | [], _, _ => []
  | x :: r, y, z => if x = y then (match z with | some w => w :: r | none => r) else x :: putWld r y z

/-- Plane time units of one cycle: 840 over the clock in 200 MHz (log 9). -/
def cycUnits (s : State) : Nat := 840 / (8 - s.pwr.step)

/-- The squall of an uncorrectable page (R272). -/
def pageRep (s : State) (x : WldCmd) : FaultRep :=
  { unitRep s x.pcl 0xD 5 0 with auxHi := x.wafer + 4 * (lclOf s x.pcl).getD 1023, auxLo := x.page }

/-- The next page of a started command ends with an LDPC outcome: it is in the FIFO and counted, or it is uncorrectable
(R128, R246, R272). -/
def endPage (s : State) (x : WldCmd) (res : PageRes) : State :=
  let place := x.places.headD (pagePlace s x.pcl x.wafer x.page)
  let port := 4 * x.pcl + x.wafer
  let s0 : State := { s with
    plane := { s.plane with wlds := putWld s.plane.wlds x (if x.left ≤ 1 then none else some (x.next s.cycle)) }
    wst := { s.wst with deliv := tmod 0 s.wst.deliv port (· + 1) } }
  let s1 := startWlds (noteRead (countRead s0 place) (pageKey x.pcl x.wafer x.page) res) x.pcl x.wafer
  if res.fail then
    let s2 := match lclOf s x.pcl with
      | some l => listDamage s1 l x.wafer x.page 4
      | none => s1
    s2.raise (pageRep s x)
  else
    let s2 := fillFifo s1 x.core (pageRead s1 place)
    if s.plane.progRun then s2.incr x.core x.cc.toNat x.pc.toNat .M
    else { s2 with plane := { s2.plane with lateWt := satAdd 65535 s2.plane.lateWt 1 } }

/-- WEIGHT_PAGE_ARRIVAL (R246-R249): the next page of command idx of the port, one of the six on its channels, once the
core's earlier commands are complete, its FIFO has credit and the interval is over. A page that needs re-reads ends when
they do, and the front's bound is held until then (R215). -/
def execWeightPageArrival (pcl wafer idx : Nat) (res : PageRes) (s : State) : Res :=
  let s := startWlds s pcl wafer
  match (portWlds s pcl wafer)[idx]? with
  | none => .next s
  | some x =>
    let earlier := s.plane.wlds.takeWhile (· ≠ x)
    if 6 ≤ idx ∨ earlier.any (fun y => y.core == x.core) ∨ !fifoCredit (s.core x.core) ∨ s.cycle ≤ x.tAt ∨ s.cycle < x.nextAt ∨
        x.retry.isSome then .next s
    else if pageTries res = 0 then .next (endPage s x res)
    else .next { s with plane := { s.plane with
        wlds := putWld s.plane.wlds x (some { x with retry := some (s.cycle + res.late, res) }) } }

/-- Re-reads that end in this cycle deliver their pages. -/
def retriesCycle (s : State) : State :=
  (s.plane.wlds.filter fun x =>
      match x.retry with
      | some (t, _) => decide (t ≤ s.cycle) && fifoCredit (s.core x.core)
      | none => false).foldl (fun s x =>
    match x.retry with
    | some (_, res) => if fifoCredit (s.core x.core) then endPage s x res else s
    | none => s) s

/-- A weight port re-reads a page. -/
def reReading (s : State) : Bool := s.plane.wlds.any fun x => x.retry.isSome

/-! ### Scrub (R250, R251) -/

/-- The port lends a channel to scrub: one without a queued command, or after 47 deliveries (R250). -/
def lendsChannel (s : State) (pcl wafer : Nat) : Bool :=
  decide ((portWlds s pcl wafer).length < 6 ∨ 47 ≤ tget 0 s.wst.deliv (4 * pcl + wafer))

/-- Refreshes a page: its content goes to a spare page, and the old page is retired (R251). -/
def refreshPage (s : State) (pcl wafer page : Nat) : State :=
  let key := pageKey pcl wafer page
  let blk := pagePlace s pcl wafer page / 256
  match movePage s pcl wafer page with
  | (none, s1) => s1
  | (some b, s1) =>
    let s2 := wearBlocks 512 s1 [b]
    { s2 with wst := { s2.wst with
        refresh := satAdd 65535 s2.wst.refresh 1, reads := tset 0 s2.wst.reads blk 0
        refreshQ := s2.wst.refreshQ.filter (· != key) } }

/-- WEIGHT_SCRUB: in Run and Breeze, a page that is installed, or that scrub owes a read, is read on a channel the port
lends; one that is weak, needed a re-read or stands queued is refreshed; one that is uncorrectable is listed (R246, R250,
R251, R272). -/
def execWeightScrub (wafer pcl page : Nat) (res : PageRes) (s : State) : Res :=
  let place := pagePlace s pcl wafer page
  match lclOf s pcl with
  | none => .next s
  | some l =>
    let owed := s.wst.hot.any fun e => e.1 == place
    if gradeWt s ≤ wafer ∨ addrPages ≤ page ∨ s.pwr.state < 4 ∨ ((slotOfPage s l wafer page).isNone ∧ !owed) ∨
        !lendsChannel s pcl wafer then .next s
    else
      let key := pageKey pcl wafer page
      let s0 : State := { s with wst := { s.wst with
        deliv := tset 0 s.wst.deliv (4 * pcl + wafer) 0, hot := s.wst.hot.filter fun e => e.1 != place } }
      let s1 := noteRead (countRead s0 place) key res
      if res.fail then .next (listDamage s1 l wafer page 4)
      else if res.weak ∨ s1.wst.refreshQ.contains key then .next (refreshPage s1 pcl wafer page)
      else .next s1

/-! ### Ending and accepting commands (R264) -/

/-- An install that begins: its empty slot is verifying (R265). -/
def beginVerify (s : State) : State :=
  let n := s.wst.lastSlot
  if s.wst.waiting ∧ s.wst.lastCmd = 1 ∧ s.pwr.state = 5 ∧ gradeWt s ≠ 0 ∧ (s.wslot n).st = 0 then s.setWslot n { st := 1 }
  else s

/-- Accepts the command in WST_CTRL, unless one runs; it waits for Run (R264). -/
def wstAccept (s : State) : State :=
  if s.wst.busy then s
  else beginVerify { s with wst := { s.wst with
    busy := true, waiting := true, lastCmd := s.wst.cmd.toNat, lastSlot := s.wst.slot.toNat, done := 0, total := 0, bytes := 0 } }

/-- Frame of a command row: go with cmd = n is written unless a command waits already; in Run the command n that waits
begins. ILX2 ends every command with result 07h. -/
def wstRow (s : State) (n : Nat) (begin' : State → State) : State :=
  let s0 := if s.wst.busy then s else wstAccept { s with wst := { s.wst with cmd := BitVec.ofNat 4 n } }
  if !s0.wst.waiting ∨ s0.wst.lastCmd ≠ n ∨ s0.pwr.state ≠ 5 ∨ s0.wst.abortReq then s0
  else
    let s1 : State := { beginVerify s0 with wst := { (beginVerify s0).wst with waiting := false } }
    if gradeWt s1 = 0 then wstEnd s1 7 else begin' s1

/-! ### Allocation and sessions (R254, R266-R269) -/

/-- Ranges taken in a wafer. -/
def takenRanges (s : State) (w : Nat) : List (Nat × Nat) :=
  (s.wst.slots.filter fun e => e.2.st != 0 && decide (w < e.2.man.wafers)).map fun e =>
    (e.2.base.getD w 0, e.2.man.pages.getD w 0)

/-- Lowest base at which n free pages follow: 0 or the end of a range. -/
def lowBase (s : State) (w n : Nat) : Option Nat :=
  let rs := takenRanges s w
  let cand := (0 :: rs.map fun r => r.1 + r.2).filter fun b =>
    decide (b + n ≤ addrPages) && rs.all fun r => decide (b + n ≤ r.1 ∨ r.1 + r.2 ≤ b) || n == 0 || r.2 == 0
  cand.foldl (fun best b => match best with | none => some b | some x => some (min x b)) none

/-- Bases of a manifest in each wafer, none when no base fits. -/
def allocBases (s : State) (m : Manifest) : Option (List Nat) :=
  (List.range 4).foldr (fun w acc =>
    match acc, (if w < m.wafers then lowBase s w (m.pages.getD w 0) else some 0) with
    | some l, some b => some (b :: l)
    | _, _ => none) (some [])

/-- A controller with its slices to fetch. -/
def newCtl (shard : Nat) (todo : List Nat) (whole : Bool) : ShardCtl := { shard := shard, todo := todo, whole := whole }

/-- Opens a session over controllers. -/
def openSession (s : State) (l : List ShardCtl) : State :=
  { s with
    wst := { s.wst with ctls := l, total := l.length % 256 }
    host := { s.host with ops := s.host.ops.filter fun o => o.kind != 2 } }

/-- The session ends when no controller is fetching. -/
def sessionEnd (s : State) : State :=
  if s.wst.ctls.any fun k => k.st == 0 then s
  else
    let lost := s.wst.ctls.any fun k => k.st == 2
    let n := s.wst.lastSlot
    let x := s.wslot n
    let s1 := if x.st = 2 then s.setWslot n { x with st := if lost then 4 else 3 } else s
    wstEnd s1 (if lost then 0xA else 0)

/-- Verification fails: the slot is empty again (R265). -/
def verifyFail (s : State) (result : Nat) : State := wstEnd (s.setWslot s.wst.lastSlot {}) result

/-- The install command verifies its manifest (R265, R266). -/
def installBegin (man : Option (List Byte)) (s : State) : State :=
  let n := s.wst.lastSlot
  if (s.wslot n).st ≠ 1 then wstEnd s 5
  else
    match man with
    | none => verifyFail (ownerEvent s 0xB 0 0xFFFF s.wst.msrc) 2
    | some b =>
      let r := manResult s b
      if r ≠ 0 then verifyFail (if r = 1 then sigFail s else s) r
      else
        let m := parseManifest b
        match allocBases s m with
        | none => verifyFail s 4
        | some bases =>
          let s1 := s.setWslot n { st := 2, man := m, base := bases }
          openSession s1 (m.shards.zipIdx.map fun (h, i) => newCtl i ((List.range h.nsl).map (h.slice0 + ·)) true)

/-- INSTALL (R264, R266). -/
def execInstall (man : Option (List Byte)) (s : State) : Res := .next (wstRow s 1 (installBegin man))

/-- The stored manifest with the sources and source-locating fields of another (R264, R266). -/
def withSources (m src : Manifest) : Manifest :=
  { m with sources := src.sources
           shards := List.zipWith (fun a b => { a with primary := b.primary, alternate := b.alternate, off := b.off }) m.shards src.shards }

/-- The resume command begins (R264, R269). -/
def resumeBegin (man : Option (List Byte)) (s : State) : State :=
  let n := s.wst.lastSlot
  let x := s.wslot n
  if x.st ≠ 4 then wstEnd s 5
  else
    match man with
    | none => wstEnd (ownerEvent s 0xB 0 0xFFFF s.wst.msrc) 2
    | some b =>
      if !manFormatOk b then wstEnd s 2
      else if !edOk s b ∨ !mlOk s b then wstEnd (sigFail s) 1
      else if (parseManifest b).instDig ≠ x.man.instDig then wstEnd s 8
      else
        let m := withSources x.man (parseManifest b)
        let s1 := s.setWslot n { x with man := m, st := 2 }
        sessionEnd (openSession s1 ((List.range m.shards.length).filterMap fun i =>
          let todo := (x.missing.filter fun e => e.shard == i).map (·.slice)
          if todo.isEmpty then none else some (newCtl i todo (todo.length == (m.shards.getD i {}).nsl))))

/-- WST_RESUME (R269). -/
def execWstResume (man : Option (List Byte)) (s : State) : Res := .next (wstRow s 2 (resumeBegin man))

/-- Slices of the session's controllers not yet verified are listed with reason 3. -/
def listUnfinished (s : State) (n : Nat) : State :=
  s.wst.ctls.foldl (fun s k => if k.st = 0 then k.todo.foldl (fun s j => listMissing s n 3 k.shard j) s else s) s

/-- An install or resume ends early: the slot is incomplete, or empty while it was verifying (R265, R270). -/
def stopSession (s : State) (result : Nat) : State :=
  let n := s.wst.lastSlot
  if (s.wslot n).st = 2 then
    let s1 := listUnfinished s n
    wstEnd (s1.setWslot n { s1.wslot n with st := 4 }) result
  else if (s.wslot n).st = 1 then verifyFail s result
  else wstEnd s result

/-- An abort ends an install or resume that runs, in Run; below Run it waits (R264, log 85). -/
def abortSession (s : State) : State :=
  if s.wst.lastCmd ≠ 1 ∧ s.wst.lastCmd ≠ 2 then s
  else if s.pwr.state = 5 then stopSession s 0xC
  else { s with wst := { s.wst with abortReq := true } }

/-- WST_ABORT (R264): accepted while an install or resume runs, which it ends; otherwise result 05h. -/
def execWstAbort (s : State) : Res :=
  if s.wst.busy ∧ s.wst.lastCmd ≠ 3 then .next (abortSession s) else .next (wstRow s 3 fun s => wstEnd s 5)

/-- The erase command begins: not empty, not bound; the slot is erasing (R264, R265). -/
def eraseBegin (s : State) : State :=
  let n := s.wst.lastSlot
  let x := s.wslot n
  if x.st = 0 ∨ x.st = 6 then wstEnd s 5
  else if x.bound then wstEnd s 6
  else s.setWslot n { x with st := 6 }

/-- ERASE (R264). -/
def execEraseSlot (s : State) : Res := .next (wstRow s 4 eraseBegin)

/-- SLOT_ERASE_COMPLETE (R265): an erasing slot becomes empty; an erase command stands still below Run (R270). -/
def execSlotEraseComplete (slot : Nat) (s : State) : Res :=
  let mine := s.wst.busy && s.wst.lastCmd == 4 && s.wst.lastSlot == slot
  if (s.wslot slot).st ≠ 6 ∨ (mine && s.pwr.state != 5) then .next s
  else
    let s1 := s.setWslot slot {}
    .next (if mine then wstEnd s1 0 else s1)

/-- The re-provision command begins: the slice of the page in WST_RPAGE is fetched again (R273). -/
def reprovBegin (s : State) : State :=
  let v := s.wst.rpage.toNat
  let w := bits v 35 34
  let l := bits v 33 24
  match slotOfPage s l w (bits v 22 0) with
  | none => wstEnd s 0xB
  | some (n, rel) =>
    let s1 : State := { s with wst := { s.wst with lastSlot := n } }
    match sliceOfPage (s1.wslot n).man l w rel with
    | none => wstEnd s1 0
    | some (sh, sl) => openSession s1 [newCtl sh [sl] (((s1.wslot n).man.shards.getD sh {}).nsl == 1)]

/-- RE_PROVISION (R273). -/
def execReProvision (s : State) : Res := .next (wstRow s 5 reprovBegin)

/-- The substitute command begins (R264, R274, R277): it ends with the substitution of its field, which waits for one that
runs. -/
def substBegin (s : State) : State :=
  let f := s.wst.field.toNat
  let runs := match s.wst.sub with
    | some x => decide (x.lfield = f)
    | none => false
  if runs then { s with wst := { s.wst with subCmd := some f } }
  else if s.wst.fenced.contains f then
    startSubst { s with wst := { s.wst with subCmd := some f, fenced := f :: s.wst.fenced.filter (· != f) } }
  else wstEnd s (if freeSpares s = 0 then 9 else 5)

/-- SUBSTITUTE (R274). -/
def execSubstitute (s : State) : Res := .next (wstRow s 6 substBegin)

/-- WST_RESERVED_CMD (R264): codes 0h and 7h-Fh end with result 0Eh. -/
def execWstReservedCmd (cmd : BitVec 4) (s : State) : Res :=
  if (1 ≤ cmd.toNat ∧ cmd.toNat ≤ 6) ∨ s.wst.busy then .next s
  else .next (wstEnd (wstAccept { s with wst := { s.wst with cmd := cmd } }) 0xE)

/-! ### Slices arriving (R267-R269, R273) -/

def setCtl (s : State) (k : ShardCtl) : State :=
  { s with wst := { s.wst with ctls := s.wst.ctls.map fun x => if x.shard = k.shard then k else x } }

/-- Clears a verified slice from the missing list; the last damaged entry gone, a damaged slot is complete (R265, R273). -/
def clearMissing (s : State) (n slice : Nat) : State :=
  let x := s.wslot n
  let m := x.missing.filter fun e => e.slice != slice
  s.setWslot n { x with missing := m, st := if x.st = 5 ∧ m.isEmpty then 3 else x.st }

/-- Abandons a shard: the failing slice with its reason, the rest with 3 (R268). A slice listed before keeps its
reason except that a resume rewrites it (R492). -/
def abandon (s : State) (k : ShardCtl) (failing : List (Nat × Nat)) : State :=
  let n := s.wst.lastSlot
  let all := failing ++ (k.todo.filter fun j => !failing.any fun f => f.1 == j).map fun j => (j, 3)
  let x := s.wslot n
  let x1 := if s.wst.lastCmd = 2 then
      { x with missing := x.missing.map fun e =>
          match all.find? fun f => f.1 == e.slice with | some (_, r) => { e with reason := r } | none => e }
    else x
  let s1 := all.foldl (fun s f => listMissing s n f.2 k.shard f.1) (s.setWslot n x1)
  setCtl s1 { k with st := 2 }

/-- Source entry a controller fetches from: the primary first; refetch k uses the alternate, when one is named, for odd
k (R268). -/
def ctlSource (s : State) (k : ShardCtl) : List Byte :=
  let m := (s.wslot s.wst.lastSlot).man
  let h := m.shards.getD k.shard {}
  m.sources.getD (if h.alternate ≠ 65535 ∧ k.refetch % 2 = 1 then h.alternate else h.primary) []

/-- Queue pair of a controller that fetches over the fabric. -/
def ctlQp (s : State) (k : ShardCtl) : Option Nat :=
  let e := ctlSource s k
  if leAt e 0 1 = 1 then some (opQp s 2 k.shard (leAt e 4 3)) else none

/-- The fetch of n bytes moved its queue pair's PSN. -/
def fetched (s : State) (k : ShardCtl) (n : Nat) : State :=
  match ctlQp s k with
  | some q => s.qpSent q n
  | none => s

/-- A refetch of a slice, or the end of the shard when a fifth would be needed. -/
def refetch (s : State) (k : ShardCtl) (slice reason : Nat) : State :=
  if 4 ≤ k.refetch then sessionEnd (abandon s k [(slice, reason)])
  else setCtl (s.clearOp 2 k.shard) { k with refetch := k.refetch + 1 }

/-- A shard's last slice is verified: its digest is checked when every slice was fetched (R268). -/
def shardEnd (s : State) (k : ShardCtl) : State :=
  let h := (s.wslot s.wst.lastSlot).man.shards.getD k.shard {}
  if k.whole ∧ sha512 k.bytes ≠ h.digest then
    let all := (List.range h.nsl).map (h.slice0 + ·)
    if 4 ≤ k.refetch then sessionEnd (abandon s { k with todo := all } (all.map fun j => (j, 1)))
    else setCtl s { k with refetch := k.refetch + 1, todo := all, bytes := [] }
  else
    let s1 := setCtl s { k with st := 1 }
    sessionEnd { s1 with wst := { s1.wst with done := (s1.wst.done + 1) % 256 } }

/-- Writes a re-provisioned slice into spare pages; the remaps wait for a step front while a program runs (R273). None
when the spare pages run out: the slice is not written. -/
def writeSpares (s : State) (pcl wafer page : Nat) (d : List Byte) : Nat → Bool × State
  | 0 => (true, s)
  | n + 1 =>
    match takeSpare s pcl wafer with
    | (none, s1) => (false, s1)
    | (some q, s1) =>
      let s2 := pageWrite s1 q (d.take 4096)
      let s3 : State := { s2 with wst := { s2.wst with
        newRemap := s2.wst.newRemap ++ [(pageKey pcl wafer page, q)], retired := s2.wst.retired + 1 } }
      writeSpares s3 pcl wafer (page + 1) (d.drop 4096) n

/-- A re-provisioned slice is written whole into spare pages, or the weight port has failed and no remap is made (R253,
R273). -/
def respare (s : State) (pcl wafer page n : Nat) (d : List Byte) : Bool × State :=
  match writeSpares s pcl wafer page d n with
  | (true, s1) => (true, wearPlaces s1 ((s1.wst.newRemap.drop s.wst.newRemap.length).map (·.2)))
  | (false, s1) => (false, { s1 with wst := { s1.wst with newRemap := s.wst.newRemap } })

/-- The waiting remaps take effect (R252, R273). -/
def applyRemaps (s : State) : State :=
  let s := fixPlaces s
  { s with wst := { s.wst with
      remap := s.wst.newRemap.foldl (fun t e => tset none t e.1 (some e.2)) s.wst.remap, newRemap := [] } }

/-- REMAP_APPLY (R273): while a program runs the remaps wait for a step front's release. -/
def execRemapApply (s : State) : Res := .next (if s.running then s else applyRemaps s)

/-- A slice verified: its pages are written, by command, and the next slice follows. A re-provisioned slice for which the
spare pages run out is not verified: its field is fenced, and it is fetched again against the new binding (R253, R274). -/
def takeSlice (s : State) (k : ShardCtl) (slice : Nat) (d pages : List Byte) : State :=
  let n := s.wst.lastSlot
  let x := s.wslot n
  let h := x.man.shards.getD k.shard {}
  let e := x.man.slices.getD slice {}
  let b := x.base.getD h.wafer 0 + e.page
  let (ok, s1) := match pclOfL s (12 * h.field + e.cluster) with
    | none => (true, s)
    | some pcl =>
      if s.wst.lastCmd = 5 then
        let (ok, s2) := respare s pcl h.wafer b e.npages pages
        (ok, if s.running then s2 else applyRemaps s2)
      else (true, writePages s pcl h.wafer b e.npages pages)
  if !ok then s1
  else
    let s2 := clearMissing s1 n slice
    let s3 : State := { s2 with wst := { s2.wst with bytes := s2.wst.bytes + 4096 * e.npages } }
    let k1 := { k with todo := k.todo.drop 1, bytes := k.bytes ++ d }
    if k1.todo.isEmpty then shardEnd s3 k1 else setCtl s3 k1

/-- A session runs: busy, begun, in Run, and no substitution holds it up (R270, R274). -/
def sessionRuns (s : State) : Bool :=
  s.wst.busy && !s.wst.waiting && !s.wst.abortReq && s.pwr.state == 5 && s.wst.sub.isNone && !s.wst.ctls.isEmpty

/-- The source of a try of a shard's fetches is on the fabric. -/
def tryOnFabric (s : State) (shard att : Nat) : Bool := leAt (ctlSource s { shard := shard, refetch := att }) 0 1 == 1

/-- SLICE_FETCH_COMPLETE (R216, R267, R268): the bytes of the controller's next slice, from its present try; an earlier try's
completion is late. -/
def execSliceFetchComplete (shard : Nat) (sl : SliceRead) (s : State) : Res :=
  match s.wst.ctls.find? fun k => k.shard == shard && k.st == 0 && k.refetch == sl.att with
  | none => .next (lateDone s (tryOnFabric s shard sl.att))
  | some k =>
    if !sessionRuns s then .next s
    else
      match k.todo, sl.data with
      | [], _ => .next (shardEnd s k)
      | j :: _, none => .next (refetch s k j 2)
      | j :: _, some d =>
        let s := fetched s k d.length
        let m := (s.wslot s.wst.lastSlot).man
        let e := m.slices.getD j {}
        if d.length ≠ e.slen ∨ sha512 d ≠ e.digest then .next (refetch s k j 1)
        else
          match layForm (m.shards.getD shard {}).form e d with
          | none => .next (refetch s k j 1)
          | some pages => .next (takeSlice s k j d pages)

/-- SHARD_FETCH_TIMEOUT (R215, R268): counts as a source error. -/
def execShardFetchTimeout (shard : Nat) (s : State) : Res :=
  match s.wst.ctls.find? fun k => k.shard == shard && k.st == 0 with
  | none => .next s
  | some k => .next (if sessionRuns s then refetch s k (k.todo.headD 0) 2 else s)

/-! ### Substitution (R274-R276, R312) -/

/-- A session, re-provisioning or substitution ends by a reset or the loss of power (R270); the substituted field waits
to start again. -/
def endSessions (s : State) : State :=
  let s1 : State := match s.wst.sub with
    | some x => { s with wst := { s.wst with sub := none, fenced := x.lfield :: s.wst.fenced } }
    | none => s
  if s1.wst.busy then stopSession s1 0xD else s1

/-- The cells the lateral copy moves: (destination address, byte) of every installed page under the lost field. -/
def lateralCells (s : State) (x : Subst) (badPages : List Nat) : List Host.Cell :=
  s.wst.mem.filterMap fun (a, b) =>
    let place := a / 4096
    let key := pageAt s place
    let t := key / 2 ^ 24
    let page := key % 2 ^ 24
    let pcl := t / 4
    if pcl / 12 = x.lost ∧ pagePlace s pcl (t % 4) page = place ∧ !badPages.contains place ∧
        (slotOfPage s (12 * x.lfield + pcl % 12) (t % 4) page).isSome then
      some (4096 * pagePlace s (12 * x.spare + pcl % 12) (t % 4) page + a % 4096, b)
    else none

/-- The KV cells under a physical field, moved to another (R312). -/
def kvCopyCells (s : State) (x : Subst) : List Host.Cell :=
  s.kv.mem.filterMap fun (a, b) =>
    let t := a / 2 ^ 32
    if t / 2 / 12 = x.lost then some (tileBase (12 * x.spare + t / 2 % 12) (t % 2) + a % 2 ^ 32, b) else none

/-- Installed pages of the spare field hold zeros before the copy. -/
def clearSpare (s : State) (x : Subst) : List Host.Cell :=
  s.wst.mem.filter fun (a, _) =>
    let key := pageAt s (a / 4096)
    let t := key / 2 ^ 24
    !(t / 4 / 12 == x.spare && (slotOfPage s (12 * x.lfield + t / 4 % 12) (t % 4) (key % 2 ^ 24)).isSome)

/-- Lists the slices of pages the lateral path could not read (R276). -/
def listBadPages (s : State) (x : Subst) (l : List Nat) : State :=
  l.foldl (fun s place =>
    let key := pageAt s place
    listDamage s (12 * x.lfield + key / 2 ^ 26 % 12) (key / 2 ^ 24 % 4) (key % 2 ^ 24) 5) s

/-- Places of the pages that the lateral copy writes. -/
def lateralPlaces (cells : List Host.Cell) : List Nat := (cells.map fun c => c.1 / 4096).eraseDups

/-- The copies of a substitution: unreadable pages and lines are zeros and are listed; reads and writes of pages count
(R246, R253, R275, R276, R312). -/
def copyField (s : State) (x : Subst) (pages : PagesRes) (lines : LineRes) : State :=
  let mine := fun p => p / 2 ^ 26 / 12 == x.lost
  let bp := pages.bad.filter mine
  let bl := lines.bad.filter fun l => l * 64 / 2 ^ 33 / 12 == x.lost
  let s0 := bl.foldl (fun s l => lineFault s l (some (6, 0, none))) (listBadPages s x bp)
  let s1 := (pages.weak.filter mine).foldl (fun s p => noteRead s (pageAt s p) { rereads := 1 }) s0
  let s2 := bp.foldl (fun s p => noteRead s (pageAt s p) { fail := true }) s1
  let cells := lateralCells s2 x bp
  let wm := cells.foldl (fun m c => mset m c.1 c.2) (clearSpare s2 x)
  let km := (kvCopyCells s2 x).foldl (fun m c => mset m c.1 c.2)
    (mclear s2.kv.mem (tileBase (12 * x.spare) 0) (tileBase (12 * x.spare + 12) 0))
  let s3 : State := { s2 with
    wst := { s2.wst with mem := wm, corrBits := s2.wst.corrBits + pages.bits }
    kv := { s2.kv with mem := km, corr := satAdd (2 ^ 32 - 1) s2.kv.corr lines.corr } }
  wearPlaces s3 (lateralPlaces cells)

/-- The binding is rewritten: the spare field stands for the logical field, one spare fewer is left, and a field that has
moved ends the reference placement (R24, R275). -/
def standIn (s : State) (lf spare : Nat) : State :=
  let s1 : State := { s with jet := { s.jet with binding := s.jet.binding.set lf (some spare) } }
  { s1 with jet := { s1.jet with mapSpares := s.jet.mapSpares - 1, mapRef := s.jet.mapRef && allHome s1 } }

/-- SUBSTITUTION_COPY_END (R275, R276, R312): in Run, the copies end, the binding is rewritten, and owner event 05h is
sent; a command 6h that waits for the field ends. The binding stands still while a load runs (log 107). -/
def execSubstitutionCopyEnd (pages : PagesRes) (lines : LineRes) (s : State) : Res :=
  match s.wst.sub with
  | none => .next s
  | some x =>
    if s.pwr.state ≠ 5 ∨ loading s then .next s
    else
      let s0 := copyField s x pages lines
      let s1 := standIn { s0 with wst := { s0.wst with sub := none } } x.lfield x.spare
      let s2 := ownerEvent s1 5 0 x.lfield (BitVec.ofNat 64 x.spare)
      let s3 := if s2.wst.subCmd = some x.lfield then wstEnd s2 0 else s2
      .next (if s3.wst.subCmd.isSome || s3.wst.autoSub then startSubst s3 else s3)

end Sys2Proof.Machine
end

