-- ==== Sys2Proof/Machine/Bundle.lean ====
section
/-! DEFINITION. Bundle issue (R60, R104-R107, R114): the four slot words are decoded and run as one. -/

namespace Sys2Proof.Machine

open Sys2Proof

/-- The meaning of a decoded slot operation; other commands do not occur in a bundle. -/
def runSlot (i : Instr) (s : State) : Res :=
  match i with
  | .nop c sl gd => execNop c sl gd s
  | .add c gd d s1 s2 => execAdd c gd d s1 s2 s
  | .sub c gd d s1 s2 => execSub c gd d s1 s2 s
  | .and c gd d s1 s2 => execAnd c gd d s1 s2 s
  | .or c gd d s1 s2 => execOr c gd d s1 s2 s
  | .xor c gd d s1 s2 => execXor c gd d s1 s2 s
  | .shl c gd d s1 s2 => execShl c gd d s1 s2 s
  | .shr c gd d s1 s2 => execShr c gd d s1 s2 s
  | .sra c gd d s1 s2 => execSra c gd d s1 s2 s
  | .mul c gd d s1 s2 => execMul c gd d s1 s2 s
  | .min c gd d s1 s2 => execMin c gd d s1 s2 s
  | .max c gd d s1 s2 => execMax c gd d s1 s2 s
  | .addi c gd d s1 imm => execAddi c gd d s1 imm s
  | .andi c gd d s1 imm => execAndi c gd d s1 imm s
  | .ori c gd d s1 imm => execOri c gd d s1 imm s
  | .xori c gd d s1 imm => execXori c gd d s1 imm s
  | .shli c gd d s1 imm => execShli c gd d s1 imm s
  | .shri c gd d s1 imm => execShri c gd d s1 imm s
  | .srai c gd d s1 imm => execSrai c gd d s1 imm s
  | .li c gd d imm => execLi c gd d imm s
  | .lih c gd d imm => execLih c gd d imm s
  | .cmp c gd pd cond s1 s2 im imm => execCmp c gd pd cond s1 s2 im imm s
  | .plog c gd pd ps1 n1 ps2 n2 fn => execPlog c gd pd ps1 n1 ps2 n2 fn s
  | .amov c gd d s1 => execAmov c gd d s1 s
  | .gmov c gd d s1 => execGmov c gd d s1 s
  | .aadd c gd d s1 imm => execAadd c gd d s1 imm s
  | .aaddg c gd d s1 s2 => execAaddg c gd d s1 s2 s
  | .br c gd off => execBr c gd off s
  | .bdec c gd g off => execBdec c gd g off s
  | .jr c gd g => execJr c gd g s
  | .jal c gd g off => execJal c gd g off s
  | .rdsh c gd d s1 => execRdsh c gd d s1 s
  | .rdcyc c gd d => execRdcyc c gd d s
  | .rdcc c gd cc g => execRdcc c gd cc g s
  | .cset c gd cc g src imm => execCset c gd cc g src imm s
  | .cadd c gd cc g src imm => execCadd c gd cc g src imm s
  | .csub c gd cc g src imm => execCsub c gd cc g src imm s
  | .wait c gd cc g src d imm => execWait c gd cc g src d imm s
  | .watch c gd cc g src d imm => execWatch c gd cc g src d imm s
  | .arm c gd cc g src imm => execArm c gd cc g src imm s
  | .front c gd num bound stp => execFront c gd num bound stp s
  | .ld c gd a reg size sx off => execLd c gd a reg size sx off s
  | .st c gd a reg size off => execSt c gd a reg size off s
  | .ldv c gd a reg tm off => execLdv c gd a reg tm off s
  | .stv c gd a reg off => execStv c gd a reg off s
  | .cget c gd a g cc lines tm => execCget c gd a g cc lines tm s
  | .cput c gd a g cc lines => execCput c gd a g cc lines s
  | .send c gd a gH flits cc lc => execSend c gd a gH flits cc lc s
  | .get c gd gH gR flits cc lc => execGet c gd gH gR flits cc lc s
  | .wld c gd wafer g pages cc => execWld c gd wafer g pages cc s
  | .wdrop c gd granules => execWdrop c gd granules s
  | .kvld c gd area g a lines cc => execKvld c gd area g a lines cc s
  | .kvst c gd area g a lines cc qm => execKvst c gd area g a lines cc qm s
  | .hput c gd a kind cc lines => execHput c gd a kind cc lines s
  | .vadd c gd vd vs1 vs2 ty => execVadd c gd vd vs1 vs2 ty s
  | .vsub c gd vd vs1 vs2 ty => execVsub c gd vd vs1 vs2 ty s
  | .vmul c gd vd vs1 vs2 ty => execVmul c gd vd vs1 vs2 ty s
  | .vfma c gd vd vs1 vs2 vs3 ty => execVfma c gd vd vs1 vs2 vs3 ty s
  | .vmin c gd vd vs1 vs2 ty => execVmin c gd vd vs1 vs2 ty s
  | .vmax c gd vd vs1 vs2 ty => execVmax c gd vd vs1 vs2 ty s
  | .vcmp c gd vd vs1 vs2 ty cond => execVcmp c gd vd vs1 vs2 ty cond s
  | .vsel c gd vd vs1 vs2 vs3 ty => execVsel c gd vd vs1 vs2 vs3 ty s
  | .vexp c gd vd vs1 ty => execVexp c gd vd vs1 ty s
  | .vlog c gd vd vs1 ty => execVlog c gd vd vs1 ty s
  | .vrcp c gd vd vs1 ty => execVrcp c gd vd vs1 ty s
  | .vrsq c gd vd vs1 ty => execVrsq c gd vd vs1 ty s
  | .vrsum c gd vd vs1 ty => execVrsum c gd vd vs1 ty s
  | .vrmax c gd vd vs1 ty => execVrmax c gd vd vs1 ty s
  | .vrmin c gd vd vs1 ty => execVrmin c gd vd vs1 ty s
  | .vcvt c gd vd vs1 sf df h => execVcvt c gd vd vs1 sf df h s
  | .vquant c gd vd vs1 sf df h => execVquant c gd vd vs1 sf df h s
  | .vdeq c gd vd vs1 sf df h => execVdeq c gd vd vs1 sf df h s
  | .vwadd c gd vd vs1 vs2 ty => execVwadd c gd vd vs1 vs2 ty s
  | .vwrnd c gd vd vs1 ty => execVwrnd c gd vd vs1 ty s
  | .vpop c gd vd arr grp => execVpop c gd vd arr grp s
  | .vext c gd d s1 lane ty => execVext c gd d s1 lane ty s
  | .vsplat c gd d s1 ty => execVsplat c gd d s1 ty s
  | .vtopm c gd vd vs1 gs init => execVtopm c gd vd vs1 gs init s
  | .tld c gd amask slot sc src a tm => execTld c gd amask slot sc src a tm s
  | .strm c gd amask tsrc opn b len gV gM a af asr anchor => execStrm c gd amask tsrc opn b len gV gM a af asr anchor s
  | .drn c gd arr r0 rows form dst a cc => execDrn c gd arr r0 rows form dst a cc s
  | .ainit c gd arr r0 rows form dst a cc => execAinit c gd arr r0 rows form dst a cc s
  | .amode c gd wf ae xm nc ceil => execAmode c gd wf ae xm nc ceil s
  | .cvt c gd rank vsrc av ax asr af p ks anchor cc => execCvt c gd rank vsrc av ax asr af p ks anchor cc s
  | .cut c gd rank usrc au p outs grp opn anchor cc rbase ns => execCut c gd rank usrc au p outs grp opn anchor cc rbase ns s
  | .cout c gd arr half p rbase opn anchor cc => execCout c gd arr half p rbase opn anchor cc s
  | .cmerge c gd arr b rbase rows => execCmerge c gd arr b rbase rows s
  | _ => .next s

/-- The state a slot operation leaves; a slot operation always answers a next state on an existing core. -/
def Res.stateOr (r : Res) (s : State) : State :=
  match r with
  | .next t => t
  | _ => s

/-- One slot word: an undefined or malformed encoding raises the squall of class 07h and nothing else (R106). -/
def runWord (c : Nat) (sl : SlotKind) (w : Nat) (s : State) : State :=
  match decodeSlot sl c w with
  | some i => Res.stateOr (runSlot i s) s
  | none => s.raiseCore c 7 sl (s.core c).pc.toNat

/-- The S-slot opcode is a branch or a jump. -/
def isBranch (w : Nat) : Bool := decide (0x30 ≤ w / 2 ^ 56 ∧ w / 2 ^ 56 ≤ 0x33)

/-- A squall's stop has reached the core: it issues no bundle after c + 63 (R239). -/
def stopReached (s : State) : Bool := s.plane.faults.any fun f => decide (f.cycle + 63 < s.cycle)

/-- The core issues a bundle in this cycle. -/
def mayIssue (s : State) (k : Core) : Bool :=
  s.plane.progRun && s.plane.clockOn && k.role.isSome && k.issue == .run && decide (k.nextAt ≤ s.cycle) && !stopReached s

/-- The fetch for the bundle that issues next, unless its line was read with the bundle that issues now (R93). -/
def fetchNext (s : State) (c : Nat) (old : BitVec 21) : State :=
  let k := s.core c
  if k.issue = .run ∧ k.pc.toNat / 64 ≠ old.toNat / 64 then fetchNow s c else s

/-- The four slot words of the bundle run, S first; then the core steps to its next bundle. -/
def runBundle (s : State) (c : Nat) (w : Nat) : State :=
  let k := s.core c
  let (ws, wm, wv, wx) := bundleWords w
  let s1 := s.setCore c { k with target := none }
  let s2 := runWord c .X wx (runWord c .V wv (runWord c .M wm (runWord c .S ws s1)))
  let s3 := s2.modCore c fun k' => { k' with
    pc := k.target.getD (k.pc + 32), delaySlot := isBranch ws, lastPc := k.pc, nextAt := s.cycle + 1 }
  fetchNext s3 c k.pc

/-- BUNDLE_ISSUE (R60, R104-R107, R114): the bundle at the core's pc, fetched in an earlier cycle (`fetchNow`), issues in the
present one. A core that holds no role, waits, stands at a front or has stopped issues nothing. The first bundle after a
program's start has no fetch before it: outside the code region it stops the core here. -/
def execBundleIssue (c : Nat) (s : State) : Res :=
  if nCores ≤ c then .next s
  else
    let k := s.core c
    if !mayIssue s k then .next s
    else if !inCode s k.pc.toNat then .next (fetchFail (s.raiseCore c 3 .S k.pc.toNat) c)
    else .next (runBundle s c (ofLe (s.sramGet (spmAddr c k.pc.toNat) 32)))

end Sys2Proof.Machine
end

