-- ==== Sys2Proof/Machine/Sampling.lean ====
section
/-! DEFINITION. The sampler of the serving hub (R332-R335): distribution, pick, draws, acceptance of forecast tokens, and
the forecast depth. -/

namespace Sys2Proof.Machine

open Sys2Proof

/-- Quotient of two FP32 numbers, RNE (R332). -/
def fpDiv (x y : BitVec 32) : BitVec 32 :=
  match decFp32 x, decFp32 y with
  | .nan, _ => nan32
  | _, .nan => nan32
  | .inf _, .inf _ => nan32
  | .inf a, .num b _ _ => encFp32 (.inf (a != b))
  | .num a _ _, .inf b => encFp32 (.num (a != b) 0 0)
  | .num a m e, .num b n f =>
    if n = 0 then (if m = 0 then nan32 else encFp32 (.inf (a != b)))
    else if m = 0 then encFp32 (.num (a != b) 0 0)
    else encSticky (a != b) (m * 2 ^ 64 / n) (e - f - 64) (m * 2 ^ 64 % n != 0)

def fLt (x y : BitVec 32) : Bool := FV.lt (decFp32 x) (decFp32 y)
def fGe (x y : BitVec 32) : Bool := FV.lt (decFp32 y) (decFp32 x) || FV.eqv (decFp32 x) (decFp32 y)

/-- Running sums of a list in order, each addition RNE (R332: cum). -/
def cumFrom (acc : Option (BitVec 32)) : List (BitVec 32) → List (BitVec 32)
  | [] => []
  | p :: r =>
    let v := match acc with | none => p | some a => fpAdd a p
    v :: cumFrom (some v) r

def cums (p : List (BitVec 32)) : List (BitVec 32) := cumFrom none p

/-- FP32 1.0. -/
def one32 : BitVec 32 := 0x3F800000

/-- The distribution of a position (R332): (probability, token index) of its first n entries. -/
def distOf (list : List (BitVec 32 × BitVec 32)) (lse : BitVec 32) (topK : Nat) (topP minP : BitVec 32) :
    List (BitVec 32 × Nat) :=
  let p := list.map fun e => fpExp (fpSub e.1 lse)
  let n0 := if topK = 0 then 64 else topK
  let n1 := if fLt topP one32 then min n0 (1 + ((cums p).findIdx? fun c => fGe c topP).getD 63) else n0
  let n2 := if fLt 0 minP then min n1 (p.filter fun x => fGe x (fpMul minP (p.headD 0))).length else n1
  (p.zip (list.map fun e => e.2.toNat)).take n2

/-- pick of R332: the first entry whose running sum passes u times the whole sum, else the last. -/
def pickOf (seed tnum : Nat) (l : List (BitVec 32 × Nat)) (u : BitVec 32) : Nat :=
  match l.getLast? with
  | none => Config.emptyPick seed tnum
  | some last =>
    let cs := cums (l.map (·.1))
    let goal := fpMul u (cs.getLastD 0)
    match (l.zip cs).find? fun e => fLt goal e.2 with
    | some (e, _) => e.2
    | none => last.2

/-- A draw (R333): purpose 0 a sample, 1 an acceptance test. -/
def drawOf (seed tnum purpose : Nat) : BitVec 32 :=
  encFp32 (FV.ofDy ⟨(philox0 (seed % 2 ^ 32) (seed / 2 ^ 32) tnum purpose / 256 : Nat), -24⟩)

/-- Sampling parameters of a sequence. -/
structure Knobs where
  seed : Nat
  topK : Nat
  topP : BitVec 32
  minP : BitVec 32
  greedy : Bool
deriving DecidableEq, Repr

/-- Token of a sample from a position's list. -/
def sampleOf (k : Knobs) (c : Cand) (tnum : Nat) : Nat :=
  if k.greedy then ((c.list.headD (0, 0)).2).toNat
  else pickOf k.seed tnum (distOf c.list c.lse k.topK k.topP k.minP) (drawOf k.seed tnum 0)

/-- Whether forecast token x is accepted, and the sample taken when it is not (R334). -/
def testOf (k : Knobs) (c : Cand) (x tnum : Nat) : Bool × Nat :=
  let top := ((c.list.headD (0, 0)).2).toNat
  if k.greedy then (x == top, top)
  else
    let l := distOf c.list c.lse k.topK k.topP k.minP
    let px := match l.find? fun e => e.2 == x with
      | some e => fpDiv e.1 ((cums (l.map (·.1))).getLastD 0)
      | none => 0
    (fLt (drawOf k.seed tnum 1) px, pickOf k.seed tnum (l.filter fun e => e.2 != x) (drawOf k.seed tnum 0))

/-- The tokens a decoding sequence emits from its positions 0 to d, and the accepted count (R334). -/
def acceptFrom (k : Knobs) (t : Nat) : Nat → List Cand → List Nat × Nat
  | j, [] => ([], j)
  | j, [c] => ([sampleOf k c (t + j + 1)], j)
  | j, c :: r =>
    let (ok, y) := testOf k c c.prop (t + j + 1)
    if ok then
      let (l, a) := acceptFrom k t (j + 1) r
      (c.prop :: l, a)
    else ([y], j)

/-- Forecast depth and counter after a commit with accepted count a (R335). -/
def nextDepth (d z a dmax : Nat) : Nat × Nat :=
  if 1 ≤ d then
    let d' := if a = d then min (d + 1) dmax else if a = 0 then d / 2 else a + 1
    (d', 0)
  else if z + 1 = 32 then (min 1 dmax, 0)
  else (0, z + 1)

end Sys2Proof.Machine
end

