-- ==== Sys2Proof/Machine/Hub.lean ====
section
/-! DEFINITION. What the hub's operations share: requests and parameter blocks, slots, events of a sequence, ending a
sequence, adapters, and snowpack targets and extents (R316-R321, R337-R342). -/

namespace Sys2Proof.Machine

open Sys2Proof

/-! ### Request entries and parameter blocks (R316, R317) -/

def reqCmd (e : List Byte) : Nat := (byteAt e 0).toNat
def reqFlag (e : List Byte) (i : Nat) : Bool := bit (byteAt e 1).toNat i
def reqTag (e : List Byte) : BitVec 64 := BitVec.ofNat 64 (leAt e 8 8)
def reqCount (e : List Byte) : Nat := leAt e 24 4
def reqAdapter (e : List Byte) : BitVec 64 := BitVec.ofNat 64 (leAt e 32 8)

/-- Bytes lo to hi - 1 are 0. -/
def zeros (e : List Byte) (lo hi : Nat) : Bool := ((e.drop lo).take (hi - lo)).all (· == 0)

/-- Reason 01h: a reserved command, or a nonzero byte that the command does not list. -/
def reqFormatBad (e : List Byte) : Bool :=
  let c := reqCmd e
  !(zeros e 2 8 && zeros e 28 32 && zeros e 40 64 &&
    match c with
    | 1 => decide ((byteAt e 1).toNat < 8) && zeros e 32 40
    | 2 => zeros e 1 2 && zeros e 32 40
    | 3 | 4 | 5 => zeros e 1 2 && zeros e 16 40
    | 6 => zeros e 1 2
    | 7 => zeros e 1 2 && zeros e 16 28
    | _ => false)

def pbClass (p : List Byte) : Nat := (byteAt p 0).toNat
def pbDmax (p : List Byte) : Nat := (byteAt p 1).toNat
def pbTopK (p : List Byte) : Nat := (byteAt p 2).toNat
def pbNstok (p : List Byte) : Nat := (byteAt p 3).toNat
def pbNsseq (p : List Byte) : Nat := (byteAt p 4).toNat
/-- Length of stop sequence i. -/
def pbSslen (p : List Byte) (i : Nat) : Nat := leAt p 6 2 / 16 ^ i % 16
def pbTemp (p : List Byte) : BitVec 32 := BitVec.ofNat 32 (leAt p 8 4)
def pbTopP (p : List Byte) : BitVec 32 := BitVec.ofNat 32 (leAt p 12 4)
def pbMinP (p : List Byte) : BitVec 32 := BitVec.ofNat 32 (leAt p 16 4)
def pbMaxTok (p : List Byte) : Nat := leAt p 20 4
def pbSeed (p : List Byte) : Nat := leAt p 24 8
def pbAdapter (p : List Byte) : BitVec 64 := BitVec.ofNat 64 (leAt p 32 8)
def pbGreedy (p : List Byte) : Bool := (pbTemp p).toNat % 2 ^ 31 == 0
/-- Stop token identifiers. -/
def pbStok (p : List Byte) : List Nat := (List.range (pbNstok p)).map fun i => leAt p (64 + 4 * i) 4
/-- Stop sequences. -/
def pbSseq (p : List Byte) : List (List Nat) :=
  (List.range (pbNsseq p)).map fun i => (List.range (pbSslen p i)).map fun j => leAt p (128 + 32 * i + 4 * j) 4

def pbKnobs (p : List Byte) : Knobs :=
  { seed := pbSeed p, topK := pbTopK p, topP := pbTopP p, minP := pbMinP p, greedy := pbGreedy p }

/-- Reason 01h in a parameter block: a byte not listed is nonzero. -/
def pbFormatBad (p : List Byte) : Bool :=
  !(zeros p 5 6 && zeros p 48 64 && p.length == 256)

/-- Reason 05h: a parameter out of range, or a count of 0. FP32 bounds are compared as patterns, which order as the
numbers do. -/
def pbRangeBad (p : List Byte) (count : Nat) : Bool :=
  let t := (pbTemp p).toNat
  let tp := (pbTopP p).toNat
  let mp := (pbMinP p).toNat
  decide (7 < pbClass p) || decide (7 < pbDmax p) || decide (64 < pbTopK p) || decide (16 < pbNstok p) ||
  decide (4 < pbNsseq p) ||
  (List.range 4).any (fun i => if i < pbNsseq p then pbSslen p i == 0 || decide (8 < pbSslen p i) else pbSslen p i != 0) ||
  !(t % 2 ^ 31 == 0 || (decide (0x3C23D70A ≤ t) && decide (t ≤ 0x42C80000))) ||
  !(decide (0 < tp) && decide (tp ≤ 0x3F800000)) ||
  !(mp % 2 ^ 31 == 0 || decide (mp < 0x3F800000)) ||
  pbMaxTok p == 0 || count == 0

/-- Token identifiers of a list of 4-byte entries. -/
def tokList (d : List Byte) (n : Nat) : List Nat := (List.range n).map fun i => leAt d (4 * i) 4

/-! ### Slots and sequences (R321) -/

def State.slot (s : State) (n : Nat) : Seq := tget {} s.hub.slots n
def State.setSlot (s : State) (n : Nat) (q : Seq) : State := { s with hub := { s.hub with slots := tset {} s.hub.slots n q } }
def State.modSlot (s : State) (n : Nat) (f : Seq → Seq) : State := s.setSlot n (f (s.slot n))

/-- Slot of a tenant's sequence with a tag, ended ones of this boundary included. -/
def slotOf (s : State) (t : Nat) (tag : BitVec 64) : Option Nat :=
  (s.hub.slots.find? fun e => e.2.st != 0 && e.2.tenant == t && e.2.tag == tag).map (·.1)

/-- Park record of a tenant's sequence with a tag. -/
def recOf (s : State) (t : Nat) (tag : BitVec 64) : Option ParkRec :=
  s.hub.parked.find? fun r => r.tenant == t && r.tag == tag

def dropRec (s : State) (id : BitVec 64) : State :=
  { s with hub := { s.hub with parked := s.hub.parked.filter fun r => r.parkId != id } }

/-- State a sequence takes part in: the one it is held from, when held. -/
def Seq.eff (q : Seq) : Nat := if q.st = 4 then q.was else q.st

/-- Live: from admission until it finishes, faults or is parked. -/
def Seq.live (q : Seq) : Bool := decide (1 ≤ q.st ∧ q.st ≤ 5) || q.st == 7

def maxLenOf (s : State) (q : Seq) : Nat := clsMax (clsOf s.kv.app q.cls)

/-- Live sequences, parking and restoring included. -/
def liveCount (s : State) : Nat := (s.hub.slots.filter fun e => e.2.live).length

/-- An event of a tenant that names no slot. -/
def tagEvent (s : State) (t code reason value : Nat) (tag : BitVec 64) : State :=
  sendEvent s t { code := code, reason := reason, value := value, tag := tag }

/-- An event of the sequence in a slot. -/
def seqEvent (s : State) (n code reason value : Nat) : State :=
  let q := s.slot n
  sendEvent s q.tenant { code := code, reason := reason, slot := n, value := value, tag := q.tag }

def reject (s : State) (t reason : Nat) (tag : BitVec 64) : State := tagEvent s t 2 reason 0 tag
def ackDone (s : State) (t cmd : Nat) (tag : BitVec 64) : State := tagEvent s t 16 0 cmd tag

/-! ### Adapters (R338-R340) -/

def State.adp (s : State) (k : Nat) : Adp := tget {} s.hub.adps k
def State.setAdp (s : State) (k : Nat) (a : Adp) : State := { s with hub := { s.hub with adps := tset {} s.hub.adps k a } }

/-- Bytes of an adapter slot: the adapter area in 64 equal runs of pages (log 33). -/
def adpSlotPages (s : State) : Nat := areaSlabs s s.kv.app 2 * sigmaOf s.kv.app.cfg 2 / 64
def adpSlotBytes (s : State) : Nat := adpSlotPages s * cfgPage s.kv.app.cfg

/-- Adapter slots a tenant holds. -/
def adpHeld (s : State) (t : Nat) : Nat := (s.hub.adps.filter fun e => e.2.st != 0 && e.2.tenant == t).length

def adpFree (s : State) : Option Nat := (List.range 64).find? fun k => (s.adp k).st == 0

/-- Last generation of a pair. -/
def lastGen (s : State) (t : Nat) (id : BitVec 64) : Nat :=
  ((s.hub.gens.find? fun g => g.1 == t && g.2.1 == id).map fun g => g.2.2).getD 0

/-- Uploads of the pair accepted since generation g. -/
def genAge (s : State) (t : Nat) (id : BitVec 64) (g : Nat) : Nat := (lastGen s t id + 65535 - g) % 65535

/-- Slot of the newest resident generation of a pair. -/
def newestAdp (s : State) (t : Nat) (id : BitVec 64) : Option Nat :=
  (s.hub.adps.filter fun e => e.2.st == 2 && e.2.tenant == t && e.2.id == id).foldl (fun b e =>
    match b with
    | none => some e.1
    | some k => if genAge s t id e.2.gen < genAge s t id (s.adp k).gen then some e.1 else some k) none

/-- An upload of the pair is loading or deferred. -/
def adpComing (s : State) (t : Nat) (id : BitVec 64) : Bool :=
  s.hub.adps.any (fun e => e.2.st == 1 && e.2.tenant == t && e.2.id == id) ||
  s.hub.uploads.any fun u => u.tenant == t && u.id == id

/-- Deferred uploads take free slots in acceptance order, each when its tenant is below quota. -/
def placeUploads (s : State) : List Upload → State
  | [] => { s with hub := { s.hub with uploads := [] } }
  | u :: r =>
    match adpFree s with
    | some k =>
      if adpHeld s u.tenant < bits (s.tenant u.tenant).quota.toNat 6 0 then
        placeUploads (s.setAdp k { st := 1, tenant := u.tenant, gen := u.gen, id := u.id, modelId := u.modelId, body := u.body }) r
      else
        let s1 := placeUploads s r
        { s1 with hub := { s1.hub with uploads := u :: s1.hub.uploads } }
    | none => { s with hub := { s.hub with uploads := u :: r } }

/-- Frees a retiring or withdrawn generation with no pin left (event 0Eh). -/
def sweepOne (s : State) (k : Nat) : State :=
  let a := s.adp k
  if 3 ≤ a.st ∧ pinsOf s k = 0 then (tagEvent s a.tenant 14 0 a.gen a.id).setAdp k {} else s

/-- Frees every such generation, then places deferred uploads. -/
def sweepAdps (s : State) : State :=
  let s1 := (s.hub.adps.map (·.1)).foldl sweepOne s
  placeUploads s1 s1.hub.uploads

/-! ### Ending a sequence -/

/-- The sequence gives up region, chain and adapter pin (R291, R300, R340). -/
def releaseSeq (s : State) (n : Nat) : State :=
  let q := s.slot n
  sweepAdps ((releaseChain s q.chain).modSlot n fun q => { q with
    hasRegion := false, chain := [], hashes := [], adp := none, decodes := false, pfCnt := 0 })

/-- The sequence ends in state st (8 finished, 9 faulted) with an event; its slot is freed at the end of the boundary. -/
def endSeq (s : State) (n st code reason value : Nat) : State :=
  releaseSeq ((seqEvent s n code reason value).modSlot n fun q => { q with st := st, fault := 0 }) n

def faultSeq (s : State) (n reason : Nat) : State := endSeq s n 9 11 reason (s.slot n).committed
def finishSeq (s : State) (n reason : Nat) : State := endSeq s n 8 3 reason (s.slot n).gen

/-- An adapter id of a tenant that was released, with no new upload resident since (R340). -/
def adpReleased (s : State) (t : Nat) (id : BitVec 64) : Bool := s.hub.released.any fun e => e.1 == t && e.2 == id

/-- Slots of finished and faulted sequences become free. -/
def freeEnded (s : State) : State :=
  { s with hub := { s.hub with slots := s.hub.slots.filter fun e => decide (e.2.st < 8) } }

/-- A live sequence outside a boundary loses its slot at once. -/
def freeSlot (s : State) (n : Nat) : State := (releaseSeq s n).setSlot n {}

/-! ### Snowpack targets and extents (R341, R342) -/

/-- A target is enabled: en, and a TTL in range (R341, SNP_TGTC). -/
def snpOn (s : State) (t : Nat) : Bool :=
  let k := s.tenant t
  let ttl := bits k.snpC.toNat 63 32
  bit k.snpA.toNat 63 && decide (1 ≤ ttl ∧ ttl ≤ 7776000)

/-- Bytes of the prefix slabs and of the region slabs of a record (parts 5 and 6). -/
def chainBytes (s : State) (q : Seq) : Nat :=
  q.chain.length * cfgHeads s.kv.app.cfg * sigmaOf s.kv.app.cfg 1 * cfgPage s.kv.app.cfg

def regionBytes (s : State) (q : Seq) : Nat :=
  cdivN q.regionTok (cfgChunk s.kv.app.cfg) * cfgHeads s.kv.app.cfg * sigmaOf s.kv.app.cfg 0 * cfgPage s.kv.app.cfg

/-- Bytes of parts 1 to 6. -/
def recBytes (s : State) (q : Seq) : Nat :=
  1024 + 4 * q.pending.length + 8 * q.chain.length + chainBytes s q + regionBytes s q

/-- 1 MiB data extents, and all extents with the tag table. -/
def dataExtents (s : State) (q : Seq) : Nat := cdivN (recBytes s q) (2 ^ 20)
def allExtents (s : State) (q : Seq) : Nat := dataExtents s q + cdivN (16 * dataExtents s q) (2 ^ 20)

/-- Runs of extents taken in a tenant's area by records and by parks in progress. -/
def takenExtents (s : State) (t : Nat) : List (Nat × Nat) :=
  ((s.hub.parked.filter fun r => r.tenant == t && r.base == (s.tenant t).snpB).map fun r => (r.ext, r.next)) ++
  ((s.hub.slots.filter fun e => e.2.st == 5 && e.2.tenant == t && e.2.parkB == (s.tenant t).snpB).map
    fun e => (e.2.parkExt, e.2.parkN))

/-- Lowest run of n free extents of a tenant's area. -/
def lowExtents (s : State) (t n : Nat) : Option Nat :=
  let taken := takenExtents s t
  let cand := 0 :: taken.map fun r => r.1 + r.2
  let ok := cand.filter fun e => decide (e + n ≤ bits (s.tenant t).snpC.toNat 31 0) &&
    taken.all fun r => decide (e + n ≤ r.1 ∨ r.1 + r.2 ≤ e)
  ok.foldl (fun b e => match b with | none => some e | some x => some (min x e)) none

/-- A park attempt fails (R321, R347): held until the next attempt after 1 s, or faulted after the third. -/
def parkFail (s : State) (n why : Nat) : State :=
  let s0 := s.modSlot n fun q => { q with attempts := q.attempts + 1, parkN := 0 }
  let s1 : State := { s0 with hub := { s0.hub with parkFail := satAdd 65535 s0.hub.parkFail 1 } }
  let q := s1.slot n
  let s2 := seqEvent s1 n 8 why q.attempts
  if 3 ≤ q.attempts then faultSeq s2 n 5
  else s2.modSlot n fun q => { q with st := 4, retryAt := some (s.now + 1000000), heldAt := s.now, heldRun := 0 }

/-- A park begins, for a reason of event 06h: it takes its extents, or fails for space. -/
def beginPark (s : State) (n reason : Nat) : State :=
  let s0 := s.modSlot n fun q => { q with was := q.eff, reason := reason, retryAt := none, decodes := false, pfCnt := 0 }
  let q := s0.slot n
  let k := s0.tenant q.tenant
  let used := s0.hub.parked.length + (s0.hub.slots.filter fun e => e.2.st == 5).length
  match (if snpOn s0 q.tenant && decide (used < 262144) then lowExtents s0 q.tenant (allExtents s0 q) else none) with
  | none => parkFail s0 n 1
  | some e =>
    let s1 := s0.setSlot n { q with
      st := 5, parkExt := e, parkN := allExtents s0 q, parkId := s0.hub.nextPark,
      parkA := k.snpA, parkB := k.snpB, parkC := k.snpC }
    ({ s1 with hub := { s1.hub with nextPark := s1.hub.nextPark + 1 } }).clearOp 0 n

/-! ### Holds (R321, R326) -/

/-- A sequence not yet held is held with a reason; a held one takes the reason. -/
def holdSeq (s : State) (n reason : Nat) : State :=
  let q := s.slot n
  if q.st = 4 then s.setSlot n { q with reason := reason }
  else (s.setSlot n { q with was := q.st, st := 4, reason := reason, heldAt := s.now, heldRun := 0 }) |>
    fun s => seqEvent s n 4 reason 0

/-- A held sequence returns to the state it was held from; the event gives the held time in ms. -/
def releaseHold (s : State) (n : Nat) : State :=
  let q := s.slot n
  if q.st = 4 then seqEvent (s.setSlot n { q with st := q.was, reason := 0 }) n 5 0 ((s.now - q.heldAt) / 1000) else s

/-- Live sequences in slot order, with their numbers, by state. -/
def seqsIn (s : State) (p : Seq → Bool) : List (Nat × Seq) := s.hub.slots.filter fun e => p e.2

/-- Inserts by order of admission. -/
def byOrder (x : Nat × Seq) : List (Nat × Seq) → List (Nat × Seq)
  | [] => [x]
  | y :: r => if x.2.order < y.2.order then x :: y :: r else y :: byOrder x r

def sortOrder (l : List (Nat × Seq)) : List (Nat × Seq) := l.foldr byOrder []

/-! ### The forced floor (R392) and the running program -/

/-- Highest state allowed: 0 Off. -/
def pwrFloor (s : State) : Nat :=
  if s.pwr.causes.contains 5 then 0
  else if s.pwr.causes.any fun c => decide (c < 4) then 1
  else if s.pwr.causes.contains 4 then 4
  else 5

/-- A load holds the power state (R238): it runs, and has begun to read in Run. -/
def loadHolds (s : State) : Bool := decide (2 ≤ s.ldr.state ∧ s.ldr.state ≤ 7) || (s.ldr.state == 1 && s.pwr.state == 5)

/-- Highest state the forced causes leave, the removal's own left out while its parks run (R392, R432). -/
def pwrLimit (s : State) : Nat :=
  if s.pwr.parkS.isSome then pwrFloor { s with pwr := { s.pwr with causes := s.pwr.causes.filter (· != 3) } } else pwrFloor s

/-- State the engine moves towards (R388, R392, R432): the target under the limit; a removal's parking and a load keep it
where it is. -/
def goal (s : State) : Nat :=
  min (pwrLimit s) (if s.pwr.parkS.isSome || loadHolds s then s.pwr.state else s.pwr.tgt.toNat)

/-- A step front's release is held (R388): below Run, or on the way there. -/
def descending (s : State) : Bool := decide (s.pwr.state < 5 ∨ goal s < 5)

/-- The program whose numbers the hub uses. -/
def progOf (s : State) : Prog := s.ldr.prog.getD {}

/-- A doorbell write wakes the engine (R393). -/
def wakeUp (s : State) : State :=
  if s.pwr.wake && decide (s.pwr.state < 5) && decide (pwrFloor s = 5) then { s with pwr := { s.pwr with tgt := 5 } } else s

/-- Ends every sequence and record of a tenant without an event (R321: reset of the tenant's function). -/
def dropTenantSeqs (s : State) (t : Nat) : State :=
  let s1 := (seqsIn s fun q => q.st != 0 && q.tenant == t).foldl (fun s e => freeSlot s e.1) s
  { s1 with hub := { s1.hub with
      parked := s1.hub.parked.filter fun r => r.tenant != t, released := s1.hub.released.filter fun e => e.1 != t } }

end Sys2Proof.Machine
end

