-- ==== Sys2Proof/Machine/Dealer.lean ====
section
/-! DEFINITION. Step 6 of a boundary: the prefill slice, the dealer, the batch descriptor and the KV part of the hub area
(R294, R301-R306, R320, R326, R329). -/

namespace Sys2Proof.Machine

open Sys2Proof

/-! ### The prefill slice and the participants (R326) -/

/-- What a slot does in the step: forecast depth when decoding, else the first position, the positions, the segment and
whether the last position of its prompt is among them. -/
inductive Part where
  | dec (d : Nat)
  | pre (first cnt seg : Nat) (last : Bool)
deriving DecidableEq, Repr

/-- One participant: slot, sequence, part. -/
abbrev Parts := List (Nat × Seq × Part)

/-- Sequences that may take part, in order of admission: not held, or held by the dealer alone. -/
def eligible (s : State) : List (Nat × Seq) :=
  if s.host.linkHeld then []
  else sortOrder (seqsIn s fun q =>
    (q.st == 1 && !s.hub.parkAll) || q.st == 2 || q.st == 3 || (q.st == 4 && q.reason == 4 && q.retryAt.isNone && !s.hub.parkAll))

/-- Positions a sequence with prompt tokens left takes, after `pos` positions and `seg` segments (R326). -/
def prePositions (s : State) (pos seg : Nat) (q : Seq) : Nat :=
  if q.eff = 3 ∨ 32 ≤ seg then 0 else min q.pending.length ((progOf s).pPos - pos)

/-- The output ring of the sequence's tenant has room for one more participant beside those placed (R320). -/
def roomFor (s : State) (mine : List Nat) (q : Seq) : Bool :=
  let t := s.tenant q.tenant
  decide (8 * (mine.count q.tenant + 1) ≤ ringFree t.oqBase t.oqE t.oqH)

/-- Places the eligible sequences: positions used, segments used and participants of a tenant grow along the list. A
prompt is not placed while its output ring lacks room for one more participant (R320). -/
def placeParts (s : State) (pos seg : Nat) (mine : List Nat) : List (Nat × Seq) → Parts
  | [] => []
  | (n, q) :: r =>
    if q.eff = 3 then (n, q, .dec q.depth) :: placeParts s pos seg (q.tenant :: mine) r
    else
      let k := prePositions s pos seg q
      if k = 0 ∨ !roomFor s mine q then placeParts s pos seg mine r
      else
        (n, q, .pre pos k seg (k == q.pending.length)) :: placeParts s (pos + k) (seg + 1) (q.tenant :: mine) r

/-! ### The dealer (R301-R306) -/

/-- One quantum. -/
structure Quantum where
  slot : Nat
  head : Nat
  /-- prefix entry -/
  pre : Bool
  /-- ordinal of a prefix entry, or chunk -/
  ord : Nat
  /-- prefix entry, or chunk -/
  idx : Nat
  valid : Nat
  cost : Nat
  field : Nat
deriving DecidableEq, Repr

/-- Query positions of a part. -/
def Part.positions : Part → Nat
  | .dec d => 1 + d
  | .pre _ cnt _ _ => cnt

/-- Quanta of one participant (R301). -/
def quantaOf (s : State) (n : Nat) (q : Seq) (pt : Part) : List Quantum :=
  let a := s.kv.app
  let h := cfgHeads a.cfg
  let f := cfgFields a.cfg
  let c := cfgChunk a.cfg
  let mul := pt.positions
  let heads := List.range h
  let chain := (q.chain.zipIdx).flatMap fun (g, k) =>
    let v := min 64 (q.kvTok - 64 * k)
    if v = 0 then [] else heads.map fun hd =>
      { slot := n, head := hd, pre := true, ord := k, idx := g, valid := v, cost := v * mul, field := (g * h + hd) % f : Quantum }
  let base := regionSlab a q.cls q.region
  let chunks := (List.range (cdivN q.regionTok c)).flatMap fun i =>
    let v := min c (q.regionTok - c * i)
    heads.map fun hd =>
      { slot := n, head := hd, pre := false, ord := i, idx := i, valid := v, cost := v * mul,
        field := (base + i * h + hd) % f : Quantum }
  chain ++ chunks

/-- Order of dealing (R302): x before y. -/
def Quantum.before (x y : Quantum) : Bool :=
  if x.cost ≠ y.cost then decide (y.cost < x.cost)
  else if x.slot ≠ y.slot then decide (x.slot < y.slot)
  else if x.pre ≠ y.pre then x.pre
  else if x.ord ≠ y.ord then decide (x.ord < y.ord)
  else decide (x.head < y.head)

def insertQ (x : Quantum) : List Quantum → List Quantum
  | [] => [x]
  | y :: r => if Quantum.before y x then y :: insertQ x r else x :: y :: r

def sortQ (l : List Quantum) : List Quantum := l.foldr insertQ []

/-- Lane of the lowest assigned cost, the lowest number on a tie. -/
def lowLane (lanes : Nat) (cost : Table Nat) : Nat :=
  (List.range lanes).foldl (fun b i => if tget 0 cost i < tget 0 cost b then i else b) 0

/-- Assigns quanta in order; answers (lane, quantum) in order of assignment and the lanes' costs. -/
def assign (lanes : Nat) (cost : Table Nat) : List Quantum → List (Nat × Quantum) × Table Nat
  | [] => ([], cost)
  | x :: r =>
    let l := lowLane lanes cost
    let (rest, c) := assign lanes (tmod 0 cost l (· + x.cost)) r
    ((l, x) :: rest, c)

/-- A work entry (R305). -/
def workEntry (x : Quantum) : List Byte :=
  leBytes 8 (x.slot * 2 ^ 56 + x.head * 2 ^ 50 + b2n x.pre * 2 ^ 49 + x.idx * 2 ^ 29 + (x.valid - 1) * 2 ^ 19 +
    (if x.pre then x.ord * 2 ^ 5 else 0))

/-- Lane table and work entries of one field from its assignment (R305). -/
def laneBytes (lanes : Nat) (asg : List (Nat × Quantum)) (cost : Table Nat) : List Byte × List Byte :=
  let per := (List.range lanes).map fun l => (asg.filter fun e => e.1 == l).map (·.2)
  let firsts := (List.range lanes).map fun l => ((per.take l).map List.length).sum
  let tab := (per.zip firsts).zipIdx.flatMap fun ((ws, f0), l) =>
    leBytes 8 (f0 + ws.length * 2 ^ 16 + min (2 ^ 32 - 1) (tget 0 cost l) * 2 ^ 32)
  (tab, per.flatMap fun ws => ws.flatMap workEntry)

/-- Quanta homed in a field. -/
def fieldQuanta (l : List Quantum) (f : Nat) : List Quantum := l.filter fun x => x.field == f

/-- A field has more than 13,824 quanta (R306). -/
def overfull (s : State) (l : List Quantum) : Bool :=
  (List.range (cfgFields s.kv.app.cfg)).any fun f => decide (13824 < (fieldQuanta l f).length)

/-! ### The hub area (R303, R304, R329) -/

/-- A slot entry of the batch descriptor. -/
def slotEntry (q : Seq) (pt : Part) : List Byte :=
  let gr := pbGreedy q.pb
  let (fl, d, seg, pos, cnt) := match pt with
    | .dec d => (1, d, 0, 0, 0)
    | .pre first cnt seg _ => (2, 0, seg, first, cnt)
  leBytes 1 (fl + 4 * b2n gr) ++ leBytes 1 d ++ leBytes 1 seg ++ leBytes 1 0 ++
  leBytes 4 q.kvTok ++ leBytes 4 q.lastTok ++ leBytes 4 (if gr then 0x3F800000 else (pbTemp q.pb).toNat) ++
  leBytes 2 (q.adp.getD 0xFFFF) ++ leBytes 2 q.tenant ++ leBytes 2 pos ++ leBytes 2 cnt

/-- Prefill entries of one segment. -/
def prefillEntries (n : Nat) (q : Seq) (cnt seg : Nat) (last : Bool) : List Byte :=
  ((q.pending.take cnt).zipIdx).flatMap fun (tok, i) =>
    leBytes 2 n ++ leBytes 1 seg ++ leBytes 1 (b2n (last && i + 1 == cnt)) ++ leBytes 4 (q.committed + i) ++
      leBytes 4 tok ++ leBytes 4 0

/-- A slot table entry (R304); the part is none for a slot that takes no part. -/
def slotTable (s : State) (q : Seq) (pt : Option Part) : List Byte :=
  let a := s.kv.app
  let reg := slabAddr a 0 (regionSlab a q.cls q.region)
  let fills : List (Nat × Nat) := match pt with
    | some (.pre _ cnt _ _) => (q.chain.zipIdx.filter fun e =>
        decide (q.committed < 64 * (e.2 + 1) ∧ 64 * e.2 < q.committed + cnt))
    | _ => []
  leBytes 8 (b2n pt.isSome * 2 ^ 63 + reg % 2 ^ 44) ++ leBytes 4 q.regionTok ++ leBytes 4 q.chainTok ++
  leBytes 4 ((fills.map (·.2)).headD 0) ++ leBytes 1 fills.length ++ leBytes 3 0 ++ fills.flatMap fun (g, _) => leBytes 4 g

/-- The runs of the hub area every used cluster receives, as (offset, bytes). -/
def commonRuns (s : State) (ps : Parts) : List (Nat × List Byte) :=
  let ndec := (ps.filter fun p => match p.2.2 with | .dec _ => true | _ => false).length
  let npos := (ps.map fun p => match p.2.2 with | .dec _ => 0 | .pre _ c _ _ => c).sum
  let head := leBytes 8 s.hub.stepNo ++ leBytes 2 ndec ++ leBytes 2 npos ++ leBytes 2 (ps.length - ndec)
  let pres := ps.flatMap fun (n, q, pt) => match pt with
    | .pre _ c seg last => prefillEntries n q c seg last
    | .dec _ => []
  (0, head) :: (ps.map fun (n, q, pt) => (0x40 + 64 * n, slotEntry q pt)) ++
  ((0x4040, pres) :: (List.range (512 - npos)).map fun i => (0x4040 + 16 * (npos + i), leBytes 2 0xFFFF)) ++
  (seqsIn s fun q => q.st != 0 && q.hasRegion).map fun (n, q) =>
    (0x20000 + 64 * n, slotTable s q ((ps.find? fun p => p.1 == n).map fun p => p.2.2))

/-- The runs of one field. -/
def fieldRuns (s : State) (l : List Quantum) (f : Nat) : List (Nat × List Byte) :=
  let lanes := cfgLanes s.kv.app.cfg
  let (asg, cost) := assign lanes [] (sortQ (fieldQuanta l f))
  let (tab, work) := laneBytes lanes asg cost
  [(0x24000, tab), (0x25000, work)]

/-- Writes the hub area of one cluster: the runs, 0 elsewhere. -/
def writeHub (s : State) (pcl : Nat) (runs : List (Nat × List Byte)) : State :=
  let base := cmAddr pcl (progOf s).hubOff
  let m0 := mclear s.plane.sram base (base + 0x40000)
  let m1 := runs.foldl (fun m r => mwrite m (base + r.1) r.2) m0
  sramClean { s with plane := { s.plane with sram := m1 } } base 0x40000

/-- Writes the hub areas of every used cluster. -/
def writeDescriptor (s : State) (ps : Parts) (l : List Quantum) : State :=
  let common := commonRuns s ps
  (List.range (progOf s).fFields).foldl (fun s f =>
    match pfieldOf s f with
    | none => s
    | some pf =>
      let runs := common ++ fieldRuns s l f
      (List.range 12).foldl (fun s cl => writeHub s (12 * pf + cl) runs) s) s

/-- Marks a participant: admitting becomes prefilling, and a dealer hold is released. -/
def markPart (s : State) (n : Nat) (pt : Part) : State :=
  let s1 := releaseHold s n
  s1.modSlot n fun q =>
    match pt with
    | .dec _ => { q with decodes := true, pfCnt := 0 }
    | .pre first cnt seg _ => { q with decodes := false, pfFirst := first, pfCnt := cnt, seg := seg, st := 2 }

/-- Holds the most recently admitted participants until every field's quanta fit, then writes the descriptor (R306). -/
def planFrom : Nat → State → List (Nat × Seq) → State
  | 0, s, _ => s
  | fuel + 1, s, el =>
    let ps := placeParts s 0 0 [] el
    let qs := ps.flatMap fun (n, q, pt) => quantaOf s n q pt
    if overfull s qs then
      match ps.getLast? with
      | none => s
      | some (n, q, _) =>
        let s1 := if q.st = 1 then s else holdSeq s n 4
        planFrom fuel s1 (el.filter fun e => e.1 != n)
    else
      let s1 := ps.foldl (fun s p => markPart s p.1 p.2.2) (writeDescriptor s ps qs)
      { s1 with hub := { s1.hub with stepNo := s1.hub.stepNo + 1 } }

/-- Step 6 of a boundary. -/
def planStep (s : State) : State := planFrom 257 s (eligible s)

end Sys2Proof.Machine
end

