-- ==== Sys2Proof/Machine/Snowpack.lean ====
section
/-! DEFINITION. Snowpack: park records, the ends of park and restore copies, retries and expiry (R341-R347, R462). -/

namespace Sys2Proof.Machine

open Sys2Proof

/-! ### The record (R342, R343) -/

/-- "ILX-SNP" -/
def snpLabel : List Byte := [0x49, 0x4C, 0x58, 0x2D, 0x53, 0x4E, 0x50]

def tepochOf (s : State) (t : Nat) : BitVec 32 := tget 0 s.sec.tepoch t

/-- Snowpack key of a tenant (R462). -/
def snpKey (s : State) (t : Nat) : List Byte :=
  (hmac512 (leBytes 32 s.fuses.dus.toNat)
    (snpLabel ++ leBytes 4 s.sec.oepoch.toNat ++ leBytes 2 t ++ leBytes 4 (tepochOf s t).toNat)).take 32

/-- The 512-byte header. -/
def snpHeader (s : State) (q : Seq) (expiry : Nat) (modelId instDig : List Byte) : List Byte :=
  [0x49, 0x4C, 0x58, 0x53] ++ leBytes 2 1 ++ leBytes 2 q.tenant ++ leBytes 8 q.tag.toNat ++ leBytes 8 q.parkId.toNat ++
  leBytes 8 expiry ++ leBytes 4 q.committed ++ leBytes 4 q.chain.length ++ leBytes 1 q.cls ++
  leBytes 1 (cfgHeads s.kv.app.cfg) ++ leBytes 1 (sigmaOf s.kv.app.cfg 0) ++ leBytes 1 (sigmaOf s.kv.app.cfg 1) ++
  leBytes 4 0 ++ leBytes 4 (dataExtents s q) ++ leBytes 4 q.pending.length ++ leBytes 8 0 ++
  (List.range 64).map (byteAt instDig) ++ (List.range 16).map (byteAt modelId) ++ List.replicate 368 0

/-- The 512-byte state record: the items R342 lists, one after another (log 34). -/
def snpState (q : Seq) : List Byte :=
  let l := (List.range 256).map (byteAt q.pb) ++ leBytes 1 q.depth ++ leBytes 1 q.z ++ leBytes 4 q.gen ++
    leBytes 4 (q.committed - q.gen) ++ leBytes 4 q.lastTok ++ leBytes 4 (q.committed - 1) ++ leBytes 8 q.adpId.toNat ++
    leBytes 2 q.adpGen ++ leBytes 1 (b2n q.keep + 2 * b2n q.stopEmpty)
  l ++ List.replicate (512 - l.length) 0

/-- Bytes of a slab of an area. -/
def slabRead (s : State) (area slab : Nat) : List Byte :=
  kvBlocksRead s area (slabAddr s.kv.app area slab) (sigmaOf s.kv.app.cfg area * cfgG s.kv.app.cfg)

/-- Slabs of the record's parts 5 and 6, as (area, slab). -/
def snpSlabs (s : State) (q : Seq) : List (Nat × Nat) :=
  let h := cfgHeads s.kv.app.cfg
  let base := regionSlab s.kv.app q.cls q.region
  (q.chain.flatMap fun g => (List.range h).map fun i => (1, g * h + i)) ++
  (List.range (cdivN q.regionTok (cfgChunk s.kv.app.cfg) * h)).map fun i => (0, base + i)

/-- Parts 5 and 6. -/
def snpData (s : State) (q : Seq) : List Byte := (snpSlabs s q).flatMap fun (a, x) => slabRead s a x

/-- Runs of cluster memory under the slabs of the record on ILX2 (R288). -/
def snpRuns (s : State) (q : Seq) : List (Nat × Nat) :=
  (snpSlabs s q).flatMap fun (a, x) =>
    (List.range (sigmaOf s.kv.app.cfg a * cfgG s.kv.app.cfg)).filterMap fun i =>
      (kvPort s a (slabAddr s.kv.app a x + 16384 * i)).map fun (pcl, _, o) => (poolAddr s pcl o, 16384)

/-- Bytes of message i: extent 0 begins with the header, which is plain (R343). -/
def extentLen (i : Nat) : Nat := if i = 0 then 2 ^ 20 - 512 else 2 ^ 20

/-- IV of message i: the park id and i (R343). -/
def snpIv (parkId : BitVec 64) (i : Nat) : List Byte := leBytes 8 parkId.toNat ++ leBytes 4 i

/-- The GCM messages of the data extents from i on, with the header as additional data: ciphertexts and tags (R343). -/
def snpSeal (key header : List Byte) (parkId : BitVec 64) (plain : List Byte) : Nat → Nat → List Byte × List Byte
  | _, 0 => ([], [])
  | i, n + 1 =>
    let (c, t) := aesGcm key (snpIv parkId i) header (plain.take (extentLen i))
    let (c2, t2) := snpSeal key header parkId (plain.drop (extentLen i)) (i + 1) n
    (c ++ c2, t ++ t2)

/-- The plaintext of the data extents from i on, when every extent's tag is right (R345). -/
def snpOpen (key header : List Byte) (parkId : BitVec 64) (ct tags : List Byte) : Nat → Nat → Option (List Byte)
  | _, 0 => some []
  | i, n + 1 =>
    match aesGcmOpen key (snpIv parkId i) header (ct.take (extentLen i)) (tags.take 16) with
    | none => none
    | some p => (snpOpen key header parkId (ct.drop (extentLen i)) (tags.drop 16) (i + 1) n).map (p ++ ·)

/-- An RDMA WRITE of a queue pair. -/
def rdmaWrite (s : State) (tgt : BitVec 64) (qp addr : Nat) (d : List Byte) : State :=
  if d.isEmpty then s
  else (s.qpSent qp d.length).emit (.fabric qp 0 (leBytes 8 addr ++ leBytes 4 (bits tgt.toNat 31 0) ++ d))

/-- The part of a run at offset `at0` of a record that lies in bytes lo to hi - 1 of it. -/
def runPart (at0 lo hi : Nat) (d : List Byte) : Nat × List Byte :=
  (max lo at0, (d.take (hi - at0)).drop (lo - at0))

/-- A run of a record on the fabric: what earlier queue pairs carried, acknowledged MiB by MiB, and the rest on the present
one (R369). -/
def fabWrite (s : State) (tgt : BitVec 64) (parts : List (Nat × Nat × Nat)) (qp start base at0 : Nat) (d : List Byte) : State :=
  let put (s : State) (qp lo hi : Nat) : State :=
    let (o, x) := runPart at0 lo hi d
    rdmaWrite s tgt qp (base + o) x
  put (parts.foldl (fun s p => put s p.1 (p.2.1 * 2 ^ 20) (p.2.2 * 2 ^ 20)) s) qp (start * 2 ^ 20) (at0 + d.length)

/-- A write of snowpack data at offset `at0` of the record of the park in slot n: RDMA writes of its queue pairs; the staging
region where the decoder maps the run (R363); else host memory. -/
def snpWrite (s : State) (tgt : BitVec 64) (n base at0 : Nat) (d : List Byte) : State :=
  if bit tgt.toNat 62 then
    let o := fabOp s 0 n (bits tgt.toNat 55 32)
    fabWrite s tgt o.parts o.qp o.start base at0 d
  else
    match decoderOff s (base + at0) d.length with
    | some o => hdmWrite s o d []
    | none => s.emit (.hostWrite (BitVec.ofNat 64 (base + at0)) d)

/-- Host address of an extent of a target's area. -/
def extentAddr (base : BitVec 64) (e : Nat) : Nat := base.toNat / 2 ^ 20 * 2 ^ 20 + e * 2 ^ 20

/-! ### The end of a park copy (R344, R347) -/

/-- The copy is complete: the record is written and indexed, and the sequence gives up its slot. -/
def parkDone (s : State) (n : Nat) : State :=
  let q := s.slot n
  let p := s.ldr.lastProg.getD {}
  let expiry := s.now + bits q.parkC.toNat 63 32 * 1000000
  let header := snpHeader s q expiry p.modelId p.instDig
  let plain := snpState q ++ q.pending.flatMap (leBytes 4) ++ q.hashes.flatMap (fun h => leBytes 8 h.toNat) ++ snpData s q
  let dext := dataExtents s q
  let (ct, tags) := snpSeal (snpKey s q.tenant) header q.parkId plain 0 dext
  let base := extentAddr q.parkB q.parkExt
  let s1 := snpWrite s q.parkA n base 0 (header ++ ct)
  let s2 := snpWrite s1 q.parkA n base (dext * 2 ^ 20) tags
  let rec' : ParkRec :=
    { tenant := q.tenant, tag := q.tag, parkId := q.parkId, expiry := expiry, ext := q.parkExt, next := q.parkN, dext := dext,
      seq := { q with st := 6, attempts := 0, chain := [], adp := none, hasRegion := false, reason := 0 }
      epoch := (tepochOf s q.tenant).toNat, oepoch := s.sec.oepoch.toNat,
      tgt := q.parkA, base := q.parkB }
  let s3 := seqEvent s2 n 6 q.reason q.parkN
  freeSlot { s3 with hub := { s3.hub with parked := s3.hub.parked ++ [rec'] } } n

/-- A KV line that a park or restore copy could not read: recorded with code 5h, and the sequence faults at once with
reason 1 (R309, R347). -/
def copyLine (s : State) (n line : Nat) : State :=
  faultSeq (lineFault s line (some (5, n, some (s.slot n).tenant))) n 1

/-- The copy reads the record's slabs. On ILX2 they lie in cluster memory: single-bit errors are corrected and counted; a
double-bit error raises its squall, and the sequence whose line cannot be read faults (R96, R288, R347; log 110). -/
def parkRead (s : State) (n : Nat) : State :=
  if gradeKv s = 0 then
    match sramReadAll s .M 0 (snpRuns s (s.slot n)) with
    | (some _, s1) => parkDone s1 n
    | (none, s1) => freeEnded (faultSeq s1 n 1)
  else parkDone s n

/-- PARK_COMPLETE (R216, R281, R321, R344, R347): in Run and Breeze, the end of the copy whose park id the sequence in the
slot holds; the end of an earlier copy is late. -/
def execParkComplete (slot : Nat) (copy : ParkCopy) (s : State) : Res :=
  if s.pwr.state < 4 then .next s
  else if (s.slot slot).st ≠ 5 ∨ (s.slot slot).parkId ≠ copy.id then .next (lateDone s copy.fab)
  else
    match copy.res with
    | .ok => .next (parkRead (kvCorrected s copy.corr) slot)
    | .transport => .next (freeEnded (parkFail s slot 2))
    | .kvLine line => .next (freeEnded (copyLine s slot line))

/-- PARK_RETRY (R347): 1 s after a failed attempt. -/
def execParkRetry (slot : Nat) (s : State) : Res :=
  let q := s.slot slot
  match q.retryAt with
  | some t => if q.st = 4 ∧ t ≤ s.now then .next (freeEnded (beginPark s slot q.reason)) else .next s
  | none => .next s

/-- The hub parks every live sequence at its next boundary (R344). -/
def askParkAll (s : State) : State :=
  { s with hub := { s.hub with parkAll := s.hub.parkAll || s.hub.slots.any fun e => e.2.live } }

/-- PARK_ALL (R344): a write of SRV_CTRL.park_all. -/
def execParkAll (s : State) : Res := .next (askParkAll s)

/-! ### The end of a restore copy (R345) -/

/-- The restore fails and the sequence is parked again. -/
def restoreFail (s : State) (n why : Nat) : State :=
  let s1 := seqEvent { s with hub := { s.hub with restFail := satAdd 65535 s.hub.restFail 1 } } n 9 why 0
  freeSlot s1 n

/-- The sequence ends as faulted and its record is freed. -/
def restoreEnd (s : State) (n reason : Nat) : State :=
  let id := (s.slot n).parkId
  freeEnded (dropRec (faultSeq s n reason) id)

/-- The chain of a restore: a reference on each ready match, a new entry for every other granule; none when an
allocation fails. -/
def restoreChain (s : State) (scope : Nat) : Option Nat → List (BitVec 64) → Option (List Nat × State)
  | _, [] => some ([], s)
  | par, h :: r =>
    match pfxFind s 2 h scope par with
    | some g => (restoreChain (pfxRef s g) scope (some g) r).map fun (l, s2) => (g :: l, s2)
    | none =>
      match pfxAlloc s with
      | none => none
      | some g =>
        let s1 := s.setPfx g { st := 2, hash := h, parent := par, scope := scope, refs := 1, tick := s.now }
        (restoreChain s1 scope (some g) r).map fun (l, s2) => (g :: l, s2)

/-- Writes the slabs of parts 5 and 6; a slab of a matched entry is skipped. -/
def writeSlabs (s : State) (keep : List Nat) (d : List Byte) : List (Nat × Nat) → State
  | [] => s
  | (a, x) :: r =>
    let z := sigmaOf s.kv.app.cfg a * cfgG s.kv.app.cfg
    let w := z * 16384
    let s1 := if a = 1 ∧ keep.contains (x / cfgHeads s.kv.app.cfg) then s
      else kvBlocksWrite s a (slabAddr s.kv.app a x) (d.take w) z
    writeSlabs s1 keep (d.drop w) r

/-- The adapter slot a restored sequence pins and whether its generation is another one; none: absent. -/
def restoreAdp (s : State) (q : Seq) : Option (Option Nat × Bool) :=
  if q.adpId = 0 then some (none, false)
  else
    match s.hub.adps.find? fun e => e.2.st == 2 && e.2.tenant == q.tenant && e.2.id == q.adpId && e.2.gen == q.adpGen with
    | some (k, _) => some (some k, false)
    | none => (newestAdp s q.tenant q.adpId).map fun k => (some k, true)

/-- d_max of a sequence under the running program (R325). -/
def dmaxOf (s : State) (t : Nat) (pb : List Byte) : Nat :=
  min (pbDmax pb) (min (bits (s.tenant t).gPol.toNat 22 20) (progOf s).kMax)

/-- A continue's prompt appended to a sequence (R317, R342): the last generated token, not yet computed, leads it. -/
def appendPrompt (q : Seq) (toks : List Nat) : Seq :=
  let q1 : Seq := if q.pending.isEmpty then { q with pending := q.lastTok :: toks, committed := q.committed - 1 }
    else { q with pending := q.pending ++ toks }
  { q1 with gen := 0, genTok := [], depth := min 1 q.dmax, z := 0 }

/-- Decoding sequences. -/
def decodingCount (s : State) : Nat := (s.hub.slots.filter fun e => e.2.st == 3).length

/-- A restored sequence that would make more than S decode is held at once with reason 3 (R29, R326; log 111). -/
def capDecoding (s : State) (n : Nat) : State :=
  if s.running && (s.slot n).st == 3 && decide ((progOf s).sSlots < decodingCount s) then holdSeq s n 3 else s

/-- The restore of a record into slot n with everything checked; `data` holds its parts 5 and 6. -/
def restoreInto (s : State) (n : Nat) (r : ParkRec) (data : List Byte) (adp : Option Nat) (other : Bool) (chain : List Nat)
    (had : List Nat) : State :=
  let q := s.slot n
  let d := dmaxOf s r.tenant r.seq.pb
  let q1 : Seq := { r.seq with
    order := q.order, region := q.region, hasRegion := true, chain := chain, adp := adp, dmax := d,
    adpGen := (match adp with | some k => (s.adp k).gen | none => 0),
    depth := min r.seq.depth d, was := 0, reason := 0, retryAt := none, heldRun := 0, fault := 0, parkN := 0 }
  let s1 := writeSlabs (s.setSlot n q1) had data (snpSlabs s q1)
  let q2 := if q.contd then appendPrompt q1 q.newTok else q1
  let q3 : Seq := { q2 with st := if q2.pending.isEmpty then 3 else 2 }
  let s2 := seqEvent (s1.setSlot n q3) n 7 (b2n other) r.seq.committed
  capDecoding (dropRec s2 r.parkId) n

/-- Bytes of parts 1 to 6 of a parked record. -/
def recLen (s : State) (r : ParkRec) : Nat := recBytes s { r.seq with chain := List.replicate r.seq.hashes.length 0 }

/-- The header as read names the record of the index: tenant, tag and park id (R345). -/
def headerOf (r : ParkRec) (h : List Byte) : Bool :=
  leAt h 6 2 == r.tenant && leAt h 8 8 == r.tag.toNat && leAt h 16 8 == r.parkId.toNat

/-- The plaintext of a record, parts 2 to 6, when every extent's tag and the header are right under the tenant's present key
(R343, R345, R462). -/
def recOpen (s : State) (r : ParkRec) (body tags : List Byte) : Option (List Byte) :=
  let h := body.take 512
  if r.epoch ≠ (tepochOf s r.tenant).toNat ∨ r.oepoch ≠ s.sec.oepoch.toNat ∨ !headerOf r h then none
  else snpOpen (snpKey s r.tenant) h r.parkId (body.drop 512) tags 0 r.dext

/-- The checks of R345 in their order: tags and header, model binding, adapter, prefix allocation. -/
def restoreDone (s : State) (n : Nat) (r : ParkRec) (body tags : List Byte) : State :=
  let p := s.ldr.lastProg.getD {}
  match recOpen s r body tags with
  | none => restoreEnd s n 7
  | some plain =>
    if (List.range 16).map (byteAt (body.drop 128)) ≠ (List.range 16).map (byteAt p.modelId) ∨
        (List.range 64).map (byteAt (body.drop 64)) ≠ (List.range 64).map (byteAt p.instDig) then restoreFail s n 3
    else
      match restoreAdp s r.seq with
      | none => restoreFail s n 4
      | some (adp, other) =>
        let had := pfxMatch s r.seq.scope none r.seq.hashes
        match restoreChain s r.seq.scope none r.seq.hashes with
        | none => s
        | some (chain, s1) =>
          restoreInto s1 n r (plain.drop (512 + 4 * r.seq.pending.length + 8 * r.seq.hashes.length)) adp other chain had

/-- A run of a parked record as the hub reads it: the staging region where the decoder maps it (R363), else what the host or
the peer answers. -/
def recRead (s : State) (r : ParkRec) (at0 n : Nat) (d : List Byte) : List Byte :=
  if bit r.tgt.toNat 62 then d
  else (hubRead s (extentAddr r.base r.ext + at0) n (some d)).getD []

/-- RESTORE_COMPLETE (R216, R281, R321, R345, R347): in Run and Breeze, the end of the copy whose admission number the
sequence in the slot holds; the end of an earlier one is late. -/
def execRestoreComplete (slot : Nat) (copy : RestoreCopy) (s : State) : Res :=
  if s.pwr.state < 4 then .next s
  else if (s.slot slot).st ≠ 7 ∨ (s.slot slot).order ≠ copy.id then .next (lateDone s copy.fab)
  else
    match s.hub.parked.find? fun r => r.parkId == (s.slot slot).parkId with
    | none => .next s
    | some r =>
      match copy.res with
      | .ok =>
        let o := fabOp s 1 slot (bits r.tgt.toNat 55 32)
        let s1 := if bit r.tgt.toNat 62 then s.qpSent o.qp ((r.next - o.start) * 2 ^ 20) else s
        let len := recLen s r
        .next (restoreDone (kvCorrected s1 copy.corr) slot r (recRead s r 0 len copy.body)
          (recRead s r (r.dext * 2 ^ 20) (16 * r.dext) copy.tags))
      | .transport => .next (restoreFail s slot 2)
      | .kvLine line =>
        let s1 := lineFault s line (some (5, slot, some r.tenant))
        .next (restoreEnd s1 slot 1)

/-- SNOWPACK_OP_TIMEOUT (R215): a copy that exceeds 10 ms fails as a transport failure. -/
def execSnowpackOpTimeout (slot : Nat) (s : State) : Res :=
  if (s.slot slot).st = 5 then .next (freeEnded (parkFail s slot 2))
  else if (s.slot slot).st = 7 then .next (restoreFail s slot 2)
  else .next s

/-! ### Expiry (R346) -/

/-- An expired record is freed, with event 0Ah. -/
def expireRec (s : State) (r : ParkRec) : State :=
  let s1 : State := { s with hub := { s.hub with expired := satAdd (2 ^ 32 - 1) s.hub.expired 1 } }
  dropRec (tagEvent s1 r.tenant 10 0 0 r.tag) r.parkId

/-- A restore of the record is in progress. -/
def recBusy (s : State) (r : ParkRec) : Bool := s.hub.slots.any fun e => e.2.st == 7 && e.2.parkId == r.parkId

/-- SNOWPACK_EXPIRY (R346). -/
def execSnowpackExpiry (parkId : BitVec 64) (s : State) : Res :=
  match s.hub.parked.find? fun r => r.parkId == parkId with
  | none => .next s
  | some r => if r.expiry ≤ s.now ∧ !recBusy s r then .next (expireRec s r) else .next s

end Sys2Proof.Machine
end

