-- ==== Sys2Proof/Machine/Requests.lean ====
section
/-! DEFINITION. What the hub does on each request: controls, adapter uploads and releases, and the admission walk
(R316-R325, R337-R340, R345). -/

namespace Sys2Proof.Machine

open Sys2Proof

/-! ### Adapter uploads (R337, R338) -/

/-- A format fault of an adapter image. -/
def imageBad (m : List Byte) (count : Nat) : Bool :=
  let rank := (byteAt m 6).toNat
  !((m.take 4) == [0x49, 0x4C, 0x58, 0x41] && leAt m 4 2 == 1 && (rank == 8 || rank == 16 || rank == 32 || rank == 64) &&
    zeros m 7 8 && zeros m 32 64 && decide (128 ≤ m.length) && m.length == count && leAt m 8 8 + 128 == count)

/-- The next generation of a pair, with its record. -/
def nextGen (s : State) (t : Nat) (id : BitVec 64) : Nat × State :=
  let g := lastGen s t id % 65535 + 1
  (g, { s with hub := { s.hub with gens := (s.hub.gens.filter fun e => !(e.1 == t && e.2.1 == id)) ++ [(t, id, g)] } })

/-- An accepted upload takes the lowest free slot below quota, else it is deferred (event 0Dh). -/
def takeUpload (s : State) (t : Nat) (id : BitVec 64) (m : List Byte) : State :=
  let (g, s1) := nextGen s t id
  let u : Upload := { tenant := t, id := id, gen := g, modelId := (m.drop 16).take 16, body := m.drop 128 }
  let defer (s : State) (why : Nat) : State :=
    tagEvent { s with hub := { s.hub with uploads := s.hub.uploads ++ [u] } } t 13 why 0 id
  match adpFree s1 with
  | none => defer s1 1
  | some k =>
    if bits (s.tenant t).quota.toNat 6 0 ≤ adpHeld s1 t then defer s1 2
    else s1.setAdp k { st := 1, tenant := t, gen := g, id := id, modelId := u.modelId, body := u.body }

/-- Lines of the staging region that a read of n bytes at a host address finds uncorrectable (R309, R363). -/
def stageBad (s : State) (addr n : Nat) (bad : List Nat) : State :=
  match decoderOff s addr n with
  | some o => badLines s 3 ((hdmTouched s o n false).filter bad.contains)
  | none => s

/-- Address of an adapter image, and of the other things a request names. -/
def reqAddr (r : Req) : Nat := leAt r.entry 16 8

/-- An upload request: format of the entry, then of the image, its length, its digest; an unreadable image is refused
with reason 1 (R338, R349; log 35). The image is read from the staging region where the decoder maps it (R363). -/
def doUpload (s : State) (r : Req) : State :=
  let id := reqAdapter r.entry
  if reqFormatBad r.entry then reject s r.tenant 1 (reqTag r.entry)
  else if id = 0 then reject s r.tenant 5 (reqTag r.entry)
  else
    let s := stageBad s (reqAddr r) (reqCount r.entry) r.bad
    match hubRead s (reqAddr r) (reqCount r.entry) r.blk with
    | none => tagEvent s r.tenant 15 1 0 id
    | some m =>
      if imageBad m (reqCount r.entry) then tagEvent s r.tenant 15 1 0 id
      else if adpSlotBytes s < m.length - 128 then tagEvent s r.tenant 15 3 0 id
      else if sha512 (m.drop 128) ≠ (m.drop 64).take 64 then tagEvent s r.tenant 15 2 0 id
      else takeUpload s r.tenant id m

/-- A pair has a resident generation of a new upload: a release before it is over (R340). -/
def clearReleased (s : State) (t : Nat) (id : BitVec 64) : State :=
  { s with hub := { s.hub with released := s.hub.released.filter fun e => !(e.1 == t && e.2 == id) } }

/-- ADAPTER_LOAD_COMPLETE (R339): 0 the copy and its digest are complete; 1 transport failure; 2 digest failure. The
event of a failure gives reason 2 (log 35). -/
def execAdapterLoadComplete (slot res : Nat) (s : State) : Res :=
  let a := s.adp slot
  if a.st ≠ 1 ∨ a.done then .next s
  else if res = 0 then
    let s1 := kvWriteAll s 2 (slot * adpSlotBytes s) a.body
    .next (s1.setAdp slot { a with done := true, body := [] })
  else
    let s1 := (tagEvent s a.tenant 15 2 0 a.id).setAdp slot {}
    .next (placeUploads s1 s1.hub.uploads)

/-- Generations copied since the last boundary become resident (event 0Ch); older ones of the pair retire (R315, R339). -/
def adoptAdps (s : State) : State :=
  let s1 := (s.hub.adps.filter fun e => e.2.st == 1 && e.2.done).foldl (fun s e =>
    (clearReleased s e.2.tenant e.2.id).setAdp e.1 { e.2 with st := 2, done := false } |> fun s => tagEvent s e.2.tenant 12 0 e.2.gen e.2.id) s
  let old := s1.hub.adps.filter fun e => e.2.st == 2 && newestAdp s1 e.2.tenant e.2.id != some e.1
  sweepAdps (old.foldl (fun s e => s.setAdp e.1 { e.2 with st := 3 }) s1)

/-! ### Control requests (R315 step 2, R321, R322) -/

/-- A pause of the sequence in a slot. -/
def ctlPause (s : State) (r : Req) (n : Nat) : State :=
  let q := s.slot n
  let tag := reqTag r.entry
  if q.st ≠ 3 ∧ q.st ≠ 4 then reject s r.tenant 3 tag
  else if !snpOn s r.tenant then reject s r.tenant 9 tag
  else beginPark (ackDone s r.tenant 3 tag) n 1

/-- A cancel of a parked sequence. -/
def cancelRec (s : State) (p : ParkRec) : State :=
  dropRec (tagEvent s p.tenant 3 6 p.seq.gen p.tag) p.parkId

/-- An adapter release (R340). -/
def ctlRelease (s : State) (r : Req) : State :=
  let id := reqAdapter r.entry
  let t := r.tenant
  let tag := reqTag r.entry
  if id = 0 then reject s t 5 tag
  else if (newestAdp s t id).isNone && !adpComing s t id then reject s t 6 tag
  else
    let s1 := ackDone s t 7 tag
    let mine := s1.hub.adps.filter fun e => decide (1 ≤ e.2.st ∧ e.2.st ≤ 2) && e.2.tenant == t && e.2.id == id
    let s2 := mine.foldl (fun s e => s.setAdp e.1 { e.2 with st := 3, done := false, body := [] }) s1
    sweepAdps { s2 with hub := { s2.hub with
      uploads := s2.hub.uploads.filter fun u => !(u.tenant == t && u.id == id)
      released := (t, id) :: (clearReleased s2 t id).hub.released } }

/-- The control step on one request: the requests that stay for the walk or for a copy to end, and the state. A resume
or continue of a parked sequence is acknowledged here and taken by the walk. -/
def ctlOne (s : State) (r : Req) : List Req × State :=
  let e := r.entry
  let t := r.tenant
  let tag := reqTag e
  let c := reqCmd e
  if c = 1 ∨ c = 6 ∨ r.acked then ([r], s)
  else if reqFormatBad e then ([], reject s t 1 tag)
  else if c = 7 then ([], ctlRelease s r)
  else
    match slotOf s t tag with
    | some n =>
      let st := (s.slot n).st
      if (s.slot n).stopNow ∧ (c = 3 ∨ c = 5) then ([], reject s t 3 tag)
      else if (st = 5 ∨ st = 7) ∧ c ≠ 4 then ([r], s)
      else if c = 3 then ([], ctlPause s r n)
      else if c = 5 ∧ st < 8 then ([], finishSeq (ackDone s t 5 tag) n 6)
      else ([], reject s t 3 tag)
    | none =>
      match recOf s t tag with
      | none => ([], reject s t 2 tag)
      | some p =>
        if c = 5 then ([], cancelRec (ackDone s t 5 tag) p)
        else if c = 3 then ([], reject s t 3 tag)
        else if p.expiry ≤ s.now then ([], expireRec s p)
        else if c = 2 ∧ reqCount e = 0 then ([], reject s t 5 tag)
        else ([{ r with acked := true }], ackDone s t c tag)

/-- The control step over the queue, in arrival order. -/
def ctlList (s : State) : List Req → List Req × State
  | [] => ([], s)
  | r :: rest =>
    let (k, s1) := ctlOne s r
    let (ks, s2) := ctlList s1 rest
    (k ++ ks, s2)

/-- Step 2 of a boundary. A stop of its commit has preceded every request that arrived during the step (R322); from here on
a request that arrives finds the sequence parking. -/
def controls (s : State) : State :=
  let (q, s1) := ctlList s s.hub.queue
  { s1 with hub := { s1.hub with queue := q, slots := tmap {} (fun q => { q with stopNow := false }) s1.hub.slots } }

/-! ### The admission walk (R318, R323-R325) -/

/-- What the walk does with a request: it leaves the queue, its tenant is skipped, or the walk stops. -/
inductive Walk where
  | gone
  | skip
  | stop
deriving DecidableEq, Repr

/-- A host read of a request failed twice: rejected with reason 05h, and an owner event (R349). -/
def readFailed (s : State) (r : Req) (addr : Nat) : State :=
  ownerEvent (reject s r.tenant 5 (reqTag r.entry)) 11 0 r.tenant (BitVec.ofNat 64 addr)

/-- Lowest free slot. -/
def freeSlotNo (s : State) : Option Nat := (List.range 256).find? fun n => (s.slot n).st == 0

/-- Scope of a start (R296). -/
def scopeOf (s : State) (r : Req) : Nat := if reqFlag r.entry 0 && cfgShared s.kv.app.cfg then 0xFFFF else r.tenant

/-- Granules a prompt of T tokens may share: k with 64 (k + 1) ≤ T - 1. -/
def granules (t : Nat) : Nat := (t - 1) / 64

/-- A start's reasons for rejection, lowest code first; none: accepted. -/
def startReject (s : State) (r : Req) (p : List Byte) : Option Nat :=
  let e := r.entry
  let n := reqCount e
  let tag := reqTag e
  let cl := pbClass p
  let v := clsOf s.kv.app cl
  let id := pbAdapter p
  let badAdapter := id != 0 && (match newestAdp s r.tenant id with
    | some k => (s.adp k).modelId != (progOf s).modelId
    | none => adpReleased s r.tenant id || !adpComing s r.tenant id)
  if pbFormatBad p then some 1
  else if (slotOf s r.tenant tag).isSome || (recOf s r.tenant tag).isSome then some 2
  else if cl < 8 ∧ (clsMax v = 0 ∨ clsMax v ≤ n) then some 4
  else if pbRangeBad p n then some 5
  else if badAdapter then some 6
  else if (progOf s).pPos = 0 then some 7
  else if reqFlag e 0 && !cfgShared s.kv.app.cfg then some 8
  else if reqFlag e 1 && !snpOn s r.tenant then some 9
  else none

/-- The sequence a start admits to slot n, region g (R325, R298). -/
def admitReq (s : State) (r : Req) (p : List Byte) (toks : List Nat) (n g : Nat) : State :=
  let e := r.entry
  let t := r.tenant
  let pr := progOf s
  let scope := scopeOf s r
  let hs := granuleHashes scope pr.modelId pr.instDig (granules toks.length) 0 toks
  let m := pfxMatch s scope none hs
  let s1 := m.foldl pfxRef s
  let (more, s2) := pfxExtend s1 scope 1 m.getLast? (hs.drop m.length)
  let chain := m ++ more
  let dm := dmaxOf s t p
  let id := pbAdapter p
  let adp := if id = 0 then none else newestAdp s t id
  let q : Seq :=
    { st := 1, tenant := t, tag := reqTag e, order := s.hub.admitNo, pb := p, keep := reqFlag e 1, stopEmpty := reqFlag e 2,
      cls := pbClass p, region := g, hasRegion := true, chain := chain, hashes := hs.take chain.length, scope := scope,
      committed := 64 * m.length, pending := toks.drop (64 * m.length),
      lastTok := if m.isEmpty then 0 else toks.getD (64 * m.length - 1) 0,
      depth := min 1 dm, dmax := dm, adp := adp, adpId := id,
      adpGen := (match adp with | some k => (s.adp k).gen | none => 0) }
  let s3 := s2.setSlot n q
  seqEvent { s3 with hub := { s3.hub with admitNo := s3.hub.admitNo + 1 } } n 1 0 (64 * m.length)

/-- The next entry a chain of granule hashes needs is filling for another sequence (R324). -/
def fillsNext (s : State) (scope : Nat) (hs : List (BitVec 64)) : Bool :=
  let m := pfxMatch s scope none hs
  match (hs.drop m.length).head? with
  | some h => (pfxFind s 1 h scope m.getLast?).isSome
  | none => false

/-- A prefix entry the start needs is filling for another sequence (R324). -/
def waitsFill (s : State) (r : Req) (toks : List Nat) : Bool :=
  let pr := progOf s
  let scope := scopeOf s r
  fillsNext s scope (granuleHashes scope pr.modelId pr.instDig (granules toks.length) 0 toks)

/-- A start's parameter block as the hub reads it, and its prompt (R363). -/
def startBlock (s : State) (r : Req) : Option (List Byte) := hubRead s (reqAddr r) 256 r.blk
def startPrompt (s : State) (r : Req) (p : List Byte) : Option (List Byte) :=
  hubRead s (leAt p 40 8) (4 * reqCount r.entry) r.toks

/-- A continue's token list as the hub reads it (R363). -/
def contTokens (s : State) (r : Req) : Option (List Byte) := hubRead s (reqAddr r) (4 * reqCount r.entry) r.toks

/-- The walk on a start (R318, R324, R325): with a slot free. -/
def walkStart (s : State) (r : Req) (n : Nat) : Walk × State :=
  let e := r.entry
  if reqFormatBad e then (.gone, reject s r.tenant 1 (reqTag e))
  else
    match startBlock s r with
    | none => (.gone, readFailed s r (reqAddr r))
    | some p =>
      match startReject s r p with
      | some why => (.gone, reject s r.tenant why (reqTag e))
      | none =>
        match startPrompt s r p with
        | none => (.gone, readFailed s r (leAt p 40 8))
        | some d =>
          let toks := tokList d (reqCount e)
          let id := pbAdapter p
          match freeRegion s (pbClass p) with
          | none => (.skip, s)
          | some g =>
            if (s.tenant r.tenant).level ≤ 0 then (.skip, s)
            else if id ≠ 0 ∧ (newestAdp s r.tenant id).isNone then (.skip, s)
            else if waitsFill s r toks then (.skip, s)
            else (.gone, admitReq s r p toks n g)

/-- The restore of a record begins (R325, R345): slot n, region g of its class. -/
def beginRestore (s : State) (p : ParkRec) (n g : Nat) (contd : Bool) (toks : List Nat) : State :=
  let q : Seq := { p.seq with st := 7, order := s.hub.admitNo, region := g, hasRegion := true, chain := [], hashes := [],
                              adp := none, contd := contd, newTok := toks, parkId := p.parkId }
  let s1 := s.setSlot n q
  ({ s1 with hub := { s1.hub with admitNo := s1.hub.admitNo + 1 } }).clearOp 1 n

/-- The walk on an acknowledged resume or continue, with a slot free. A continue whose tokens reach the class maximum is
rejected as a start is (log 36). -/
def walkRestore (s : State) (r : Req) (n : Nat) : Walk × State :=
  let e := r.entry
  let tag := reqTag e
  let cont := reqCmd e == 2
  match recOf s r.tenant tag with
  | none => (.gone, reject s r.tenant (if (slotOf s r.tenant tag).isSome then 3 else 2) tag)
  | some p =>
    if recBusy s p then (.gone, reject s r.tenant 3 tag)
    else if p.expiry ≤ s.now then (.gone, expireRec s p)
    else if cont && decide (maxLenOf s p.seq ≤ p.seq.committed + p.seq.pending.length + reqCount e) then
      (.gone, reject s r.tenant 4 tag)
    else if cont && (progOf s).pPos == 0 then (.gone, reject s r.tenant 7 tag)
    else
      match cont, contTokens s r with
      | true, none => (.gone, readFailed s r (reqAddr r))
      | c, d =>
        let toks := if c then tokList (d.getD []) (reqCount e) else []
        let id := p.seq.adpId
        match freeRegion s p.seq.cls with
        | none => (.skip, s)
        | some g =>
          if (s.tenant r.tenant).level ≤ 0 then (.skip, s)
          else if id ≠ 0 ∧ (newestAdp s r.tenant id).isNone ∧ adpComing s r.tenant id then (.skip, s)
          else if fillsNext s p.seq.scope p.seq.hashes then (.skip, s)
          else (.gone, beginRestore s p n g c toks)

/-- Host runs that the walk reads for a request (R318). -/
def reqReads (s : State) (r : Req) : List (Nat × Nat) :=
  if reqCmd r.entry = 1 then
    (reqAddr r, 256) ::
      (match startBlock s r with | some p => [(leAt p 40 8, 4 * reqCount r.entry)] | none => [])
  else if reqCmd r.entry = 2 then [(reqAddr r, 4 * reqCount r.entry)]
  else []

/-- The uncorrectable lines of the staging region that those reads meet are contained when the walk first considers the
request (R309, R318, R363). -/
def reqStage (s : State) (r : Req) : State :=
  if r.bad.isEmpty then s else (reqReads s r).foldl (fun s x => stageBad s x.1 x.2 r.bad) s

/-- The walk on one request; requests the control step has not acknowledged stay. It stops when no slot is free (R324). -/
def walkOne (s : State) (r : Req) : Walk × State :=
  match freeSlotNo s with
  | none => (.stop, s)
  | some n =>
    if s.hub.admitOff || s.host.linkHeld then (.stop, s)
    else if reqCmd r.entry = 1 then walkStart (reqStage s r) r n
    else if r.acked then walkRestore (reqStage s r) r n
    else (.skip, s)

/-- The walk over the queue: a skipped request keeps its place, and so does every later start, resume and continue of
its tenant. -/
def walkList (s : State) (skip : List Nat) : List Req → List Req × State
  | [] => ([], s)
  | r :: rest =>
    if !(reqCmd r.entry == 1 || r.acked) || skip.contains r.tenant then
      let (k, s1) := walkList s skip rest
      (r :: k, s1)
    else
      match walkOne s r with
      | (.gone, s1) => walkList s1 skip rest
      | (.skip, s1) =>
        let (k, s2) := walkList s1 (r.tenant :: skip) rest
        ({ r with bad := [] } :: k, s2)
      | (.stop, s1) => (r :: rest, s1)

def admissionWalk (s : State) : State :=
  let (q, s1) := walkList s [] s.hub.queue
  { s1 with hub := { s1.hub with queue := q } }

/-! ### The request rows -/

/-- A request as the hub holds it, from the operands of a request row. -/
def reqOf (t : Nat) (r : HostReq) : Req := { tenant := t, entry := r.entry, blk := r.blk, toks := r.toks, bad := r.bad }

/-- Position of a new request: after every request of an earlier tick, and of a lower rank in its own tick. -/
def insertReq (x : Req) : List Req → List Req
  | [] => [x]
  | y :: r => if y.tick < x.tick ∨ (y.tick = x.tick ∧ y.rank ≤ x.rank) then y :: insertReq x r else x :: y :: r

/-- A request stamped with its arrival tick takes its place in the order of R323. The hub acts on it at the next boundary
(R315). -/
def takeReq (s : State) (r : Req) : State :=
  let t := r.tenant
  let x : Req := { r with tick := s.now, rank := (t + 256 - s.hub.ptr) % 256 }
  { s with hub := { s.hub with
      queue := insertReq x s.hub.queue, fresh := if s.hub.fresh.contains t then s.hub.fresh else s.hub.fresh ++ [t] } }

/-- The entry of a request row: 64 bytes, with the row's own command in byte 0. -/
def rowEntry (cmd : Nat) (e : List Byte) : List Byte := leBytes 1 cmd ++ (List.range 63).map fun i => byteAt e (i + 1)

/-- A request row: a request of an enabled tenant with the row's own command arrives. -/
def reqRow (cmd t : Nat) (r : HostReq) (act : Req → State) (s : State) : Res :=
  .next (if tenantEnabled s t then act (reqOf t { r with entry := rowEntry cmd r.entry }) else s)

/-- START (R315, R317, R323): the start takes its place in the order of arrival; the admission walk of the next boundary acts
on it (`walkStart`). -/
def execStartReq (t : Nat) (r : HostReq) (s : State) : Res := reqRow 1 t r (takeReq s) s

/-- CONTINUE (R315, R317, R323): acted on at the next boundary (`ctlOne`, then `walkRestore`). -/
def execContinueReq (t : Nat) (r : HostReq) (s : State) : Res := reqRow 2 t r (takeReq s) s

/-- PAUSE (R315, R323): acted on at the next boundary (`ctlOne`). -/
def execPauseReq (t : Nat) (r : HostReq) (s : State) : Res := reqRow 3 t r (takeReq s) s

/-- RESUME (R315, R323): acted on at the next boundary (`ctlOne`, then `walkRestore`). -/
def execResumeReq (t : Nat) (r : HostReq) (s : State) : Res := reqRow 4 t r (takeReq s) s

/-- CANCEL (R315, R323): acted on at the next boundary (`ctlOne`). -/
def execCancelReq (t : Nat) (r : HostReq) (s : State) : Res := reqRow 5 t r (takeReq s) s

/-- ADAPTER_UPLOAD (R338). -/
def execAdapterUpload (t : Nat) (r : HostReq) (s : State) : Res := reqRow 6 t r (doUpload s) s

/-- ADAPTER_RELEASE (R315, R340): acted on at the next boundary (`ctlRelease`). -/
def execAdapterRelease (t : Nat) (r : HostReq) (s : State) : Res := reqRow 7 t r (takeReq s) s

/-! ### Submission rings (R323, R355) -/

/-- One entry the hub reads at a host address: queued in the order of R323; an entry whose read failed twice is rejected, and
the owner event names its address (R349, R361). An entry in the range the decoder maps is read from the staging region
(R363). -/
def takeEntry (s : State) (t : Nat) (addr : BitVec 64) (h : HostReq) : State :=
  let s := stageBad s addr.toNat 64 h.bad
  match hubRead s addr.toNat 64 (if h.entry.length = 64 then some h.entry else none) with
  | some e => takeReq s (reqOf t { h with entry := e })
  | none => readFailed s { tenant := t } addr.toNat

/-- Reads n new entries of a submission ring, the i-th as the operand says. -/
def takeEntries (s : State) (t : Nat) (reads : List HostReq) (n : Nat) : State :=
  let k := s.tenant t
  (List.range n).foldl (fun s i => takeEntry s t (ringAddr k.sqBase (k.sqE + BitVec.ofNat 32 i) 64) (reads.getD i {})) s

/-- A write of a submission ring's host index: dropped while a drain runs, ignored and counted when it gives an
occupancy above the size, else kept; it wakes the engine when the tenant is enabled (R355, R359, R393). The entries are
read as their host reads answer, which SUBMISSION_DOORBELL carries (log 37). -/
def writeSqIndex (s : State) (t : Nat) (hidx : BitVec 32) : State :=
  let k := s.tenant t
  if k.draining then drainDrop s t
  else if ringSize k.sqBase < ringOcc hidx k.sqE then badIndex s t
  else
    let s1 := s.modTenant t fun k => { k with sqH := hidx }
    if tenantEnabled s t then wakeUp s1 else s1

/-- The hub reads the entries between its index and the host's. -/
def readRing (s : State) (t : Nat) (reads : List HostReq) : State :=
  let k := s.tenant t
  if !ringEn k.sqBase || !tenantEnabled s t || k.sqH == k.sqE then s
  else writeBack ((takeEntries s t reads (ringOcc k.sqH k.sqE)).modTenant t fun k => { k with sqE := k.sqH }) t

/-- SUBMISSION_DOORBELL (R323, R355, R359, R393), from either view. -/
def execSubmissionDoorbell (_owner : Bool) (t : Nat) (hidx : BitVec 32) (reads : List HostReq) (s : State) : Res :=
  .next (if t < 256 then readRing (writeSqIndex s t hidx) t reads else s)

/-- HOST_INDEX_WRITE (R355): only the owner reaches the owner ring. -/
def execHostIndexWrite (owner : Bool) (ring : RingId) (v : BitVec 32) (s : State) : Res :=
  if !ringOk ring || (!owner && ring == .owner) then .next s
  else
    match ring with
    | .sq t => .next (writeSqIndex s t v)
    | _ => .next (writeHostIndex s ring v)

/-- INTERRUPT_MODERATION (R357): the vector of a tenant's event (or output) ring is raised when it is due. -/
def execInterruptModeration (t : Nat) (tok : Bool) (s : State) : Res :=
  .next (if 256 ≤ t then s else if tok then raiseTok s t else raiseEvt s t)

end Sys2Proof.Machine
end

