-- ==== Sys2Proof/Machine/Boundary.lean ====
section
/-! DEFINITION. The step boundary and the hub's ticks: commit, holds, hold-limit parks, and the order of R315 (R310,
R314-R336). -/

namespace Sys2Proof.Machine

open Sys2Proof

/-! ### Commit (R315 step 1, R328-R336) -/

/-- Stop reason after an emitted token, 0 none (R336). -/
def stopReason (maxLen : Nat) (q : Seq) : Nat :=
  if maxLen ≤ q.committed then 4
  else if (pbStok q.pb).contains q.lastTok then 1
  else if (pbSseq q.pb).any (fun z => decide (z.reverse = q.genTok.take z.length)) then 2
  else if pbMaxTok q.pb ≤ q.gen then 3
  else 0

/-- Emits tokens until a stop: the sequence, the emitted (token, token number, first) and the stop reason. -/
def emitToks (maxLen : Nat) (q : Seq) : List Nat → Seq × List (Nat × Nat × Bool) × Nat
  | [] => (q, [], 0)
  | x :: r =>
    let q1 : Seq := { q with committed := q.committed + 1, gen := q.gen + 1, genTok := (x :: q.genTok).take 8, lastTok := x }
    let e := (x, q.committed, q.gen == 0)
    let why := stopReason maxLen q1
    if why = 0 then
      let (q2, l, w) := emitToks maxLen q1 r
      (q2, e :: l, w)
    else (q1, [e], why)

/-- Streams the emitted tokens: last on the last one, stop on one that ended the sequence (R319). -/
def streamToks (s : State) (q : Seq) (why : Nat) : List (Nat × Nat × Bool) → State
  | [] => s
  | (x, tn, first) :: r =>
    let last := r.isEmpty
    streamToks (sendToken s q.tenant (tokenBytes q.tag last (last && why != 0) first tn x)) q why r

/-- A commit's charge: applied whole, saturating at -2^39 (R328). -/
def charge (s : State) (t amount : Nat) : State :=
  s.modTenant t fun k => { k with level := max (-(2 : Int) ^ 39) (k.level - amount) }

/-- Complete block list of a position (R331). -/
def candOf (s : State) (n ord : Nat) : Option Cand :=
  s.hub.cands.find? fun c => c.slot == n && c.ord == ord && c.got == c.need

/-- Positions of a slot that need a token. -/
def wantedOrds (q : Seq) : Nat :=
  if q.decodes then q.depth + 1 else if q.pfCnt ≠ 0 ∧ q.pfCnt = q.pending.length then 1 else 0

/-- Filling entries of a chain whose 64th token is committed become ready (R297). -/
def readyChain (s : State) (q : Seq) : State :=
  (q.chain.zipIdx).foldl (fun s (g, k) =>
    let e := s.pfx g
    if e.st = 1 ∧ 64 * (k + 1) ≤ q.committed then s.setPfx g { e with st := 2 } else s) s

/-- Depth and counter of a decoding sequence after its commit with accepted count acc (R335). -/
def setDepth (s : State) (n : Nat) : Option Nat → State
  | none => s
  | some a => s.modSlot n fun q =>
      let (d, z) := nextDepth q.depth q.z a q.dmax
      { q with depth := d, z := z }

/-- After the commit of a sequence: depth, then finish or park. -/
def afterEmit (s : State) (n why : Nat) (acc : Option Nat) : State :=
  let s1 := setDepth s n acc
  if why = 0 then s1
  else if (s1.slot n).keep then
    beginPark ((seqEvent s1 n 3 why (s1.slot n).gen).modSlot n fun q => { q with stopNow := true }) n 3
  else finishSeq s1 n why

/-- Commit of the prefill positions of a slot; the last position of a prompt draws the first token. -/
def commitPrefill (s : State) (n : Nat) (q : Seq) (c : Option Cand) : State :=
  let cnt := q.pfCnt
  let cost := bits (s.tenant q.tenant).gPol.toNat 31 24 * cnt
  let q1 : Seq := { q with committed := q.committed + cnt, lastTok := (q.pending.take cnt).getLastD q.lastTok,
                           pending := q.pending.drop cnt }
  let s1 := readyChain (s.setSlot n q1) q1
  match c with
  | none => charge s1 q.tenant cost
  | some c =>
    let tok := sampleOf (pbKnobs q.pb) c q1.committed
    let (q2, l, why) := emitToks (maxLenOf s q) { q1 with st := 3 } [tok]
    let s2 := charge (streamToks (s1.setSlot n q2) q2 why l) q.tenant (cost + 16 * l.length)
    afterEmit s2 n why none

/-- Commit of the decode positions of a slot (R334). -/
def commitDecode (s : State) (n : Nat) (q : Seq) (cs : List Cand) : State :=
  let (toks, acc) := acceptFrom (pbKnobs q.pb) (q.committed - 1) 0 cs
  let (q2, l, why) := emitToks (maxLenOf s q) q toks
  let s2 := charge (streamToks (s.setSlot n q2) q2 why l) q.tenant (16 * l.length)
  afterEmit s2 n why (some acc)

/-- Commit of one slot: a recorded fault first, then its positions (R310, R322, R331). -/
def commitSlot (s : State) (n : Nat) : State :=
  let q := s.slot n
  if q.st = 0 ∨ 8 ≤ q.st then s
  else if q.fault ≠ 0 then
    if q.st = 7 then dropRec (faultSeq s n q.fault) q.parkId else faultSeq s n q.fault
  else if !q.decodes && q.pfCnt == 0 then s
  else
    let w := wantedOrds q
    let cs := (List.range w).map (candOf s n)
    let short := (cs.filter Option.isNone).length
    if short ≠ 0 then
      faultSeq { s with hub := { s.hub with dropShort := satAdd 65535 s.hub.dropShort short } } n 4
    else if q.decodes then commitDecode s n q (cs.filterMap id)
    else commitPrefill s n q (cs.filterMap id).head?

/-- No sequence takes part in a step any more, and no candidate is kept. -/
def clearStep (s : State) : State :=
  { s with hub := { s.hub with
      cands := [], slots := tmap {} (fun q => { q with decodes := false, pfCnt := 0 }) s.hub.slots } }

/-- Step 1: the commit, in slot order. -/
def commitAll (s : State) : State := clearStep ((s.hub.slots.map (·.1)).foldl commitSlot s)

/-- Recorded faults alone: the part of step 1 a boundary without a program has (R310). -/
def faultAll (s : State) : State :=
  (s.hub.slots.map (·.1)).foldl (fun s n => if (s.slot n).fault ≠ 0 then commitSlot s n else s) s

/-! ### Holds (R315 step 4, R320, R326, R327) -/

/-- Sequences the hold conditions apply to: prefilling, decoding or held from either, in order of admission. -/
def holdable (s : State) : List (Nat × Seq) :=
  sortOrder (seqsIn s fun q => (q.st == 2 || q.st == 3 || q.st == 4) && q.retryAt.isNone)

/-- Stop on empty gauge: of a prefilling or decoding sequence (R321, R326). -/
def budgetStops (s : State) : State :=
  (holdable s).foldl (fun s e =>
    if (e.2.st = 2 ∨ e.2.st = 3) ∧ (s.tenant e.2.tenant).level ≤ 0 ∧ e.2.stopEmpty then finishSeq s e.1 5 else s) s

/-- Sequences that a step may take, in order of admission: the holdable ones and, unless all are being parked, the
admitting ones. -/
def stepSeqs (s : State) : List (Nat × Seq) :=
  sortOrder (seqsIn s fun q => ((q.st == 1 && !s.hub.parkAll) || q.st == 2 || q.st == 3 || q.st == 4) && q.retryAt.isNone)

/-- Hold reason of one sequence, before R306: 0 none. `dec` counts the decoding sequences placed so far, `mine` the
participants so far of each tenant; `part`: it would take part. -/
def holdReason (s : State) (dec : Nat) (mine : List Nat) (part : Bool) (q : Seq) : Nat :=
  if (s.tenant q.tenant).level ≤ 0 ∧ !q.stopEmpty then 1
  else if s.host.linkHeld || (part && !roomFor s mine q) then 2
  else if q.eff = 3 ∧ (progOf s).sSlots ≤ dec then 3
  else if s.hub.parkAll && !snpOn s q.tenant then 3
  else 0

/-- Applies the conditions in order of admission, so that the latest are held. Positions, segments and output ring entries
are counted as step 6 will use them, the admitting sequences' with the others' (R320). A held sequence that no condition
holds any more is released; when its gauge is empty and it stops on that, it then finishes. -/
def holdList (s : State) (dec pos seg : Nat) (mine : List Nat) : List (Nat × Seq) → State
  | [] => s
  | (n, q) :: r =>
    let k := prePositions s pos seg q
    let part := q.eff == 3 || k != 0
    if q.st = 1 then
      if part && roomFor s mine q then holdList s dec (pos + k) (seg + 1) (q.tenant :: mine) r
      else holdList s dec pos seg mine r
    else
      let why := holdReason s dec mine part q
      if why ≠ 0 then holdList (holdSeq s n why) dec pos seg mine r
      else
        let s1 := if q.reason = 4 ∧ q.st = 4 then s else releaseHold s n
        if (s.tenant q.tenant).level ≤ 0 then holdList (if (s1.slot n).st = 4 then s1 else finishSeq s1 n 5) dec pos seg mine r
        else if q.eff = 3 then holdList s1 (dec + 1) pos seg (q.tenant :: mine) r
        else if part then holdList s1 dec (pos + k) (seg + 1) (q.tenant :: mine) r
        else holdList s1 dec pos seg mine r

/-- Without a program only the gauge and the link are looked at: other holds stand (log 38). -/
def holdIdle (s : State) : State :=
  (holdable s).foldl (fun s e =>
    if (s.tenant e.2.tenant).level ≤ 0 ∧ !e.2.stopEmpty then holdSeq s e.1 1
    else if s.host.linkHeld then holdSeq s e.1 2
    else if e.2.st = 4 ∧ e.2.reason = 1 then releaseHold s e.1
    else s) s

/-- Hold-limit parks (R327). -/
def limitParks (s : State) : State :=
  (holdable s).foldl (fun s e =>
    let q := s.slot e.1
    let ms := bits (s.tenant q.tenant).gPol.toNat 15 0
    if q.st = 4 ∧ ms ≠ 0 ∧ ms * 1000 < q.heldRun ∧ snpOn s q.tenant then beginPark s e.1 2 else s) s

/-- park_all: every live sequence with an enabled target parks; the others stay held (R344), but for admitting ones, which
no hold reaches (R321). The bit clears when none is live or parking. -/
def parkAllStep (s : State) : State :=
  if !s.hub.parkAll then s
  else
    let s1 := (seqsIn s fun q => decide (1 ≤ q.st ∧ q.st ≤ 4) && q.retryAt.isNone).foldl (fun s e =>
      if snpOn s e.2.tenant then beginPark s e.1 4 else if e.2.st = 1 then s else holdSeq s e.1 3) s
    if s1.hub.slots.any fun e => e.2.live then s1 else { s1 with hub := { s1.hub with parkAll := false } }

/-- Step 4. -/
def holdsStep (s : State) (prog : Bool) : State :=
  let s1 := budgetStops s
  parkAllStep (limitParks (if prog then holdList s1 0 0 0 [] (stepSeqs s1) else holdIdle s1))

/-! ### The boundary (R315) -/

/-- Every core that holds a role stands at a step front (R120, R121). -/
def atStepFront (s : State) : Bool :=
  s.plane.cores.any (fun e => e.2.role.isSome) &&
  s.plane.cores.all fun e => e.2.role.isNone || (match e.2.issue with | .front _ _ _ stp _ => stp | _ => false)

/-- The boundary of a running program. -/
def boundaryRun (s : State) : State :=
  let s1 := controls (commitAll s)
  let s2 := freeEnded (holdsStep (adoptAdps s1) true)
  let s3 := freeEnded (sweepAdps (planStep (admissionWalk s2)))
  { s3 with hub := { s3.hub with committedOk := true }, plane := { s3.plane with fLast := max s3.plane.fLast s3.cycle } }

/-- The boundary while no program runs: no commit, no walk, no descriptor. -/
def boundaryIdle (s : State) : State :=
  freeEnded (sweepAdps (holdsStep (adoptAdps (controls (faultAll s))) false))

/-- STEP_BOUNDARY (R315, R389): at a step front whose step is not yet committed, or every 1 ms while no program runs or the
engine is below Run. -/
def execStepBoundary (s : State) : Res :=
  if s.running && s.pwr.state == 5 then .next (if atStepFront s && !s.hub.committedOk then boundaryRun s else s)
  else .next (boundaryIdle s)

/-- The hub takes up every sequence at its last commit, with d_max of the program, and writes the next descriptor; no
request is acted on (R241, R315, R335; log 39). -/
def hubResume (s : State) : State :=
  let s1 := clearStep s
  let s2 : State := { s1 with hub := { s1.hub with
    committedOk := false,
    slots := tmap {} (fun q => { q with dmax := dmaxOf s q.tenant q.pb, depth := min q.depth (dmaxOf s q.tenant q.pb) })
      s1.hub.slots } }
  freeEnded (planStep (holdsStep s2 true))

/-- What the hub does at a program's start after a load: steps are numbered from 0 again (R329). -/
def hubStart (s : State) : State := hubResume { s with hub := { s.hub with stepNo := 0 } }

/-- The step in flight is discarded: every sequence stands at its last commit (R240). -/
def hubStop (s : State) : State := { clearStep s with hub := { (clearStep s).hub with committedOk := false } }

/-! ### Ticks (R314, R323, R328) -/

/-- Uploads are acted on as they arrive (log 35). -/
def doUploads (s : State) : State :=
  let up := s.hub.queue.filter fun r => reqCmd r.entry == 6
  let s1 : State := { s with hub := { s.hub with queue := s.hub.queue.filter fun r => reqCmd r.entry != 6 } }
  up.foldl doUpload s1

/-- What the hub does at a tick of engine time (R314, R323). -/
def hubTick (s : State) : State :=
  let p := if 1 < s.hub.fresh.length then (s.hub.ptr + 1) % 256 else s.hub.ptr
  let run := s.running && decide (s.pwr.state = 5)
  let slots := tmap {} (fun q => if run && q.st == 4 then { q with heldRun := q.heldRun + 1 } else q) s.hub.slots
  doUploads { s with hub := { s.hub with
    ptr := p, fresh := [], time := s.hub.time + 1, slots := slots,
    idleUs := if liveCount s != 0 || s.pwr.state != 5 then s.hub.time + 1 else s.hub.idleUs } }

/-- GAUGE_TICK (R328): refill up to the capacity. -/
def execGaugeTick (s : State) : Res :=
  if s.pwr.off then .next s
  else
    .next { s with tenants := tmap {} (fun k =>
      { k with level := min (bits k.gCfg.toNat 63 32 : Int) (k.level + (bits k.gCfg.toNat 31 0 : Int)) }) s.tenants }

end Sys2Proof.Machine
end

