-- ==== Sys2Proof/Machine/Fronts.lean ====
section
/-! DEFINITION. Fronts, front timeouts and the squall stop (R119-R122, R203-R217, R239, R240, R426, R491). -/

namespace Sys2Proof.Machine

open Sys2Proof

/-! ### Readiness (R120, R491) -/

/-- Cores of the program, in ascending physical order. -/
def roleCores (s : State) : List (Nat × Core) := s.plane.cores.filter fun e => e.2.role.isSome

/-- Front number, bound and step bit a core stands at. -/
def frontAt (k : Core) : Option (BitVec 8 × BitVec 20 × Bool) :=
  match k.issue with
  | .front _ num bound stp _ => some (num, bound, stp)
  | _ => none

/-- Armed counters still short of their targets: counter, count, target. -/
def shortOf (k : Core) : List (Nat × Nat × Nat) :=
  k.armed.filterMap fun e =>
    match e.2 with
    | some v => if (k.ccGet e.1).toNat < v.toNat then some (e.1, (k.ccGet e.1).toNat, v.toNat) else none
    | none => none

/-- Every armed counter has reached its target and the array command queue is empty. -/
def coreReady (k : Core) : Bool := (shortOf k).isEmpty && k.xq.isEmpty

def allIssued (s : State) : Bool := !(roleCores s).isEmpty && (roleCores s).all fun e => (frontAt e.2).isSome

def allReady (s : State) : Bool := allIssued s && (roleCores s).all fun e => coreReady e.2

/-- What the first core to issue the front gave. -/
def refFront (s : State) : BitVec 8 × BitVec 20 × Bool :=
  match s.plane.fFirst with
  | some f => (frontAt (s.core f)).getD (0, 0, false)
  | none => (0, 0, false)

/-- First core, in physical order, whose front differs from the first core's. -/
def mismatched (s : State) : Option (Nat × Core) :=
  (roleCores s).find? fun e => decide (frontAt e.2 ≠ some (refFront s))

/-- pc of the front a core stands at, or of the bundle it issued last. -/
def frontPc (k : Core) : Nat :=
  match k.issue with
  | .front _ _ _ _ pc => pc.toNat
  | _ => k.lastPc.toNat

/-! ### Stopping every core (R225, R239) -/

/-- Every core of the program stops. -/
def stopCores (s : State) : State :=
  { s with plane := { s.plane with
      progRun := false, fFirst := none, fTimer := 0,
      cores := tmap {} (fun k => if k.role.isSome then { k with issue := .stopped, target := none } else k) s.plane.cores } }

/-- A load begins (R225): every core stops, the step in flight is over, and pass 1 is due. -/
def beginLoad (s : State) : State :=
  let s1 := hubStop (stopCores s)
  { s1 with ldr := { s1.ldr with
      state := 1, waitFront := false, tracing := false, rounds := 0, blocks := 0, image := [], cur := {}, bindTo := none,
      missing := [], bad := [], checked := [] } }

/-! ### Release (R120, R121, R206, R225, R388) -/

/-- A step front also waits for the hub, and is held for a descent. -/
def stepHeld (s : State) : Bool := !s.hub.committedOk || descending s

/-- Time since the first core issued the front, in units of 100 ns (R122; 16,800 of the model's units of 125/21 ps). -/
def frontWait (s : State) : Nat := s.plane.fTimer / 16800

/-- The front's timer at the end of the present cycle: it runs while a front is open, but not below Run (R122, R388). -/
def frontTime (s : State) : Nat :=
  if s.plane.fFirst.isSome && decide (s.pwr.state = 5) && !reReading s then s.plane.fTimer + cycUnits s else s.plane.fTimer

/-- The front's bound comes before its release or with it: then the timeout stands and nothing is released (R214). -/
def boundReached (s : State) : Bool := decide ((refFront s).2.1.toNat * 16800 ≤ frontTime s)

/-- One core goes on in the next cycle; the release clears its targets, those of that cycle too (R120, R214). -/
def releaseCore (s : State) (c : Nat) : State :=
  s.modCore c fun k => match k.issue with
    | .front _ _ _ _ _ => { k with issue := .run, nextAt := s.cycle + 1, armed := [], relAt := some (s.cycle + 1) }
    | _ => k

/-- The front is released at the end of the present cycle: the next bundle issues on every core in the next one. -/
def releaseFront (s : State) : State :=
  let (num, _, stp) := refFront s
  let w := frontTime s / 16800
  let s1 := (roleCores s).foldl (fun s e => releaseCore s e.1) s
  let longer := s.plane.maxWait < w
  let s2 : State := { s1 with plane := { s1.plane with
    fFirst := none, fTimer := 0,
    fronts := satAdd (2 ^ 32 - 1) s.plane.fronts 1,
    maxWait := if longer then min (2 ^ 20 - 1) w else s.plane.maxWait,
    maxFront := if longer then num.toNat else s.plane.maxFront } }
  if stp then applyRemaps { s2 with hub := { s2.hub with committedOk := false } } else s2

/-- The squall of mismatched fronts (R491). -/
def mismatchRep (s : State) (c : Nat) (k : Core) : FaultRep :=
  { coreRep s c 0x10 .S (frontPc k) with front := (refFront s).1.toNat }

/-- FRONT_RELEASE (R120, R121, R214, R225, R491), in the cycle before the next bundle's, 63 cycles or more after the last
event: the check of R491 comes first; no release while a squall is pending or once the bound is reached; a load that waits
begins in the cycle in which a step front would release. The release stands at the end of the cycle (`settleRelease`),
unless a squall is raised in it. -/
def execFrontRelease (s : State) : Res :=
  if !s.plane.progRun || !s.plane.clockOn || !s.plane.faults.isEmpty || !allIssued s then .next s
  else
    match mismatched s with
    | some (c, k) => .next (s.raise (mismatchRep s c k))
    | none =>
      if !allReady s || decide (s.cycle + 1 < s.plane.fLast + 64) || ((refFront s).2.2 && stepHeld s) || boundReached s then
        .next s
      else if (refFront s).2.2 && s.ldr.waitFront then .next (beginLoad s)
      else .next { s with plane := { s.plane with relGo := true } }

/-- The cores that a release lets go on fetch their next bundle in the cycle before it issues (R93). -/
def releaseFetch (s : State) : State :=
  if s.plane.relGo then (roleCores s).foldl (fun s e => fetchNow s e.1) s else s

/-- At the end of its cycle a release stands unless a squall is pending (R214). -/
def settleRelease (s : State) : State :=
  if s.plane.relGo then
    let s1 : State := { s with plane := { s.plane with relGo := false } }
    if s.plane.faults.isEmpty then releaseFront s1 else s1
  else s

/-! ### Timeout (R122, R214) -/

/-- An entry of the short list. -/
def shortEntry (c : Nat) (e : Nat × Nat × Nat) : BitVec 64 :=
  BitVec.ofNat 64 (pfOf c * 2 ^ 58 + clOf c * 2 ^ 54 + pcOf c * 2 ^ 49 + e.1 * 2 ^ 42 + min 0x1FFFFF e.2.1 * 2 ^ 21 +
    min 0x1FFFFF e.2.2)

/-- Every short counter of every core, in ascending order. -/
def shortList (s : State) : List (Nat × (Nat × Nat × Nat)) :=
  (roleCores s).flatMap fun e => (shortOf e.2).map fun x => (e.1, x)

/-- First core that is not ready. -/
def firstUnready (s : State) : Option (Nat × Core) :=
  (roleCores s).find? fun e => (frontAt e.2).isNone || !coreReady e.2

/-- The record of a front timeout. When every core is ready but the 64 cycles after the last event have not passed, the
record is that of a front that waits only for the hub: R122 gives no other (log 100: the model's choice). -/
def timeoutRep (s : State) : FaultRep :=
  let l := shortList s
  let base : FaultRep := match firstUnready s with
    | some (c, k) => coreRep s c 9 .S (frontPc k)
    | none => { cycle := s.cycle, cls := 9, lfield := 63, lcore := 31 }
  { base with
    front := (refFront s).1.toNat, counter := ((l.map fun x => x.2.1).headD 0), auxHi := l.length,
    auxLo := (refFront s).2.1.toNat, shorts := (l.take 1024).map fun x => shortEntry x.1 x.2 }

/-- FRONT_TIMEOUT (R122): the front is not released within its bound. -/
def execFrontTimeout (s : State) : Res :=
  if !s.plane.progRun || s.plane.fFirst.isNone || !s.plane.faults.isEmpty then .next s
  else if s.plane.fTimer < (refFront s).2.1.toNat * 16800 then .next s
  else .next (s.raise (timeoutRep s))

/-! ### The stop (R239, R240) -/

/-- Place of a fault in the order of R214. -/
def faultBefore (a b : FaultRep) : Bool :=
  decide (a.pfield < b.pfield ∨ (a.pfield = b.pfield ∧ (a.cluster < b.cluster ∨ (a.cluster = b.cluster ∧ a.pcore < b.pcore))))

/-- The fault the record names. -/
def pickFault : List FaultRep → Option FaultRep
  | [] => none
  | f :: r => some (r.foldl (fun b x => if faultBefore x b then x else b) f)

/-- Cycle c: the earliest of the pending faults. -/
def faultCycle (l : List FaultRep) : Nat := (l.map (·.cycle)).foldl min ((l.map (·.cycle)).headD 0)

/-- The unit the test after a squall is due for (R426): 0 and a core, or 1 and a cluster memory. -/
def testDue (f : FaultRep) : Option (Nat × Nat) :=
  let pcl := 12 * f.pfield + f.cluster
  if f.unit = 0 ∧ f.lfield = 63 ∧ f.cls = 9 then none
  else if f.unit = 0 then some (0, 32 * pcl + f.pcore)
  else if f.cls = 0xC then some (1, pcl)
  else none

/-- The squall: the record, the stop, the owner event and the interrupt. -/
def squall (s : State) (f : FaultRep) (same later : Nat) : State :=
  let dirty := f.cls = 0xC ∨ f.cls = 0xE ∨ f.cls = 0xF
  let bg := { s.bg with
    sqOvw := s.bg.sqVld, sqVld := true, sqCls := f.cls, sqSame := min 255 same, sqLater := min 255 later, sqRec := f,
    clean := s.bg.clean && !decide dirty, testFor := testDue f, test := 0 }
  let s1 := hubStop (stopCores { s with bg := bg })
  let s2 : State := { s1 with
    plane := { s1.plane with faults := [] }
    ldr := { s1.ldr with tracing := false, state := if s1.ldr.state = 8 then 10 else s1.ldr.state } }
  let s3 := (ownerEvent s2 3 f.cls (min 255 same) (BitVec.ofNat 64 f.cycle)).emit (.msix 0 2)
  if s3.ldr.waitFront then beginLoad s3 else s3

/-- SQUALL_STOP (R214, R239): once every core has issued its last bundle, at c + 63. -/
def execSquallStop (s : State) : Res :=
  let l := s.plane.faults
  let c := faultCycle l
  let now := l.filter fun f => f.cycle == c
  match pickFault now with
  | none => .next s
  | some f =>
    if !s.plane.progRun || decide (s.cycle < c + 63) then .next s
    else .next (squall s f (now.length - 1) (l.length - now.length))

/-- TRANSIT_FAULT (R204): a mesochronous queue of a physical field passes its margin: the squall of class 0Eh, and the
field is fenced as for a router fault. -/
def execTransitFault (pf : Nat) (s : State) : Res :=
  if 48 ≤ pf then .next s
  else .next (fenceField (s.raise (unitRep s (12 * pf) 0xE 6 0)) pf 1)

end Sys2Proof.Machine
end

