-- ==== Sys2Proof/Machine/Ports.lean ====
section
/-! DEFINITION. The plane's shared ports in one cycle: port B of every scratchpad, the banks of every cluster memory, and the
scratchpad side of cget and cput on port A (R87-R91, R100-R102, R127, R135-R137, R197, R198, R365, R490). -/

namespace Sys2Proof.Machine

open Sys2Proof

/-- A write decided in the cycle and made at its end: physical address, bytes, and the granules of a weight FIFO window it
marks as arrived, by physical cluster and offset (R91, R100). -/
structure PortWrite where
  /-- address in `plane.sram` -/
  addr : Nat := 0
  /-- bytes -/
  data : List (BitVec 8) := []
  /-- (physical cluster, window offset) -/
  win : Option (Nat × Nat) := none
deriving DecidableEq, Repr

/-- What the ports have given away in the present cycle. -/
structure PortUse where
  /-- cores whose port B serves a group (R90) -/
  cores : List Nat := []
  /-- cluster-memory banks in use, 48 × physical cluster + bank (R101) -/
  banks : List Nat := []
  /-- writes of the Jetstream and of DMA, in order -/
  writes : List PortWrite := []
  /-- writes of cput, in order -/
  puts : List PortWrite := []
deriving DecidableEq, Repr

/-! ### One access -/

/-- Cluster-memory banks of a run of n bytes (R101). -/
def cmBanks (pcl off n : Nat) : List Nat := (List.range (cdivN (off % 64 + n) 64)).map fun i => 48 * pcl + cmBankOf (off + 64 * i)

/-- Port B of a core serves a group, once a cycle (R90). -/
def useB (u : PortUse) (c : Nat) : Option PortUse :=
  if u.cores.contains c then none else some { u with cores := c :: u.cores }

/-- A cluster memory serves an access, one for each bank in a cycle (R101, R102). -/
def useCm (u : PortUse) (pcl off n : Nat) : Option PortUse :=
  let l := cmBanks pcl off n
  if meets u.banks l then none else some { u with banks := u.banks ++ l }

/-- An access of up to 256 aligned bytes to a unit of a cluster, by its logical numbers: port B of the core, the banks of the
cluster memory, or the weight FIFO window, which nothing else contends for. -/
def useUnit (s : State) (u : PortUse) (pcl unit off n : Nat) : Option PortUse :=
  if unit < 28 then
    match pcoreOf s pcl unit with
    | some p => useB u (32 * pcl + p)
    | none => some u
  else if unit = 0x20 then useCm u pcl off n
  else some u

/-- Writes a run of a unit at the end of the cycle; a logical core that is not placed has nowhere to take it. -/
def putUnit (s : State) (u : PortUse) (pcl unit off : Nat) (d : List Byte) : PortUse :=
  match unitPlace s pcl unit off with
  | some a =>
    { u with writes := u.writes ++ [{ addr := a, data := d, win := if unit = 0x30 then some (pcl, off) else none }] }
  | none => u

/-! ### Deliveries (R136, R197) -/

/-- Flit k of a delivered packet is written at u + 2 + k, or in the first later cycle in which its port serves it; into a
code region it raises the squall of class 04h and nothing of it is written. -/
def deliverFlit (su : State × PortUse) (p : Packet) : State × PortUse :=
  let (s, u) := su
  match p.loc with
  | .deliver pcl =>
    let k := p.written
    let off := hOff p.hdr + 256 * k
    let fl := flitsOf s p
    if hKind p.hdr = 1 ∨ p.n ≤ k ∨ s.cycle < p.t + 2 + k ∨ fl.length ≤ k then su
    else if deliversCode s p.hdr off 256 then
      (dropPkt (s.raise { coreRep s ((countCore s pcl p.hdr).getD (32 * pcl)) 4 .M 0 with hdr0 := p.hdr }) p.id, u)
    else
      match useUnit s u pcl (hUnit p.hdr) off 256 with
      | none => su
      | some u1 => (putPkt s { p with written := k + 1 }, putUnit s u1 pcl (hUnit p.hdr) off (vBytes (fl.getD k 0)))
  | _ => su

/-! ### Reads for sends and get replies (R135, R137, R198) -/

def setPay (s : State) (y : Payload) : State :=
  { s with plane := { s.plane with pays := s.plane.pays.map fun z => if z.id = y.id then y else z } }

/-- A read that is refused waits a cycle; before flit 0 has been read the header waits with it (R90, R135). -/
def delayPay (s : State) (y : Payload) : State :=
  let s1 := setPay s { y with issued := y.issued + 1 }
  if y.flits.isEmpty then
    { s1 with plane := { s1.plane with
        packets := s1.plane.packets.map fun p => if p.pay = some y.id then { p with t := p.t + 1 } else p } }
  else s1

/-- Place of the next flit of a payload. -/
def payPlace (s : State) (y : Payload) : Option Nat :=
  let k := y.flits.length
  match y.win with
  | some (pcl, off) => unitPlace s pcl 0x30 (off + 256 * k)
  | none => y.sa.map (· + 256 * k)

/-- The port that the next flit is read through. -/
def usePay (u : PortUse) (y : Payload) (a : Nat) : Option PortUse :=
  match y.core, y.win with
  | some c, _ => useB u c
  | none, some _ => some u
  | none, none => useCm u ((a - 2 ^ 37) / 2 ^ 25) ((a - 2 ^ 37) % 2 ^ 25) 256

/-- A flit has been read; after the last one the local count is due in the next cycle (R135). -/
def gotFlit (s : State) (y : Payload) (d : List Byte) : State :=
  let y1 := { y with flits := y.flits ++ [packBv 2048 d] }
  let s1 := setPay s y1
  match y.lc with
  | some (c, cc, pc) =>
    if y1.flits.length = y.n then s1.modCore c fun k => { k with incDue := k.incDue ++ [(s.cycle + 1, cc, pc)] } else s1
  | none => s1

/-- A payload whose read failed is lost with the packets that carry it. -/
def dropPay (s : State) (id : Nat) : State :=
  { s with plane := { s.plane with
      pays := s.plane.pays.filter fun y => y.id != id
      packets := s.plane.packets.filter fun p => p.pay != some id } }

/-- Flits of a combined packet are formed as those of its inputs are read (R191, R193). -/
def formFlits (s : State) (y : Payload) : State :=
  let ins := y.parts.filterMap fun i => (s.plane.pays.find? fun z => z.id == i).map (·.flits)
  let m := min y.n ((ins.map List.length).foldl min y.n)
  setPay s { y with flits := (combine y.hdr y.n ins).take m }

/-- One cycle of a payload: flit k of a run is read in cycle issued + 1 + k. A double-bit error raises the squall of class
0Ch (R96). A flit of the window whose logical core is not placed is a free value (log 101: the spec gives it none). -/
def payStep (su : State × PortUse) (y : Payload) : State × PortUse :=
  let (s, u) := su
  let k := y.flits.length
  if y.n ≤ k then su
  else if !y.parts.isEmpty then (formFlits s y, u)
  else if s.cycle < y.issued + 1 + k then su
  else
    match payPlace s y with
    | none => (gotFlit s.bumpFree y (vBytes (Config.openFlit s.free)), u)
    | some a =>
      match usePay u y a with
      | none => (delayPay s y, u)
      | some u1 =>
        match sramRead s .M ((y.lc.map fun l => l.2.2).getD 0) a 256 with
        | (none, s1) => (dropPay s1 y.id, u1)
        | (some d, s1) => (gotFlit s1 y d, u1)

/-- Payloads that nothing can ask for any more: complete, carried by no packet and part of none that is not complete. -/
def livePay (s : State) (y : Payload) : Bool :=
  decide (y.flits.length < y.n) || s.plane.packets.any (fun p => p.pay == some y.id) ||
  s.plane.pays.any fun z => z.parts.contains y.id && decide (z.flits.length < z.n)

/-! ### DMA (R90, R365, R490) -/

/-- The plane side of one line of a kvld, kvst or hput: port B of the core's scratchpad, or its cluster memory. -/
def useLine (u : PortUse) (c : Nat) (cm : Bool) (off : Nat) : Option PortUse :=
  if cm then useCm u (pclOf c) off 64 else useB u c

/-- One line of a kvld or kvst from t + 1 on, when its port serves it; a kvst reads it. -/
def kvLine (su : State × PortUse) (x : KvCmd) : State × PortUse :=
  let (s, u) := su
  let put (y : KvCmd) (s : State) : State :=
    { s with plane := { s.plane with kvs := s.plane.kvs.map fun z => if z.id = y.id then y else z } }
  if s.cycle ≤ x.tAt ∨ x.lines ≤ x.moved then su
  else
    match useLine u x.core x.cmem (x.off + 64 * x.moved) with
    | none => su
    | some u1 =>
      if x.store then
        match planeRead s x.core x.cmem (x.off + 64 * x.moved) 64 x.pc.toNat with
        | (none, s1) => ({ s1 with plane := { s1.plane with kvs := s1.plane.kvs.filter fun z => z.id != x.id } }, u1)
        | (some d, s1) => (put { x with moved := x.moved + 1, buf := x.buf ++ d } s1, u1)
      else (put { x with moved := x.moved + 1 } s, u1)

/-- One line of an hput from t + 1 on. -/
def hputLine (su : State × PortUse) (x : HputCmd) : State × PortUse :=
  let (s, u) := su
  if s.cycle ≤ x.tAt ∨ x.lines ≤ x.moved then su
  else
    match useLine u x.core x.cmem (x.off + 64 * x.moved) with
    | none => su
    | some u1 =>
      match planeRead s x.core x.cmem (x.off + 64 * x.moved) 64 x.pc.toNat with
      | (none, s1) => ({ s1 with plane := { s1.plane with hputs := s1.plane.hputs.filter fun z => z.id != x.id } }, u1)
      | (some d, s1) =>
        ({ s1 with plane := { s1.plane with
            hputs := s1.plane.hputs.map fun z => if z.id = x.id then { x with moved := x.moved + 1, buf := x.buf ++ d } else z } }, u1)

/-- Up to one aligned run of 256 B of a window arrival, translated at this write (R236, R365): the job gone on, none after
its last byte. Into a code region it raises the squall of class 04h, and nothing more of it is written. -/
def dmaRun (s : State) (u : PortUse) (j : DmaJob) : Option DmaJob × State × PortUse :=
  let n := min j.data.length (256 - j.off % 256)
  let core := j.core.getD (32 * j.pcl)
  if j.data.isEmpty then (none, s, u)
  else if j.unit < 28 && runInCode s j.off n then (none, s.raise (coreRep s core 4 .M 0), u)
  else
    match useUnit s u j.pcl j.unit j.off n with
    | none => (some j, s, u)
    | some u1 =>
      (some { j with off := j.off + n, data := j.data.drop n }, s, putUnit s u1 j.pcl j.unit j.off (j.data.take n))

/-- The window arrivals, oldest first; the destination counter rises in the cycle after the last byte (R365). -/
def dmaStep (su : State × PortUse) (j : DmaJob) : State × PortUse :=
  match dmaRun su.1 su.2 j with
  | (none, s, u) => (s, u)
  | (some j1, s, u) =>
    if j1.data.isEmpty then
      match j1.core with
      | some c => (s.modCore c fun k => { k with incDue := k.incDue ++ [(s.cycle + 1, j1.cc, 0)] }, u)
      | none => (s, u)
    else ({ s with plane := { s.plane with dma := s.plane.dma ++ [j1] } }, u)

/-- An arrival of no bytes is counted like one whose last byte has been written. -/
def dmaEmpty (s : State) (j : DmaJob) : State :=
  match j.core with
  | some c => if j.data.isEmpty then s.modCore c fun k => { k with incDue := k.incDue ++ [(s.cycle + 1, j.cc, 0)] } else s
  | none => s

/-- Port B's order in a cycle: deliveries, reads for sends and replies, then DMA (R90). -/
def portBStep (s : State) : State × PortUse :=
  let su := s.plane.packets.foldl deliverFlit (s, {})
  let su := su.1.plane.pays.foldl payStep su
  let su := su.1.plane.kvs.foldl kvLine su
  let su := su.1.plane.hputs.foldl hputLine su
  let jobs := su.1.plane.dma
  let s1 := jobs.foldl dmaEmpty { su.1 with plane := { su.1.plane with dma := [] } }
  let (s2, u) := jobs.foldl dmaStep (s1, su.2)
  ({ s2 with plane := { s2.plane with pays := s2.plane.pays.filter (livePay s2) } }, u)

/-! ### cget and cput (R102, R127) -/

def setXfer (s : State) (x : Xfer) : State :=
  { s with plane := { s.plane with xfers := s.plane.xfers.map fun y => if y.id = x.id then x else y } }

/-- A transfer whose read failed takes no further effect. -/
def dropXfer (s : State) (id : Nat) : State :=
  { s with plane := { s.plane with xfers := s.plane.xfers.filter fun y => y.id != id } }

/-- Accesses a transfer reads with: its lines, or the 256 B runs of its turned tiles (R95). -/
def Xfer.readsAll (x : Xfer) : Nat := if x.tm = 0 then x.lines else x.lines / 4

/-- A line, or a turned tile, has been read in the present cycle: its lines reach the other side 8 cycles later, a turned
tile's one by one after its last run, so that the last is written at t + 8 + lines (R127). -/
def gotXfer (s : State) (x : Xfer) (d : List Byte) : Xfer :=
  let rc := turnCycles x.tm
  let tb := turnBytes x.tm / 64
  if x.tm = 0 then
    { x with reads := x.reads + 1, tAtR := s.cycle + 1, path := x.path ++ [(s.cycle + 8, d)] }
  else
    let tile := x.tile ++ d
    if tile.length < turnBytes x.tm then { x with reads := x.reads + 1, tAtR := s.cycle + 1, tile := tile }
    else
      let t := turnRun x.tm tile
      { x with
        reads := x.reads + 1, tAtR := s.cycle + 1 + (tb - rc), tile := []
        path := x.path ++ (List.range tb).map fun i => (s.cycle + 9 - rc + i, (t.drop (64 * i)).take 64) }

/-- The cluster-memory read of a core's oldest cget with reads left: one access a cycle, over the core's own path. -/
def cgetRead (su : State × PortUse) (c : Nat) : State × PortUse :=
  let (s, u) := su
  match s.plane.xfers.find? fun x => x.core == c && !x.put && decide (x.reads < x.readsAll) with
  | none => su
  | some x =>
    let n := if x.tm = 0 then 64 else 256
    let o := x.cm + n * x.reads
    if s.cycle < x.tAtR then su
    else
      match useCm u (pclOf c) o n with
      | none => su
      | some u1 =>
        match cmRead s (pclOf c) o n with
        | (none, s1) => (dropXfer s1 x.id, u1)
        | (some d, s1) => (setXfer s1 (gotXfer s1 x d), u1)

/-- The scratchpad read of a core's oldest cput with reads left, as a queued client of port A (R88). -/
def cputRead (s : State) (c : Nat) : State :=
  match s.plane.xfers.find? fun x => x.core == c && x.put && decide (x.reads < x.lines) with
  | none => s
  | some x =>
    let o := x.off + 64 * x.reads
    if s.cycle < x.tAtR ∨ (s.core c).aBusy.contains (bankOf o) then s
    else
      match spmRead s c o 64 .M x.pc.toNat with
      | (none, s1) => dropXfer s1 x.id
      | (some d, s1) => grantA (setXfer s1 (gotXfer s1 x d)) c [bankOf o]

/-- The scratchpad write of the oldest line a core's cgets bring, as a queued client of port A (R88). -/
def cgetWrite (s : State) (c : Nat) : State :=
  match s.plane.xfers.find? fun x => x.core == c && !x.put && !x.path.isEmpty with
  | none => s
  | some x =>
    match x.path with
    | (t, d) :: r =>
      let o := x.off + 64 * x.wrote
      if s.cycle < t ∨ (s.core c).aBusy.contains (bankOf o) then s
      else
        let w : PendStore := { tAt := s.cycle, off := o, data := d, pc := x.pc.toNat }
        grantA ((setXfer s { x with wrote := x.wrote + 1, path := r }).modCore c fun k => { k with stores := k.stores ++ [w] })
          c [bankOf o]
    | [] => s

/-- The cluster-memory write of the oldest line a core's cputs bring. -/
def cputWrite (su : State × PortUse) (c : Nat) : State × PortUse :=
  let (s, u) := su
  match s.plane.xfers.find? fun x => x.core == c && x.put && !x.path.isEmpty with
  | none => su
  | some x =>
    match x.path with
    | (t, d) :: r =>
      let o := x.cm + 64 * x.wrote
      if s.cycle < t then su
      else
        match useCm u (pclOf c) o 64 with
        | none => su
        | some u1 =>
          (setXfer s { x with wrote := x.wrote + 1, path := r },
            { u1 with puts := u1.puts ++ [{ addr := cmAddr (pclOf c) o, data := d }] })
    | [] => su

/-- The transfers of one core in the present cycle: a cluster-memory read and a write, after the Jetstream's accesses and
those of lower cores (R102), and one line each way between its path and port A. -/
def xferCore (su : State × PortUse) (c : Nat) : State × PortUse :=
  let (s, u) := cputWrite (cgetRead su c) c
  (cgetWrite (cputRead s c) c, u)

/-- Enters a number in an ascending list once. -/
def insertNat (n : Nat) : List Nat → List Nat
  | [] => [n]
  | m :: r => if m < n then m :: insertNat n r else if m = n then m :: r else n :: m :: r

/-- Cores with transfers in flight, ascending. -/
def xferCores (s : State) : List Nat := s.plane.xfers.foldl (fun l x => insertNat x.core l) []

def xferStep (su : State × PortUse) : State × PortUse := (xferCores su.1).foldl xferCore su

/-! ### The writes at the end of the cycle (R91, R102) -/

def makeWrite (s : State) (w : PortWrite) : State :=
  let s1 := sramStore s .M 0 w.addr w.data
  match w.win with
  | some (pcl, off) => if w.data.length = 256 then markArrived s1 pcl off 256 else s1
  | none => s1

/-- Writes of the Jetstream and DMA, made before the port-A writes of the cycle. -/
def portWrites (s : State) (u : PortUse) : State := u.writes.foldl makeWrite s

/-- Writes of cput, in ascending core order, after the Jetstream's. -/
def putWrites (s : State) (u : PortUse) : State := u.puts.foldl makeWrite s

end Sys2Proof.Machine
end

