-- ==== Sys2Proof/Machine/Cycle.lean ====
section
/-! DEFINITION. The tick: what one plane cycle does by itself (R60, R77-R82, R87-R91, R101, R102, R107, R108, R115-R118,
R122, R124, R129, R135, R136, R214). -/

namespace Sys2Proof.Machine

open Sys2Proof

/-- Numbers of the cores that are not at their reset state. -/
def coreKeys (s : State) : List Nat := s.plane.cores.map (·.1)

/-- Applies f to every core, in ascending physical order. -/
def eachCore (f : State → Nat → State) (s : State) : State := (coreKeys s).foldl f s

/-! ### Port A and the core's units -/

/-- One core's cycle on port A, in the order of R88: fetch and the M slot, drain writes, the array group with its ainit
reads and weight-port beats, the correction unit, the feeders. -/
def unitsCycle (s : State) (c : Nat) : State :=
  let s := s.modCore c fun k => { k with aBusy := fixedBanks k s.cycle }
  feederStep (corrCycle (arrayCycle (drainWrites (readLoads s c) c) c) c) c

/-! ### The writes of the cycle (R91) -/

/-- Port-A stores, drain writes and cget lines of one core (R124). -/
def storesCycle (s : State) (c : Nat) : State :=
  let k := s.core c
  (k.stores.filter fun w => decide (w.tAt ≤ s.cycle)).foldl (fun s w => doStore s c w)
    (s.setCore c { k with stores := k.stores.filter fun w => decide (s.cycle < w.tAt) })

/-- The drops under way take four granules a cycle in issue order, after the cycle's X-slot takes (R129, R214). -/
def dropsCycle (s : State) (c : Nat) : State :=
  match (s.core c).drops with
  | (t, n) :: r =>
    if t ≤ s.cycle then
      let (_, s1) := takeGranules s c (min 4 n)
      s1.modCore c fun k => { k with drops := if n ≤ 4 then r else (t, n - 4) :: r }
    else s
  | [] => s

/-- The cycle's writes: port B first, port A after it, then cput's lines after the Jetstream's (R91, R102). A window write
and a take of one granule in one cycle: the array's take comes first, then the write, then a wdrop, which clears the new
arrival bit (log 102: the model's choice). -/
def writesCycle (s : State) (u : PortUse) : State := eachCore dropsCycle (putWrites (eachCore storesCycle (portWrites s u)) u)

/-! ### The end of a cycle -/

/-- Local counts of sends, and counts of window arrivals, that are due (R135, R365). -/
def landCounts (s : State) (c : Nat) : State :=
  let k := s.core c
  (k.incDue.filter fun e => decide (e.1 ≤ s.cycle)).foldl (fun s e => incrRun s c e.2.1 e.2.2 .M)
    (s.setCore c { k with incDue := k.incDue.filter fun e => decide (s.cycle < e.1) })

/-- Increments that would pass FFFF_FFFFh raise the counter-overflow squall (R116). -/
def settleOvers (s : State) (c : Nat) : State :=
  let k := s.core c
  k.overs.foldl (fun s o => s.raise { coreRep s c 6 o.2.2 o.2.1 with counter := o.1 }) (s.setCore c { k with overs := [] })

/-- rdcc reads its counter at the end of its issue cycle (R112). -/
def samplesCycle (k : Core) (n : Nat) : Core :=
  let due := k.samples.filter fun x => decide (x.tAt ≤ n)
  due.foldl (fun k x => k.later (n + 1) .S (.g x.gr) ((k.ccGet x.cc.toNat).setWidth 2048))
    { k with samples := k.samples.filter fun x => decide (n < x.tAt) }

/-- The end of cycle n for one core: the counters are read by rdcc and the checks, and the array mode set in it stands
(R112, R117, R118, R166). -/
def closeCore (k : Core) (n : Nat) : Core :=
  let k1 := noteChecks (samplesCycle k n) n
  { k1 with
    incs := [], aBusy := [], mode := k1.modeNext.getD k1.mode, modeNext := none
    banks := k1.banks.filter fun b => decide (n < b.tAt) }

def endCore (s : State) (c : Nat) : State :=
  (settleOvers (landCounts s c) c).modCore c fun k => closeCore k s.cycle

/-- Writes that become visible in cycle n, in slot order S, V, X, M (R107). -/
def landWrites (k : Core) (n : Nat) : Core :=
  let due := k.writes.filter fun w => decide (w.due ≤ n)
  ([0, 1, 2, 3].flatMap fun o => due.filter fun w => w.ord == o).foldl (fun k w => k.put w.dest w.val)
    { k with writes := k.writes.filter fun w => decide (n < w.due) }

/-- The cycle count rises; the front's timer and its last event follow (R108, R120, R122). -/
def advance (s : State) : State :=
  let n := s.plane.cycle + 1
  { s with plane := { s.plane with
      cycle := n
      fTimer := frontTime s
      fLast := if s.plane.fFirst.isSome && !allReady s then n else s.plane.fLast
      resvs := s.plane.resvs.filter fun r => decide (n < r.tAt + r.len) } }

/-! ### The tick -/

/-- The rest of the present cycle, and the results that become visible in the next one. -/
def planeCycle (s : State) : State :=
  let (s1, u) := xferStep (portBStep (eachCore unitsCycle (releaseFetch (eachCore waitFetch (retriesCycle s)))))
  let s2 := advance (settleRelease (eachCore endCore (writesCycle s1 u)))
  eachCore (fun s c => s.modCore c fun k => landWrites k s.cycle) s2

/-- What the block does on an empty queue (log 1): one plane cycle, while the plane clock runs (R206). -/
def tick (s : State) : State := if s.plane.clockOn then planeCycle s else s

end Sys2Proof.Machine
end

