-- ==== Sys2Proof/Machine/Route.lean ====
section
/-! DEFINITION. Paths of legs through the field tier, and the loader's conditions on them (R173, R174, R180-R187, R221). -/

namespace Sys2Proof.Machine

open Sys2Proof

/-- A place where a header is looked up: a gateway by physical field and side of entry, or a station. -/
inductive Place where
  | gate (pf side : Nat)
  | station (n : Nat)
deriving DecidableEq, Repr

/-- An arrival of a leg: field and side, cycles and crossings since the leg entered the field tier, and the outputs its
header took with the cycle of each. -/
structure Arrival where
  pf : Nat
  side : Nat
  t : Nat
  hops : Nat
  uses : List (Nat × Nat)
deriving DecidableEq, Repr

/-- One record of the crossing list (R221). -/
structure Leg where
  epoch : Nat
  off : Nat
  src : Nat
  exit : Nat
  lane : Nat
  c : Nat
  flits : Nat
  dst : Nat
  side : Nat
deriving DecidableEq, Repr

def parseLeg (e : List Byte) : Leg :=
  { epoch := leAt e 0 4, off := leAt e 4 4, src := leAt e 8 1, exit := leAt e 9 1, lane := leAt e 10 1, c := leAt e 11 1,
    flits := leAt e 12 1, dst := leAt e 13 1, side := leAt e 14 1 }

/-- From field p straight across the fields of `byp` in direction d: the place reached and the crossings (R174). -/
def crossGo (byp : List Nat) : Nat → Nat → Nat → Nat → Place × Nat
  | 0, p, d, n => (.station (stationOf p d), n)
  | f + 1, p, d, n =>
    match fieldBeyond p d with
    | none => (.station (stationOf p d), n)
    | some q => if byp.contains q then crossGo byp f q d (n + 1) else (.gate q (opposite d), n)

/-- Entry that a place's tables hold for a packet: by destination field, or by tree (R181). -/
def placeEntry (j : Jet) (tree : Bool) (i : Nat) : Place → Nat
  | .gate pf side => (if tree then tget 0 j.gwTree (4096 * (4 * pf + side) + i) else tget 0 j.gwUni (64 * (4 * pf + side) + i)).toNat
  | .station n => (if tree then tget 0 j.stTree (4096 * n + i) else tget 0 j.stUni (64 * n + i)).toNat

/-- The entry may be followed (R182). -/
def entryGood (tree : Bool) (e ways : Nat) : Bool :=
  bit e 31 && bits e 30 29 != 3 && (tree || (bits e 30 29 != 2 && (bits e 30 29 == 1 || ways == 1)))

/-- Next places from a place along an entry: place, crossings, output taken. -/
def nextPlaces (byp : List Nat) (lane : Nat) (e : Nat) : Place → List (Place × Nat × Nat)
  | .gate pf _ =>
    ((List.range 4).filter fun d => bit e (28 - d) && !(lane == 3 && d % 2 == 1)).map fun d =>
      let (q, n) := crossGo byp 8 pf d 1
      (q, n, resGate pf d lane)
  | .station n =>
    ((List.range 3).filter fun d => bit e (28 - d)).map fun d =>
      match d with
      | 0 => (.station ((n + 1) % 28), 1, resStation n 0 lane)
      | 1 => (.station ((n + 27) % 28), 1, resStation n 1 lane)
      | _ =>
        let (f, side) := stationField n
        if byp.contains f then
          let (q, k) := crossGo byp 8 f (opposite side) 2
          (q, k, resStation n 2 lane)
        else (.gate f side, 1, resStation n 2 lane)

/-- The arrivals of a header that stands at a place at cycle t, by the tables, within `lim` crossings (R180-R183). -/
def walkFrom (j : Jet) (byp : List Nat) (tree : Bool) (i lane lim : Nat) :
    Nat → Place → Nat → Nat → List (Nat × Nat) → List Arrival
  | 0, _, _, _, _ => []
  | f + 1, pl, t, hops, uses =>
    let e := placeEntry j tree i pl
    let t1 := t + bits e 24 17
    let nexts := nextPlaces byp lane e pl
    if lim < hops ∨ !entryGood tree e nexts.length then []
    else
      let here := match pl with
        | .gate pf side =>
          if bits e 30 29 ≠ 0 ∧ (clusterAt side lane).isSome then
            [{ pf := pf, side := side, t := t1, hops := hops, uses := uses ++ [(resArrive pf side lane, t1)] }]
          else []
        | .station _ => []
      here ++ (if bits e 30 29 = 1 then [] else
        nexts.flatMap fun (q, n, res) =>
          walkFrom j byp tree i lane lim f q (t1 + 6 * n) (hops + n) (uses ++ [(res, t1)]))

/-- The arrivals of a leg that leaves physical field p by a side on a lane. -/
def walkLeg (j : Jet) (byp : List Nat) (tree : Bool) (i lim p d lane : Nat) : List Arrival :=
  let (q, n) := crossGo byp 8 p d 1
  walkFrom j byp tree i lane lim (lim + 1) q (6 * n) n [(resGate p d lane, 0)]

/-- An arrival of a leg at a field, on its side, in exactly 6 (c + a) cycles over at most c + a crossings (R185, R186). -/
def arrives (j : Jet) (byp : List Nat) (a : Nat) (l : Leg) (src dst : Nat) (sel : Bool × Nat) : Option Arrival :=
  (walkLeg j byp sel.1 sel.2 (l.c + a) src l.exit l.lane).find? fun x =>
    x.pf == dst && x.side == l.side && x.t == 6 * (l.c + a) && decide (x.hops ≤ l.c + a)

/-- Trees that the gateway and station tables hold entries of. -/
def treesOf (j : Jet) : List Nat := ((j.gwTree ++ j.stTree).map fun e => e.1 % 4096).eraseDups

/-- Table selections whose reference path is the leg: unicast to its field, and trees; unicast when there is none. -/
def legSels (j : Jet) (a : Nat) (l : Leg) : List (Bool × Nat) :=
  let all := (false, l.dst) :: (treesOf j).map fun t => (true, t)
  match all.filter fun x => ((arrives j [] a l l.src l.dst x).map fun y => y.hops == l.c).getD false with
  | [] => [(false, l.dst)]
  | r => r

/-- What the loader holds of one leg under a field map: the arrivals by its selections, none when one is missing. -/
def legPaths (j0 j : Jet) (byp : List Nat) (a : Nat) (place : Nat → Option Nat) (l : Leg) : Option (List Arrival) :=
  match place l.src, place l.dst with
  | some src, some dst => (legSels j0 a l).mapM fun x => arrives j byp a l src dst x
  | _, _ => none

/-- Two records stand for one packet: it leaves its field once (R183). -/
def samePacket (x y : Leg) : Bool := x.off == y.off && x.src == y.src && x.exit == y.exit && x.lane == y.lane

/-- Two legs of one epoch take one output in one cycle (R186). -/
def legsClash (x y : Leg × List Arrival) : Bool :=
  x.1.epoch == y.1.epoch && !samePacket x.1 y.1 &&
  (x.2.flatMap (·.uses)).any fun u => (y.2.flatMap (·.uses)).any fun v =>
    u.1 == v.1 && decide (x.1.off + u.2 < y.1.off + v.2 + y.1.flits ∧ y.1.off + v.2 < x.1.off + u.2 + x.1.flits)

/-- First leg of a list that meets an earlier one, or the number of legs. -/
def firstClash : Nat → List (Leg × List Arrival) → List (Leg × List Arrival) → Option Nat
  | _, _, [] => none
  | n, seen, x :: r => if seen.any (legsClash x) then some n else firstClash (n + 1) (x :: seen) r

/-- The first leg for which the tables do not keep the conditions of R186. -/
def mapFault (j0 j : Jet) (byp : List Nat) (a : Nat) (place : Nat → Option Nat) (legs : List Leg) : Option Nat :=
  match (legs.zipIdx.find? fun (l, _) => (legPaths j0 j byp a place l).isNone).map (·.2) with
  | some n => some n
  | none => firstClash 0 [] (legs.map fun l => (l, (legPaths j0 j byp a place l).getD []))

/-- Legs whose physical path is not that of the reference placement (JS_MAPSTAT.rerouted). -/
def reroutedLegs (j0 j : Jet) (byp : List Nat) (a : Nat) (place : Nat → Option Nat) (legs : List Leg) : Nat :=
  (legs.filter fun l =>
    ((legPaths j0 j byp a place l).map fun p => p.map fun x => x.uses.map (·.1)) !=
      ((legPaths j0 j0 [] a some l).map fun p => p.map fun x => x.uses.map (·.1))).length

end Sys2Proof.Machine
end

