-- ==== Sys2Proof/Machine/Load.lean ====
section
/-! DEFINITION. The program image, the load and its faults (chapter 08: R219-R238, R241, R243; R27, R92, R97, R110, R186,
R209, R212, R255, R427). -/

namespace Sys2Proof.Machine

open Sys2Proof

/-! ### The image (R219-R223) -/

/-- A section: index in the table, type, index field, offset, length. -/
structure Sect where
  no : Nat
  ty : Nat
  idx : Nat
  off : Nat
  len : Nat
deriving DecidableEq, Repr

def imgSectOff (m : List Byte) : Nat := leAt m 16 8

/-- Section table (R221). -/
def imgSects (m : List Byte) : List Sect :=
  (List.range (leAt m 6 2)).map fun i =>
    let o := imgSectOff m + 32 * i
    { no := i, ty := leAt m o 1, idx := leAt m (o + 2) 2, off := leAt m (o + 8) 8, len := leAt m (o + 16) 8 }

/-- The one section of a type. -/
def sectOf (l : List Sect) (ty : Nat) : Option Sect := l.find? fun x => x.ty == ty

/-- Content of a section. -/
def sectBytes (m : List Byte) (x : Sect) : List Byte := (m.drop x.off).take x.len

/-- Records of w bytes of the section of a type; none when it is absent. -/
def sectRecs (m : List Byte) (ty w : Nat) : List (List Byte) :=
  match sectOf (imgSects m) ty with
  | some x => entries m x.off w (x.len / w)
  | none => []

/-- Code section of a role. -/
def codeSect (m : List Byte) (role : Nat) : Option Sect := (imgSects m).find? fun x => x.ty == 1 && x.idx == role

/-- Data-initialiser sections, in table order. -/
def initSects (m : List Byte) : List Sect := (imgSects m).filter fun x => x.ty == 2

/-- Target of a data initialiser (R222): field set, cluster mask, unit, offset. -/
def initTarget (m : List Byte) (x : Sect) : Nat × Nat × Nat × Nat :=
  (leAt m x.off 6, leAt m (x.off + 6) 2, leAt m (x.off + 8) 1, leAt m (x.off + 12) 4)

/-- Header, roles and placement that the loader keeps (R220, R221, R227). -/
def parseImage (m : List Byte) : Prog :=
  let k := leAt m 26 1
  let f := leAt m 27 1
  let place := (sectOf (imgSects m) 4).map fun x => x.off
  { contract := leAt m 24 1, gradeMin := leAt m 25 1, kCores := k, fFields := f, wwaf := leAt m 28 1, kwaf := leAt m 29 1,
    kMax := leAt m 30 1, detour := leAt m 31 1, sSlots := leAt m 32 2, pPos := leAt m 34 2, experts := leAt m 36 2,
    codeSize := leAt m 38 1, nclass := leAt m 39 1, formats := leAt m 40 4, kvTok := leAt m 44 4,
    classes := (List.range 8).map fun i => leAt m (48 + 4 * i) 4,
    modelId := (m.drop 80).take 16, instDig := (m.drop 96).take 64,
    stageOff := leAt m 160 4, stageLen := leAt m 164 4, hubOff := leAt m 168 4,
    roles := (sectRecs m 3 16).zipIdx.map fun (e, i) => (i, { stage := leAt e 0 4, len := leAt e 4 4, entry := leAt e 8 4 }),
    placement := match place with
      | none => []
      | some o => (List.range (12 * f * k)).filterMap fun i =>
          let r := leAt m (o + 2 * i) 2
          if r = 0xFFFF then none else some (i, r + 1),
    digest := bodyDigest m }

/-! ### Load fault 01h (R219-R222, R237) -/

/-- A check of the format: passes, or the section index and the byte offset it reports. -/
abbrev FmtCheck := Bool × Nat × Nat

def headerAt (ok : Bool) (o : Nat) : FmtCheck := (ok, 0xFFFF, o)

/-- A byte that must be 0, checked one by one so that the report names it. -/
def zeroBytes (m : List Byte) (sec lo hi : Nat) : List FmtCheck :=
  (List.range (hi - lo)).map fun i => (byteAt m (lo + i) == 0, sec, lo + i)

/-- Checks of the header. -/
def headerChecks (m : List Byte) : List FmtCheck :=
  let n := m.length
  let inR (o w lo hi : Nat) : FmtCheck := headerAt (decide (lo ≤ leAt m o w ∧ leAt m o w ≤ hi)) o
  let al (o : Nat) : FmtCheck := headerAt (leAt m o 4 % 0x10000 == 0) o
  [headerAt (decide (512 ≤ n) && leAt m 0 4 == 0x50584C49) 0, headerAt (leAt m 4 2 == 1) 4, inR 6 2 1 4096,
   headerAt (leAt m 8 8 == n && n % 4096 == 0 && decide (8192 ≤ n)) 8,
   headerAt (imgSectOff m % 4096 == 0 && decide (512 ≤ imgSectOff m ∧ imgSectOff m + 32 * leAt m 6 2 + 4096 ≤ n)) 16,
   headerAt ([2, 4, 6, 8].contains (leAt m 25 1)) 25, inR 26 1 1 28, inR 27 1 1 46, inR 28 1 0 4, inR 29 1 0 2, inR 30 1 0 7,
   inR 31 1 0 31, inR 32 2 1 256, inR 34 2 0 512, inR 36 2 0 1023, inR 38 1 0 4, inR 39 1 0 8, inR 40 4 0 0x3FF] ++
  ((List.range 8).map fun i => headerAt (decide (i < leAt m 39 1) || leAt m (48 + 4 * i) 4 == 0) (48 + 4 * i)) ++
  [al 160, al 164, al 168] ++ zeroBytes m 0xFFFF 172 512 ++ zeroBytes m 0xFFFF (n - 4096 + 3373) n

/-- Checks of one section table entry; `earlier` are the sections before it. -/
def entryChecks (m : List Byte) (earlier : List Sect) (x : Sect) : List FmtCheck :=
  let o := imgSectOff m + 32 * x.no
  [(decide (1 ≤ x.ty ∧ x.ty ≤ 9), x.no, o)] ++ zeroBytes m x.no (o + 1) (o + 2) ++
  [(x.ty == 1 || x.idx == 0, x.no, o + 2)] ++ zeroBytes m x.no (o + 4) (o + 8) ++
  [(x.off % 4096 == 0 && decide (512 ≤ x.off), x.no, o + 8), (decide (x.off + x.len + 4096 ≤ m.length), x.no, o + 16)] ++
  zeroBytes m x.no (o + 24) (o + 32) ++
  [(!(earlier.any fun y => y.ty == x.ty && (x.ty != 1 || y.idx == x.idx)) || x.ty == 2, x.no, o)]

/-- Checks of a section's content that fault 01h covers: counts, lengths, reserved bytes. -/
def contentChecks (m : List Byte) (x : Sect) : List FmtCheck :=
  let cores := 12 * leAt m 27 1 * leAt m 26 1
  let whole (w : Nat) : FmtCheck := (x.len % w == 0, x.no, x.off)
  let recs (w lo hi : Nat) : List FmtCheck :=
    whole w :: (List.range (x.len / w)).flatMap fun i => zeroBytes m x.no (x.off + w * i + lo) (x.off + w * i + hi)
  match x.ty with
  | 2 =>
    let (fs, cm, _, tgtOff) := initTarget m x
    [(decide (16 ≤ x.len), x.no, x.off), (decide (fs < 2 ^ 46), x.no, x.off), (decide (cm < 2 ^ 12), x.no, x.off + 6)] ++
    zeroBytes m x.no (x.off + 9) (x.off + 12) ++ [(tgtOff % 64 == 0, x.no, x.off + 12)]
  | 3 => recs 16 12 16 ++ (List.range (x.len / 16)).map fun i => (leAt m (x.off + 16 * i + 4) 4 % 32 == 0, x.no, x.off + 16 * i + 4)
  | 4 => (decide (2 * cores ≤ x.len), x.no, x.off) :: zeroBytes m x.no (x.off + 2 * cores) (x.off + x.len)
  | 5 => recs 16 10 12
  | 6 => [whole 8]
  | 7 => [whole 12]
  | 8 => recs 16 15 16
  | 9 => let n := 64 * 12 * leAt m 27 1
         (decide (n ≤ x.len), x.no, x.off) :: zeroBytes m x.no (x.off + n) (x.off + x.len)
  | _ => []

/-- Bytes the image assigns: header, section table, sections, signature block. -/
def assigned (m : List Byte) (i : Nat) : Bool :=
  decide (i < 512) || decide (imgSectOff m ≤ i ∧ i < imgSectOff m + 32 * leAt m 6 2) || decide (m.length - 4096 ≤ i) ||
  (imgSects m).any fun x => decide (x.off ≤ i ∧ i < x.off + x.len)

/-- Every check of fault 01h, in order: the header, then the table, then what a section holds, then the gaps. -/
def sectChecks (m : List Byte) : List FmtCheck :=
  let l := imgSects m
  (l.flatMap fun x => entryChecks m (l.take x.no) x) ++
  ([3, 4, 9].map fun ty => ((sectOf l ty).isSome, 0xFFFF, ty)) ++ (l.flatMap (contentChecks m)) ++
  (List.range m.length).map fun i => (byteAt m i == 0 || assigned m i, 0xFFFF, i)

/-- What fault 01h reports, when the format is wrong. -/
def formatFault (m : List Byte) : Option (Nat × Nat) :=
  match (headerChecks m).find? fun c => !c.1 with
  | some (_, a, b) => some (a, b)
  | none => ((sectChecks m).find? fun c => !c.1).map fun c => (c.2.1, c.2.2)

/-! ### Placement of the program on the plane (R221, R222, R236) -/

/-- Role of a logical core. -/
def roleAt (p : Prog) (lcl k : Nat) : Option Nat :=
  match tget 0 p.placement (lcl * p.kCores + k) with
  | 0 => none
  | r + 1 => some r

/-- Roles named in the placement, ascending. -/
def rolesUsed (p : Prog) : List Nat := (p.placement.map fun e => e.2 - 1).eraseDups.insertionSort (· ≤ ·)

def roleOf (p : Prog) (r : Nat) : Option Role := (p.roles.find? fun e => e.1 == r).map (·.2)

/-- Clusters of the program. -/
def lclsOf (p : Prog) : List Nat := List.range (12 * p.fFields)

/-- A cluster holds a core of a role. -/
def holdsRole (p : Prog) (lcl r : Nat) : Bool := (List.range p.kCores).any fun k => roleAt p lcl k == some r

/-- A data initialiser names a cluster. -/
def initNames (m : List Byte) (x : Sect) (lcl : Nat) : Bool :=
  let (fs, cm, _, _) := initTarget m x
  bit fs (lcl / 12) && bit cm (lcl % 12)

/-- Low end of the code region. -/
def codeBase (p : Prog) : Nat := spmSize - p.codeSize * 0x10000

/-- Good cores of a physical cluster by the fence map. -/
def coresGood (s : State) (pcl : Nat) : List Nat := (List.range 32).filter fun k => !bit (tget 0 s.bg.badMask pcl).toNat k

/-- Physical core that the load in progress gives to a logical core (R236). -/
def loadCore (s : State) (lcl k : Nat) : Option Nat :=
  match pclOfL s lcl with
  | none => none
  | some pcl => ((coresGood s pcl)[k]?).map fun p => 32 * pcl + p

/-! ### Ending a load (R237) -/

/-- Field drops that waited for the end of a load take place (log 107). -/
def settleFences (s : State) : State := dropExcess 48 s

/-- A load ends with a fault: recorded, owner event 02h, MSI-X vector 3; no program is loaded. -/
def loadFault (s : State) (code a b : Nat) : State :=
  let s1 : State := settleFences { s with ldr := { s.ldr with
    state := 9, start := false, fVld := true, fCode := code, fA := a % 65536, fB := b % 2 ^ 32, image := [], cur := {},
    bindTo := none, missing := [], bad := [], checked := [], hurt := [] } }
  (ownerEvent s1 2 code (b % 2 ^ 32) (BitVec.ofNat 64 a)).emit (.msix 0 3)

/-- Fault 13h: a forced power-state change or a reset of function 0 ends a load in progress (R238). -/
def interruptLoad (s : State) (cause : Nat) : State := if loading s then loadFault s 0x13 s.ldr.state cause else s

/-- A load is asked for: at once without a running program, else at its next step front; no effect before Ready, or while a
load runs or waits. -/
def startLoad (s : State) : State :=
  if !s.bg.ready || s.ldr.start then s
  else
    let s1 : State := { s with ldr := { s.ldr with start := true } }
    if s.running then { s1 with ldr := { s1.ldr with waitFront := true } } else beginLoad s1

/-- LOAD_START (R225): a write of LDR_CTRL.start. -/
def execLoadStart (s : State) : Res := .next (startLoad s)

/-- A load in progress ends with fault 11h; a load that waits for the step front has not begun. -/
def abortLoad (s : State) : State := if loading s then loadFault s 0x11 s.ldr.state 0 else s

/-- LOAD_ABORT (R227, R237): a write of LDR_CTRL.abort. -/
def execLoadAbort (s : State) : Res := .next (abortLoad s)

/-- LOAD_PASS1 (R227): the image is read and its format checked; a read that failed after its repeat is fault 10h, with
the failing offset. -/
def execLoadPass1 (img : ImageRead) (s : State) : Res :=
  if s.ldr.state ≠ 1 ∨ s.pwr.state ≠ 5 then .next s
  else
    match img with
    | .failed off => .next (loadFault s 0x10 1 (off / 4096))
    | .bytes m =>
      match formatFault m with
      | some (a, b) => .next (loadFault s 1 a b)
      | none => .next { s with ldr := { s.ldr with state := 2, image := m, cur := parseImage m } }

/-- LOAD_VERIFY (R224): both signatures over D against the enrolled keys. -/
def execLoadVerify (s : State) : Res :=
  if s.ldr.state ≠ 2 then .next s
  else if !edOk s s.ldr.image then .next (loadFault (sigFail s) 2 0 0)
  else if !mlOk s s.ldr.image then .next (loadFault (sigFail s) 2 1 0)
  else .next { s with ldr := { s.ldr with state := 3 } }

/-! ### State check (R237) -/

/-- Used fields that remain: mapped onto a field in service (R24). -/
def fieldsLeft (s : State) : Nat :=
  (s.jet.binding.filter fun e => match e with | some pf => fieldState s pf == 0 | none => false).length

/-- A slot meets the conditions of R255. -/
def slotBinds (p : Prog) (x : WSlot) : Bool :=
  (x.st == 3 || x.st == 5) && x.man.instDig == p.instDig && x.man.modelId == p.modelId && x.man.fFields == p.fFields &&
  decide (p.wwaf ≤ x.man.wafers) && !x.invalid

/-- An image that binds no weights has a digest of zeros. -/
def bindsNone (p : Prog) : Bool := p.instDig.all (· == 0)

/-- Slot the load binds: the lowest complete one, else the lowest damaged one. -/
def bindSlot (s : State) (p : Prog) : Option Nat :=
  let l := (List.range 4).filter fun n => slotBinds p (s.wslot n)
  match l.find? fun n => (s.wslot n).st == 3 with
  | some n => some n
  | none => l.head?

/-- Front bundles of a code section with a bound below 20: the first one's offset (R209). -/
def lowFront (m : List Byte) (x : Sect) : Option Nat :=
  (List.range (x.len / 32)).findSome? fun i =>
    let w := leAt m (x.off + 32 * i) 8
    if w / 2 ^ 56 = 0x50 ∧ bits w 43 24 < 20 then some (32 * i) else none

/-- Value of a relocation symbol for a patched core, or for a cluster memory (R235). -/
def symVal (s : State) (slot : Option Nat) (sym lcl : Nat) (core : Option Nat) : Nat :=
  let pcl := (pclOfL s lcl).getD 0
  match sym with
  | 0 => 0
  | 1 => pcl / 12
  | 2 => match core with
    | some c => pcOf c
    | none => (Config.relocSymbol 4 pcl).toNat % 32
  | 3 => pcl
  | _ =>
    let w := sym - 4
    match slot with
    | some n => if w < (s.wslot n).man.wafers then (s.wslot n).base.getD w 0 else (Config.relocSymbol w 0).toNat
    | none => (Config.relocSymbol w 0).toNat

/-- A relocation record (R234): target, kind, offset, slot, symbol, addend. -/
structure Reloc where
  tgt : Nat
  kind : Nat
  off : Nat
  slot : Nat
  sym : Nat
  add : Int
deriving DecidableEq, Repr

def relocsOf (m : List Byte) : List Reloc :=
  (sectRecs m 5 16).map fun e =>
    { tgt := leAt e 0 2, kind := leAt e 2 2, off := leAt e 4 4, slot := leAt e 8 1, sym := leAt e 9 1,
      add := (BitVec.ofNat 32 (leAt e 12 4)).toInt }

/-- v = symbol + sext(addend), of 64 bits. -/
def relocVal (s : State) (slot : Option Nat) (r : Reloc) (lcl : Nat) (core : Option Nat) : Nat :=
  (BitVec.ofInt 64 ((symVal s slot r.sym lcl core : Int) + r.add)).toNat

/-- Logical cores that hold a role, as (cluster, core). -/
def coresOfRole (p : Prog) (r : Nat) : List (Nat × Nat) :=
  (lclsOf p).flatMap fun l => ((List.range p.kCores).filter fun k => roleAt p l k == some r).map fun k => (l, k)

/-- Fault 09h of a record: reserved kind or symbol, a target outside its code or data, or an imm24 overflow. -/
def relocBad (s : State) (m : List Byte) (p : Prog) (slot : Option Nat) (r : Reloc) : Bool :=
  decide (7 < r.sym) ||
  (match r.kind with
   | 0x10 =>
     (match (initSects m)[r.tgt - 0x8000]? with
      | some x => decide (r.tgt < 0x8000) || decide (x.len - 16 < r.off + 8)
      | none => true)
   | 1 | 2 | 3 =>
     (match roleOf p r.tgt with
      | some q => decide (3 < r.slot) || r.off % 32 != 0 || decide (q.len < r.off + 32) || (codeSect m r.tgt).isNone
      | none => true) ||
     (r.kind == 3 && (coresOfRole p r.tgt).any fun (l, k) => decide (2 ^ 24 ≤ relocVal s slot r l (loadCore s l k)))
   | _ => true)

/-- Fault 0Ah of a role named in the placement (R223). -/
def roleBad (m : List Byte) (p : Prog) (r : Nat) : Bool :=
  match codeSect m r, roleOf p r with
  | some x, some q =>
    x.len != q.len || decide (p.codeSize * 0x10000 < q.len) ||
    !decide (codeBase p ≤ q.entry ∧ q.entry < codeBase p + q.len)
  | _, _ => true

/-- Two runs meet. -/
def runsMeet (a n b k : Nat) : Bool := decide (0 < n ∧ 0 < k ∧ a < b + k ∧ b < a + n)

def hubLen : Nat := 0x40000

/-- Fault 0Eh: section index (or which header area) and offset (R220, R222, R237). -/
def initBad (m : List Byte) (p : Prog) (x : Sect) : Bool :=
  let (_, _, unit, o) := initTarget m x
  let n := x.len - 16
  (if unit < 28 then decide (p.kCores ≤ unit) || decide (spmSize < o + n) || runsMeet o n (codeBase p) (spmSize - codeBase p)
   else unit != 0x20 || decide (cmSize < o + n) || runsMeet o n p.stageOff p.stageLen || runsMeet o n p.hubOff hubLen)

def memoryFault (m : List Byte) (p : Prog) : Option (Nat × Nat) :=
  let free i := (Config.loadDetail 0xE i).toNat
  if cmSize < p.stageOff + p.stageLen then some (free 0, p.stageOff)
  else if cmSize < p.hubOff + hubLen then some (free 1, p.hubOff)
  else if runsMeet p.stageOff p.stageLen p.hubOff hubLen then some (free 0, p.stageOff)
  else ((initSects m).find? (initBad m p)).map fun x => (x.no, (initTarget m x).2.2.2)

/-- The program keeps every live and parked sequence of the one that ran last (R241). -/
def keepsSeqs (s : State) (p : Prog) : Bool :=
  match s.ldr.lastProg with
  | some q => p.modelId == q.modelId && p.instDig == q.instDig && p.kvTok == q.kvTok && p.classes == q.classes
  | none => true

/-- First class whose length differs from the applied configuration (R290). -/
def classDiff (s : State) (p : Prog) : Option Nat :=
  (List.range 8).find? fun n => p.classes.getD n 0 != clsMax (clsOf s.kv.app n)

/-- Every check of state check, by ascending fault code: fault code, detail_a, detail_b of the first that fails. -/
def checkFault (s : State) (m : List Byte) (p : Prog) : Option (Nat × Nat × Nat) :=
  let stp := b2n s.fuses.b0
  let slot := if bindsNone p then none else bindSlot s p
  let grade (i : Nat) (bad : Bool) (have' : Nat) := if bad then some (4, (Config.loadDetail 4 i).toNat, have') else none
  (if 2 ≤ p.contract ∨ (p.contract = 1 ∧ stp = 0) then some (3, p.contract, stp) else none) <|>
  grade 0 (decide (s.fuses.grade < p.gradeMin)) s.fuses.grade <|>
  grade 1 (decide (gradeWt s < p.wwaf)) (gradeWt s) <|>
  grade 2 (decide (gradeKv s < p.kwaf)) (gradeKv s) <|>
  (if fieldsLeft s < p.fFields then some (5, p.fFields, fieldsLeft s) else none) <|>
  (if !bindsNone p && slot.isNone then some (6, 0, 0) else none) <|>
  (if p.fFields ≠ cfgFields s.kv.app.cfg then some (7, 0, 0) else none) <|>
  (if p.kvTok ≠ cfgKvTok s.kv.app.cfg then some (7, 0, (Config.loadDetail 7 0).toNat) else none) <|>
  ((classDiff s p).map fun n => (7, 0, n)) <|>
  ((imgSects m).findSome? fun x => if x.ty = 1 then (lowFront m x).map fun o => (8, x.idx, o) else none) <|>
  ((relocsOf m).zipIdx.findSome? fun (r, i) => if relocBad s m p slot r then some (9, i, 0) else none) <|>
  ((rolesUsed p).findSome? fun r => if roleBad m p r then some (0xA, r, 0) else none) <|>
  ((memoryFault m p).map fun (a, b) => (0xE, a, b)) <|>
  (if !keepsSeqs s p && anySeq s && !s.ldr.discard then some (0xF, 0, liveCount s) else none)

/-- Every live and parked sequence ends with one faulted event of reason 06h (R241); a record that is being restored is its
sequence's. -/
def discardAll (s : State) : State :=
  let s1 := (seqsIn s fun q => q.live).foldl (fun s e => faultSeq s e.1 6) s
  let s2 := (s.hub.parked.filter fun r => !recBusy s r).foldl (fun s r => tagEvent s r.tenant 11 6 r.seq.committed r.tag) s1
  freeEnded { s2 with hub := { s2.hub with parked := [] } }

/-- LOAD_CHECK (R237, R241, R255). -/
def execLoadCheck (s : State) : Res :=
  if s.ldr.state ≠ 3 then .next s
  else
    let p := s.ldr.cur
    match checkFault s s.ldr.image p with
    | some (code, a, b) => .next (loadFault s code a b)
    | none =>
      let s1 := if keepsSeqs s p then s else discardAll s
      .next { s1 with ldr := { s1.ldr with state := 4, bindTo := if bindsNone p then none else bindSlot s p } }

/-! ### State map (R186, R188, R181, R229, R236, R427) -/

/-- Nothing of the previous program is in flight (R225). -/
def planeQuiet (s : State) : Bool :=
  s.plane.packets.isEmpty && s.plane.xfers.isEmpty && s.plane.wlds.isEmpty && s.plane.kvs.isEmpty && s.plane.hputs.isEmpty &&
    s.plane.pays.isEmpty && s.plane.dma.isEmpty

/-- A record of section 06h: logical field, cluster, tree, entry. -/
def treeBad (p : Prog) (e : List Byte) : Bool :=
  !decide (leAt e 0 1 < p.fFields ∧ leAt e 1 1 < 12 ∧ 1 ≤ leAt e 2 2 ∧ leAt e 2 2 < 4096) || leAt e 4 4 % 2 ^ 20 != 0

/-- A record of section 07h: place, side, table, index, entry. -/
def gateRecBad (e : List Byte) : Bool :=
  let station := leAt e 1 1 == 4
  !decide (leAt e 1 1 ≤ 4 ∧ leAt e 2 1 ≤ 1 ∧ leAt e 0 1 < (if station then 28 else 48)) || leAt e 3 1 != 0 ||
  leAt e 6 2 != 0 || leAt e 8 4 % 2 ^ 17 != 0 ||
  !(if leAt e 2 1 = 0 then decide (leAt e 4 2 < 64) else decide (1 ≤ leAt e 4 2 ∧ leAt e 4 2 < 4096))

/-- A leg of the crossing list: fields, sides and lane in range. -/
def legBad (p : Prog) (e : List Byte) : Bool :=
  !decide (leAt e 8 1 < p.fFields ∧ leAt e 9 1 < 4 ∧ leAt e 10 1 < 4 ∧ leAt e 13 1 < p.fFields ∧ leAt e 14 1 < 4)

/-- First bad record of a list. -/
def firstBad (l : List (List Byte)) (bad : List Byte → Bool) : Option Nat :=
  (l.zipIdx.find? fun (e, _) => bad e).map (·.2)

/-- Fault 0Bh of the tables: record or leg index. -/
def tablesFault (m : List Byte) (p : Prog) : Option Nat :=
  firstBad (sectRecs m 6 8) (treeBad p) <|> firstBad (sectRecs m 7 12) gateRecBad <|> firstBad (sectRecs m 8 16) (legBad p)

/-- Router tree tables, moved with their logical field (R186). -/
def routerTables (s : State) (m : List Byte) : Table (BitVec 32) :=
  (sectRecs m 6 8).foldl (fun t e =>
    match pfieldOf s (leAt e 0 1) with
    | some pf => tset 0 t (4096 * (12 * pf + leAt e 1 1) + leAt e 2 2) (BitVec.ofNat 32 (leAt e 4 4))
    | none => t) []

/-- Writes one gateway or station entry: place, side (4 a station), table, index, entry. -/
def setGate (j : Jet) (x : Nat × Nat × Nat × Nat × BitVec 32) : Jet :=
  let (loc, side, table, idx, e) := x
  if side = 4 then
    if table = 0 then { j with stUni := tset 0 j.stUni (64 * loc + idx) e }
    else { j with stTree := tset 0 j.stTree (4096 * loc + idx) e }
  else if table = 0 then { j with gwUni := tset 0 j.gwUni (64 * (4 * loc + side) + idx) e }
  else { j with gwTree := tset 0 j.gwTree (4096 * (4 * loc + side) + idx) e }

/-- Entry of a record of section 07h. -/
def gateRec (e : List Byte) : Nat × Nat × Nat × Nat × BitVec 32 :=
  (leAt e 0 1, leAt e 1 1, leAt e 2 1, leAt e 4 2, BitVec.ofNat 32 (leAt e 8 4))

/-- The map's fields all stand at their reference positions (R184). -/
def atReference (s : State) (p : Prog) : Bool := (List.range p.fFields).all fun f => pfieldOf s f == some f

/-- Table entries of a plan that name a place and an index of a table. -/
def planEntries : MapPlan → List (Nat × Nat × Nat × Nat × BitVec 32)
  | .reference => []
  | .detours ents => ents.filter fun x => decide (x.2.1 ≤ 4 ∧ x.1 < (if x.2.1 = 4 then 28 else 48) ∧ x.2.2.1 ≤ 1) &&
      decide (if x.2.2.1 = 0 then x.2.2.2.1 < 64 else 1 ≤ x.2.2.2.1 ∧ x.2.2.2.1 < 4096)

/-- Legs of the image's crossing list. -/
def legsOf (m : List Byte) : List Leg := (sectRecs m 8 16).map parseLeg

/-- Gateway and station tables of the image, and those of a plan over them (R184, R186). -/
def imageGates (m : List Byte) : Jet := ((sectRecs m 7 12).map gateRec).foldl setGate {}
def planGates (m : List Byte) (plan : MapPlan) : Jet := (planEntries plan).foldl setGate (imageGates m)

/-- Physical fields whose transit domain is fenced. -/
def bypassList (s : State) : List Nat := (List.range 48).filter (bypassed s)

/-- First leg for which a plan leaves a condition of R186 unmet. -/
def unroutable (s : State) (m : List Byte) (p : Prog) (plan : MapPlan) : Option Nat :=
  mapFault (imageGates m) (planGates m plan) (bypassList s) p.detour (pfieldOf s) (legsOf m)

/-- Number of a 64-byte line's bank: scratchpad banks, weight FIFO, cluster-memory banks. -/
def lineBank (line : Nat) : Nat :=
  let a := 64 * line
  if a < 2 ^ 36 then 64 * (a / 2 ^ 21) + bankOf (a % 2 ^ 21)
  else if a < 2 ^ 37 then 64 * ((a - 2 ^ 36) / 2 ^ 16) + 32
  else 2 ^ 22 + 64 * ((a - 2 ^ 37) / 2 ^ 25) + cmBankOf ((a - 2 ^ 37) % 2 ^ 25)

/-- Each flagged line takes a spare line of its bank while one is left (R427). -/
def repairLine (s : State) (line : Nat) : State :=
  let b := lineBank line
  let n := tget 0 s.bg.spareLines b
  if 16 ≤ n then s
  else { s with bg := { s.bg with
      spareLines := tset 0 s.bg.spareLines b (n + 1), spared := satAdd 65535 s.bg.spared 1
      flagged := s.bg.flagged.filter (· != line), eccHist := s.bg.eccHist.filter fun e => e.1 != line } }

def repairLines (s : State) : State := s.bg.flagged.foldl repairLine s

/-- A block: section, its number within the section, and its data (at most 4,096 bytes). -/
structure Blk where
  sec : Sect
  k : Nat
  data : List Byte
deriving DecidableEq, Repr

/-- The image's blocks, numbered by their place in the list (R229). -/
def blocksOf (m : List Byte) : List Blk :=
  (imgSects m).flatMap fun x =>
    if x.ty = 1 ∨ x.ty = 2 then
      let d := if x.ty = 1 then sectBytes m x else (sectBytes m x).drop 16
      (List.range (cdivN d.length 4096)).map fun k => { sec := x, k := k, data := (d.drop (4096 * k)).take 4096 }
    else []

/-- A block is addressed to a cluster. -/
def blkTo (m : List Byte) (p : Prog) (b : Blk) (lcl : Nat) : Bool :=
  if b.sec.ty = 1 then holdsRole p lcl b.sec.idx && (roleOf p b.sec.idx).isSome else initNames m b.sec lcl

/-- Every (cluster, block) pair of the image. -/
def blkPairs (m : List Byte) (p : Prog) : List (Nat × Nat) :=
  (lclsOf p).flatMap fun l => ((blocksOf m).zipIdx.filter fun e => blkTo m p e.1 l).map fun e => (l, e.2)

/-- The physical fields that hold a receiving cluster: their routers get the loader's tree 0 (R229). -/
def treeFields (s : State) (m : List Byte) (p : Prog) : List Nat :=
  ((blkPairs m p).map fun x => x.1 / 12).eraseDups.filterMap (pfieldOf s)

/-- The tables the map state writes, and the number of rerouted legs. -/
def writeTables (s : State) (m : List Byte) (p : Prog) (plan : MapPlan) : State :=
  let g := planGates m plan
  let n := reroutedLegs (imageGates m) g (bypassList s) p.detour (pfieldOf s) (legsOf m)
  repairLines { s with
    jet := { s.jet with
      badMask := s.bg.badMask, router := routerTables s m, gwUni := g.gwUni, gwTree := g.gwTree, stUni := g.stUni,
      stTree := g.stTree, tree0 := treeFields s m p, tblErr := [] }
    ldr := { s.ldr with state := 5, prog := none, rerouted := n, cur := p } }

/-- LOAD_MAP (R186, R225, R236): waits until nothing of the previous program is in flight. A leg that the paths found do
not serve under every condition of R186 refuses the field map (log 27). -/
def execLoadMap (plan : MapPlan) (s : State) : Res :=
  let m := s.ldr.image
  let p := s.ldr.cur
  if s.ldr.state ≠ 4 ∨ !planeQuiet s then .next s
  else
    match tablesFault m p with
    | some i => .next (loadFault s 0xB i 0)
    | none =>
      match unroutable s m p plan with
      | some leg => .next (loadFault s 0xB leg 0)
      | none => .next (writeTables s m p plan)

/-! ### Pass 2, digests and repair (R228-R231) -/

/-- Where a block is stored in a cluster: unit and offset. -/
def blkUnitOff (m : List Byte) (p : Prog) (b : Blk) : Nat × Nat :=
  if b.sec.ty = 1 then (0x20, p.stageOff + ((roleOf p b.sec.idx).map (·.stage)).getD 0 + 4096 * b.k)
  else
    let (_, _, unit, o) := initTarget m b.sec
    (unit, o + 4096 * b.k)

/-- Place of a unit's offset in the plane's memories, by the core table of the load. -/
def loadPlace (s : State) (lcl unit off : Nat) : Option Nat :=
  match pclOfL s lcl with
  | none => none
  | some pcl =>
    if unit = 0x20 then some (cmAddr pcl off)
    else ((coresGood s pcl)[unit]?).map fun q => spmAddr (32 * pcl + q) off

def blkPlace (s : State) (m : List Byte) (p : Prog) (b : Blk) (lcl : Nat) : Option Nat :=
  let (unit, o) := blkUnitOff m p b
  loadPlace s lcl unit o

/-- A cluster whose field is fenced receives nothing. -/
def lclAlive (s : State) (lcl : Nat) : Bool :=
  match pfieldOf s (lcl / 12) with
  | some pf => fieldState s pf == 0
  | none => false

/-- Bytes of a unit from an offset on. -/
def unitRoom (unit off : Nat) : Nat := (if unit = 0x20 then cmSize else spmSize) - off

/-- A block as it is stored: 4,096 bytes, zeros after the last byte of its section, as far as its unit goes (R229). -/
def storeBlk (s : State) (m : List Byte) (p : Prog) (pr : Nat × Nat) : State :=
  match (blocksOf m)[pr.2]? with
  | none => s
  | some b =>
    match blkPlace s m p b pr.1 with
    | none => s
    | some a =>
      let n := min 4096 (unitRoom (blkUnitOff m p b).1 (blkUnitOff m p b).2)
      let s1 := sramClean s a n
      { s1 with plane := { s1.plane with sram := mwrite (mclear s1.plane.sram a (a + n)) a (b.data.take n) } }

/-- n bytes of a unit as stored; those past its end are free values (log 108). -/
def unitRead (s : State) (unit off a n : Nat) : List Byte :=
  let r := min n (unitRoom unit off)
  s.sramGet a r ++ (List.range (n - r)).map fun i => Config.pastUnit a (r + i)

/-- Sends the pairs of a list; those that do not arrive are missing. -/
def sendBlks (s : State) (m : List Byte) (p : Prog) (l lost : List (Nat × Nat)) : State :=
  let arrive := l.filter fun x => !lost.contains x && lclAlive s x.1
  let s1 := arrive.foldl (fun s x => storeBlk s m p x) s
  { s1 with ldr := { s1.ldr with missing := l.filter fun x => !arrive.contains x } }

/-- Clusters that receive blocks. -/
def receivers (m : List Byte) (p : Prog) : List Nat := ((blkPairs m p).map (·.1)).eraseDups

/-- Every receiving cluster's digest matches. -/
def allMatch (s : State) : Bool :=
  s.ldr.missing.isEmpty && s.ldr.bad.isEmpty && (receivers s.ldr.image s.ldr.cur).all fun l => s.ldr.checked.contains l

def toCopy (s : State) : State := if allMatch s then { s with ldr := { s.ldr with state := 7 } } else s

/-- A hardware fault in a cluster since the load began: its first block counts as missing (R238). -/
def settleHurt (s : State) : State :=
  let l := s.ldr.hurt.eraseDups.filterMap fun lcl => (blkPairs s.ldr.image s.ldr.cur).find? fun x => x.1 == lcl
  let more := l.filter fun x => !s.ldr.missing.contains x
  { s with ldr := { s.ldr with
      hurt := [], missing := s.ldr.missing ++ more, checked := s.ldr.checked.filter fun c => !more.any fun x => x.1 == c } }

/-- LOAD_PASS2 (R228, R229): the image is read again; a different D is fault 0Dh. -/
def execLoadPass2 (img : ImageRead) (lost : List (Nat × Nat)) (s : State) : Res :=
  if s.ldr.state ≠ 5 ∨ !s.ldr.missing.isEmpty ∨ s.ldr.blocks ≠ 0 then .next s
  else
    match img with
    | .failed off => .next (loadFault s 0x10 2 (off / 4096))
    | .bytes m =>
      if m.length ≠ s.ldr.image.length ∨ bodyDigest m ≠ s.ldr.cur.digest then .next (loadFault s 0xD 0 0)
      else
        let s1 := settleHurt (sendBlks s m s.ldr.cur (blkPairs m s.ldr.cur) lost)
        .next (toCopy { s1 with ldr := { s1.ldr with blocks := min (2 ^ 32 - 1) (blocksOf m).length } })

/-- Bytes a block enters a cluster's digest with: the 16-byte target and its 4,096 bytes as stored (R230). -/
def blkDigest (s : State) (m : List Byte) (p : Prog) (lcl : Nat) (b : Blk) : List Byte :=
  let (_, o) := blkUnitOff m p b
  let tgt :=
    if b.sec.ty = 1 then leBytes 6 (2 ^ (lcl / 12)) ++ leBytes 2 (2 ^ (lcl % 12)) ++ [0x20#8, 0, 0, 0] ++ leBytes 4 o
    else (sectBytes m b.sec).take 16
  let d := match blkPlace s m p b lcl with
    | some a => unitRead s (blkUnitOff m p b).1 o a 4096
    | none => []
  tgt ++ d

/-- A cluster's entry of the cluster digest table. -/
def digestEntry (m : List Byte) (lcl : Nat) : List Byte :=
  match sectOf (imgSects m) 9 with
  | some x => (m.drop (x.off + 64 * lcl)).take 64
  | none => []

/-- CLUSTER_DIGEST_CHECK (R230): once the bitmap is full. A double-bit error met counts as a missing block. -/
def execClusterDigestCheck (lcl : Nat) (s : State) : Res :=
  let s := settleHurt s
  let m := s.ldr.image
  let p := s.ldr.cur
  let mine := (blkPairs m p).filter fun x => x.1 == lcl
  if (s.ldr.state ≠ 5 ∧ s.ldr.state ≠ 6) ∨ s.ldr.blocks = 0 ∨ mine.isEmpty ∨ s.ldr.missing.any (fun x => x.1 == lcl) ∨
      s.ldr.checked.contains lcl ∨ s.ldr.bad.contains lcl then .next s
  else
    let blks := mine.filterMap fun x => (blocksOf m)[x.2]?.map fun b => (x, b)
    let dbl := (blks.filter fun (_, b) => match blkPlace s m p b lcl with
      | some a => (sramBad s a (min 4096 (unitRoom (blkUnitOff m p b).1 (blkUnitOff m p b).2))).isSome
      | none => false).map (·.1)
    let s := blks.foldl (fun s (_, b) => match blkPlace s m p b lcl with
      | some a => sramCorrect s a (min 4096 (unitRoom (blkUnitOff m p b).1 (blkUnitOff m p b).2))
      | none => s) s
    if !dbl.isEmpty then .next { s with ldr := { s.ldr with missing := s.ldr.missing ++ dbl } }
    else
      if sha512 (blks.flatMap fun (_, b) => blkDigest s m p lcl b) = digestEntry m lcl then
        .next (toCopy { s with ldr := { s.ldr with checked := s.ldr.checked ++ [lcl] } })
      else .next { s with ldr := { s.ldr with bad := s.ldr.bad ++ [lcl] } }

/-- After round 8: one field's cluster is fenced with fault 12h; failures in more than one field are fault 0Ch (R231). -/
def repairFails (s : State) (failing : List Nat) : State :=
  let fields := (failing.map (· / 12)).eraseDups
  match fields with
  | [_] =>
    let lcl := failing.foldl min (failing.headD 0)
    let pcl := (pclOfL s lcl).getD 0
    loadFault ((failing.filterMap (pclOfL s)).foldl fenceCluster s) 0x12 (pcl / 12) (pcl % 12)
  | _ => loadFault s 0xC fields.length 0

/-- RESEND_ROUND (R231): missing blocks, and every block of a cluster whose digest differs, by unicast; at most 8
rounds. -/
def execResendRound (img : ImageRead) (lost : List (Nat × Nat)) (s : State) : Res :=
  let s := settleHurt s
  let p := s.ldr.cur
  let again := s.ldr.missing ++ (blkPairs s.ldr.image p).filter fun x => s.ldr.bad.contains x.1 && !s.ldr.missing.contains x
  if (s.ldr.state ≠ 5 ∧ s.ldr.state ≠ 6) ∨ again.isEmpty then .next s
  else if 8 ≤ s.ldr.rounds then .next (repairFails s ((again.map (·.1)).eraseDups))
  else
    match img with
    | .failed off => .next (loadFault s 0x10 2 (off / 4096))
    | .bytes m =>
      let s1 := sendBlks s m p again lost
      .next { s1 with ldr := { s1.ldr with
        state := 6, rounds := s.ldr.rounds + 1, bad := [], blocks := satAdd (2 ^ 32 - 1) s.ldr.blocks again.length } }

/-! ### Copy and start (R108, R110, R232, R234, R243) -/

/-- Patches one 64-bit slot of a bundle. -/
def patchSlot (code : List Byte) (r : Reloc) (v : Nat) : List Byte :=
  let o := r.off + 8 * r.slot
  let w := leAt code o 8
  let w' := match r.kind with
    | 1 => w / 2 ^ 32 * 2 ^ 32 + v % 2 ^ 32
    | 2 => w / 2 ^ 32 * 2 ^ 32 + v / 2 ^ 32 % 2 ^ 32
    | _ => w / 2 ^ 24 * 2 ^ 24 + v % 2 ^ 24
  code.take o ++ leBytes 8 w' ++ code.drop (o + 8)

/-- Shape registers of a core (R110). -/
def shapeRegs (s : State) (p : Prog) (lcl k role : Nat) : Table (BitVec 64) :=
  [lcl / 12, lcl % 12, k, p.kCores, p.fFields, gradeWt s + 16 * gradeKv s, p.contract, b2n s.fuses.b0, role,
   p.sSlots % 512 + 2 ^ 9 * p.kMax + 2 ^ 12 * p.pPos, p.experts, lcl].zipIdx.foldl
    (fun t (v, i) => tset 0 t i (BitVec.ofNat 64 v)) []

/-- Core state at a start (R108): zero but for the role, the entry offset and the shape registers. -/
def startCoreState (s : State) (p : Prog) (lcl k r : Nat) : Core :=
  let e := ((roleOf p r).map (·.entry)).getD 0
  { role := some r, issue := .run, pc := BitVec.ofNat 21 e, sh := shapeRegs s p lcl k r }

/-- Every core of the program with its cluster, logical core and role. -/
def progCores (s : State) (p : Prog) : List (Nat × Nat × Nat × Nat) :=
  (lclsOf p).flatMap fun l => (List.range p.kCores).filterMap fun k =>
    match roleAt p l k, loadCore s l k with
    | some r, some c => some (c, l, k, r)
    | _, _ => none

/-- Where a core's code stands in the stage area of its cluster: offset, length, place. -/
def stageOf (p : Prog) (c r : Nat) : Option (Nat × Nat × Nat) :=
  (roleOf p r).map fun q => (p.stageOff + q.stage, q.len, cmAddr (pclOf c) (p.stageOff + q.stage))

/-- Copies one core's code from the stage area, relocated (R96, R232). -/
def copyCode (s : State) (m : List Byte) (p : Prog) (x : Nat × Nat × Nat × Nat) : State :=
  let (c, lcl, _, r) := x
  match stageOf p c r with
  | none => s
  | some (o, n, a) =>
    let s := sramCorrect s a (min n (unitRoom 0x20 o))
    let code' := ((relocsOf m).filter fun z => z.tgt == r && z.kind != 0x10).foldl
      (fun d z => patchSlot d z (relocVal s s.ldr.bindTo z lcl (some c))) (unitRead s 0x20 o a n)
    (sramClean s (spmAddr c (codeBase p)) n).sramSet (spmAddr c (codeBase p)) code'

/-- Code blocks of the stage areas that hold a double-bit error, which the copy meets: they count as missing (R96, R238). -/
def badStage (s : State) (m : List Byte) (p : Prog) : List (Nat × Nat) :=
  (blkPairs m p).filter fun x =>
    match (blocksOf m)[x.2]? with
    | some b => b.sec.ty == 1 && (match blkPlace s m p b x.1 with
        | some a => (sramBad s a b.data.length).isSome
        | none => false)
    | none => false

/-- Applies the relocation records of one data initialiser in one cluster. -/
def patchInit (s : State) (m : List Byte) (x : Sect) (n lcl : Nat) : State :=
  if !initNames m x lcl then s
  else
    let (_, _, unit, o) := initTarget m x
    let core := if unit < 28 then loadCore s lcl unit else none
    ((relocsOf m).filter fun z => z.kind == 0x10 && z.tgt == 0x8000 + n).foldl (fun s z =>
      match loadPlace s lcl unit (o + z.off) with
      | some a => (sramClean s a 8).sramSet a (leBytes 8 (relocVal s s.ldr.bindTo z lcl core))
      | none => s) s

/-- Zeros over the stage area of every used cluster. -/
def zeroStage (s : State) (p : Prog) : State :=
  (lclsOf p).foldl (fun s l =>
    match pclOfL s l with
    | some pcl =>
      let lo := cmAddr pcl p.stageOff
      let s1 := sramClean s lo p.stageLen
      { s1 with plane := { s1.plane with sram := mclear s1.plane.sram lo (lo + p.stageLen) } }
    | none => s) s

/-- The start of R108: every core at its entry, cycle 0. -/
def startPlane (s : State) (p : Prog) : State :=
  let cs := (progCores s p).foldl (fun t (c, l, k, r) => tset {} t c (startCoreState s p l k r)) []
  { s with plane := { s.plane with
      cycle := 0, clockOn := true, progRun := true, cores := cs, xfers := [], wlds := [], kvs := [], hputs := [], packets := [],
      pays := [], dma := [], relGo := false, resvs := [], faults := [], fTimer := 0, fFirst := none, fLast := 0 } }

/-- JS_ARRSTAT, JS_TRAFFIC and JS_FRONTSTAT are cleared. -/
def clearCounts (s : State) : State :=
  { s with plane := { s.plane with
      freezeCnt := 0, firstFrz := none, slipMax := 0, crossings := 0, packetCnt := 0, fronts := 0, maxWait := 0, maxFront := 0 } }

/-- Slots' bound flags after a load. -/
def bindSlots (s : State) : State :=
  let l := (List.range 4).foldl (fun t n => tmod {} t n fun x => { x with bound := s.ldr.bindTo == some n }) s.wst.slots
  { s with wst := { s.wst with slots := l } }

/-- LOAD_COPY (R232): code, relocation, zeroed stage, shape registers, and every core starts. A block that a hardware
fault costs a cluster is resent first (R238). -/
def execLoadCopy (s : State) : Res :=
  let s := if s.ldr.state = 7 then settleHurt s else s
  let m := s.ldr.image
  let p := s.ldr.cur
  if s.ldr.state ≠ 7 then .next s
  else if !s.ldr.missing.isEmpty ∨ !(badStage s m p).isEmpty then
    let more := (badStage s m p).filter fun x => !s.ldr.missing.contains x
    .next { s with ldr := { s.ldr with
      state := 6, missing := s.ldr.missing ++ more, checked := s.ldr.checked.filter fun c => !more.any fun x => x.1 == c } }
  else
    let s1 := (progCores s p).foldl (fun s x => copyCode s m p x) s
    let s2 := (initSects m).zipIdx.foldl (fun s (x, n) => (lclsOf p).foldl (fun s l => patchInit s m x n l) s) s1
    let s3 := bindSlots (clearCounts (startPlane (zeroStage s2 p) p))
    let s4 : State := { s3 with
      jet := { s3.jet with
        allow := p.detour, rerouted := s3.ldr.rerouted, mapRef := allHome s3, mapSpares := (sparesOf s3).length
        mapBypass := ((List.range 48).filter fun pf => fieldState s3 pf == 2).length }
      ldr := { s3.ldr with
        state := 8, start := false, loads := satAdd 65535 s3.ldr.loads 1, prog := some p, lastProg := some p,
        tracing := s3.ldr.trEn, trace := [], image := [], cur := {}, bindTo := none, checked := [], missing := [], bad := [] } }
    let s5 := hubStart (settleFences s4)
    .next ((ownerEvent s5 1 0 s5.ldr.loads (BitVec.ofNat 64 (leAt p.digest 0 8))).emit (.msix 0 3))

end Sys2Proof.Machine
end

