-- ==== Sys2Proof/Machine/Isobar.lean ====
section
/-! DEFINITION. The power terms of the grade and the effective cap, and the Isobar ring (R370-R373, R377, R386, R406). -/

namespace Sys2Proof.Machine

open Sys2Proof

/-! ### Caps (R18, R377, R386, R406) -/

/-- Maximum power of the grade, in W. -/
def gradeMax (s : State) : Nat :=
  match s.fuses.grade with
  | 2 => 22000
  | 4 => 27000
  | 6 => 32000
  | _ => 36000

/-- Rated VIR current of the grade, in A (R377). -/
def ratedAmps (s : State) : Nat :=
  match s.fuses.grade with
  | 2 => 14700
  | 4 => 18000
  | 6 => 21400
  | _ => 24000

/-- Divisor of a state's power bound (R386). -/
def boundDiv (st : Nat) : Nat :=
  match st with
  | 4 => 10
  | 3 => 100
  | 2 => 1000
  | 1 => 10000
  | _ => 1

def isoEn (s : State) : Bool := bit s.iso.cfg.toNat 63
def isoMaster (s : State) : Bool := bit s.iso.cfg.toNat 62
/-- Floor and fallback share of ISO_CFG, in W. -/
def isoFloor (s : State) : Nat := 4 * bits s.iso.cfg.toNat 47 32
def isoFallback (s : State) : Nat := 4 * bits s.iso.cfg.toNat 31 16

/-- Terms of the effective cap with their source codes, those that apply: grade, owner, thermal, current, share (R406). -/
def capTerms (s : State) : List (Nat × Nat) :=
  [(gradeMax s, 0), (4 * s.thm.cap, 1)] ++
  (match s.thm.therm with | some w => [(w, 2)] | none => []) ++
  [(ratedAmps s * s.pwr.vmin / 1000, 3)] ++
  (if isoEn s then [(s.iso.share, if s.iso.ring = 1 then 4 else 5)] else [])

/-- The least term; the lowest code on a tie. -/
def leastTerm : List (Nat × Nat) → Nat × Nat
  | [] => (0, 0)
  | t :: r => r.foldl (fun b x => if x.1 < b.1 then x else b) t

def effCap (s : State) : Nat × Nat := leastTerm (capTerms s)

/-- Demand the engine announces: the least of the first three terms in Run, the state's bound below Run (R406). -/
def demand (s : State) : Nat :=
  if 1 ≤ s.pwr.state ∧ s.pwr.state ≤ 4 then gradeMax s / boundDiv s.pwr.state
  else (leastTerm ((capTerms s).filter fun t => decide (t.2 ≤ 2))).1

/-! ### Frames (R371) -/

/-- A frame: type, source, hop count, flags, sequence, 20 bytes of payload and the CRC-32. -/
def isoFrame (ty src hop : Nat) (seq : BitVec 32) (pay : List Byte) : List Byte :=
  let b := leBytes 1 ty ++ leBytes 1 src ++ leBytes 1 hop ++ leBytes 1 0 ++ leBytes 4 seq.toNat ++
    (List.range 20).map (byteAt pay)
  b ++ leBytes 4 (crc32 b).toNat

/-- A frame with a good CRC. -/
def isoGood (f : List Byte) : Bool := f.length == 32 && leAt f 28 4 == (crc32 (f.take 28)).toNat

/-- Sends a frame of the station's own; it stays quiet with the bypass closed. -/
def isoSend (s : State) (ty hop : Nat) (pay : List Byte) : State :=
  if !s.iso.opened then s
  else
    let s1 : State := { s with iso := { s.iso with seq := s.iso.seq + 1 } }
    s1.emit (.frame (isoFrame ty s.iso.station hop s.iso.seq pay))

/-- An alarm frame. -/
def isoAlarm (s : State) (code : Nat) (detail : BitVec 32) : State :=
  isoSend s 3 0 (leBytes 1 code ++ leBytes 3 0 ++ leBytes 4 detail.toNat)

/-- An alarm of the engine's own; its detail is a free value (log 46). -/
def alarm (s : State) (code : Nat) : State := isoAlarm s.bumpFree code (Config.alarmDetail code s.free)

/-- The ring's state changes, with owner event 08h (R373). -/
def isoRing (s : State) (ring reason : Nat) : State :=
  if s.iso.ring = ring then s
  else ownerEvent { s with iso := { s.iso with ring := ring } } 8 reason s.iso.count 0

/-! ### The bypass (R370, R432, R434) -/

/-- The bypass should stand open: ISO_CFG.en, VSB present, not held in reset, and no removal at Frost. -/
def isoWanted (s : State) : Bool :=
  isoEn s && !s.pwr.off && !s.bg.perst && !(s.pwr.causes.contains 3 && s.pwr.state == 1)

/-- Opens or closes the bypass as it should stand. -/
def isoSync (s : State) : State :=
  if isoWanted s == s.iso.opened then s
  else if isoWanted s then
    { s with iso := { s.iso with opened := true, ring := 0, station := 0, share := isoFallback s } }
  else
    { s with iso := { s.iso with opened := false, ring := 0, station := 0, count := 0, share := 0, demands := [], masters := [] } }

/-- Bits of ISO_CFG that are kept. -/
def isoCfgMask (v : BitVec 64) : BitVec 64 := v &&& 0xC000FFFFFFFFFFFF#64

/-- While the ring is not whole with one master the fallback is an open station's share (R373). -/
def isoShare (s : State) : State :=
  if s.iso.opened && s.iso.ring != 1 then { s with iso := { s.iso with share := isoFallback s } } else s

/-- A write of ISO_CFG. -/
def writeIsoCfg (s : State) (v : BitVec 64) : State :=
  isoShare (isoSync { s with iso := { s.iso with cfg := isoCfgMask v } })

/-- ISOBAR_JOIN (R370): a write of ISO_CFG. -/
def execIsobarJoin (v : BitVec 64) (s : State) : Res := .next (writeIsoCfg s v)

/-! ### Frames in and out (R371, R372) -/

/-- A frame of the station's own: sent with its number, which only the master has as 0. -/
def isoOwn (s : State) (f : List Byte) : Bool :=
  leAt f 1 1 == s.iso.station && (isoMaster s || s.iso.station != 0)

/-- Ring time, budget and number from a time frame with source src; the ring is whole with one master. -/
def takeTime (s : State) (f : List Byte) : State :=
  let src := leAt f 1 1
  let m := if s.iso.masters.contains src then s.iso.masters else s.iso.masters ++ [src]
  let hop := leAt f 2 1
  let iso := if isoMaster s then { s.iso with masters := m }
    else { s.iso with
      masters := m, station := hop % 32, time := leAt f 8 8 + 64 * hop, budgetB := leAt f 16 4 }
  let s1 : State := { s with iso := iso }
  if m.length = 1 then isoRing s1 1 1 else s1

/-- Records a budget frame of a station. -/
def takeDemand (s : State) (n d fl : Nat) : State :=
  { s with iso := { s.iso with demands := (s.iso.demands.filter fun e => e.1 != n) ++ [(n, d, fl)] } }

/-- What a station does with a good frame besides forwarding it. -/
def takeFrame (s : State) (f : List Byte) : State :=
  match leAt f 0 1 with
  | 1 => takeTime s f
  | 2 => takeDemand s (leAt f 1 1) (leAt f 8 4) (leAt f 12 4)
  | 3 => ownerEvent s 9 (leAt f 8 1) (leAt f 1 1) (BitVec.ofNat 64 (leAt f 12 4))
  | _ => s

/-- The frame as forwarded: a time frame's hop count is raised, and its CRC made anew. -/
def forwardFrame (f : List Byte) : List Byte :=
  if leAt f 0 1 = 1 then
    let b := f.take 2 ++ leBytes 1 ((leAt f 2 1 + 1) % 256) ++ (f.drop 3).take 25
    b ++ leBytes 4 (crc32 b).toNat
  else f

/-- ISOBAR_FRAME_RECEIVE (R371-R373). A closed bypass passes the line through. -/
def execIsobarFrameReceive (frame : List (BitVec 8)) (s : State) : Res :=
  if !s.iso.opened then .next (s.emit (.frame frame))
  else if !isoGood frame then .next { s with iso := { s.iso with crc := satAdd 65535 s.iso.crc 1 } }
  else
    let s1 := if s.iso.ring = 2 then isoRing s 1 1 else s
    if isoOwn s1 frame then .next (if leAt frame 0 1 = 1 then takeTime s1 frame else s1)
    else .next ((takeFrame s1 frame).emit (.frame (forwardFrame frame)))

/-- ISOBAR_TIME_FRAME (R372): the master's, every 1 ms, at a whole millisecond of ring time. -/
def execIsobarTimeFrame (s : State) : Res :=
  if !s.iso.opened || !isoMaster s then .next s
  else
    let t := (s.iso.time / 1000000 + 1) * 1000000
    let b := 16 * bits s.iso.cfg.toNat 15 0
    let s1 : State := { s with iso := { s.iso with station := 0, time := t, budgetB := b } }
    .next (isoSend s1 1 1 (leBytes 8 t ++ leBytes 4 b ++ leBytes 4 s.iso.count))

/-- ISOBAR_BUDGET_FRAME (R372): demand, floor and the share last computed. -/
def execIsobarBudgetFrame (s : State) : Res :=
  if !s.iso.opened then .next s
  else
    let d := demand s
    .next (isoSend (takeDemand s s.iso.station d (isoFloor s)) 2 0 (leBytes 4 d ++ leBytes 4 (isoFloor s) ++ leBytes 4 s.iso.share))

/-- Share of a station with demand d and floor fl, from the frames of the millisecond (R372). -/
def shareOf (b : Nat) (frames : List (Nat × Nat × Nat)) (d fl : Nat) : Nat :=
  let sumF : Int := ((frames.map fun e => e.2.2).sum : Nat)
  let dd : Int := (frames.map fun e => ((e.2.1 : Int) - (e.2.2 : Int))).sum
  if (b : Int) ≤ sumF ∨ dd = 0 then fl
  else (min ((fl : Int) + Int.tdiv (((b : Int) - sumF) * ((d : Int) - (fl : Int))) dd) (d : Int)).toNat

/-- ISOBAR_SHARE_COMPUTE (R372, R373): at a whole millisecond, while the ring is whole. -/
def execIsobarShareCompute (s : State) : Res :=
  if !s.iso.opened then .next s
  else
    let own := s.iso.demands.any fun e => e.1 == s.iso.station
    let l := if own then s.iso.demands else (takeDemand s s.iso.station (demand s) (isoFloor s)).iso.demands
    let me := (l.find? fun e => e.1 == s.iso.station).getD (0, 0, 0)
    let share := if s.iso.ring = 1 then shareOf s.iso.budgetB l me.2.1 me.2.2 else s.iso.share
    .next { s with iso := { s.iso with share := share, count := min 32 l.length, demands := [], masters := [] } }

/-- ISOBAR_ALARM (R371): an alarm frame is sent. -/
def execIsobarAlarm (code : BitVec 8) (detail : BitVec 32) (s : State) : Res := .next (isoAlarm s code.toNat detail)

/-- While the ring is broken or has lost its master the fallback is the share (R373). -/
def isoLose (s : State) (ring reason : Nat) : State :=
  let s1 := isoRing s ring reason
  isoShare { s1 with iso := { s1.iso with demands := [] } }

/-- ISOBAR_BREAK_TIMEOUT (R373): no good frame for 100 us; a break frame every 100 us. -/
def execIsobarBreakTimeout (s : State) : Res :=
  if !s.iso.opened then .next s else .next (isoSend (isoLose s 2 0) 4 0 [])

/-- ISOBAR_MASTER_LOST (R373): no time frame for 3 ms, or two masters; a broken ring stays broken. -/
def execIsobarMasterLost (s : State) : Res :=
  if !s.iso.opened || s.iso.ring == 2 then .next s else .next (isoLose s 3 2)

end Sys2Proof.Machine
end

