-- ==== Sys2Proof/Machine/Fabric.lean ====
section
/-! DEFINITION. Fabric ports, queue pairs and the DMA windows (R215, R360, R364-R369). -/

namespace Sys2Proof.Machine

open Sys2Proof

/-! ### Ports (R366, R369) -/

def State.port (s : State) (p : Nat) : FPort := tget {} s.host.ports p

def State.setPort (s : State) (p : Nat) (x : FPort) : State := { s with host := { s.host with ports := tset {} s.host.ports p x } }

/-- A frame dropped or an arrival refused at a port. -/
def portDrop (s : State) (p : Nat) : State :=
  let x := s.port p
  s.setPort p { x with drops := satAdd 65535 x.drops 1 }

/-- Port of a queue pair, and whether it selects the upper half. -/
def qpPort (q : Qp) : Nat := (byteAt q.ctx 1).toNat % 128
def qpUpper (q : Qp) : Bool := bit (byteAt q.ctx 1).toNat 7

/-- A queue pair's part of its port is up (state codes of LNK_PORTn). -/
def portUp (x : FPort) (upper : Bool) : Bool := x.st == 2 || (x.st == 3 && !(upper && x.run == 1))

/-- Payload rate of a port in its mode, in b/s (R366); a half port carries 800 Gb/s. -/
def portRate (x : FPort) : Nat :=
  match x.run.toNat with
  | 1 => 800000000000
  | 2 => 1686000000000
  | _ => 1600000000000

/-! ### Queue pairs (R360, R367-R369) -/

/-- Owning tenant of a queue pair; none: the owner. -/
def qpTenant (q : Qp) : Option Nat := let o := leAt q.ctx 4 2; if o < 256 then some o else none

/-- A context Set QP accepts: every field in range, the rest zero. -/
def ctxOk (c : List Byte) : Bool :=
  c.length == 64 && decide (leAt c 0 1 ≤ 1) && decide (leAt c 1 1 % 128 < 12) && decide (leAt c 3 1 ≤ 2) &&
  (decide (leAt c 4 2 < 256) || leAt c 4 2 == 65535) && decide (leAt c 6 1 < 64) &&
  (decide (leAt c 7 1 < 4) || leAt c 7 1 == 255) && leAt c 11 1 == 0 && leAt c 15 1 == 0 && leAt c 19 1 == 0 &&
  zeros c 26 32 && zeros c 50 64

/-- A fresh queue pair from a context: its rate starts at the port's (R368). -/
def newQp (s : State) (c : List Byte) : Qp :=
  { ctx := c, st := leAt c 0 1, rate := portRate (s.port (leAt c 1 1 % 128)), spsn := leAt c 12 3, rpsn := leAt c 16 3 }

/-- The context as Get QP returns it, with current indices and state. -/
def readQp (q : Qp) : List Byte :=
  let c := q.ctx
  leBytes 1 q.st ++ (List.range 11).map (fun i => byteAt c (i + 1)) ++ leBytes 4 q.spsn ++ leBytes 4 q.rpsn ++
    (List.range 44).map fun i => byteAt c (i + 20)

/-- A queue pair enters the error state, once. -/
def qpError (s : State) (n : Nat) : State :=
  let q := s.qp n
  if q.st = 2 then s
  else
    let s1 := s.setQp n { q with st := 2 }
    { s1 with host := { s1.host with qperr := satAdd 65535 s1.host.qperr 1 } }

/-! ### Operations on queue pairs (R215, R369) -/

/-- Outstanding snowpack and shard operations on the fabric: kind (0 park, 1 restore, 2 shard), reference, queue pair. -/
def fabOps (s : State) : List (Nat × Nat × Nat) :=
  ((seqsIn s fun q => q.st == 5 && bit q.parkA.toNat 62).map fun e => (0, e.1, opQp s 0 e.1 (bits e.2.parkA.toNat 55 32))) ++
  ((seqsIn s fun q => q.st == 7).filterMap fun e =>
    match s.hub.parked.find? fun r => r.parkId == e.2.parkId with
    | some r => if bit r.tgt.toNat 62 then some (1, e.1, opQp s 1 e.1 (bits r.tgt.toNat 55 32)) else none
    | none => none) ++
  (s.wst.ctls.filter fun k => k.st == 0).filterMap fun k => (ctlQp s k).map fun q => (2, k.shard, q)

/-- An operation fails as a transport failure, or a source error of its shard. -/
def failOp (s : State) (o : Nat × Nat × Nat) : State :=
  match o.1 with
  | 0 => freeEnded (parkFail s o.2.1 2)
  | 1 => restoreFail s o.2.1 2
  | _ =>
    match s.wst.ctls.find? fun k => k.shard == o.2.1 && k.st == 0 with
    | some k => refetch s k (k.todo.headD 0) 2
    | none => s

/-- A ready queue pair of the same group on a port that is up (R369). -/
def sparePair (s : State) (n : Nat) : Option Nat :=
  let g := byteAt (s.qp n).ctx 2
  if g = 0 then none
  else
    (s.host.qps.find? fun e => e.1 != n && e.2.st == 1 && byteAt e.2.ctx 2 == g &&
      portUp (s.port (qpPort e.2)) (qpUpper e.2)).map (·.1)

/-- The MiB up to which an operation is acknowledged: as given, and never below where its queue pair began. -/
def ackedTo (acked : List (Nat × Nat × Nat)) (o : FabOp) : Nat :=
  max o.start (((acked.find? fun a => a.1 == o.kind && a.2.1 == o.ref).map fun a => a.2.2).getD 0)

/-- Moves an operation to another queue pair of its group, where it restarts from its last fully acknowledged MiB, or fails it
(R369). -/
def moveOp (acked : List (Nat × Nat × Nat)) (s : State) (o : Nat × Nat × Nat) : State :=
  match sparePair s o.2.2 with
  | none => failOp s o
  | some q =>
    let x := fabOp s o.1 o.2.1 o.2.2
    let a := ackedTo acked x
    let y : FabOp := { qp := q, kind := o.1, ref := o.2.1, start := a,
                       parts := if x.start < a then x.parts ++ [(x.qp, x.start, a)] else x.parts }
    let s1 := s.clearOp o.1 o.2.1
    { s1 with host := { s1.host with ops := s1.host.ops ++ [y], moved := satAdd 65535 s1.host.moved 1 } }

/-- A port or its upper half goes down: its queue pairs enter the error state, their operations move, and owner event 07h
gives the number of pairs moved (R369). `acked` gives the MiB that each operation had acknowledged, as (kind, reference,
MiB). -/
def portDown (s : State) (p : Nat) (upper : Bool) (acked : List (Nat × Nat × Nat) := []) : State :=
  let x := s.port p
  let half := upper && x.run == 1
  if x.st < 2 ∨ (half ∧ x.st = 3) then s
  else
    let s1 := s.setPort p { x with st := if half then 3 else 0 }
    let hit := (s1.host.qps.filter fun e => e.2.st == 1 && qpPort e.2 == p && (!half || qpUpper e.2)).map (·.1)
    let s2 := hit.foldl qpError s1
    let ops := (fabOps s2).filter fun o => hit.contains o.2.2
    let moved := (((ops.filter fun o => (sparePair s2 o.2.2).isSome).map fun o => o.2.2).eraseDups).length
    ownerEvent (ops.foldl (moveOp acked) s2) 7 0 p (BitVec.ofNat 64 moved)

/-- FABRIC_PORT_DOWN (R369, R435). -/
def execFabricPortDown (p : Nat) (loss : PortLoss) (s : State) : Res :=
  .next (if 12 ≤ p then s else portDown s p loss.upper loss.acked)

/-- A port's link has trained: owner event 07h (R369). -/
def portTrained (s : State) (p : Nat) : State :=
  let x := s.port p
  if !x.en || x.st == 2 then s
  else ownerEvent (s.setPort p { x with st := 2, ups := satAdd 65535 x.ups 1 }) 7 1 p 0

/-- FABRIC_PORT_UP (R369): an enabled port with its cable, in a state that lets fabric ports run (R387). -/
def execFabricPortUp (p : Nat) (s : State) : Res :=
  .next (if p < 12 && bit s.pnl.pres.toNat p && decide (2 ≤ s.pwr.state) then portTrained s p else s)

/-- A write of LNK_PORTn. A mode takes effect when en goes from 0 to 1; clearing en takes the port down. The reserved
mode 11b is stored and keeps the mode in effect. -/
def writePort (s : State) (p : Nat) (v : BitVec 64) : State :=
  let x := s.port p
  let en := bit v.toNat 63
  let mode := BitVec.ofNat 2 (bits v.toNat 62 61)
  if en && !x.en then
    let cable := bit s.pnl.pres.toNat p
    s.setPort p { x with en := true, mode := mode, run := if mode = 3 then x.run else mode, st := b2n cable }
  else if !en && x.en then
    let s1 := portDown s p false
    let x1 := s1.port p
    s1.setPort p { x1 with en := false, mode := mode, st := 0 }
  else s.setPort p { x with en := en, mode := mode }

/-- PORT_ENABLE (R366): a write of LNK_PORTn. -/
def execPortEnable (p : Nat) (v : BitVec 64) (s : State) : Res :=
  .next (if 12 ≤ p then s else writePort s p v)

/-- ACK_TIMEOUT (R215, R218, R367): go-back-N up to 7 times, and up to 7 times when the peer's receiver is not ready;
then the queue pair enters the error state and its operations fail at once. -/
def execAckTimeout (loss : AckLoss) (s : State) : Res :=
  let qp := loss.qp
  let q := s.qp qp
  if 4096 ≤ qp ∨ q.st ≠ 1 then .next s
  else if loss.rnr ∧ q.rnr < 7 then .next ((s.setQp qp { q with rnr := q.rnr + 1 }).emit (.fabric qp 5 []))
  else if !loss.rnr ∧ q.retries < 7 then .next ((s.setQp qp { q with retries := q.retries + 1 }).emit (.fabric qp 5 []))
  else
    let s1 := qpError s qp
    .next (((fabOps s1).filter fun o => o.2.2 == qp).foldl failOp s1)

/-- The rate at the end of a 40 us interval (R368), whole b/s; rp is the port's rate. -/
def nextRate (q : Qp) (rp : Nat) : Qp :=
  if 0 < q.cnps then
    { q with rate := max (q.rate * (16 - min q.cnps 8) / 16) (rp / 128), quiet := 0, cnps := 0 }
  else
    { q with
      quiet := q.quiet + 1
      rate := if 2 < q.quiet + 1 then min (q.rate + (rp - q.rate) / 8) rp else q.rate }

/-- RATE_INTERVAL (R368): of every queue pair that is not disabled; each may send a CNP again (R367). -/
def execRateInterval (s : State) : Res :=
  let step (q : Qp) : Qp := if q.st = 0 then q else { nextRate q (portRate (s.port (qpPort q))) with cnpSent := false }
  .next { s with host := { s.host with qps := tmap {} step s.host.qps } }

/-! ### Frames (R366, R367) -/

/-- Addresses of a port, or of its upper half, which is a port of its own in mode 01b (R366). -/
def portAddr (x : FPort) (upper : Bool) : List Byte := if upper && x.run == 1 then x.addrU else x.addr

/-- A frame a port accepts: single-tagged, on the VLAN of its addresses (R367). -/
def frameOk (x : FPort) (upper : Bool) (fr : Frame) : Bool := fr.tags == 1 && fr.vlan == leAt (portAddr x upper) 2 2

/-- A RoCEv2 frame that reaches its queue pair: on UDP port 4791 (R367). -/
def roceOk (s : State) (qp : Nat) (fr : Frame) : Bool :=
  let q := s.qp qp
  frameOk (s.port (qpPort q)) (qpUpper q) fr && fr.udp == 4791

/-- CNP_RECEIVED (R367, R368): counted for the interval and in LNK_PORTn; another frame is dropped and counted. -/
def execCnpReceived (rx : QpFrame) (s : State) : Res :=
  let qp := rx.qp
  let q := s.qp qp
  let p := qpPort q
  if 4096 ≤ qp then .next s
  else if !roceOk s qp rx.fr then .next (portDrop s p)
  else if q.st = 0 then .next s
  else
    let x := s.port p
    .next ((s.setQp qp { q with cnps := q.cnps + 1 }).setPort p { x with cnp := satAdd 65535 x.cnp 1 })

/-- ARP_REQUEST (R366, R367): the port, or its half, answers for its own IPv4 or IPv6 address and drops every other frame. -/
def execArpRequest (rx : PortFrame) (addr : List (BitVec 8)) (s : State) : Res :=
  let p := rx.p
  let x := s.port p
  let a := portAddr x rx.upper
  let own := a.length == 48 && (addr == (a.drop 16).take 4 || addr == (a.drop 32).take 16)
  if 12 ≤ p ∨ !portUp x rx.upper then .next s
  else if frameOk x rx.upper rx.fr && own then .next (s.emit (.arp p ((a.drop 4).take 6 ++ addr)))
  else .next (portDrop s p)

/-- An ECN-CE marked packet is answered by a CNP, at most one per queue pair in a rate interval (R367). -/
def ecnMark (s : State) (qp : Nat) (fr : Frame) : State :=
  let q := s.qp qp
  if fr.ce && !q.cnpSent then (s.setQp qp { q with cnpSent := true }).emit (.fabric qp 4 []) else s

/-! ### Windows (R364, R365) -/

/-- Window n of a tenant: its two registers. -/
def winA (s : State) (t n : Nat) : BitVec 64 := tget 0 (s.tenant t).winA n
def winB (s : State) (t n : Nat) : BitVec 64 := tget 0 (s.tenant t).winB n

def winUnit (a : BitVec 64) : Nat := bits a.toNat 37 32
def winOff (a : BitVec 64) : Nat := bits a.toNat 31 8 * 256
def winLen (b : BitVec 64) : Nat := bits b.toNat 19 0 * 256

/-- Physical cluster of a window's destination. -/
def winPcl (s : State) (a : BitVec 64) : Option Nat :=
  if bits a.toNat 47 42 < 46 ∧ bits a.toNat 41 38 < 12 then
    (pfieldOf s (bits a.toNat 47 42)).map fun pf => 12 * pf + bits a.toNat 41 38
  else none

/-- A window accepts: open, its unit within the program's K, its run within the unit; and len bytes at off fit. -/
def winFits (s : State) (a b : BitVec 64) (off len : Nat) : Bool :=
  bit a.toNat 63 && (winUnit a < 28 || winUnit a == 0x20) && decide (winOff a + winLen b ≤ unitSize s (winUnit a)) &&
    (winPcl s a).isSome && decide (off + len ≤ winLen b)

/-- An accepted arrival waits to be written: DMA on port B into a scratchpad, Jetstream-class requests into a cluster memory
(R365; the plane's cycles write it, `dmaStep`). -/
def winWrite (s : State) (a : BitVec 64) (off : Nat) (d : List Byte) : State :=
  match winPcl s a with
  | none => s
  | some pcl =>
    let u := winUnit a
    let j : DmaJob :=
      { pcl := pcl, unit := u, off := winOff a + off, data := d
        core := (pcoreOf s pcl (if u < 28 then u else bits a.toNat 60 56)).map fun p => 32 * pcl + p
        cc := bits a.toNat 55 50 }
    { s with plane := { s.plane with dma := s.plane.dma ++ [j] } }

/-- A reply of the fabric: 1 ACK, 2 remote access error, 3 remote operational error. -/
def fabReply (s : State) (qp kind : Nat) : State := s.emit (.fabric qp kind [])

/-- A refused arrival: counted at its port, and answered with a NAK. -/
def fabRefuse (s : State) (qp kind : Nat) : State := fabReply (portDrop s (qpPort (s.qp qp))) qp kind

/-- An accepted message: the expected PSN moves past its packets. -/
def qpTook (s : State) (qp n : Nat) : State :=
  let q := s.qp qp
  s.setQp qp { q with rpsn := (q.rpsn + qpPackets q n) % 2 ^ 24 }

/-- Window of a tenant that a remote key opens for the fabric: the lowest. -/
def winByKey (s : State) (t : Nat) (rkey : BitVec 32) : Option Nat :=
  (List.range 4).find? fun n =>
    let a := winA s t n
    bit a.toNat 63 && bit a.toNat 61 && bits (winB s t n).toNat 63 32 == rkey.toNat

/-- A fabric arrival: a frame that its port does not accept, or for a queue pair that is not ready, is dropped and counted;
an ECN-CE mark is answered; without a running program the arrival is refused with a remote operational error (R365,
R367). -/
def fabArrival (s : State) (qp : Nat) (fr : Frame) (act : State → State) : Res :=
  if 4096 ≤ qp then .next s
  else if !roceOk s qp fr ∨ (s.qp qp).st ≠ 1 then .next (portDrop s (qpPort (s.qp qp)))
  else
    let s1 := ecnMark s qp fr
    .next (if !s.running then fabRefuse s1 qp 3 else act s1)

/-- RDMA_WRITE_ARRIVAL (R364, R365). -/
def execRdmaWriteArrival (rx : QpFrame) (rkey : BitVec 32) (addr : Nat) (data : List (BitVec 8)) (s : State) : Res :=
  let qp := rx.qp
  fabArrival s qp rx.fr fun s =>
    match (qpTenant (s.qp qp)).bind fun t => (winByKey s t rkey).map fun n => (t, n) with
    | none => fabRefuse s qp 2
    | some (t, n) =>
      if winFits s (winA s t n) (winB s t n) addr data.length then
        fabReply (qpTook (winWrite s (winA s t n) addr data) qp data.length) qp 1
      else fabRefuse s qp 2

/-- SEND_ARRIVAL (R364): written at slot (sends mod slots) x slot size of the window the context names. -/
def execSendArrival (rx : QpFrame) (data : List (BitVec 8)) (s : State) : Res :=
  let qp := rx.qp
  fabArrival s qp rx.fr fun s =>
    let n := (byteAt (s.qp qp).ctx 7).toNat
    match qpTenant (s.qp qp) with
    | none => fabRefuse s qp 2
    | some t =>
      let a := winA s t n
      let b := winB s t n
      let size := 256 * 2 ^ bits b.toNat 31 28
      let slots := winLen b / size
      let k := tget 0 (s.tenant t).sends n
      let off := k % slots * size
      if 4 ≤ n ∨ !bit a.toNat 61 ∨ bits b.toNat 31 28 = 0 ∨ slots = 0 ∨ size < data.length ∨ !winFits s a b off data.length then
        fabRefuse s qp 2
      else
        let s1 := (winWrite s a off data).modTenant t fun x => { x with sends := tset 0 x.sends n (k + 1) }
        fabReply (qpTook s1 qp data.length) qp 1

/-- RDMA_READ_REQUEST (R364): answered within the window; a double-bit error raises the squall of class 0Ch. -/
def execRdmaReadRequest (rx : QpFrame) (rkey : BitVec 32) (addr len : Nat) (s : State) : Res :=
  let qp := rx.qp
  fabArrival s qp rx.fr fun s =>
    match (qpTenant (s.qp qp)).bind fun t => (winByKey s t rkey).map fun n => (t, n) with
    | none => fabRefuse s qp 2
    | some (t, n) =>
      let a := winA s t n
      if !winFits s a (winB s t n) addr len then fabRefuse s qp 2
      else
        match (winPcl s a).bind fun pcl => unitPlace s pcl (winUnit a) (winOff a + addr) with
        | none => fabRefuse s qp 2
        | some x =>
          match sramRead s .M 0 x len with
          | (none, s1) => fabRefuse s1 qp 3
          | (some d, s1) => (qpTook s1 qp len).emit (.fabric qp 0 d)

/-! ### Host pushes (R364, R365) -/

/-- Bits of WIN_PCTL that are kept besides go. -/
def pctlOf (v : BitVec 64) (go : Bool) : BitVec 64 :=
  (v &&& 0x60000FFFFF0FFFFF#64) ||| (if go then 0x8000000000000000#64 else 0)

/-- Ends the push of a tenant: go reads 0. -/
def pushEnd (s : State) (t : Nat) : State := s.modTenant t fun k => { k with pCtl := pctlOf k.pCtl false }

/-- HOST_PUSH (R349, R364, R365): the push that WIN_PCTL describes, with what the host read answers; without a program,
with a length of 0, or outside an open window it ends at once without writing. -/
def execHostPush (t : Nat) (data : Option (List (BitVec 8))) (s : State) : Res :=
  if 256 ≤ t ∨ !tenantEnabled s t then .next s
  else
    let v := (s.tenant t).pCtl
    let n := bits v.toNat 62 61
    let off := 256 * bits v.toNat 43 24
    let len := 256 * bits v.toNat 19 0
    let a := winA s t n
    let s1 := pushEnd s t
    if !s.running ∨ len = 0 ∨ !bit a.toNat 62 ∨ !winFits s a (winB s t n) off len then .next s1
    else
      match data with
      | none => .next (ownerEvent s1 11 0 t (s.tenant t).pSrc)
      | some d => .next (winWrite s1 a off ((List.range len).map (byteAt d)))

end Sys2Proof.Machine
end

