-- ==== Sys2Proof/Machine/Power.lean ====
section
/-! DEFINITION. The state ladder, forced changes, VIR, the clock step, and regulator trips (R206, R377-R397, R404, R419). -/

namespace Sys2Proof.Machine

open Sys2Proof

/-! ### VIR (R379, R383, R385, R419) -/

/-- Both couplings are present and the flow reads at least 80 % of its setpoint (R379). -/
def coolantOk (s : State) : Bool := s.thm.cplIn && s.thm.cplOut && decide (4 * s.thm.flowSet ≤ 5 * s.thm.flow)

/-- VIR_EN may be asserted: coolant, and a mated power board (R477). CAL_ISO_N holds only in Frost and in reset hold, where the
step up and the release of the hold wait for it (R483). -/
def virAllowed (s : State) : Bool := coolantOk s && s.pwr.boardIn

/-- VIR_EN is asserted: the setpoint is 1.50 V, and every Rth is the initial one (R377, R405). -/
def virRequest (s : State) : State :=
  { s with pwr := { s.pwr with virEn := true, setpt := 1500 }, thm := { s.thm with rth := [] } }

/-- VIR_EN is deasserted, and the board's VIR_OK goes with it. -/
def virRelease (s : State) : State := { s with pwr := { s.pwr with virEn := false, virOk := false } }

/-- A failure of VIR_OK in bring-up: again after 1 s, or stop code 2h after the third (R419). -/
def virFail (s : State) : State :=
  let n := s.bg.virFails + 1
  let s1 := virRelease s
  if 3 ≤ n then { s1 with bg := { s1.bg with virFails := n, virRetryAt := none, stopc := 2, phaseOn := false } }
  else { s1 with bg := { s1.bg with virFails := n, virRetryAt := some (s.now + 1000000) } }

/-- AVS_SETPOINT_ADJUST (R375, R383): in native mode with VIR_EN asserted, inside 1.40-1.60 V. -/
def execAvsSetpointAdjust (s : State) : Res :=
  if s.pwr.compat || !s.pwr.virEn then .next s
  else
    let v := s.pwr.setpt
    let w := if s.pwr.vmin < 1430 then v + 8 else if s.pwr.vmin < 1460 then v + 1 else if 1480 < s.pwr.vmin then v - 1 else v
    let x := max 1400 (min 1600 w)
    if x = v then .next s else .next (({ s with pwr := { s.pwr with setpt := x } }).emit (.avs x))

/-- VIR_OK_ASSERTED (R379): without VIR_EN only PWR_STAT.vir_ok changes. -/
def execVirOkAsserted (s : State) : Res := .next { s with pwr := { s.pwr with virOk := true } }

/-! ### Frost, Off and the ladder (R386-R393) -/

/-- Every fabric port goes down. -/
def portsDown (s : State) : State := (List.range 12).foldl (fun s p => portDown s p false) s

/-- Frost is entered (R387, R390): VIR off, and the state of all logic that it powers lost; SRAM and the memory wafers'
tables stay. A loaded program is due a warm restart. -/
def enterFrost (s : State) : State :=
  let s1 := portsDown (virRelease (hubStop s))
  isoSync { s1 with
    plane := { s1.plane with
      clockOn := false, progRun := false, cores := [], xfers := [], wlds := [], kvs := [], hputs := [], packets := [],
      pays := [], dma := [], relGo := false, resvs := [], faults := [], fTimer := 0, fFirst := none }
    pwr := { s1.pwr with state := 1, restart := s1.running } }

/-- The forced path to Frost (R392): clock step 6, every core stops, the step is discarded. -/
def forcedFrost (s : State) : State :=
  enterFrost (stopCores { s with pwr := { s.pwr with step := 6, stepReq := none } })

/-- What is lost with all power (R346, R404): the plane, KV content, the hub's state with the snowpack index. Engine time
and the next park id stand; the lost records are reported at the next Ready. -/
def losePower (s : State) : State :=
  let s1 := endSessions s
  { s1 with
    plane := {}
    jet := { s1.jet with router := [], gwUni := [], gwTree := [], stUni := [], stTree := [], tblSel := 0, allow := 0, rerouted := 0,
                         mapLive := false, mapRef := false, mapSpares := 0, mapBypass := 0, tree0 := [], tblErr := [] }
    ldr := {}
    kv := { s1.kv with mem := [], app := {}, pfx := [], dbl := [] }
    hub := { time := s1.hub.time, nextPark := s1.hub.nextPark, lostRecs := s1.hub.lostRecs ++ s1.hub.parked }
    pwr := { s1.pwr with state := 0, virEn := false, virOk := false, restart := false, parkS := none, off := true }
    host := { s1.host with linkUp := false, linkHeld := false, ops := [] }
    bg := { s1.bg with ready := false, phaseOn := false } }

/-- The hard power-off (R403, R404): alarm 2, THM_STAT.hot, everything lost but the weights and the VSB functions. -/
def hardOff (s : State) : State :=
  let s1 := losePower (alarm { s with pwr := { s.pwr with causes := s.pwr.causes.filter (· != 5) ++ [5] } } 2)
  isoSync { s1 with
    thm := { s1.thm with hot := true }
    bg := { s1.bg with clean := false, hotWait := true, coldDue := true } }

/-- A forced cause (R392): it sets its floor and takes the forced path; a load ends with fault 13h. The removal's cause
waits while its parks run. Before Ready only cause 5 acts. -/
def force (s : State) (cause : Nat) : State :=
  if cause = 5 then hardOff (interruptLoad s 5)
  else if !s.bg.ready then s
  else
    let s1 := interruptLoad s cause
    let s2 : State := { s1 with
      pwr := { s1.pwr with causes := s1.pwr.causes.filter (· != cause) ++ [cause] }
      bg := { s1.bg with clean := s1.bg.clean && cause != 2 } }
    if pwrLimit s2 = 1 ∧ 1 < s2.pwr.state then forcedFrost s2 else s2

/-- A forced cause ends. -/
def unforce (s : State) (cause : Nat) : State :=
  isoSync { s with pwr := { s.pwr with causes := s.pwr.causes.filter (· != cause) } }

/-- FORCED_CHANGE (R392), cause codes 1h-5h. -/
def execForcedChange (cause : Nat) (s : State) : Res :=
  .next (if cause = 0 ∨ 5 < cause then s else force s cause)

/-- VIR_UNDERVOLTAGE (R385, R419): at Frost or above the forced path with cause 2; a fall of VIR_OK in bring-up is a failure
of it. -/
def execVirUndervoltage (okFell : Bool) (s : State) : Res :=
  let s1 : State := if okFell then { s with pwr := { s.pwr with virOk := false } } else s
  if !s.pwr.virEn then .next s1
  else if s.bg.ready then .next (force s1 2)
  else if okFell then .next (virFail s1)
  else .next s1

/-- VIR_OK_RESTORED (R385): VIR_OK has stood for 10 ms; cause 2 ends. -/
def execVirOkRestored (s : State) : Res := .next (unforce { s with pwr := { s.pwr with virOk := true } } 2)

/-- The warm restart (R390): shape registers and core state afresh, over the core tables of the load; the hub takes up
every sequence at its last commit, and the step number goes on from the load (R329). -/
def warmRestart (s : State) : State :=
  match s.ldr.prog with
  | none => s
  | some p =>
    let r := startPlane { s with bg := { s.bg with badMask := s.jet.badMask } } p
    let s1 : State := { s with plane := r.plane, pwr := { s.pwr with restart := false } }
    hubResume s1

/-- The program stands at a committed step front with nothing in flight, or no program runs (R388). -/
def mayDescend (s : State) : Bool :=
  !s.running || (atStepFront s && s.hub.committedOk && allReady s && planeQuiet s)

/-- One state down. -/
def stepDown (s : State) : State :=
  match s.pwr.state with
  | 5 => if mayDescend s then { s with pwr := { s.pwr with state := 4 } } else s
  | 4 => if planeQuiet s then { s with plane := { s.plane with clockOn := false }, pwr := { s.pwr with state := 3 } } else s
  | 3 => { s with pwr := { s.pwr with state := 2 } }
  | 2 => enterFrost s
  | _ => s

/-- Ports that are enabled train again. -/
def portsTrain (s : State) : State :=
  (List.range 12).foldl (fun s p =>
    let x := s.port p
    if x.en && x.st == 0 && bit s.pnl.pres.toNat p then s.setPort p { x with st := 1 } else s) s

/-- One state up; VIR is requested first, and awaited, in Frost. -/
def stepUp (s : State) : State :=
  match s.pwr.state with
  | 1 =>
    if s.adc.calIsoPin then s
    else if s.pwr.virEn && s.pwr.virOk then portsTrain (isoSync { s with pwr := { s.pwr with state := 2 } })
    else if !s.pwr.virEn && virAllowed s then virRequest s
    else s
  | 2 => { s with pwr := { s.pwr with state := 3 } }
  | 3 => { s with plane := { s.plane with clockOn := true }, pwr := { s.pwr with state := 4 } }
  | 4 =>
    let s1 : State := { s with pwr := { s.pwr with state := 5 } }
    if s.pwr.restart then warmRestart s1 else s1
  | _ => s

/-- STATE_TRANSITION (R388, R390, R393): one state towards the goal. -/
def execStateTransition (s : State) : Res :=
  if !s.bg.ready || s.pwr.off then .next s
  else if goal s < s.pwr.state then .next (stepDown s)
  else if s.pwr.state < goal s then .next (stepUp s)
  else .next s

/-- PWR_STAT.moving: a transition is under way. -/
def moving (s : State) : Bool := s.bg.ready && goal s != s.pwr.state

/-- A write of PWR_CTRL; a target of 0h, 6h or 7h is ignored. -/
def writePwrCtrl (s : State) (v : BitVec 32) : State :=
  let t := bits v.toNat 2 0
  { s with pwr := { s.pwr with
    wake := bit v.toNat 31, idleSt := BitVec.ofNat 3 (bits v.toNat 30 28), idleS := BitVec.ofNat 16 (bits v.toNat 27 12)
    tgt := if 1 ≤ t ∧ t ≤ 5 then BitVec.ofNat 3 t else s.pwr.tgt } }

/-- STATE_TARGET_WRITE (R388): a write of PWR_CTRL. -/
def execStateTargetWrite (v : BitVec 32) (s : State) : Res := .next (writePwrCtrl s v)

/-- IDLE_DESCENT (R393): nothing live, parking or restoring for idle_s seconds in Run. -/
def execIdleDescent (s : State) : Res :=
  let st := s.pwr.idleSt.toNat
  if s.pwr.state = 5 ∧ s.bg.ready ∧ s.pwr.idleS ≠ 0 ∧ 1 ≤ st ∧ st ≤ 4 ∧ liveCount s = 0 ∧
      s.hub.idleUs + 1000000 * s.pwr.idleS.toNat ≤ s.now then
    .next { s with pwr := { s.pwr with tgt := s.pwr.idleSt } }
  else .next s

/-! ### The clock step (R206) -/

/-- A change of the clock step is requested. -/
def askStep (s : State) (n : Nat) : State := { s with pwr := { s.pwr with stepReq := some (min 6 n) } }

/-- The step that stands or has been asked for. -/
def stepAsked (s : State) : Nat := s.pwr.stepReq.getD s.pwr.step

/-- CLOCK_STEP_CHANGE (R206): the requested step takes effect in a pause in which no cycle is lost and no front bound
runs. -/
def execClockStepChange (s : State) : Res :=
  match s.pwr.stepReq with
  | some n => .next { s with pwr := { s.pwr with step := n, stepReq := none } }
  | none => .next s

/-! ### Trips (R396, R397) -/

/-- PWR_REGFLT of a trip. -/
def regFlt (s : State) (die pf cl tile rail : Nat) : BitVec 64 :=
  BitVec.ofNat 64 (2 ^ 63 + die * 2 ^ 60 + pf * 2 ^ 54 + cl * 2 ^ 50 + tile * 2 ^ 47 + rail * 2 ^ 44 + s.now % 2 ^ 32)

/-- The die exists in the grade: 0 plane, 1-2 KV, 3-6 weight, 7 base. -/
def dieThere (s : State) (die : Nat) : Bool :=
  die == 0 || die == 7 || (decide (1 ≤ die ∧ die ≤ gradeKv s)) || decide (3 ≤ die ∧ die < 3 + gradeWt s)

/-- REGULATOR_TILE_TRIP (R396): recorded; on a plane cluster's VCORE or VSRAM, or on a memory wafer, the cluster is fenced
and a squall of class 0Fh follows. -/
def execRegulatorTileTrip (die pf cl tile rail : Nat) (s : State) : Res :=
  if !dieThere s die ∨ 48 ≤ pf ∨ 12 ≤ cl ∨ 8 ≤ tile ∨ 6 ≤ rail then .next s
  else
    let pcl := 12 * pf + cl
    let s1 : State := { s with
      pwr := { s.pwr with regflt := regFlt s die pf cl tile rail, trips := satAdd 65535 s.pwr.trips 1 }
      bg := { s.bg with clean := false } }
    if (die = 0 ∧ rail ≤ 1) ∨ (1 ≤ die ∧ die ≤ 6) then .next (fenceCluster (s1.raise (unitRep s1 pcl 0xF 7 0)) pcl)
    else .next s1

/-- VTRANSIT_FEED_TRIP (R397): the feed by the cluster's own tile 7, or by its neighbour's at column c XOR 1. -/
def execVtransitFeedTrip (pf cl : Nat) (neighbour : Bool) (s : State) : Res :=
  if 48 ≤ pf ∨ 12 ≤ cl then .next s
  else
    let pcl := 12 * pf + cl
    let had := tget 0 s.pwr.feeds pcl
    let now := had ||| (if neighbour then 2 else 1)
    let src := if neighbour then cl ^^^ 1 else cl
    let s1 : State := { s with pwr := { s.pwr with feeds := tset 0 s.pwr.feeds pcl now, regflt := regFlt s 0 pf src 7 3 } }
    if now = had then .next s
    else if now = 3 then .next (fenceField (s1.raise (unitRep s1 pcl 0xE 6 0)) pf 2)
    else .next { s1 with pwr := { s1.pwr with single := satAdd 65535 s1.pwr.single 1 } }

end Sys2Proof.Machine
end

