-- ==== Sys2Proof/Machine/Thermal.lean ====
section
/-! DEFINITION. Sensor pairs, thermal limits, the power cap, coolant and dew point (R280, R398-R412). -/

namespace Sys2Proof.Machine

open Sys2Proof

/-! ### Sensor pairs (R398-R400) -/

def nPairs : Nat := 1448

/-- Kind of the die a pair stands on: 0 plane, 1 KV, 2 weight, 3 base; and its wafer. -/
def pairDie (i : Nat) : Nat × Nat :=
  if i < 1152 then (0, 0) else if i < 1248 then (1, (i - 1152) / 48) else if i < 1440 then (2, (i - 1248) / 48) else (3, 0)

/-- The pair's die exists in the grade. -/
def pairThere (s : State) (i : Nat) : Bool :=
  let (k, w) := pairDie i
  k == 0 || k == 3 || (k == 1 && decide (w < gradeKv s)) || (k == 2 && decide (w < gradeWt s))

/-- Pairs of one die. -/
def diePairs (k w : Nat) : List Nat :=
  match k with
  | 0 => List.range 1152
  | 1 => (List.range 48).map (1152 + 48 * w + ·)
  | 2 => (List.range 48).map (1248 + 48 * w + ·)
  | _ => (List.range 8).map (1440 + ·)

/-- Dies of a kind the grade has. -/
def kindDies (s : State) (k : Nat) : Nat := match k with | 1 => gradeKv s | 2 => gradeWt s | _ => 1

def State.pair (s : State) (i : Nat) : Pair := tget {} s.thm.pairs i

def State.setPair (s : State) (i : Nat) (p : Pair) : State := { s with thm := { s.thm with pairs := tset {} s.thm.pairs i p } }

/-- A sensor reads inside -40 to 150 degrees C, in 1/8 degree. -/
def validT (t : Int) : Bool := decide (-320 ≤ t ∧ t ≤ 1200)

/-- Control reading from the pair's own sensors; none when neither is valid. -/
def ownReading (p : Pair) : Option Int :=
  match validT p.a, validT p.b with
  | true, true => some (max p.a p.b + (p.band : Int))
  | true, false => some (p.a + 48)
  | false, true => some (p.b + 48)
  | false, false => none

/-- Hottest of a list of readings. -/
def hottest (l : List Int) : Option Int :=
  match l with
  | [] => none
  | x :: r => some (r.foldl max x)

/-- Samples one pair: sensors with their offsets, the split rule, the counts above 105 degrees C. -/
def samplePair (now : Nat) (p : Pair) (a b : Int) : Pair :=
  let a := a + p.offA
  let b := b + p.offB
  let va := validT a
  let vb := validT b
  let d := (a - b).natAbs
  let diffAt := if va && vb && decide (48 < d) then some (p.diffAt.getD now) else none
  let split := p.split || (match diffAt with | some t => decide (t + 1000000 ≤ now) | none => false)
  { p with
    a := a, b := b, diffAt := diffAt, split := split
    band := if split && va && vb then max p.band d else p.band
    hotA := if va && decide (840 < a) then p.hotA + 1 else 0
    hotB := if vb && decide (840 < b) then p.hotB + 1 else 0 }

/-- Control reading of pair i; a pair with no valid sensor takes its die's hottest other reading plus 6 K, a free value on
a die with no valid sensor at all (log 50). -/
def readingOf (s : State) (i : Nat) : Int :=
  match ownReading (s.pair i) with
  | some t => t
  | none =>
    let (k, w) := pairDie i
    match hottest (((diePairs k w).filter (· != i)).filterMap fun j => ownReading (s.pair j)) with
    | some t => t + 48
    | none => Config.blindReading (4 * k + w) s.free

/-- Sets the control readings of the listed pairs and of every pair without a valid sensor. -/
def setReadings (s : State) (l : List Nat) : State :=
  let blind := (s.thm.pairs.filter fun e => (ownReading e.2).isNone).map (·.1)
  ((l ++ blind).eraseDups.foldl (fun s i => s.setPair i { s.pair i with ctl := readingOf s i }) s).bumpFree

/-- Hottest control reading of a die kind. -/
def kindHot (s : State) (k : Nat) : Int :=
  (hottest ((List.range (kindDies s k)).flatMap fun w => (diePairs k w).map fun i => (s.pair i).ctl)).getD 0

/-- Hottest valid sensor of a die kind, for reports. -/
def kindSensor (s : State) (k : Nat) : Option Int :=
  hottest ((List.range (kindDies s k)).flatMap fun w => (diePairs k w).flatMap fun i =>
    [(s.pair i).a, (s.pair i).b].filter validT)

/-! ### Limits (R280, R401-R403) -/

/-- Limit L of a die kind, in 1/8 degree C. -/
def kindLimit (k : Nat) : Int := if k = 2 then 720 else 760

/-- Die kinds of the grade. -/
def kindsOf (s : State) : List Nat := (List.range 4).filter fun k => decide (0 < kindDies s k)

/-- Clock steps down above a limit: at once, then every 1 ms; step 6 above L + 5 K (R401). -/
def thermalSteps (s : State) : State :=
  let above := (kindsOf s).any fun k => decide (kindLimit k < kindHot s k)
  let far := (kindsOf s).any fun k => decide (kindLimit k + 40 < kindHot s k)
  if far then askStep { s with thm := { s.thm with dwellHi := true, dwellAt := s.now } } 6
  else if above then
    if !s.thm.dwellHi || decide (s.thm.dwellAt + 1000 ≤ s.now) then
      askStep { s with thm := { s.thm with dwellHi := true, dwellAt := s.now } } (stepAsked s + 1)
    else s
  else { s with thm := { s.thm with dwellHi := false } }

/-- Refresh rate of the tiles under one KV pair: doubled above 85 degrees C, normal below 83 (R280). -/
def refreshOf (s : State) (i : Nat) : State :=
  let pf := (i - 1152) % 48
  let w := (i - 1152) / 48
  let t := (s.pair i).ctl
  let put (v : Bool) : State :=
    { s with kv := { s.kv with dbl := (List.range 12).foldl (fun d c => tset false d (2 * (12 * pf + c) + w) v) s.kv.dbl } }
  if 680 < t then put true else if t < 664 then put false else s

def refreshRates (s : State) (l : List Nat) : State :=
  (l.filter fun i => decide (1152 ≤ i ∧ i < 1248)).foldl refreshOf s

/-- A sensor has read above 105 degrees C in two consecutive samples (R403). -/
def tooHot (s : State) : Bool := s.thm.pairs.any fun e => decide (2 ≤ e.2.hotA ∨ 2 ≤ e.2.hotB)

/-- The sensors as sampled, with their control readings (R398, R399). -/
def samplePairs (s : State) (reads : List (Nat × Int × Int)) : State :=
  setReadings (reads.foldl (fun s r => s.setPair r.1 (samplePair s.now (s.pair r.1) r.2.1 r.2.2)) s) (reads.map (·.1))

/-- A sensor calibration (R400): offsets that make each sensor read the inlet; split flags and guard bands clear. -/
def calPair (inlet : Int) (p : Pair) : Pair :=
  { p with
    offA := if validT p.a then p.offA + (inlet - p.a) else p.offA, offB := if validT p.b then p.offB + (inlet - p.b) else p.offB
    a := if validT p.a then inlet else p.a, b := if validT p.b then inlet else p.b
    split := false, band := 0, diffAt := none }

/-- The flow has read at least 80 % of its setpoint for a time in us. -/
def flowFor (s : State) (us : Nat) : Bool := match s.thm.flowOkAt with | some t => decide (t + us ≤ s.now) | none => false

def calibrate (s : State) : State :=
  let l := (List.range nPairs).filter (pairThere s)
  setReadings (l.foldl (fun s i => s.setPair i (calPair s.thm.inlet (s.pair i))) (writeRecord s)) l

/-- A sensor calibration is asked for: in Frost, after 60 s of flow; otherwise refused. -/
def askRecal (s : State) : State :=
  if s.bg.ready ∧ s.pwr.state = 1 ∧ flowFor s 60000000 then calibrate { s with thm := { s.thm with refused := false } }
  else { s with thm := { s.thm with refused := true } }

/-- SENSOR_RECAL (R400): a write of THM_CTRL.recal. -/
def execSensorRecal (s : State) : Res := .next (askRecal s)

/-! ### Power cap (R405-R408) -/

/-- Inlet for R405 and R412: 40 degrees C while its channel is over range (R441). -/
def inletT (s : State) : Int := if (tget {} s.adc.ch 12).atRail then 320 else s.thm.inlet

/-- Rth of a die kind in uK/W: the initial one until a valid measurement. -/
def rthOf (s : State) (k : Nat) : Nat := match s.thm.rth[k]? with | some r => r | none => s.thm.rth0

/-- Rth measured at input power p: 1/8 K is 125,000 uK. A reading below the inlet gives 0. -/
def measureRth (s : State) (p : Nat) : List Nat :=
  (List.range 4).map fun k => ((kindHot s k - inletT s) * 125000 / (p : Int)).toNat

/-- Thermal cap of a die kind in whole W; an Rth of 0 sets none. -/
def kindCap (s : State) (k : Nat) : Option Nat :=
  if rthOf s k = 0 then none else some ((kindLimit k - 40 - inletT s) * 125000 / (rthOf s k : Int)).toNat

/-- The least thermal cap and its die kind; the lowest kind on a tie. -/
def thermalCap (s : State) : Option (Nat × Nat) :=
  ((kindsOf s).filterMap fun k => (kindCap s k).map fun c => (c, k)).foldl (fun b x =>
    match b with
    | none => some x
    | some y => if x.1 < y.1 then some x else some y) none

/-- THM_CAPSTAT as the caps now stand (R406). -/
def refreshCap (s : State) : State :=
  let (w, src) := effCap s
  { s with thm := { s.thm with eff := w, effSrc := src, shareApp := if isoEn s then s.iso.share else 0 } }

/-- POWER_CAP_UPDATE (R405): every 100 ms; p is the mean input power. -/
def execPowerCapUpdate (p : Nat) (s : State) : Res :=
  if s.pwr.off then .next s
  else
    let s1 : State := if p < 1000 then s else { s with thm := { s.thm with rth := measureRth s p } }
    let c := thermalCap s1
    .next (refreshCap { s1 with thm := { s1.thm with therm := c.map (·.1), thermDie := (c.map (·.2)).getD 0 } })

/-- Targets of the plane's VCORE and VSRAM at a clock step, in 10 mV (R382). -/
def coreTarget (n : Nat) : Nat := [80, 74, 69, 64, 60, 57, 55].getD n 55
def sramTarget (n : Nat) : Nat := [80, 80, 75, 75, 75, 75, 75].getD n 75

/-- Weight f x VCORE^2 of a clock step (R382, R407), in 200 MHz and 10 mV. -/
def stepWeight (n : Nat) : Nat := [8, 7, 6, 5, 4, 3, 2].getD n 2 * coreTarget n * coreTarget n

/-- The estimate of power at step n from p at step c does not exceed the cap. -/
def stepFits (p cap c n : Nat) : Bool := decide (p * stepWeight n ≤ cap * stepWeight c)

/-- Fastest step slower than c whose estimate fits; 6 when none does. -/
def fastestFit (p cap c : Nat) : Nat := ((List.range 7).find? fun n => decide (c < n) && stepFits p cap c n).getD 6

/-- Since when a condition holds without a break. -/
def sinceWhen (since : Option Nat) (now : Nat) (holds : Bool) : Option Nat := if holds then some (since.getD now) else none

/-- A time since which something holds lies at least us back. -/
def lasted (since : Option Nat) (now us : Nat) : Bool := match since with | some t => decide (t + us ≤ now) | none => false

/-- CLOCK_STEP_CONTROL (R407, R408, R392): every 1 ms; p is the input power averaged over it. A faster step waits while a
reading stands above its limit. -/
def execClockStepControl (p : Nat) (s : State) : Res :=
  if s.pwr.off then .next s
  else
    let s1 := refreshCap { s with pwr := { s.pwr with power := p } }
    let cap := s1.thm.eff
    let c := s.pwr.step
    let up := decide (0 < c) && decide (p ≤ cap) && stepFits p cap c (c - 1)
    let fit := sinceWhen s.thm.fitUs s.now up
    let go := lasted fit s.now 1000000 && !s.thm.dwellHi && s.pwr.stepReq.isNone
    let s2 : State := { s1 with thm := { s1.thm with
      fitUs := if go then none else fit
      overUs := sinceWhen s.thm.overUs s.now (!stepFits p cap c 6)
      fit6Us := sinceWhen s.thm.fit6Us s.now (stepFits p cap c 6) } }
    let s3 := if cap < p then askStep s2 (max (fastestFit p cap c) (s.pwr.stepReq.getD 0)) else if go then askStep s2 (c - 1) else s2
    .next (if s3.pwr.causes.contains 4 && lasted s3.thm.fit6Us s.now 1000000 then unforce s3 4 else s3)

/-- CAP_BELOW_STEP6 (R408): step 6 has exceeded the cap for 100 ms. -/
def execCapBelowStep6 (s : State) : Res :=
  if lasted s.thm.overUs s.now 100000 ∧ !s.pwr.causes.contains 4 then .next (force s 4) else .next s

/-! ### Coolant (R409, R410, R419) -/

/-- A coolant stop is declared (R409). -/
def coolantLost (s : State) : Bool :=
  !s.thm.cplIn || !s.thm.cplOut || lasted s.thm.flowLowAt s.now 1000000 ||
  (decide (5 * s.thm.flowAvg < s.thm.flowSet) &&
    (match s.thm.flowOkEnd with | some t => decide (s.now ≤ t + 1000000) | none => false))

/-- Phases 2 to 6 of a bring-up run (R417). -/
def inPhases (s : State) : Bool := s.bg.phaseOn && decide (2 ≤ s.bg.phase)

/-- The coolant stop: alarm 1, THM_STAT.stop; the forced path to Frost in Calm or above, and in phases 2 to 6 of a
bring-up back to the wait of phase 2 (R419). -/
def coolantStop (s : State) : State :=
  if s.pwr.causes.contains 1 then s
  else if s.bg.ready && decide (2 ≤ s.pwr.state) then
    force (alarm { s with thm := { s.thm with stop := true } } 1) 1
  else if inPhases s && s.pwr.virEn then
    let s1 := virRelease (alarm { s with thm := { s.thm with stop := true } } 1)
    { s1 with bg := { s1.bg with phase := 2, cwait := true } }
  else s

/-- COOLANT_STOP (R409). -/
def execCoolantStop (s : State) : Res := .next (if coolantLost s then coolantStop s else s)

/-- COOLANT_RESTORED (R409): couplings present and the flow at 80 % or more for 5 s. -/
def execCoolantRestored (s : State) : Res :=
  .next (if s.thm.cplIn && s.thm.cplOut && flowFor s 5000000 && s.pwr.causes.contains 1 then unforce s 1 else s)

/-! ### Dew point (R411, R441) -/

/-- Nearest integer of n / d, halves to even, d positive. -/
def rneDiv (n d : Int) : Int :=
  let q := n / d
  let r := 2 * (n - q * d)
  if r < d then q else if d < r then q + 1 else if q % 2 = 0 then q else q + 1

/-- Dew point in 1/8 degree C from relative humidity in 0.01 % and ambient in 1/8 degree C; fixed point with 64 fraction
bits; a free value without humidity (log 47). -/
def dewPoint (s : State) (rh : Nat) (amb : Int) : Int :=
  if rh = 0 then Config.dryDewPoint s.free
  else
    let one : Int := (2 ^ 64 : Nat)
    let ln := (logIv 64 rh 0).lo - (logIv 64 10000 0).lo
    let g := ln + 17620 * amb * one * 100 / (1000 * (8 * 24312 + 100 * amb))
    rneDiv (8 * 24312 * g * 100) (100 * (1762 * one - 100 * g))

/-- DEW_POINT_CHECK (R411): every 1 s; suspended while channel 12, 13, 17 or 18 is over range, and the flag cleared for the
latter two (R441). -/
def execDewPointCheck (s : State) : Res :=
  let rail (n : Nat) : Bool := (tget {} s.adc.ch n).atRail
  if rail 17 || rail 18 then .next { s with thm := { s.thm with dew := false } }
  else if rail 12 || rail 13 || s.pwr.off then .next s
  else
    let t := dewPoint s s.thm.mhum s.thm.amb
    let s1 : State := { s with thm := { s.thm with dewT := t } }.bumpFree
    if s.thm.inlet < t then
      let s2 : State := { s1 with thm := { s1.thm with dew := true } }
      .next (if s.thm.dew then s2 else alarm s2 3)
    else if t + 8 ≤ s.thm.inlet then .next { s1 with thm := { s1.thm with dew := false } }
    else .next s1

end Sys2Proof.Machine
end

