-- ==== Sys2Proof/Machine/Bringup.lean ====
section
/-! DEFINITION. VSB, reset hold, the phases of bring-up, and the tests after a squall (R346, R400, R404, R413-R428, R442). -/

namespace Sys2Proof.Machine

open Sys2Proof

/-! ### What survives (R404, R413-R416, R448) -/

/-- A cold start (R413, R404): every state held on VSB at its reset value; the fuses, the weights, the owner store, the
record store (fence map, repair maps, sensor offsets, clean flag, system coefficients) and the pins stand. -/
def coldState (s : State) : State :=
  let z := State.reset
  let chs := s.adc.ch.map fun e =>
    (e.1, ({ s0 := e.2.s0, s1 := e.2.s1, z := e.2.z, span := e.2.span, tcal := e.2.tcal, untrace := e.2.untrace } : AdcCh))
  { z with
    fuses := s.fuses
    jet := { z.jet with binding := s.jet.binding }
    wst := { z.wst with
      slots := tmap {} (fun x => { x with bound := false }) s.wst.slots, mem := s.wst.mem,
      remap := (applyRemaps s).wst.remap, spareUsed := s.wst.spareUsed, wear := s.wst.wear, reads := s.wst.reads,
      refreshQ := s.wst.refreshQ, fenced := s.wst.fenced, hot := s.wst.hot, retired := s.wst.retired }
    kv := { z.kv with rowsUsed := s.kv.rowsUsed }
    hub := { z.hub with nextPark := s.hub.nextPark, lostRecs := s.hub.lostRecs }
    pwr := { z.pwr with feeds := s.pwr.feeds, boardIn := s.pwr.boardIn, compat := s.pwr.compat }
    thm := { z.thm with
      cap := gradeMax s / 4, cplIn := s.thm.cplIn, cplOut := s.thm.cplOut,
      pairs := s.thm.pairs.foldl (fun t e => tset {} t e.1 { offA := e.2.offA, offB := e.2.offB }) [] }
    bg := { z.bg with
      recSeq := s.bg.recSeq, recGood := s.bg.recGood, clean := s.bg.clean, spareLines := s.bg.spareLines,
      fieldSt := s.bg.fieldSt, badMask := s.bg.badMask, perst := s.bg.perst, vsb := s.bg.vsb }
    pnl := { z.pnl with pres := s.pnl.pres }
    adc := { z.adc with ch := chs.filter fun e => decide (e.2 ≠ {}), calIsoPin := s.adc.calIsoPin }
    sec := { s.sec with nonce := none, sigfail := 0, stale := 0 }
    out := s.out, free := s.free, pending := s.pending }

/-- HDM range size: the staging size rounded down to 256 MiB, at most 256 GiB (R362); none on ILX2 (R348). -/
def hdmRange (s : State) : Nat := if gradeKv s = 0 then 0 else min (areaSize s s.kv.app 3 / 2 ^ 28 * 2 ^ 28) (2 ^ 38)

/-- What a tenant block keeps through reset hold (R416). -/
def warmTenant (k : Tenant) : Tenant :=
  { gCfg := k.gCfg, gPol := k.gPol, level := k.level, quota := k.quota, snpA := k.snpA, snpB := k.snpB, snpC := k.snpC,
    bad := k.bad, drops := k.drops }

/-- Reset hold (R416): besides what a cold start keeps, engine time, the snowpack index, the GAUGE, ADP_QUOTA and SNP
registers, the squall record, THM_STAT.hot and every count since cold bring-up stand, and so does what is measured. -/
def warmState (s : State) : State :=
  let c := coldState s
  { c with
    plane := { c.plane with lateWt := s.plane.lateWt, lateKv := s.plane.lateKv }
    ldr := { c.ldr with loads := s.ldr.loads, lastProg := s.ldr.lastProg }
    wst := { c.wst with reread := s.wst.reread, refresh := s.wst.refresh, corrBits := s.wst.corrBits }
    kv := { c.kv with
      uncorr := s.kv.uncorr, spared := s.kv.spared, corr := s.kv.corr, elogCnt := s.kv.elogCnt, elogNext := s.kv.elogNext,
      elog := s.kv.elog }
    hub := { c.hub with time := s.hub.time, parked := s.hub.parked, expired := s.hub.expired }
    tenants := tmap {} warmTenant s.tenants
    host := { c.host with
      qperr := s.host.qperr, ports := tmap {} (fun x => { ups := x.ups }) s.host.ports, hdmSize := hdmRange s }
    pwr := { c.pwr with trips := s.pwr.trips, causes := s.pwr.causes.filter (· == 5), off := s.pwr.off }
    thm := { s.thm with
      cap := gradeMax s / 4, rth0 := 1400, rth := [], flowSet := 600, stop := false, dew := false, refused := false,
      therm := none, thermDie := 0, eff := 0, effSrc := 0, shareApp := 0, dwellHi := false, fitUs := none, overUs := none,
      fit6Us := none }
    bg := { c.bg with
      fullAt := s.bg.fullAt, lastMs := s.bg.lastMs, full := s.bg.full, perst := true, vsb := s.bg.vsb, coldDue := s.bg.coldDue,
      hotWait := s.bg.hotWait, path := s.bg.path, phase := s.bg.phase, voteAt := s.bg.voteAt,
      stopc := if s.bg.stopc = 2 ∨ s.bg.stopc = 3 then 0 else s.bg.stopc,
      spared := s.bg.spared, flagged := s.bg.flagged, eccCorr := s.bg.eccCorr, eccHist := s.bg.eccHist,
      sqVld := s.bg.sqVld, sqOvw := s.bg.sqOvw, sqCls := s.bg.sqCls, sqSame := s.bg.sqSame, sqLater := s.bg.sqLater,
      sqRec := s.bg.sqRec }
    adc := { s.adc with dt := 4, thr := 256, scGo := false, scResult := 0, scPoint := false, scCh := 0, scValue := 0, capPoint := false, capCh := 0, capValue := 0,
                        rej := 0, busy := none, ch := tmap {} (fun x => { x with ovr := false }) s.adc.ch }
    sec := { s.sec with stale := 0 }
    jtag := s.jtag }

/-! ### The start of the phases (R417-R422) -/

def dayRun : Nat := 30 * dayUs

/-- The fast path is open to a warm bring-up (R422). -/
def fastOpen (s : State) : Bool := !s.bg.full && s.bg.clean && decide (s.now ≤ s.bg.fullAt + dayRun)

/-- Phase 2 starts (R417): its path is chosen and a removal's cause ends (R434); a cold bring-up calibrates the die sensors where R400 allows; a warm one
repairs the flagged lines (R427). -/
def startPhases (s : State) : State :=
  let path := if s.bg.coldDue then 0 else if fastOpen s then 2 else 1
  let s1 : State := { s with
    bg := { s.bg with
      path := path, phase := 2, phaseOn := true, cwait := true, relAt := s.now, virFails := 0, virRetryAt := none }
    pwr := { s.pwr with causes := s.pwr.causes.filter (· != 3) } }
  let s2 := if path = 0 then (if flowFor s1 60000000 then calibrate s1 else s1) else repairLines s1
  isoSync s2

/-- The phases start when PERST_N is released, phase 1 has ended and nothing stops bring-up. -/
def tryPhases (s : State) : State :=
  if s.bg.vsb && !s.bg.perst && s.bg.stopc == 0 && !s.bg.phaseOn && !s.bg.ready && !s.bg.hotWait then startPhases s else s

/-- Every valid sensor reads below 60 degrees C (R404). -/
def cooled (s : State) : Bool :=
  s.thm.pairs.all fun e => (!validT e.2.a || decide (e.2.a < 480)) && (!validT e.2.b || decide (e.2.b < 480))

/-- After a hard power-off: PERST_N released and the sensors cooled start a cold bring-up; THM_STAT.hot stays (R404). -/
def tryHotStart (s : State) : State :=
  if s.bg.hotWait && s.bg.vsb && !s.bg.perst && cooled s then
    let c := coldState s
    startPhases { c with
      pwr := { c.pwr with off := false }
      thm := { c.thm with hot := s.thm.hot, pairs := s.thm.pairs }
      bg := { c.bg with coldDue := true } }
  else s

/-- The identity seeds, derived from the DUS under their labels (R451). -/
def deriveSeeds (f : Fuses) (x : Sec) : Sec :=
  let dus := leBytes 32 f.dus.toNat
  let label (l : List Nat) : List Byte := l.map fun b => BitVec.ofNat 8 b
  { x with
    seedEd := (hmac512 dus (label [0x49, 0x4C, 0x58, 0x2D, 0x49, 0x44, 0x2D, 0x45, 0x44, 0x32, 0x35, 0x35, 0x31, 0x39])).take 32
    seedMl := (hmac512 dus (label [0x49, 0x4C, 0x58, 0x2D, 0x49, 0x44, 0x2D, 0x4D, 0x4C, 0x44, 0x53, 0x41, 0x36, 0x35])).take 32 }

/-- VSB_APPLY (R384, R413, R415, R442, R451): a cold start; the strap picks the sensing mode, the front ends are calibrated, and
phase 1 runs. -/
def execVsbApply (strapHigh testOk : Bool) (s : State) : Res :=
  if s.bg.vsb then .next s
  else
    let c := coldState s
    let cal := !bit s.pnl.pres.toNat 16
    let chs := (List.range 25).foldl (fun t n => tmod {} t n fun x =>
      { x with z := Config.adcZero n s.free, span := Config.adcSpan n s.free, untrace := cal, tcal := x.tfe }) c.adc.ch
    .next ({ c with
      pwr := { c.pwr with off := false, compat := strapHigh }
      adc := { c.adc with ch := chs }
      sec := deriveSeeds s.fuses c.sec
      bg := { c.bg with vsb := true, phase := 1, phaseOn := testOk, stopc := if testOk then 0 else 1, coldDue := true } }).bumpFree

/-- VSB_LOSS (R346, R434): Off; the standby island's state, THM_STAT.hot and the index are lost, and sessions end. -/
def execVsbLoss (s : State) : Res :=
  if !s.bg.vsb then .next s
  else
    let c := coldState (losePower s)
    .next (isoSync { c with bg := { c.bg with vsb := false, perst := true } })

/-- PERST_ASSERT (R416, R238, R270): reset hold. -/
def execPerstAssert (s : State) : Res :=
  if s.bg.perst then .next { s with bg := { s.bg with relWait := false } }
  else .next (isoSync (warmState (endSessions s)))

/-- The hold ends: the phases start, or a hot engine's cold bring-up (R404, R417). -/
def endHold (s : State) : State := tryHotStart (tryPhases { s with bg := { s.bg with perst := false, relWait := false } })

/-- PERST_RELEASE (R404, R417, R483): the hold ends once CAL_ISO_N is high. -/
def execPerstRelease (s : State) : Res :=
  if !s.bg.perst || !s.bg.vsb then .next s
  else if s.adc.calIsoPin then .next { s with bg := { s.bg with relWait := true } }
  else .next (endHold s)

/-- COOLANT_CONDITION_MET (R418): couplings present and 5 s of flow let phase 2 assert VIR_EN. -/
def execCoolantConditionMet (s : State) : Res :=
  if s.bg.phaseOn ∧ s.bg.phase = 2 ∧ s.bg.cwait ∧ s.thm.cplIn ∧ s.thm.cplOut ∧ flowFor s 5000000 ∧ s.pwr.boardIn then
    .next (virRequest { s with bg := { s.bg with cwait := false } })
  else .next s

/-- VIR_OK_TIMEOUT (R419): VIR_OK has not followed VIR_EN in bring-up. -/
def execVirOkTimeout (s : State) : Res :=
  .next (if inPhases s && s.pwr.virEn && !s.pwr.virOk then virFail s else s)

/-- ARRIVAL_TICK (R314, R323, R419): engine time runs in every state but Off; VIR is requested again 1 s after a failure. -/
def execArrivalTick (s : State) : Res :=
  if s.pwr.off then .next s
  else
    let s1 := hubTick s
    match s1.bg.virRetryAt with
    | some t =>
      if t ≤ s1.now ∧ virAllowed s1 then .next (virRequest { s1 with bg := { s1.bg with virRetryAt := none } }) else .next s1
    | none => .next s1

/-! ### The phases (R417, R420-R425) -/

/-- A finding names a unit the hardware has. -/
def findingOk (s : State) : Finding → Bool
  | .router pf => decide (pf < 48)
  | .coreSram c | .core c => decide (c < nCores)
  | .clusterMem pcl => decide (pcl < 576)
  | .kvTile pcl w => decide (pcl < 576 ∧ w < gradeKv s)
  | .weightPort pcl w => decide (pcl < 576 ∧ w < gradeWt s)
  | .spareLines b _ => decide ((b < 64 * nCores ∧ b % 64 ≤ 32) ∨ (2 ^ 22 ≤ b ∧ b < 2 ^ 22 + 64 * 576 ∧ b % 64 < 48))
  | _ => true

/-- Phase a finding belongs to. -/
def findingPhase : Finding → Nat
  | .selfTest | .noRecord => 1
  | .planeRef | .router _ => 3
  | .core _ => 6
  | _ => 4

/-- What one finding does (R415, R419, R423-R425). A bank that needs more spare lines than it has left fences its core, or its
cluster. -/
def takeFinding (s : State) : Finding → State
  | .selfTest => { s with bg := { s.bg with stopc := 1, phaseOn := false } }
  | .noRecord => { s with bg := { s.bg with stopc := 4, phaseOn := false, recGood := false } }
  | .planeRef => { s with bg := { s.bg with stopc := 3, phaseOn := false } }
  | .router pf => fenceField s pf 1
  | .spareLines b n =>
    let had := tget 0 s.bg.spareLines b
    let m := min n (16 - had)
    let s1 : State := { s with bg := { s.bg with
        spareLines := tset 0 s.bg.spareLines b (had + m), spared := satAdd 65535 s.bg.spared m } }
    if had + n ≤ 16 then s1 else if b < 2 ^ 22 then fenceCore s1 (b / 64) else fenceCluster s1 ((b - 2 ^ 22) / 64)
  | .coreSram c | .core c => fenceCore s c
  | .clusterMem pcl | .kvTile pcl _ | .weightPort pcl _ => fenceCluster s pcl

/-- Records lost with the index are reported (R346). -/
def reportLost (s : State) : State :=
  let s1 := s.hub.lostRecs.foldl (fun s r => tagEvent s r.tenant 10 1 0 r.tag) s
  { s1 with hub := { s1.hub with lostRecs := [] } }

/-- Ready (R421, R422): Run, no program, every SRAM word zero; the core tables are built and the record written. -/
def becomeReady (s : State) : State :=
  let s1 : State := { s with
    plane := { clockOn := true, lateWt := s.plane.lateWt, lateKv := s.plane.lateKv }
    jet := { s.jet with badMask := s.bg.badMask, mapLive := true }
    ldr := { s.ldr with state := 0 }
    pwr := { s.pwr with state := 5, step := 0, stepReq := none }
    bg := { s.bg with
      ready := true, phaseOn := false, clean := true, coldDue := false, virFails := 0
      lastMs := min (2 ^ 20 - 1) ((s.now - s.bg.relAt) / 1000)
      fullAt := if s.bg.path = 2 then s.bg.fullAt else s.now
      full := s.bg.full && s.bg.path == 2 } }
  let s2 := reportLost (writeRecord s1)
  if s2.wst.autoSub then startSubst s2 else s2

/-- Rates and widths the link trains at (R348). -/
def linkRates : List Nat := [128, 64, 32]
def linkWidths : List Nat := [16, 8, 4]

/-- A training settles on one of the rates and one of the widths: which is a free value (log 114). -/
def linkTrained (s : State) : State :=
  let n := Config.linkTraining s.free
  { s.bumpFree with host := { s.host with
      linkUp := true, linkHeld := false, linkRate := linkRates.getD (n % 3) 32, linkWidth := linkWidths.getD (n / 3 % 3) 4 } }

/-- What the end of a phase brings: the CXL link trains in phase 2, and Ready follows phase 6. -/
def phaseEnd (s : State) : State :=
  match s.bg.phase with
  | 1 => tryPhases { s with bg := { s.bg with phaseOn := false } }
  | 2 =>
    let s1 : State := { s with bg := { s.bg with phase := 3 } }
    if bit s.pnl.pres.toNat 17 then linkTrained s1 else s1
  | 6 => becomeReady s
  | n => { s with bg := { s.bg with phase := n + 1 } }

/-- BRINGUP_PHASE_COMPLETE (R417, R432): with what the phase's tests found; phase 2 waits for VIR; a removal asked for in
bring-up stops it at the end of the phase. -/
def execBringupPhaseComplete (found : List Finding) (s : State) : Res :=
  let found := found.filter (findingOk s)
  if !s.bg.phaseOn || (s.bg.phase == 2 && !(s.pwr.virEn && s.pwr.virOk)) then .next s
  else
    let s1 := (found.filter fun f => findingPhase f == s.bg.phase).foldl takeFinding s
    if s1.bg.stopc ≠ 0 then .next (virRelease s1)
    else if s1.pwr.causes.contains 3 then .next (virRelease { s1 with bg := { s1.bg with phaseOn := false } })
    else .next (phaseEnd s1)

/-- BAROGRAPH_VOTE_DISAGREEMENT (R415, R422): the clean flag clears; a second one within 1 s stops bring-up. -/
def execBarographVoteDisagreement (s : State) : Res :=
  if !s.bg.vsb then .next s
  else
    let again := match s.bg.voteAt with | some t => decide (s.now < t + 1000000) | none => false
    let s1 : State := { s with bg := { s.bg with clean := false, voteAt := some s.now } }
    if again && !s.bg.ready then .next (virRelease { s1 with bg := { s1.bg with stopc := 5, phaseOn := false } }) else .next s1

/-! ### The test after a squall (R422, R426) -/

/-- BG_TEST of an outcome. -/
def testWord (res kind pf cl pc dur : Nat) : BitVec 64 :=
  BitVec.ofNat 64 (2 ^ 63 + res * 2 ^ 61 + kind * 2 ^ 60 + pf * 2 ^ 54 + cl * 2 ^ 50 + pc * 2 ^ 45 + dur % 2 ^ 32)

/-- POST_SQUALL_TEST (R426): of the unit named, while no program runs; a failure fences it and clears the clean flag. -/
def execPostSquallTest (res dur : Nat) (s : State) : Res :=
  match s.bg.testFor with
  | none => .next s
  | some (kind, u) =>
    if s.running then .next s
    else
      let pcl := if kind = 0 then u / 32 else u
      let w := testWord (min res 2) kind (pcl / 12) (pcl % 12) (if kind = 0 then u % 32 else 0) dur
      let s1 : State := { s with bg := { s.bg with test := w, testFor := none } }
      if res < 2 then .next s1
      else
        let s2 : State := { s1 with bg := { s1.bg with clean := false } }
        .next (if kind = 0 then fenceCore s2 u else fenceCluster s2 pcl)

/-- THERMAL_SAMPLE (R398, R401, R403, R404): every 50 us. -/
def execThermalSample (reads : List (Nat × Int × Int)) (s : State) : Res :=
  let reads := reads.filter fun r => decide (r.1 < nPairs) && pairThere s r.1
  if !s.bg.vsb then .next s
  else
    let s1 := samplePairs s reads
    if s.pwr.off then .next (tryHotStart s1)
    else if tooHot s1 then .next (force s1 5)
    else .next (thermalSteps (refreshRates s1 (reads.map (·.1))))

end Sys2Proof.Machine
end

