-- ==== Sys2Proof/Machine/Host.lean ====
section
/-! DEFINITION. Functions and drains, the CXL link, failed host reads, CXL.mem, and the owner mailbox (R348-R362). -/

namespace Sys2Proof.Machine

open Sys2Proof

/-! ### Function-level reset and enables (R352, R358, R359) -/

/-- The start of a drain (R358): everything of the tenant's that waits or lives ends without an event. -/
def startDrain (s : State) (t : Nat) : State :=
  let s1 := s.modTenant t fun k => { k with draining := true, latched := false, mse := false, bme := false, pCtl := pctlOf k.pCtl false }
  let s2 : State := { s1 with hub := { s1.hub with
    adps := s1.hub.adps.filter fun e => e.2.tenant != t
    uploads := s1.hub.uploads.filter fun u => u.tenant != t
    queue := s1.hub.queue.filter fun r => r.tenant != t
    fresh := s1.hub.fresh.filter (· != t) } }
  sweepAdps ((dropTenantSeqs s2 t).setEvq t [])

/-- VF Enable is cleared: every tenant is reset, and no VF exists until it is set again (R352, R358). -/
def clearVfs (s : State) : State :=
  (List.range s.host.numVFs).foldl startDrain { s with host := { s.host with vfEn := false } }

/-- FUNCTION_LEVEL_RESET (R358): of the VF of tenant t, or of every VF by a clear of VF Enable. -/
def execFunctionLevelReset (t : Option Nat) (s : State) : Res :=
  match t with
  | some t => .next (if t < s.host.numVFs then startDrain s t else s)
  | none => .next (clearVfs s)

/-- The TQ and EVT registers return to their reset values, but for the two counts. -/
def drainedTenant (k : Tenant) : Tenant :=
  { k with
    sqBase := 0, sqH := 0, sqE := 0, oqBase := 0, oqH := 0, oqE := 0, eqBase := 0, eqH := 0, eqE := 0, wb := 0, evtMod := 0,
    evtNew := 0, evtAt := 0, tokNew := 0, tokAt := 0, draining := false, mse := k.latched, bme := k.latched, latched := false }

/-- DRAIN_COMPLETE (R358, R359): the registers reset, a latched enable takes effect, owner event 0Ah. -/
def execDrainComplete (t : Nat) (s : State) : Res :=
  if !(s.tenant t).draining then .next s
  else .next (ownerEvent (s.modTenant t drainedTenant) 10 0 t 0)

/-- The two enables of a tenant's VF; during a drain an enable, which sets both, is latched (R352, R359). -/
def setEnables (s : State) (t : Nat) (mse bme : Bool) : State :=
  if (s.tenant t).draining then s.modTenant t fun k => { k with latched := k.latched || (mse && bme) }
  else s.modTenant t fun k => { k with mse := mse, bme := bme }

/-- VF_ENABLE (R352, R359): both enables are set; during a drain the enable is latched. -/
def execVfEnable (t : Nat) (s : State) : Res :=
  .next (if t < s.host.numVFs ∧ s.host.vfEn then setEnables s t true true else s)

/-- FUNCTION0_RESET (R359, R238, R270, R447): ends a load, an installation session and a system capture, and disables the
owner event ring; tenants and the program go on. -/
def execFunction0Reset (s : State) : Res :=
  let s1 : State := { s with host := { s.host with eqBase := s.host.eqBase &&& 0xFFFFFFFFFFFFF7FF#64, eqH := 0, eqE := 0 } }
  let s2 := endSessions (interruptLoad s1 (Config.loadDetail 0x13 0).toNat)
  .next (if s2.adc.scGo then { s2 with adc := { s2.adc with scGo := false, scResult := 5 } } else s2)

/-! ### The link and failed host reads (R349-R351) -/

/-- The CXL link goes down without a conventional reset: admission stops, and every sequence is held (R350, R326). -/
def linkDown (s : State) : State :=
  if s.host.linkUp then { s with host := { s.host with linkUp := false, linkHeld := true } } else s

/-- The link trains while the engine is in or past bring-up with a host connector; the functions keep their state. -/
def linkRise (s : State) : State :=
  if (s.bg.ready || (s.bg.phaseOn && decide (3 ≤ s.bg.phase))) && bit s.pnl.pres.toNat 17 then linkTrained s else s

/-- CXL_LINK_DOWN (R218, R350, R351): also by an IDE integrity failure, which is counted. Link-layer replays are counted; when
the fourth has failed the link retrains, and goes down when it does not come up. -/
def execCxlLinkDown (why : LinkLoss) (s : State) : Res :=
  match why with
  | .plain => .next (linkDown s)
  | .ide => .next (linkDown { s with host := { s.host with ide := satAdd 255 s.host.ide 1 } })
  | .replays n trained =>
    let s1 : State := { s with host := { s.host with replay := satAdd 65535 s.host.replay (min n 4) } }
    .next (if n ≤ 4 ∨ trained then s1 else linkDown s1)

/-- CXL_LINK_UP (R348, R350). -/
def execCxlLinkUp (s : State) : Res := .next (linkRise s)

/-- An address lies in a run of n bytes. -/
def inRun (addr : BitVec 64) (base n : Nat) : Bool := decide (base ≤ addr.toNat ∧ addr.toNat < base + n)

/-- An image read has failed: fault 10h with the pass and the 4 KiB block (R237). -/
def imageFailed (s : State) (addr : BitVec 64) : State :=
  let blk := (addr.toNat - s.ldr.src.toNat) / 4096
  if s.ldr.state = 1 then loadFault s 0x10 1 blk
  else if s.ldr.state = 5 ∨ s.ldr.state = 6 then loadFault s 0x10 2 blk
  else s

/-- A shard read has failed: a source error of the controller whose host source holds the address (R268). -/
def shardFailed (s : State) (addr : BitVec 64) : State :=
  let holds (k : ShardCtl) : Bool :=
    let e := ctlSource s k
    let h := (s.wslot s.wst.lastSlot).man.shards.getD k.shard {}
    k.st == 0 && leAt e 0 1 == 0 && inRun addr (leAt e 8 8 + h.off) h.length
  match s.wst.ctls.find? holds with
  | some k => if sessionRuns s then refetch s k (k.todo.headD 0) 2 else s
  | none => s

/-- A snowpack read has failed: a transport failure of the restore whose extents hold the address (R347). -/
def snowFailed (s : State) (addr : BitVec 64) : State :=
  let holds (e : Nat × Seq) : Bool :=
    e.2.st == 7 && s.hub.parked.any fun r =>
      r.parkId == e.2.parkId && !bit r.tgt.toNat 62 && inRun addr (extentAddr r.base r.ext) (r.next * 2 ^ 20)
  match s.hub.slots.find? holds with
  | some (n, _) => restoreFail s n 2
  | none => s

/-- A waiting request loses what could not be read: an upload its image; a start its parameter block or its prompt; a
continue its tokens. It is refused when it is acted on. -/
def reqFailed (adapter : Bool) (addr : BitVec 64) (r : Req) : Req :=
  if (reqCmd r.entry == 6) != adapter then r
  else if reqCmd r.entry = 6 then
    match r.blk with
    | some d => if inRun addr (reqAddr r) d.length then { r with blk := none } else r
    | none => r
  else if reqCmd r.entry = 1 then
    if inRun addr (reqAddr r) 256 then { r with blk := none }
    else
      match r.blk with
      | some p => if inRun addr (leAt p 40 8) (4 * reqCount r.entry) then { r with toks := none } else r
      | none => r
  else if reqCmd r.entry = 2 ∧ inRun addr (reqAddr r) (4 * reqCount r.entry) then { r with toks := none }
  else r

/-- Tenant in whose submission ring a host address lies. -/
def ringTenant (s : State) (addr : BitVec 64) : Option Nat :=
  (s.tenants.find? fun e =>
    ringEn e.2.sqBase && inRun addr (e.2.sqBase.toNat / 4096 * 4096) (64 * ringSize e.2.sqBase)).map (·.1)

/-- A submission read has failed: a waiting request loses what it read there; an entry of a ring is rejected with reason
05h, and the owner event names its address (R349). -/
def submissionFailed (s : State) (addr : BitVec 64) : State :=
  let q := s.hub.queue.map (reqFailed false addr)
  if q ≠ s.hub.queue then { s with hub := { s.hub with queue := q } }
  else
    match ringTenant s addr with
    | some t => readFailed s { tenant := t } addr.toNat
    | none => s

/-- What a read that has failed twice brings (R349). -/
def readFailedTwice (s : State) (what : ReadKind) (addr : BitVec 64) : State :=
  match what with
  | .image => imageFailed s addr
  | .shard => shardFailed s addr
  | .snowpack => snowFailed s addr
  | .adapter => { s with hub := { s.hub with queue := s.hub.queue.map (reqFailed true addr) } }
  | .submission => submissionFailed s addr

/-- CXL_COMPLETION_TIMEOUT (R215, R216, R349): the read is repeated once; a second failure has its consequence; a completion
that comes later is dropped and counted. -/
def execCxlCompletionTimeout (what : ReadKind) (addr : BitVec 64) (again late : Bool) (s : State) : Res :=
  let s1 : State := if late then { s with host := { s.host with late := satAdd 65535 s.host.late 1 } } else s
  .next (if again then readFailedTwice s1 what addr else s1)

/-- SPDM_REQUEST (R351, R452): answered with the Ed25519 identity key and the chain of the endorsement; IDE_KM programs
keys. -/
def execSpdmRequest (_req : List (BitVec 8)) (keys : Bool) (s : State) : Res :=
  if !s.host.linkUp then .next s
  else
    .next (({ s with host := { s.host with ideKeys := s.host.ideKeys || keys } }).emit
      (.spdm (edPublic s.sec.seedEd ++ s.sec.endorse)))

/-! ### CXL.mem (R309, R349, R362) -/

/-- An access beyond the staging size as applied is counted. -/
def hdmCount (s : State) (addr n : Nat) : State :=
  if stagingSize s < addr + n then { s with host := { s.host with hdmOob := satAdd 65535 s.host.hdmOob 1 } } else s

/-- HDM_ACCESS (R281, R309, R362): reads or writes the staging region; `ecc`: what the check bits find in its lines. -/
def execHdmAccess (addr : Nat) (wr : Option (List (BitVec 8))) (len : Nat) (ecc : LineRes) (s : State) : Res :=
  let n := match wr with | some d => d.length | none => len
  if !s.bg.ready || decide (s.host.hdmSize < addr + n) then .next (s.emit .ur)
  else
    let ls := hdmTouched s addr n wr.isSome
    let b := ls.filter ecc.bad.contains
    let s1 := kvCorrected (badLines s 3 b) (min ecc.corr ls.length)
    match wr with
    | some d => .next (hdmCount (hdmWrite s1 addr d b) addr n)
    | none => .next ((hdmCount s1 addr n).emit (.memRead (hdmRead s b addr n)))

/-! ### The owner mailbox (R357, R360, R420) -/

/-- The mailbox answers from the end of phase 5 on. -/
def mboxUp (s : State) : Bool := s.bg.ready || (s.bg.phaseOn && s.bg.phase == 6)

/-- The mailbox registers after a command: return code, payload length and payload (R360; log 54). -/
def mboxRegs (h : HostIf) (ret : Nat) (d : List Byte) : HostIf :=
  { h with
    mbCtl := h.mbCtl &&& 0xFFFFFFFE#32, mbRet := ret, mbPay := d ++ h.mbPay.drop d.length
    mbCmd := BitVec.ofNat 64 (bits h.mbCmd.toNat 15 0 + d.length * 2 ^ 16) }

/-- Completion of a mailbox command: return code, payload, and vector 1. -/
def mboxEnd (s : State) (ret : Nat) (d : List Byte) : State :=
  (({ s with host := mboxRegs s.host ret d }).emit (.mbox ret d)).emit (.msix 0 1)

/-- A mailbox command runs when the mailbox answers. -/
def mboxRun (s : State) (f : State → State) : Res := .next (if mboxUp s then f s else s)

/-- Free bytes of a payload (log 48): n bytes of opcode op from byte i on. -/
def openBytes (op i n : Nat) : List Byte := (List.range n).map fun j => Config.mailboxByte op (i + j)

/-- IDENTIFY (R360): vendor and device identity, serial number, maximum payload 2^14. -/
def execIdentify (s : State) : Res :=
  mboxRun s fun s => mboxEnd s 0 (openBytes 1 0 8 ++ leBytes 8 s.fuses.serial.toNat ++ leBytes 1 14 ++ openBytes 1 17 1)

/-- Mailbox time in ns: 0 until it is set. -/
def mboxTime (s : State) : Nat :=
  if s.host.stamp = 0 ∧ s.host.stampAt = 0 then 0 else s.host.stamp.toNat + (s.now - s.host.stampAt) * 1000

/-- GET_TIMESTAMP (R360). -/
def execGetTimestamp (s : State) : Res := mboxRun s fun s => mboxEnd s 0 (leBytes 8 (mboxTime s))

/-- SET_TIMESTAMP (R360): engine time is not changed. -/
def execSetTimestamp (v : BitVec 64) (s : State) : Res :=
  mboxRun s fun s => mboxEnd { s with host := { s.host with stamp := v, stampAt := s.now } } 0 []

/-- Opcodes the mailbox supports (R360, R456). -/
def mboxOps : List Nat :=
  [0x0001, 0x0300, 0x0301, 0x0400, 0x0401, 0x4000, 0xC000, 0xC001, 0xC002, 0xC010, 0xC011, 0xC012, 0xC020, 0xC021, 0xC100,
   0xC101, 0xC102]

/-- Identifier of the Command Effects Log. -/
def celId : List Byte :=
  [0x0D, 0xA9, 0xC0, 0xB5, 0xBF, 0x41, 0x4B, 0x78, 0x8F, 0x79, 0x96, 0xB1, 0x62, 0x3B, 0x3F, 0x17]

/-- The Command Effects Log: opcode and effects of each command; the effects are free values. -/
def celBytes : List Byte := mboxOps.flatMap fun op => leBytes 2 op ++ openBytes 0x401 op 2

/-- GET_SUPPORTED_LOGS (R360): one log. -/
def execGetSupportedLogs (s : State) : Res :=
  mboxRun s fun s => mboxEnd s 0 (leBytes 2 1 ++ leBytes 6 0 ++ celId ++ leBytes 4 (4 * mboxOps.length))

/-- GET_LOG (R360): of another log, or beyond its end, Invalid Input. -/
def execGetLog (cel : Bool) (off len : Nat) (s : State) : Res :=
  mboxRun s fun s =>
    if cel && decide (off + len ≤ 4 * mboxOps.length) then mboxEnd s 0 ((celBytes.drop off).take len) else mboxEnd s 2 []

/-- IDENTIFY_MEMORY_DEVICE (R360): the staging capacity in 256 MiB, all of it volatile. -/
def execIdentifyMemoryDevice (s : State) : Res :=
  mboxRun s fun s =>
    let n := s.host.hdmSize / 2 ^ 28
    mboxEnd s 0 (openBytes 0x4000 0 16 ++ leBytes 8 n ++ leBytes 8 n ++ leBytes 8 0 ++ openBytes 0x4000 40 27)

/-- SET_QP (R360, R368): a fresh queue pair from its context; a payload out of range is Invalid Input. -/
def execSetQp (qp : Nat) (ctx : List (BitVec 8)) (s : State) : Res :=
  mboxRun s fun s => if qp < 4096 ∧ ctxOk ctx then mboxEnd (s.setQp qp (newQp s ctx)) 0 [] else mboxEnd s 2 []

/-- GET_QP (R360). -/
def execGetQp (qp : Nat) (s : State) : Res :=
  mboxRun s fun s => if qp < 4096 then mboxEnd s 0 (readQp (s.qp qp)) else mboxEnd s 2 []

/-- A payload of Set port addresses: port, zero, VLAN, MAC, zero, IPv4, zero, IPv6. Bit 7 of the port selects the upper half,
as in a queue pair's context (DEDUCED, log 112). -/
def portAddrOk (p : List Byte) : Bool :=
  p.length == 48 && decide (leAt p 0 1 % 128 < 12) && leAt p 1 1 == 0 && zeros p 10 16 && zeros p 20 32

/-- SET_PORT_ADDRESSES (R360, R366): of a port, or of its upper half. -/
def execSetPortAddresses (payload : List (BitVec 8)) (s : State) : Res :=
  mboxRun s fun s =>
    if portAddrOk payload then
      let p := leAt payload 0 1 % 128
      let x := s.port p
      mboxEnd (s.setPort p (if bit (leAt payload 0 1) 7 then { x with addrU := payload } else { x with addr := payload })) 0 []
    else mboxEnd s 2 []

/-- UNSUPPORTED_OPCODE (R360, R456): return code Unsupported; a supported opcode has a row of its own and does nothing here
(log 2). -/
def execUnsupportedOpcode (op : BitVec 16) (s : State) : Res :=
  if mboxOps.contains op.toNat then .next s else mboxRun s fun s => mboxEnd s 3 []

end Sys2Proof.Machine
end

