-- ==== Sys2Proof/Machine/Security.lean ====
section
/-! DEFINITION. The security commands of the mailbox, the nonce, physical presence, and the attestation report
(R428, R451-R462). -/

namespace Sys2Proof.Machine

open Sys2Proof

/-! ### Answers, keys and presence (R453, R455, R456) -/

/-- Completion of a security command: return code Success, the status in byte 0, then the output. -/
def secEnd (s : State) (status : Nat) (d : List Byte) : State := mboxEnd s 0 (leBytes 1 status ++ d)

/-- A run of exactly n bytes. -/
def fitTo (n : Nat) (d : List Byte) : List Byte := (List.range n).map (byteAt d)

/-- Owner key digest: zero while no owner is enrolled. -/
def ownerDigest (s : State) : List Byte :=
  match s.sec.edKey with
  | some k => sha512 (k ++ s.sec.mlKey)
  | none => List.replicate 64 0

/-- Physical presence stands. -/
def present (s : State) : Bool := match s.pnl.presUntil with | some t => decide (s.now < t) | none => false

/-- Presence is consumed. -/
def usePresence (s : State) : State := { s with pnl := { s.pnl with presUntil := none } }

/-- Owner keys from 1,984 bytes: the Ed25519 key, then the ML-DSA-65 key. -/
def withKeys (s : State) (d : List Byte) : State :=
  { s with sec := { s.sec with edKey := some (d.take 32), mlKey := (d.drop 32).take 1952 } }

/-! ### Signed commands (R457) -/

/-- The signed message: opcode, nonce and body. -/
def signedMsg (op : Nat) (payload : List Byte) (body : Nat) : List Byte := sha512 (leBytes 2 op ++ payload.take (32 + body))

/-- A pair of signatures at offset o verifies under a pair of keys, ML-DSA-65 with an empty context. -/
def pairOk (ed ml m payload : List Byte) (o : Nat) : Bool :=
  edVerify ed m ((payload.drop o).take 64) && mlVerify ml [] m ((payload.drop (o + 64)).take 3309)

/-- Bytes of a pair of signatures. -/
def pairLen : Nat := 3373

/-- The payload names the held nonce. -/
def namesNonce (s : State) (payload : List Byte) : Bool := s.sec.nonce == some (payload.take 32)

/-- The held nonce is consumed by the first command that names it. -/
def dropNonce (s : State) (payload : List Byte) : State :=
  if namesNonce s payload then { s with sec := { s.sec with nonce := none } } else s

/-- A signed command ends with status 03h, counted. -/
def staleEnd (s : State) : State := secEnd { s with sec := { s.sec with stale := satAdd 65535 s.sec.stale 1 } } 3 []

/-- Frame of a signed command with a body of n bytes and extra signature pairs: status 06h for its length, 04h without an
owner, 03h for the nonce, then what `refuse` says, then 02h for the signatures; else `act`. The nonce is consumed in any
case it is named. -/
def signedRun (s : State) (op : Nat) (payload : List Byte) (n : Nat) (newPair : Bool) (refuse : State → Nat)
    (act : State → State) : State :=
  let s1 := dropNonce s payload
  let m := signedMsg op payload n
  if payload.length ≠ 32 + n + pairLen * (1 + b2n newPair) then secEnd s1 6 []
  else
    match s.sec.edKey with
    | none => secEnd s1 4 []
    | some ed =>
      let b := payload.drop 32
      if !namesNonce s payload then staleEnd s1
      else if refuse s1 ≠ 0 then secEnd s1 (refuse s1) []
      else if !pairOk ed s.sec.mlKey m payload (32 + n) ||
          (newPair && !pairOk (b.take 32) ((b.drop 32).take 1952) m payload (32 + n + pairLen)) then
        secEnd (sigFail s1) 2 []
      else act s1

/-! ### The commands (R456-R460) -/

/-- GET_IDENTITY (R451, R452, R456): both public keys and the endorsement. -/
def execGetIdentity (s : State) : Res :=
  mboxRun s fun s =>
    secEnd s 0 (fitTo 32 (edPublic s.sec.seedEd) ++ fitTo 1952 (mlPublic s.sec.seedMl) ++ s.sec.endorse)

/-- GET_NONCE (R457): a new nonce, a free value (log 40), replaces the held one. -/
def execGetNonce (s : State) : Res :=
  mboxRun s fun s =>
    let n := leBytes 32 (Config.nonce s.free).toNat
    secEnd ({ s with sec := { s.sec with nonce := some n } }).bumpFree 0 n

/-- ENROL_OWNER (R453, R455): under presence, which it consumes, while no owner is enrolled. -/
def execEnrolOwner (payload : List (BitVec 8)) (s : State) : Res :=
  mboxRun s fun s =>
    if !present s then secEnd s 1 []
    else
      let s1 := usePresence s
      if payload.length ≠ 1984 then secEnd s1 6 []
      else if s1.sec.edKey.isSome then secEnd s1 4 []
      else
        let s2 := withKeys s1 payload
        secEnd s2 0 (ownerDigest s2)

/-- Replace owner keys is refused while a load runs or a slot is verifying (R458). -/
def replaceRefused (s : State) : Nat := if loading s || s.wst.slots.any (fun e => e.2.st == 1) then 5 else 0

/-- REPLACE_OWNER_KEYS (R458): four signatures over M; the ownership epoch is kept. -/
def execReplaceOwnerKeys (payload : List (BitVec 8)) (s : State) : Res :=
  mboxRun s fun s =>
    signedRun s 0xC011 payload 1984 true replaceRefused fun s =>
      let s1 := withKeys s (payload.drop 32)
      secEnd s1 0 (ownerDigest s1)

/-- Clear ownership is refused with a program, a load or a weight-store command, with sequences, or at the last epoch
(R459). -/
def clearRefused (s : State) : Nat :=
  if !(s.ldr.state == 0 || s.ldr.state == 9 || s.ldr.state == 10) || s.wst.busy then 5
  else if decide (0 < liveCount s) || !s.hub.parked.isEmpty then 7
  else if s.sec.oepoch = 0xFFFFFFFF#32 then 6
  else 0

/-- The owner's keys go, the ownership epoch rises, tenant epochs are 0, and every slot that holds anything is erased. -/
def clearOwner (s : State) : State :=
  let s1 : State := { s with
    sec := { s.sec with edKey := none, mlKey := [], oepoch := s.sec.oepoch + 1, tepoch := [] }
    wst := { s.wst with slots := s.wst.slots.map fun e => (e.1, if e.2.st = 0 then e.2 else { e.2 with st := 6, bound := false }) } }
  secEnd s1 0 (leBytes 4 s1.sec.oepoch.toNat)

/-- CLEAR_OWNERSHIP (R453, R455, R459): an empty payload under presence, or a signed one. -/
def execClearOwnership (payload : List (BitVec 8)) (s : State) : Res :=
  mboxRun s fun s =>
    if payload.isEmpty then
      if !present s then secEnd s 1 []
      else
        let s1 := usePresence s
        if s1.sec.edKey.isNone then secEnd s1 4 []
        else if clearRefused s1 ≠ 0 then secEnd s1 (clearRefused s1) []
        else clearOwner s1
    else signedRun s 0xC012 payload 0 false clearRefused clearOwner

/-- Rotate tenant key is refused for a tenant above 255, a body that is not zero where it should be, the last epoch, or a tenant with live or parked
sequences (R460). -/
def rotateRefused (payload : List Byte) (s : State) : Nat :=
  let t := leAt payload 32 2
  if 256 ≤ t ∨ leAt payload 34 2 ≠ 0 ∨ tepochOf s t = 0xFFFFFFFF#32 then 6
  else if !(seqsIn s fun q => q.live && q.tenant == t).isEmpty || s.hub.parked.any (fun r => r.tenant == t) then 7
  else 0

/-- ROTATE_TENANT_KEY (R460). -/
def execRotateTenantKey (payload : List (BitVec 8)) (s : State) : Res :=
  mboxRun s fun s =>
    signedRun s 0xC020 payload 4 false (rotateRefused payload) fun s =>
      let t := leAt payload 32 2
      let e := tepochOf s t + 1
      secEnd { s with sec := { s.sec with tepoch := tset 0 s.sec.tepoch t e } } 0 (leBytes 4 e.toNat)

/-- GET_TENANT_KEY_EPOCH (R456). -/
def execGetTenantKeyEpoch (t : BitVec 16) (s : State) : Res :=
  mboxRun s fun s => if 256 ≤ t.toNat then secEnd s 6 [] else secEnd s 0 (leBytes 4 (tepochOf s t.toNat).toNat)

/-! ### The attestation report (R428, R461) -/

/-- The fence map of R428, 2,352 bytes. -/
def fenceMap (s : State) : List Byte :=
  (List.range 48).flatMap fun pf =>
    leBytes 1 (fieldState s pf) ++ (List.range 12).flatMap fun c => leBytes 4 (~~~(tget 0 s.bg.badMask (12 * pf + c))).toNat

/-- Entry of JS_FMAP for a logical field: state and physical field; 0 before Ready. -/
def fmapEntry (s : State) (lf : Nat) : Nat :=
  if !s.jet.mapLive ∨ 46 ≤ lf then 0
  else
    match pfieldOf s lf with
    | some pf => (if pf = lf then 64 else 128) + pf
    | none => 0

/-- JS_FMAP0-JS_FMAP5 as 48 bytes. -/
def fmapBytes (s : State) : List Byte := (List.range 48).map fun lf => BitVec.ofNat 8 (fmapEntry s lf)

/-- Installation digest of the bound slot. -/
def boundDigest (s : State) : List Byte :=
  match s.wst.slots.find? fun e => e.2.bound with
  | some e => fitTo 64 e.2.man.instDig
  | none => List.replicate 64 0

/-- The program that runs. -/
def runProg (s : State) : Option Prog := if s.running then s.ldr.prog else none

/-- Bytes 0-511 of the report. -/
def reportBody (s : State) (nonce : List Byte) : List Byte :=
  let p := runProg s
  let flags := b2n p.isSome + 2 * b2n s.sec.edKey.isSome + 4 * b2n s.bg.clean
  let magic : List Byte := [0x49, 0x4C, 0x58, 0x52]
  let l := magic ++ leBytes 2 1 ++ leBytes 2 0x200 ++ leBytes 1 s.fuses.grade ++ leBytes 1 (b2n s.fuses.b0) ++
    leBytes 1 (match p with | some p => p.contract | none => 255) ++ leBytes 1 flags ++ leBytes 6 s.fuses.serial.toNat ++
    leBytes 2 0 ++ leBytes 4 s.sec.oepoch.toNat ++ leBytes 8 s.now ++ fitTo 32 nonce ++ sha512 (fenceMap s) ++ boundDigest s ++
    (match p with | some p => fitTo 64 p.digest | none => List.replicate 64 0) ++ ownerDigest s ++ sha512 (fmapBytes s)
  fitTo 512 l

/-- GET_ATTESTATION_REPORT (R461): 3,885 bytes; a payload that is not a nonce has the wrong format. -/
def execGetAttestationReport (nonce : List (BitVec 8)) (s : State) : Res :=
  mboxRun s fun s =>
    if nonce.length ≠ 32 then secEnd s 6 []
    else
      let b := reportBody s nonce
      let d := sha512 b
      secEnd s.bumpFree 0 (b ++ fitTo 64 (edSign s.sec.seedEd d) ++
        fitTo 3309 (mlSign s.sec.seedMl [0x49, 0x4C, 0x58, 0x52] d (leBytes 32 (Config.mlRandom s.free).toNat)))

end Sys2Proof.Machine
end

