-- ==== Sys2Proof/Machine/Panel.lean ====
section
/-! DEFINITION. The service panel, the removal sequence, the touch pads and the presence detects (R430-R435, R450). -/

namespace Sys2Proof.Machine

open Sys2Proof

/-! ### ATTN (R430) -/

/-- ATTN_PRESS (R430): acknowledges the displayed message and stops the identify pattern. -/
def execAttnPress (s : State) : Res :=
  if s.pwr.off then .next s else .next { s with pnl := { s.pnl with acked := true, ident := false, attn := false } }

/-- A removal is in progress: its cause holds. -/
def removing (s : State) : Bool := s.pwr.causes.contains 3

/-- The removal ends (R434): its cause goes, admission is open, and the engine returns to its target; a bring-up that the
removal stopped starts again. -/
def removalEnd (s : State) : State :=
  if !removing s then s
  else
    tryPhases (unforce { s with pwr := { s.pwr with parkS := none }, hub := { s.hub with admitOff := false } } 3)

/-- ATTN_HOLD (R430): presence for 60 s; during a removal it cancels the removal and asserts none. -/
def execAttnHold (s : State) : Res :=
  if s.pwr.off then .next s
  else if removing s then .next (removalEnd s)
  else .next { s with pnl := { s.pnl with presUntil := some (s.now + 60000000), attn := false } }

/-- PRESENCE_EXPIRY (R430). -/
def execPresenceExpiry (s : State) : Res :=
  match s.pnl.presUntil with
  | some t => .next (if t ≤ s.now then usePresence s else s)
  | none => .next s

/-! ### Removal (R432-R434) -/

/-- No park that the removal waits for runs or is still to come. -/
def parksOver (s : State) : Bool :=
  s.hub.slots.all fun e => !e.2.live || (e.2.st != 5 && !snpOn s e.2.tenant)

/-- A sequence that has not been parked is held where it stands; its park copy is abandoned. -/
def holdUnparked (s : State) (n : Nat) : State :=
  let q := s.slot n
  if q.st = 5 then
    seqEvent (s.setSlot n { q with st := 4, reason := 3, parkN := 0, heldAt := s.now, heldRun := 0 }) n 4 3 0
  else if 1 ≤ q.st ∧ q.st ≤ 3 then holdSeq s n 3
  else s

/-- The forced path of a removal (R432 steps 3, 4). -/
def removalForce (s : State) : State :=
  let s1 := (s.hub.slots.map (·.1)).foldl holdUnparked s
  isoSync (force { s1 with pwr := { s1.pwr with parkS := none } } 3)

/-- REMOVE_PRESS (R430, R432): ignored while a removal is in progress. Before Ready the cause alone is set, and stops
bring-up at the end of its phase. -/
def execRemovePress (s : State) : Res :=
  if s.pwr.off || removing s then .next { s with pnl := { s.pnl with remove := false } }
  else
    let s1 := alarm { s with
      hub := { (askParkAll s).hub with admitOff := true }
      pwr := { s.pwr with causes := s.pwr.causes ++ [3] } } 4
    if !s.bg.ready then .next s1
    else if s.pwr.state < 4 || parksOver s1 then .next (removalForce s1)
    else .next { s1 with pwr := { s1.pwr with parkS := some (s.now + max 1 s.pnl.parkS * 1000000) } }

/-- REMOVAL_PARK_TIMEOUT (R432): the time for parks has passed, or the parks are over. -/
def execRemovalParkTimeout (s : State) : Res :=
  match s.pwr.parkS with
  | some t => .next (if t ≤ s.now ∨ parksOver s then removalForce s else s)
  | none => .next s

/-- REMOVAL_CANCEL (R434): a write of PNL_CTRL.cancel. -/
def execRemovalCancel (s : State) : Res := .next (removalEnd s)

/-- The removal is safe (R433). -/
def removalSafe (s : State) : Bool :=
  s.bg.vsb && ((s.bg.ready && s.pwr.state == 1) || s.bg.perst) && !s.pwr.virEn && !s.pwr.virOk &&
    (s.hub.slots.all fun e => e.2.st != 5) && !s.iso.opened

/-- PNL_STAT.rem: 0 none, 1 parking, 2 descending, 3 safe. -/
def removalState (s : State) : Nat :=
  if s.pwr.parkS.isSome then 1 else if !removing s then 0 else if removalSafe s then 3 else 2

/-! ### Touch pads (R430, R450) -/

/-- The pad's mean exceeds its baseline by at least x / 2: n means with sum t make the baseline. -/
def padOver (l : List Nat) (mean x : Nat) : Bool := decide (2 * l.sum + x * l.length ≤ 2 * mean * l.length) && !l.isEmpty

/-- One 1 ms mean of a pad: its baseline, and whether it is touched. -/
def padMean (thr : Nat) (c : AdcCh) (mean : Nat) : AdcCh :=
  if c.touched then
    let n := if padOver c.hist mean thr then 0 else c.below + 1
    if 10 ≤ n then { c with touched := false, below := 0, above := 0 } else { c with below := n }
  else
    let n := if padOver c.hist mean (2 * thr) then c.above + 1 else 0
    if 2 ≤ n then { c with touched := true, above := 0, below := 0 }
    else { c with above := n, hist := (mean :: c.hist).take 10000 }

/-- The handle is touched while any pad is; the guidance stays 10 s after. -/
def handleTouch (s : State) : State :=
  let t := (List.range 4).any fun p => (tget {} s.adc.ch (19 + p)).touched
  { s with pnl := { s.pnl with
    touch := t, touchUntil := if s.pnl.touch && !t then some (s.now + 10000000) else s.pnl.touchUntil } }

/-- TOUCH_DETECT (R450): a 1 ms mean of pad 0-3. -/
def execTouchDetect (pad mean : Nat) (s : State) : Res :=
  if 4 ≤ pad then .next s
  else if s.pwr.off then .next s
  else
    .next (handleTouch { s with adc := { s.adc with
      ch := tmod {} s.adc.ch (19 + pad) fun c => padMean (max 1 s.adc.thr) c mean } })

/-! ### Presence detects (R435) -/

/-- PNL_PRES with one bit written. -/
def setPres (s : State) (bit : Nat) (v : Bool) : State :=
  let m : BitVec 18 := 1#18 <<< bit
  let s1 : State := { s with pnl := { s.pnl with pres := if v then s.pnl.pres ||| m else s.pnl.pres &&& ~~~m } }
  match bit with
  | 14 => { s1 with thm := { s1.thm with cplIn := v } }
  | 15 => { s1 with thm := { s1.thm with cplOut := v } }
  | _ => s1

/-- A fabric cable: unplugged its port goes down; plugged an enabled port trains where ports run. -/
def cableChange (s : State) (p : Nat) (v : Bool) : State :=
  let x := (portDown s p false).port p
  if v then (if (s.port p).en && (s.port p).st == 0 && decide (2 ≤ s.pwr.state) then s.setPort p { s.port p with st := 1 } else s)
  else (portDown s p false).setPort p { x with st := 0 }

/-- Every channel calibrated without the reference is due (R445). -/
def traceAgain (s : State) : State :=
  { s with adc := { s.adc with ch := tmap {} (fun c => { c with due := if c.untrace then 2 else c.due }) s.adc.ch } }

/-- PRESENCE_CHANGE (R435, R445): bit of PNL_PRES. -/
def execPresenceChange (bit : Nat) (v : Bool) (s : State) : Res :=
  if 18 ≤ bit then .next s
  else
    let s1 := setPres s bit v
    if s.pwr.off then .next s1
    else if bit < 12 then .next (cableChange s1 bit v)
    else if bit < 14 then .next (if v || !s1.iso.opened then s1 else isoLose s1 2 0)
    else if bit < 16 then .next (if v then s1 else coolantStop s1)
    else if bit = 16 then .next (if v then traceAgain s1 else s1)
    else .next (if v then linkRise s1 else linkDown s1)

end Sys2Proof.Machine
end

