-- ==== Sys2Proof/Machine/Adc.lean ====
section
/-! DEFINITION. The telemetry converter: samples, correction, drift calibration and system calibration (R436-R449, R483). -/

namespace Sys2Proof.Machine

open Sys2Proof

def State.chan (s : State) (n : Nat) : AdcCh := tget {} s.adc.ch n

def State.setChan (s : State) (n : Nat) (c : AdcCh) : State := { s with adc := { s.adc with ch := tset {} s.adc.ch n c } }

/-! ### Correction (R439, R440) -/

/-- u of a raw mean x / k (k raw units of 1/16 code), as a fraction with positive denominator; a free value when zero and
full scale are equal (log 52). -/
def uOf (c : AdcCh) (x k : Nat) : Int × Int :=
  let num : Int := (x : Int) - (k : Int) * (c.z.toNat : Int)
  let den : Int := (k : Int) * ((c.span.toNat : Int) - (c.z.toNat : Int))
  if den = 0 then (Config.flatReading x c.z.toNat, (2 ^ 32 : Nat))
  else if den < 0 then (-num, -den) else (num, den)

/-- Saturation of a reading. -/
def satRead (v : Int) : Int := max (-32768) (min 32767 v)

/-- Channels whose sensor is a PT1000. -/
def isPt (n : Nat) : Bool := n == 12 || n == 13 || n == 18

/-- Resistance in 1/16 ohm, times 4 * 10^7, at a temperature of v / 8 degrees C (R440). -/
def ptNum (v : Int) : Int := 640000000000 + 312664000 * v - 5775 * v * v

/-- Four times that number half a step above v. -/
def ptHalf (v : Int) : Int := 2560000000000 + 625328000 * (2 * v + 1) - 5775 * (2 * v + 1) * (2 * v + 1)

/-- Greatest v from -8192 up whose resistance is not above y. -/
def ptFloor (y : Int) : Int :=
  [8192, 4096, 2048, 1024, 512, 256, 128, 64, 32, 16, 8, 4, 2, 1].foldl (fun (v : Int) (p : Int) =>
    if ptNum (v + p) ≤ y then v + p else v) (-8192)

/-- Temperature in 1/8 degree C of a resistance of r / 16 ohm, to nearest even. -/
def ptTemp (r : Int) : Int :=
  let y := r * 40000000
  let v := ptFloor y
  if 4 * y < ptHalf v then v else if ptHalf v < 4 * y then v + 1 else if v % 2 = 0 then v else v + 1

/-- Corrected value of channel n from u under its system layer. -/
def systemLayer (n : Nat) (c : AdcCh) (u : Int × Int) : Int :=
  if 19 ≤ n ∧ n ≤ 22 then satRead (rneDiv (16384 * u.1) u.2)
  else
    let y := satRead (rneDiv (c.s0.toInt * u.2 + c.s1.toInt * u.1) (256 * u.2))
    if isPt n then satRead (ptTemp y) else y

/-! ### Samples (R437, R438, R441) -/

/-- Channel of a frame slot below 124. -/
def slotChan (frame slot : Nat) : Nat := if slot < 120 then slot % 12 else 12 + (4 * frame + (slot - 120)) % 12

/-- Flow as thermal control reads it: since when it is at 80 % of its setpoint, when it last was, and since when below 20 %. -/
def takeFlow (s : State) (v : Nat) : State :=
  let ok := decide (4 * s.thm.flowSet ≤ 5 * v)
  { s with
    thm := { s.thm with
      flow := v, flowOkAt := sinceWhen s.thm.flowOkAt s.now ok, flowOkEnd := if ok then some s.now else s.thm.flowOkEnd
      flowLowAt := sinceWhen s.thm.flowLowAt s.now (decide (5 * v < s.thm.flowSet)) }
    adc := { s.adc with fSum := s.adc.fSum + v, fCnt := s.adc.fCnt + 1 } }

/-- What a reading is used for. -/
def useReading (s : State) (n : Nat) (v : Int) : State :=
  match n with
  | 12 => { s with thm := { s.thm with inlet := v } }
  | 13 => { s with thm := { s.thm with outlet := v } }
  | 14 => takeFlow s v.toNat
  | 17 => { s with thm := { s.thm with mhum := v.toNat } }
  | 18 => { s with thm := { s.thm with amb := v } }
  | _ => s

/-- Takes one sample of channel n; a shadowed channel is measured by the spare under its front-end layer (R443). -/
def takeSample (s : State) (n : Nat) (raw : BitVec 14) : State :=
  let c := s.chan n
  let rail := raw == 0 || raw == 16383
  let fe := if c.shadow then s.chan 24 else c
  let v := systemLayer n c (uOf fe (16 * raw.toNat) 1)
  useReading (s.setChan n { c with
    ovr := c.ovr || rail, atRail := rail, last := v, sum := c.sum + v, cnt := c.cnt + 1 }) n v

/-- Least of the last readings of channels 0-7, in 0.1 mV, and the sum of channels 8-11. -/
def virLow (s : State) : Nat := ((List.range 8).map fun n => (s.chan n).last.toNat).foldl min 32767
def virAmps (s : State) : Nat := ([8, 9, 10, 11].map fun n => (s.chan n).last.toNat).sum

/-- One channel at the end of a millisecond: its mean, to nearest even. -/
def meanOf (c : AdcCh) : AdcCh :=
  if c.cnt = 0 then c else { c with mean := rneDiv c.sum c.cnt, sum := 0, cnt := 0 }

/-- The end of frame k: currents, and every 50, 100 and 1,000 frames the averages. -/
def frameEnd (s : State) : State :=
  let k := s.adc.frame + 1
  let vs := s.adc.vSum + virLow s
  let s1 : State := { s with
    pwr := { s.pwr with amps := virAmps s, vmin := if k % 50 = 0 then vs / 500 else s.pwr.vmin }
    adc := { s.adc with frame := k, vSum := if k % 50 = 0 then 0 else vs } }
  let s2 : State := if k % 100 = 0 ∧ s1.adc.fCnt ≠ 0 then
      { s1 with
        thm := { s1.thm with flowAvg := (s1.adc.fSum / (s1.adc.fCnt : Int)).toNat }
        adc := { s1.adc with fSum := 0, fCnt := 0 } }
    else s1
  if k % 1000 = 0 then { s2 with adc := { s2.adc with ch := tmap {} meanOf s2.adc.ch } } else s2

/-- The sample of slot 124 is the spare's while no drift calibration runs: an over-range one sets its ovr bit. The spare has no
system layer, so it reports no value of its own (R437, R441; log 2). -/
def spareSample (s : State) (raw : BitVec 14) : State :=
  let rail := raw == 0 || raw == 16383
  if s.adc.busy.isSome then s
  else s.setChan 24 { s.chan 24 with ovr := (s.chan 24).ovr || rail, atRail := rail }

/-- ADC_SAMPLE (R437-R441): the sample of a frame slot; slot 124 ends the frame. -/
def execAdcSample (slot : Nat) (raw : BitVec 14) (s : State) : Res :=
  if 125 ≤ slot then .next s
  else if s.pwr.off then .next s
  else if slot = 124 then .next (frameEnd (spareSample s raw))
  else .next (takeSample s (slotChan s.adc.frame slot) raw)

/-! ### Drift calibration (R442-R446) -/

/-- FE_TEMP_READ (R442): t_fe of channels 0, 1, 2 and so on; a channel whose difference from t_cal exceeds dt is due. -/
def execFeTempRead (temps : List Int) (s : State) : Res :=
  if s.pwr.off then .next s
  else .next (((temps.take 25).zipIdx).foldl (fun s e => s.setChan e.2 { s.chan e.2 with tfe := e.1 }) s)

/-- Difference of a channel's temperature from that of its calibration, 1/8 K. -/
def driftOf (c : AdcCh) : Nat := (c.tfe - c.tcal).natAbs

/-- A channel is due, may be tried, and no capture of it runs. -/
def driftDue (s : State) (n : Nat) : Bool :=
  let c := s.chan n
  (c.due != 0 || decide (8 * max 1 s.adc.dt.toNat < driftOf c)) && c.retryAt.isNone && !(s.adc.scGo && s.adc.capCh.toNat == n)

/-- The due channel that goes first: those to be traced again in channel order, then the largest difference. -/
def driftNext (s : State) : Option Nat :=
  let l := (List.range 24).filter (driftDue s)
  match l.find? fun n => (s.chan n).due == 2 with
  | some n => some n
  | none => l.foldl (fun b n =>
      match b with
      | none => some n
      | some m => if driftOf (s.chan m) < driftOf (s.chan n) then some n else some m) none

/-- A drift calibration of channel n begins: the spare is calibrated and measures the channel's input. -/
def driftBegin (s : State) (n sz sf : Nat) : State :=
  let s1 := s.setChan 24 { s.chan 24 with z := BitVec.ofNat 20 sz, span := BitVec.ofNat 20 sf }
  let s2 := s1.setChan n { s1.chan n with shadow := true }
  { s2 with adc := { s2.adc with busy := some n } }

/-- A result that R444 rejects. -/
def driftBad (c : AdcCh) (z f : Nat) : Bool :=
  let old : Int := (c.span.toNat : Int) - (c.z.toNat : Int)
  let new : Int := (f : Int) - (z : Int)
  decide (old.natAbs < 50 * (new - old).natAbs ∨ 4096 < ((z : Int) - (c.z.toNat : Int)).natAbs)

/-- A drift calibration ends: accepted, or rejected and tried again 10 s later. -/
def driftEnd (s : State) (n z f : Nat) : State :=
  let c := s.chan n
  let s1 : State := { s with adc := { s.adc with busy := none } }
  if driftBad c z f then
    let s2 := s1.setChan n { c with shadow := false, retryAt := some (s.now + 10000000) }
    { s2 with adc := { s2.adc with rej := satAdd 65535 s2.adc.rej 1 } }
  else
    let s2 := s1.setChan n { c with
      shadow := false, z := BitVec.ofNat 20 z, span := BitVec.ofNat 20 f, tcal := c.tfe, due := 0
      untrace := !bit s.pnl.pres.toNat 16 }
    { s2 with adc := { s2.adc with drifts := satAdd 65535 s2.adc.drifts 1 } }

/-- DRIFT_CALIBRATION (R442-R446): with none running, that of the due channel begins with the means of the spare; the one
that runs ends with the means of its channel. -/
def execDriftCalibration (sz sf z f : Nat) (s : State) : Res :=
  if s.pwr.off then .next s
  else
    match s.adc.busy with
    | some n => .next (driftEnd s n z f)
    | none =>
      match driftNext s with
      | some n => .next (driftBegin s n sz sf)
      | none => .next s

/-- DRIFT_RETRY (R444): 10 s after a rejected result the channel may be tried again. -/
def execDriftRetry (n : Nat) (s : State) : Res :=
  if 24 ≤ n then .next s
  else
    match (s.chan n).retryAt with
    | some t => .next (if t ≤ s.now then s.setChan n { s.chan n with retryAt := none, due := max 1 (s.chan n).due } else s)
    | none => .next s

/-- Every channel is due. -/
def allDue (s : State) : State :=
  (List.range 24).foldl (fun s n => s.setChan n { s.chan n with due := max 1 (s.chan n).due }) s

/-- DRIFT_ALL (R442): a write of ADC_DRIFT.all makes every channel due. -/
def execDriftAll (s : State) : Res := .next (allDue s)

/-- Ends a system capture with a result. -/
def captureEnd (s : State) (result : Nat) : State := { s with adc := { s.adc with scGo := false, scResult := result } }

/-- A write of ADC_FEn: the coefficients; a drift calibration of the channel is discarded, and a capture that waits for it
ends. -/
def writeFe (s : State) (n : Nat) (v : BitVec 64) : State :=
  let c := s.chan n
  let s1 := s.setChan n { c with
    shadow := false, z := BitVec.ofNat 20 (bits v.toNat 51 32), span := BitVec.ofNat 20 (bits v.toNat 19 0) }
  if s.adc.busy = some n then
    let s2 : State := { s1 with adc := { s1.adc with busy := none } }
    if s2.adc.scGo && s2.adc.capCh.toNat == n then captureEnd s2 5 else s2
  else s1

/-- ADC_FE_WRITE (R446). -/
def execAdcFeWrite (n : Nat) (v : BitVec 64) (s : State) : Res :=
  if 25 ≤ n then .next s else .next (writeFe s n v)

/-! ### System calibration (R447) -/

/-- A write of ADC_SYSCAL with go: the capture starts, or ends at once with the result R447 gives. -/
def startCapture (s : State) : State :=
  let n := s.adc.scCh.toNat
  let v := s.adc.scValue.toInt
  let held := match s.adc.zeroPt with | some p => p.1 == n | none => false
  let fail (r : Nat) : State := captureEnd { s with adc := { s.adc with zeroPt := none } } r
  if (19 ≤ n ∧ n ≤ 22) ∨ 24 ≤ n then fail 2
  else if isPt n ∧ (v < -320 ∨ 1200 < v) then fail 3
  else if s.adc.scPoint ∧ !held then fail 4
  else { s with adc := { s.adc with
    scGo := true, capPoint := s.adc.scPoint, capCh := s.adc.scCh, capValue := s.adc.scValue
    zeroPt := if s.adc.scPoint then s.adc.zeroPt else none } }

/-- A capture of the given point is complete, its channel free of a drift calibration. -/
def captureReady (s : State) (point : Bool) : Bool :=
  s.adc.scGo && s.adc.capPoint == point && s.adc.busy != some s.adc.capCh.toNat

/-- SYSCAL_POINT0 (R447): u of the known zero is held as pending. -/
def execSyscalPoint0 (mean : Nat) (s : State) : Res :=
  if !captureReady s false then .next s
  else
    let n := s.adc.capCh.toNat
    let u := uOf (s.chan n) mean 256
    .next (captureEnd { s with adc := { s.adc with zeroPt := some (n, s.adc.capValue.toInt, u.1, u.2) } } 0)

/-- A known value as a numerator, over 4 * 10^7 on a PT1000 channel. -/
def knownNum (n : Nat) (v : Int) : Int := if isPt n then ptNum v else v
def knownDen (n : Nat) : Int := if isPt n then 40000000 else 1

/-- Quotient to nearest even, of either sign. -/
def rneQuot (a b : Int) : Int := if b < 0 then rneDiv (-a) (-b) else rneDiv a b

/-- A coefficient as stored; a free value beyond 32 bits (log 53). -/
def coefBits (x : Int) : BitVec 32 := if -(2 ^ 31 : Int) ≤ x ∧ x < 2 ^ 31 then BitVec.ofInt 32 x else Config.wideCoef x

/-- SYSCAL_POINT1 (R447): s1 = (f - z) / (u_f - u_z) and s0 = z - s1 u_z, rounded to 1/256 unit. -/
def execSyscalPoint1 (mean : Nat) (s : State) : Res :=
  if !captureReady s true then .next s
  else
    let n := s.adc.capCh.toNat
    let s1 : State := { s with adc := { s.adc with zeroPt := none } }
    match s.adc.zeroPt with
    | none => .next (captureEnd s1 4)
    | some (_, zv, a, b) =>
      let u := uOf (s.chan n) mean 256
      let det := u.1 * b - a * u.2
      if 10 * (det.natAbs : Int) < b * u.2 then .next (captureEnd s1 1)
      else
        let z := knownNum n zv
        let w := knownNum n s.adc.capValue.toInt - z
        let d := knownDen n * det
        let c := s1.chan n
        .next (captureEnd (s1.setChan n { c with
          s1 := coefBits (rneQuot (256 * w * b * u.2) d), s0 := coefBits (rneQuot (256 * (z * det - w * a * u.2)) d) }) 0)

/-- CAL_ISO_CHANGE (R483): the pin; when it goes high, a release of reset hold that waits for it takes place. -/
def execCalIsoChange (low : Bool) (s : State) : Res :=
  let s1 : State := { s with adc := { s.adc with calIsoPin := low } }
  if !low && s1.bg.relWait && s1.bg.perst && s1.bg.vsb then .next (endHold s1) else .next s1

end Sys2Proof.Machine
end

