-- ==== Sys2Proof/Machine/ConfigSpace.lean ====
section
/-! DEFINITION. Configuration space and the CXL device register interface, as far as the spec names what they hold (R348,
R352, R360, R362, R363). The spec names the fields; their places are those of PCIe and CXL (PRESUMED, logs 54 and 113). -/

namespace Sys2Proof.Machine

open Sys2Proof

/-! ### Configuration space (R352, R363) -/

/-- First offset of the SR-IOV capability of function 0, and of the DVSEC for CXL devices (DESIGN CHOICE, log 113). -/
def sriovAt : Nat := 0x200
def dvsecAt : Nat := 0x300

/-- Reads n bytes at an offset of the configuration space of a function: the Command register of a VF; of function 0 the SR-IOV
control and counts, and the range of the DVSEC; 0 elsewhere. -/
def readConfig (s : State) (fn off : Nat) : Nat :=
  let h := s.host
  if 0 < fn then
    let k := s.tenant (fn - 1)
    if off = 4 then 2 * b2n k.mse + 4 * b2n k.bme else 0
  else if off = sriovAt + 0x08 then b2n h.vfEn
  else if off = sriovAt + 0x0C ∨ off = sriovAt + 0x0E then 256
  else if off = sriovAt + 0x10 then h.numVFs
  else if off = dvsecAt + 0x0C then 4 * b2n h.hdmOn
  else if off = dvsecAt + 0x18 then h.hdmSize / 2 ^ 32
  else if off = dvsecAt + 0x1C then h.hdmSize % 2 ^ 32 / 2 ^ 28 * 2 ^ 28
  else if off = dvsecAt + 0x20 then h.hdmBase.toNat / 2 ^ 32
  else if off = dvsecAt + 0x24 then h.hdmBase.toNat % 2 ^ 32
  else 0

/-- Host-physical base of the decoder's range: a multiple of 256 MiB. -/
def withBase (s : State) (b : Nat) : State :=
  { s with host := { s.host with hdmBase := BitVec.ofNat 64 (b / 2 ^ 28 * 2 ^ 28) } }

/-- A write of v at an offset of the configuration space of a function. A clear of VF Enable resets every tenant (R358);
NumVFs is written while VF Enable is clear. -/
def writeConfig (s : State) (fn off v : Nat) : State :=
  let h := s.host
  if 0 < fn then
    if off = 4 ∧ fn - 1 < h.numVFs ∧ h.vfEn then setEnables s (fn - 1) (bit v 1) (bit v 2) else s
  else if off = sriovAt + 0x08 then
    if bit v 0 then { s with host := { h with vfEn := true } } else if h.vfEn then clearVfs s else s
  else if off = sriovAt + 0x10 then
    if !h.vfEn ∧ v % 65536 ≤ 256 then { s with host := { h with numVFs := v % 65536 } } else s
  else if off = dvsecAt + 0x0C then { s with host := { h with hdmOn := bit v 2 } }
  else if off = dvsecAt + 0x20 then withBase s (v % 2 ^ 32 * 2 ^ 32 + h.hdmBase.toNat % 2 ^ 32)
  else if off = dvsecAt + 0x24 then withBase s (h.hdmBase.toNat / 2 ^ 32 * 2 ^ 32 + v % 2 ^ 32)
  else s

/-! ### The device register interface (R360) -/

/-- First offsets of the Device Status and of the primary mailbox registers, and of the mailbox payload. -/
def statusAt : Nat := 0x30
def mailboxAt : Nat := 0x40
def payloadAt : Nat := 0x60

/-- Bytes of the payload registers (R360). -/
def payloadSize : Nat := 16384

/-- The registers below the payload: the capabilities array with its two capabilities, Device Status, and the mailbox's
capabilities, control, command, status and background status. -/
def deviceRegs (s : State) : List Byte :=
  let h := s.host
  leBytes 8 (1 * 2 ^ 16 + 2 * 2 ^ 32) ++ leBytes 8 0 ++
  leBytes 4 (1 + 2 ^ 16) ++ leBytes 4 statusAt ++ leBytes 8 8 ++
  leBytes 4 (2 + 2 ^ 16) ++ leBytes 4 mailboxAt ++ leBytes 8 (payloadAt - mailboxAt + payloadSize) ++
  leBytes 8 0 ++ leBytes 8 0 ++
  leBytes 4 (14 + 2 ^ 5 + 1 * 2 ^ 7) ++ leBytes 4 h.mbCtl.toNat ++ leBytes 8 h.mbCmd.toNat ++ leBytes 8 (h.mbRet * 2 ^ 32) ++
  leBytes 8 0

/-- Byte of the interface at an offset; what the two capabilities do not lay out is free (log 54). -/
def deviceRead (s : State) (o : Nat) : Byte :=
  if o < payloadAt then byteAt (deviceRegs s) o
  else if o < payloadAt + payloadSize then byteAt s.host.mbPay (o - payloadAt)
  else Config.deviceByte o s.free

/-- Bytes d put over a byte list from place i on. -/
def putBytes (l : List Byte) (i : Nat) (d : List Byte) : List Byte :=
  (List.range i).map (byteAt l) ++ d ++ l.drop (i + d.length)

/-- A write of bytes at an offset of the interface: the mailbox's control, command and payload registers are kept. The
command that a doorbell starts has a row of its own. -/
def deviceWrite (s : State) (o : Nat) (d : List Byte) : State :=
  let h := s.host
  let n := d.length
  if o = mailboxAt + 4 ∧ n = 4 then { s with host := { h with mbCtl := BitVec.ofNat 32 (ofLe d % 4) } }
  else if o = mailboxAt + 8 ∧ n = 8 then { s with host := { h with mbCmd := BitVec.ofNat 64 (ofLe d % 2 ^ 37) } }
  else if payloadAt ≤ o ∧ o + n ≤ payloadAt + payloadSize then
    { s with host := { h with mbPay := putBytes h.mbPay (o - payloadAt) d } }
  else s

end Sys2Proof.Machine
end

