-- ==== Sys2Proof/Machine/Service.lean ====
section
/-! DEFINITION. The SMBus target and the boundary-scan port (R374, R376). -/

namespace Sys2Proof.Machine

open Sys2Proof

/-! ### SMBus (R374) -/

/-- Bits of the fault summary, from bit 0: squall pending, load fault, field fenced, no spare field, coolant stop,
over-temperature, dew point, Isobar not whole, fabric port down, installation incomplete or damaged. -/
def faultBits (s : State) : List Bool :=
  [s.bg.sqVld, s.ldr.fVld, !s.bg.fieldSt.isEmpty, (sparesOf s).isEmpty, s.thm.stop, s.thm.hot, s.thm.dew,
   isoEn s && s.iso.ring != 1, s.host.ports.any fun e => e.2.en && e.2.st != 2,
   s.wst.slots.any fun e => e.2.st == 4 || e.2.st == 5]

/-- A list of bits as a number, bit 0 first. -/
def bitsNum : List Bool → Nat
  | [] => 0
  | b :: r => b2n b + 2 * bitsNum r

/-- The SMBus target answers while VSB is present. -/
def smbAnswer (s : State) (d : List Byte) : State := if s.bg.vsb then s.emit (.smb d) else s

/-- A signed word. -/
def wordOf (v : Int) : List Byte := leBytes 2 (BitVec.ofInt 16 v).toNat

/-- SMB_ALERT_N is driven low: a fault summary bit is set (R481). -/
def smbAlert (s : State) : Bool := s.bg.vsb && (faultBits s).contains true

/-- SMB_IDENTITY (R374). -/
def execSmbIdentity (s : State) : Res :=
  .next (smbAnswer s (leBytes 1 s.fuses.grade ++ leBytes 1 (b2n s.fuses.b0) ++ leBytes 2 0 ++ leBytes 4 s.fuses.serial.toNat))

/-- SMB_STATE (R374). -/
def execSmbState (s : State) : Res := .next (smbAnswer s (leBytes 1 s.pwr.state))

/-- SMB_FAULT_SUMMARY (R374). -/
def execSmbFaultSummary (s : State) : Res := .next (smbAnswer s (leBytes 2 (bitsNum (faultBits s))))

/-- An SMBus command code of another row does nothing here; a code outside the table is NACKed (R374): an answer of no
bytes. -/
def smbOther (s : State) (code : BitVec 8) : State := if code.toNat ≤ 0x0D then s else s.emit (.smb [])

/-- SMB_DIE_TEMPERATURE (R374): codes 03h-05h; with no valid sensor the reading is a free value (log 50). -/
def execSmbDieTemperature (code : BitVec 8) (s : State) : Res :=
  let k := code.toNat - 3
  if code.toNat < 3 ∨ 5 < code.toNat then .next (smbOther s code)
  else .next (smbAnswer s.bumpFree (wordOf ((kindSensor s k).getD (Config.blindReading (16 + k) s.free))))

/-- SMB_COOLANT_TEMPERATURE (R374). -/
def execSmbCoolantTemperature (outlet : Bool) (s : State) : Res :=
  .next (smbAnswer s (wordOf (if outlet then s.thm.outlet else s.thm.inlet)))

/-- SMB_FLOW (R374). -/
def execSmbFlow (s : State) : Res := .next (smbAnswer s (leBytes 2 s.thm.flow))

/-- SMB_POWER (R374): codes 09h-0Bh, in W / 4. -/
def execSmbPower (code : BitVec 8) (s : State) : Res :=
  match code.toNat with
  | 9 => .next (smbAnswer s (leBytes 2 (s.pwr.power / 4)))
  | 10 => .next (smbAnswer s (leBytes 2 (s.thm.therm.getD 0 / 4)))
  | 11 => .next (smbAnswer s (leBytes 2 (s.iso.share / 4)))
  | _ => .next (smbOther s code)

/-- SMB_RACK_BUDGET (R374): ISO_CFG.budget. -/
def execSmbRackBudget (v : BitVec 16) (s : State) : Res :=
  if !s.bg.vsb then .next s
  else .next { s with iso := { s.iso with cfg := (s.iso.cfg &&& 0xFFFFFFFFFFFF0000#64) ||| v.zeroExtend 64 } }

/-- SMB_IDENTIFY_PATTERN (R374): 1 starts, 0 stops; another value changes nothing. -/
def execSmbIdentifyPattern (v : BitVec 8) (s : State) : Res :=
  if !s.bg.vsb || decide (1 < v.toNat) then .next s else .next { s with pnl := { s.pnl with ident := v == 1 } }

/-! ### The panel's indications (R418, R431, R433; log 92) -/

/-- What the eight-character display shows. -/
inductive Shown where
  | dark
  | bgStop (code : Nat)
  | hotOff
  | safe
  | notSafe
  | parking
  | descend
  | coolStop
  | coolWait
  | bringUp (phase : Nat)
  | squall (cls : Nat)
  | state (code : Nat)
deriving DecidableEq, Repr

/-- Colour of an indicator. -/
inductive Led where
  | dark
  | white
  | blue
  | green
  | amber
  | red
deriving DecidableEq, Repr

/-- Touched, or touched within the last 10 s: the removal guidance shows. -/
def guidance (s : State) : Bool :=
  s.pnl.touch || (match s.pnl.touchUntil with | some t => decide (s.now < t) | none => false)

/-- The display: the highest row of the table whose condition holds; a touch shows whether the removal is safe. -/
def display (s : State) : Shown :=
  if s.bg.stopc ≠ 0 then .bgStop s.bg.stopc
  else if s.bg.hotWait then .hotOff
  else if s.pwr.off then .dark
  else if removalSafe s then .safe
  else if guidance s then .notSafe
  else if removing s then (if removalState s = 1 then .parking else .descend)
  else if s.pwr.causes.contains 1 then .coolStop
  else if s.bg.phaseOn then (if s.bg.cwait then .coolWait else .bringUp s.bg.phase)
  else if s.bg.sqVld then .squall s.bg.sqCls
  else .state s.pwr.state

/-- LED 0, state. -/
def ledState (s : State) : Led :=
  if s.bg.stopc ≠ 0 then .white
  else if s.pwr.off then .dark
  else if removalSafe s then .dark
  else if removing s || s.pwr.causes.contains 1 then .blue
  else if s.bg.phaseOn then .white
  else if s.bg.sqVld || s.pwr.state == 5 then .green
  else .blue

/-- LED 1, health. -/
def ledHealth (s : State) : Led :=
  if s.bg.stopc ≠ 0 ∨ s.bg.hotWait = true then .red
  else if s.pwr.off then .dark
  else if s.pwr.causes.contains 1 then .red
  else if s.bg.phaseOn then .green
  else if (faultBits s).contains true then .amber
  else .green

/-- LED 2 blinks blue while the identify pattern runs. -/
def ledIdent (s : State) : Led := if s.pnl.ident && !s.pwr.off then .blue else .dark

/-- LED 3, removal. -/
def ledRemoval (s : State) : Led :=
  if s.pwr.off && !s.bg.hotWait then .dark
  else if removalSafe s && s.bg.stopc == 0 && !s.bg.hotWait then .green
  else if guidance s || removing s then .red
  else .dark

/-! ### Boundary scan (R376) -/

/-- Instructions that drive pins. -/
def jtagDrives : JtagIr → Bool
  | .bypass | .idcode | .samplePreload => false
  | .extest | .clamp | .highz | .extestPulse | .extestTrain => true

/-- The instruction as it acts: one that drives pins acts as BYPASS unless the engine is held in reset. -/
def jtagActs (s : State) (ir : JtagIr) : JtagIr := if jtagDrives ir && !(s.bg.vsb && s.bg.perst) then .bypass else ir

/-- IDCODE of the stepping. -/
def idCode (s : State) : BitVec 32 := if s.fuses.b0 then 0x171C856B#32 else 0x071C856B#32

/-- Loads an instruction: BYPASS, CLAMP and HIGHZ select the bypass register, which captures 0; IDCODE captures the code;
the others work on the boundary cells. -/
def jtagLoad (s : State) (ir : JtagIr) : State :=
  if !s.bg.vsb then s
  else
    let dr : BitVec 32 := match jtagActs s ir with
      | .bypass | .clamp | .highz => 0
      | .idcode => idCode s
      | _ => s.jtag.dr
    ({ s with jtag := { s.jtag with ir := ir, dr := dr } }).emit (.jtag dr)

/-- BYPASS (R376). -/
def execBypass (s : State) : Res := .next (jtagLoad s .bypass)

/-- IDCODE (R376). -/
def execIdcode (s : State) : Res := .next (jtagLoad s .idcode)

/-- SAMPLE_PRELOAD (R376): the pins are captured into the boundary cells. -/
def execSamplePreload (pins : List Bool) (s : State) : Res :=
  let s1 := jtagLoad s .samplePreload
  .next (if s.bg.vsb then { s1 with jtag := { s1.jtag with sample := pins } } else s1)

/-- EXTEST (R376). -/
def execExtest (s : State) : Res := .next (jtagLoad s .extest)

/-- CLAMP (R376). -/
def execClamp (s : State) : Res := .next (jtagLoad s .clamp)

/-- HIGHZ (R376). -/
def execHighz (s : State) : Res := .next (jtagLoad s .highz)

/-- EXTEST_PULSE (R376). -/
def execExtestPulse (s : State) : Res := .next (jtagLoad s .extestPulse)

/-- EXTEST_TRAIN (R376). -/
def execExtestTrain (s : State) : Res := .next (jtagLoad s .extestTrain)

end Sys2Proof.Machine
end

