-- ==== Sys2Proof/Machine/Regs.lean ====
section
/-! DEFINITION. The two apertures: register index, reads, writes and half accesses (R10, R14-R17, R352-R359, R420, R465-R472). -/

namespace Sys2Proof.Machine

open Sys2Proof

/-! ### Register index (R471, R472): first offset, how many, stride, bytes -/

def pfBg : List (Nat × Nat × Nat × Nat) :=
  [(0x0, 2, 8, 8), (0x10, 1, 8, 4), (0x18, 2, 8, 8), (0x200, 1, 8, 4), (0x208, 8, 8, 8)]

def pfPwr : List (Nat × Nat × Nat × Nat) := [(0x100000, 1, 8, 4), (0x100008, 3, 8, 8)]

def pfThm : List (Nat × Nat × Nat × Nat) := [(0x200000, 1, 8, 4), (0x200008, 3, 8, 8), (0x200020, 3, 8, 4)]

def pfAdc : List (Nat × Nat × Nat × Nat) :=
  [(0x300000, 25, 8, 8), (0x300100, 25, 8, 8), (0x300200, 24, 8, 8), (0x300300, 1, 8, 8), (0x300308, 1, 8, 4),
   (0x300310, 1, 8, 8), (0x300318, 1, 8, 4)]

def pfSec : List (Nat × Nat × Nat × Nat) := [(0x400000, 1, 8, 8), (0x400008, 1, 8, 4), (0x400040, 8, 8, 8)]

def pfLdr : List (Nat × Nat × Nat × Nat) :=
  [(0x500000, 1, 8, 8), (0x500010, 1, 8, 4), (0x500018, 2, 8, 8), (0x500028, 2, 4, 4), (0x500040, 8, 8, 8)]

def pfJs : List (Nat × Nat × Nat × Nat) :=
  [(0x600000, 6, 8, 8), (0x600030, 1, 8, 4), (0x600100, 2, 4, 4), (0x600108, 1, 8, 8), (0x600200, 1, 8, 8),
   (0x600300, 1, 8, 8), (0x600308, 1, 8, 4)]

def pfSrv : List (Nat × Nat × Nat × Nat) := [(0x700000, 1, 8, 4), (0x700008, 2, 8, 8), (0x700100, 64, 8, 8)]

def pfKv : List (Nat × Nat × Nat × Nat) :=
  [(0x800000, 10, 8, 8), (0x800050, 2, 8, 4), (0x800060, 1, 8, 8), (0x800068, 1, 8, 4), (0x800070, 1, 8, 8), (0x800078, 1, 8, 4)]

def pfSnp : List (Nat × Nat × Nat × Nat) :=
  [(0x900000, 256, 32, 8), (0x900008, 256, 32, 8), (0x900010, 256, 32, 8), (0x902000, 1, 8, 8)]

def pfWst : List (Nat × Nat × Nat × Nat) :=
  [(0xA00000, 1, 8, 8), (0xA00010, 1, 8, 4), (0xA00018, 2, 8, 8), (0xA00100, 4, 8, 8), (0xA00200, 16, 8, 8), (0xA00300, 1, 8, 8)]

def pfRest : List (Nat × Nat × Nat × Nat) :=
  [(0xB00000, 8, 8, 8), (0xC00000, 12, 16, 8), (0xC00100, 1, 8, 8), (0xD00000, 1, 8, 8), (0xD00008, 2, 4, 4), (0xD00010, 1, 8, 8),
   (0xE00000, 3, 8, 8), (0xF00000, 3, 8, 4)]

/-- Registers of PF BAR0 outside the tenant blocks. -/
def pfRegs : List (Nat × Nat × Nat × Nat) :=
  pfBg ++ pfPwr ++ pfThm ++ pfAdc ++ pfSec ++ pfLdr ++ pfJs ++ pfSrv ++ pfKv ++ pfSnp ++ pfWst ++ pfRest

/-- Registers of a tenant block. -/
def tenantRegs : List (Nat × Nat × Nat × Nat) :=
  [(0x0, 1, 8, 8), (0x8, 2, 4, 4), (0x10, 1, 8, 8), (0x18, 2, 4, 4), (0x20, 1, 8, 8), (0x28, 1, 8, 4), (0x1000, 2, 8, 8),
   (0x1010, 1, 8, 4), (0x2000, 1, 8, 4), (0x3000, 10, 8, 8), (0x4000, 1, 8, 8), (0x4008, 2, 4, 4), (0x4010, 1, 8, 4)]

/-- Windows of PF BAR0 (R467): first offset and end. -/
def pfWindows : List (Nat × Nat) :=
  [(0x400, 0xD30), (0x1000, 0x3000), (0x201000, 0x203D40), (0x540000, 0x580000), (0x701000, 0x702000), (0x801000, 0x802000),
   (0xA00400, 0xA00500), (0xA01000, 0xA02000)]

/-- Where an access of a view goes: a tenant block's offset, or an offset of PF BAR0; none outside the aperture (R10, R470). -/
def apertureOf (v : View) (off : Nat) : Option (Option Nat × Nat) :=
  match v with
  | .owner =>
    if 0x1000000 ≤ off ∧ off < 0x2000000 then some (some ((off - 0x1000000) / 0x10000), off % 0x10000)
    else if off < 0x4000000 then some (none, off)
    else none
  | .tenant t => if t < 256 ∧ off < 0x10000 then some (some t, off) else none
  | .config _ | .unsupported => none

/-- Key of a register's pending and latched halves: apart for each view (R470). -/
def viewKey (v : View) (off : Nat) : Nat :=
  match v with
  | .owner => off
  | .tenant t => 0x4000000 + t * 0x10000 + off
  | .config _ | .unsupported => 0x6000000

/-- The register of one row that an access of n bytes at off touches: its offset and width. -/
def rowHit (off n : Nat) (r : Nat × Nat × Nat × Nat) : Option (Nat × Nat) :=
  let i := (off - r.1) / r.2.2.1
  ([i, i + 1].find? fun j =>
    decide (j < r.2.1 ∧ r.1 + j * r.2.2.1 < off + n ∧ off < r.1 + j * r.2.2.1 + r.2.2.2)).map fun j =>
      (r.1 + j * r.2.2.1, r.2.2.2)

/-- The register that an access touches. -/
def regHit (l : List (Nat × Nat × Nat × Nat)) (off n : Nat) : Option (Nat × Nat) := l.findSome? (rowHit off n)

/-- Register that an access touches at a place. -/
def placeHit (t : Option Nat) (off n : Nat) : Option (Nat × Nat) := regHit (if t.isSome then tenantRegs else pfRegs) off n

/-- An access of the owner view that begins in reserved bytes runs into the first register of the next tenant block. -/
def nextHit (view : View) (off n : Nat) : Bool :=
  let b := max 0x1000000 ((off / 0x10000 + 1) * 0x10000)
  view == .owner && decide (b < 0x2000000 ∧ b < off + n)

/-- An access meets R16: the register's own width, or either half of a 64-bit register. -/
def accessOk (r : Nat × Nat) (off n : Nat) : Bool :=
  (off == r.1 && n == r.2) || (r.2 == 8 && n == 4 && (off == r.1 || off == r.1 + 4))

/-- The access touches a window. -/
def inWindow (t : Option Nat) (off n : Nat) : Bool :=
  t.isNone && pfWindows.any fun w => decide (off < w.2 ∧ w.1 < off + n)

/-- The block of a PF offset answers (R420): before Ready BG, PWR, THM, ADC, SEC and PNL, and CXLX in phase 6. -/
def blockUp (s : State) (t : Option Nat) (off : Nat) : Bool :=
  s.bg.ready || (t.isNone && (decide (off / 0x100000 ≤ 4) || off / 0x100000 == 15 || (off / 0x100000 == 13 && mboxUp s)))

/-! ### Reading -/

/-- A value at bits [hi:lo]. -/
def fld (v hi lo : Nat) : Nat := v % 2 ^ (hi + 1 - lo) * 2 ^ lo

/-- A signed value at bits [hi:lo]. -/
def fldI (v : Int) (hi lo : Nat) : Nat := fld (BitVec.ofInt 64 v).toNat hi lo

def flg (b : Bool) (i : Nat) : Nat := b2n b * 2 ^ i

def slotCode : SlotKind → Nat
  | .S => 0
  | .M => 1
  | .V => 2
  | .X => 3

/-- BG_SQCYC to BG_SQHDR3; 0 before any squall. -/
def readSquall (s : State) (i : Nat) : Nat :=
  let r := s.bg.sqRec
  if s.bg.sqCls = 0 then 0
  else
    match i with
    | 0 => r.cycle % 2 ^ 64
    | 1 => fld r.pfield 63 58 + fld r.cluster 57 54 + fld r.pcore 53 49 + fld r.lfield 48 43 + fld r.lcore 42 38 +
        fld r.unit 37 34 + fld r.loc 33 24
    | 2 => fld r.front 47 40 + fld r.counter 39 34 + fld (slotCode r.slot) 33 32 + fld r.pc 20 0
    | 3 => fld r.auxHi 63 32 + fld r.auxLo 31 0
    | 4 => fld r.hdr0.toNat 63 0
    | 5 => fld (r.hdr0.toNat / 2 ^ 64) 63 0
    | 6 => fld r.hdr1.toNat 63 0
    | _ => fld (r.hdr1.toNat / 2 ^ 64) 63 0

def readBg (s : State) (o : Nat) : Nat :=
  let b := s.bg
  if o = 0 then fld s.fuses.grade 63 56 + fld (b2n s.fuses.b0) 55 48 + s.fuses.serial.toNat
  else if o = 8 then
    flg b.ready 63 + flg b.clean 62 + fld b.path 61 60 + fld b.phase 59 57 + fld b.stopc 56 53 + flg b.cwait 52 +
      fld b.lastMs 51 32 + fld (min 65535 ((s.now - b.fullAt) / dayUs)) 15 0
  else if o = 0x10 then flg b.full 0
  else if o = 0x18 then b.test.toNat
  else if o = 0x20 then fld b.spared 63 48 + fld b.flagged.length 47 32 + fld b.eccCorr 31 0
  else if o = 0x200 then
    flg b.sqVld 31 + flg b.sqOvw 30 + fld b.sqCls 23 16 + fld b.sqSame 15 8 + fld b.sqLater 7 0
  else readSquall s ((o - 0x208) / 8)

/-- Strongest forced cause (R392). -/
def strongestCause (s : State) : Nat := ([5, 1, 2, 3, 4].find? s.pwr.causes.contains).getD 0

/-- Clusters with logic switched off, from Calm to Run (R394). -/
def darkCount (s : State) : Nat :=
  if s.pwr.state < 2 then 0
  else 12 * ((List.range 48).filter fun pf => !s.jet.binding.contains (some pf) || fieldState s pf != 0).length

def readPwr (s : State) (o : Nat) : Nat :=
  let p := s.pwr
  if o = 0 then flg p.wake 31 + fld p.idleSt.toNat 30 28 + fld p.idleS.toNat 27 12 + fld p.tgt.toNat 2 0
  else if o = 8 then
    fld p.state 63 61 + fld (if p.state = 0 then 0 else pwrFloor s) 60 58 + fld (strongestCause s) 57 54 + flg (moving s) 53 +
      fld p.step 52 50 + flg p.compat 49 + flg p.virOk 48 + fld (darkCount s) 47 38 + fld p.single 31 16 + fld p.trips 15 0
  else if o = 0x10 then
    fld (if p.compat then 0 else p.setpt) 63 48 + fld p.vmin 47 32 + fld p.amps 31 16 + fld (p.power / 4) 15 0
  else p.regflt.toNat

def readThm (s : State) (o : Nat) : Nat :=
  let t := s.thm
  if o = 0 then fld t.cap 15 0
  else if o = 8 then
    fld (t.eff / 4) 63 48 + fld (min 65535 (t.therm.getD 0 / 4)) 47 32 + fld (t.shareApp / 4) 31 16 + fld t.effSrc 15 13 +
      fld t.thermDie 12 10
  else if o = 0x10 then fld (t.rth.getD t.thermDie 0) 63 32 + fld t.rth0 31 0
  else if o = 0x18 then fldI t.inlet 63 48 + fldI t.outlet 47 32 + fld t.flow 31 16 + fldI t.dewT 15 0
  else if o = 0x20 then fld t.flowSet 15 0
  else if o = 0x28 then
    flg t.stop 31 + flg t.dew 30 + flg t.hot 29 + flg (decide (320 < inletT s)) 28 +
      flg (s.plane.clockOn && s.pwr.step != 0) 27 + flg t.cplIn 26 + flg t.cplOut 25 +
      fld (t.pairs.filter fun e => e.2.split).length 22 12
  else flg t.refused 8

def readAdc (s : State) (o : Nat) : Nat :=
  let a := s.adc
  if o < 0x100 then
    let c := s.chan (o / 8)
    flg c.ovr 63 + flg c.untrace 62 + flg c.shadow 61 + fldI c.mean 47 32 + fldI c.tfe 31 20 + fldI c.last 15 0
  else if o < 0x200 then
    let c := s.chan ((o - 0x100) / 8)
    fldI c.tcal 63 52 + fld c.z.toNat 51 32 + fld c.span.toNat 19 0
  else if o < 0x300 then
    let c := s.chan ((o - 0x200) / 8)
    fld c.s1.toNat 63 32 + fld c.s0.toNat 31 0
  else if o = 0x300 then
    flg a.scGo 63 + fld a.scResult 55 48 + flg a.scPoint 40 + fld a.scCh.toNat 36 32 + fld a.scValue.toNat 31 0
  else if o = 0x308 then a.dt.toNat
  else if o = 0x310 then fld a.drifts 63 48 + fld a.rej 47 32 + fld (a.busy.getD 255) 23 16
  else fld a.thr 15 0

def readSec (s : State) (o : Nat) : Nat :=
  if o = 0 then flg s.sec.edKey.isSome 63 + flg (present s) 62 + s.sec.oepoch.toNat
  else if o = 8 then fld s.sec.sigfail 31 16 + fld s.sec.stale 15 0
  else leAt (ownerDigest s) (o - 0x40) 8

def readLdr (s : State) (o : Nat) : Nat :=
  let l := s.ldr
  if o = 0 then l.src.toNat
  else if o = 0x10 then flg l.discard 2 + flg l.start 0
  else if o = 0x18 then fld l.loads 63 48 + fld l.rounds 39 36 + fld l.state 35 32 + fld l.blocks 31 0
  else if o = 0x20 then flg l.fVld 63 + fld l.fCode 55 48 + fld l.fA 47 32 + fld l.fB 31 0
  else if o = 0x28 then flg l.trEn 31 + fld l.trace.length 15 0
  else if o = 0x2C then l.trLoc.toNat
  else if l.state = 8 ∨ l.state = 10 then
    match l.prog with
    | some p => leAt p.digest (o - 0x40) 8
    | none => 0
  else 0

/-- JS_TBLDATA: the entry that JS_TBLSEL selects; 0 out of range. -/
def tblData (s : State) : Nat :=
  let v := s.jet.tblSel.toNat
  let loc := bits v 29 24
  let n := bits v 23 20
  let idx := bits v 12 0
  match bits v 31 30 with
  | 0 =>
    if idx = 0 then (if n < 12 ∧ s.jet.tree0.contains loc then (Config.treeZero (12 * loc + n)).toNat else 0)
    else if loc < 48 ∧ n < 12 ∧ idx < 4096 then (tget 0 s.jet.router (4096 * (12 * loc + n) + idx)).toNat else 0
  | 1 => if loc < 48 ∧ n < 4 ∧ idx < 64 then (tget 0 s.jet.gwUni (64 * (4 * loc + n) + idx)).toNat else 0
  | 2 => if loc < 48 ∧ n < 4 ∧ idx < 4096 then (tget 0 s.jet.gwTree (4096 * (4 * loc + n) + idx)).toNat else 0
  | _ =>
    if 28 ≤ loc ∨ n ≠ 0 then 0
    else if idx < 4096 then (tget 0 s.jet.stTree (4096 * loc + idx)).toNat
    else if idx < 4096 + 64 then (tget 0 s.jet.stUni (64 * loc + (idx - 4096))).toNat
    else 0

/-- JS_MAPSTAT: 0 until Ready. A load's completion sets it (R202); a field drop and a substitution change it (R24, R275;
log 106). -/
def readMapStat (s : State) : Nat :=
  let j := s.jet
  if !j.mapLive then 0
  else flg j.mapRef 31 + fld j.mapSpares 30 29 + fld j.allow 28 24 + fld j.mapBypass 23 18 + fld j.rerouted 17 0

def readJs (s : State) (o : Nat) : Nat :=
  let p := s.plane
  if o < 0x30 then leAt (fmapBytes s) o 8
  else if o = 0x30 then readMapStat s
  else if o = 0x100 then s.jet.tblSel.toNat
  else if o = 0x104 then tblData s
  else if o = 0x108 then fld p.crossings 63 32 + fld p.packetCnt 31 0
  else if o = 0x200 then
    fld p.freezeCnt 63 32 + (match p.firstFrz with
      | some c => flg true 31 + fld (pfOf c) 20 15 + fld (clOf c) 14 11 + fld (pcOf c) 10 6
      | none => 0) + fld p.slipMax 4 0
  else if o = 0x300 then fld p.fronts 63 32 + fld p.maxWait 31 12 + fld p.maxFront 7 0
  else fld p.lateWt 31 16 + fld p.lateKv 15 0

/-- Sequences in one of a list of states. -/
def seqCount (s : State) (l : List Nat) : Nat := (seqsIn s fun q => l.contains q.st).length

def readSrv (s : State) (o : Nat) : Nat :=
  let h := s.hub
  if o = 0 then flg h.parkAll 1 + flg h.admitOff 0
  else if o = 8 then
    fld h.parked.length 63 45 + fld (seqCount s [3]) 44 36 + fld (seqCount s [1, 2]) 35 27 + fld (seqCount s [4]) 26 18 +
      fld (seqCount s [5, 7]) 17 9 + fld h.ptr 7 0
  else if o = 0x10 then fld h.dropEv 63 32 + fld h.dropCand 31 16 + fld h.dropShort 15 0
  else
    let k := (o - 0x100) / 8
    let a := s.adp k
    fld a.st 63 61 + fld a.tenant 60 53 + fld a.gen 52 37 + fld (pinsOf s k) 36 28 + fld a.id.toNat 23 0

/-- KV_STAT; rows and entries of the applied configuration. -/
def readKvStat (s : State) : Nat :=
  let a := s.kv.app
  let rows := if a = {} then 0 else portRows s a.cfg a.pool
  fld s.kv.result 63 56 + fld rows 55 40 + fld (if a = {} then 0 else pfxTotal s a) 37 19 +
    fld (s.kv.pfx.filter fun e => e.2.st == 2).length 18 0

def readKv (s : State) (o : Nat) : Nat :=
  let k := s.kv
  if o = 0 then k.cfg.toNat
  else if o = 8 then k.area.toNat
  else if o < 0x50 then (tget 0 k.cls ((o - 0x10) / 8)).toNat
  else if o = 0x50 then k.pool.toNat
  else if o = 0x58 then 0
  else if o = 0x60 then readKvStat s
  else if o = 0x68 then flg (!k.dbl.isEmpty) 31 + fld k.dbl.length 26 16 + fldI ((kindSensor s 1).getD 0 / 8) 7 0
  else if o = 0x70 then fld k.uncorr 63 48 + fld k.spared 47 32 + fld k.corr 31 0
  else fld k.elogCnt 15 8 + fld k.elogNext 7 0

def readSnp (s : State) (o : Nat) : Nat :=
  if o = 0x2000 then fld s.hub.parkFail 63 48 + fld s.hub.restFail 47 32 + fld s.hub.expired 31 0
  else
    let k := s.tenant (o / 32)
    match o % 32 with
    | 0 => k.snpA.toNat
    | 8 => k.snpB.toNat
    | _ => k.snpC.toNat

/-- Fewest spare pages left, and the largest programme-cycle count. -/
def readHealth (s : State) : Nat :=
  let used := (s.wst.spareUsed.map (·.2)).foldl max 0
  fld (sparePages - used) 63 46 + fld ((s.wst.wear.map (·.2)).foldl max 0) 45 32 + fld s.wst.reread 31 16 + fld s.wst.refresh 15 0

def readWst (s : State) (o : Nat) : Nat :=
  let w := s.wst
  if o = 0 then w.msrc.toNat
  else if o = 0x10 then
    flg w.busy 31 + flg w.autoSub 16 + fld w.field.toNat 13 8 + fld w.slot.toNat 5 4 + fld w.cmd.toNat 3 0
  else if o = 0x18 then
    fld w.result 63 56 + fld w.lastCmd 55 52 + fld w.lastSlot 51 50 + flg w.busy 49 + fld w.done 47 40 + fld w.total 39 32 +
      fld (min (2 ^ 32 - 1) (w.bytes / 2 ^ 30)) 31 0
  else if o = 0x20 then w.rpage.toNat
  else if o < 0x200 then
    let x := s.wslot ((o - 0x100) / 8)
    fld x.st 63 60 + flg x.bound 59 + fld x.man.wafers 58 56 + fld x.man.fFields 55 50 + fld (min 65535 x.missing.length) 47 32 +
      leAt x.man.instDig 0 4
  else if o < 0x300 then
    let x := s.wslot ((o - 0x200) / 32)
    let n := (o - 0x200) / 8 % 4
    fld (x.man.pages.getD n 0) 55 32 + fld (x.base.getD n 0) 22 0
  else readHealth s

/-- Kind and index of the die at a position from the cold plate downward (R18, R468); 0 beyond the last. -/
def dieAt (s : State) (i : Nat) : Nat × Nat :=
  let kv := gradeKv s
  let wt := gradeWt s
  if i = 0 then (1, 0)
  else if i ≤ kv then (2, i - 1)
  else if i ≤ kv + wt then (3, i - 1 - kv)
  else if i = kv + wt + 1 then (4, 0)
  else (0, 0)

def readDrm (s : State) (o : Nat) : Nat :=
  let d := dieAt s (o / 8)
  if d.1 = 0 then 0 else fld d.1 63 60 + fld d.2 59 58 + (tget 0 s.fuses.dieIds (o / 8)).toNat

def readLnk (s : State) (o : Nat) : Nat :=
  if o = 0x100 then fld s.host.lnkLate 63 48 + fld s.host.moved 47 32 + fld s.host.qperr 31 16
  else
    let x := s.port (o / 16)
    flg x.en 63 + fld x.mode.toNat 62 61 + fld x.st 60 59 + flg (bit s.pnl.pres.toNat (o / 16)) 58 + fld x.ups 47 32 +
      fld x.cnp 31 16 + fld x.drops 15 0

def readCxlx (s : State) (o : Nat) : Nat :=
  let h := s.host
  if o = 0 then h.eqBase.toNat
  else if o = 8 then h.eqH.toNat
  else if o = 0xC then h.eqE.toNat
  else fld h.late 63 48 + fld h.replay 47 32 + fld h.hdmOob 31 16 + fld h.ide 15 8 + fld h.evdrop 7 0

def readIso (s : State) (o : Nat) : Nat :=
  let i := s.iso
  if o = 0 then i.cfg.toNat
  else if o = 8 then fld i.ring 63 62 + fld i.station 61 57 + fld i.count 56 51 + fld (i.share / 4) 47 32 + fld i.crc 31 16
  else i.time % 2 ^ 64

/-- Seconds of presence that remain. -/
def presLeft (s : State) : Nat := match s.pnl.presUntil with | some t => cdivN (t - s.now) 1000000 | none => 0

def readPnl (s : State) (o : Nat) : Nat :=
  if o = 0 then flg s.pnl.ident 30 + fld s.pnl.parkS 15 8
  else if o = 8 then
    flg (removalSafe s) 31 + fld (removalState s) 30 28 + flg (present s) 27 + fld (presLeft s) 21 16 + flg s.pnl.touch 15 +
      flg s.pnl.attn 14 + flg s.pnl.remove 13
  else s.pnl.pres.toNat

/-- Value of the PF register at an offset of the index. -/
def readPf (s : State) (off : Nat) : Nat :=
  let o := off % 0x100000
  match off / 0x100000 with
  | 0 => readBg s o
  | 1 => readPwr s o
  | 2 => readThm s o
  | 3 => readAdc s o
  | 4 => readSec s o
  | 5 => readLdr s o
  | 6 => readJs s o
  | 7 => readSrv s o
  | 8 => readKv s o
  | 9 => readSnp s o
  | 10 => readWst s o
  | 11 => readDrm s o
  | 12 => readLnk s o
  | 13 => readCxlx s o
  | 14 => readIso s o
  | _ => readPnl s o

/-- TQ_STAT. -/
def readTqStat (s : State) (t : Nat) : Nat :=
  let k := s.tenant t
  fld (if k.draining then 2 else if tenantEnabled s t then 1 else 0) 31 30 + flg k.latched 29 + fld k.bad 15 8 + fld k.drops 7 0

/-- Value of a register of a tenant block. -/
def readTenant (s : State) (t o : Nat) : Nat :=
  let k := s.tenant t
  if o = 0 then k.sqBase.toNat
  else if o = 8 then k.sqH.toNat
  else if o = 0xC then k.sqE.toNat
  else if o = 0x10 then k.oqBase.toNat
  else if o = 0x18 then k.oqH.toNat
  else if o = 0x1C then k.oqE.toNat
  else if o = 0x20 then k.wb.toNat
  else if o = 0x28 then readTqStat s t
  else if o = 0x1000 then fldI k.level 39 0
  else if o = 0x1008 then k.gCfg.toNat
  else if o = 0x1010 then k.gPol.toNat
  else if o = 0x2000 then k.quota.toNat
  else if o = 0x3040 then k.pSrc.toNat
  else if o = 0x3048 then k.pCtl.toNat
  else if o = 0x4000 then k.eqBase.toNat
  else if o = 0x4008 then k.eqH.toNat
  else if o = 0x400C then k.eqE.toNat
  else if o = 0x4010 then k.evtMod.toNat
  else
    let n := (o - 0x3000) / 16
    if o % 16 = 0 then (winA s t n).toNat else (winB s t n).toNat

def readReg (s : State) (t : Option Nat) (off : Nat) : Nat :=
  match t with
  | some t => readTenant s t off
  | none => readPf s off

/-- Entry of the sensor window. -/
def sensorWord (s : State) (i : Nat) : Nat :=
  let p := s.pair i
  if !pairThere s i then 0
  else
    flg p.split 63 + flg (!validT p.a) 62 + flg (!validT p.b) 61 + fld (min 255 p.band) 55 48 + fldI p.a 47 32 + fldI p.b 31 16 +
      fldI p.ctl 15 0

/-- Slot window: state, tenant and tag. -/
def slotWord (s : State) (n half : Nat) : Nat :=
  let q := s.slot n
  if half = 0 then fld q.st 7 0 + fld q.tenant 31 16 else q.tag.toNat

/-- Entry of the missing list of the slot WST_CTRL selects. -/
def missWord (s : State) (i : Nat) : Nat :=
  match ((s.wslot s.wst.slot.toNat).missing)[i]? with
  | some e => fld e.reason 63 60 + fld e.shard 59 52 + fld e.slice 31 0
  | none => 0

/-- Eight bytes of a window at an offset of eight (R467). -/
def windowWord (s : State) (o : Nat) : Nat :=
  if o < 0xD30 then leAt (fenceMap s) (o - 0x400) 8
  else if o < 0x3000 then (s.bg.sqRec.shorts.getD ((o - 0x1000) / 8) 0).toNat
  else if o < 0x203D40 then sensorWord s ((o - 0x201000) / 8)
  else if o < 0x580000 then
    (s.ldr.trace.getD ((o - 0x540000) / 32) 0).toNat / 2 ^ (8 * (o % 32)) % 2 ^ 64
  else if o < 0x702000 then slotWord s ((o - 0x701000) / 16) (o / 8 % 2)
  else if o < 0x802000 then (tget 0 s.kv.elog ((o - 0x801000) / 16)).toNat / 2 ^ (8 * (o % 16)) % 2 ^ 64
  else if o < 0xA00500 then leAt (s.wslot ((o - 0xA00400) / 64)).man.instDig (o % 64) 8
  else missWord s ((o - 0xA01000) / 8)

/-- Half h of a 64-bit value. -/
def halfOf (v h : Nat) : Nat := v / 2 ^ (32 * h) % 2 ^ 32

/-- The CXL device register interface (R360; log 54). -/
def inDevice (t : Option Nat) (off : Nat) : Bool := t.isNone && decide (0xD10000 ≤ off ∧ off < 0xD20000)

def State.latchOf (s : State) (k : Nat) : Option (BitVec 32) := tget none s.host.latches k

def State.setLatch (s : State) (k : Nat) (v : Option (BitVec 32)) : State :=
  { s with host := { s.host with latches := tset none s.host.latches k v } }

def State.halfAt (s : State) (k : Nat) : Option (BitVec 32) := tget none s.host.halves k

def State.setHalf (s : State) (k : Nat) (v : Option (BitVec 32)) : State :=
  { s with host := { s.host with halves := tset none s.host.halves k v } }

def answer (s : State) (v : Nat) : State := s.emit (.mmioRead (some (BitVec.ofNat 64 v)))

/-- A read of n bytes of a register at an access R16 allows: a lower half latches the upper half; an upper half answers
what is latched, and releases it (R17). -/
def readHalf (s : State) (t : Option Nat) (k off reg width n : Nat) : State :=
  let v := readReg s t reg
  if width = 4 ∨ n = 8 then answer s v
  else if off = reg then answer (s.setLatch k (some (BitVec.ofNat 32 (halfOf v 1)))) (halfOf v 0)
  else
    match s.latchOf k with
    | some u => answer (s.setLatch k none) u.toNat
    | none => answer s (halfOf v 1)

/-- A read of n bytes that touches a window but no register: 4 or 8 bytes, naturally aligned (R467). -/
def readWindow (s : State) (o n : Nat) : State :=
  if n = 8 ∧ o % 8 = 0 then answer s (windowWord s o)
  else if n = 4 ∧ o % 4 = 0 then answer s (halfOf (windowWord s (o / 8 * 8)) (o / 4 % 2))
  else s.emit (.mmioRead none)

/-- A read of n bytes (R16, R17, R420, R467); none answers as an unsupported request. -/
def readAt (s : State) (view : View) (off n : Nat) : State :=
  match apertureOf view off with
  | none => s.emit (.mmioRead none)
  | some (t, o) =>
    if !blockUp s t o then answer s 0
    else
      match placeHit t o n with
      | some r =>
        if accessOk r o n then readHalf s t (viewKey view (off - o + r.1)) o r.1 r.2 n else s.emit (.mmioRead none)
      | none =>
        if nextHit view off n then s.emit (.mmioRead none)
        else if inWindow t o n then readWindow s o n
        else if inDevice t o then
          answer s.bumpFree (ofLe ((List.range n).map fun i => deviceRead s (o - 0xD10000 + i)))
        else answer s 0

/-- A read of n bytes through a view: of a BAR, or of configuration space (R352). A request that uses a feature the engine does
not support completes as an unsupported request (R348). -/
def readView (s : State) (view : View) (off n : Nat) : State :=
  match view with
  | .config fn => answer s (readConfig s fn off % 2 ^ (8 * n))
  | _ => readAt s view off n

/-- LOWER_HALF_READ (R16, R17): a read of n bytes at the offset of a lower half, of a whole register, or of a window. -/
def execLowerHalfRead (view : View) (run : RegRun) (s : State) : Res := .next (readView s view run.off run.size)

/-- UPPER_HALF_READ (R16, R17): a read of n bytes at the offset of an upper half. -/
def execUpperHalfRead (view : View) (run : RegRun) (s : State) : Res := .next (readView s view run.off run.size)

/-! ### Writing -/

/-- Clears a W1C bit where 1 is written. -/
def w1c (b : Bool) (v i : Nat) : Bool := b && !bit v i

/-- Clears bit 63 of a stored record where 1 is written to it. -/
def dropVld (x : BitVec 64) (v : Nat) : BitVec 64 := if bit v 63 then x &&& 0x7FFFFFFFFFFFFFFF#64 else x

def writeBg (s : State) (o v : Nat) : State :=
  if o = 0x10 then { s with bg := { s.bg with full := bit v 0 } }
  else if o = 0x18 then { s with bg := { s.bg with test := dropVld s.bg.test v } }
  else if o = 0x200 then { s with bg := { s.bg with sqVld := w1c s.bg.sqVld v 31 } }
  else s

def writePwr (s : State) (o v : Nat) : State :=
  if o = 0 then writePwrCtrl s (BitVec.ofNat 32 v)
  else if o = 0x18 then { s with pwr := { s.pwr with regflt := dropVld s.pwr.regflt v } }
  else s

def writeThm (s : State) (o v : Nat) : State :=
  if o = 0 then { s with thm := { s.thm with cap := bits v 15 0 } }
  else if o = 0x10 then { s with thm := { s.thm with rth0 := bits v 31 0 } }
  else if o = 0x20 then { s with thm := { s.thm with flowSet := bits v 15 0 } }
  else if o = 0x28 then { s with thm := { s.thm with stop := w1c s.thm.stop v 31, hot := w1c s.thm.hot v 29 } }
  else if o = 0x30 ∧ bit v 0 then askRecal s
  else s

/-- A write of ADC_SYSCAL: its fields, and with go a capture; a go while one runs has no effect (R14). The capture that
runs keeps the point, channel and value it started with (DESIGN CHOICE, log 103). -/
def writeSyscal (s : State) (v : Nat) : State :=
  let s1 : State := { s with adc := { s.adc with
    scPoint := bit v 40, scCh := BitVec.ofNat 5 (bits v 36 32), scValue := BitVec.ofNat 32 (bits v 31 0) } }
  if bit v 63 && !s.adc.scGo then startCapture s1 else s1

def writeAdc (s : State) (o v : Nat) : State :=
  if o < 0x100 then s.setChan (o / 8) { s.chan (o / 8) with ovr := w1c (s.chan (o / 8)).ovr v 63 }
  else if o < 0x200 then writeFe s ((o - 0x100) / 8) (BitVec.ofNat 64 v)
  else if o < 0x300 then
    let n := (o - 0x200) / 8
    s.setChan n { s.chan n with s1 := BitVec.ofNat 32 (bits v 63 32), s0 := BitVec.ofNat 32 (bits v 31 0) }
  else if o = 0x300 then writeSyscal s v
  else if o = 0x308 then
    let s1 : State := { s with adc := { s.adc with dt := BitVec.ofNat 4 (bits v 3 0) } }
    if bit v 31 then allDue s1 else s1
  else if o = 0x318 then { s with adc := { s.adc with thr := bits v 15 0 } }
  else s

/-- LDR_CTRL: discard, then abort, then start. -/
def writeLdrCtrl (s : State) (v : Nat) : State :=
  let s1 : State := { s with ldr := { s.ldr with discard := bit v 2 } }
  let s2 := if bit v 1 then abortLoad s1 else s1
  if bit v 0 then startLoad s2 else s2

def writeLdr (s : State) (o v : Nat) : State :=
  if o = 0 then { s with ldr := { s.ldr with src := BitVec.ofNat 64 (v / 4096 * 4096) } }
  else if o = 0x10 then writeLdrCtrl s v
  else if o = 0x20 then { s with ldr := { s.ldr with fVld := w1c s.ldr.fVld v 63 } }
  else if o = 0x28 then { s with ldr := { s.ldr with trEn := bit v 31 } }
  else if o = 0x2C then { s with ldr := { s.ldr with trLoc := BitVec.ofNat 32 (bits v 9 0) } }
  else s

def writeJs (s : State) (o v : Nat) : State :=
  if o = 0x100 then { s with jet := { s.jet with tblSel := BitVec.ofNat 32 v &&& 0xFFF01FFF#32 } } else s

def writeSrv (s : State) (o v : Nat) : State :=
  if o = 0 then
    let s1 : State := { s with hub := { s.hub with admitOff := bit v 0 } }
    if bit v 1 then askParkAll s1 else s1
  else s

def writeKv (s : State) (o v : Nat) : State :=
  let x := BitVec.ofNat 64 v
  if o = 0 then { s with kv := { s.kv with cfg := x &&& 0xFFFFFFFFC0FFFFFF#64 } }
  else if o = 8 then { s with kv := { s.kv with area := x } }
  else if o < 0x50 then { s with kv := { s.kv with cls := tset 0 s.kv.cls ((o - 0x10) / 8) (x &&& 0x1FF00FFFFFF#64) } }
  else if o = 0x50 then { s with kv := { s.kv with pool := BitVec.ofNat 32 v &&& 0xFFFFC000#32 } }
  else if o = 0x58 ∧ bit v 0 then kvApply s
  else s

def writeSnp (s : State) (o v : Nat) : State :=
  let x := BitVec.ofNat 64 v
  if 0x2000 ≤ o then s
  else
    s.modTenant (o / 32) fun k =>
      match o % 32 with
      | 0 => { k with snpA := x &&& 0xCFFFFFFFFFFFFFFF#64 }
      | 8 => { k with snpB := x &&& 0xFFFFFFFFFFF00000#64 }
      | _ => { k with snpC := x }

/-- WST_CTRL: its fields, and with go the command: it is accepted unless one runs, which an abort ends; a reserved command
ends at once (R264). -/
def writeWstCtrl (s : State) (v : Nat) : State :=
  let s1 : State := { s with wst := { s.wst with
    autoSub := bit v 16, field := BitVec.ofNat 6 (bits v 13 8), slot := BitVec.ofNat 2 (bits v 5 4),
    cmd := BitVec.ofNat 4 (bits v 3 0) } }
  let n := bits v 3 0
  if !bit v 31 then s1
  else if s1.wst.busy then (if n = 3 then abortSession s1 else s1)
  else if n = 0 ∨ 7 ≤ n then wstEnd (wstAccept s1) 0xE
  else wstAccept s1

def writeWst (s : State) (o v : Nat) : State :=
  if o = 0 then { s with wst := { s.wst with msrc := BitVec.ofNat 64 (v / 4096 * 4096) } }
  else if o = 0x10 then writeWstCtrl s v
  else if o = 0x20 then { s with wst := { s.wst with rpage := BitVec.ofNat 64 v &&& 0xFFF7FFFFF#64 } }
  else s

def writeLnk (s : State) (o v : Nat) : State := if o < 0x100 then writePort s (o / 16) (BitVec.ofNat 64 v) else s

def writeCxlx (s : State) (o v : Nat) : State :=
  if o = 0 then writeRingBase s .owner (BitVec.ofNat 64 v)
  else if o = 8 then writeHostIndex s .owner (BitVec.ofNat 32 v)
  else s

def writePnl (s : State) (o v : Nat) : State :=
  if o = 0 then
    let s1 : State := { s with pnl := { s.pnl with ident := bit v 30, parkS := bits v 15 8 } }
    if bit v 31 then removalEnd s1 else s1
  else s

/-- A whole value written to the PF register at an offset of the index. -/
def writePf (s : State) (off v : Nat) : State :=
  let o := off % 0x100000
  match off / 0x100000 with
  | 0 => writeBg s o v
  | 1 => writePwr s o v
  | 2 => writeThm s o v
  | 3 => writeAdc s o v
  | 5 => writeLdr s o v
  | 6 => writeJs s o v
  | 7 => writeSrv s o v
  | 8 => writeKv s o v
  | 9 => writeSnp s o v
  | 10 => writeWst s o v
  | 12 => writeLnk s o v
  | 13 => writeCxlx s o v
  | 14 => if o = 0 then writeIsoCfg s (BitVec.ofNat 64 v) else s
  | 15 => writePnl s o v
  | _ => s

/-- A push that can run: an enabled tenant, a program, a length, and an open window that it fits (R365). -/
def pushRuns (s : State) (t : Nat) (v : BitVec 64) : Bool :=
  let n := bits v.toNat 62 61
  let a := winA s t n
  tenantEnabled s t && s.running && bits v.toNat 19 0 != 0 && bit a.toNat 62 &&
    winFits s a (winB s t n) (256 * bits v.toNat 43 24) (256 * bits v.toNat 19 0)

/-- WIN_PCTL: a push that cannot run ends at once. A write while a push runs sets the fields, and the push that runs
takes them (DESIGN CHOICE, log 103). -/
def writePctl (s : State) (t v : Nat) : State :=
  let x := BitVec.ofNat 64 v
  let go := bit (s.tenant t).pCtl.toNat 63 || (bit v 63 && pushRuns s t x)
  s.modTenant t fun k => { k with pCtl := pctlOf x go }

/-- The gauge level written: 40 bits, two's complement. -/
def levelOf (v : Nat) : Int := (BitVec.ofNat 40 v).toInt

/-- A whole value written to a register of a tenant block, outside a drain. -/
def writeTenant (s : State) (t o v : Nat) : State :=
  let x := BitVec.ofNat 64 v
  let y := BitVec.ofNat 32 v
  if o = 0 then writeRingBase s (.sq t) x
  else if o = 8 then writeSqIndex s t y
  else if o = 0x10 then writeRingBase s (.oq t) x
  else if o = 0x18 then writeHostIndex s (.oq t) y
  else if o = 0x20 then s.modTenant t fun k => { k with wb := x &&& 0xFFFFFFFFFFFFFFC1#64 }
  else if o = 0x1000 then s.modTenant t fun k => { k with level := levelOf v }
  else if o = 0x1008 then s.modTenant t fun k => { k with gCfg := x }
  else if o = 0x1010 then s.modTenant t fun k => { k with gPol := y &&& 0xFF70FFFF#32 }
  else if o = 0x2000 then
    let s1 := s.modTenant t fun k => { k with quota := y &&& 0x7F#32 }
    placeUploads s1 s1.hub.uploads
  else if o = 0x3040 then s.modTenant t fun k => { k with pSrc := x &&& 0xFFFFFFFFFFFFFF00#64 }
  else if o = 0x3048 then writePctl s t v
  else if 0x3000 ≤ o ∧ o < 0x3040 then
    let n := (o - 0x3000) / 16
    s.modTenant t fun k =>
      if o % 16 = 0 then { k with winA := tset 0 k.winA n (x &&& 0xFFFCFFFFFFFFFFFF#64) }
      else { k with winB := tset 0 k.winB n (x &&& 0xFFFFFFFFF00FFFFF#64) }
  else if o = 0x4000 then writeRingBase s (.eq t) x
  else if o = 0x4008 then writeHostIndex s (.eq t) y
  else if o = 0x4010 then s.modTenant t fun k => { k with evtMod := y }
  else s

def writeReg (s : State) (t : Option Nat) (off v : Nat) : State :=
  match t with
  | some t => writeTenant s t off v
  | none => writePf s off v

/-- The tenant view reads GAUGE, ADP and WIN only, but for WIN_PSRC and WIN_PCTL (R352). -/
def viewWrites (view : View) (o : Nat) : Bool :=
  match view with
  | .owner | .config _ | .unsupported => true
  | .tenant _ => decide (o < 0x1000 ∨ 0x4000 ≤ o) || o == 0x3040 || o == 0x3048

/-- A TQ or EVT register of a tenant that is draining (R359). -/
def drained (s : State) (t : Option Nat) (o : Nat) : Option Nat :=
  match t with
  | some n => if (s.tenant n).draining && decide (o < 0x1000 ∨ 0x4000 ≤ o) then some n else none
  | none => none

/-- A write of n bytes to a register, at an access R16 allows: a lower half is kept pending; an upper half writes the whole
value with the pending lower half, or with the lower half as it reads; a whole write discards a pending half (R17). -/
def writeHalf (s : State) (t : Option Nat) (k off reg width n v : Nat) : State :=
  if width = 4 then writeReg s t reg (v % 2 ^ 32)
  else if n = 8 then writeReg (s.setHalf k none) t reg (v % 2 ^ 64)
  else if off = reg then s.setHalf k (some (BitVec.ofNat 32 v))
  else
    let low := match s.halfAt k with
      | some h => h.toNat
      | none => halfOf (readReg s t reg) 0
    writeReg (s.setHalf k none) t reg (v % 2 ^ 32 * 2 ^ 32 + low)

/-- A write of n bytes of v at an offset of a view. -/
def writeAt (s : State) (view : View) (off n v : Nat) : State :=
  match apertureOf view off with
  | none => s.emit .ur
  | some (t, o) =>
    if !blockUp s t o then s
    else
      match placeHit t o n with
      | none =>
        if nextHit view off n then s.emit .ur
        else if inDevice t o then deviceWrite s (o - 0xD10000) (leBytes n v)
        else s
      | some r =>
        if !accessOk r o n then s.emit .ur
        else if !viewWrites view r.1 && t.isSome then s
        else
          match drained s t r.1 with
          | some d => drainDrop s d
          | none => writeHalf s t (viewKey view (off - o + r.1)) o r.1 r.2 n v

/-- A write of n bytes of v through a view (R348, R352). -/
def writeView (s : State) (view : View) (off n v : Nat) : State :=
  match view with
  | .config fn => writeConfig s fn off (v % 2 ^ (8 * n))
  | _ => writeAt s view off n v

/-- REGISTER_WRITE (R14-R17, R348, R352, R359, R420, R465-R472). -/
def execRegisterWrite (view : View) (off size : Nat) (v : BitVec 64) (s : State) : Res :=
  .next (writeView s view off size v.toNat)

end Sys2Proof.Machine
end

