-- ==== Sys2Proof/Machine/Dispatch.lean ====
section
/-! DEFINITION. The command dispatch: one arm per constructor of `Instr`, each one direct call of a meaning. -/

namespace Sys2Proof.Machine

open Sys2Proof

/-- The effect of one command on everything but the queue. -/
def exec (i : Instr) (s : State) : Host.Outcome State Fault Refusal :=
  match i with
  | .bundleIssue c => Sys2Proof.Machine.execBundleIssue c s
  | .nop c sl gd => Sys2Proof.Machine.execNop c sl gd s
  | .add c gd d s1 s2 => Sys2Proof.Machine.execAdd c gd d s1 s2 s
  | .sub c gd d s1 s2 => Sys2Proof.Machine.execSub c gd d s1 s2 s
  | .and c gd d s1 s2 => Sys2Proof.Machine.execAnd c gd d s1 s2 s
  | .or c gd d s1 s2 => Sys2Proof.Machine.execOr c gd d s1 s2 s
  | .xor c gd d s1 s2 => Sys2Proof.Machine.execXor c gd d s1 s2 s
  | .shl c gd d s1 s2 => Sys2Proof.Machine.execShl c gd d s1 s2 s
  | .shr c gd d s1 s2 => Sys2Proof.Machine.execShr c gd d s1 s2 s
  | .sra c gd d s1 s2 => Sys2Proof.Machine.execSra c gd d s1 s2 s
  | .mul c gd d s1 s2 => Sys2Proof.Machine.execMul c gd d s1 s2 s
  | .min c gd d s1 s2 => Sys2Proof.Machine.execMin c gd d s1 s2 s
  | .max c gd d s1 s2 => Sys2Proof.Machine.execMax c gd d s1 s2 s
  | .addi c gd d s1 imm => Sys2Proof.Machine.execAddi c gd d s1 imm s
  | .andi c gd d s1 imm => Sys2Proof.Machine.execAndi c gd d s1 imm s
  | .ori c gd d s1 imm => Sys2Proof.Machine.execOri c gd d s1 imm s
  | .xori c gd d s1 imm => Sys2Proof.Machine.execXori c gd d s1 imm s
  | .shli c gd d s1 imm => Sys2Proof.Machine.execShli c gd d s1 imm s
  | .shri c gd d s1 imm => Sys2Proof.Machine.execShri c gd d s1 imm s
  | .srai c gd d s1 imm => Sys2Proof.Machine.execSrai c gd d s1 imm s
  | .li c gd d imm => Sys2Proof.Machine.execLi c gd d imm s
  | .lih c gd d imm => Sys2Proof.Machine.execLih c gd d imm s
  | .cmp c gd pd cond s1 s2 im imm => Sys2Proof.Machine.execCmp c gd pd cond s1 s2 im imm s
  | .plog c gd pd ps1 n1 ps2 n2 fn => Sys2Proof.Machine.execPlog c gd pd ps1 n1 ps2 n2 fn s
  | .amov c gd d s1 => Sys2Proof.Machine.execAmov c gd d s1 s
  | .gmov c gd d s1 => Sys2Proof.Machine.execGmov c gd d s1 s
  | .aadd c gd d s1 imm => Sys2Proof.Machine.execAadd c gd d s1 imm s
  | .aaddg c gd d s1 s2 => Sys2Proof.Machine.execAaddg c gd d s1 s2 s
  | .br c gd off => Sys2Proof.Machine.execBr c gd off s
  | .bdec c gd g off => Sys2Proof.Machine.execBdec c gd g off s
  | .jr c gd g => Sys2Proof.Machine.execJr c gd g s
  | .jal c gd g off => Sys2Proof.Machine.execJal c gd g off s
  | .rdsh c gd d s1 => Sys2Proof.Machine.execRdsh c gd d s1 s
  | .rdcyc c gd d => Sys2Proof.Machine.execRdcyc c gd d s
  | .rdcc c gd cc g => Sys2Proof.Machine.execRdcc c gd cc g s
  | .cset c gd cc g src imm => Sys2Proof.Machine.execCset c gd cc g src imm s
  | .cadd c gd cc g src imm => Sys2Proof.Machine.execCadd c gd cc g src imm s
  | .csub c gd cc g src imm => Sys2Proof.Machine.execCsub c gd cc g src imm s
  | .wait c gd cc g src d imm => Sys2Proof.Machine.execWait c gd cc g src d imm s
  | .waitCheck c => Sys2Proof.Machine.execWaitCheck c s
  | .watch c gd cc g src d imm => Sys2Proof.Machine.execWatch c gd cc g src d imm s
  | .watchCheck c => Sys2Proof.Machine.execWatchCheck c s
  | .arm c gd cc g src imm => Sys2Proof.Machine.execArm c gd cc g src imm s
  | .front c gd num bound stp => Sys2Proof.Machine.execFront c gd num bound stp s
  | .frontRelease => Sys2Proof.Machine.execFrontRelease s
  | .frontTimeout => Sys2Proof.Machine.execFrontTimeout s
  | .ld c gd a reg size sx off => Sys2Proof.Machine.execLd c gd a reg size sx off s
  | .st c gd a reg size off => Sys2Proof.Machine.execSt c gd a reg size off s
  | .ldv c gd a reg tm off => Sys2Proof.Machine.execLdv c gd a reg tm off s
  | .stv c gd a reg off => Sys2Proof.Machine.execStv c gd a reg off s
  | .cget c gd a g cc lines tm => Sys2Proof.Machine.execCget c gd a g cc lines tm s
  | .cput c gd a g cc lines => Sys2Proof.Machine.execCput c gd a g cc lines s
  | .clusterTransferComplete id => Sys2Proof.Machine.execClusterTransferComplete id s
  | .send c gd a gH flits cc lc => Sys2Proof.Machine.execSend c gd a gH flits cc lc s
  | .get c gd gH gR flits cc lc => Sys2Proof.Machine.execGet c gd gH gR flits cc lc s
  | .wld c gd wafer g pages cc => Sys2Proof.Machine.execWld c gd wafer g pages cc s
  | .wdrop c gd granules => Sys2Proof.Machine.execWdrop c gd granules s
  | .kvld c gd area g a lines cc => Sys2Proof.Machine.execKvld c gd area g a lines cc s
  | .kvst c gd area g a lines cc qm => Sys2Proof.Machine.execKvst c gd area g a lines cc qm s
  | .hput c gd a kind cc lines => Sys2Proof.Machine.execHput c gd a kind cc lines s
  | .weightPageArrival pcl wafer idx res => Sys2Proof.Machine.execWeightPageArrival pcl wafer idx res s
  | .kvldComplete id corr bad => Sys2Proof.Machine.execKvldComplete id corr bad s
  | .kvstComplete id ecc => Sys2Proof.Machine.execKvstComplete id ecc s
  | .hputAccept id => Sys2Proof.Machine.execHputAccept id s
  | .tld c gd amask slot sc src a tm => Sys2Proof.Machine.execTld c gd amask slot sc src a tm s
  | .strm c gd amask tsrc opn b len gV gM a af asr anchor => Sys2Proof.Machine.execStrm c gd amask tsrc opn b len gV gM a af asr anchor s
  | .drn c gd arr r0 rows form dst a cc => Sys2Proof.Machine.execDrn c gd arr r0 rows form dst a cc s
  | .drainWrite c arr => Sys2Proof.Machine.execDrainWrite c arr s
  | .ainit c gd arr r0 rows form dst a cc => Sys2Proof.Machine.execAinit c gd arr r0 rows form dst a cc s
  | .amode c gd wf ae xm nc ceil => Sys2Proof.Machine.execAmode c gd wf ae xm nc ceil s
  | .cvt c gd rank vsrc av ax asr af p ks anchor cc => Sys2Proof.Machine.execCvt c gd rank vsrc av ax asr af p ks anchor cc s
  | .cut c gd rank usrc au p outs grp opn anchor cc rbase ns => Sys2Proof.Machine.execCut c gd rank usrc au p outs grp opn anchor cc rbase ns s
  | .cout c gd arr half p rbase opn anchor cc => Sys2Proof.Machine.execCout c gd arr half p rbase opn anchor cc s
  | .correctionOpEnd c => Sys2Proof.Machine.execCorrectionOpEnd c s
  | .cmerge c gd arr b rbase rows => Sys2Proof.Machine.execCmerge c gd arr b rbase rows s
  | .vadd c gd vd vs1 vs2 ty => Sys2Proof.Machine.execVadd c gd vd vs1 vs2 ty s
  | .vsub c gd vd vs1 vs2 ty => Sys2Proof.Machine.execVsub c gd vd vs1 vs2 ty s
  | .vmul c gd vd vs1 vs2 ty => Sys2Proof.Machine.execVmul c gd vd vs1 vs2 ty s
  | .vfma c gd vd vs1 vs2 vs3 ty => Sys2Proof.Machine.execVfma c gd vd vs1 vs2 vs3 ty s
  | .vmin c gd vd vs1 vs2 ty => Sys2Proof.Machine.execVmin c gd vd vs1 vs2 ty s
  | .vmax c gd vd vs1 vs2 ty => Sys2Proof.Machine.execVmax c gd vd vs1 vs2 ty s
  | .vcmp c gd vd vs1 vs2 ty cond => Sys2Proof.Machine.execVcmp c gd vd vs1 vs2 ty cond s
  | .vsel c gd vd vs1 vs2 vs3 ty => Sys2Proof.Machine.execVsel c gd vd vs1 vs2 vs3 ty s
  | .vexp c gd vd vs1 ty => Sys2Proof.Machine.execVexp c gd vd vs1 ty s
  | .vlog c gd vd vs1 ty => Sys2Proof.Machine.execVlog c gd vd vs1 ty s
  | .vrcp c gd vd vs1 ty => Sys2Proof.Machine.execVrcp c gd vd vs1 ty s
  | .vrsq c gd vd vs1 ty => Sys2Proof.Machine.execVrsq c gd vd vs1 ty s
  | .vrsum c gd vd vs1 ty => Sys2Proof.Machine.execVrsum c gd vd vs1 ty s
  | .vrmax c gd vd vs1 ty => Sys2Proof.Machine.execVrmax c gd vd vs1 ty s
  | .vrmin c gd vd vs1 ty => Sys2Proof.Machine.execVrmin c gd vd vs1 ty s
  | .vcvt c gd vd vs1 sf df h => Sys2Proof.Machine.execVcvt c gd vd vs1 sf df h s
  | .vquant c gd vd vs1 sf df h => Sys2Proof.Machine.execVquant c gd vd vs1 sf df h s
  | .vdeq c gd vd vs1 sf df h => Sys2Proof.Machine.execVdeq c gd vd vs1 sf df h s
  | .vwadd c gd vd vs1 vs2 ty => Sys2Proof.Machine.execVwadd c gd vd vs1 vs2 ty s
  | .vwrnd c gd vd vs1 ty => Sys2Proof.Machine.execVwrnd c gd vd vs1 ty s
  | .vpop c gd vd arr grp => Sys2Proof.Machine.execVpop c gd vd arr grp s
  | .vext c gd d s1 lane ty => Sys2Proof.Machine.execVext c gd d s1 lane ty s
  | .vsplat c gd d s1 ty => Sys2Proof.Machine.execVsplat c gd d s1 ty s
  | .vtopm c gd vd vs1 gs init => Sys2Proof.Machine.execVtopm c gd vd vs1 gs init s
  | .routerHop id => Sys2Proof.Machine.execRouterHop id s
  | .gatewayLookup id => Sys2Proof.Machine.execGatewayLookup id s
  | .reduceCombine pcl tree => Sys2Proof.Machine.execReduceCombine pcl tree s
  | .packetDelivery id => Sys2Proof.Machine.execPacketDelivery id s
  | .getReply id => Sys2Proof.Machine.execGetReply id s
  | .squallStop => Sys2Proof.Machine.execSquallStop s
  | .transitFault pf => Sys2Proof.Machine.execTransitFault pf s
  | .loadStart => Sys2Proof.Machine.execLoadStart s
  | .loadAbort => Sys2Proof.Machine.execLoadAbort s
  | .loadPass1 img => Sys2Proof.Machine.execLoadPass1 img s
  | .loadVerify => Sys2Proof.Machine.execLoadVerify s
  | .loadCheck => Sys2Proof.Machine.execLoadCheck s
  | .loadMap plan => Sys2Proof.Machine.execLoadMap plan s
  | .loadPass2 img lost => Sys2Proof.Machine.execLoadPass2 img lost s
  | .clusterDigestCheck lcl => Sys2Proof.Machine.execClusterDigestCheck lcl s
  | .resendRound img lost => Sys2Proof.Machine.execResendRound img lost s
  | .loadCopy => Sys2Proof.Machine.execLoadCopy s
  | .install man => Sys2Proof.Machine.execInstall man s
  | .wstResume man => Sys2Proof.Machine.execWstResume man s
  | .wstAbort => Sys2Proof.Machine.execWstAbort s
  | .eraseSlot => Sys2Proof.Machine.execEraseSlot s
  | .reProvision => Sys2Proof.Machine.execReProvision s
  | .substitute => Sys2Proof.Machine.execSubstitute s
  | .wstReservedCmd cmd => Sys2Proof.Machine.execWstReservedCmd cmd s
  | .sliceFetchComplete shard sl => Sys2Proof.Machine.execSliceFetchComplete shard sl s
  | .shardFetchTimeout shard => Sys2Proof.Machine.execShardFetchTimeout shard s
  | .slotEraseComplete slot => Sys2Proof.Machine.execSlotEraseComplete slot s
  | .remapApply => Sys2Proof.Machine.execRemapApply s
  | .weightScrub wafer pcl page res => Sys2Proof.Machine.execWeightScrub wafer pcl page res s
  | .fieldSubstitutionStart => Sys2Proof.Machine.execFieldSubstitutionStart s
  | .substitutionCopyEnd pages lines => Sys2Proof.Machine.execSubstitutionCopyEnd pages lines s
  | .kvApply => Sys2Proof.Machine.execKvApply s
  | .kvPatrolScrub line res => Sys2Proof.Machine.execKvPatrolScrub line res s
  | .arrivalTick => Sys2Proof.Machine.execArrivalTick s
  | .gaugeTick => Sys2Proof.Machine.execGaugeTick s
  | .stepBoundary => Sys2Proof.Machine.execStepBoundary s
  | .submissionDoorbell owner t hidx reads => Sys2Proof.Machine.execSubmissionDoorbell owner t hidx reads s
  | .startReq t r => Sys2Proof.Machine.execStartReq t r s
  | .continueReq t r => Sys2Proof.Machine.execContinueReq t r s
  | .pauseReq t r => Sys2Proof.Machine.execPauseReq t r s
  | .resumeReq t r => Sys2Proof.Machine.execResumeReq t r s
  | .cancelReq t r => Sys2Proof.Machine.execCancelReq t r s
  | .adapterUpload t r => Sys2Proof.Machine.execAdapterUpload t r s
  | .adapterRelease t r => Sys2Proof.Machine.execAdapterRelease t r s
  | .adapterLoadComplete slot res => Sys2Proof.Machine.execAdapterLoadComplete slot res s
  | .parkAll => Sys2Proof.Machine.execParkAll s
  | .parkComplete slot copy => Sys2Proof.Machine.execParkComplete slot copy s
  | .parkRetry slot => Sys2Proof.Machine.execParkRetry slot s
  | .restoreComplete slot copy => Sys2Proof.Machine.execRestoreComplete slot copy s
  | .snowpackOpTimeout slot => Sys2Proof.Machine.execSnowpackOpTimeout slot s
  | .snowpackExpiry parkId => Sys2Proof.Machine.execSnowpackExpiry parkId s
  | .ringConfigWrite owner ring v => Sys2Proof.Machine.execRingConfigWrite owner ring v s
  | .hostIndexWrite owner ring v => Sys2Proof.Machine.execHostIndexWrite owner ring v s
  | .interruptModeration t tok => Sys2Proof.Machine.execInterruptModeration t tok s
  | .functionLevelReset t => Sys2Proof.Machine.execFunctionLevelReset t s
  | .drainComplete t => Sys2Proof.Machine.execDrainComplete t s
  | .vfEnable t => Sys2Proof.Machine.execVfEnable t s
  | .function0Reset => Sys2Proof.Machine.execFunction0Reset s
  | .cxlLinkDown why => Sys2Proof.Machine.execCxlLinkDown why s
  | .cxlLinkUp => Sys2Proof.Machine.execCxlLinkUp s
  | .cxlCompletionTimeout what addr again late => Sys2Proof.Machine.execCxlCompletionTimeout what addr again late s
  | .hdmAccess addr wr len ecc => Sys2Proof.Machine.execHdmAccess addr wr len ecc s
  | .identify => Sys2Proof.Machine.execIdentify s
  | .getTimestamp => Sys2Proof.Machine.execGetTimestamp s
  | .setTimestamp v => Sys2Proof.Machine.execSetTimestamp v s
  | .getSupportedLogs => Sys2Proof.Machine.execGetSupportedLogs s
  | .getLog cel off len => Sys2Proof.Machine.execGetLog cel off len s
  | .identifyMemoryDevice => Sys2Proof.Machine.execIdentifyMemoryDevice s
  | .setQp qp ctx => Sys2Proof.Machine.execSetQp qp ctx s
  | .getQp qp => Sys2Proof.Machine.execGetQp qp s
  | .setPortAddresses payload => Sys2Proof.Machine.execSetPortAddresses payload s
  | .unsupportedOpcode op => Sys2Proof.Machine.execUnsupportedOpcode op s
  | .getIdentity => Sys2Proof.Machine.execGetIdentity s
  | .getNonce => Sys2Proof.Machine.execGetNonce s
  | .getAttestationReport nonce => Sys2Proof.Machine.execGetAttestationReport nonce s
  | .enrolOwner payload => Sys2Proof.Machine.execEnrolOwner payload s
  | .replaceOwnerKeys payload => Sys2Proof.Machine.execReplaceOwnerKeys payload s
  | .clearOwnership payload => Sys2Proof.Machine.execClearOwnership payload s
  | .rotateTenantKey payload => Sys2Proof.Machine.execRotateTenantKey payload s
  | .getTenantKeyEpoch t => Sys2Proof.Machine.execGetTenantKeyEpoch t s
  | .hostPush t data => Sys2Proof.Machine.execHostPush t data s
  | .rdmaWriteArrival rx rkey addr data => Sys2Proof.Machine.execRdmaWriteArrival rx rkey addr data s
  | .sendArrival rx data => Sys2Proof.Machine.execSendArrival rx data s
  | .rdmaReadRequest rx rkey addr len => Sys2Proof.Machine.execRdmaReadRequest rx rkey addr len s
  | .ackTimeout loss => Sys2Proof.Machine.execAckTimeout loss s
  | .rateInterval => Sys2Proof.Machine.execRateInterval s
  | .fabricPortDown p loss => Sys2Proof.Machine.execFabricPortDown p loss s
  | .fabricPortUp p => Sys2Proof.Machine.execFabricPortUp p s
  | .portEnable p v => Sys2Proof.Machine.execPortEnable p v s
  | .isobarJoin v => Sys2Proof.Machine.execIsobarJoin v s
  | .isobarFrameReceive frame => Sys2Proof.Machine.execIsobarFrameReceive frame s
  | .isobarTimeFrame => Sys2Proof.Machine.execIsobarTimeFrame s
  | .isobarBudgetFrame => Sys2Proof.Machine.execIsobarBudgetFrame s
  | .isobarShareCompute => Sys2Proof.Machine.execIsobarShareCompute s
  | .isobarAlarm code detail => Sys2Proof.Machine.execIsobarAlarm code detail s
  | .isobarBreakTimeout => Sys2Proof.Machine.execIsobarBreakTimeout s
  | .isobarMasterLost => Sys2Proof.Machine.execIsobarMasterLost s
  | .smbIdentity => Sys2Proof.Machine.execSmbIdentity s
  | .smbState => Sys2Proof.Machine.execSmbState s
  | .smbFaultSummary => Sys2Proof.Machine.execSmbFaultSummary s
  | .smbDieTemperature code => Sys2Proof.Machine.execSmbDieTemperature code s
  | .smbCoolantTemperature outlet => Sys2Proof.Machine.execSmbCoolantTemperature outlet s
  | .smbFlow => Sys2Proof.Machine.execSmbFlow s
  | .smbPower code => Sys2Proof.Machine.execSmbPower code s
  | .smbRackBudget v => Sys2Proof.Machine.execSmbRackBudget v s
  | .smbIdentifyPattern v => Sys2Proof.Machine.execSmbIdentifyPattern v s
  | .bypass => Sys2Proof.Machine.execBypass s
  | .idcode => Sys2Proof.Machine.execIdcode s
  | .samplePreload pins => Sys2Proof.Machine.execSamplePreload pins s
  | .extest => Sys2Proof.Machine.execExtest s
  | .clamp => Sys2Proof.Machine.execClamp s
  | .highz => Sys2Proof.Machine.execHighz s
  | .extestPulse => Sys2Proof.Machine.execExtestPulse s
  | .extestTrain => Sys2Proof.Machine.execExtestTrain s
  | .avsSetpointAdjust => Sys2Proof.Machine.execAvsSetpointAdjust s
  | .virUndervoltage okFell => Sys2Proof.Machine.execVirUndervoltage okFell s
  | .virOkRestored => Sys2Proof.Machine.execVirOkRestored s
  | .clockStepChange => Sys2Proof.Machine.execClockStepChange s
  | .stateTargetWrite v => Sys2Proof.Machine.execStateTargetWrite v s
  | .stateTransition => Sys2Proof.Machine.execStateTransition s
  | .idleDescent => Sys2Proof.Machine.execIdleDescent s
  | .forcedChange cause => Sys2Proof.Machine.execForcedChange cause s
  | .regulatorTileTrip die pf cl tile rail => Sys2Proof.Machine.execRegulatorTileTrip die pf cl tile rail s
  | .vtransitFeedTrip pf cl neighbour => Sys2Proof.Machine.execVtransitFeedTrip pf cl neighbour s
  | .thermalSample reads => Sys2Proof.Machine.execThermalSample reads s
  | .powerCapUpdate p => Sys2Proof.Machine.execPowerCapUpdate p s
  | .clockStepControl p => Sys2Proof.Machine.execClockStepControl p s
  | .capBelowStep6 => Sys2Proof.Machine.execCapBelowStep6 s
  | .coolantStop => Sys2Proof.Machine.execCoolantStop s
  | .coolantRestored => Sys2Proof.Machine.execCoolantRestored s
  | .dewPointCheck => Sys2Proof.Machine.execDewPointCheck s
  | .sensorRecal => Sys2Proof.Machine.execSensorRecal s
  | .vsbApply strapHigh testOk => Sys2Proof.Machine.execVsbApply strapHigh testOk s
  | .perstAssert => Sys2Proof.Machine.execPerstAssert s
  | .perstRelease => Sys2Proof.Machine.execPerstRelease s
  | .bringupPhaseComplete found => Sys2Proof.Machine.execBringupPhaseComplete found s
  | .coolantConditionMet => Sys2Proof.Machine.execCoolantConditionMet s
  | .virOkTimeout => Sys2Proof.Machine.execVirOkTimeout s
  | .postSquallTest res dur => Sys2Proof.Machine.execPostSquallTest res dur s
  | .attnPress => Sys2Proof.Machine.execAttnPress s
  | .attnHold => Sys2Proof.Machine.execAttnHold s
  | .presenceExpiry => Sys2Proof.Machine.execPresenceExpiry s
  | .removePress => Sys2Proof.Machine.execRemovePress s
  | .removalParkTimeout => Sys2Proof.Machine.execRemovalParkTimeout s
  | .removalCancel => Sys2Proof.Machine.execRemovalCancel s
  | .touchDetect pad mean => Sys2Proof.Machine.execTouchDetect pad mean s
  | .presenceChange bit v => Sys2Proof.Machine.execPresenceChange bit v s
  | .calIsoChange low => Sys2Proof.Machine.execCalIsoChange low s
  | .adcSample slot raw => Sys2Proof.Machine.execAdcSample slot raw s
  | .feTempRead temps => Sys2Proof.Machine.execFeTempRead temps s
  | .driftCalibration sz sf z f => Sys2Proof.Machine.execDriftCalibration sz sf z f s
  | .driftRetry n => Sys2Proof.Machine.execDriftRetry n s
  | .driftAll => Sys2Proof.Machine.execDriftAll s
  | .adcFeWrite n v => Sys2Proof.Machine.execAdcFeWrite n v s
  | .syscalPoint0 mean => Sys2Proof.Machine.execSyscalPoint0 mean s
  | .syscalPoint1 mean => Sys2Proof.Machine.execSyscalPoint1 mean s
  | .lowerHalfRead view run => Sys2Proof.Machine.execLowerHalfRead view run s
  | .registerWrite view off size v => Sys2Proof.Machine.execRegisterWrite view off size v s
  | .vsbLoss => Sys2Proof.Machine.execVsbLoss s
  | .spdmRequest req keys => Sys2Proof.Machine.execSpdmRequest req keys s
  | .arpRequest rx addr => Sys2Proof.Machine.execArpRequest rx addr s
  | .cnpReceived rx => Sys2Proof.Machine.execCnpReceived rx s
  | .barographVoteDisagreement => Sys2Proof.Machine.execBarographVoteDisagreement s
  | .upperHalfRead view run => Sys2Proof.Machine.execUpperHalfRead view run s
  | .virOkAsserted => Sys2Proof.Machine.execVirOkAsserted s

end Sys2Proof.Machine
end

