-- ==== Sys2Proof/WellFormed.lean ====
section
/-! DEFINITION. Which commands are well-formed: the units they name exist on some grade of the hardware, and the fields of
a slot operation hold no reserved encoding (R106). What a grade leaves out, exec itself checks. -/

namespace Sys2Proof

/-- One of the 18,432 physical cores (R11). -/
def coreIn (c : Nat) : Bool := decide (c < 18432)

/-- A field of a five-bit register number that names one of the 16 address registers (R112). -/
def aregOk (r : BitVec 5) : Bool := decide (r.toNat < 16)

/-- The header and request register pairs start at an even register (R134, R137). -/
def evenReg (r : BitVec 5) : Bool := decide (r.toNat % 2 = 0)

/-- The half of a count operand that is not used is zero (R112). -/
def countOk (g : BitVec 5) (src : Bool) (imm : BitVec 24) : Bool := if src then imm == 0 else g == 0

/-- Bytes of a turned tile by its mode, 256 when not turned (R94). -/
def tileBytes (tm : BitVec 3) : Nat :=
  match tm.toNat with
  | 2 => 512
  | 3 => 512
  | 4 => 1024
  | _ => 256

/-- ldv: the mode is not reserved, and the first register is a multiple of the registers a tile takes (R125). -/
def turnOk (reg : BitVec 5) (tm : BitVec 3) : Bool :=
  decide (tm.toNat ≤ 4) && decide (reg.toNat % (tileBytes tm / 256) = 0)

/-- tld: arrays, turn mode and source fit together (R142, R143, R146). -/
def tileLoadOk (amask : BitVec 4) (sc src : Bool) (a : BitVec 4) (tm : BitVec 3) : Bool :=
  let n := ((List.range 4).filter fun i => amask.getLsbD i).length
  amask != 0 && (src || (a == 0 && tm == 0)) &&
  (match tm.toNat with
   | 0 => true
   | 1 => true
   | 3 => !sc && (n == 2 || n == 4)
   | 4 => !sc && amask == 15
   | _ => false)

/-- A ring of one of the 256 tenants, or the owner's (R355). -/
def ringIn (r : RingId) : Bool :=
  match r with
  | .sq t => decide (t < 256)
  | .oq t => decide (t < 256)
  | .eq t => decide (t < 256)
  | .owner => true

/-- A view of one of the 256 tenants, or the owner's (R16). -/
def viewIn (v : View) : Bool :=
  match v with
  | .owner => true
  | .tenant t => decide (t < 256)
  | .config fn => decide (fn < 257)
  | .unsupported => true

/-- The units a test finding names exist (R11, R423-R425). -/
def findingIn (f : Finding) : Bool :=
  match f with
  | .router pf => decide (pf < 48)
  | .coreSram c => coreIn c
  | .core c => coreIn c
  | .clusterMem pcl => decide (pcl < 576)
  | .kvTile pcl w => decide (pcl < 576 ∧ w < 2)
  | .weightPort pcl w => decide (pcl < 576 ∧ w < 4)
  | .spareLines b _ =>
    decide ((b < 64 * 18432 ∧ b % 64 ≤ 32) ∨ (2 ^ 22 ≤ b ∧ b < 2 ^ 22 + 64 * 576 ∧ b % 64 < 48))
  | .selfTest => true
  | .noRecord => true
  | .planeRef => true

/-- The opcodes the owner mailbox has (R360, R456). -/
def mboxTable : List Nat :=
  [0x0001, 0x0300, 0x0301, 0x0400, 0x0401, 0x4000, 0xC000, 0xC001, 0xC002, 0xC010, 0xC011, 0xC012, 0xC020, 0xC021, 0xC100,
   0xC101, 0xC102]

/-- A slot operation's fields hold no reserved value and name no register pair or group wrongly (R106, R111, R123, R140,
R159); true of every other command. A branch or front in a delay slot is the one illegal case that the fields do not show. -/
def slotLegal (i : Instr) : Bool :=
  match i with
  | .nop _ _ gd => decide (gd = {})
  | .add _ _ _ _ _ => true
  | .sub _ _ _ _ _ => true
  | .and _ _ _ _ _ => true
  | .or _ _ _ _ _ => true
  | .xor _ _ _ _ _ => true
  | .shl _ _ _ _ _ => true
  | .shr _ _ _ _ _ => true
  | .sra _ _ _ _ _ => true
  | .mul _ _ _ _ _ => true
  | .min _ _ _ _ _ => true
  | .max _ _ _ _ _ => true
  | .addi _ _ _ _ _ => true
  | .andi _ _ _ _ _ => true
  | .ori _ _ _ _ _ => true
  | .xori _ _ _ _ _ => true
  | .shli _ _ _ _ imm => decide (imm.toNat < 64)
  | .shri _ _ _ _ imm => decide (imm.toNat < 64)
  | .srai _ _ _ _ imm => decide (imm.toNat < 64)
  | .li _ _ _ _ => true
  | .lih _ _ _ _ => true
  | .cmp _ _ _ cond _ s2 im imm => decide (cond.toNat ≤ 5) && (if im then s2 == 0 else imm == 0)
  | .plog _ _ _ _ _ _ _ fn => fn != 3
  | .amov _ _ d _ => aregOk d
  | .gmov _ _ _ s1 => aregOk s1
  | .aadd _ _ d s1 _ => aregOk d && aregOk s1
  | .aaddg _ _ d s1 _ => aregOk d && aregOk s1
  | .br _ _ _ => true
  | .bdec _ _ _ _ => true
  | .jr _ _ _ => true
  | .jal _ _ _ _ => true
  | .rdsh _ _ _ s1 => decide (s1.toNat < 16)
  | .rdcyc _ _ _ => true
  | .rdcc _ _ _ _ => true
  | .cset _ _ _ g src imm => countOk g src imm
  | .cadd _ _ _ g src imm => countOk g src imm
  | .csub _ _ _ g src imm => countOk g src imm
  | .wait _ _ _ g src _ imm => countOk g src imm
  | .watch _ _ _ g src _ imm => countOk g src imm
  | .arm _ _ _ g src imm => countOk g src imm
  | .front _ _ _ bound _ => bound != 0
  | .ld _ _ _ _ _ _ _ => true
  | .st _ _ _ _ _ _ => true
  | .ldv _ _ _ reg tm _ => turnOk reg tm
  | .stv _ _ _ _ _ => true
  | .cget _ _ _ _ _ lines tm => decide (tm.toNat ≤ 4) && (tm == 0 || decide ((lines.toNat + 1) % (tileBytes tm / 64) = 0))
  | .cput _ _ _ _ _ _ => true
  | .send _ _ _ gH _ cc lc => evenReg gH && (lc || cc == 0)
  | .get _ _ gH gR _ cc lc => evenReg gH && evenReg gR && (lc || cc == 0)
  | .wld _ _ _ _ _ _ => true
  | .wdrop _ _ _ => true
  | .kvld _ _ area _ _ _ _ => area != 3
  | .kvst _ _ area _ _ _ _ qm => area != 3 && qm != 3
  | .hput _ _ _ kind _ _ => kind == 1
  | .tld _ _ amask _ sc src a tm => tileLoadOk amask sc src a tm
  | .strm _ _ amask tsrc _ b len _ _ a af asr _ => amask != 0 && tsrc != 3 && decide (af.toNat ≤ 3) && decide (b.toNat + len.toNat ≤ 31) && (af != 3 || (a == 0 && asr == 0))
  | .drn _ _ _ r0 rows form dst a _ => decide (r0.toNat + rows.toNat ≤ 31) && form != 3 && (!dst || a == 0)
  | .ainit _ _ _ r0 rows form dst _ _ => decide (r0.toNat + rows.toNat ≤ 31) && (form == 0 || form == 2) && !dst
  | .amode _ _ wf _ _ _ _ => decide (wf.toNat ≤ 7)
  | .cvt _ _ _ vsrc av _ _ af _ _ _ _ => af != 3 && (!vsrc || av == 0)
  | .cut _ _ _ usrc au p outs grp _ _ _ rbase ns => outs != 3 && (!usrc || au == 0) && decide (rbase.toNat + p.toNat ≤ 31) && decide (16 * grp.toNat + 16 * 2 ^ outs.toNat ≤ 16 * (ns.toNat + 1))
  | .cout _ _ _ _ p rbase _ _ _ => decide (rbase.toNat + p.toNat ≤ 31)
  | .cmerge _ _ _ b rbase rows => decide (b.toNat + rows.toNat ≤ 31) && decide (rbase.toNat + rows.toNat ≤ 31)
  | .vadd _ _ _ _ _ _ => true
  | .vsub _ _ _ _ _ _ => true
  | .vmul _ _ _ _ _ _ => true
  | .vfma _ _ _ _ _ _ _ => true
  | .vmin _ _ _ _ _ _ => true
  | .vmax _ _ _ _ _ _ => true
  | .vcmp _ _ _ _ _ _ cond => decide (cond.toNat ≤ 6)
  | .vsel _ _ _ _ _ _ _ => true
  | .vexp _ _ _ _ ty => !ty
  | .vlog _ _ _ _ ty => !ty
  | .vrcp _ _ _ _ ty => !ty
  | .vrsq _ _ _ _ ty => !ty
  | .vrsum _ _ _ _ ty => !ty
  | .vrmax _ _ _ _ ty => !ty
  | .vrmin _ _ _ _ ty => !ty
  | .vcvt _ _ _ _ sf df h => decide (sf.toNat ≤ 7) && decide (df.toNat ≤ 7) && !(h && sf == 0)
  | .vquant _ _ _ _ sf df h => decide (sf.toNat ≤ 1) && decide (8 ≤ df.toNat) && decide (df.toNat ≤ 11) && !h
  | .vdeq _ _ _ _ sf df h => decide (8 ≤ sf.toNat) && decide (sf.toNat ≤ 11) && decide (df.toNat ≤ 1) && !(h && df == 1)
  | .vwadd _ _ vd vs1 vs2 ty => !ty && decide (vd.toNat % 4 = 0) && decide (vs1.toNat % 4 = 0) && decide (vs2.toNat % 4 = 0)
  | .vwrnd _ _ _ vs1 ty => !ty && decide (vs1.toNat % 4 = 0)
  | .vpop _ _ vd _ grp => grp != 3 && decide (vd.toNat % 2 ^ grp.toNat = 0)
  | .vext _ _ _ _ _ ty => !ty
  | .vsplat _ _ _ _ _ => true
  | .vtopm _ _ vd _ _ _ => decide (vd.toNat % 2 = 0)
  | _ => true

/-- The command names units the hardware has, and a slot operation has a legal encoding. -/
def Instr.wf (i : Instr) : Bool :=
  match i with
  | .bundleIssue c => coreIn c
  | .nop c _ _ => coreIn c && slotLegal i
  | .add c _ _ _ _ => coreIn c && slotLegal i
  | .sub c _ _ _ _ => coreIn c && slotLegal i
  | .and c _ _ _ _ => coreIn c && slotLegal i
  | .or c _ _ _ _ => coreIn c && slotLegal i
  | .xor c _ _ _ _ => coreIn c && slotLegal i
  | .shl c _ _ _ _ => coreIn c && slotLegal i
  | .shr c _ _ _ _ => coreIn c && slotLegal i
  | .sra c _ _ _ _ => coreIn c && slotLegal i
  | .mul c _ _ _ _ => coreIn c && slotLegal i
  | .min c _ _ _ _ => coreIn c && slotLegal i
  | .max c _ _ _ _ => coreIn c && slotLegal i
  | .addi c _ _ _ _ => coreIn c && slotLegal i
  | .andi c _ _ _ _ => coreIn c && slotLegal i
  | .ori c _ _ _ _ => coreIn c && slotLegal i
  | .xori c _ _ _ _ => coreIn c && slotLegal i
  | .shli c _ _ _ _ => coreIn c && slotLegal i
  | .shri c _ _ _ _ => coreIn c && slotLegal i
  | .srai c _ _ _ _ => coreIn c && slotLegal i
  | .li c _ _ _ => coreIn c && slotLegal i
  | .lih c _ _ _ => coreIn c && slotLegal i
  | .cmp c _ _ _ _ _ _ _ => coreIn c && slotLegal i
  | .plog c _ _ _ _ _ _ _ => coreIn c && slotLegal i
  | .amov c _ _ _ => coreIn c && slotLegal i
  | .gmov c _ _ _ => coreIn c && slotLegal i
  | .aadd c _ _ _ _ => coreIn c && slotLegal i
  | .aaddg c _ _ _ _ => coreIn c && slotLegal i
  | .br c _ _ => coreIn c && slotLegal i
  | .bdec c _ _ _ => coreIn c && slotLegal i
  | .jr c _ _ => coreIn c && slotLegal i
  | .jal c _ _ _ => coreIn c && slotLegal i
  | .rdsh c _ _ _ => coreIn c && slotLegal i
  | .rdcyc c _ _ => coreIn c && slotLegal i
  | .rdcc c _ _ _ => coreIn c && slotLegal i
  | .cset c _ _ _ _ _ => coreIn c && slotLegal i
  | .cadd c _ _ _ _ _ => coreIn c && slotLegal i
  | .csub c _ _ _ _ _ => coreIn c && slotLegal i
  | .wait c _ _ _ _ _ _ => coreIn c && slotLegal i
  | .waitCheck c => coreIn c
  | .watch c _ _ _ _ _ _ => coreIn c && slotLegal i
  | .watchCheck c => coreIn c
  | .arm c _ _ _ _ _ => coreIn c && slotLegal i
  | .front c _ _ _ _ => coreIn c && slotLegal i
  | .frontRelease => true
  | .frontTimeout => true
  | .ld c _ _ _ _ _ _ => coreIn c && slotLegal i
  | .st c _ _ _ _ _ => coreIn c && slotLegal i
  | .ldv c _ _ _ _ _ => coreIn c && slotLegal i
  | .stv c _ _ _ _ => coreIn c && slotLegal i
  | .cget c _ _ _ _ _ _ => coreIn c && slotLegal i
  | .cput c _ _ _ _ _ => coreIn c && slotLegal i
  | .clusterTransferComplete _ => true
  | .send c _ _ _ _ _ _ => coreIn c && slotLegal i
  | .get c _ _ _ _ _ _ => coreIn c && slotLegal i
  | .wld c _ _ _ _ _ => coreIn c && slotLegal i
  | .wdrop c _ _ => coreIn c && slotLegal i
  | .kvld c _ _ _ _ _ _ => coreIn c && slotLegal i
  | .kvst c _ _ _ _ _ _ _ => coreIn c && slotLegal i
  | .hput c _ _ _ _ _ => coreIn c && slotLegal i
  | .weightPageArrival pcl wafer _ _ => decide (pcl < 576) && decide (wafer < 4)
  | .kvldComplete _ _ _ => true
  | .kvstComplete _ _ => true
  | .hputAccept _ => true
  | .tld c _ _ _ _ _ _ _ => coreIn c && slotLegal i
  | .strm c _ _ _ _ _ _ _ _ _ _ _ _ => coreIn c && slotLegal i
  | .drn c _ _ _ _ _ _ _ _ => coreIn c && slotLegal i
  | .drainWrite c _ => coreIn c
  | .ainit c _ _ _ _ _ _ _ _ => coreIn c && slotLegal i
  | .amode c _ _ _ _ _ _ => coreIn c && slotLegal i
  | .cvt c _ _ _ _ _ _ _ _ _ _ _ => coreIn c && slotLegal i
  | .cut c _ _ _ _ _ _ _ _ _ _ _ _ => coreIn c && slotLegal i
  | .cout c _ _ _ _ _ _ _ _ => coreIn c && slotLegal i
  | .correctionOpEnd c => coreIn c
  | .cmerge c _ _ _ _ _ => coreIn c && slotLegal i
  | .vadd c _ _ _ _ _ => coreIn c && slotLegal i
  | .vsub c _ _ _ _ _ => coreIn c && slotLegal i
  | .vmul c _ _ _ _ _ => coreIn c && slotLegal i
  | .vfma c _ _ _ _ _ _ => coreIn c && slotLegal i
  | .vmin c _ _ _ _ _ => coreIn c && slotLegal i
  | .vmax c _ _ _ _ _ => coreIn c && slotLegal i
  | .vcmp c _ _ _ _ _ _ => coreIn c && slotLegal i
  | .vsel c _ _ _ _ _ _ => coreIn c && slotLegal i
  | .vexp c _ _ _ _ => coreIn c && slotLegal i
  | .vlog c _ _ _ _ => coreIn c && slotLegal i
  | .vrcp c _ _ _ _ => coreIn c && slotLegal i
  | .vrsq c _ _ _ _ => coreIn c && slotLegal i
  | .vrsum c _ _ _ _ => coreIn c && slotLegal i
  | .vrmax c _ _ _ _ => coreIn c && slotLegal i
  | .vrmin c _ _ _ _ => coreIn c && slotLegal i
  | .vcvt c _ _ _ _ _ _ => coreIn c && slotLegal i
  | .vquant c _ _ _ _ _ _ => coreIn c && slotLegal i
  | .vdeq c _ _ _ _ _ _ => coreIn c && slotLegal i
  | .vwadd c _ _ _ _ _ => coreIn c && slotLegal i
  | .vwrnd c _ _ _ _ => coreIn c && slotLegal i
  | .vpop c _ _ _ _ => coreIn c && slotLegal i
  | .vext c _ _ _ _ _ => coreIn c && slotLegal i
  | .vsplat c _ _ _ _ => coreIn c && slotLegal i
  | .vtopm c _ _ _ _ _ => coreIn c && slotLegal i
  | .routerHop _ => true
  | .gatewayLookup _ => true
  | .reduceCombine pcl _ => decide (pcl < 576)
  | .packetDelivery _ => true
  | .getReply _ => true
  | .squallStop => true
  | .transitFault pf => decide (pf < 48)
  | .loadStart => true
  | .loadAbort => true
  | .loadPass1 _ => true
  | .loadVerify => true
  | .loadCheck => true
  | .loadMap _ => true
  | .loadPass2 _ _ => true
  | .clusterDigestCheck lcl => decide (lcl < 552)
  | .resendRound _ _ => true
  | .loadCopy => true
  | .install _ => true
  | .wstResume _ => true
  | .wstAbort => true
  | .eraseSlot => true
  | .reProvision => true
  | .substitute => true
  | .wstReservedCmd cmd => decide (cmd.toNat = 0 ∨ 7 ≤ cmd.toNat)
  | .sliceFetchComplete _ _ => true
  | .shardFetchTimeout _ => true
  | .slotEraseComplete slot => decide (slot < 4)
  | .remapApply => true
  | .weightScrub wafer pcl page _ => decide (pcl < 576) && decide (wafer < 4) && decide (page < 8388608)
  | .fieldSubstitutionStart => true
  | .substitutionCopyEnd _ _ => true
  | .kvApply => true
  | .kvPatrolScrub line res => decide (line < 1152 * 2 ^ 26) && decide (res ≤ 2)
  | .arrivalTick => true
  | .gaugeTick => true
  | .stepBoundary => true
  | .submissionDoorbell _ t _ _ => decide (t < 256)
  | .startReq t _ => decide (t < 256)
  | .continueReq t _ => decide (t < 256)
  | .pauseReq t _ => decide (t < 256)
  | .resumeReq t _ => decide (t < 256)
  | .cancelReq t _ => decide (t < 256)
  | .adapterUpload t _ => decide (t < 256)
  | .adapterRelease t _ => decide (t < 256)
  | .adapterLoadComplete slot res => decide (slot < 64) && decide (res ≤ 2)
  | .parkAll => true
  | .parkComplete slot _ => decide (slot < 256)
  | .parkRetry slot => decide (slot < 256)
  | .restoreComplete slot _ => decide (slot < 256)
  | .snowpackOpTimeout slot => decide (slot < 256)
  | .snowpackExpiry _ => true
  | .ringConfigWrite owner ring _ => ringIn ring && (owner || ring != .owner)
  | .hostIndexWrite owner ring _ => ringIn ring && (owner || ring != .owner)
  | .interruptModeration t _ => decide (t < 256)
  | .functionLevelReset t => decide (t.getD 0 < 256)
  | .drainComplete t => decide (t < 256)
  | .vfEnable t => decide (t < 256)
  | .function0Reset => true
  | .cxlLinkDown _ => true
  | .cxlLinkUp => true
  | .cxlCompletionTimeout _ _ _ _ => true
  | .hdmAccess _ _ _ _ => true
  | .identify => true
  | .getTimestamp => true
  | .setTimestamp _ => true
  | .getSupportedLogs => true
  | .getLog _ _ _ => true
  | .identifyMemoryDevice => true
  | .setQp _ _ => true
  | .getQp _ => true
  | .setPortAddresses _ => true
  | .unsupportedOpcode op => !mboxTable.contains op.toNat
  | .getIdentity => true
  | .getNonce => true
  | .getAttestationReport _ => true
  | .enrolOwner _ => true
  | .replaceOwnerKeys _ => true
  | .clearOwnership _ => true
  | .rotateTenantKey _ => true
  | .getTenantKeyEpoch _ => true
  | .hostPush t _ => decide (t < 256)
  | .rdmaWriteArrival rx _ _ _ => decide (rx.qp < 4096)
  | .sendArrival rx _ => decide (rx.qp < 4096)
  | .rdmaReadRequest rx _ _ _ => decide (rx.qp < 4096)
  | .ackTimeout loss => decide (loss.qp < 4096)
  | .rateInterval => true
  | .fabricPortDown p _ => decide (p < 12)
  | .fabricPortUp p => decide (p < 12)
  | .portEnable p _ => decide (p < 12)
  | .isobarJoin _ => true
  | .isobarFrameReceive _ => true
  | .isobarTimeFrame => true
  | .isobarBudgetFrame => true
  | .isobarShareCompute => true
  | .isobarAlarm _ _ => true
  | .isobarBreakTimeout => true
  | .isobarMasterLost => true
  | .smbIdentity => true
  | .smbState => true
  | .smbFaultSummary => true
  | .smbDieTemperature code => decide (3 ≤ code.toNat) && decide (code.toNat ≤ 5)
  | .smbCoolantTemperature _ => true
  | .smbFlow => true
  | .smbPower code => decide (9 ≤ code.toNat) && decide (code.toNat ≤ 11)
  | .smbRackBudget _ => true
  | .smbIdentifyPattern _ => true
  | .bypass => true
  | .idcode => true
  | .samplePreload _ => true
  | .extest => true
  | .clamp => true
  | .highz => true
  | .extestPulse => true
  | .extestTrain => true
  | .avsSetpointAdjust => true
  | .virUndervoltage _ => true
  | .virOkRestored => true
  | .clockStepChange => true
  | .stateTargetWrite _ => true
  | .stateTransition => true
  | .idleDescent => true
  | .forcedChange cause => decide (1 ≤ cause) && decide (cause ≤ 5)
  | .regulatorTileTrip die pf cl tile rail => decide (die < 18) && decide (pf < 48) && decide (cl < 12) && decide (tile < 8) && decide (rail < 6)
  | .vtransitFeedTrip pf cl _ => decide (pf < 48) && decide (cl < 12)
  | .thermalSample reads => reads.all fun r => decide (r.1 < 1448)
  | .powerCapUpdate _ => true
  | .clockStepControl _ => true
  | .capBelowStep6 => true
  | .coolantStop => true
  | .coolantRestored => true
  | .dewPointCheck => true
  | .sensorRecal => true
  | .vsbApply _ _ => true
  | .perstAssert => true
  | .perstRelease => true
  | .bringupPhaseComplete found => found.all findingIn
  | .coolantConditionMet => true
  | .virOkTimeout => true
  | .postSquallTest _ _ => true
  | .attnPress => true
  | .attnHold => true
  | .presenceExpiry => true
  | .removePress => true
  | .removalParkTimeout => true
  | .removalCancel => true
  | .touchDetect pad _ => decide (pad < 4)
  | .presenceChange bit _ => decide (bit < 18)
  | .calIsoChange _ => true
  | .adcSample slot _ => decide (slot < 125)
  | .feTempRead temps => decide (temps.length ≤ 25)
  | .driftCalibration _ _ _ _ => true
  | .driftRetry n => decide (n < 24)
  | .driftAll => true
  | .adcFeWrite n _ => decide (n < 25)
  | .syscalPoint0 _ => true
  | .syscalPoint1 _ => true
  | .lowerHalfRead view run => viewIn view && decide (0 < run.size)
  | .registerWrite view _ size _ => viewIn view && decide (0 < size)
  | .vsbLoss => true
  | .spdmRequest _ _ => true
  | .arpRequest rx _ => decide (rx.p < 12)
  | .cnpReceived rx => decide (rx.qp < 4096)
  | .barographVoteDisagreement => true
  | .upperHalfRead view run => viewIn view && decide (0 < run.size)
  | .virOkAsserted => true

end Sys2Proof
end

