-- ==== Sys2Proof/Safety.lean ====
section
/-! DEFINITION. What counts as a sound state, and the words the statements are made of. -/

namespace Sys2Proof.Safety

open Sys2Proof Sys2Proof.Machine

/-- The three byte memories are in canonical form: addresses strictly rising, and no byte that holds 0. -/
def memOk (s : State) : Bool := memWf s.plane.sram && memWf s.wst.mem && memWf s.kv.mem

/-- The scalar registers of a core are in canonical form: equal contents are equal tables. -/
def gOk (k : Core) : Bool := twf (0 : BitVec 64) k.g

/-- So are its other tables that commands change in place. -/
def coreOk (k : Core) : Bool := gOk k && twf (0 : BitVec 32) k.cc && twf ({} : Arr) k.arrays

/-- The table of cores is in canonical form, and so are the tables of each core. -/
def coresOk (s : State) : Bool := twf ({} : Core) s.plane.cores && s.plane.cores.all fun e => coreOk e.2

/-- The tables of tenant blocks, weight-store slots, sequence slots, adapter slots, queue pairs, ports, sensor pairs and converter
channels are in canonical form. -/
def tablesOk (s : State) : Bool :=
  twf ({} : Tenant) s.tenants && twf ({} : WSlot) s.wst.slots && twf ({} : Seq) s.hub.slots && twf ({} : Adp) s.hub.adps &&
  twf ({} : Qp) s.host.qps && twf ({} : FPort) s.host.ports && twf ({} : Pair) s.thm.pairs && twf ({} : AdcCh) s.adc.ch

/-- Core c exists and its guard lets the operation take effect (R105). -/
def Issues (s : State) (c : Nat) (gd : Guard) : Prop := c < nCores ∧ guardOn (s.core c) gd = true

/-- s with a result of core c on its way: it is visible from cycle `due` on, and nothing else changes (R107). -/
def Coming (s : State) (c due : Nat) (sl : SlotKind) (d : OpDest) (v : BitVec 2048) : State :=
  s.setCore c { s.core c with writes := (s.core c).writes ++ [{ due := due, ord := slotOrd sl, dest := d, val := v }] }

/-- The same for a scalar register. -/
def ComingG (s : State) (c due : Nat) (sl : SlotKind) (r : BitVec 5) (v : BitVec 64) : State :=
  Coming s c due sl (.g r) (v.setWidth 2048)

/-- s with a squall of a class detected at core c's slot operation: while a program runs, nothing but the list of
detected faults changes. -/
def Detected (s : State) (c cls : Nat) (sl : SlotKind) : State := s.raise (coreRep s c cls sl (s.core c).pc.toNat)

/-- A step's outcome is a next state with a property. -/
def Answers (r : Host.Outcome State Fault Refusal) (P : State → Prop) : Prop := ∃ t, r = .next t ∧ P t

/-- A command answers a next state with a property. -/
def Does (i : Instr) (s : State) (P : State → Prop) : Prop := Answers (exec i s) P

/-- A load has ended with a fault: nothing is loaded, the fault is recorded, and vector 3 of function 0 is raised. -/
def LoadEnds (s t : State) (code : Nat) : Prop :=
  t.ldr.state = 9 ∧ t.ldr.start = false ∧ t.ldr.fVld = true ∧ t.ldr.fCode = code ∧ t.plane = s.plane ∧
  t.out.getLast? = some (.msix 0 3)

/-- A weight-store command has ended with a result. -/
def WstEnds (t : State) (cmd slot result : Nat) : Prop :=
  t.wst.busy = false ∧ t.wst.result = result ∧ t.wst.lastCmd = cmd ∧ t.wst.lastSlot = slot

/-- The state in which an accepted weight-store command begins. -/
def wstBegun (s : State) (cmd : Nat) : State :=
  { s with wst := { s.wst with
      cmd := BitVec.ofNat 4 cmd, busy := true, waiting := false, lastCmd := cmd, lastSlot := s.wst.slot.toNat, done := 0, total := 0,
      bytes := 0 } }

/-- No command of the block stops the machine on this state. -/
def goesOn (r : Host.Outcome State Fault Refusal) : Bool :=
  match r with
  | .next _ => true
  | _ => false

end Sys2Proof.Safety
end

