-- ==== Sys2Proof/Certificates/Slice0/Obligations.lean ====
section
/-! DEFINITION. The statements about the model, for the provers. -/



open Sys2Proof Sys2Proof.Machine Sys2Proof.Safety

/-! ### The block: queue, reset, invariant -/

/-- A step with command c at the front of the queue is exec of c on the state with the queue's rest. On an empty queue a step
passes one plane cycle while the plane clock runs, and changes nothing while it stands (the model's choice, log 1): it always
goes on, and the cycle count rises by 1 exactly when the clock runs. -/
def Obligations.StepRunsTheFront : Prop :=
  (∀ (c : Instr) (r : List Instr) (s : State), step { s with pending := c :: r } = exec c { s with pending := r }) ∧
  (∀ s : State, s.pending = [] →
    ∃ t, step s = .next t ∧ t.plane.cycle = (if s.plane.clockOn then s.plane.cycle + 1 else s.plane.cycle) ∧
      (s.plane.clockOn = false → t = s))

/-- No command ends a run: every command, with every operand and in every state, answers a next state, and so does every step.
The meaning of each command is the subject of the other statements. -/
def Obligations.EveryCommandCompletes : Prop :=
  (∀ (c : Instr) (s : State), ∃ t, exec c s = .next t) ∧ (∀ s : State, ∃ t, step s = .next t)

/-- After reset the three byte memories, the cores and the other tables are in canonical form. -/
def Obligations.ResetIsSound : Prop := memOk State.reset = true ∧ coresOk State.reset = true ∧ tablesOk State.reset = true

/-- Every step keeps the canonical form of the three byte memories: two states with equal memory contents hold equal
lists, whatever commands led to them. -/
def Obligations.EveryStepKeepsMemories : Prop :=
  ∀ s t : State, memOk s = true → step s = .next t → memOk t = true

/-- Every step keeps the canonical form of the cores' registers, counters and arrays, and of the other tables that `tablesOk`
names, the form that the premise of the statements below about the state after a command asks for. -/
def Obligations.EveryStepKeepsTables : Prop :=
  ∀ s t : State, coresOk s = true → tablesOk s = true → step s = .next t → coresOk t = true ∧ tablesOk t = true

/-! ### Encoding of slot operations -/

/-- Decoding the word of a slot operation gives that operation back, with every operand at every value its field admits,
in the slot the operation belongs to (a nop has every other bit 0, so only its plain guard is encoded). -/
def Obligations.SlotDecodeOfEncode : Prop :=
  ∀ (i : Instr) (c w : Nat) (sl : SlotKind), encodeSlot i = some (sl, w) → slotCore i = some c →
    (∀ gd, i = .nop c sl gd → gd = {}) → decodeSlot sl c w = some i ∧ w < 2 ^ 64

/-- Words the spec writes out, and words written from its encoding tables, decode to the operations they stand for. -/
def Obligations.SlotWordsDecode : Prop :=
  decodeSlot .X 0 0x0101400000000000 = some (.tld 0 {} 1 false true false 0 0) ∧
  decodeSlot .X 0 0x02016000C8A00000 = some (.strm 0 {} 1 1 true 0 0 3 4 5 0 0 0) ∧
  decodeSlot .S 3 0x0102906000000000 = some (.add 3 {} 5 4 3) ∧
  decodeSlot .S 3 0x10AF9000FFFFFFFF = some (.addi 3 { gn := true, gp := 2 } 31 4 0xFFFFFFFF) ∧
  decodeSlot .M 0 0x0102360000000000 = some (.ld 0 {} 2 6 3 false 0) ∧
  decodeSlot .V 0 0x0102106000000000 = some (.vadd 0 {} 4 4 3 false) ∧
  decodeSlot .S 0 0 = some (.nop 0 .S {}) ∧ decodeSlot .S 0 1 = none ∧ decodeSlot .M 0 0xFF00000000000000 = none

/-! ### Guards and encodings (R105, R106) -/

/-- A guarded-off slot operation with a legal encoding changes no state; one with a reserved field raises the
illegal-encoding squall (class 07h) at its core, pc and slot, whether or not it is guarded off, and does nothing else
(R105, R106). -/
def Obligations.GuardsAndEncodings : Prop :=
  (∀ (i : Instr) (c w : Nat) (sl : SlotKind) (s : State), encodeSlot i = some (sl, w) → slotCore i = some c → c < nCores →
      slotLegal i = true → (s.core c).delaySlot = false → guardOn (s.core c) (slotGuard w) = false → exec i s = .next s) ∧
  (∀ (i : Instr) (c w : Nat) (sl : SlotKind) (s : State), encodeSlot i = some (sl, w) → slotCore i = some c → c < nCores →
      slotLegal i = false → exec i s = .next (Detected s c 7 sl))

/-- The two-register operations: each writes its result to g[d] after its latency (1 cycle, mul 3), and changes nothing
else. Shifts use the low 6 bits of the amount, and arithmetic is modulo 2^64 (R112). A nop changes nothing (R105).
The immediate operations: the 32-bit immediate is sign-extended; li writes it, and lih writes it over the high half
of g[d] (R112). -/
def Obligations.ScalarResults : Prop :=
  (∀ (s : State) (c : Nat) (gd : Guard) (d s1 s2 : BitVec 5) (sl : SlotKind), Issues s c gd →
      let x := (s.core c).gGet s1.toNat
      let y := (s.core c).gGet s2.toNat
      let put (lat : Nat) (v : BitVec 64) : Host.Outcome State Fault Refusal := .next (ComingG s c (s.plane.cycle + lat) .S d v)
      exec (.nop c sl {}) s = .next s ∧
      exec (.add c gd d s1 s2) s = put 1 (x + y) ∧
      exec (.sub c gd d s1 s2) s = put 1 (x - y) ∧
      exec (.and c gd d s1 s2) s = put 1 (x &&& y) ∧
      exec (.or c gd d s1 s2) s = put 1 (x ||| y) ∧
      exec (.xor c gd d s1 s2) s = put 1 (x ^^^ y) ∧
      exec (.shl c gd d s1 s2) s = put 1 (BitVec.ofNat 64 (x.toNat * 2 ^ (y.toNat % 64))) ∧
      exec (.shr c gd d s1 s2) s = put 1 (BitVec.ofNat 64 (x.toNat / 2 ^ (y.toNat % 64))) ∧
      exec (.sra c gd d s1 s2) s = put 1 (BitVec.ofInt 64 (x.toInt / 2 ^ (y.toNat % 64))) ∧
      exec (.mul c gd d s1 s2) s = put 3 (BitVec.ofNat 64 (x.toNat * y.toNat)) ∧
      exec (.min c gd d s1 s2) s = put 1 (BitVec.ofInt 64 (min x.toInt y.toInt)) ∧
      exec (.max c gd d s1 s2) s = put 1 (BitVec.ofInt 64 (max x.toInt y.toInt))) ∧
  (∀ (s : State) (c : Nat) (gd : Guard) (d s1 : BitVec 5) (imm : BitVec 32), Issues s c gd →
      let x := (s.core c).gGet s1.toNat
      let put (v : BitVec 64) : Host.Outcome State Fault Refusal := .next (ComingG s c (s.plane.cycle + 1) .S d v)
      exec (.addi c gd d s1 imm) s = put (BitVec.ofInt 64 (x.toInt + imm.toInt)) ∧
      exec (.andi c gd d s1 imm) s = put (x &&& imm.signExtend 64) ∧
      exec (.ori c gd d s1 imm) s = put (x ||| imm.signExtend 64) ∧
      exec (.xori c gd d s1 imm) s = put (x ^^^ imm.signExtend 64) ∧
      (imm.toNat < 64 →
        exec (.shli c gd d s1 imm) s = put (BitVec.ofNat 64 (x.toNat * 2 ^ imm.toNat)) ∧
        exec (.shri c gd d s1 imm) s = put (BitVec.ofNat 64 (x.toNat / 2 ^ imm.toNat)) ∧
        exec (.srai c gd d s1 imm) s = put (BitVec.ofInt 64 (x.toInt / 2 ^ imm.toNat))) ∧
      exec (.li c gd d imm) s = put (BitVec.ofInt 64 imm.toInt) ∧
      exec (.lih c gd d imm) s = put (BitVec.ofNat 64 (imm.toNat * 2 ^ 32 + ((s.core c).gGet d.toNat).toNat % 2 ^ 32)))

/-- cmp writes its predicate by the six conditions of R113, against a register or the sign-extended immediate, and a reserved
condition, or a second register beside the immediate, is an illegal encoding; plog writes its predicate by its three functions
(R112, R113). Both are visible one cycle later and change nothing else. -/
def Obligations.PredicateResults : Prop :=
  ∀ (s : State) (c : Nat) (gd : Guard) (pd ps1 ps2 : BitVec 3) (n1 n2 : Bool) (s1 s2 : BitVec 5) (imm : BitVec 32),
    Issues s c gd →
    let x := (s.core c).gGet s1.toNat
    let y := (s.core c).gGet s2.toNat
    let a := (s.core c).pGet ps1.toNat != n1
    let b := (s.core c).pGet ps2.toNat != n2
    let put (v : Bool) : Host.Outcome State Fault Refusal :=
      .next (Coming s c (s.plane.cycle + 1) .S (.p pd) (if v then 1 else 0))
    exec (.cmp c gd pd 0 s1 s2 false 0) s = put (decide (x = y)) ∧
    exec (.cmp c gd pd 1 s1 s2 false 0) s = put (decide (x ≠ y)) ∧
    exec (.cmp c gd pd 2 s1 s2 false 0) s = put (decide (x.toInt < y.toInt)) ∧
    exec (.cmp c gd pd 3 s1 s2 false 0) s = put (decide (y.toInt ≤ x.toInt)) ∧
    exec (.cmp c gd pd 4 s1 s2 false 0) s = put (decide (x.toNat < y.toNat)) ∧
    exec (.cmp c gd pd 5 s1 s2 false 0) s = put (decide (y.toNat ≤ x.toNat)) ∧
    (let i := imm.signExtend 64
     exec (.cmp c gd pd 0 s1 0 true imm) s = put (decide (x = i)) ∧
     exec (.cmp c gd pd 1 s1 0 true imm) s = put (decide (x ≠ i)) ∧
     exec (.cmp c gd pd 2 s1 0 true imm) s = put (decide (x.toInt < i.toInt)) ∧
     exec (.cmp c gd pd 3 s1 0 true imm) s = put (decide (i.toInt ≤ x.toInt)) ∧
     exec (.cmp c gd pd 4 s1 0 true imm) s = put (decide (x.toNat < i.toNat)) ∧
     exec (.cmp c gd pd 5 s1 0 true imm) s = put (decide (i.toNat ≤ x.toNat))) ∧
    (∀ (cond : BitVec 4) (im : Bool), 6 ≤ cond.toNat → exec (.cmp c gd pd cond s1 s2 im imm) s = .next (Detected s c 7 .S)) ∧
    (∀ cond : BitVec 4, s2 ≠ 0 → exec (.cmp c gd pd cond s1 s2 true imm) s = .next (Detected s c 7 .S)) ∧
    exec (.plog c gd pd ps1 n1 ps2 n2 0) s = put (a && b) ∧
    exec (.plog c gd pd ps1 n1 ps2 n2 1) s = put (a || b) ∧
    exec (.plog c gd pd ps1 n1 ps2 n2 2) s = put (a != b)

/-- Address registers: amov and gmov copy 48 bits, and aadd and aaddg change bits [31:0] only, modulo 2^32. rdsh reads a
shape register, rdcyc the cycle count modulo 2^64, and rdcc samples its counter at the end of the cycle (R108-R112). -/
def Obligations.AddressAndSpecialRegisterResults : Prop :=
  (∀ (s : State) (c : Nat) (gd : Guard) (d s1 s2 : BitVec 5) (imm : BitVec 32), Issues s c gd → d.toNat < 16 → s1.toNat < 16 →
      let ad := (s.core c).aGet s1.toNat
      let put (n : Nat) : Host.Outcome State Fault Refusal :=
        .next (Coming s c (s.plane.cycle + 1) .S (.a (d.setWidth 4)) ((BitVec.ofNat 48 n).setWidth 2048))
      exec (.amov c gd d s2) s = put ((s.core c).gGet s2.toNat).toNat ∧
      exec (.aadd c gd d s1 imm) s = put (ad.toNat / 2 ^ 32 * 2 ^ 32 + (ad.toNat + imm.toNat) % 2 ^ 32) ∧
      exec (.aaddg c gd d s1 s2) s =
        put (ad.toNat / 2 ^ 32 * 2 ^ 32 + (ad.toNat + ((s.core c).gGet s2.toNat).toNat % 2 ^ 32) % 2 ^ 32) ∧
      exec (.gmov c gd s2 s1) s = .next (ComingG s c (s.plane.cycle + 1) .S s2 (BitVec.ofNat 64 ad.toNat))) ∧
  (∀ (s : State) (c : Nat) (gd : Guard) (d s1 : BitVec 5) (cc : BitVec 6), Issues s c gd →
      (s1.toNat < 16 → exec (.rdsh c gd d s1) s = .next (ComingG s c (s.plane.cycle + 1) .S d ((s.core c).shGet s1.toNat))) ∧
      exec (.rdcyc c gd d) s = .next (ComingG s c (s.plane.cycle + 1) .S d (BitVec.ofNat 64 s.plane.cycle)) ∧
      exec (.rdcc c gd cc d) s = .next (s.setCore c { s.core c with
        samples := (s.core c).samples ++ [{ tAt := s.plane.cycle, gr := d, cc := cc }] }))

/-- Branches outside a delay slot set the target that issues after the delay slot: pc + 32 x offset, or g[g] with bits
[4:0] ignored; bdec is taken when the decremented value is not 0, and jal also writes pc + 64. In the delay slot of another,
a branch, a jump or a front is an illegal encoding (R106, R112, R114). -/
def Obligations.BranchResults : Prop :=
  (∀ (s : State) (c : Nat) (gd : Guard) (g : BitVec 5) (off : BitVec 24), Issues s c gd → (s.core c).delaySlot = false →
      let k := s.core c
      let tgt := some (BitVec.ofInt 21 ((k.pc.toNat : Int) + 32 * off.toInt))
      let dec := k.gGet g.toNat - 1
      let wr (v : BitVec 64) : RegWrite :=
        { due := s.plane.cycle + 1, ord := 0, dest := .g g, val := v.setWidth 2048 }
      exec (.br c gd off) s = .next (s.setCore c { k with target := tgt, delaySlot := true }) ∧
      exec (.jr c gd g) s = .next (s.setCore c { k with
        target := some (BitVec.ofNat 21 ((k.gGet g.toNat).toNat % 2 ^ 21 / 32 * 32)), delaySlot := true }) ∧
      exec (.bdec c gd g off) s = .next (s.setCore c { k with
        writes := k.writes ++ [wr dec], target := if dec = 0 then k.target else tgt, delaySlot := true }) ∧
      exec (.jal c gd g off) s = .next (s.setCore c { k with
        writes := k.writes ++ [wr (BitVec.ofNat 64 (k.pc.toNat + 64))], target := tgt, delaySlot := true })) ∧
  (∀ (s : State) (c : Nat) (gd : Guard) (g : BitVec 5) (off : BitVec 24) (num : BitVec 8) (bound : BitVec 20) (stp : Bool),
      c < nCores → (s.core c).delaySlot = true →
      exec (.br c gd off) s = .next (Detected s c 7 .S) ∧
      exec (.bdec c gd g off) s = .next (Detected s c 7 .S) ∧
      exec (.jr c gd g) s = .next (Detected s c 7 .S) ∧
      exec (.jal c gd g off) s = .next (Detected s c 7 .S) ∧
      exec (.front c gd num bound stp) s = .next (Detected s c 7 .S))


/-! ### Scalar operations -/

/-- After the writes of cycle n land, g[r] of a core with one due write reads that value, g0 and p0 read 0 and 1 whatever
is written, and every other scalar register and the address and vector registers keep theirs. When two writes reach one
register in one cycle they land in slot order S, V, X, M, and the M-slot write stands (R107). -/
def Obligations.DueWritesBecomeVisible : Prop :=
  (∀ (k : Core) (n : Nat) (w : RegWrite) (r : BitVec 5), gOk k = true → k.writes = [w] → w.due ≤ n → w.dest = .g r → w.ord ≤ 3 →
      let k' := landWrites k n
      k'.writes = [] ∧ k'.gGet r.toNat = (if r = 0 then 0 else w.val.setWidth 64) ∧
      (∀ x : Nat, x ≠ r.toNat → k'.gGet x = k.gGet x) ∧ k'.gGet 0 = 0 ∧ k'.pGet 0 = true ∧
      k'.a = k.a ∧ k'.p = k.p ∧ k'.v = k.v ∧ k'.cc = k.cc ∧ k'.pc = k.pc) ∧
  (∀ (k : Core) (n : Nat) (r : BitVec 5) (x y : BitVec 2048), gOk k = true → r ≠ 0 →
      k.writes = [{ due := n, ord := slotOrd .M, dest := .g r, val := x }, { due := n, ord := slotOrd .S, dest := .g r, val := y }] →
      (landWrites k n).gGet r.toNat = x.setWidth 64)


/-! ### Completion counters (R115, R116) -/

/-- cset, cadd and csub act on what the counter held before the cycle's increments (n of them so far, m of them standing over
at FFFF_FFFFh), and the increments come on top; a cadd that would carry a counter above FFFF_FFFFh, and a csub that would
carry it below 0, raise the counter-overflow squall with the core and the counter, and change nothing else (R115, R116).
An increment by a completion adds 1 to its counter and nothing else but the tally of the cycle; at FFFF_FFFFh it stands
over, and at the end of the cycle it raises the counter-overflow squall and the counter keeps its value (R115, R116). -/
def Obligations.CounterOperations : Prop :=
  (∀ (s : State) (c n : Nat) (gd : Guard) (cc : BitVec 6) (g : BitVec 5) (src : Bool) (imm : BitVec 24) (pc : Nat) (sl : SlotKind),
      Issues s c gd → countOk g src imm = true →
      let k := s.core c
      let x := if src then ((k.gGet g.toNat).toNat % 2 ^ 32) else imm.toNat
      let v := (k.ccGet cc.toNat).toNat
      let ovf := s.raise { coreRep s c 6 .S k.pc.toNat with counter := cc.toNat }
      tget 0 k.incs cc.toNat = n →
      let put (y m : Nat) : Host.Outcome State Fault Refusal :=
        .next (s.setCore c { k with
          cc := tset 0 k.cc cc.toNat (BitVec.ofNat 32 y), incs := tset 0 k.incs cc.toNat m, overs := [] })
      (k.overs = [] →
        (x + n < 2 ^ 32 → exec (.cset c gd cc g src imm) s = put (x + n) n) ∧
        (n ≤ v → v + x < 2 ^ 32 → exec (.cadd c gd cc g src imm) s = put (v + x) n) ∧
        (n + x ≤ v → exec (.csub c gd cc g src imm) s = put (v - x) n) ∧
        (n = 0 → 2 ^ 32 ≤ v + x → exec (.cadd c gd cc g src imm) s = .next ovf) ∧
        (n = 0 → v < x → exec (.csub c gd cc g src imm) s = .next ovf)) ∧
      (k.overs = [(cc.toNat, pc, sl)] → x + n + 1 < 2 ^ 32 → exec (.cset c gd cc g src imm) s = put (x + n + 1) (n + 1))) ∧
  (∀ (s : State) (c i pc : Nat) (sl : SlotKind), coresOk s = true →
      let k := s.core c
      (k.ccGet i ≠ 0xFFFFFFFF →
        let t := s.incr c i pc sl
        ((t.core c).ccGet i).toNat = (k.ccGet i).toNat + 1 ∧ (∀ j, j ≠ i → (t.core c).ccGet j = k.ccGet j) ∧
        (∀ c', c' ≠ c → t.core c' = s.core c') ∧ t.plane.sram = s.plane.sram ∧ (t.core c).g = k.g ∧ t.plane.faults = s.plane.faults) ∧
      (k.ccGet i = 0xFFFFFFFF → s.incr c i pc sl = s.setCore c { k with overs := k.overs ++ [(i, pc, sl)] }) ∧
      (k.overs = [(i, pc, sl)] → s.plane.progRun = true →
        let t := settleOvers s c
        t.plane.faults = s.plane.faults ++ [{ coreRep s c 6 sl pc with counter := i }] ∧ t.core c = { k with overs := [] } ∧
        (∀ c', c' ≠ c → t.core c' = s.core c') ∧ t.plane.sram = s.plane.sram))


/-! ### Waits, watches, fronts (R117-R122) -/

/-- wait holds issue until the check at the end of cycle t + d; watch takes one of four trackers, a fifth raises the
counter-overflow squall; arm sets or replaces the target of its counter, but not in the cycle in which a front releases the
core (R117-R119, R214).
The checks of a wait and a watch see the counter as it stands at the end of cycle t + d, and before that end nothing happens;
a counter that had reached its count lets the next bundle issue at t + d + 1 (wait) or frees the tracker (watch); one that had
not raises the squall of class 05h, of that cycle, with the counter, its value and the count, and after a wait the core
stays stopped (R117, R118). -/
def Obligations.WaitsAndWatches : Prop :=
  (∀ (s : State) (c : Nat) (gd : Guard) (cc : BitVec 6) (g : BitVec 5) (src : Bool) (d : BitVec 16) (imm : BitVec 24),
      Issues s c gd → countOk g src imm = true →
      let k := s.core c
      let x : BitVec 32 := if src then (k.gGet g.toNat).setWidth 32 else imm.setWidth 32
      let w : Watch := { due := s.plane.cycle + d.toNat, cc := cc, count := x, pc := k.pc }
      let pend := (k.watches.filter fun w => w.seen.isNone).length
      exec (.wait c gd cc g src d imm) s =
        .next (s.setCore c { k with issue := .hold (s.plane.cycle + d.toNat) cc x k.pc none }) ∧
      (pend < 4 → exec (.watch c gd cc g src d imm) s = .next (s.setCore c { k with watches := k.watches ++ [w] })) ∧
      (4 ≤ pend →
        exec (.watch c gd cc g src d imm) s = .next (s.raise { coreRep s c 6 .S k.pc.toNat with counter := cc.toNat })) ∧
      (k.relAt ≠ some s.plane.cycle →
        exec (.arm c gd cc g src imm) s = .next (s.setCore c { k with armed := tset none k.armed cc.toNat (some x) })) ∧
      (k.relAt = some s.plane.cycle → exec (.arm c gd cc g src imm) s = .next s)) ∧
  (∀ (k : Core) (n due : Nat) (cc : BitVec 6) (x : BitVec 32) (pc : BitVec 21) (w : Watch),
      (k.issue = .hold due cc x pc none →
        (closeCore k n).issue = .hold due cc x pc (if due = n then some (k.ccGet cc.toNat) else none)) ∧
      (k.watches = [w] → w.seen = none →
        (closeCore k n).watches = [{ w with seen := if w.due = n then some (k.ccGet w.cc.toNat) else none }]) ∧
      (closeCore k n).cc = k.cc ∧ (closeCore k n).g = k.g ∧ (closeCore k n).pc = k.pc) ∧
  (∀ (s : State) (c due : Nat) (cc : BitVec 6) (n v : BitVec 32) (pc : BitVec 21), c < nCores → coresOk s = true →
      let k := s.core c
      (k.issue = .hold due cc n pc none → exec (.waitCheck c) s = .next s) ∧
      (k.issue = .hold due cc n pc (some v) → n.toNat ≤ v.toNat →
        exec (.waitCheck c) s = .next (s.setCore c { k with issue := .run, nextAt := due + 1 })) ∧
      (k.issue = .hold due cc n pc (some v) → v.toNat < n.toNat → s.plane.progRun = true →
        ∃ t, exec (.waitCheck c) s = .next t ∧ t.core c = { k with issue := .stopped } ∧
          t.plane.faults = s.plane.faults ++
            [{ coreRep s c 5 .S pc.toNat with cycle := due, counter := cc.toNat, auxHi := v.toNat, auxLo := n.toNat }] ∧
          t.plane.sram = s.plane.sram ∧ ∀ c', c' ≠ c → t.core c' = s.core c')) ∧
  (∀ (s : State) (c : Nat) (w : Watch) (v : BitVec 32), c < nCores → coresOk s = true → (s.core c).watches = [w] →
      let k := s.core c
      (w.seen = none → ∃ t, exec (.watchCheck c) s = .next t ∧ t.core c = k ∧ t.plane.faults = s.plane.faults) ∧
      (w.seen = some v → w.count.toNat ≤ v.toNat → exec (.watchCheck c) s = .next (s.setCore c { k with watches := [] })) ∧
      (w.seen = some v → v.toNat < w.count.toNat → s.plane.progRun = true →
        ∃ t, exec (.watchCheck c) s = .next t ∧ t.core c = { k with watches := [] } ∧
          t.plane.faults = s.plane.faults ++
            [{ coreRep s c 5 .S w.pc.toNat with
              cycle := w.due, counter := w.cc.toNat, auxHi := v.toNat, auxLo := w.count.toNat }] ∧
          t.plane.sram = s.plane.sram ∧ ∀ c', c' ≠ c → t.core c' = s.core c'))

/-- A front stops issue on its core and nothing else on the plane; the first one starts the front's timer (R120, R122).
A front not released within its bound, in units of 100 ns of time, raises the front-timeout squall; before that
nothing happens (R122). -/
def Obligations.FrontStopsAndTimesOut : Prop :=
  (∀ (s : State) (c : Nat) (gd : Guard) (num : BitVec 8) (bound : BitVec 20) (stp : Bool),
      Issues s c gd → coresOk s = true → bound ≠ 0 → (s.core c).delaySlot = false →
      ∃ t, exec (.front c gd num bound stp) s = .next t ∧
        t.core c = { s.core c with issue := .front s.plane.cycle num bound stp (s.core c).pc } ∧
        (∀ c', c' ≠ c → t.core c' = s.core c') ∧ t.plane.sram = s.plane.sram ∧ t.plane.fLast = s.plane.cycle ∧
        (s.plane.fFirst = none → t.plane.fFirst = some c ∧ t.plane.fTimer = 0) ∧
        (s.plane.fFirst ≠ none → t.plane.fFirst ≠ none ∧ t.plane.fTimer = s.plane.fTimer)) ∧
  (∀ s : State, s.plane.progRun = true → s.plane.fFirst ≠ none → s.plane.faults = [] →
      (frontWait s < (refFront s).2.1.toNat → exec .frontTimeout s = .next s) ∧
      ((refFront s).2.1.toNat ≤ frontWait s → ∃ t, exec .frontTimeout s = .next t ∧ t.plane.cores = s.plane.cores ∧
        ∃ f, t.plane.faults = [f] ∧ f.cls = 9 ∧ f.front = (refFront s).1.toNat ∧ f.auxLo = (refFront s).2.1.toNat))


/-! ### Bundles (R104, R106, R114) -/

/-- A front is released when every core of the program stands at it ready, 64 cycles after the latest event, and no step holds
it: the release stands at the end of its cycle unless a squall is pending there; then every core goes on in the next cycle
with its counters kept and its armed targets cleared, and the front count rises by 1. A front that is not complete, not yet
due, at its bound, or a step front that the hub holds, is not released, and fronts that differ raise the squall of class 10h
(R120, R121, R214, R491). -/
def Obligations.FrontRelease : Prop :=
  (∀ s : State, s.plane.progRun = true → s.plane.clockOn = true → s.plane.faults = [] → allReady s = true →
      mismatched s = none → s.plane.fLast + 64 ≤ s.plane.cycle + 1 → boundReached s = false →
      ((refFront s).2.2 = true → stepHeld s = false ∧ s.ldr.waitFront = false) →
      exec .frontRelease s = .next { s with plane := { s.plane with relGo := true } }) ∧
  (∀ s : State, s.plane.relGo = true → coresOk s = true →
      (s.plane.faults ≠ [] → settleRelease s = { s with plane := { s.plane with relGo := false } }) ∧
      (s.plane.faults = [] → allIssued s = true → (refFront s).2.2 = false → s.plane.fronts < 2 ^ 32 - 1 →
        let t := settleRelease s
        t.plane.relGo = false ∧ t.plane.fFirst = none ∧ t.plane.fronts = s.plane.fronts + 1 ∧ t.plane.sram = s.plane.sram ∧
        ∀ c, (s.core c).role ≠ none →
          (t.core c).issue = .run ∧ (t.core c).nextAt = s.plane.cycle + 1 ∧ (t.core c).armed = [] ∧
          (t.core c).cc = (s.core c).cc ∧ (t.core c).pc = (s.core c).pc ∧ (t.core c).g = (s.core c).g)) ∧
  (∀ s : State, s.plane.progRun = true → s.plane.clockOn = true → s.plane.faults = [] →
      (allIssued s = false → exec .frontRelease s = .next s) ∧
      (allIssued s = true → mismatched s = none →
        (allReady s = false ∨ s.plane.cycle + 1 < s.plane.fLast + 64 ∨ boundReached s = true ∨
          ((refFront s).2.2 = true ∧ stepHeld s = true)) →
        exec .frontRelease s = .next s) ∧
      (∀ c k, allIssued s = true → mismatched s = some (c, k) → ∃ t, exec .frontRelease s = .next t ∧
        t.plane.cores = s.plane.cores ∧ ∃ f, t.plane.faults = [f] ∧ f.cls = 0x10 ∧ f.pcore = c % 32))

/-- A core that may issue runs the bundle at its pc: with an operation i in the S slot and nops in the others, the effect is
that of command i (the target of an earlier branch taken), then the pc is that target or pc + 32, and the next bundle may
issue in the next cycle. A bundle of four nops moves the pc and changes no register and no memory; a core that may not issue
does nothing; a fetch from outside the code region raises the squall of class 03h and stops the core, whether it is made for
the next bundle or for the first (R104, R106, R114). -/
def Obligations.BundleIssues : Prop :=
  (∀ (s u : State) (c w : Nat) (i : Instr), c < nCores → coresOk s = true →
      mayIssue s (s.core c) = true → inCode s (s.core c).pc.toNat = true →
      encodeSlot i = some (.S, w) → slotCore i = some c → (∀ gd, i ≠ .nop c .S gd) →
      s.sramGet (spmAddr c (s.core c).pc.toNat) 32 = leBytes 32 w →
      exec i (s.setCore c { s.core c with target := none }) = .next u →
      let k := s.core c
      let v := u.setCore c { u.core c with
        pc := k.target.getD (k.pc + 32), delaySlot := decide (0x30 ≤ w / 2 ^ 56 ∧ w / 2 ^ 56 ≤ 0x33), lastPc := k.pc,
        nextAt := s.plane.cycle + 1 }
      exec (.bundleIssue c) s = .next (fetchNext v c k.pc)) ∧
  (∀ (s : State) (c : Nat), c < nCores → coresOk s = true →
      let k := s.core c
      (mayIssue s k = false → exec (.bundleIssue c) s = .next s) ∧
      (mayIssue s k = true → inCode s k.pc.toNat = true → s.plane.sramErr = [] →
        s.sramGet (spmAddr c k.pc.toNat) 32 = leBytes 32 0 →
        ∃ t, exec (.bundleIssue c) s = .next t ∧ (t.core c).pc = k.target.getD (k.pc + 32) ∧ (t.core c).target = none ∧
          (t.core c).delaySlot = false ∧ (t.core c).lastPc = k.pc ∧ (t.core c).nextAt = s.plane.cycle + 1 ∧
          (t.core c).g = k.g ∧ (t.core c).a = k.a ∧ (t.core c).p = k.p ∧ (t.core c).v = k.v ∧ (t.core c).cc = k.cc ∧
          t.plane.sram = s.plane.sram ∧ ∀ c', c' ≠ c → t.core c' = s.core c') ∧
      (inCode s k.pc.toNat = false →
        let t := (Detected s c 3 .S).setCore c { k with issue := .stopped }
        fetchNow s c = t ∧ (mayIssue s k = true → exec (.bundleIssue c) s = .next t)))


/-! ### Vector operations (chapter 05) -/

/-- The lane operations of two or three sources (latency 4): FP32 lanes compute in FP32, BF16 lanes compute in FP32 and
round the result to BF16; compares give all-ones or all-zero lanes, and vsel takes the lane of vs1 where the sign bit of
vs3 is set. Nothing but the result on its way changes (R56, R84, R159, R160). -/
def Obligations.VectorLaneResults : Prop :=
  ∀ (s : State) (c : Nat) (gd : Guard) (vd vs1 vs2 vs3 : BitVec 5) (cond : BitVec 4), Issues s c gd → cond.toNat ≤ 6 →
    let x := (s.core c).vGet vs1.toNat
    let y := (s.core c).vGet vs2.toNat
    let z := (s.core c).vGet vs3.toNat
    let gives32 (i : Instr) (f : Nat → BitVec 32) : Prop :=
      ∃ v, exec i s = .next (Coming s c (s.plane.cycle + 4) .V (.v vd) v) ∧ ∀ l, l < 64 → lane32 v l = f l
    let gives16 (i : Instr) (f : Nat → BitVec 16) : Prop :=
      ∃ v, exec i s = .next (Coming s c (s.plane.cycle + 4) .V (.v vd) v) ∧ ∀ l, l < 128 → lane16 v l = f l
    gives32 (.vadd c gd vd vs1 vs2 false) (fun l => fpAdd (lane32 x l) (lane32 y l)) ∧
    gives32 (.vsub c gd vd vs1 vs2 false) (fun l => fpSub (lane32 x l) (lane32 y l)) ∧
    gives32 (.vmul c gd vd vs1 vs2 false) (fun l => fpMul (lane32 x l) (lane32 y l)) ∧
    gives32 (.vfma c gd vd vs1 vs2 vs3 false) (fun l => fpFma (lane32 x l) (lane32 y l) (lane32 z l)) ∧
    gives32 (.vmin c gd vd vs1 vs2 false) (fun l => encFp32 (FV.vmin (decFp32 (lane32 x l)) (decFp32 (lane32 y l)))) ∧
    gives32 (.vmax c gd vd vs1 vs2 false) (fun l => encFp32 (FV.vmax (decFp32 (lane32 x l)) (decFp32 (lane32 y l)))) ∧
    gives32 (.vcmp c gd vd vs1 vs2 false cond) (fun l =>
      if vcmpCond cond (decFp32 (lane32 x l)) (decFp32 (lane32 y l)) then 0xFFFFFFFF else 0) ∧
    gives32 (.vsel c gd vd vs1 vs2 vs3 false) (fun l => if (lane32 z l).msb then lane32 x l else lane32 y l) ∧
    gives16 (.vadd c gd vd vs1 vs2 true) (fun l =>
      encBf16 (decFp32 (encFp32 (FV.add (decBf16 (lane16 x l)) (decBf16 (lane16 y l)))))) ∧
    gives16 (.vmul c gd vd vs1 vs2 true) (fun l =>
      encBf16 (decFp32 (encFp32 (FV.mul (decBf16 (lane16 x l)) (decBf16 (lane16 y l)))))) ∧
    gives16 (.vsel c gd vd vs1 vs2 vs3 true) (fun l => if (lane16 z l).msb then lane16 x l else lane16 y l) ∧
    gives16 (.vcmp c gd vd vs1 vs2 true cond) (fun l =>
      if vcmpCond cond (decBf16 (lane16 x l)) (decBf16 (lane16 y l)) then 0xFFFF else 0)

/-- The FP32 functions act on each lane, the FP32 reductions put one result into every lane, each after its latency under
the program's contract; ty 1 is reserved and raises the illegal-encoding squall (R57, R58, R84, R159). -/
def Obligations.VectorFunctionResults : Prop :=
  ∀ (s : State) (c : Nat) (gd : Guard) (vd vs1 : BitVec 5), Issues s c gd →
    let x := (s.core c).vGet vs1.toNat
    let lanes := (List.range 64).map fun l => lane32 x l
    let fast := if contractB s then 11 else 14
    let each (i : Instr) (lat : Nat) (f : BitVec 32 → BitVec 32) : Prop :=
      ∃ v, exec i s = .next (Coming s c (s.plane.cycle + lat) .V (.v vd) v) ∧ ∀ l, l < 64 → lane32 v l = f (lane32 x l)
    let all (i : Instr) (lat : Nat) (r : BitVec 32) : Prop :=
      ∃ v, exec i s = .next (Coming s c (s.plane.cycle + lat) .V (.v vd) v) ∧ ∀ l, l < 64 → lane32 v l = r
    each (.vexp c gd vd vs1 false) fast fpExp ∧ each (.vlog c gd vd vs1 false) 16 fpLog ∧
    each (.vrcp c gd vd vs1 false) fast fpRcp ∧ each (.vrsq c gd vd vs1 false) 16 fpRsq ∧
    all (.vrsum c gd vd vs1 false) 12 (treeSum lanes) ∧ all (.vrmax c gd vd vs1 false) 7 (foldFV FV.vmax lanes) ∧
    all (.vrmin c gd vd vs1 false) 7 (foldFV FV.vmin lanes) ∧
    exec (.vexp c gd vd vs1 true) s = .next (Detected s c 7 .V) ∧ exec (.vrsum c gd vd vs1 true) s = .next (Detected s c 7 .V)

/-- The conversions, the quantiser, the wide operations and the moves between lanes and scalars complete with their
result on its way after their latency (R84, R161-R165): vcvt by element, vdeq and vquant by block, vwrnd by lane, vsplat to
every lane, vext one lane zero-extended, vwadd and vtopm into register groups. -/
def Obligations.VectorMoveResults : Prop :=
  ∀ (s : State) (c : Nat) (gd : Guard) (vd vs1 vs2 gs : BitVec 5) (lane : BitVec 6) (sf df : BitVec 4), Issues s c gd →
    coresOk s = true →
    let k := s.core c
    let x := k.vGet vs1.toNat
    (sf.toNat ≤ 7 → df.toNat ≤ 7 →
      exec (.vcvt c gd vd vs1 sf df false) s =
        .next (Coming s c (s.plane.cycle + 4) .V (.v vd) (vcvtVec sf.toNat df.toNat 0 x))) ∧
    (sf.toNat ≤ 1 → 8 ≤ df.toNat → df.toNat ≤ 11 →
      exec (.vquant c gd vd vs1 sf df false) s =
        .next (Coming s c (s.plane.cycle + 6) .V (.v vd) (vquantVec sf.toNat (blockFmt df.toNat) x))) ∧
    (8 ≤ sf.toNat → sf.toNat ≤ 11 → df.toNat ≤ 1 →
      exec (.vdeq c gd vd vs1 sf df false) s =
        .next (Coming s c (s.plane.cycle + 4) .V (.v vd) (vdeqVec (blockFmt sf.toNat) df.toNat 0 x))) ∧
    (vd.toNat % 4 = 0 → vs1.toNat % 4 = 0 → vs2.toNat % 4 = 0 →
      ∃ k', exec (.vwadd c gd vd vs1 vs2 false) s = .next (s.setCore c k') ∧ k'.v = k.v ∧ k'.g = k.g ∧
        ∀ q : Nat, q < 4 → ∃ v, { due := s.plane.cycle + 4, ord := 1, dest := .v (BitVec.ofNat 5 (vd.toNat + q)), val := v } ∈ k'.writes ∧
          ∀ j : Nat, j < 16 → partAt v j = wideAdd (partAt (k.vGet (vs1.toNat + q)) j) (partAt (k.vGet (vs2.toNat + q)) j)) ∧
    (vs1.toNat % 4 = 0 →
      ∃ v, exec (.vwrnd c gd vd vs1 false) s = .next (Coming s c (s.plane.cycle + 4) .V (.v vd) v) ∧
        ∀ l : Nat, l < 64 → lane32 v l =
          (let w := partAt (k.vGet (vs1.toNat + l / 16)) (l % 16)
           encFp32 (FV.ofDy ⟨(wideAcc w).toInt, wideAnchor w⟩))) ∧
    exec (.vext c gd vd vs1 lane false) s =
      .next (ComingG s c (s.plane.cycle + 2) .V vd (BitVec.ofNat 64 (lane32 x lane.toNat).toNat)) ∧
    (∃ v, exec (.vsplat c gd vd gs false) s = .next (Coming s c (s.plane.cycle + 2) .V (.v vd) v) ∧
      ∀ l : Nat, l < 64 → lane32 v l = BitVec.ofNat 32 (k.gGet gs.toNat).toNat) ∧
    (vd.toNat % 2 = 0 →
      let new := (List.range 64).map fun l => (lane32 x l, BitVec.ofNat 32 ((k.gGet gs.toNat).toNat + l))
      let top := topMerge 64 (List.replicate 64 ((0xFF800000 : BitVec 32), (0xFFFFFFFF : BitVec 32))) new
      exec (.vtopm c gd vd vs1 gs true) s = .next (s.setCore c { k with
        writes := k.writes ++ [{ due := s.plane.cycle + 8, ord := 1, dest := .v vd, val := vecOf32 (top.map Prod.fst) },
                               { due := s.plane.cycle + 8, ord := 1, dest := .v (vd + 1), val := vecOf32 (top.map Prod.snd) }] }) ∧
      top.length = 64 ∧ top.Pairwise fun e f => topBefore f e = false)

/-- vpop writes the oldest entry that stands available to the vector unit into a group of 1, 2 or 4 registers and takes it from
its queue: entry bytes beyond the group are lost, and group bytes beyond the entry become zero. From a queue with none it writes
+0 to every lane. A reserved group, and a register that is no multiple of the group, are illegal encodings (R83, R163). -/
def Obligations.VectorPop : Prop :=
  ∀ (s : State) (c : Nat) (gd : Guard) (vd : BitVec 5) (arr grp : BitVec 2) (e : DrainEntry) (r : List DrainEntry),
    Issues s c gd → coresOk s = true →
    let k := s.core c
    let q := k.arr arr.toNat
    let n := 2 ^ grp.toNat
    let group (d : List Byte) : List RegWrite := (List.range n).map fun j =>
      { due := s.plane.cycle + 2, ord := 1, dest := .v (BitVec.ofNat 5 (vd.toNat + j)), val := packBv 2048 ((d.drop (256 * j)).take 256) }
    (grp ≠ 3 → vd.toNat % n = 0 → q.queue = e :: r → e.dst = true → e.avail = true →
      ∃ t, exec (.vpop c gd vd arr grp) s = .next t ∧ ((t.core c).arr arr.toNat).queue = r ∧ (t.core c).v = k.v ∧
        (t.core c).g = k.g ∧ t.plane.sram = s.plane.sram ∧ (t.core c).writes = k.writes ++ group e.data) ∧
    (grp ≠ 3 → vd.toNat % n = 0 → q.queue = [] → ∃ t, exec (.vpop c gd vd arr grp) s = .next t ∧
      (t.core c).v = k.v ∧ t.plane.sram = s.plane.sram ∧ (t.core c).writes = k.writes ++ group [] ∧
      packBv 2048 (([] : List Byte).take 256) = 0) ∧
    (grp = 3 ∨ vd.toNat % n ≠ 0 → exec (.vpop c gd vd arr grp) s = .next (Detected s c 7 .V))

/-! ### Array group and correction unit (chapters 03 and 05) -/

/-- The array operations enter the array command queue, and the correction operations the correction unit's, with their
operands read at issue, and change nothing else; a run outside the scratchpad raises the squall of class 03h instead (R79,
R144-R158, R168). -/
def Obligations.ArrayAndCorrectionOperationsQueue : Prop :=
  (∀ (s : State) (c : Nat) (gd : Guard) (amask a asr : BitVec 4) (tsrc arr form : BitVec 2) (r0 rows b len gV gM rbase : BitVec 5)
      (wf : BitVec 4) (nc : BitVec 2) (ceil : BitVec 16) (cc : BitVec 6) (anchor : BitVec 10) (ae xm opn : Bool),
      Issues s c gd →
      let k := s.core c
      let ad := k.aGet a.toNat
      let queued (i : Instr) (op : XOp) : Prop :=
        exec i s = .next (s.setCore c { k with xq := k.xq ++ [{ tAt := s.plane.cycle, op := op, pc := k.pc.toNat }] })
      (amask ≠ 0 → queued (.tld c gd amask false true false 0 0) (.tld amask false true false (addrOff (k.aGet 0) / 256 * 256) 0)) ∧
      (amask ≠ 0 → addrUnit ad = 0x3F → addrOff ad / 256 * 256 + 256 * popMask amask ≤ 0x180000 →
        queued (.tld c gd amask true false true a 0) (.tld amask true false true (addrOff ad / 256 * 256) 0)) ∧
      (amask ≠ 0 → addrUnit ad ≠ 0x3F → exec (.tld c gd amask true false true a 0) s = .next (Detected s c 3 .X)) ∧
      (amask ≠ 0 → tsrc ≠ 3 → b.toNat + len.toNat ≤ 31 → addrUnit ad = 0x3F → addrOff ad + 16 * 32 ≤ 0x180000 →
        queued (.strm c gd amask tsrc opn b len gV gM a 0 asr anchor)
          (.strm amask tsrc opn b.toNat (len.toNat + 1) (min ((k.gGet gV.toNat).toNat % 64) (len.toNat + 1))
            (BitVec.ofNat 32 (k.gGet gM.toNat).toNat) (addrOff ad) 0 (addrOff (k.aGet asr.toNat)) anchor.toInt)) ∧
      (r0.toNat + rows.toNat ≤ 31 → form ≠ 3 → addrUnit ad = 0x3F →
        queued (.drn c gd arr r0 rows form false a cc)
          (.drn arr.toNat r0.toNat (rows.toNat + 1) form false (addrOff ad / 64 * 64) cc)) ∧
      (r0.toNat + rows.toNat ≤ 31 → form = 0 ∨ form = 2 → addrUnit ad = 0x3F →
        queued (.ainit c gd arr r0 rows form false a cc) (.ainit arr.toNat r0.toNat (rows.toNat + 1) form (addrOff ad) cc)) ∧
      (wf.toNat ≤ 7 → queued (.amode c gd wf ae xm nc ceil) (.amode { wf := wf, ae := ae, xm := xm, nc := nc, ceil := ceil })) ∧
      (b.toNat + rows.toNat ≤ 31 → rbase.toNat + rows.toNat ≤ 31 →
        queued (.cmerge c gd arr b rbase rows) (.cmerge arr.toNat b.toNat rbase.toNat (rows.toNat + 1)))) ∧
  (∀ (s : State) (c : Nat) (gd : Guard) (av ax au : BitVec 4) (arr : BitVec 2) (half opn : Bool) (p rbase : BitVec 5)
      (ks anchor : BitVec 10) (cc : BitVec 6), Issues s c gd → rbase.toNat + p.toNat ≤ 31 →
      let k := s.core c
      let va := k.aGet av.toNat
      let xa := k.aGet ax.toNat
      let ua := k.aGet au.toNat
      let kk := 32 * (ks.toNat + 1)
      let queued (i : Instr) (op : CorrOp) : Prop :=
        exec i s = .next (s.setCore c { k with corr := k.corr ++ [{ op := op, cc := cc, pc := k.pc.toNat }] })
      (addrUnit va = 0x3F → addrUnit xa = 0x3F → addrOff va / 64 * 64 + (8 * kk + 16) ≤ 0x180000 →
        addrOff xa + 512 * (kk / 16 - 1) + 16 * (p.toNat + 1) ≤ 0x180000 →
        queued (.cvt c gd 0 false av ax 0 0 p ks anchor cc)
          (.cvt 8 false (addrOff va / 64 * 64) (addrOff xa) (addrOff (k.aGet 0)) 0 (p.toNat + 1) kk anchor.toInt)) ∧
      (addrUnit ua = 0x3F → addrOff ua / 64 * 64 + (16 * 8 + 2 * 16) ≤ 0x180000 →
        queued (.cut c gd 0 false au p 0 0 opn anchor cc rbase 0)
          (.cut 8 false (addrOff ua / 64 * 64) (p.toNat + 1) 16 0 opn anchor.toInt rbase.toNat 16)) ∧
      queued (.cout c gd arr half p rbase opn anchor cc) (.cout arr.toNat half (p.toNat + 1) rbase.toNat opn anchor.toInt))


/-! ### Loads, stores and transfers (chapters 03, 04, 09, 10) -/

/-- ld, st, ldv and stv issue an access of their own aligned run: the low address bits are ignored, the load reads its
bank in the next cycle and is visible at t + 3, the store writes its bank in the next cycle, and nothing else changes (R109,
R123, R124).
An access whose run leaves the scratchpad raises the bounds squall, class 03h, and a store or a cget into the code
region the code squall, class 04h; nothing else happens (R92, R126, R127). -/
def Obligations.LoadsAndStoresIssue : Prop :=
  (∀ (s : State) (c : Nat) (gd : Guard) (a : BitVec 4) (reg : BitVec 5) (size : BitVec 2) (sx : Bool) (off : BitVec 20),
      Issues s c gd →
      let k := s.core c
      let ad := addrImm (k.aGet a.toNat) off
      let n := 2 ^ size.toNat
      let o := addrOff ad / n * n
      let q := addrOff ad / 256 * 256
      let t := s.plane.cycle + 1
      let use (o : Nat) : BankUse := { tAt := t, bank := bankOf o, pc := k.pc.toNat }
      let bank1 := k.banks ++ [use o]
      let bank4 := k.banks ++ (List.range 4).map fun i => use (q + 64 * i)
      addrUnit ad = 0x3F →
      (o + n ≤ 0x180000 →
        exec (.ld c gd a reg size sx off) s = .next (s.setCore c { k with
          loads := k.loads ++ [{ tAt := t, due := t + 2, off := o, bytes := n, sx := sx, reg := reg, pc := k.pc.toNat }]
          banks := bank1 })) ∧
      (o + n ≤ 0x180000 - codeBytes s →
        exec (.st c gd a reg size off) s = .next (s.setCore c { k with
          stores := k.stores ++ [{ tAt := t, off := o, data := leBytes n (k.gGet reg.toNat).toNat, pc := k.pc.toNat }]
          banks := bank1 })) ∧
      (q + 256 ≤ 0x180000 →
        exec (.ldv c gd a reg 0 off) s = .next (s.setCore c { k with
          loads := k.loads ++ [{ tAt := t, due := t + 2, off := q, bytes := 256, vec := true, reg := reg, pc := k.pc.toNat }]
          banks := bank4 })) ∧
      (q + 256 ≤ 0x180000 - codeBytes s →
        exec (.stv c gd a reg off) s = .next (s.setCore c { k with
          stores := k.stores ++ [{ tAt := t, off := q, data := leBytes 256 (k.vGet reg.toNat).toNat, pc := k.pc.toNat }]
          banks := bank4 }))) ∧
  (∀ (s : State) (c : Nat) (gd : Guard) (a : BitVec 4) (reg g : BitVec 5) (size : BitVec 2) (sx : Bool) (off : BitVec 20)
      (cc lines : BitVec 6), Issues s c gd →
      let k := s.core c
      let ad := addrImm (k.aGet a.toNat) off
      let n := 2 ^ size.toNat
      let o := addrOff ad / n * n
      let cg := addrOff (k.aGet a.toNat) / 64 * 64
      let cl := 64 * (lines.toNat + 1)
      (addrUnit ad ≠ 0x3F ∨ 0x180000 < o + n →
        exec (.ld c gd a reg size sx off) s = .next (Detected s c 3 .M) ∧
        exec (.st c gd a reg size off) s = .next (Detected s c 3 .M)) ∧
      (addrUnit ad ≠ 0x3F ∨ 0x180000 ≤ addrOff ad →
        exec (.ldv c gd a reg 0 off) s = .next (Detected s c 3 .M) ∧
        exec (.stv c gd a reg off) s = .next (Detected s c 3 .M)) ∧
      (addrUnit ad = 0x3F → inCode s o = true → exec (.st c gd a reg size off) s = .next (Detected s c 4 .M)) ∧
      (addrUnit (k.aGet a.toNat) ≠ 0x3F ∨ 0x180000 < cg + cl →
        exec (.cget c gd a g cc lines 0) s = .next (Detected s c 3 .M) ∧
        exec (.cput c gd a g cc lines) s = .next (Detected s c 3 .M)))

/-- When its bank is written, a store leaves its bytes at its run and every other byte of the plane's memories as it was; a
load's bank read leaves memory as it was and puts the zero-extended number on its way; before the cycle of its read a load
waits (R4, R86, R124). -/
def Obligations.BankAccesses : Prop :=
  ∀ (s : State) (c o n : Nat) (d : List Byte) (l : PendLoad) (w : PendStore), memOk s = true → coresOk s = true →
    s.plane.sramErr = [] →
    (w.off = o → w.data = d →
      let t := doStore s c w
      t.sramGet (spmAddr c o) d.length = d ∧ t.plane.cores = s.plane.cores ∧
      ∀ x, x < spmAddr c o ∨ spmAddr c o + d.length ≤ x → mget t.plane.sram x = mget s.plane.sram x) ∧
    (s.plane.cycle + l.rc ≤ l.tAt → (readLoad s c l).core c = { s.core c with loads := (s.core c).loads ++ [l] }) ∧
    (l.off = o → l.bytes = n → n ≤ 8 → l.vec = false → l.sx = false → l.rc = 1 → l.got = [] → l.tAt ≤ s.plane.cycle →
      let t := readLoad s c l
      t.plane.sram = s.plane.sram ∧ (t.core c).g = (s.core c).g ∧
      (t.core c).writes = (s.core c).writes ++
        [{ due := l.due, ord := 3, dest := .g l.reg, rd := some l.tAt,
           val := BitVec.ofNat 2048 (ofLe (s.sramGet (spmAddr c o) n)) }])

/-- Every 8-byte word of the plane's memories carries check bits. A read without a double-bit error gives the stored bytes,
corrects each single-bit error in place and counts it; one with a double-bit error gives nothing and raises the squall of
class 0Ch that names the memory. A write of whole words leaves no error in them and counts none (R96). -/
def Obligations.CheckBits : Prop :=
  ∀ (s : State) (sl : SlotKind) (pc a n : Nat) (d : List Byte), s.bg.eccCorr < 2 ^ 32 →
    (sramBad s a n = none →
      let t := (sramRead s sl pc a n).2
      (sramRead s sl pc a n).1 = some (s.sramGet a n) ∧ t.plane.sram = s.plane.sram ∧ singleWords t a n = [] ∧
      sramBad t a n = none ∧ t.plane.cores = s.plane.cores ∧
      t.bg.eccCorr = min (2 ^ 32 - 1) (s.bg.eccCorr + (singleWords s a n).length)) ∧
    (∀ w, sramBad s a n = some w → s.plane.progRun = true →
      sramRead s sl pc a n = (none, { s with plane := { s.plane with faults := s.plane.faults ++ [memRep s sl pc w] } }) ∧
      (memRep s sl pc w).cls = 0xC ∧ (memRep s sl pc w).cycle = s.plane.cycle) ∧
    (a % 8 = 0 → d.length % 8 = 0 →
      let t := sramStore s sl pc a d
      t.plane.sram = mwrite s.plane.sram a d ∧ sramBad t a d.length = none ∧ singleWords t a d.length = [] ∧ t.bg = s.bg ∧
      t.plane.faults = s.plane.faults)


/-- cget, cput, wld, wdrop, kvld, kvst and hput put their transfer in flight with its operands read at issue; the
core's registers and every byte of memory stay. A wld enters its port's order behind every command issued before it, and
one that finds 448 there raises the counter-overflow squall instead (R127-R130, R133, R248). -/
def Obligations.TransfersIssue : Prop :=
  ∀ (s : State) (c : Nat) (gd : Guard) (a : BitVec 4) (g : BitVec 5) (cc lines : BitVec 6) (wafer area : BitVec 2)
    (pages : BitVec 4) (grs : BitVec 9) (klines : BitVec 8), Issues s c gd →
    let k := s.core c
    let ad := k.aGet a.toNat
    let x := (k.gGet g.toNat).toNat
    let o := addrOff ad / 64 * 64
    let n := lines.toNat + 1
    let kn := klines.toNat + 1
    let id := s.plane.nextId
    let cm := x % 2 ^ 32 / 64 * 64
    let kad := x % 2 ^ 44 / 64 * 64
    let path := 2 * pclOf c + (kvMap s area.toNat kad).wafer
    let kv (store : Bool) : KvCmd :=
      { id := id, core := c, store := store, area := area.toNat, addr := kad, cmem := true, off := o, lines := kn, cc := cc,
        path := path, pc := k.pc, tAt := s.plane.cycle }
    (addrUnit ad = 0x3F → o + 64 * n ≤ 0x180000 - codeBytes s → cm + 64 * n ≤ 0x1800000 →
      exec (.cget c gd a g cc lines 0) s = .next { s with plane := { s.plane with nextId := id + 1, xfers := s.plane.xfers ++
        [{ id := id, core := c, off := o, cm := cm, lines := n, cc := cc, tAt := s.plane.cycle,
           tAtR := s.plane.cycle + 1, pc := k.pc }] } } ∧
      exec (.cput c gd a g cc lines) s = .next { s with plane := { s.plane with nextId := id + 1, xfers := s.plane.xfers ++
        [{ id := id, core := c, put := true, off := o, cm := cm, lines := n, cc := cc, tAt := s.plane.cycle,
           tAtR := s.plane.cycle + 1, pc := k.pc }] } }) ∧
    (wafer.toNat < gradeWt s → x % 2 ^ 23 + (pages.toNat + 1) ≤ 8388608 →
      let w : WldCmd := { core := c, pcl := pclOf c, wafer := wafer.toNat, page := x % 2 ^ 23, left := pages.toNat + 1, cc := cc,
                          tAt := s.plane.cycle, pc := k.pc }
      let on := (portWlds s (pclOf c) wafer.toNat).length
      (on < 448 → exec (.wld c gd wafer g pages cc) s = .next { s with plane := { s.plane with wlds := insertWld w s.plane.wlds } }) ∧
      ((∀ y ∈ s.plane.wlds, y.tAt < s.plane.cycle) → insertWld w s.plane.wlds = s.plane.wlds ++ [w] ∧
        (on = 448 → exec (.wld c gd wafer g pages cc) s = .next (Detected s c 6 .M)))) ∧
    exec (.wdrop c gd grs) s = .next (s.setCore c { k with drops := k.drops ++ [(s.plane.cycle + 1, grs.toNat + 1)] }) ∧
    (addrUnit ad = 0x20 → o + 64 * kn ≤ 0x1800000 → area ≠ 3 → kvRunBad s c area.toNat kad (64 * kn) true = false →
      (s.plane.kvs.filter fun y => y.path == path).length < 128 →
      exec (.kvst c gd area g a klines cc 0) s = .next { s with plane := { s.plane with nextId := id + 1, kvs := insertKv (kv true) s.plane.kvs } }) ∧
    (addrUnit ad = 0x20 → o + 64 * kn ≤ 0x1800000 → area ≠ 3 → kvRunBad s c area.toNat kad (64 * kn) false = false →
      (s.plane.kvs.filter fun y => y.path == path).length < 128 →
      exec (.kvld c gd area g a klines cc) s = .next { s with plane := { s.plane with nextId := id + 1, kvs := insertKv (kv false) s.plane.kvs } }) ∧
    (addrUnit ad = 0x3F → o + 64 * n ≤ 0x180000 →
      exec (.hput c gd a 1 cc lines) s = .next { s with plane := { s.plane with nextId := id + 1, hputs := s.plane.hputs ++
        [{ id := id, core := c, off := o, kind := 1, lines := n, cc := cc, pc := k.pc,
           tAt := s.plane.cycle }] } })

/-- A cget reads its next line of cluster memory when the line's bank is free, and the line reaches port A 8 cycles later,
where it becomes a write of the scratchpad in the first cycle that grants its bank. The transfer counts once on the issuing
core when its last line has been written, no sooner than 9 + lines cycles after its issue; before that its completion does
nothing (R88, R101, R102, R127). -/
def Sys2Proof.Safety.ClusterTransfers : Prop :=
  (∀ (s : State) (x : Xfer) (r : List Xfer), coresOk s = true → s.plane.xfers = x :: r → x.core < nCores →
      (s.plane.cycle < x.tAt + 9 + x.lines ∨ x.wrote < x.lines → exec (.clusterTransferComplete x.id) s = .next s) ∧
      (x.tAt + 9 + x.lines ≤ s.plane.cycle → x.lines ≤ x.wrote → s.plane.progRun = true →
        (s.core x.core).ccGet x.cc.toNat ≠ 0xFFFFFFFF →
        ∃ t, exec (.clusterTransferComplete x.id) s = .next t ∧ t.plane.sram = s.plane.sram ∧
          ((t.core x.core).ccGet x.cc.toNat).toNat = ((s.core x.core).ccGet x.cc.toNat).toNat + 1 ∧
          (t.core x.core).g = (s.core x.core).g ∧ t.kv = s.kv ∧ t.hub = s.hub ∧ ∀ y ∈ t.plane.xfers, y.id ≠ x.id)) ∧
  (∀ (s : State) (u u1 : PortUse) (x : Xfer), coresOk s = true → s.plane.sramErr = [] → s.plane.xfers = [x] → x.put = false →
      x.tm = 0 →
      (x.reads < x.lines → x.tAtR ≤ s.plane.cycle → useCm u (pclOf x.core) (x.cm + 64 * x.reads) 64 = some u1 →
        cgetRead (s, u) x.core = ({ s with plane := { s.plane with xfers := [{ x with
          reads := x.reads + 1, tAtR := s.plane.cycle + 1
          path := x.path ++ [(s.plane.cycle + 8, s.sramGet (cmAddr (pclOf x.core) (x.cm + 64 * x.reads)) 64)] }] } }, u1)) ∧
      (x.reads < x.lines → useCm u (pclOf x.core) (x.cm + 64 * x.reads) 64 = none → cgetRead (s, u) x.core = (s, u)) ∧
      (∀ n d l, x.path = (n, d) :: l → n ≤ s.plane.cycle →
        let o := x.off + 64 * x.wrote
        ((s.core x.core).aBusy.contains (bankOf o) = true → cgetWrite s x.core = s) ∧
        ((s.core x.core).aBusy.contains (bankOf o) = false →
          let t := cgetWrite s x.core
          t.plane.xfers = [{ x with wrote := x.wrote + 1, path := l }] ∧ t.plane.sram = s.plane.sram ∧
          (t.core x.core).stores = (s.core x.core).stores ++ [{ tAt := s.plane.cycle, off := o, data := d, pc := x.pc.toNat }])))

/-- A kvld, kvst or hput moves one line of its plane side a cycle, each when its port serves it. When every line has moved, a
kvld completion copies the run out of KV storage, a kvst completion stores the lines read, and an hput completion gives its
block to the hub; each counts once on the issuing core, and after a stop in JS_LATE instead. Before that a completion does
nothing (R130, R133, R216, R331, R490). -/
def Sys2Proof.Safety.LinesMoveAndComplete : Prop :=
  (∀ (s : State) (x : KvCmd) (r : List KvCmd), memOk s = true → coresOk s = true → s.plane.kvs = x :: r → x.core < nCores →
      s.plane.sramErr = [] → x.cmem = true → x.qm = 0 → 0 < gradeKv s →
      let here := cmAddr (pclOf x.core) x.off
      (x.moved < x.lines → exec (.kvldComplete x.id 0 []) s = .next s ∧ exec (.kvstComplete x.id {}) s = .next s) ∧
      (x.store = false → x.lines ≤ x.moved → s.plane.progRun = true → (s.core x.core).ccGet x.cc.toNat ≠ 0xFFFFFFFF →
        ∃ t, exec (.kvldComplete x.id 0 []) s = .next t ∧
          (∀ j, j < 64 * x.lines → mget t.plane.sram (here + j) = byteAt (kvRunRead s x.area x.addr (64 * x.lines)) j) ∧
          (∀ b, b < here ∨ here + 64 * x.lines ≤ b → mget t.plane.sram b = mget s.plane.sram b) ∧
          ((t.core x.core).ccGet x.cc.toNat).toNat = ((s.core x.core).ccGet x.cc.toNat).toNat + 1 ∧ t.kv.mem = s.kv.mem) ∧
      (x.store = true → x.lines ≤ x.moved → s.plane.progRun = false →
        ∃ t, exec (.kvstComplete x.id {}) s = .next t ∧ t.plane.sram = s.plane.sram ∧ t.plane.cores = s.plane.cores ∧
          t.kv.mem = (kvWriteAll s x.area x.addr x.buf).kv.mem ∧
          t.plane.lateKv = min 65535 (s.plane.lateKv + 1))) ∧
  (∀ (s : State) (u u1 : PortUse) (x : KvCmd), s.plane.kvs = [x] → s.plane.sramErr = [] → x.tAt < s.plane.cycle →
      x.moved < x.lines → x.store = true → x.cmem = false →
      let o := x.off + 64 * x.moved
      (useB u x.core = some u1 → kvLine (s, u) x = ({ s with plane := { s.plane with
        kvs := [{ x with moved := x.moved + 1, buf := x.buf ++ s.sramGet (spmAddr x.core o) 64 }] } }, u1)) ∧
      (useB u x.core = none → kvLine (s, u) x = (s, u))) ∧
  (∀ (s : State) (x : HputCmd) (r : List HputCmd), s.plane.hputs = x :: r → coresOk s = true →
      s.plane.progRun = true → (s.core x.core).ccGet x.cc.toNat ≠ 0xFFFFFFFF →
      let d := x.buf
      (x.moved < x.lines → exec (.hputAccept x.id) s = .next s) ∧
      (x.lines ≤ x.moved → ∃ t, exec (.hputAccept x.id) s = .next t ∧ t.plane.sram = s.plane.sram ∧
        ((t.core x.core).ccGet x.cc.toNat).toNat = ((s.core x.core).ccGet x.cc.toNat).toNat + 1 ∧
        (x.lines ≠ 9 → t.hub = { s.hub with dropCand := min 65535 (s.hub.dropCand + 1) }) ∧
        (x.lines = 9 → candWanted s (leAt d 0 2) (leAt d 2 2) = true →
          t.hub = { s.hub with cands := addCand d (leAt d 0 2) (leAt d 2 2) s.hub.cands })))

/-- A kvld, kvst or hput moves one line of its plane side a cycle, each when its port serves it. When every line has moved, a kvld
completion copies the run out of KV storage, a kvst completion stores the lines read, and an hput completion gives its block to
the hub; each counts once on the issuing core, and after a stop in JS_LATE instead. Before that a completion does nothing (R130,
R133, R216, R331, R490). A cget reads its next line of cluster memory when the line's bank is free, and the line reaches port A 8
cycles later, where it becomes a write of the scratchpad in the first cycle that grants its bank. The transfer counts once on the
issuing core when its last line has been written, no sooner than 9 + lines cycles after its issue; before that its completion does
nothing (R88, R101, R102, R127). -/
def Obligations.TransfersComplete : Prop :=
  LinesMoveAndComplete ∧ ClusterTransfers

/-- A command that a port starts fixes the places of its pages (R252). Its next page enters the core's weight FIFO in
ring order, its granules are marked arrived, the command goes on to its next page, no sooner than 8 cycles later, and the
counter rises by 1; the scratchpads and the registers stay. With no credit, or before the interval is over, nothing happens
(R98, R128, R211, R248, R249). -/
def Obligations.WeightPageArrives : Prop :=
  (∀ (s : State) (x : WldCmd), s.plane.wlds = [x] → x.places = [] →
      (startWlds s x.pcl x.wafer).plane.wlds =
        [{ x with places := (List.range x.left).map fun i => pagePlace s x.pcl x.wafer (x.page + i) }]) ∧
  (∀ (s : State) (x : WldCmd) (place : Nat) (ps : List Nat), memOk s = true → coresOk s = true → s.plane.wlds = [x] →
      x.places = place :: ps → ps.length + 1 = x.left → x.core < nCores → x.retry = none →
      let k := s.core x.core
      let d := pageRead s place
      (fifoCredit k = false ∨ s.plane.cycle < x.nextAt → exec (.weightPageArrival x.pcl x.wafer 0 {}) s = .next s) ∧
      (fifoCredit k = true → x.tAt < s.plane.cycle → x.nextAt ≤ s.plane.cycle → s.plane.progRun = true →
        k.ccGet x.cc.toNat ≠ 0xFFFFFFFF → k.fill < 512 →
        ∃ t, exec (.weightPageArrival x.pcl x.wafer 0 {}) s = .next t ∧
          (∀ i, i < 32 → t.sramGet (fifoAddr x.core (128 * ((k.fill + i) % 512))) 128 = (d.drop (128 * i)).take 128 ∧
            tget false (t.core x.core).arrived ((k.fill + i) % 512) = true) ∧
          (t.core x.core).fill = (k.fill + 32) % 512 ∧ (t.core x.core).take = k.take ∧ (t.core x.core).g = k.g ∧
          ((t.core x.core).ccGet x.cc.toNat).toNat = (k.ccGet x.cc.toNat).toNat + 1 ∧
          (∀ b, b < 2 ^ 36 → mget t.plane.sram b = mget s.plane.sram b) ∧
          t.plane.wlds = (if x.left ≤ 1 then []
            else [{ x with page := x.page + 1, left := x.left - 1, places := ps, nextAt := s.plane.cycle + 8 }])))

/-- A drain entry due to the scratchpad asks for its banks, and in the first cycle in which they are free it becomes a store
of that cycle; one for the vector unit stands available to it; before the cycle after its conversion nothing happens. The
oldest correction operation ends at its time, once everything it takes has been read. Each counts once on its core
(R77, R88, R153). -/
def Obligations.DrainsAndCorrectionsEnd : Prop :=
  ∀ (s : State) (c : Nat) (arr : BitVec 2), c < nCores → coresOk s = true →
    let k := s.core c
    let q := (k.arr arr.toNat).queue
    (∀ e r, q = e :: r → e.avail = false → e.req = false →
      (s.plane.cycle ≤ e.tAt → exec (.drainWrite c arr) s = .next s) ∧
      (e.tAt < s.plane.cycle → e.dst = true → s.plane.progRun = true → k.ccGet e.cc.toNat ≠ 0xFFFFFFFF →
        ∃ t, exec (.drainWrite c arr) s = .next t ∧
          ((t.core c).arr arr.toNat).queue.head? = some { e with avail := true } ∧ (t.core c).stores = k.stores ∧
          ((t.core c).ccGet e.cc.toNat).toNat = (k.ccGet e.cc.toNat).toNat + 1 ∧ t.plane.sram = s.plane.sram) ∧
      (e.tAt < s.plane.cycle → e.dst = false →
        ∃ t, exec (.drainWrite c arr) s = .next t ∧
          ((t.core c).arr arr.toNat).queue.head? = some { e with req := true } ∧ (t.core c).stores = k.stores ∧
          (t.core c).cc = k.cc ∧ t.plane.sram = s.plane.sram)) ∧
    (∀ e r, q = e :: r → e.req = true → e.tAt < s.plane.cycle →
      (meets k.aBusy (runBanks e.addr e.data.length) = true → drainWrite s c arr.toNat = s) ∧
      (meets k.aBusy (runBanks e.addr e.data.length) = false → s.plane.progRun = true → k.ccGet e.cc.toNat ≠ 0xFFFFFFFF →
        let t := drainWrite s c arr.toNat
        ((t.core c).arr arr.toNat).queue = r ∧
        (t.core c).stores = k.stores ++ [{ tAt := s.plane.cycle, off := e.addr, data := e.data, pc := e.pc, drn := true }] ∧
        ((t.core c).ccGet e.cc.toNat).toNat = (k.ccGet e.cc.toNat).toNat + 1 ∧ t.plane.sram = s.plane.sram)) ∧
    (∀ e r, k.corr = e :: r →
      (e.begun = false ∨ s.plane.cycle < e.fin ∨ e.reads ≠ [] ∨ e.grans ≠ 0 → exec (.correctionOpEnd c) s = .next s) ∧
      (e.begun = true → e.fin ≤ s.plane.cycle → e.reads = [] → e.grans = 0 → s.plane.progRun = true →
        k.ccGet e.cc.toNat ≠ 0xFFFFFFFF →
        ∃ t, exec (.correctionOpEnd c) s = .next t ∧ (t.core c).corr = r ∧ (t.core c).rank = (corrResult k e).rank ∧
          (t.core c).res = (corrResult k e).res ∧ (t.core c).g = k.g ∧ (t.core c).v = k.v ∧ t.plane.sram = s.plane.sram ∧
          ((t.core c).ccGet e.cc.toNat).toNat = (k.ccGet e.cc.toNat).toNat + 1))

/-! ### Jetstream (chapter 06) -/

/-- send and get inject one packet with the register pair as its header, the length and the core's send count written
over their fields; the send count and the packet count rise by 1, and registers and memory stay. A header refused by R177
raises its class instead, with the header in the record (R134, R137, R175, R177). -/
def Obligations.PacketsAreSent : Prop :=
  ∀ (s : State) (c : Nat) (gd : Guard) (a : BitVec 4) (gH gR : BitVec 5) (flits : BitVec 4), Issues s c gd → coresOk s = true →
    gH.toNat % 2 = 0 → gR.toNat % 2 = 0 →
    let k := s.core c
    let ad := k.aGet a.toNat
    let o := addrOff ad / 256 * 256
    let h := wireHdr k gH flits.toNat
    let pair : BitVec 128 := k.gGet (gH.toNat + 1) ++ k.gGet gH.toNat
    let rep := hSet (wireHdr k gR flits.toNat) 111 110 2
    hLen h = flits.toNat ∧ hSeq h = k.sendCnt.toNat ∧ h.extractLsb' 80 48 = pair.extractLsb' 80 48 ∧
    h.extractLsb' 0 48 = pair.extractLsb' 0 48 ∧
    (addrUnit ad = 0x3F → o + 256 * (flits.toNat + 1) ≤ 0x180000 → hdrFault s h false false = none →
      ∃ t, exec (.send c gd a gH flits 0 false) s = .next t ∧
        t.plane.packets = s.plane.packets ++
          [{ id := s.plane.nextId, hdr := h, n := flits.toNat + 1, loc := .router (pclOf c) 0, t := s.plane.cycle + 3, src := c,
             pay := some s.plane.nextId }] ∧
        t.plane.pays = s.plane.pays ++
          [{ id := s.plane.nextId, hdr := h, n := flits.toNat + 1, sa := some (spmAddr c o), core := some c,
             issued := s.plane.cycle }] ∧
        t.core c = { k with sendCnt := k.sendCnt + 1 } ∧ t.plane.sram = s.plane.sram ∧
        t.plane.packetCnt = min (2 ^ 32 - 1) (s.plane.packetCnt + 1)) ∧
    (hdrFault s h true false = none → hdrFault s rep false true = none →
      ∃ t, exec (.get c gd gH gR flits 0 false) s = .next t ∧
        t.plane.packets = s.plane.packets ++
          [{ id := s.plane.nextId, hdr := h, n := 1, reply := rep, loc := .router (pclOf c) 0, t := s.plane.cycle + 3,
             src := c }] ∧
        t.plane.pays = s.plane.pays ∧ t.core c = { k with sendCnt := k.sendCnt + 1 } ∧ t.plane.sram = s.plane.sram) ∧
    (∀ cls, addrUnit ad = 0x3F → o + 256 * (flits.toNat + 1) ≤ 0x180000 → hdrFault s h false false = some cls →
      exec (.send c gd a gH flits 0 false) s = .next (s.raise { coreRep s c cls .M k.pc.toNat with hdr0 := h }))

/-- A unicast header at a router waits for its cycle; then a straight turn takes it to the next cluster of the field two
cycles later, and a turn that ejects it at its own cluster leaves it to be delivered. At a gateway an arrive entry puts it
at the lane's router after the entry's added delay. A header in flight changes no core and no memory (R178-R183, R187). -/
def Obligations.PacketsTravel : Prop :=
  ∀ (s : State) (p : Packet) (r : List Packet) (pcl port : Nat), s.plane.packets = p :: r → s.plane.resvs = [] →
    s.jet.tblErr = [] → isUnicast p.hdr = true → p.waits = false →
    (p.loc = .router pcl port → s.plane.cycle < p.t → exec (.routerHop p.id) s = .next s) ∧
    (p.loc = .router pcl port → p.t ≤ s.plane.cycle → 1 ≤ port → p.turn < hTcnt p.hdr → hTurn p.hdr p.turn = 0 →
      ∀ c', clusterBeyond (pcl % 12) p.dir = some c' →
      ∃ t, exec (.routerHop p.id) s = .next t ∧ t.plane.cores = s.plane.cores ∧ t.plane.sram = s.plane.sram ∧
        findPkt t p.id = some
          { p with turn := p.turn + 1, loc := .router (12 * (pcl / 12) + c') (opposite p.dir + 1), t := p.t + 2 }) ∧
    (p.loc = .router pcl port → p.t ≤ s.plane.cycle → 1 ≤ port → p.turn < hTcnt p.hdr → hTurn p.hdr p.turn = 3 →
      lfieldOf s (pcl / 12) = some (hField p.hdr) → pcl % 12 = hCluster p.hdr → hField p.hdr < progF s →
      ∃ t, exec (.routerHop p.id) s = .next t ∧ t.plane.cores = s.plane.cores ∧ t.plane.sram = s.plane.sram ∧
        findPkt t p.id = some { p with turn := p.turn + 1, loc := .deliver pcl }) ∧
    (∀ pf side lane c', p.loc = .gate pf side lane → p.t ≤ s.plane.cycle → hField p.hdr < progF s → lane < 3 →
      clusterAt side lane = some c' → bypassed s pf = false →
      let e := (tget 0 s.jet.gwUni (64 * (4 * pf + side) + hField p.hdr)).toNat
      bits e 31 29 = 5 →
      ∃ t, exec (.gatewayLookup p.id) s = .next t ∧ t.plane.cores = s.plane.cores ∧ t.plane.sram = s.plane.sram ∧
        findPkt t p.id = some
          { p with loc := .router (12 * pf + c') (side + 1), t := p.t + bits e 24 17, dir := opposite side })

/-- A flit of a delivery is written to the run its header names, through port B of the core, in the first cycle from u + 2 + k
on that port B serves it; into a code region it raises the squall of class 04h instead. When all are written the packet counts
once on the destination core and leaves the network. A get request becomes a reply that carries the request's length and enters
the remote router at u + 4 (R90, R136, R137, R176, R197). -/
def Sys2Proof.Safety.DeliveriesAndReplies : Prop :=
  ∀ (s : State) (u : PortUse) (p : Packet) (r : List Packet) (pcl q : Nat), coresOk s = true → s.plane.packets = p :: r →
    p.loc = .deliver pcl → hUnit p.hdr < 28 → pcoreOf s pcl (hUnit p.hdr) = some q →
    let c := 32 * pcl + q
    let off := hOff p.hdr + 256 * p.written
    (hKind p.hdr ≠ 1 → p.written < p.n → s.plane.cycle < p.t + 2 + p.written → deliverFlit (s, u) p = (s, u)) ∧
    (hKind p.hdr ≠ 1 → p.written < p.n → p.t + 2 + p.written ≤ s.plane.cycle → p.written < (flitsOf s p).length →
      (runInCode s off 256 = true →
        deliverFlit (s, u) p = (dropPkt (s.raise { coreRep s ((countCore s pcl p.hdr).getD (32 * pcl)) 4 .M 0 with hdr0 := p.hdr }) p.id, u)) ∧
      (runInCode s off 256 = false → u.cores.contains c = true → deliverFlit (s, u) p = (s, u)) ∧
      (runInCode s off 256 = false → u.cores.contains c = false →
        deliverFlit (s, u) p = (putPkt s { p with written := p.written + 1 },
          { u with cores := c :: u.cores, writes := u.writes ++
              [{ addr := spmAddr c off, data := leBytes 256 ((flitsOf s p).getD p.written 0).toNat }] }))) ∧
    (hKind p.hdr ≠ 1 → s.plane.cycle < p.t + 2 + p.n ∨ p.written < p.n → exec (.packetDelivery p.id) s = .next s) ∧
    (hKind p.hdr ≠ 1 → p.t + 2 + p.n ≤ s.plane.cycle → p.n ≤ p.written → s.plane.progRun = true →
      (s.core c).ccGet (hDcc p.hdr) ≠ 0xFFFFFFFF →
      ∃ t, exec (.packetDelivery p.id) s = .next t ∧ t.plane.sram = s.plane.sram ∧
        ((t.core c).ccGet (hDcc p.hdr)).toNat = ((s.core c).ccGet (hDcc p.hdr)).toNat + 1 ∧ findPkt t p.id = none) ∧
    (hKind p.hdr = 1 → p.t ≤ s.plane.cycle →
      ∃ t x, exec (.getReply p.id) s = .next t ∧ findPkt t p.id = some x ∧ x.loc = .router pcl 0 ∧ x.t = p.t + 4 ∧
        hKind x.hdr = 2 ∧ hLen x.hdr = hLen p.hdr ∧ x.n = hLen p.hdr + 1 ∧ hDcc x.hdr = hDcc p.reply ∧
        x.pay = some p.id ∧ t.plane.pays = s.plane.pays ++
          [{ id := p.id, hdr := x.hdr, n := hLen p.hdr + 1, sa := some (spmAddr c (hOff p.hdr)), core := some c, issued := p.t + 1 }] ∧
        t.plane.sram = s.plane.sram ∧ t.plane.cores = s.plane.cores)

/-- A flit of a send or reply is read through port B in its cycle, and in the first later one that port B serves it: a
refused read delays the rest by a cycle. A write of port B stands in the memories at the end of the cycle (R90, R91, R135,
R198). -/
def Sys2Proof.Safety.PortBServesOneGroup : Prop :=
  (∀ (s : State) (u : PortUse) (y : Payload) (c a : Nat), y.core = some c → y.win = none → y.sa = some a → y.lc = none → y.parts = [] →
      y.flits.length < y.n → s.plane.sramErr = [] →
      (s.plane.cycle < y.issued + 1 + y.flits.length → payStep (s, u) y = (s, u)) ∧
      (y.issued + 1 + y.flits.length ≤ s.plane.cycle →
        (u.cores.contains c = true → payStep (s, u) y = (delayPay s y, u)) ∧
        (u.cores.contains c = false →
          payStep (s, u) y =
            (setPay s { y with flits := y.flits ++ [packBv 2048 (s.sramGet (a + 256 * y.flits.length) 256)] },
              { u with cores := c :: u.cores })))) ∧
  (∀ (s : State) (w : PortWrite), s.plane.sramErr = [] → w.win = none →
      makeWrite s w = { s with plane := { s.plane with sram := mwrite s.plane.sram w.addr w.data } })

/-- A flit of a delivery is written to the run its header names, through port B of the core, in the first cycle from u + 2 + k on that
port B serves it; into a code region it raises the squall of class 04h instead. When all are written the packet counts once on the
destination core and leaves the network. A get request becomes a reply that carries the request's length and enters the remote
router at u + 4 (R90, R136, R137, R176, R197). A flit of a send or reply is read through port B in its cycle, and in the first
later one that port B serves it: a refused read delays the rest by a cycle. A write of port B stands in the memories at the end of
the cycle (R90, R91, R135, R198). -/
def Obligations.PacketsAreDelivered : Prop :=
  DeliveriesAndReplies ∧ PortBServesOneGroup

/-- Two packets of one tree that meet at a combining router and agree in their headers leave as one packet, one cycle later
than a forwarded packet, whose flit lanes are the FP32 sums of theirs; headers that differ raise the reduction squall, class
08h, and both packets are lost (R191-R193). -/
def Obligations.ReductionsCombine : Prop :=
  (∀ (s : State) (p q : Packet) (pcl i j : Nat), s.plane.packets = [p, q] → p.id ≠ q.id → pcl < 576 → s.plane.resvs = [] →
    p.loc = .router pcl i → q.loc = .router pcl j → p.t = q.t → p.t ≤ s.plane.cycle →
    let tr := hTree p.hdr
    let e := treeEntry s pcl tr
    hTree q.hdr = tr → hOp p.hdr ≠ 0 → hOp q.hdr ≠ 0 → isUnicast p.hdr = false →
    bits e 31 30 = 3 → portsOf (bits e 24 20) = [i, j] → portsOf (bits e 29 25) = [0] →
    (sameReduce p.hdr q.hdr = true → lfieldOf s (pcl / 12) = some (hField p.hdr) → pcl % 12 = hCluster p.hdr →
      hField p.hdr < progF s →
      ∃ t x, exec (.reduceCombine pcl tr) s = .next t ∧ t.plane.packets = [x] ∧ x.hdr = p.hdr ∧ x.n = p.n ∧
        x.loc = .deliver pcl ∧ x.t = p.t + 1 ∧ x.pay = some s.plane.nextId ∧ t.plane.sram = s.plane.sram ∧
        t.plane.cores = s.plane.cores ∧ t.plane.pays = s.plane.pays ++
          [{ id := s.plane.nextId, hdr := p.hdr, n := p.n, parts := [p, q].filterMap (·.pay) }]) ∧
    (sameReduce p.hdr q.hdr = false → s.plane.progRun = true →
      ∃ t f, exec (.reduceCombine pcl tr) s = .next t ∧ t.plane.packets = [] ∧ t.plane.faults = s.plane.faults ++ [f] ∧
        f.cls = 8 ∧ f.unit = 2 ∧ f.hdr0 = p.hdr ∧ f.hdr1 = q.hdr ∧ t.plane.sram = s.plane.sram)) ∧
  (∀ (s : State) (a b y : Payload) (f g : BitVec 2048), s.plane.pays = [a, b, y] → a.id ≠ b.id → a.id ≠ y.id → b.id ≠ y.id →
    a.flits = [f] → b.flits = [g] → y.n = 1 → y.parts = [a.id, b.id] → hOp y.hdr = 1 → hFmt y.hdr = false →
    ∃ v, (formFlits s y).plane.pays = [a, b, { y with flits := [v] }] ∧
      ∀ l, l < 64 → lane32 v l = fpAdd (lane32 f l) (lane32 g l))

/-! ### Squalls (R204, R239, R240) -/

/-- A squall stops the plane 63 cycles after its cycle: every core of the program is stopped with its registers and
counters kept, memories stay, the record names the fault, a running program is stopped, and vector 2 of function 0 is raised;
before that nothing happens. A transit fault is a squall of class 0Eh and fences its field. -/
def Obligations.SquallsStopThePlane : Prop :=
  (∀ (s : State) (f : FaultRep), coresOk s = true → s.plane.progRun = true → s.plane.faults = [f] → s.ldr.waitFront = false →
    (s.plane.cycle < f.cycle + 63 → exec .squallStop s = .next s) ∧
    (f.cycle + 63 ≤ s.plane.cycle → ∃ t, exec .squallStop s = .next t ∧
      t.plane.progRun = false ∧ t.plane.faults = [] ∧ t.plane.sram = s.plane.sram ∧ t.kv.mem = s.kv.mem ∧ t.wst.mem = s.wst.mem ∧
      t.bg.sqVld = true ∧ t.bg.sqOvw = s.bg.sqVld ∧ t.bg.sqCls = f.cls ∧ t.bg.sqRec = f ∧ t.bg.sqSame = 0 ∧ t.bg.sqLater = 0 ∧
      (s.ldr.state = 8 → t.ldr.state = 10) ∧ t.out.getLast? = some (.msix 0 2) ∧
      ∀ c, (s.core c).role ≠ none → (t.core c).issue = .stopped ∧ (t.core c).g = (s.core c).g ∧ (t.core c).v = (s.core c).v ∧
        (t.core c).cc = (s.core c).cc ∧ (t.core c).pc = (s.core c).pc)) ∧
  (∀ (s : State) (pf : Nat), pf < 48 → s.plane.progRun = true → fieldState s pf = 0 →
    ∃ t f, exec (.transitFault pf) s = .next t ∧ t.plane.faults = s.plane.faults ++ [f] ∧ f.cls = 0xE ∧ f.pfield = pf ∧
      tget 0 t.bg.fieldSt pf = 1 ∧ (∀ k, k < 12 → tget 0 t.bg.badMask (12 * pf + k) = 0xFFFFFFFF#32) ∧
      t.bg.recSeq = s.bg.recSeq + 1 ∧ t.plane.sram = s.plane.sram ∧ t.plane.cores = s.plane.cores)

/-! ### The load (chapter 08) -/

/-- A load starts at once with no program running and waits for the step front with one; an abort, a failed read, a bad
format or signature and a failed check end it with their fault codes; else it goes from pass 1 to verification, check and map
(R225, R227, R237). -/
def Obligations.LoadsAreChecked : Prop :=
  ∀ (s : State),
    (s.bg.ready = true → s.ldr.start = false → s.ldr.state ≠ 8 → ∃ t, exec .loadStart s = .next t ∧
      t.ldr.state = 1 ∧ t.ldr.start = true ∧ t.plane.progRun = false ∧ t.plane.sram = s.plane.sram ∧ t.kv.mem = s.kv.mem) ∧
    (s.bg.ready = true → s.ldr.start = false → s.ldr.state = 8 →
      exec .loadStart s = .next { s with ldr := { s.ldr with start := true, waitFront := true } }) ∧
    (s.bg.ready = false ∨ s.ldr.start = true → exec .loadStart s = .next s) ∧
    (1 ≤ s.ldr.state → s.ldr.state ≤ 7 → ∃ t, exec .loadAbort s = .next t ∧ LoadEnds s t 0x11 ∧ t.ldr.fA = s.ldr.state) ∧
    (8 ≤ s.ldr.state ∨ s.ldr.state = 0 → exec .loadAbort s = .next s) ∧
    (s.ldr.state = 1 → s.pwr.state = 5 →
      (∀ f, ∃ t, exec (.loadPass1 (.failed f)) s = .next t ∧ LoadEnds s t 0x10 ∧ t.ldr.fA = 1 ∧ t.ldr.fB = f / 4096 % 2 ^ 32) ∧
      (∀ m a b, formatFault m = some (a, b) → ∃ t, exec (.loadPass1 (.bytes m)) s = .next t ∧ LoadEnds s t 1) ∧
      (∀ m, formatFault m = none → exec (.loadPass1 (.bytes m)) s =
        .next { s with ldr := { s.ldr with state := 2, image := m, cur := parseImage m } })) ∧
    (s.ldr.state = 2 →
      (edOk s s.ldr.image = true → mlOk s s.ldr.image = true →
        exec .loadVerify s = .next { s with ldr := { s.ldr with state := 3 } }) ∧
      (edOk s s.ldr.image = false → ∃ t, exec .loadVerify s = .next t ∧ LoadEnds s t 2 ∧ t.ldr.fA = 0)) ∧
    (s.ldr.state = 3 →
      (∀ c a b, checkFault s s.ldr.image s.ldr.cur = some (c, a, b) → ∃ t, exec .loadCheck s = .next t ∧ LoadEnds s t c) ∧
      (checkFault s s.ldr.image s.ldr.cur = none → keepsSeqs s s.ldr.cur = true → exec .loadCheck s = .next { s with ldr := { s.ldr with
        state := 4, bindTo := if bindsNone s.ldr.cur then none else bindSlot s s.ldr.cur } }))

/-- The map state waits for a quiet plane, refuses tables with a bad record and paths that do not keep the conditions of
R186, and else writes the tables of the image and of the paths; pass 2 stores the blocks, each with zeros up to 4,096 bytes, and
an image that changed is fault 0Dh; a cluster's digest is matched or fails; a repair round sends again, and after eight it gives
up with fault 0Ch or 12h; the copy starts every core of the program at its entry in cycle 0 (R108, R186, R227-R232,
R236). -/
def Obligations.LoadsStoreAndStart : Prop :=
  ∀ (s : State), memOk s = true → s.plane.sramErr = [] → s.ldr.hurt = [] →
    let m := s.ldr.image
    let p := s.ldr.cur
    (∀ plan, s.ldr.state = 4 →
      (planeQuiet s = false → exec (.loadMap plan) s = .next s) ∧
      (planeQuiet s = true → ∀ i, tablesFault m p = some i → ∃ t, exec (.loadMap plan) s = .next t ∧ LoadEnds s t 0xB) ∧
      (planeQuiet s = true → tablesFault m p = none → ∀ leg, unroutable s m p plan = some leg →
        ∃ t, exec (.loadMap plan) s = .next t ∧ LoadEnds s t 0xB ∧ t.ldr.fA = leg % 65536) ∧
      (planeQuiet s = true → tablesFault m p = none → unroutable s m p plan = none →
        ∃ t, exec (.loadMap plan) s = .next t ∧ t.ldr.state = 5 ∧ t.ldr.prog = none ∧ t.jet.router = routerTables s m ∧
          t.jet.gwUni = (planGates m plan).gwUni ∧ t.jet.gwTree = (planGates m plan).gwTree ∧
          t.jet.badMask = s.bg.badMask ∧ t.jet.binding = s.jet.binding ∧ t.plane = s.plane)) ∧
    (s.ldr.state = 5 → s.ldr.missing = [] → s.ldr.blocks = 0 →
      (∀ f l, ∃ t, exec (.loadPass2 (.failed f) l) s = .next t ∧ LoadEnds s t 0x10 ∧ t.ldr.fA = 2 ∧ t.ldr.fB = f / 4096 % 2 ^ 32) ∧
      (∀ m' l, bodyDigest m' ≠ p.digest → ∃ t, exec (.loadPass2 (.bytes m') l) s = .next t ∧ LoadEnds s t 0xD) ∧
      (∀ lcl i b a, bodyDigest m = p.digest → blkPairs m p = [(lcl, i)] → (blocksOf m)[i]? = some b →
        blkPlace s m p b lcl = some a → lclAlive s lcl = true →
        let n := min 4096 (unitRoom (blkUnitOff m p b).1 (blkUnitOff m p b).2)
        ∃ t, exec (.loadPass2 (.bytes m) []) s = .next t ∧ t.ldr.missing = [] ∧
          (∀ x, a ≤ x → x < a + n → mget t.plane.sram x = byteAt b.data (x - a)) ∧
          (∀ x, x < a ∨ a + n ≤ x → mget t.plane.sram x = mget s.plane.sram x))) ∧
    (∀ lcl i b, s.ldr.state = 5 → s.ldr.blocks ≠ 0 → s.ldr.missing = [] → s.ldr.checked = [] → s.ldr.bad = [] →
      blkPairs m p = [(lcl, i)] → (blocksOf m)[i]? = some b →
      (sha512 (blkDigest s m p lcl b) = digestEntry m lcl →
        ∃ t, exec (.clusterDigestCheck lcl) s = .next t ∧ t.ldr.checked = [lcl] ∧ t.ldr.state = 7 ∧ t.plane = s.plane) ∧
      (sha512 (blkDigest s m p lcl b) ≠ digestEntry m lcl →
        exec (.clusterDigestCheck lcl) s = .next { s with ldr := { s.ldr with bad := [lcl] } })) ∧
    (∀ lcl i, s.ldr.state = 5 ∨ s.ldr.state = 6 → s.ldr.missing = [(lcl, i)] → s.ldr.bad = [] →
      (s.ldr.rounds < 8 → ∃ t, exec (.resendRound (.bytes m) []) s = .next t ∧ t.ldr.state = 6 ∧
        t.ldr.rounds = s.ldr.rounds + 1 ∧ (lclAlive s lcl = true → t.ldr.missing = [])) ∧
      (8 ≤ s.ldr.rounds → ∃ t, exec (.resendRound (.bytes m) []) s = .next t ∧ t.ldr.state = 9 ∧ t.ldr.fCode = 0x12)) ∧
    (s.ldr.state = 7 → s.ldr.missing = [] → ∃ t, exec .loadCopy s = .next t ∧ t.ldr.state = 8 ∧ t.ldr.prog = some p ∧ t.ldr.start = false ∧
      t.plane.cycle = 0 ∧ t.plane.clockOn = true ∧ t.plane.progRun = true ∧ t.plane.faults = [] ∧
      t.out.getLast? = some (.msix 0 3) ∧
      ∀ c l k r, (progCores s p).filter (fun x => x.1 == c) = [(c, l, k, r)] → t.core c = startCoreState s p l k r)

/-! ### The weight store (chapter 09) -/

/-- Each weight-store command accepted in Run begins at once, checks its slot, and either changes it or ends with its
result code (R264-R266, R269, R273, R274). -/
def Obligations.WeightStoreCommands : Prop :=
  ∀ (s : State), tablesOk s = true → s.wst.busy = false → s.wst.abortReq = false → s.pwr.state = 5 → 0 < gradeWt s →
    let n := s.wst.slot.toNat
    let x := s.wslot n
    let u := wstBegun s
    let v1 := (u 1).setWslot n { st := 1 }
    (x.st = 0 → ∃ t, exec (.install none) s = .next t ∧ WstEnds t 1 n 2 ∧ t.wslot n = {}) ∧
    (2 ≤ x.st → ∃ t, exec (.install none) s = .next t ∧ WstEnds t 1 n 5 ∧ t.wst.slots = s.wst.slots) ∧
    (∀ b bases, x.st = 0 → manResult v1 b = 0 → allocBases v1 (parseManifest b) = some bases →
      ∃ t, exec (.install (some b)) s = .next t ∧ t.wst.busy = true ∧ t.wst.lastCmd = 1 ∧ t.wst.lastSlot = n ∧
        t.wslot n = { st := 2, man := parseManifest b, base := bases } ∧
        t.wst.ctls.length = (parseManifest b).shards.length ∧ t.wst.mem = s.wst.mem) ∧
    (x.st ≠ 4 → ∃ t, exec (.wstResume none) s = .next t ∧ WstEnds t 2 n 5 ∧ t.wst.slots = s.wst.slots) ∧
    (∀ b e, x.st = 4 → manFormatOk b = true → edOk (u 2) b = true → mlOk (u 2) b = true →
      (parseManifest b).instDig = x.man.instDig → x.missing = [e] → e.shard < (withSources x.man (parseManifest b)).shards.length →
      ∃ t, exec (.wstResume (some b)) s = .next t ∧ t.wst.busy = true ∧ (t.wslot n).st = 2 ∧ (t.wslot n).missing = [e] ∧
        t.wst.ctls = [newCtl e.shard [e.slice] (1 == ((withSources x.man (parseManifest b)).shards.getD e.shard {}).nsl)]) ∧
    (∃ t, exec .wstAbort s = .next t ∧ WstEnds t 3 n 5 ∧ t.wst.slots = s.wst.slots) ∧
    (x.st = 3 → x.bound = false → ∃ t, exec .eraseSlot s = .next t ∧ t.wslot n = { x with st := 6 } ∧ t.wst.busy = true) ∧
    (x.st = 3 → x.bound = true → ∃ t, exec .eraseSlot s = .next t ∧ WstEnds t 4 n 6 ∧ t.wst.slots = s.wst.slots) ∧
    (let v := s.wst.rpage.toNat
     (slotOfPage s (bits v 33 24) (bits v 35 34) (bits v 22 0) = none →
       ∃ t, exec .reProvision s = .next t ∧ WstEnds t 5 n 0xB) ∧
     (∀ y rel sh sl, slotOfPage s (bits v 33 24) (bits v 35 34) (bits v 22 0) = some (y, rel) →
       sliceOfPage (s.wslot y).man (bits v 33 24) (bits v 35 34) rel = some (sh, sl) →
       ∃ t, exec .reProvision s = .next t ∧ t.wst.busy = true ∧ t.wst.lastSlot = y ∧
         t.wst.ctls = [newCtl sh [sl] (((s.wslot y).man.shards.getD sh {}).nsl == 1)])) ∧
    (freeSpares s = 0 → s.wst.fenced.contains s.wst.field.toNat = false → s.wst.sub = none →
      ∃ t, exec .substitute s = .next t ∧ WstEnds t 6 n 9) ∧
    (∀ sp rest lost, s.wst.fenced = [s.wst.field.toNat] → s.wst.sub = none → sparesOf s = sp :: rest →
      pfieldOf s s.wst.field.toNat = some lost →
      ∃ t, exec .substitute s = .next t ∧ t.wst.busy = true ∧ t.wst.fenced = [] ∧
        t.wst.subCmd = some s.wst.field.toNat ∧ t.wst.sub = some { lfield := s.wst.field.toNat, lost := lost, spare := sp }) ∧
    (∀ cmd : BitVec 4, cmd = 0 ∨ 7 ≤ cmd.toNat →
      ∃ t, exec (.wstReservedCmd cmd) s = .next t ∧ WstEnds t cmd.toNat n 0xE ∧ t.wst.slots = s.wst.slots)

/-- While an install runs: an abort leaves its slot incomplete with result 0Ch; a slice of the right digest is taken and the
next one follows; a wrong digest or a timeout is fetched again, and the fifth time the shard is given up with result 0Ah; the
completion of an earlier try is late, and counted. An erase that ends empties its slot (R264, R265, R267, R268). -/
def Obligations.WeightStoreSessions : Prop :=
  ∀ (s : State) (k : ShardCtl) (j j2 : Nat) (r : List Nat), tablesOk s = true → s.wst.ctls = [k] → k.st = 0 →
    k.todo = j :: j2 :: r → s.wst.lastCmd = 1 → s.wst.subCmd = none → sessionRuns s = true →
    let n := s.wst.lastSlot
    let x := s.wslot n
    let e := x.man.slices.getD j {}
    x.st = 2 →
    (∃ t, exec .wstAbort s = .next t ∧ WstEnds t 1 n 0xC ∧ (t.wslot n).st = 4) ∧
    (∀ d pages, d.length = e.slen → sha512 d = e.digest → layForm (x.man.shards.getD k.shard {}).form e d = some pages →
      ∃ t, exec (.sliceFetchComplete k.shard ⟨k.refetch, some d⟩) s = .next t ∧
        t.wst.ctls = [{ k with todo := j2 :: r, bytes := k.bytes ++ d }] ∧ t.wst.bytes = s.wst.bytes + 4096 * e.npages ∧
        (t.wslot n).st = 2 ∧ t.plane.sram = s.plane.sram ∧ t.plane.cores = s.plane.cores) ∧
    (∀ att d, att ≠ k.refetch →
      exec (.sliceFetchComplete k.shard ⟨att, d⟩) s = .next (lateDone s (tryOnFabric s k.shard att))) ∧
    (k.refetch < 4 → ∀ d, sha512 d ≠ e.digest →
      ∃ t, exec (.sliceFetchComplete k.shard ⟨k.refetch, some d⟩) s = .next t ∧ t.wst.ctls = [{ k with refetch := k.refetch + 1 }] ∧
        t.wst.mem = s.wst.mem) ∧
    (k.refetch < 4 → ∃ t, exec (.shardFetchTimeout k.shard) s = .next t ∧ t.wst.ctls = [{ k with refetch := k.refetch + 1 }] ∧
      t.wst.mem = s.wst.mem) ∧
    (4 ≤ k.refetch → ∃ t, exec (.shardFetchTimeout k.shard) s = .next t ∧ WstEnds t 1 n 0xA ∧ (t.wslot n).st = 4 ∧
      t.wst.mem = s.wst.mem) ∧
    (∀ m, m < 4 → m ≠ n → (s.wslot m).st = 6 → ∃ t, exec (.slotEraseComplete m) s = .next t ∧ t.wslot m = {} ∧
      t.wslot n = x ∧ t.wst.busy = true)

/-- Remaps wait while a program runs and else take effect at once: each page then stands at its new place, with the
contents of the store unchanged. A scrub in Run or Breeze, on a channel the port lends, reads an installed page: a good one is
only counted, and a weak one moves to a spare page with its content kept (R250-R252, R273). -/
def Sys2Proof.Safety.RemapsAndScrubs : Prop :=
  ∀ (s : State), memOk s = true →
    (s.ldr.state = 8 → exec .remapApply s = .next s) ∧
    (∀ pcl w page place, s.ldr.state ≠ 8 → s.wst.newRemap = [(pageKey pcl w page, place)] →
      ∃ t, exec .remapApply s = .next t ∧ pagePlace t pcl w page = place ∧ t.wst.newRemap = [] ∧ t.wst.mem = s.wst.mem ∧
        t.plane.sram = s.plane.sram) ∧
    (∀ pcl w page l, w < gradeWt s → page < 8388608 → lclOf s pcl = some l → 4 ≤ s.pwr.state → slotOfPage s l w page ≠ none →
      lendsChannel s pcl w = true → s.wst.refreshQ = [] → s.wst.wear = [] →
      (∃ t, exec (.weightScrub w pcl page {}) s = .next t ∧ t.wst.mem = s.wst.mem ∧ t.wst.remap = s.wst.remap ∧
        tget 0 t.wst.reads (pagePlace s pcl w page / 256) = tget 0 s.wst.reads (pagePlace s pcl w page / 256) + 1 ∧
        t.plane = s.plane) ∧
      (tget 0 s.wst.spareUsed (4 * pcl + w) < 131072 →
        ∃ t, exec (.weightScrub w pcl page { weak := true }) s = .next t ∧
          pageRead t (pagePlace t pcl w page) = pageRead s (pagePlace s pcl w page) ∧
          t.wst.refresh = min 65535 (s.wst.refresh + 1) ∧ t.plane.sram = s.plane.sram ∧ t.plane.cores = s.plane.cores))

/-- A waiting field takes the lowest spare when its substitution starts. When the copy ends, the binding names the spare,
every byte of KV storage under the lost field stands under the spare, and no core or plane memory changes (R274, R275,
R312). -/
def Sys2Proof.Safety.SubstitutionsReplaceFields : Prop :=
  ∀ (s : State), memOk s = true →
    (∀ lf lost rest sp sps, s.wst.autoSub = true → s.bg.ready = true → s.wst.sub = none → s.wst.fenced = lf :: rest →
      sparesOf s = sp :: sps → pfieldOf s lf = some lost →
      exec .fieldSubstitutionStart s = .next { s with wst := { s.wst with
        sub := some { lfield := lf, lost := lost, spare := sp }, fenced := rest } }) ∧
    (∀ x, s.wst.sub = some x → s.pwr.state = 5 → loading s = false → s.wst.fenced = [] → s.wst.subCmd = none →
      s.wst.wear = [] → x.lost ≠ x.spare →
      ∃ t, exec (.substitutionCopyEnd {} {}) s = .next t ∧ t.wst.sub = none ∧
        t.jet.binding = s.jet.binding.set x.lfield (some x.spare) ∧ t.plane = s.plane ∧
        ∀ k w a, k < 12 → w < 2 → a < 2 ^ 32 →
          mget t.kv.mem (tileBase (12 * x.spare + k) w + a) = mget s.kv.mem (tileBase (12 * x.lost + k) w + a))

/-- Remaps wait while a program runs and else take effect at once: each page then stands at its new place, with the contents of the
store unchanged. A scrub in Run or Breeze, on a channel the port lends, reads an installed page: a good one is only counted, and a
weak one moves to a spare page with its content kept (R250-R252, R273). A waiting field takes the lowest spare when its
substitution starts. When the copy ends, the binding names the spare, every byte of KV storage under the lost field stands under
the spare, and no core or plane memory changes (R274, R275, R312). -/
def Obligations.PagesAndSubstitutions : Prop :=
  RemapsAndScrubs ∧ SubstitutionsReplaceFields

/-! ### The KV store (chapter 10) -/

/-- An apply that fails its checks only sets the result; one that passes puts the written registers in force with every
prefix entry and adapter slot free. A patrol scrub counts a corrected line, and a good line changes nothing (R281, R282). -/
def Obligations.KvStoreCommands : Prop :=
  ∀ (s : State),
    (kvResult s (writtenKv s) ≠ 0 →
      exec .kvApply s = .next { s with kv := { s.kv with result := kvResult s (writtenKv s) } }) ∧
    (kvResult s (writtenKv s) = 0 → ∃ t, exec .kvApply s = .next t ∧ t.kv.app = writtenKv s ∧ t.kv.result = 0 ∧ t.kv.pfx = [] ∧
      t.hub.adps = [] ∧ t.hub.slots = s.hub.slots ∧ (0 < gradeKv s → t.plane = s.plane)) ∧
    (s.ldr.state = 8 → kvResult s (writtenKv s) = 1) ∧
    (∀ line, line < 1152 * 2 ^ 26 → line * 64 / 2 ^ 32 % 2 < gradeKv s → 4 ≤ s.pwr.state →
      exec (.kvPatrolScrub line 0) s = .next s ∧
      exec (.kvPatrolScrub line 1) s = .next { s with kv := { s.kv with corr := min (2 ^ 32 - 1) (s.kv.corr + 1) } })

/-! ### The hub: ticks, boundaries and requests (chapter 11) -/

/-- Engine time moves by its tick and the gauges by theirs, neither while the engine is off; a boundary commits the step once and only
at the step front; an adapter copy ends as its digest says (R314, R315, R323, R328, R339). -/
def Obligations.TicksAndBoundaries : Prop :=
  ∀ (s : State), tablesOk s = true →
    (s.pwr.off = true → exec .arrivalTick s = .next s ∧ exec .gaugeTick s = .next s) ∧
    (s.pwr.off = false → (s.hub.queue.all fun r => reqCmd r.entry != 6) = true → s.bg.virRetryAt = none →
      Does .arrivalTick s fun t => t.hub.time = s.hub.time + 1 ∧ t.hub.fresh = [] ∧
        t.hub.ptr = (if 1 < s.hub.fresh.length then (s.hub.ptr + 1) % 256 else s.hub.ptr) ∧ t.hub.queue = s.hub.queue ∧
        t.tenants = s.tenants ∧ t.plane = s.plane) ∧
    (s.pwr.off = false → Does .gaugeTick s fun t => t.hub = s.hub ∧ t.plane = s.plane ∧ ∀ n,
      let k := s.tenant n
      let up : Int := min (bits k.gCfg.toNat 63 32 : Int) (k.level + (bits k.gCfg.toNat 31 0 : Int))
      t.tenant n = { k with level := up }) ∧
    (s.running = true → s.pwr.state = 5 → atStepFront s = true → s.hub.committedOk = false →
      Does .stepBoundary s fun t => t.hub.committedOk = true ∧ t.plane.cores = s.plane.cores ∧ t.plane.cycle = s.plane.cycle) ∧
    (s.running = true → s.pwr.state = 5 → s.hub.committedOk = true → exec .stepBoundary s = .next s) ∧
    (s.running = false → s.hub.slots = [] → s.hub.queue = [] → s.hub.adps = [] → s.hub.uploads = [] →
      exec .stepBoundary s = .next { s with hub := { s.hub with parkAll := false } }) ∧
    (∀ k, k < 64 → (s.adp k).st = 1 → (s.adp k).done = false →
      (Does (.adapterLoadComplete k 0) s fun t => t.adp k = { s.adp k with done := true, body := [] } ∧
        t.kv = (kvWriteAll s 2 (k * adpSlotBytes s) (s.adp k).body).kv ∧
        t.plane = (kvWriteAll s 2 (k * adpSlotBytes s) (s.adp k).body).plane) ∧
      (s.hub.uploads = [] → Does (.adapterLoadComplete k 1) s fun t => t.adp k = {} ∧ t.plane = s.plane ∧ t.kv = s.kv))

/-- Each request row of an enabled tenant puts the request in the queue in the order of arrival, with the tick and the rotation's
rank, and does nothing else; a row of a tenant that is not enabled does nothing; an upload is acted on at once: it is
refused for its digest, takes the lowest adapter slot, or is deferred with the reason (R315, R317, R323, R324, R338). -/
def Sys2Proof.Safety.RequestRows : Prop :=
  ∀ (s : State) (t : Nat) (h : HostReq), tablesOk s = true →
    let req (cmd : Nat) : Req := reqOf t { h with entry := rowEntry cmd h.entry }
    let queued (cmd : Nat) : Host.Outcome State Fault Refusal := .next { s with hub := { s.hub with
      queue := insertReq { req cmd with tick := s.now, rank := (t + 256 - s.hub.ptr) % 256 } s.hub.queue
      fresh := if s.hub.fresh.contains t then s.hub.fresh else s.hub.fresh ++ [t] } }
    (tenantEnabled s t = true →
      exec (.startReq t h) s = queued 1 ∧ exec (.continueReq t h) s = queued 2 ∧ exec (.pauseReq t h) s = queued 3 ∧
      exec (.resumeReq t h) s = queued 4 ∧ exec (.cancelReq t h) s = queued 5 ∧ exec (.adapterRelease t h) s = queued 7) ∧
    (tenantEnabled s t = false →
      exec (.startReq t h) s = .next s ∧ exec (.continueReq t h) s = .next s ∧ exec (.pauseReq t h) s = .next s ∧
      exec (.resumeReq t h) s = .next s ∧ exec (.cancelReq t h) s = .next s ∧ exec (.adapterUpload t h) s = .next s ∧
      exec (.adapterRelease t h) s = .next s) ∧
    (∀ m, tenantEnabled s t = true → t < 256 → s.host.hdmOn = false → reqFormatBad (req 6).entry = false →
      reqAdapter (req 6).entry ≠ 0 → h.blk = some m → imageBad m (reqCount (req 6).entry) = false →
      m.length - 128 ≤ adpSlotBytes s →
      let id := reqAdapter (req 6).entry
      let quota := bits (s.tenant t).quota.toNat 6 0
      (sha512 (m.drop 128) ≠ (m.drop 64).take 64 → exec (.adapterUpload t h) s = .next (tagEvent s t 15 2 0 id)) ∧
      (∀ k, sha512 (m.drop 128) = (m.drop 64).take 64 → adpFree s = some k → adpHeld s t < quota →
        Does (.adapterUpload t h) s fun u => (u.adp k).st = 1 ∧ (u.adp k).tenant = t ∧ (u.adp k).id = id ∧
          (u.adp k).body = m.drop 128 ∧ (u.adp k).gen = lastGen s t id % 65535 + 1 ∧ u.plane = s.plane) ∧
      (sha512 (m.drop 128) = (m.drop 64).take 64 → (adpFree s = none ∨ quota ≤ adpHeld s t) →
        Does (.adapterUpload t h) s fun u => u.hub.adps = s.hub.adps ∧ u.plane = s.plane ∧ ∃ x,
          u.hub.uploads = s.hub.uploads ++ [x] ∧ x.tenant = t ∧ x.id = id ∧ x.gen = lastGen s t id % 65535 + 1))

/-- What a boundary does with the requests that wait. Its control step, on each: a resume and a continue of a parked sequence
are acknowledged and stay for the walk; a pause parks; a cancel frees what the sequence had; a stop of the same commit comes
first; a release retires the newest generations of the pair. Its admission walk, on each: it stops without a free slot;
a start is rejected, skipped, or admitted with the lowest free slot and a free region; an acknowledged resume or continue
takes them for its restore (R315, R318, R321, R322, R324, R325, R340). -/
def Sys2Proof.Safety.BoundaryActsOnRequests : Prop :=
  ∀ (s : State) (r : Req), tablesOk s = true → r.tenant < 256 →
    let t := r.tenant
    let tag := reqTag r.entry
    let cmd := reqCmd r.entry
    (s.running = true → s.pwr.state = 5 → atStepFront s = true → s.hub.committedOk = false →
      let x := freeEnded (holdsStep (adoptAdps (controls (commitAll s))) true)
      Does .stepBoundary s fun u => u.hub.queue = (walkList x [] x.hub.queue).1) ∧
    (s.hub.queue = [r] → (controls s).hub.queue = (ctlOne s r).1) ∧
    (reqFormatBad r.entry = false → r.acked = false →
      (∀ p, (cmd = 4 ∨ (cmd = 2 ∧ reqCount r.entry ≠ 0)) → slotOf s t tag = none → recOf s t tag = some p → s.now < p.expiry →
        ctlOne s r = ([{ r with acked := true }], ackDone s t cmd tag)) ∧
      (∀ n, slotOf s t tag = some n → (s.slot n).stopNow = false →
        (cmd = 3 → (s.slot n).st = 3 → snpOn s t = true → s.hub.parked = [] → (s.hub.slots.all fun e => e.2.st != 5) = true →
          allExtents s (s.slot n) ≤ bits (s.tenant t).snpC.toNat 31 0 → (s.slot n).tenant = t →
          (ctlOne s r).1 = [] ∧ ((ctlOne s r).2.slot n).st = 5 ∧ ((ctlOne s r).2.slot n).parkExt = 0 ∧
            ((ctlOne s r).2.slot n).parkId = s.hub.nextPark ∧ (ctlOne s r).2.hub.nextPark = s.hub.nextPark + 1) ∧
        (cmd = 5 → (s.slot n).st ≠ 5 → (s.slot n).st ≠ 7 → (s.slot n).st < 8 →
          (ctlOne s r).1 = [] ∧ (freeEnded (ctlOne s r).2).slot n = {}) ∧
        ((cmd = 3 ∨ cmd = 5) → ((s.slot n).st = 5 ∨ (s.slot n).st = 7) → ctlOne s r = ([r], s))) ∧
      (∀ n, slotOf s t tag = some n → (s.slot n).stopNow = true → (cmd = 3 ∨ cmd = 5) → ctlOne s r = ([], reject s t 3 tag)) ∧
      (slotOf s t tag = none → recOf s t tag = none → 2 ≤ cmd → cmd ≤ 5 → ctlOne s r = ([], reject s t 2 tag)) ∧
      (∀ k, cmd = 7 → reqAdapter r.entry ≠ 0 → newestAdp s t (reqAdapter r.entry) = some k → (ctlOne s r).1 = [] ∧
        (pinsOf s k ≠ 0 → ((ctlOne s r).2.adp k).st = 3) ∧
        (pinsOf s k = 0 → s.hub.uploads = [] → (ctlOne s r).2.adp k = {}))) ∧
    (freeSlotNo s = none → walkOne s r = (.stop, s)) ∧
    (s.hub.admitOff = true ∨ s.host.linkHeld = true → walkOne s r = (.stop, s)) ∧
    (∀ n, freeSlotNo s = some n → s.hub.admitOff = false → s.host.linkHeld = false → r.bad = [] →
      (∀ p, cmd = 1 → reqFormatBad r.entry = false → startBlock s r = some p →
        (∀ why, startReject s r p = some why → walkOne s r = (.gone, reject s t why tag)) ∧
        (∀ d, startReject s r p = none → startPrompt s r p = some d →
          (freeRegion s (pbClass p) = none → walkOne s r = (.skip, s)) ∧
          (∀ g, freeRegion s (pbClass p) = some g → (s.tenant t).level ≤ 0 → walkOne s r = (.skip, s)) ∧
          (∀ g, freeRegion s (pbClass p) = some g → 0 < (s.tenant t).level → pbAdapter p = 0 →
            waitsFill s r (tokList d (reqCount r.entry)) = false →
            (walkOne s r).1 = .gone ∧ ((walkOne s r).2.slot n).st = 1 ∧ ((walkOne s r).2.slot n).tenant = t ∧
              ((walkOne s r).2.slot n).tag = tag ∧ ((walkOne s r).2.slot n).pb = p ∧ ((walkOne s r).2.slot n).region = g ∧
              ((walkOne s r).2.slot n).order = s.hub.admitNo ∧ (walkOne s r).2.hub.admitNo = s.hub.admitNo + 1 ∧
              (walkOne s r).2.plane = s.plane))) ∧
      (∀ p g, cmd ≠ 1 → r.acked = true → recOf s t tag = some p → recBusy s p = false → s.now < p.expiry →
        freeRegion s p.seq.cls = some g → 0 < (s.tenant t).level → p.seq.adpId = 0 →
        fillsNext s p.seq.scope p.seq.hashes = false →
        (cmd = 4 → (walkOne s r).1 = .gone ∧ ((walkOne s r).2.slot n).st = 7 ∧ ((walkOne s r).2.slot n).parkId = p.parkId ∧
          ((walkOne s r).2.slot n).region = g ∧ ((walkOne s r).2.slot n).contd = false) ∧
        (∀ d, cmd = 2 → contTokens s r = some d → (progOf s).pPos ≠ 0 →
          p.seq.committed + p.seq.pending.length + reqCount r.entry < maxLenOf s p.seq →
          (walkOne s r).1 = .gone ∧ ((walkOne s r).2.slot n).st = 7 ∧ ((walkOne s r).2.slot n).parkId = p.parkId ∧
            ((walkOne s r).2.slot n).contd = true ∧ ((walkOne s r).2.slot n).newTok = tokList d (reqCount r.entry))))

/-- Each request row of an enabled tenant puts the request in the queue in the order of arrival, with the tick and the rotation's
rank, and does nothing else; a row of a tenant that is not enabled does nothing; an upload is acted on at once: it is refused for
its digest, takes the lowest adapter slot, or is deferred with the reason (R315, R317, R323, R324, R338). What a boundary does
with the requests that wait. Its control step, on each: a resume and a continue of a parked sequence are acknowledged and stay for
the walk; a pause parks; a cancel frees what the sequence had; a stop of the same commit comes first; a release retires the newest
generations of the pair. Its admission walk, on each: it stops without a free slot; a start is rejected, skipped, or admitted with
the lowest free slot and a free region; an acknowledged resume or continue takes them for its restore (R315, R318, R321, R322,
R324, R325, R340). -/
def Obligations.RequestsAct : Prop :=
  RequestRows ∧ BoundaryActsOnRequests

/-- A park copy that ends frees its slot and leaves a record; one that fails is held for 1 s and tried again, three times at
most; a restore copy that fails keeps the record, one that ends or fails its tags or header frees it; a copy that meets a
line it cannot read ends its sequence; the end of a copy that is no longer awaited is late; a record that expires is freed
unless a restore uses it (R216, R344-R347). -/
def Obligations.SnowpackActs : Prop :=
  ∀ (s : State) (n id : Nat) (fab : Bool) (body tags : List Byte) (corr : Nat), tablesOk s = true → n < 256 →
    4 ≤ s.pwr.state → 0 < gradeKv s →
    let q := s.slot n
    let held (t : State) : Prop := (t.slot n).st = 4 ∧ (t.slot n).retryAt = some (s.now + 1000000) ∧
      (t.slot n).attempts = q.attempts + 1 ∧ t.hub.parkFail = min 65535 (s.hub.parkFail + 1)
    exec .parkAll s = .next { s with hub := { s.hub with parkAll := s.hub.parkAll || s.hub.slots.any fun e => e.2.live } } ∧
    (q.st = 5 →
      (Does (.parkComplete n ⟨q.parkId, fab, .ok, corr⟩) s fun t => t.slot n = {} ∧ t.plane = s.plane ∧ ∃ r,
        t.hub.parked = s.hub.parked ++ [r] ∧
        r.tenant = q.tenant ∧ r.tag = q.tag ∧ r.parkId = q.parkId ∧ r.ext = q.parkExt ∧ r.next = q.parkN ∧
        r.expiry = s.now + bits q.parkC.toNat 63 32 * 1000000 ∧ r.seq.committed = q.committed ∧ r.seq.pending = q.pending) ∧
      (q.attempts < 2 → Does (.parkComplete n ⟨q.parkId, fab, .transport, corr⟩) s held ∧ Does (.snowpackOpTimeout n) s held) ∧
      (2 ≤ q.attempts → Does (.parkComplete n ⟨q.parkId, fab, .transport, corr⟩) s fun t => t.slot n = {}) ∧
      (∀ line, Does (.parkComplete n ⟨q.parkId, fab, (.kvLine line), corr⟩) s fun t => t.slot n = {}) ∧
      (∀ x res, x ≠ q.parkId → exec (.parkComplete n ⟨x, fab, res, corr⟩) s = .next (lateDone s fab))) ∧
    (∀ w, q.st = 4 → q.retryAt = some w →
      (s.now < w → exec (.parkRetry n) s = .next s) ∧
      (w ≤ s.now → snpOn s q.tenant = true → s.hub.parked = [] → (s.hub.slots.all fun e => e.2.st != 5) = true →
        allExtents s q ≤ bits (s.tenant q.tenant).snpC.toNat 31 0 →
        Does (.parkRetry n) s fun t => (t.slot n).st = 5 ∧ (t.slot n).parkExt = 0 ∧ (t.slot n).parkId = s.hub.nextPark)) ∧
    (∀ r, q.st = 7 → (s.hub.parked.find? fun x => x.parkId == q.parkId) = some r →
      let gone (t : State) : Prop := t.hub.parked = s.hub.parked.filter fun x => x.parkId != q.parkId
      let failed (t : State) : Prop :=
        t.slot n = {} ∧ t.hub.parked = s.hub.parked ∧ t.hub.restFail = min 65535 (s.hub.restFail + 1)
      let opened := recOpen s r (recRead s r 0 (recLen s r) body) (recRead s r (r.dext * 2 ^ 20) (16 * r.dext) tags)
      let head := recRead s r 0 (recLen s r) body
      Does (.restoreComplete n ⟨q.order, fab, .transport, body, tags, corr⟩) s failed ∧ Does (.snowpackOpTimeout n) s failed ∧
      (opened = none → Does (.restoreComplete n ⟨q.order, fab, .ok, body, tags, corr⟩) s fun t => t.slot n = {} ∧ gone t) ∧
      (r.epoch ≠ (tepochOf s r.tenant).toNat ∨ r.oepoch ≠ s.sec.oepoch.toNat → opened = none) ∧
      (id ≠ q.order → ∀ res, exec (.restoreComplete n ⟨id, fab, res, body, tags, corr⟩) s = .next (lateDone s fab)) ∧
      (∀ line, Does (.restoreComplete n ⟨q.order, fab, (.kvLine line), body, tags, corr⟩) s fun t => t.slot n = {} ∧ gone t) ∧
      (∀ p plain, s.ldr.lastProg = some p → opened = some plain →
        (List.range 16).map (byteAt (head.drop 128)) = (List.range 16).map (byteAt p.modelId) →
        (List.range 64).map (byteAt (head.drop 64)) = (List.range 64).map (byteAt p.instDig) →
        r.seq.adpId = 0 → r.seq.hashes = [] → q.contd = false → s.running = false →
        Does (.restoreComplete n ⟨q.order, fab, .ok, body, tags, corr⟩) s fun t =>
          (t.slot n).st = (if r.seq.pending.isEmpty then 3 else 2) ∧ gone t ∧
          (t.slot n).committed = r.seq.committed ∧ (t.slot n).pending = r.seq.pending ∧ (t.slot n).region = q.region)) ∧
    (q.st ≠ 5 → q.st ≠ 7 → exec (.snowpackOpTimeout n) s = .next s) ∧
    (∀ r, s.hub.parked.find? (fun x => x.parkId == r.parkId) = some r →
      (s.now < r.expiry → exec (.snowpackExpiry r.parkId) s = .next s) ∧
      (r.expiry ≤ s.now → recBusy s r = false → Does (.snowpackExpiry r.parkId) s fun t =>
        t.hub.parked = (s.hub.parked.filter fun x => x.parkId != r.parkId) ∧
        t.hub.expired = min (2 ^ 32 - 1) (s.hub.expired + 1) ∧ t.hub.slots = s.hub.slots))

/-! ### Rings, functions and the host link (chapter 12) -/

/-- A ring's base register is written with its indices cleared; a host index is taken unless it overfills the ring; a doorbell reads
the new entries into the queue; an interrupt is raised when it is due; a drain discards what the tenant has and ends with its
registers reset; an enable is latched during a drain (R323, R352, R355, R357-R359). -/
def Obligations.RingsAndFunctions : Prop :=
  ∀ (s : State) (t : Nat) (own : Bool), tablesOk s = true → t < 256 →
    let k := s.tenant t
    let only (u : State) (k' : Tenant) : Prop := u.tenant t = k' ∧ (∀ n, n ≠ t → u.tenant n = s.tenant n) ∧ u.hub = s.hub
    (∀ v, k.draining = false →
      (Does (.ringConfigWrite own (.oq t) v) s fun u => only u { k with oqBase := baseMask v, oqH := 0, oqE := 0 }) ∧
      (Does (.ringConfigWrite own (.sq t) v) s fun u => only u { k with sqBase := baseMask v, sqH := 0, sqE := 0 })) ∧
    (∀ v, k.draining = true →
      Does (.ringConfigWrite own (.oq t) v) s fun u => only u { k with drops := min 255 (k.drops + 1) }) ∧
    (∀ v : BitVec 32, k.draining = false →
      (ringOcc k.oqE v ≤ ringSize k.oqBase → Does (.hostIndexWrite own (.oq t) v) s fun u => only u { k with oqH := v }) ∧
      (ringSize k.oqBase < ringOcc k.oqE v →
        Does (.hostIndexWrite own (.oq t) v) s fun u => only u { k with bad := min 255 (k.bad + 1) })) ∧
    (∀ (x : BitVec 32) (h : HostReq), k.draining = false → k.sqH = k.sqE →
      (tenantEnabled s t = true → ringEn k.sqBase = true → ringOcc x k.sqE = 1 → h.entry.length = 64 → s.host.hdmOn = false →
        Does (.submissionDoorbell own t x [h]) s fun u => (u.tenant t).sqE = x ∧ (u.tenant t).sqH = x ∧
          u.hub.queue = insertReq { reqOf t h with tick := s.now, rank := (t + 256 - s.hub.ptr) % 256 } s.hub.queue ∧
          u.hub.fresh.contains t = true ∧ u.hub.slots = s.hub.slots) ∧
      (ringSize k.sqBase < ringOcc x k.sqE →
        Does (.submissionDoorbell own t x [h]) s fun u => only u { k with bad := min 255 (k.bad + 1) })) ∧
    (evtDue s t = true → Does (.interruptModeration t false) s fun u =>
      only u { k with evtNew := 0 } ∧ u.out = s.out ++ [.msix (t + 1) 0]) ∧
    (tokDue s t = true → Does (.interruptModeration t true) s fun u =>
      only u { k with tokNew := 0 } ∧ u.out = s.out ++ [.msix (t + 1) 1]) ∧
    (evtDue s t = false → exec (.interruptModeration t false) s = .next s) ∧
    (t < s.host.numVFs → Does (.functionLevelReset (some t)) s fun u =>
      (u.tenant t).draining = true ∧ (u.tenant t).mse = false ∧ (u.tenant t).bme = false ∧ (∀ n, (u.slot n).st ≠ 0 → (u.slot n).tenant ≠ t) ∧
      u.hub.queue = (s.hub.queue.filter fun r => r.tenant != t) ∧ u.hub.parked = (s.hub.parked.filter fun r => r.tenant != t)) ∧
    (Does (.functionLevelReset none) s fun u => u.host.vfEn = false ∧ tenantEnabled u t = false ∧
      (t < s.host.numVFs → (u.tenant t).draining = true)) ∧
    (k.draining = false → exec (.drainComplete t) s = .next s) ∧
    (k.draining = true → Does (.drainComplete t) s fun u => (u.tenant t).draining = false ∧
      (u.tenant t).mse = k.latched ∧ (u.tenant t).bme = k.latched ∧ (u.tenant t).latched = false ∧ (u.tenant t).sqBase = 0 ∧ (u.tenant t).oqBase = 0 ∧
      (u.tenant t).eqBase = 0 ∧ (u.tenant t).bad = k.bad ∧ (u.tenant t).drops = k.drops) ∧
    (t < s.host.numVFs → s.host.vfEn = true → k.draining = false →
      Does (.vfEnable t) s fun u => only u { k with mse := true, bme := true }) ∧
    (t < s.host.numVFs → s.host.vfEn = true → k.draining = true → Does (.vfEnable t) s fun u => only u { k with latched := true }) ∧
    (Does .function0Reset s fun u => ringEn u.host.eqBase = false ∧ u.host.eqH = 0 ∧ u.tenants = s.tenants ∧ u.plane = s.plane ∧
      u.hub = s.hub ∧ u.wst.busy = false ∧ u.adc.scGo = false ∧ (s.adc.scGo = true → u.adc.scResult = 5) ∧
      (1 ≤ s.ldr.state → s.ldr.state ≤ 7 → u.ldr.state = 9 ∧ u.ldr.fCode = 0x13) ∧
      (8 ≤ s.ldr.state → u.ldr = s.ldr))

/-- A link-down holds every sequence and stops admission, a link-up ends that; a host read that fails twice ends what it was
for; CXL.mem reads and writes the staging region within its range; an SPDM request is answered on a live link (R237, R347,
R349-R351, R362). -/
def Obligations.LinkAndHostReads : Prop :=
  ∀ (s : State),
    (s.host.linkUp = true →
      exec (.cxlLinkDown .plain) s = .next { s with host := { s.host with linkUp := false, linkHeld := true } } ∧
      exec (.cxlLinkDown .ide) s = .next { s with host := { s.host with
        ide := min 255 (s.host.ide + 1), linkUp := false, linkHeld := true } } ∧
      ∀ n trained, exec (.cxlLinkDown (.replays n trained)) s = .next { s with host := { s.host with
        replay := min 65535 (s.host.replay + min n 4), linkUp := decide (n ≤ 4) || trained,
        linkHeld := s.host.linkHeld || !(decide (n ≤ 4) || trained) } }) ∧
    (s.bg.ready = true → bit s.pnl.pres.toNat 17 = true → Does .cxlLinkUp s fun t =>
      t.host = { s.host with linkUp := true, linkHeld := false, linkRate := t.host.linkRate, linkWidth := t.host.linkWidth } ∧
      t.host.linkRate ∈ [128, 64, 32] ∧ t.host.linkWidth ∈ [16, 8, 4] ∧ t.hub = s.hub ∧ t.plane = s.plane) ∧
    (bit s.pnl.pres.toNat 17 = false → exec .cxlLinkUp s = .next s) ∧
    (∀ what addr, exec (.cxlCompletionTimeout what addr false false) s = .next s ∧
      exec (.cxlCompletionTimeout what addr false true) s =
        .next { s with host := { s.host with late := min 65535 (s.host.late + 1) } }) ∧
    (∀ addr, s.ldr.state = 1 → Does (.cxlCompletionTimeout .image addr true false) s fun t => LoadEnds s t 0x10 ∧ t.ldr.fA = 1) ∧
    (∀ addr r p, s.hub.queue = [r] → reqCmd r.entry = 1 → r.blk = some p → inRun addr (leAt r.entry 16 8) 256 = true →
      exec (.cxlCompletionTimeout .submission addr true false) s =
        .next { s with hub := { s.hub with queue := [{ r with blk := none }] } }) ∧
    (∀ addr t, t < 256 → s.hub.queue = [] → ringTenant s addr = some t →
      exec (.cxlCompletionTimeout .submission addr true false) s = .next (ownerEvent (reject s t 5 0) 11 0 t addr)) ∧
    (∀ addr n q r, s.hub.slots = [(n, q)] → q.st = 7 → s.hub.parked = [r] → r.parkId = q.parkId → bit r.tgt.toNat 62 = false →
      inRun addr (extentAddr r.base r.ext) (r.next * 2 ^ 20) = true →
      Does (.cxlCompletionTimeout .snowpack addr true false) s fun t =>
        t.slot n = {} ∧ t.hub.parked = [r] ∧ t.hub.restFail = min 65535 (s.hub.restFail + 1)) ∧
    (∀ addr corr, addr % 64 = 0 → s.bg.ready = true → addr + 64 ≤ s.host.hdmSize →
      (addr + 64 ≤ stagingSize s →
        (let s1 := kvCorrected s (min corr 1)
        exec (.hdmAccess addr none 64 ⟨[], corr⟩) s = .next (s1.emit (.memRead (kvRunRead s1 3 addr 64)))) ∧
        ∀ d, d.length = 64 → exec (.hdmAccess addr (some d) 64 ⟨[], corr⟩) s = .next (kvRunWrite (kvCorrected s 0) 3 addr d 1)) ∧
      (stagingSize s < addr + 64 → exec (.hdmAccess addr none 64 ⟨[], corr⟩) s = .next
        (State.emit { kvCorrected s 0 with host := { s.host with hdmOob := min 65535 (s.host.hdmOob + 1) } }
          (.memRead (List.replicate 64 0))))) ∧
    (∀ addr n bad corr, s.host.hdmSize < addr + n → exec (.hdmAccess addr none n ⟨bad, corr⟩) s = .next (s.emit .ur)) ∧
    (∀ req keys, s.host.linkUp = true → Does (.spdmRequest req keys) s fun t =>
      t.out = s.out ++ [.spdm (edPublic s.sec.seedEd ++ s.sec.endorse)] ∧
      t.host.ideKeys = (s.host.ideKeys || keys) ∧ t.sec = s.sec) ∧
    (∀ req keys, s.host.linkUp = false → exec (.spdmRequest req keys) s = .next s)

/-! ### The mailbox (chapters 12 and 15) -/

/-- Every mailbox command ends with its return code and payload and then raises vector 1 of function 0, and is not taken before the
mailbox answers: identity, time, logs, the memory device, queue pairs, port addresses, and Unsupported for any other opcode;
what Set QP writes Get QP returns (R357, R360, R420). Bytes the spec leaves open are free values (log 48), and the return
codes 2 and 3 are taken from CXL (PRESUMED). -/
def Obligations.MailboxAnswers : Prop :=
  ∀ (s : State) (qp : Nat) (ctx payload : List Byte) (op : BitVec 16) (v : BitVec 64) (off len : Nat), tablesOk s = true →
    let ends (u : State) (ret : Nat) (d : List Byte) : Host.Outcome State Fault Refusal := .next (mboxEnd u ret d)
    let n := s.host.hdmSize / 2 ^ 28
    (∀ ret d,
      let h : HostIf := { s.host with
        mbCtl := s.host.mbCtl &&& 0xFFFFFFFE#32, mbRet := ret, mbPay := d ++ s.host.mbPay.drop d.length
        mbCmd := BitVec.ofNat 64 (bits s.host.mbCmd.toNat 15 0 + d.length * 2 ^ 16) }
      mboxEnd s ret d = { s with host := h, out := s.out ++ [.mbox ret d, .msix 0 1] }) ∧
    (mboxUp s = false → exec .identify s = .next s ∧ exec .getTimestamp s = .next s ∧ exec (.setTimestamp v) s = .next s ∧
      exec (.setQp qp ctx) s = .next s ∧ exec .getNonce s = .next s) ∧
    (mboxUp s = true →
      exec .identify s = ends s 0 (openBytes 1 0 8 ++ leBytes 8 s.fuses.serial.toNat ++ [14#8] ++ openBytes 1 17 1) ∧
      (s.host.stamp = 0 → s.host.stampAt = 0 → exec .getTimestamp s = ends s 0 (List.replicate 8 0)) ∧
      (s.host.stamp ≠ 0 → s.host.stampAt ≤ s.now →
        exec .getTimestamp s = ends s 0 (leBytes 8 (s.host.stamp.toNat + (s.now - s.host.stampAt) * 1000))) ∧
      exec (.setTimestamp v) s = ends { s with host := { s.host with stamp := v, stampAt := s.now } } 0 [] ∧
      exec .getSupportedLogs s = ends s 0 ([1#8, 0, 0, 0, 0, 0, 0, 0] ++ celId ++ leBytes 4 68) ∧
      (off + len ≤ 68 → exec (.getLog true off len) s = ends s 0 ((celBytes.drop off).take len)) ∧
      (68 < off + len → exec (.getLog true off len) s = ends s 2 []) ∧
      exec (.getLog false off len) s = ends s 2 [] ∧
      exec .identifyMemoryDevice s =
        ends s 0 (openBytes 0x4000 0 16 ++ leBytes 8 n ++ leBytes 8 n ++ leBytes 8 0 ++ openBytes 0x4000 40 27) ∧
      (qp < 4096 → ctxOk ctx = true →
        exec (.setQp qp ctx) s = ends (s.setQp qp (newQp s ctx)) 0 [] ∧
        exec (.getQp qp) (s.setQp qp (newQp s ctx)) = ends (s.setQp qp (newQp s ctx)) 0 ctx) ∧
      (ctxOk ctx = false → exec (.setQp qp ctx) s = ends s 2 []) ∧
      (4096 ≤ qp → exec (.getQp qp) s = ends s 2 []) ∧
      (portAddrOk payload = true → Does (.setPortAddresses payload) s fun u =>
        let p := leAt payload 0 1 % 128
        (bit (leAt payload 0 1) 7 = false → u.port p = { s.port p with addr := payload }) ∧
        (bit (leAt payload 0 1) 7 = true → u.port p = { s.port p with addrU := payload }) ∧
        (∀ x, x ≠ p → u.port x = s.port x) ∧
        u.out = s.out ++ [.mbox 0 [], .msix 0 1]) ∧
      (portAddrOk payload = false → exec (.setPortAddresses payload) s = ends s 2 []) ∧
      (mboxOps.contains op.toNat = false → exec (.unsupportedOpcode op) s = ends s 3 []))

/-- The security commands: identity, a nonce, enrolment under presence, and the signed commands, each with its status in byte 0
(R451, R453, R455-R461). A nonce is one use; keys, epochs and slots change as the command says. The nonce and
the 32 bytes that an ML-DSA-65 signature mixes in are free values (log 40, 41). -/
def Obligations.SecurityCommands : Prop :=
  ∀ (s : State) (payload ed : List Byte) (t : Nat), mboxUp s = true →
    let ends (u : State) (st : BitVec 8) (d : List Byte) : Host.Outcome State Fault Refusal := .next (mboxEnd u 0 (st :: d))
    let used : State := { s with pnl := { s.pnl with presUntil := none } }
    let spent : State := { s with sec := { s.sec with nonce := none } }
    let named : Prop := s.sec.nonce = some (payload.take 32)
    let signed (op n : Nat) : Prop := pairOk ed s.sec.mlKey (signedMsg op payload n) payload (32 + n) = true
    let keys := payload.drop 32
    exec .getIdentity s =
      ends s 0 (fitTo 32 (edPublic s.sec.seedEd) ++ fitTo 1952 (mlPublic s.sec.seedMl) ++ s.sec.endorse) ∧
    (Does .getNonce s fun u => ∃ n, n.length = 32 ∧ u.sec.nonce = some n ∧ u.free = s.free + 1 ∧
      u.out = s.out ++ [.mbox 0 (0 :: n), .msix 0 1]) ∧
    (present s = false → exec (.enrolOwner payload) s = ends s 1 [] ∧ exec (.clearOwnership []) s = ends s 1 []) ∧
    (present s = true →
      (payload.length ≠ 1984 → exec (.enrolOwner payload) s = ends used 6 []) ∧
      (payload.length = 1984 → s.sec.edKey ≠ none → exec (.enrolOwner payload) s = ends used 4 []) ∧
      (payload.length = 1984 → s.sec.edKey = none → exec (.enrolOwner payload) s = ends { used with sec := { s.sec with
        edKey := some (payload.take 32), mlKey := payload.drop 32 } } 0 (sha512 payload)) ∧
      (s.sec.edKey = none → exec (.clearOwnership []) s = ends used 4 []) ∧
      (s.sec.edKey ≠ none → clearRefused used = 0 → Does (.clearOwnership []) s fun u =>
        u.sec.edKey = none ∧ u.sec.oepoch = s.sec.oepoch + 1 ∧ u.sec.tepoch = [] ∧ u.pnl.presUntil = none ∧
        (∀ e, e ∈ u.wst.slots → e.2.st = 0 ∨ e.2.st = 6) ∧
        u.out = s.out ++ [.mbox 0 (0 :: leBytes 4 (s.sec.oepoch + 1).toNat), .msix 0 1])) ∧
    (payload.length = 3409 → s.sec.edKey = none → named → exec (.rotateTenantKey payload) s = ends spent 4 []) ∧
    (payload.length = 3409 → s.sec.edKey = some ed → ¬ named → exec (.rotateTenantKey payload) s =
      ends { s with sec := { s.sec with stale := min 65535 (s.sec.stale + 1) } } 3 []) ∧
    (payload.length = 3409 → s.sec.edKey = some ed → named → rotateRefused payload spent = 0 →
      (¬ signed 0xC020 4 → exec (.rotateTenantKey payload) s =
        ends { spent with sec := { spent.sec with sigfail := min 65535 (s.sec.sigfail + 1) } } 2 []) ∧
      (signed 0xC020 4 → leAt payload 32 2 = t → Does (.rotateTenantKey payload) s fun u =>
        tepochOf u t = tepochOf s t + 1 ∧ (u.sec.nonce = none) ∧ u.sec.oepoch = s.sec.oepoch ∧
        u.out = s.out ++ [.mbox 0 (0 :: leBytes 4 (tepochOf s t + 1).toNat), .msix 0 1])) ∧
    (payload.length = 8762 → s.sec.edKey = some ed → named → replaceRefused spent = 0 → signed 0xC011 1984 →
      pairOk (keys.take 32) ((keys.drop 32).take 1952) (signedMsg 0xC011 payload 1984) payload 5389 = true →
      Does (.replaceOwnerKeys payload) s fun u => u.sec.edKey = some (keys.take 32) ∧
        u.sec.mlKey = (keys.drop 32).take 1952 ∧ u.sec.oepoch = s.sec.oepoch ∧ u.sec.nonce = none ∧ u.wst = s.wst) ∧
    (∀ x : BitVec 16, (x.toNat < 256 →
        exec (.getTenantKeyEpoch x) s = ends s 0 (leBytes 4 (tepochOf s x.toNat).toNat)) ∧
      (256 ≤ x.toNat → exec (.getTenantKeyEpoch x) s = ends s 6 [])) ∧
    (payload.length = 32 → ∃ d, exec (.getAttestationReport payload) s = ends { s with free := s.free + 1 } 0 d ∧
      d.length = 3885 ∧ d.take 512 = reportBody s payload ∧ (d.drop 32).take 32 = payload ∧
      (d.drop 512).take 64 = fitTo 64 (edSign s.sec.seedEd (sha512 (reportBody s payload)))) ∧
    (payload.length ≠ 32 → exec (.getAttestationReport payload) s = ends s 6 [])

/-! ### Fabric (chapter 12) -/

/-- A message for a ready queue pair, in a frame its port accepts, that names an open window waits to be written or is
answered, and is acknowledged; one that names no window is refused, one without a program too; one for a pair that is
not ready, or in another frame, is dropped; each refusal is counted; an ECN-CE mark is answered once by a CNP; a timeout
sends again or ends in the error state; the rate falls with congestion notices and rises without (R364, R365, R367,
R368). -/
def Sys2Proof.Safety.MessagesAndRates : Prop :=
  ∀ (s : State) (n t w pcl : Nat) (fr : Frame) (rkey : BitVec 32) (addr len : Nat) (d : List Byte),
    tablesOk s = true → n < 4096 → t < 256 →
    let q := s.qp n
    let p := qpPort q
    let a := winA s t w
    let b := winB s t w
    let drop := s.setPort p { s.port p with drops := min 65535 ((s.port p).drops + 1) }
    let noted := if fr.ce && !q.cnpSent then (s.setQp n { q with cnpSent := true }).emit (.fabric n 4 []) else s
    let refused (k : Nat) : Host.Outcome State Fault Refusal :=
      .next ((noted.setPort p { s.port p with drops := min 65535 ((s.port p).drops + 1) }).emit (.fabric n k []))
    let job (off : Nat) : DmaJob :=
      { pcl := pcl, unit := winUnit a, off := winOff a + off, data := d,
        core := (pcoreOf s pcl (if winUnit a < 28 then winUnit a else bits a.toNat 60 56)).map (32 * pcl + ·),
        cc := bits a.toNat 55 50 }
    let waits (u : State) (off : Nat) : Prop := u.plane = { s.plane with dma := s.plane.dma ++ [job off] }
    let acked (u : State) : Prop := u.out = noted.out ++ [.fabric n 1 []] ∧
      (u.qp n).rpsn = (q.rpsn + qpPackets q d.length) % 2 ^ 24
    (roceOk s n fr = false ∨ q.st ≠ 1 → exec (.rdmaWriteArrival ⟨n, fr⟩ rkey addr d) s = .next drop ∧
      exec (.sendArrival ⟨n, fr⟩ d) s = .next drop ∧ exec (.rdmaReadRequest ⟨n, fr⟩ rkey addr len) s = .next drop) ∧
    (roceOk s n fr = true → q.st = 1 → s.running = false → exec (.rdmaWriteArrival ⟨n, fr⟩ rkey addr d) s = refused 3 ∧
      exec (.sendArrival ⟨n, fr⟩ d) s = refused 3 ∧ exec (.rdmaReadRequest ⟨n, fr⟩ rkey addr len) s = refused 3) ∧
    (roceOk s n fr = true → q.st = 1 → s.running = true → qpTenant q = some t →
      (winByKey s t rkey = none → exec (.rdmaWriteArrival ⟨n, fr⟩ rkey addr d) s = refused 2 ∧
        exec (.rdmaReadRequest ⟨n, fr⟩ rkey addr len) s = refused 2) ∧
      (winByKey s t rkey = some w → winFits s a b addr d.length = false →
        exec (.rdmaWriteArrival ⟨n, fr⟩ rkey addr d) s = refused 2) ∧
      (winByKey s t rkey = some w → winFits s a b addr d.length = true → winPcl s a = some pcl →
        Does (.rdmaWriteArrival ⟨n, fr⟩ rkey addr d) s fun u => waits u addr ∧ acked u) ∧
      (∀ x, winByKey s t rkey = some w → winFits s a b addr len = true → winPcl s a = some pcl →
        unitPlace s pcl (winUnit a) (winOff a + addr) = some x → s.plane.sramErr = [] →
        Does (.rdmaReadRequest ⟨n, fr⟩ rkey addr len) s fun u =>
          u.out = noted.out ++ [.fabric n 0 (s.sramGet x len)] ∧ u.plane = s.plane) ∧
      (let size := 256 * 2 ^ bits b.toNat 31 28
       let x := tget 0 (s.tenant t).sends w
       let off := x % (winLen b / size) * size
       (byteAt q.ctx 7).toNat = w → w < 4 → bit a.toNat 61 = true → bits b.toNat 31 28 ≠ 0 → size ≤ winLen b → d.length ≤ size →
        winFits s a b off d.length = true → winPcl s a = some pcl →
        Does (.sendArrival ⟨n, fr⟩ d) s fun u => waits u off ∧ acked u ∧ tget 0 (u.tenant t).sends w = x + 1)) ∧
    (q.st = 1 → q.retries < 7 → Does (.ackTimeout ⟨n, false⟩) s fun u =>
      u.qp n = { q with retries := q.retries + 1 } ∧ u.out = s.out ++ [.fabric n 5 []]) ∧
    (q.st = 1 → q.rnr < 7 → Does (.ackTimeout ⟨n, true⟩) s fun u =>
      u.qp n = { q with rnr := q.rnr + 1 } ∧ u.out = s.out ++ [.fabric n 5 []]) ∧
    (q.st = 1 → 7 ≤ q.retries → Does (.ackTimeout ⟨n, false⟩) s fun u =>
      (u.qp n).st = 2 ∧ u.host.qperr = min 65535 (s.host.qperr + 1)) ∧
    (q.st = 1 → 7 ≤ q.rnr → Does (.ackTimeout ⟨n, true⟩) s fun u =>
      (u.qp n).st = 2 ∧ u.host.qperr = min 65535 (s.host.qperr + 1)) ∧
    (∀ rnr, q.st ≠ 1 → exec (.ackTimeout ⟨n, rnr⟩) s = .next s) ∧
    (Does .rateInterval s fun u =>
      let r := portRate (s.port p)
      u.plane = s.plane ∧ u.hub = s.hub ∧
      (q.st ≠ 0 → (u.qp n).cnpSent = false) ∧
      (q.st ≠ 0 → 0 < q.cnps →
        (u.qp n).rate = max (q.rate * (16 - min q.cnps 8) / 16) (r / 128) ∧ (u.qp n).quiet = 0 ∧ (u.qp n).cnps = 0) ∧
      (q.st ≠ 0 → q.cnps = 0 → (u.qp n).quiet = q.quiet + 1 ∧
        (u.qp n).rate = if q.quiet < 2 then q.rate else min (q.rate + (r - q.rate) / 8) r)) ∧
    (roceOk s n fr = true → q.st ≠ 0 → Does (.cnpReceived ⟨n, fr⟩) s fun u => u.qp n = { q with cnps := q.cnps + 1 } ∧
      u.port p = { s.port p with cnp := min 65535 ((s.port p).cnp + 1) }) ∧
    (roceOk s n fr = false → exec (.cnpReceived ⟨n, fr⟩) s = .next drop)

/-- A host push does what WIN_PCTL says and clears go: without a program, and with a length of 0 or outside an open window, it
writes nothing; a read that fails is told to the owner. A window arrival into a cluster memory is then written by the
plane's cycles, up to an aligned run of 256 bytes in each, and its counter rises in the cycle after the last byte
(R349, R361, R364, R365). -/
def Sys2Proof.Safety.PushesAndWindowWrites : Prop :=
  ∀ (s : State) (t pcl : Nat) (d : List Byte), tablesOk s = true → coresOk s = true → memOk s = true → t < 256 →
    let v := (s.tenant t).pCtl
    let a := winA s t (bits v.toNat 62 61)
    let b := winB s t (bits v.toNat 62 61)
    let off := 256 * bits v.toNat 43 24
    let len := 256 * bits v.toNat 19 0
    let go (u : State) : Bool := bit (u.tenant t).pCtl.toNat 63
    (tenantEnabled s t = false → ∀ x, exec (.hostPush t x) s = .next s) ∧
    (tenantEnabled s t = true →
      ((s.running = false ∨ len = 0 ∨ bit a.toNat 62 = false ∨ winFits s a b off len = false) →
        ∀ x, Does (.hostPush t x) s fun u => go u = false ∧ u.plane = s.plane ∧ u.out = s.out) ∧
      (s.running = true → d.length = len → d ≠ [] → bit a.toNat 62 = true → winFits s a b off len = true →
        winPcl s a = some pcl →
        (Does (.hostPush t (some d)) s fun u => go u = false ∧ u.out = s.out ∧
          u.plane = { s.plane with dma := s.plane.dma ++ [{
            pcl := pcl, unit := winUnit a, off := winOff a + off, data := d,
            core := (pcoreOf s pcl (if winUnit a < 28 then winUnit a else bits a.toNat 60 56)).map (32 * pcl + ·),
            cc := bits a.toNat 55 50 }] }) ∧
        exec (.hostPush t none) s = .next (ownerEvent (pushEnd s t) 11 0 t (s.tenant t).pSrc))) ∧
    (∀ j : DmaJob, s.pending = [] → s.plane.clockOn = true → s.plane.dma = [j] → j.unit = 0x20 → j.data ≠ [] → j.pcl < 576 →
      j.off + j.data.length ≤ cmSize → s.plane.cores = [] → s.plane.packets = [] → s.plane.pays = [] → s.plane.kvs = [] →
      s.plane.hputs = [] → s.plane.xfers = [] → s.plane.wlds = [] → s.plane.relGo = false → s.plane.sramErr = [] →
      let n := min j.data.length (256 - j.off % 256)
      ∃ u, step s = .next u ∧ u.sramGet (cmAddr j.pcl j.off) n = j.data.take n ∧
        (∀ x, (x < cmAddr j.pcl j.off ∨ cmAddr j.pcl j.off + n ≤ x) → u.sramGet x 1 = s.sramGet x 1) ∧
        (n < j.data.length → u.plane.dma = [{ j with off := j.off + n, data := j.data.drop n }] ∧ u.plane.cores = []) ∧
        (n = j.data.length → u.plane.dma = [] ∧ ∀ c, j.core = some c → (u.core c).incDue = [(s.plane.cycle + 1, j.cc, 0)]))

/-- A message for a ready queue pair, in a frame its port accepts, that names an open window waits to be written or is answered, and
is acknowledged; one that names no window is refused, one without a program too; one for a pair that is not ready, or in another
frame, is dropped; each refusal is counted; an ECN-CE mark is answered once by a CNP; a timeout sends again or ends in the error
state; the rate falls with congestion notices and rises without (R364, R365, R367, R368). A host push does what WIN_PCTL says and
clears go: without a program, and with a length of 0 or outside an open window, it writes nothing; a read that fails is told to
the owner. A window arrival into a cluster memory is then written by the plane's cycles, up to an aligned run of 256 bytes in
each, and its counter rises in the cycle after the last byte (R349, R361, R364, R365). -/
def Obligations.FabricMessages : Prop :=
  MessagesAndRates ∧ PushesAndWindowWrites

/-- A port that goes down moves its queue pairs to the error state, one that trains comes up, and owner event 07h tells of both; a
write of the enable bit starts the port in the mode written, or takes it down; a port answers address requests for its own
address on its VLAN and drops others (R366, R367, R369). -/
def Obligations.FabricPorts : Prop :=
  ∀ (s : State) (p : Nat) (v : BitVec 64) (fr : Frame) (addr : List Byte) (acks : List (Nat × Nat × Nat)),
    tablesOk s = true → p < 12 →
    let x := s.port p
    let mode := BitVec.ofNat 2 (bits v.toNat 62 61)
    (x.st < 2 → ∀ u, exec (.fabricPortDown p ⟨u, acks⟩) s = .next s) ∧
    (x.st = 2 → s.host.qps = [] →
      exec (.fabricPortDown p ⟨false, acks⟩) s = .next (ownerEvent (s.setPort p { x with st := 0 }) 7 0 p 0) ∧
      (x.run = 1 → exec (.fabricPortDown p ⟨true, acks⟩) s = .next (ownerEvent (s.setPort p { x with st := 3 }) 7 0 p 0))) ∧
    (∀ n q, x.st = 2 → s.host.qps = [(n, q)] → q.st = 1 → qpPort q = p → s.hub.slots = [] → s.wst.ctls = [] →
      Does (.fabricPortDown p ⟨false, acks⟩) s fun u => (u.qp n).st = 2 ∧ (u.port p).st = 0 ∧
        u.host.qperr = min 65535 (s.host.qperr + 1) ∧ u.host.moved = s.host.moved) ∧
    (bit s.pnl.pres.toNat p = true → 2 ≤ s.pwr.state → x.en = true → x.st ≠ 2 →
      exec (.fabricPortUp p) s =
        .next (ownerEvent (s.setPort p { x with st := 2, ups := min 65535 (x.ups + 1) }) 7 1 p 0)) ∧
    (bit s.pnl.pres.toNat p = false ∨ x.en = false → exec (.fabricPortUp p) s = .next s) ∧
    (x.en = false → bit v.toNat 63 = true → mode ≠ 3 → exec (.portEnable p v) s =
      .next (s.setPort p { x with en := true, mode := mode, run := mode, st := b2n (bit s.pnl.pres.toNat p) })) ∧
    (x.en = true → bit v.toNat 63 = true → exec (.portEnable p v) s = .next (s.setPort p { x with mode := mode })) ∧
    (x.en = true → bit v.toNat 63 = false → Does (.portEnable p v) s fun u =>
      (u.port p).en = false ∧ (u.port p).st = 0 ∧ (u.port p).mode = mode) ∧
    (∀ up, portUp x up = false → exec (.arpRequest ⟨p, up, fr⟩ addr) s = .next s) ∧
    (∀ up, portUp x up = true → frameOk x up fr = true → (portAddr x up).length = 48 →
      (addr = ((portAddr x up).drop 16).take 4 ∨ addr = ((portAddr x up).drop 32).take 16) →
      exec (.arpRequest ⟨p, up, fr⟩ addr) s = .next (s.emit (.arp p (((portAddr x up).drop 4).take 6 ++ addr)))) ∧
    (∀ up, portUp x up = true → (frameOk x up fr = false ∨
        (addr ≠ ((portAddr x up).drop 16).take 4 ∧ addr ≠ ((portAddr x up).drop 32).take 16)) →
      exec (.arpRequest ⟨p, up, fr⟩ addr) s = .next (s.setPort p { x with drops := min 65535 (x.drops + 1) }))

/-! ### The Isobar ring (R370-R373) -/

/-- A station joins and leaves with ISO_CFG; it takes ring time, its number and the budget from the master's frame, records budget
frames and passes both on; it sends its own frames with a rising sequence number; its share is its part of what the floors
leave, while the ring is whole; a broken ring and a lost master bring the fallback share (R370-R373). -/
def Obligations.IsobarActs : Prop :=
  ∀ (s : State) (f : List Byte),
    let i := s.iso
    let sends (ty hop : Nat) (pay : List Byte) (t : State) : Prop :=
      t.out.getLast? = some (.frame (isoFrame ty i.station hop i.seq pay)) ∧ t.iso.seq = i.seq + 1
    (∀ v : BitVec 64, s.pwr.off = false → s.bg.perst = false → s.pwr.causes = [] →
      (bit v.toNat 63 = true → i.opened = false → Does (.isobarJoin v) s fun t => t.iso.opened = true ∧ t.iso.ring = 0 ∧
        t.iso.station = 0 ∧ t.iso.share = 4 * bits v.toNat 31 16 ∧ t.iso.cfg = isoCfgMask v) ∧
      (bit v.toNat 63 = false → i.opened = true → Does (.isobarJoin v) s fun t => t.iso.opened = false ∧ t.iso.share = 0) ∧
      (bit v.toNat 63 = i.opened → (i.opened = true → i.ring = 1) →
        exec (.isobarJoin v) s = .next { s with iso := { i with cfg := isoCfgMask v } }) ∧
      (bit v.toNat 63 = true → i.opened = true → i.ring ≠ 1 → exec (.isobarJoin v) s =
        .next { s with iso := { i with cfg := isoCfgMask v, share := 4 * bits v.toNat 31 16 } })) ∧
    (i.opened = false → exec (.isobarFrameReceive f) s = .next (s.emit (.frame f)) ∧ exec .isobarTimeFrame s = .next s ∧
      exec .isobarBudgetFrame s = .next s ∧ exec .isobarShareCompute s = .next s ∧ exec .isobarBreakTimeout s = .next s ∧
      exec .isobarMasterLost s = .next s) ∧
    (i.opened = true →
      (isoGood f = false →
        exec (.isobarFrameReceive f) s = .next { s with iso := { i with crc := min 65535 (i.crc + 1) } }) ∧
      (isoGood f = true → isoOwn s f = false → i.ring ≠ 2 →
        (leAt f 0 1 = 1 → isoMaster s = false → i.masters = [] → Does (.isobarFrameReceive f) s fun t =>
          t.iso.station = leAt f 2 1 % 32 ∧ t.iso.time = leAt f 8 8 + 64 * leAt f 2 1 ∧ t.iso.budgetB = leAt f 16 4 ∧
          t.iso.ring = 1 ∧ t.out.getLast? = some (.frame (forwardFrame f)) ∧ isoGood (forwardFrame f) = true ∧
          leAt (forwardFrame f) 2 1 = (leAt f 2 1 + 1) % 256) ∧
        (leAt f 0 1 = 2 → i.demands = [] → exec (.isobarFrameReceive f) s =
          .next (State.emit { s with iso := { i with demands := [(leAt f 1 1, leAt f 8 4, leAt f 12 4)] } } (.frame f)))) ∧
      (isoGood f = true → isoOwn s f = true → i.ring ≠ 2 → leAt f 0 1 ≠ 1 → exec (.isobarFrameReceive f) s = .next s) ∧
      (isoMaster s = true → Does .isobarTimeFrame s fun t => t.iso.time = (i.time / 1000000 + 1) * 1000000 ∧ t.iso.station = 0 ∧
        t.iso.budgetB = 16 * bits i.cfg.toNat 15 0 ∧ t.iso.seq = i.seq + 1) ∧
      (isoMaster s = false → exec .isobarTimeFrame s = .next s) ∧
      (Does .isobarBudgetFrame s fun t =>
        sends 2 0 (leBytes 4 (demand s) ++ leBytes 4 (isoFloor s) ++ leBytes 4 i.share) t ∧
        (i.station, demand s, isoFloor s) ∈ t.iso.demands) ∧
      (∀ m d fl d2 f2, i.ring = 1 → i.demands = [(i.station, d, fl), (m, d2, f2)] → m ≠ i.station → fl < d → f2 < d2 →
        Does .isobarShareCompute s fun t => t.iso.count = 2 ∧ t.iso.demands = [] ∧ t.iso.share =
          (if i.budgetB ≤ fl + f2 then fl else min (fl + (i.budgetB - (fl + f2)) * (d - fl) / (d - fl + (d2 - f2))) d)) ∧
      (∀ code detail, Does (.isobarAlarm code detail) s fun t =>
        sends 3 0 (leBytes 1 code.toNat ++ leBytes 3 0 ++ leBytes 4 detail.toNat) t) ∧
      (Does .isobarBreakTimeout s fun t => t.iso.ring = 2 ∧ t.iso.share = isoFallback s ∧ sends 4 0 [] t) ∧
      (i.ring ≠ 2 → Does .isobarMasterLost s fun t => t.iso.ring = 3 ∧ t.iso.share = isoFallback s) ∧
      (i.ring = 2 → exec .isobarMasterLost s = .next s))

/-! ### The SMBus target and the boundary-scan port (R374, R376) -/

/-- While VSB is present the SMBus target answers its codes and the boundary-scan port loads its instructions; one that drives
pins acts as BYPASS unless the engine is held in reset; without VSB neither acts (R374, R376). -/
def Obligations.ServicePorts : Prop :=
  ∀ (s : State) (c x : BitVec 8) (w : BitVec 16) (pins : List Bool),
    let smb (d : List Byte) : Host.Outcome State Fault Refusal := .next (s.emit (.smb d))
    let word (v : Int) : List Byte := leBytes 2 (BitVec.ofInt 16 v).toNat
    let scan (ir : JtagIr) (dr : BitVec 32) : Host.Outcome State Fault Refusal :=
      .next (State.emit { s with jtag := { s.jtag with ir := ir, dr := dr } } (.jtag dr))
    let drives (dr : BitVec 32) : Prop := exec .extest s = scan .extest dr ∧ exec .extestPulse s = scan .extestPulse dr ∧
      exec .extestTrain s = scan .extestTrain dr
    (s.bg.vsb = false → exec .smbIdentity s = .next s ∧ exec .smbState s = .next s ∧ exec (.smbRackBudget w) s = .next s ∧
      exec .bypass s = .next s ∧ exec .extest s = .next s) ∧
    (s.bg.vsb = true →
      exec .smbIdentity s = smb (leBytes 1 s.fuses.grade ++ leBytes 1 (b2n s.fuses.b0) ++ [0, 0] ++ leBytes 4 s.fuses.serial.toNat) ∧
      exec .smbState s = smb (leBytes 1 s.pwr.state) ∧
      exec .smbFaultSummary s = smb (leBytes 2 (bitsNum (faultBits s))) ∧
      (∀ v, 3 ≤ c.toNat → c.toNat ≤ 5 → kindSensor s (c.toNat - 3) = some v →
        exec (.smbDieTemperature c) s = .next (s.bumpFree.emit (.smb (word v)))) ∧
      exec (.smbCoolantTemperature false) s = smb (word s.thm.inlet) ∧
      exec (.smbCoolantTemperature true) s = smb (word s.thm.outlet) ∧
      exec .smbFlow s = smb (leBytes 2 s.thm.flow) ∧
      exec (.smbPower 9) s = smb (leBytes 2 (s.pwr.power / 4)) ∧
      (∀ p, s.thm.therm = some p → exec (.smbPower 10) s = smb (leBytes 2 (p / 4))) ∧
      exec (.smbPower 11) s = smb (leBytes 2 (s.iso.share / 4)) ∧
      (Does (.smbRackBudget w) s fun t => bits t.iso.cfg.toNat 15 0 = w.toNat ∧
        bits t.iso.cfg.toNat 63 16 = bits s.iso.cfg.toNat 63 16 ∧ t.iso.opened = s.iso.opened) ∧
      (x.toNat ≤ 1 → exec (.smbIdentifyPattern x) s = .next { s with pnl := { s.pnl with ident := x == 1 } }) ∧
      exec .bypass s = scan .bypass 0 ∧
      exec .idcode s = scan .idcode (if s.fuses.b0 then 0x171C856B else 0x071C856B) ∧
      (Does (.samplePreload pins) s fun t => t.jtag.ir = .samplePreload ∧ t.jtag.sample = pins ∧ t.jtag.dr = s.jtag.dr) ∧
      exec .clamp s = scan .clamp 0 ∧ exec .highz s = scan .highz 0 ∧
      (s.bg.perst = true → drives s.jtag.dr) ∧ (s.bg.perst = false → drives 0))

/-! ### Power (chapter 13) -/

/-- The setpoint follows the lowest VIR within 1.40 to 1.60 V; a requested clock step takes effect; the target register moves the
target; the engine takes one state at a time towards its goal; an idle engine moves its target (R206, R383, R386-R388, R390,
R393). -/
def Obligations.PowerLadder : Prop :=
  ∀ (s : State) (v : BitVec 32),
    let p := s.pwr
    let setTo (w : Nat) : Host.Outcome State Fault Refusal := .next (State.emit { s with pwr := { p with setpt := w } } (.avs w))
    (p.compat = true ∨ p.virEn = false → exec .avsSetpointAdjust s = .next s) ∧
    (p.compat = false → p.virEn = true → p.setpt = 1500 →
      (p.vmin < 1430 → exec .avsSetpointAdjust s = setTo 1508) ∧
      (1430 ≤ p.vmin → p.vmin < 1460 → exec .avsSetpointAdjust s = setTo 1501) ∧
      (1460 ≤ p.vmin → p.vmin ≤ 1480 → exec .avsSetpointAdjust s = .next s) ∧
      (1480 < p.vmin → exec .avsSetpointAdjust s = setTo 1499)) ∧
    (p.compat = false → p.virEn = true → p.setpt = 1600 → p.vmin < 1460 → exec .avsSetpointAdjust s = .next s) ∧
    (∀ n, p.stepReq = some n → exec .clockStepChange s = .next { s with pwr := { p with step := n, stepReq := none } }) ∧
    (Does (.stateTargetWrite v) s fun t => t.pwr.wake = bit v.toNat 31 ∧ t.pwr.idleSt.toNat = bits v.toNat 30 28 ∧
      t.pwr.idleS.toNat = bits v.toNat 27 12 ∧ t.pwr.state = p.state ∧
      t.pwr.tgt.toNat = (if 1 ≤ bits v.toNat 2 0 ∧ bits v.toNat 2 0 ≤ 5 then bits v.toNat 2 0 else p.tgt.toNat)) ∧
    (s.bg.ready = true → p.off = false →
      (goal s = p.state → exec .stateTransition s = .next s) ∧
      (goal s < p.state →
        (p.state = 5 → s.running = false → exec .stateTransition s = .next { s with pwr := { p with state := 4 } }) ∧
        (p.state = 4 → planeQuiet s = true → exec .stateTransition s =
          .next { s with plane := { s.plane with clockOn := false }, pwr := { p with state := 3 } }) ∧
        (p.state = 4 → planeQuiet s = false → exec .stateTransition s = .next s) ∧
        (p.state = 3 → exec .stateTransition s = .next { s with pwr := { p with state := 2 } }) ∧
        (p.state = 2 → Does .stateTransition s fun t => t.pwr.state = 1 ∧ t.pwr.virEn = false ∧ t.plane.clockOn = false ∧
          t.plane.cores = [] ∧ t.plane.sram = s.plane.sram ∧ t.pwr.restart = s.running)) ∧
      (p.state < goal s →
        (p.state = 1 → s.adc.calIsoPin = false → p.virEn = true → p.virOk = true →
          Does .stateTransition s fun t => t.pwr.state = 2) ∧
        (p.state = 1 → s.adc.calIsoPin = false → p.virEn = false → virAllowed s = true → exec .stateTransition s = .next { s with
          pwr := { p with virEn := true, setpt := 1500 }, thm := { s.thm with rth := [] } }) ∧
        (p.state = 2 → exec .stateTransition s = .next { s with pwr := { p with state := 3 } }) ∧
        (p.state = 3 → exec .stateTransition s =
          .next { s with plane := { s.plane with clockOn := true }, pwr := { p with state := 4 } }) ∧
        (p.state = 4 → p.restart = false → exec .stateTransition s = .next { s with pwr := { p with state := 5 } }))) ∧
    (s.bg.ready = false → exec .stateTransition s = .next s) ∧
    (p.state = 5 → s.bg.ready = true → p.idleS ≠ 0 → 1 ≤ p.idleSt.toNat → p.idleSt.toNat ≤ 4 →
      (liveCount s = 0 → s.hub.idleUs + 1000000 * p.idleS.toNat ≤ s.now →
        exec .idleDescent s = .next { s with pwr := { p with tgt := p.idleSt } }) ∧
      (liveCount s ≠ 0 ∨ s.now < s.hub.idleUs + 1000000 * p.idleS.toNat → exec .idleDescent s = .next s))

/-- A forced cause takes the engine to Frost, or to the floor it sets, and ends a load; a hard power-off leaves only the weights;
VIR_OK is tried three times in bring-up; a regulator trip is recorded and on the cluster's own supply fences it; one feed
of a pair is survived, both fence the field (R385, R392, R396, R397, R404, R419). -/
def Obligations.ForcedChanges : Prop :=
  ∀ (s : State),
    let p := s.pwr
    let frost (c : Nat) (t : State) : Prop := t.pwr.state = 1 ∧ t.pwr.causes = [c] ∧ t.pwr.virEn = false ∧
      t.plane.clockOn = false ∧ t.plane.cores = [] ∧ (1 ≤ s.ldr.state → s.ldr.state ≤ 7 → t.ldr.fCode = 0x13)
    exec .virOkAsserted s = .next { s with pwr := { p with virOk := true } } ∧
    (s.bg.ready = true → p.causes = [] → p.parkS = none → 1 < p.state →
      (∀ c, 1 ≤ c → c ≤ 3 → Does (.forcedChange c) s (frost c)) ∧
      (Does (.forcedChange 4) s fun t => t.pwr.state = p.state ∧ t.pwr.causes = [4]) ∧
      (p.virEn = true → Does (.virUndervoltage true) s fun t => frost 2 t ∧ t.bg.clean = false)) ∧
    (s.bg.ready = false → ∀ c, 1 ≤ c → c ≤ 4 → exec (.forcedChange c) s = .next s) ∧
    (Does (.forcedChange 5) s fun t => t.pwr.state = 0 ∧ t.pwr.off = true ∧ t.thm.hot = true ∧ t.bg.ready = false ∧
      t.bg.clean = false ∧ t.plane = {} ∧ t.kv.mem = [] ∧ t.wst.mem = s.wst.mem) ∧
    (∀ c, c = 0 ∨ 5 < c → exec (.forcedChange c) s = .next s) ∧
    (p.virEn = false → exec (.virUndervoltage false) s = .next s) ∧
    (p.causes = [2] → Does .virOkRestored s fun t => t.pwr.causes = [] ∧ t.pwr.virOk = true ∧ t.pwr.state = p.state) ∧
    (inPhases s = true → p.virEn = true → p.virOk = false →
      (s.bg.virFails < 2 → Does .virOkTimeout s fun t => t.pwr.virEn = false ∧ t.bg.virFails = s.bg.virFails + 1 ∧
        t.bg.virRetryAt = some (s.now + 1000000) ∧ t.bg.phaseOn = true) ∧
      (2 ≤ s.bg.virFails → Does .virOkTimeout s fun t => t.pwr.virEn = false ∧ t.bg.stopc = 2 ∧ t.bg.phaseOn = false)) ∧
    (inPhases s = false → exec .virOkTimeout s = .next s) ∧
    (∀ die pf cl tile rail, dieThere s die = true → pf < 48 → cl < 12 → tile < 8 → rail < 6 →
      Does (.regulatorTileTrip die pf cl tile rail) s fun t => t.pwr.trips = min 65535 (p.trips + 1) ∧ t.bg.clean = false ∧
        bit t.pwr.regflt.toNat 63 = true ∧ bits t.pwr.regflt.toNat 62 60 = die ∧ bits t.pwr.regflt.toNat 59 54 = pf ∧
        bits t.pwr.regflt.toNat 53 50 = cl ∧ bits t.pwr.regflt.toNat 49 47 = tile ∧ bits t.pwr.regflt.toNat 46 44 = rail ∧
        (die = 0 → 2 ≤ rail → t.bg.fieldSt = s.bg.fieldSt ∧ t.plane = s.plane) ∧
        (die = 0 → rail ≤ 1 → fieldState t pf ≠ 0 ∧
          (s.plane.progRun = true → ∃ f, t.plane.faults = s.plane.faults ++ [f] ∧ f.cls = 0xF))) ∧
    (∀ pf cl nb, pf < 48 → cl < 12 →
      (tget 0 p.feeds (12 * pf + cl) = 0 → Does (.vtransitFeedTrip pf cl nb) s fun t =>
        tget 0 t.pwr.feeds (12 * pf + cl) = (if nb then 2 else 1) ∧ t.pwr.single = min 65535 (p.single + 1) ∧
        t.bg.fieldSt = s.bg.fieldSt ∧ t.plane = s.plane) ∧
      (tget 0 p.feeds (12 * pf + cl) = (if nb then 1 else 2) → Does (.vtransitFeedTrip pf cl nb) s fun t =>
        tget 0 t.pwr.feeds (12 * pf + cl) = 3 ∧ 2 ≤ fieldState t pf ∧
        (s.plane.progRun = true → ∃ f, t.plane.faults = s.plane.faults ++ [f] ∧ f.cls = 0xE)))

/-- A sample sets the sensors and the control reading, asks for slower clock steps above the limit and powers off after a second
sample above 105 degrees C; the effective cap is the least term, and the clock step follows it; a coolant stop forces Frost
until coolant is back; the dew-point flag has its hysteresis; a sensor calibration makes every valid sensor read the inlet
(R398-R401, R403, R405-R409, R411). -/
def Obligations.ThermalControl : Prop :=
  ∀ (s : State) (p : Nat), tablesOk s = true → s.pwr.off = false →
    let m := s.thm
    (s.bg.vsb = true → ∀ (i : Nat) (a b : Int), i < 1152 → -320 ≤ a → a ≤ 1200 → -320 ≤ b → b ≤ 1200 →
      (m.pairs = [] → Does (.thermalSample [(i, a, b)]) s fun t =>
        (t.pair i).a = a ∧ (t.pair i).b = b ∧ (t.pair i).ctl = max a b ∧
        (max a b ≤ 760 → t.pwr.stepReq = s.pwr.stepReq) ∧
        (760 < max a b → max a b ≤ 800 → m.dwellHi = false → t.pwr.stepReq = some (min 6 (stepAsked s + 1))) ∧
        (800 < max a b → t.pwr.stepReq = some 6)) ∧
      (m.pairs = [(i, { hotA := 1 })] → 840 < a → Does (.thermalSample [(i, a, b)]) s fun t =>
        t.pwr.state = 0 ∧ t.pwr.off = true ∧ t.thm.hot = true)) ∧
    (Does (.powerCapUpdate p) s fun t =>
      (p < 1000 → t.thm.rth = m.rth) ∧
      (1000 ≤ p → t.thm.rth = (List.range 4).map fun k => ((kindHot s k - inletT s) * 125000 / (p : Int)).toNat) ∧
      (∀ x, x ∈ capTerms t → t.thm.eff ≤ x.1) ∧ (t.thm.eff, t.thm.effSrc) ∈ capTerms t) ∧
    (let e := (effCap s).1
     let c := s.pwr.step
     Does (.clockStepControl p) s fun t => t.pwr.power = p ∧ t.pwr.step = c ∧ t.thm.eff = e ∧
       (e < p → t.pwr.stepReq = some (min 6 (max (fastestFit p e c) (s.pwr.stepReq.getD 0)))) ∧
       (p ≤ e → c = 0 → t.pwr.stepReq = s.pwr.stepReq) ∧
       (∀ w, p ≤ e → 0 < c → c ≤ 6 → stepFits p e c (c - 1) = true → m.fitUs = some w → w + 1000000 ≤ s.now →
         m.dwellHi = false → s.pwr.stepReq = none → t.pwr.stepReq = some (c - 1))) ∧
    (∀ w, m.overUs = some w → s.bg.ready = true → s.pwr.causes = [] → s.pwr.parkS = none →
      (w + 100000 ≤ s.now → Does .capBelowStep6 s fun t => t.pwr.causes = [4] ∧ t.pwr.state = s.pwr.state) ∧
      (s.now < w + 100000 → exec .capBelowStep6 s = .next s)) ∧
    (coolantLost s = false → exec .coolantStop s = .next s) ∧
    (coolantLost s = true → s.bg.ready = true → 2 ≤ s.pwr.state → s.pwr.causes = [] → s.pwr.parkS = none →
      Does .coolantStop s fun t => t.pwr.state = 1 ∧ t.pwr.causes = [1] ∧ t.pwr.virEn = false ∧ t.thm.stop = true) ∧
    (m.cplIn = true → m.cplOut = true → s.pwr.causes = [1] →
      (flowFor s 5000000 = true → Does .coolantRestored s fun t => t.pwr.causes = [] ∧ t.thm.stop = m.stop) ∧
      (flowFor s 5000000 = false → exec .coolantRestored s = .next s)) ∧
    ((s.chan 17).atRail = false → (s.chan 18).atRail = false → (s.chan 12).atRail = false → (s.chan 13).atRail = false →
      let d := dewPoint s m.mhum m.amb
      Does .dewPointCheck s fun t => t.thm.dewT = d ∧ (m.inlet < d → t.thm.dew = true) ∧ (d + 8 ≤ m.inlet → t.thm.dew = false) ∧
        (d ≤ m.inlet → m.inlet < d + 8 → t.thm.dew = m.dew)) ∧
    ((s.chan 17).atRail = true → exec .dewPointCheck s = .next { s with thm := { m with dew := false } }) ∧
    (s.pwr.state ≠ 1 → exec .sensorRecal s = .next { s with thm := { m with refused := true } }) ∧
    (s.bg.ready = true → s.pwr.state = 1 → flowFor s 60000000 = true → Does .sensorRecal s fun t => t.thm.refused = false ∧
      ∀ i, i < 1448 → pairThere s i = true → (t.pair i).split = false ∧ (t.pair i).band = 0 ∧
        (validT (s.pair i).a = true → (t.pair i).a = m.inlet) ∧ (validT (s.pair i).b = true → (t.pair i).b = m.inlet))

/-! ### Bring-up (chapter 14) -/

/-- VSB starts phase 1 and its loss ends everything but the weights; reset hold keeps engine time and the tenants' owner registers;
its release starts phase 2; each phase ends in the next, with what its tests found, and phase 6 in Run with SRAM zero; a
unit that fails the test after a squall is fenced; a second disagreement of the Barograph's votes stops bring-up (R413-R426). -/
def Obligations.BringupActs : Prop :=
  ∀ (s : State), tablesOk s = true →
    let b := s.bg
    let goes (bg : Bg) : Host.Outcome State Fault Refusal := .next { s with bg := bg }
    (∀ hi ok, b.vsb = false → Does (.vsbApply hi ok) s fun t => t.bg.vsb = true ∧ t.bg.phase = 1 ∧ t.bg.phaseOn = ok ∧
      t.bg.stopc = (if ok then 0 else 1) ∧ t.pwr.off = false ∧ t.pwr.compat = hi ∧ t.plane = {} ∧ t.hub.time = 0 ∧
      t.wst.mem = s.wst.mem ∧ t.fuses = s.fuses) ∧
    (∀ hi ok, b.vsb = true → exec (.vsbApply hi ok) s = .next s) ∧
    (b.vsb = true → Does .vsbLoss s fun t => t.pwr.state = 0 ∧ t.pwr.off = true ∧ t.bg.vsb = false ∧ t.bg.perst = true ∧
      t.bg.ready = false ∧ t.plane = {} ∧ t.kv.mem = [] ∧ t.hub.parked = [] ∧ t.wst.mem = s.wst.mem) ∧
    (b.perst = false → Does .perstAssert s fun t => t.bg.perst = true ∧ t.bg.ready = false ∧ t.bg.phaseOn = false ∧
      t.plane.sram = [] ∧ t.plane.cores = [] ∧ t.hub.time = s.hub.time ∧ t.wst.mem = s.wst.mem ∧ ∀ n,
        (t.tenant n).gCfg = (s.tenant n).gCfg ∧ (t.tenant n).level = (s.tenant n).level ∧
        (t.tenant n).quota = (s.tenant n).quota ∧ (t.tenant n).sqBase = 0 ∧ (t.tenant n).mse = false ∧ (t.tenant n).bme = false) ∧
    (b.perst = true → b.vsb = true →
      (s.adc.calIsoPin = true → exec .perstRelease s = goes { b with relWait := true }) ∧
      (s.adc.calIsoPin = false → b.stopc = 0 → b.phaseOn = false → b.ready = false → b.hotWait = false →
        Does .perstRelease s fun t => t.bg.perst = false ∧ t.bg.phase = 2 ∧ t.bg.phaseOn = true ∧ t.bg.cwait = true)) ∧
    (b.phase = 2 → b.phaseOn = true → b.cwait = true → s.thm.cplIn = true → s.thm.cplOut = true → s.pwr.boardIn = true →
      (flowFor s 5000000 = true → Does .coolantConditionMet s fun t =>
        t.pwr.virEn = true ∧ t.pwr.setpt = 1500 ∧ t.bg.cwait = false ∧ t.bg.phase = 2) ∧
      (flowFor s 5000000 = false → exec .coolantConditionMet s = .next s)) ∧
    (b.phaseOn = true → b.stopc = 0 → s.pwr.causes = [] →
      (b.phase = 1 → b.perst = true → exec (.bringupPhaseComplete []) s = goes { b with phaseOn := false }) ∧
      (b.phase = 2 → s.pwr.virOk = false → exec (.bringupPhaseComplete []) s = .next s) ∧
      (b.phase = 2 → s.pwr.virEn = true → s.pwr.virOk = true → Does (.bringupPhaseComplete []) s fun t =>
        t.bg = { b with phase := 3 } ∧ t.host.linkUp = (s.host.linkUp || bit s.pnl.pres.toNat 17) ∧ t.plane = s.plane ∧ t.pwr = s.pwr) ∧
      (3 ≤ b.phase → b.phase ≤ 5 → exec (.bringupPhaseComplete []) s = goes { b with phase := b.phase + 1 }) ∧
      (b.phase = 3 → Does (.bringupPhaseComplete [.planeRef]) s fun t =>
        t.bg.stopc = 3 ∧ t.bg.phaseOn = false ∧ t.pwr.virEn = false) ∧
      (b.phase = 6 → Does (.bringupPhaseComplete []) s fun t => t.bg.ready = true ∧ t.bg.phaseOn = false ∧ t.pwr.state = 5 ∧
        t.plane.sram = [] ∧ t.plane.cores = [] ∧ t.plane.clockOn = true ∧ t.jet.badMask = b.badMask ∧ t.ldr.state = 0) ∧
      (∀ c, c < nCores → b.phase = 6 → Does (.bringupPhaseComplete [.core c]) s fun t =>
        t.bg.ready = true ∧ bit (tget 0 t.jet.badMask (c / 32)).toNat (c % 32) = true)) ∧
    (∀ c dur, c < nCores → b.testFor = some (0, c) →
      (s.running = true → ∀ r, exec (.postSquallTest r dur) s = .next s) ∧
      (s.running = false →
        (Does (.postSquallTest 0 dur) s fun t => t.bg.testFor = none ∧ bit t.bg.test.toNat 63 = true ∧ t.bg.badMask = b.badMask) ∧
        (Does (.postSquallTest 2 dur) s fun t => t.bg.testFor = none ∧ t.bg.clean = false ∧
          bit (tget 0 t.bg.badMask (c / 32)).toNat (c % 32) = true))) ∧
    (b.testFor = none → exec (.postSquallTest 0 0) s = .next s) ∧
    (b.vsb = true → b.voteAt = none →
      exec .barographVoteDisagreement s = goes { b with clean := false, voteAt := some s.now }) ∧
    (∀ w, b.vsb = true → b.voteAt = some w → s.now < w + 1000000 → b.ready = false →
      Does .barographVoteDisagreement s fun t => t.bg.stopc = 5 ∧ t.bg.phaseOn = false ∧ t.pwr.virEn = false ∧ t.bg.clean = false)

/-! ### The service panel (chapter 15) -/

/-- The ATTN button, physical presence, the removal sequence with its cancel, the touch pads and the presence detects (R430,
R432, R434, R435, R450, R483). -/
def Obligations.PanelActs : Prop :=
  ∀ (s : State), tablesOk s = true → s.pwr.off = false →
    let k := s.pnl
    exec .attnPress s = .next { s with pnl := { k with acked := true, ident := false, attn := false } } ∧
    (removing s = false →
      exec .attnHold s = .next { s with pnl := { k with presUntil := some (s.now + 60000000), attn := false } } ∧
      exec .removalCancel s = .next s) ∧
    (s.pwr.causes = [3] → s.bg.ready = true →
      (Does .attnHold s fun t => t.pwr.causes = [] ∧ t.hub.admitOff = false ∧ t.pnl.presUntil = k.presUntil) ∧
      (Does .removalCancel s fun t => t.pwr.causes = [] ∧ t.hub.admitOff = false ∧ t.pwr.parkS = none) ∧
      exec .removePress s = .next { s with pnl := { k with remove := false } } ∧
      (∀ w, s.pwr.parkS = some w → w ≤ s.now → 1 < s.pwr.state → Does .removalParkTimeout s fun t =>
        t.pwr.state = 1 ∧ t.pwr.parkS = none ∧ t.pwr.virEn = false ∧ t.pwr.causes = [3])) ∧
    (∀ w, s.pwr.parkS = some w → s.now < w → parksOver s = false → exec .removalParkTimeout s = .next s) ∧
    (∀ w, k.presUntil = some w →
      (w ≤ s.now → exec .presenceExpiry s = .next { s with pnl := { k with presUntil := none } }) ∧
      (s.now < w → exec .presenceExpiry s = .next s)) ∧
    (s.pwr.causes = [] →
      (s.bg.ready = false → Does .removePress s fun t => t.pwr.causes = [3] ∧ t.hub.admitOff = true ∧ t.pwr.state = s.pwr.state) ∧
      (s.bg.ready = true → 4 ≤ s.pwr.state → parksOver s = false → Does .removePress s fun t => t.pwr.causes = [3] ∧
        t.hub.admitOff = true ∧ t.hub.parkAll = true ∧ t.pwr.parkS = some (s.now + max 1 k.parkS * 1000000)) ∧
      (s.bg.ready = true → 1 < s.pwr.state → s.pwr.parkS = none → s.hub.slots = [] → Does .removePress s fun t =>
        t.pwr.causes = [3] ∧ t.pwr.state = 1 ∧ t.hub.admitOff = true)) ∧
    (∀ pad mean, pad < 4 →
      let c := s.chan (19 + pad)
      let past (x : Nat) : Prop := 2 * c.hist.sum + x * c.hist.length ≤ 2 * mean * c.hist.length ∧ c.hist ≠ []
      let x := max 1 s.adc.thr
      (c.touched = false → past (2 * x) → 1 ≤ c.above → Does (.touchDetect pad mean) s fun t =>
        (t.chan (19 + pad)).touched = true ∧ t.pnl.touch = true) ∧
      (c.touched = false → ¬ past (2 * x) → Does (.touchDetect pad mean) s fun t =>
        (t.chan (19 + pad)).touched = false ∧ (t.chan (19 + pad)).hist = (mean :: c.hist).take 10000) ∧
      (c.touched = true → ¬ past x → 9 ≤ c.below → Does (.touchDetect pad mean) s fun t =>
        (t.chan (19 + pad)).touched = false)) ∧
    (∀ n v, n < 18 → Does (.presenceChange n v) s fun t => bit t.pnl.pres.toNat n = v ∧
      (∀ m, m < 18 → m ≠ n → bit t.pnl.pres.toNat m = bit k.pres.toNat m) ∧ (n = 14 → t.thm.cplIn = v) ∧ (n = 15 → t.thm.cplOut = v) ∧
      (n < 12 → v = false → (t.port n).st = 0) ∧ (n = 17 → v = false → t.host.linkUp = false)) ∧
    (∀ v, v = true ∨ s.bg.relWait = false →
      exec (.calIsoChange v) s = .next { s with adc := { s.adc with calIsoPin := v } }) ∧
    (s.bg.relWait = true → s.bg.perst = true → s.bg.vsb = true → Does (.calIsoChange false) s fun t =>
      t.bg.perst = false ∧ t.adc.calIsoPin = false)

/-! ### The telemetry converter (chapter 15) -/

/-- A sample is corrected and used, and the end of a frame takes the currents; front-end temperatures are kept; a drift calibration
begins with the due channel and ends accepted or rejected; writes of the front-end layer and the system capture do what the
chapter says (R437-R447). -/
def Obligations.ConverterActs : Prop :=
  ∀ (s : State) (n mean : Nat) (raw : BitVec 14) (v : BitVec 64), tablesOk s = true → s.pwr.off = false → n < 24 →
    let a := s.adc
    let c := s.chan n
    let ended (r : Nat) (t : State) : Prop := t.adc.scGo = false ∧ t.adc.scResult = r
    (∀ slot, slot < 124 → slotChan a.frame slot = n → Does (.adcSample slot raw) s fun t =>
      let x := systemLayer n c (uOf (if c.shadow then s.chan 24 else c) (16 * raw.toNat) 1)
      let d := t.chan n
      d.last = x ∧ d.sum = c.sum + x ∧ d.cnt = c.cnt + 1 ∧ d.atRail = (raw == 0 || raw == 16383) ∧
      d.ovr = (c.ovr || raw == 0 || raw == 16383) ∧ (n = 12 → t.thm.inlet = x) ∧ (n = 13 → t.thm.outlet = x) ∧
      (n = 14 → t.thm.flow = x.toNat) ∧ (∀ m, m ≠ n → t.chan m = s.chan m)) ∧
    (Does (.adcSample 124 raw) s fun t => t.adc.frame = a.frame + 1 ∧ t.pwr.amps = virAmps s ∧
      (a.busy = none → (t.chan 24).ovr = ((s.chan 24).ovr || raw == 0 || raw == 16383)) ∧
      (a.busy ≠ none → (t.chan 24).ovr = (s.chan 24).ovr) ∧
      ((a.frame + 1) % 50 ≠ 0 → t.pwr.vmin = s.pwr.vmin) ∧
      ((a.frame + 1) % 50 = 0 → t.pwr.vmin = (a.vSum + virLow s) / 500)) ∧
    (∀ l : List Int, l.length ≤ 25 → Does (.feTempRead l) s fun t => ∀ m,
      (t.chan m).tfe = l.getD m (s.chan m).tfe ∧ (t.chan m).z = (s.chan m).z) ∧
    (∀ sz sf z f, a.busy = none → driftNext s = none → exec (.driftCalibration sz sf z f) s = .next s) ∧
    (∀ sz sf z f, a.busy = none → driftNext s = some n → Does (.driftCalibration sz sf z f) s fun t => t.adc.busy = some n ∧
      (t.chan n).shadow = true ∧ (t.chan 24).z = BitVec.ofNat 20 sz ∧ (t.chan 24).span = BitVec.ofNat 20 sf) ∧
    (∀ sz sf z f, a.busy = some n →
      (driftBad c z f = true → Does (.driftCalibration sz sf z f) s fun t => t.adc.busy = none ∧
        t.adc.rej = min 65535 (a.rej + 1) ∧ (t.chan n).retryAt = some (s.now + 10000000) ∧ (t.chan n).z = c.z ∧
        (t.chan n).shadow = false) ∧
      (driftBad c z f = false → Does (.driftCalibration sz sf z f) s fun t => t.adc.busy = none ∧
        t.adc.drifts = min 65535 (a.drifts + 1) ∧ (t.chan n).z = BitVec.ofNat 20 z ∧ (t.chan n).span = BitVec.ofNat 20 f ∧
        (t.chan n).tcal = c.tfe ∧ (t.chan n).shadow = false)) ∧
    (∀ w, c.retryAt = some w → (s.now < w → exec (.driftRetry n) s = .next s) ∧
      (w ≤ s.now → Does (.driftRetry n) s fun t => t.chan n = { c with retryAt := none, due := max 1 c.due })) ∧
    (Does .driftAll s fun t => t.chan n = { c with due := max 1 c.due } ∧ t.chan 24 = s.chan 24) ∧
    (Does (.adcFeWrite n v) s fun t => (t.chan n).z.toNat = bits v.toNat 51 32 ∧ (t.chan n).span.toNat = bits v.toNat 19 0 ∧
      (t.chan n).shadow = false ∧ (a.busy = some n → t.adc.busy = none) ∧
      (a.busy = some n → a.scGo = true → a.capCh.toNat = n → ended 5 t)) ∧
    (a.scGo = false → exec (.syscalPoint0 mean) s = .next s ∧ exec (.syscalPoint1 mean) s = .next s) ∧
    (a.scGo = true → a.capCh.toNat = n → a.busy ≠ some n →
      let u := uOf c mean 256
      (a.capPoint = false → Does (.syscalPoint0 mean) s fun t =>
        ended 0 t ∧ t.adc.zeroPt = some (n, a.capValue.toInt, u.1, u.2) ∧ t.adc.ch = a.ch) ∧
      (∀ zv (p q : Int), a.capPoint = true → a.zeroPt = some (n, zv, p, q) →
        let det := u.1 * q - p * u.2
        (10 * (det.natAbs : Int) < q * u.2 → Does (.syscalPoint1 mean) s fun t =>
          ended 1 t ∧ t.adc.zeroPt = none ∧ t.adc.ch = a.ch) ∧
        (q * u.2 ≤ 10 * (det.natAbs : Int) → isPt n = false → Does (.syscalPoint1 mean) s fun t =>
          ended 0 t ∧ t.adc.zeroPt = none ∧ (t.chan n).z = c.z ∧
          (t.chan n).s1 = coefBits (rneQuot (256 * (a.capValue.toInt - zv) * q * u.2) det) ∧
          (t.chan n).s0 = coefBits (rneQuot (256 * (zv * det - (a.capValue.toInt - zv) * p * u.2)) det))))

/-! ### Registers (chapters 00, 12 and 17) -/

/-- An 8-byte read of a 64-bit register answers the whole value; a 4-byte read of its lower half latches the upper half, which the
next read of the upper half answers and releases; an 8-byte write writes the whole value; a write of the lower half is kept until
the upper half is written, and both take effect together; an access of another width or alignment is an unsupported request; a
reserved offset reads 0 and drops writes, and so does every block that is not up before Ready; a tenant's view reads its gauge but
does not write it, and writes to a draining tenant's rings are counted (R14-R17, R352, R359, R420, R470). -/
def Obligations.RegisterAccess : Prop :=
  ∀ (s : State) (off n t : Nat) (v : BitVec 64), tablesOk s = true → off < 0x1000000 →
    let at64 : Prop := placeHit none off 4 = some (off, 8) ∧ placeHit none (off + 4) 4 = some (off, 8) ∧
      placeHit none off 8 = some (off, 8)
    let x := readPf s off
    let reply (u : State) (w : BitVec 64) : Host.Outcome State Fault Refusal := .next (u.emit (.mmioRead (some w)))
    (blockUp s none off = true → blockUp s none (off + 4) = true → off + 4 < 0x1000000 → at64 →
      exec (.lowerHalfRead .owner ⟨off, 8⟩) s = reply s (BitVec.ofNat 64 x) ∧
      exec (.registerWrite .owner off 8 v) s = .next (writePf (s.setHalf off none) off v.toNat) ∧
      exec (.lowerHalfRead .owner ⟨off, 4⟩) s =
        reply (s.setLatch off (some (BitVec.ofNat 32 (x / 2 ^ 32)))) (BitVec.ofNat 64 (x % 2 ^ 32)) ∧
      (∀ u, s.latchOf off = some u →
        exec (.upperHalfRead .owner ⟨off + 4, 4⟩) s = reply (s.setLatch off none) (u.setWidth 64)) ∧
      (s.latchOf off = none →
        exec (.upperHalfRead .owner ⟨off + 4, 4⟩) s = reply s (BitVec.ofNat 64 (x / 2 ^ 32 % 2 ^ 32))) ∧
      exec (.registerWrite .owner off 4 v) s = .next (s.setHalf off (some (v.setWidth 32))) ∧
      (∀ l, s.halfAt off = some l → exec (.registerWrite .owner (off + 4) 4 v) s =
        .next (writePf (s.setHalf off none) off (v.toNat % 2 ^ 32 * 2 ^ 32 + l.toNat))) ∧
      (s.halfAt off = none → exec (.registerWrite .owner (off + 4) 4 v) s =
        .next (writePf (s.setHalf off none) off (v.toNat % 2 ^ 32 * 2 ^ 32 + x % 2 ^ 32)))) ∧
    (∀ r, blockUp s none off = true → placeHit none off n = some r → accessOk r off n = false →
      exec (.registerWrite .owner off n v) s = .next (s.emit .ur) ∧
      exec (.lowerHalfRead .owner ⟨off, n⟩) s = .next (s.emit (.mmioRead none)) ∧
      exec (.upperHalfRead .owner ⟨off, n⟩) s = .next (s.emit (.mmioRead none))) ∧
    (blockUp s none off = true → placeHit none off 4 = none → inWindow none off 4 = false → inDevice none off = false →
      nextHit .owner off 4 = false →
      exec (.lowerHalfRead .owner ⟨off, 4⟩) s = reply s 0 ∧ exec (.registerWrite .owner off 4 v) s = .next s) ∧
    (s.bg.ready = false → 0x500000 ≤ off → off < 0xD00000 → exec (.lowerHalfRead .owner ⟨off, n⟩) s = reply s 0 ∧
      exec (.upperHalfRead .owner ⟨off, n⟩) s = reply s 0 ∧ exec (.registerWrite .owner off n v) s = .next s) ∧
    (exec (.lowerHalfRead .owner ⟨0x4000000, n⟩) s = .next (s.emit (.mmioRead none)) ∧
      exec (.registerWrite .owner 0x4000000 8 v) s = .next (s.emit .ur)) ∧
    (s.bg.ready = true → t < 256 →
      (Does (.registerWrite .owner (0x1000000 + 0x10000 * t + 0x1008) 8 v) s fun u =>
        u.tenant t = { s.tenant t with gCfg := v } ∧ u.plane = s.plane ∧ u.hub = s.hub) ∧
      exec (.registerWrite (.tenant t) 0x1008 8 v) s = .next s ∧
      ((s.tenant t).draining = true → Does (.registerWrite (.tenant t) 0x20 8 v) s fun u =>
        u.tenant t = { s.tenant t with drops := min 255 ((s.tenant t).drops + 1) }))

/-- Every register of the owner's aperture reads its reset value at reset, and every register of a disabled tenant's block reads 0
(R471, R472). Left out: the registers that the fuses and the stores give, and WST_HEALTH, which counts over the part's life. -/
def Obligations.ResetValues : Prop :=
  let nonzero : List (Nat × Nat) := [(0x100000, 5), (0x200000, 9000), (0x200010, 0x578), (0x200020, 0x258), (0x300308, 4),
    (0x300310, 0xFF0000), (0x300318, 0x100), (0xA00010, 0x10000), (0xF00000, 0x1E00)]
  let given (o : Nat) : Bool := o == 0 || (o / 0x100 == 0x3002) || o == 0xA00300 || (o / 0x100000 == 0xB)
  let offsets (l : List (Nat × Nat × Nat × Nat)) : List Nat := l.flatMap fun r => (List.range r.2.1).map fun j => r.1 + j * r.2.2.1
  (∀ o, o ∈ offsets pfRegs → given o = false →
    readPf State.reset o = ((nonzero.find? fun e => e.1 == o).map (·.2)).getD 0) ∧
  (∀ t o, t < 256 → o ∈ offsets tenantRegs → readTenant State.reset t o = 0)
end

