-- ==== Sys2Proof/Laws/State.lean ====
section
/-! SUPPORT. What each update of the state leaves alone: one lemma per field per update. -/

namespace Sys2Proof.Laws

open Sys2Proof Sys2Proof.Machine

variable (s : State)

/-! ### withPlane -/

@[simp] theorem withPlane_fuses (p : Plane) : (s.withPlane p).fuses = s.fuses := rfl
@[simp] theorem withPlane_plane (p : Plane) : (s.withPlane p).plane = p := rfl
@[simp] theorem withPlane_jet (p : Plane) : (s.withPlane p).jet = s.jet := rfl
@[simp] theorem withPlane_ldr (p : Plane) : (s.withPlane p).ldr = s.ldr := rfl
@[simp] theorem withPlane_wst (p : Plane) : (s.withPlane p).wst = s.wst := rfl
@[simp] theorem withPlane_kv (p : Plane) : (s.withPlane p).kv = s.kv := rfl
@[simp] theorem withPlane_hub (p : Plane) : (s.withPlane p).hub = s.hub := rfl
@[simp] theorem withPlane_tenants (p : Plane) : (s.withPlane p).tenants = s.tenants := rfl
@[simp] theorem withPlane_host (p : Plane) : (s.withPlane p).host = s.host := rfl
@[simp] theorem withPlane_iso (p : Plane) : (s.withPlane p).iso = s.iso := rfl
@[simp] theorem withPlane_pwr (p : Plane) : (s.withPlane p).pwr = s.pwr := rfl
@[simp] theorem withPlane_thm (p : Plane) : (s.withPlane p).thm = s.thm := rfl
@[simp] theorem withPlane_bg (p : Plane) : (s.withPlane p).bg = s.bg := rfl
@[simp] theorem withPlane_pnl (p : Plane) : (s.withPlane p).pnl = s.pnl := rfl
@[simp] theorem withPlane_adc (p : Plane) : (s.withPlane p).adc = s.adc := rfl
@[simp] theorem withPlane_sec (p : Plane) : (s.withPlane p).sec = s.sec := rfl
@[simp] theorem withPlane_jtag (p : Plane) : (s.withPlane p).jtag = s.jtag := rfl
@[simp] theorem withPlane_out (p : Plane) : (s.withPlane p).out = s.out := rfl
@[simp] theorem withPlane_free (p : Plane) : (s.withPlane p).free = s.free := rfl
@[simp] theorem withPlane_pending (p : Plane) : (s.withPlane p).pending = s.pending := rfl

/-! ### setCore -/

@[simp] theorem setCore_fuses (c : Nat) (k : Core) : (s.setCore c k).fuses = s.fuses := rfl
@[simp] theorem setCore_jet (c : Nat) (k : Core) : (s.setCore c k).jet = s.jet := rfl
@[simp] theorem setCore_ldr (c : Nat) (k : Core) : (s.setCore c k).ldr = s.ldr := rfl
@[simp] theorem setCore_wst (c : Nat) (k : Core) : (s.setCore c k).wst = s.wst := rfl
@[simp] theorem setCore_kv (c : Nat) (k : Core) : (s.setCore c k).kv = s.kv := rfl
@[simp] theorem setCore_hub (c : Nat) (k : Core) : (s.setCore c k).hub = s.hub := rfl
@[simp] theorem setCore_tenants (c : Nat) (k : Core) : (s.setCore c k).tenants = s.tenants := rfl
@[simp] theorem setCore_host (c : Nat) (k : Core) : (s.setCore c k).host = s.host := rfl
@[simp] theorem setCore_iso (c : Nat) (k : Core) : (s.setCore c k).iso = s.iso := rfl
@[simp] theorem setCore_pwr (c : Nat) (k : Core) : (s.setCore c k).pwr = s.pwr := rfl
@[simp] theorem setCore_thm (c : Nat) (k : Core) : (s.setCore c k).thm = s.thm := rfl
@[simp] theorem setCore_bg (c : Nat) (k : Core) : (s.setCore c k).bg = s.bg := rfl
@[simp] theorem setCore_pnl (c : Nat) (k : Core) : (s.setCore c k).pnl = s.pnl := rfl
@[simp] theorem setCore_adc (c : Nat) (k : Core) : (s.setCore c k).adc = s.adc := rfl
@[simp] theorem setCore_sec (c : Nat) (k : Core) : (s.setCore c k).sec = s.sec := rfl
@[simp] theorem setCore_jtag (c : Nat) (k : Core) : (s.setCore c k).jtag = s.jtag := rfl
@[simp] theorem setCore_out (c : Nat) (k : Core) : (s.setCore c k).out = s.out := rfl
@[simp] theorem setCore_free (c : Nat) (k : Core) : (s.setCore c k).free = s.free := rfl
@[simp] theorem setCore_pending (c : Nat) (k : Core) : (s.setCore c k).pending = s.pending := rfl
@[simp] theorem setCore_plane_cycle (c : Nat) (k : Core) : (s.setCore c k).plane.cycle = s.plane.cycle := rfl
@[simp] theorem setCore_plane_clockOn (c : Nat) (k : Core) : (s.setCore c k).plane.clockOn = s.plane.clockOn := rfl
@[simp] theorem setCore_plane_progRun (c : Nat) (k : Core) : (s.setCore c k).plane.progRun = s.plane.progRun := rfl
@[simp] theorem setCore_plane_cores (c : Nat) (k : Core) : (s.setCore c k).plane.cores = tset {} s.plane.cores c k := rfl
@[simp] theorem setCore_plane_sram (c : Nat) (k : Core) : (s.setCore c k).plane.sram = s.plane.sram := rfl
@[simp] theorem setCore_plane_sramErr (c : Nat) (k : Core) : (s.setCore c k).plane.sramErr = s.plane.sramErr := rfl
@[simp] theorem setCore_plane_xfers (c : Nat) (k : Core) : (s.setCore c k).plane.xfers = s.plane.xfers := rfl
@[simp] theorem setCore_plane_wlds (c : Nat) (k : Core) : (s.setCore c k).plane.wlds = s.plane.wlds := rfl
@[simp] theorem setCore_plane_kvs (c : Nat) (k : Core) : (s.setCore c k).plane.kvs = s.plane.kvs := rfl
@[simp] theorem setCore_plane_hputs (c : Nat) (k : Core) : (s.setCore c k).plane.hputs = s.plane.hputs := rfl
@[simp] theorem setCore_plane_packets (c : Nat) (k : Core) : (s.setCore c k).plane.packets = s.plane.packets := rfl
@[simp] theorem setCore_plane_resvs (c : Nat) (k : Core) : (s.setCore c k).plane.resvs = s.plane.resvs := rfl
@[simp] theorem setCore_plane_nextId (c : Nat) (k : Core) : (s.setCore c k).plane.nextId = s.plane.nextId := rfl
@[simp] theorem setCore_plane_faults (c : Nat) (k : Core) : (s.setCore c k).plane.faults = s.plane.faults := rfl
@[simp] theorem setCore_plane_fTimer (c : Nat) (k : Core) : (s.setCore c k).plane.fTimer = s.plane.fTimer := rfl
@[simp] theorem setCore_plane_fFirst (c : Nat) (k : Core) : (s.setCore c k).plane.fFirst = s.plane.fFirst := rfl
@[simp] theorem setCore_plane_fLast (c : Nat) (k : Core) : (s.setCore c k).plane.fLast = s.plane.fLast := rfl
@[simp] theorem setCore_plane_freezeCnt (c : Nat) (k : Core) : (s.setCore c k).plane.freezeCnt = s.plane.freezeCnt := rfl
@[simp] theorem setCore_plane_firstFrz (c : Nat) (k : Core) : (s.setCore c k).plane.firstFrz = s.plane.firstFrz := rfl
@[simp] theorem setCore_plane_slipMax (c : Nat) (k : Core) : (s.setCore c k).plane.slipMax = s.plane.slipMax := rfl
@[simp] theorem setCore_plane_fronts (c : Nat) (k : Core) : (s.setCore c k).plane.fronts = s.plane.fronts := rfl
@[simp] theorem setCore_plane_maxWait (c : Nat) (k : Core) : (s.setCore c k).plane.maxWait = s.plane.maxWait := rfl
@[simp] theorem setCore_plane_maxFront (c : Nat) (k : Core) : (s.setCore c k).plane.maxFront = s.plane.maxFront := rfl
@[simp] theorem setCore_plane_lateWt (c : Nat) (k : Core) : (s.setCore c k).plane.lateWt = s.plane.lateWt := rfl
@[simp] theorem setCore_plane_lateKv (c : Nat) (k : Core) : (s.setCore c k).plane.lateKv = s.plane.lateKv := rfl
@[simp] theorem setCore_plane_crossings (c : Nat) (k : Core) : (s.setCore c k).plane.crossings = s.plane.crossings := rfl
@[simp] theorem setCore_plane_packetCnt (c : Nat) (k : Core) : (s.setCore c k).plane.packetCnt = s.plane.packetCnt := rfl
@[simp] theorem setCore_plane_dma (c : Nat) (k : Core) : (s.setCore c k).plane.dma = s.plane.dma := rfl
@[simp] theorem setCore_plane_relGo (c : Nat) (k : Core) : (s.setCore c k).plane.relGo = s.plane.relGo := rfl
@[simp] theorem setCore_plane_pays (c : Nat) (k : Core) : (s.setCore c k).plane.pays = s.plane.pays := rfl

/-! ### modCore -/

@[simp] theorem modCore_fuses (c : Nat) (f : Core → Core) : (s.modCore c f).fuses = s.fuses := rfl
@[simp] theorem modCore_jet (c : Nat) (f : Core → Core) : (s.modCore c f).jet = s.jet := rfl
@[simp] theorem modCore_ldr (c : Nat) (f : Core → Core) : (s.modCore c f).ldr = s.ldr := rfl
@[simp] theorem modCore_wst (c : Nat) (f : Core → Core) : (s.modCore c f).wst = s.wst := rfl
@[simp] theorem modCore_kv (c : Nat) (f : Core → Core) : (s.modCore c f).kv = s.kv := rfl
@[simp] theorem modCore_hub (c : Nat) (f : Core → Core) : (s.modCore c f).hub = s.hub := rfl
@[simp] theorem modCore_tenants (c : Nat) (f : Core → Core) : (s.modCore c f).tenants = s.tenants := rfl
@[simp] theorem modCore_host (c : Nat) (f : Core → Core) : (s.modCore c f).host = s.host := rfl
@[simp] theorem modCore_iso (c : Nat) (f : Core → Core) : (s.modCore c f).iso = s.iso := rfl
@[simp] theorem modCore_pwr (c : Nat) (f : Core → Core) : (s.modCore c f).pwr = s.pwr := rfl
@[simp] theorem modCore_thm (c : Nat) (f : Core → Core) : (s.modCore c f).thm = s.thm := rfl
@[simp] theorem modCore_bg (c : Nat) (f : Core → Core) : (s.modCore c f).bg = s.bg := rfl
@[simp] theorem modCore_pnl (c : Nat) (f : Core → Core) : (s.modCore c f).pnl = s.pnl := rfl
@[simp] theorem modCore_adc (c : Nat) (f : Core → Core) : (s.modCore c f).adc = s.adc := rfl
@[simp] theorem modCore_sec (c : Nat) (f : Core → Core) : (s.modCore c f).sec = s.sec := rfl
@[simp] theorem modCore_jtag (c : Nat) (f : Core → Core) : (s.modCore c f).jtag = s.jtag := rfl
@[simp] theorem modCore_out (c : Nat) (f : Core → Core) : (s.modCore c f).out = s.out := rfl
@[simp] theorem modCore_free (c : Nat) (f : Core → Core) : (s.modCore c f).free = s.free := rfl
@[simp] theorem modCore_pending (c : Nat) (f : Core → Core) : (s.modCore c f).pending = s.pending := rfl
@[simp] theorem modCore_plane_cycle (c : Nat) (f : Core → Core) : (s.modCore c f).plane.cycle = s.plane.cycle := rfl
@[simp] theorem modCore_plane_clockOn (c : Nat) (f : Core → Core) : (s.modCore c f).plane.clockOn = s.plane.clockOn := rfl
@[simp] theorem modCore_plane_progRun (c : Nat) (f : Core → Core) : (s.modCore c f).plane.progRun = s.plane.progRun := rfl
@[simp] theorem modCore_plane_cores (c : Nat) (f : Core → Core) : (s.modCore c f).plane.cores = tset {} s.plane.cores c (f (s.core c)) := rfl
@[simp] theorem modCore_plane_sram (c : Nat) (f : Core → Core) : (s.modCore c f).plane.sram = s.plane.sram := rfl
@[simp] theorem modCore_plane_sramErr (c : Nat) (f : Core → Core) : (s.modCore c f).plane.sramErr = s.plane.sramErr := rfl
@[simp] theorem modCore_plane_xfers (c : Nat) (f : Core → Core) : (s.modCore c f).plane.xfers = s.plane.xfers := rfl
@[simp] theorem modCore_plane_wlds (c : Nat) (f : Core → Core) : (s.modCore c f).plane.wlds = s.plane.wlds := rfl
@[simp] theorem modCore_plane_kvs (c : Nat) (f : Core → Core) : (s.modCore c f).plane.kvs = s.plane.kvs := rfl
@[simp] theorem modCore_plane_hputs (c : Nat) (f : Core → Core) : (s.modCore c f).plane.hputs = s.plane.hputs := rfl
@[simp] theorem modCore_plane_packets (c : Nat) (f : Core → Core) : (s.modCore c f).plane.packets = s.plane.packets := rfl
@[simp] theorem modCore_plane_resvs (c : Nat) (f : Core → Core) : (s.modCore c f).plane.resvs = s.plane.resvs := rfl
@[simp] theorem modCore_plane_nextId (c : Nat) (f : Core → Core) : (s.modCore c f).plane.nextId = s.plane.nextId := rfl
@[simp] theorem modCore_plane_faults (c : Nat) (f : Core → Core) : (s.modCore c f).plane.faults = s.plane.faults := rfl
@[simp] theorem modCore_plane_fTimer (c : Nat) (f : Core → Core) : (s.modCore c f).plane.fTimer = s.plane.fTimer := rfl
@[simp] theorem modCore_plane_fFirst (c : Nat) (f : Core → Core) : (s.modCore c f).plane.fFirst = s.plane.fFirst := rfl
@[simp] theorem modCore_plane_fLast (c : Nat) (f : Core → Core) : (s.modCore c f).plane.fLast = s.plane.fLast := rfl
@[simp] theorem modCore_plane_freezeCnt (c : Nat) (f : Core → Core) : (s.modCore c f).plane.freezeCnt = s.plane.freezeCnt := rfl
@[simp] theorem modCore_plane_firstFrz (c : Nat) (f : Core → Core) : (s.modCore c f).plane.firstFrz = s.plane.firstFrz := rfl
@[simp] theorem modCore_plane_slipMax (c : Nat) (f : Core → Core) : (s.modCore c f).plane.slipMax = s.plane.slipMax := rfl
@[simp] theorem modCore_plane_fronts (c : Nat) (f : Core → Core) : (s.modCore c f).plane.fronts = s.plane.fronts := rfl
@[simp] theorem modCore_plane_maxWait (c : Nat) (f : Core → Core) : (s.modCore c f).plane.maxWait = s.plane.maxWait := rfl
@[simp] theorem modCore_plane_maxFront (c : Nat) (f : Core → Core) : (s.modCore c f).plane.maxFront = s.plane.maxFront := rfl
@[simp] theorem modCore_plane_lateWt (c : Nat) (f : Core → Core) : (s.modCore c f).plane.lateWt = s.plane.lateWt := rfl
@[simp] theorem modCore_plane_lateKv (c : Nat) (f : Core → Core) : (s.modCore c f).plane.lateKv = s.plane.lateKv := rfl
@[simp] theorem modCore_plane_crossings (c : Nat) (f : Core → Core) : (s.modCore c f).plane.crossings = s.plane.crossings := rfl
@[simp] theorem modCore_plane_packetCnt (c : Nat) (f : Core → Core) : (s.modCore c f).plane.packetCnt = s.plane.packetCnt := rfl
@[simp] theorem modCore_plane_dma (c : Nat) (f : Core → Core) : (s.modCore c f).plane.dma = s.plane.dma := rfl
@[simp] theorem modCore_plane_relGo (c : Nat) (f : Core → Core) : (s.modCore c f).plane.relGo = s.plane.relGo := rfl
@[simp] theorem modCore_plane_pays (c : Nat) (f : Core → Core) : (s.modCore c f).plane.pays = s.plane.pays := rfl

/-! ### sramSet -/

@[simp] theorem sramSet_fuses (a : Nat) (d : List Byte) : (s.sramSet a d).fuses = s.fuses := rfl
@[simp] theorem sramSet_jet (a : Nat) (d : List Byte) : (s.sramSet a d).jet = s.jet := rfl
@[simp] theorem sramSet_ldr (a : Nat) (d : List Byte) : (s.sramSet a d).ldr = s.ldr := rfl
@[simp] theorem sramSet_wst (a : Nat) (d : List Byte) : (s.sramSet a d).wst = s.wst := rfl
@[simp] theorem sramSet_kv (a : Nat) (d : List Byte) : (s.sramSet a d).kv = s.kv := rfl
@[simp] theorem sramSet_hub (a : Nat) (d : List Byte) : (s.sramSet a d).hub = s.hub := rfl
@[simp] theorem sramSet_tenants (a : Nat) (d : List Byte) : (s.sramSet a d).tenants = s.tenants := rfl
@[simp] theorem sramSet_host (a : Nat) (d : List Byte) : (s.sramSet a d).host = s.host := rfl
@[simp] theorem sramSet_iso (a : Nat) (d : List Byte) : (s.sramSet a d).iso = s.iso := rfl
@[simp] theorem sramSet_pwr (a : Nat) (d : List Byte) : (s.sramSet a d).pwr = s.pwr := rfl
@[simp] theorem sramSet_thm (a : Nat) (d : List Byte) : (s.sramSet a d).thm = s.thm := rfl
@[simp] theorem sramSet_bg (a : Nat) (d : List Byte) : (s.sramSet a d).bg = s.bg := rfl
@[simp] theorem sramSet_pnl (a : Nat) (d : List Byte) : (s.sramSet a d).pnl = s.pnl := rfl
@[simp] theorem sramSet_adc (a : Nat) (d : List Byte) : (s.sramSet a d).adc = s.adc := rfl
@[simp] theorem sramSet_sec (a : Nat) (d : List Byte) : (s.sramSet a d).sec = s.sec := rfl
@[simp] theorem sramSet_jtag (a : Nat) (d : List Byte) : (s.sramSet a d).jtag = s.jtag := rfl
@[simp] theorem sramSet_out (a : Nat) (d : List Byte) : (s.sramSet a d).out = s.out := rfl
@[simp] theorem sramSet_free (a : Nat) (d : List Byte) : (s.sramSet a d).free = s.free := rfl
@[simp] theorem sramSet_pending (a : Nat) (d : List Byte) : (s.sramSet a d).pending = s.pending := rfl
@[simp] theorem sramSet_plane_cycle (a : Nat) (d : List Byte) : (s.sramSet a d).plane.cycle = s.plane.cycle := rfl
@[simp] theorem sramSet_plane_clockOn (a : Nat) (d : List Byte) : (s.sramSet a d).plane.clockOn = s.plane.clockOn := rfl
@[simp] theorem sramSet_plane_progRun (a : Nat) (d : List Byte) : (s.sramSet a d).plane.progRun = s.plane.progRun := rfl
@[simp] theorem sramSet_plane_cores (a : Nat) (d : List Byte) : (s.sramSet a d).plane.cores = s.plane.cores := rfl
@[simp] theorem sramSet_plane_sram (a : Nat) (d : List Byte) : (s.sramSet a d).plane.sram = mwrite s.plane.sram a d := rfl
@[simp] theorem sramSet_plane_sramErr (a : Nat) (d : List Byte) : (s.sramSet a d).plane.sramErr = s.plane.sramErr := rfl
@[simp] theorem sramSet_plane_xfers (a : Nat) (d : List Byte) : (s.sramSet a d).plane.xfers = s.plane.xfers := rfl
@[simp] theorem sramSet_plane_wlds (a : Nat) (d : List Byte) : (s.sramSet a d).plane.wlds = s.plane.wlds := rfl
@[simp] theorem sramSet_plane_kvs (a : Nat) (d : List Byte) : (s.sramSet a d).plane.kvs = s.plane.kvs := rfl
@[simp] theorem sramSet_plane_hputs (a : Nat) (d : List Byte) : (s.sramSet a d).plane.hputs = s.plane.hputs := rfl
@[simp] theorem sramSet_plane_packets (a : Nat) (d : List Byte) : (s.sramSet a d).plane.packets = s.plane.packets := rfl
@[simp] theorem sramSet_plane_resvs (a : Nat) (d : List Byte) : (s.sramSet a d).plane.resvs = s.plane.resvs := rfl
@[simp] theorem sramSet_plane_nextId (a : Nat) (d : List Byte) : (s.sramSet a d).plane.nextId = s.plane.nextId := rfl
@[simp] theorem sramSet_plane_faults (a : Nat) (d : List Byte) : (s.sramSet a d).plane.faults = s.plane.faults := rfl
@[simp] theorem sramSet_plane_fTimer (a : Nat) (d : List Byte) : (s.sramSet a d).plane.fTimer = s.plane.fTimer := rfl
@[simp] theorem sramSet_plane_fFirst (a : Nat) (d : List Byte) : (s.sramSet a d).plane.fFirst = s.plane.fFirst := rfl
@[simp] theorem sramSet_plane_fLast (a : Nat) (d : List Byte) : (s.sramSet a d).plane.fLast = s.plane.fLast := rfl
@[simp] theorem sramSet_plane_freezeCnt (a : Nat) (d : List Byte) : (s.sramSet a d).plane.freezeCnt = s.plane.freezeCnt := rfl
@[simp] theorem sramSet_plane_firstFrz (a : Nat) (d : List Byte) : (s.sramSet a d).plane.firstFrz = s.plane.firstFrz := rfl
@[simp] theorem sramSet_plane_slipMax (a : Nat) (d : List Byte) : (s.sramSet a d).plane.slipMax = s.plane.slipMax := rfl
@[simp] theorem sramSet_plane_fronts (a : Nat) (d : List Byte) : (s.sramSet a d).plane.fronts = s.plane.fronts := rfl
@[simp] theorem sramSet_plane_maxWait (a : Nat) (d : List Byte) : (s.sramSet a d).plane.maxWait = s.plane.maxWait := rfl
@[simp] theorem sramSet_plane_maxFront (a : Nat) (d : List Byte) : (s.sramSet a d).plane.maxFront = s.plane.maxFront := rfl
@[simp] theorem sramSet_plane_lateWt (a : Nat) (d : List Byte) : (s.sramSet a d).plane.lateWt = s.plane.lateWt := rfl
@[simp] theorem sramSet_plane_lateKv (a : Nat) (d : List Byte) : (s.sramSet a d).plane.lateKv = s.plane.lateKv := rfl
@[simp] theorem sramSet_plane_crossings (a : Nat) (d : List Byte) : (s.sramSet a d).plane.crossings = s.plane.crossings := rfl
@[simp] theorem sramSet_plane_packetCnt (a : Nat) (d : List Byte) : (s.sramSet a d).plane.packetCnt = s.plane.packetCnt := rfl
@[simp] theorem sramSet_plane_dma (a : Nat) (d : List Byte) : (s.sramSet a d).plane.dma = s.plane.dma := rfl
@[simp] theorem sramSet_plane_relGo (a : Nat) (d : List Byte) : (s.sramSet a d).plane.relGo = s.plane.relGo := rfl
@[simp] theorem sramSet_plane_pays (a : Nat) (d : List Byte) : (s.sramSet a d).plane.pays = s.plane.pays := rfl

/-! ### laterG -/

@[simp] theorem laterG_fuses (c lat : Nat) (sl : SlotKind) (r : BitVec 5) (v : BitVec 64) : (s.laterG c lat sl r v).fuses = s.fuses := rfl
@[simp] theorem laterG_jet (c lat : Nat) (sl : SlotKind) (r : BitVec 5) (v : BitVec 64) : (s.laterG c lat sl r v).jet = s.jet := rfl
@[simp] theorem laterG_ldr (c lat : Nat) (sl : SlotKind) (r : BitVec 5) (v : BitVec 64) : (s.laterG c lat sl r v).ldr = s.ldr := rfl
@[simp] theorem laterG_wst (c lat : Nat) (sl : SlotKind) (r : BitVec 5) (v : BitVec 64) : (s.laterG c lat sl r v).wst = s.wst := rfl
@[simp] theorem laterG_kv (c lat : Nat) (sl : SlotKind) (r : BitVec 5) (v : BitVec 64) : (s.laterG c lat sl r v).kv = s.kv := rfl
@[simp] theorem laterG_hub (c lat : Nat) (sl : SlotKind) (r : BitVec 5) (v : BitVec 64) : (s.laterG c lat sl r v).hub = s.hub := rfl
@[simp] theorem laterG_tenants (c lat : Nat) (sl : SlotKind) (r : BitVec 5) (v : BitVec 64) : (s.laterG c lat sl r v).tenants = s.tenants := rfl
@[simp] theorem laterG_host (c lat : Nat) (sl : SlotKind) (r : BitVec 5) (v : BitVec 64) : (s.laterG c lat sl r v).host = s.host := rfl
@[simp] theorem laterG_iso (c lat : Nat) (sl : SlotKind) (r : BitVec 5) (v : BitVec 64) : (s.laterG c lat sl r v).iso = s.iso := rfl
@[simp] theorem laterG_pwr (c lat : Nat) (sl : SlotKind) (r : BitVec 5) (v : BitVec 64) : (s.laterG c lat sl r v).pwr = s.pwr := rfl
@[simp] theorem laterG_thm (c lat : Nat) (sl : SlotKind) (r : BitVec 5) (v : BitVec 64) : (s.laterG c lat sl r v).thm = s.thm := rfl
@[simp] theorem laterG_bg (c lat : Nat) (sl : SlotKind) (r : BitVec 5) (v : BitVec 64) : (s.laterG c lat sl r v).bg = s.bg := rfl
@[simp] theorem laterG_pnl (c lat : Nat) (sl : SlotKind) (r : BitVec 5) (v : BitVec 64) : (s.laterG c lat sl r v).pnl = s.pnl := rfl
@[simp] theorem laterG_adc (c lat : Nat) (sl : SlotKind) (r : BitVec 5) (v : BitVec 64) : (s.laterG c lat sl r v).adc = s.adc := rfl
@[simp] theorem laterG_sec (c lat : Nat) (sl : SlotKind) (r : BitVec 5) (v : BitVec 64) : (s.laterG c lat sl r v).sec = s.sec := rfl
@[simp] theorem laterG_jtag (c lat : Nat) (sl : SlotKind) (r : BitVec 5) (v : BitVec 64) : (s.laterG c lat sl r v).jtag = s.jtag := rfl
@[simp] theorem laterG_out (c lat : Nat) (sl : SlotKind) (r : BitVec 5) (v : BitVec 64) : (s.laterG c lat sl r v).out = s.out := rfl
@[simp] theorem laterG_free (c lat : Nat) (sl : SlotKind) (r : BitVec 5) (v : BitVec 64) : (s.laterG c lat sl r v).free = s.free := rfl
@[simp] theorem laterG_pending (c lat : Nat) (sl : SlotKind) (r : BitVec 5) (v : BitVec 64) : (s.laterG c lat sl r v).pending = s.pending := rfl
@[simp] theorem laterG_plane_cycle (c lat : Nat) (sl : SlotKind) (r : BitVec 5) (v : BitVec 64) : (s.laterG c lat sl r v).plane.cycle = s.plane.cycle := rfl
@[simp] theorem laterG_plane_clockOn (c lat : Nat) (sl : SlotKind) (r : BitVec 5) (v : BitVec 64) : (s.laterG c lat sl r v).plane.clockOn = s.plane.clockOn := rfl
@[simp] theorem laterG_plane_progRun (c lat : Nat) (sl : SlotKind) (r : BitVec 5) (v : BitVec 64) : (s.laterG c lat sl r v).plane.progRun = s.plane.progRun := rfl
@[simp] theorem laterG_plane_sram (c lat : Nat) (sl : SlotKind) (r : BitVec 5) (v : BitVec 64) : (s.laterG c lat sl r v).plane.sram = s.plane.sram := rfl
@[simp] theorem laterG_plane_sramErr (c lat : Nat) (sl : SlotKind) (r : BitVec 5) (v : BitVec 64) : (s.laterG c lat sl r v).plane.sramErr = s.plane.sramErr := rfl
@[simp] theorem laterG_plane_xfers (c lat : Nat) (sl : SlotKind) (r : BitVec 5) (v : BitVec 64) : (s.laterG c lat sl r v).plane.xfers = s.plane.xfers := rfl
@[simp] theorem laterG_plane_wlds (c lat : Nat) (sl : SlotKind) (r : BitVec 5) (v : BitVec 64) : (s.laterG c lat sl r v).plane.wlds = s.plane.wlds := rfl
@[simp] theorem laterG_plane_kvs (c lat : Nat) (sl : SlotKind) (r : BitVec 5) (v : BitVec 64) : (s.laterG c lat sl r v).plane.kvs = s.plane.kvs := rfl
@[simp] theorem laterG_plane_hputs (c lat : Nat) (sl : SlotKind) (r : BitVec 5) (v : BitVec 64) : (s.laterG c lat sl r v).plane.hputs = s.plane.hputs := rfl
@[simp] theorem laterG_plane_packets (c lat : Nat) (sl : SlotKind) (r : BitVec 5) (v : BitVec 64) : (s.laterG c lat sl r v).plane.packets = s.plane.packets := rfl
@[simp] theorem laterG_plane_resvs (c lat : Nat) (sl : SlotKind) (r : BitVec 5) (v : BitVec 64) : (s.laterG c lat sl r v).plane.resvs = s.plane.resvs := rfl
@[simp] theorem laterG_plane_nextId (c lat : Nat) (sl : SlotKind) (r : BitVec 5) (v : BitVec 64) : (s.laterG c lat sl r v).plane.nextId = s.plane.nextId := rfl
@[simp] theorem laterG_plane_faults (c lat : Nat) (sl : SlotKind) (r : BitVec 5) (v : BitVec 64) : (s.laterG c lat sl r v).plane.faults = s.plane.faults := rfl
@[simp] theorem laterG_plane_fTimer (c lat : Nat) (sl : SlotKind) (r : BitVec 5) (v : BitVec 64) : (s.laterG c lat sl r v).plane.fTimer = s.plane.fTimer := rfl
@[simp] theorem laterG_plane_fFirst (c lat : Nat) (sl : SlotKind) (r : BitVec 5) (v : BitVec 64) : (s.laterG c lat sl r v).plane.fFirst = s.plane.fFirst := rfl
@[simp] theorem laterG_plane_fLast (c lat : Nat) (sl : SlotKind) (r : BitVec 5) (v : BitVec 64) : (s.laterG c lat sl r v).plane.fLast = s.plane.fLast := rfl
@[simp] theorem laterG_plane_freezeCnt (c lat : Nat) (sl : SlotKind) (r : BitVec 5) (v : BitVec 64) : (s.laterG c lat sl r v).plane.freezeCnt = s.plane.freezeCnt := rfl
@[simp] theorem laterG_plane_firstFrz (c lat : Nat) (sl : SlotKind) (r : BitVec 5) (v : BitVec 64) : (s.laterG c lat sl r v).plane.firstFrz = s.plane.firstFrz := rfl
@[simp] theorem laterG_plane_slipMax (c lat : Nat) (sl : SlotKind) (r : BitVec 5) (v : BitVec 64) : (s.laterG c lat sl r v).plane.slipMax = s.plane.slipMax := rfl
@[simp] theorem laterG_plane_fronts (c lat : Nat) (sl : SlotKind) (r : BitVec 5) (v : BitVec 64) : (s.laterG c lat sl r v).plane.fronts = s.plane.fronts := rfl
@[simp] theorem laterG_plane_maxWait (c lat : Nat) (sl : SlotKind) (r : BitVec 5) (v : BitVec 64) : (s.laterG c lat sl r v).plane.maxWait = s.plane.maxWait := rfl
@[simp] theorem laterG_plane_maxFront (c lat : Nat) (sl : SlotKind) (r : BitVec 5) (v : BitVec 64) : (s.laterG c lat sl r v).plane.maxFront = s.plane.maxFront := rfl
@[simp] theorem laterG_plane_lateWt (c lat : Nat) (sl : SlotKind) (r : BitVec 5) (v : BitVec 64) : (s.laterG c lat sl r v).plane.lateWt = s.plane.lateWt := rfl
@[simp] theorem laterG_plane_lateKv (c lat : Nat) (sl : SlotKind) (r : BitVec 5) (v : BitVec 64) : (s.laterG c lat sl r v).plane.lateKv = s.plane.lateKv := rfl
@[simp] theorem laterG_plane_crossings (c lat : Nat) (sl : SlotKind) (r : BitVec 5) (v : BitVec 64) : (s.laterG c lat sl r v).plane.crossings = s.plane.crossings := rfl
@[simp] theorem laterG_plane_packetCnt (c lat : Nat) (sl : SlotKind) (r : BitVec 5) (v : BitVec 64) : (s.laterG c lat sl r v).plane.packetCnt = s.plane.packetCnt := rfl
@[simp] theorem laterG_plane_dma (c lat : Nat) (sl : SlotKind) (r : BitVec 5) (v : BitVec 64) : (s.laterG c lat sl r v).plane.dma = s.plane.dma := rfl
@[simp] theorem laterG_plane_relGo (c lat : Nat) (sl : SlotKind) (r : BitVec 5) (v : BitVec 64) : (s.laterG c lat sl r v).plane.relGo = s.plane.relGo := rfl
@[simp] theorem laterG_plane_pays (c lat : Nat) (sl : SlotKind) (r : BitVec 5) (v : BitVec 64) : (s.laterG c lat sl r v).plane.pays = s.plane.pays := rfl

/-! ### laterA -/

@[simp] theorem laterA_fuses (c : Nat) (r : BitVec 5) (v : BitVec 48) : (s.laterA c r v).fuses = s.fuses := rfl
@[simp] theorem laterA_jet (c : Nat) (r : BitVec 5) (v : BitVec 48) : (s.laterA c r v).jet = s.jet := rfl
@[simp] theorem laterA_ldr (c : Nat) (r : BitVec 5) (v : BitVec 48) : (s.laterA c r v).ldr = s.ldr := rfl
@[simp] theorem laterA_wst (c : Nat) (r : BitVec 5) (v : BitVec 48) : (s.laterA c r v).wst = s.wst := rfl
@[simp] theorem laterA_kv (c : Nat) (r : BitVec 5) (v : BitVec 48) : (s.laterA c r v).kv = s.kv := rfl
@[simp] theorem laterA_hub (c : Nat) (r : BitVec 5) (v : BitVec 48) : (s.laterA c r v).hub = s.hub := rfl
@[simp] theorem laterA_tenants (c : Nat) (r : BitVec 5) (v : BitVec 48) : (s.laterA c r v).tenants = s.tenants := rfl
@[simp] theorem laterA_host (c : Nat) (r : BitVec 5) (v : BitVec 48) : (s.laterA c r v).host = s.host := rfl
@[simp] theorem laterA_iso (c : Nat) (r : BitVec 5) (v : BitVec 48) : (s.laterA c r v).iso = s.iso := rfl
@[simp] theorem laterA_pwr (c : Nat) (r : BitVec 5) (v : BitVec 48) : (s.laterA c r v).pwr = s.pwr := rfl
@[simp] theorem laterA_thm (c : Nat) (r : BitVec 5) (v : BitVec 48) : (s.laterA c r v).thm = s.thm := rfl
@[simp] theorem laterA_bg (c : Nat) (r : BitVec 5) (v : BitVec 48) : (s.laterA c r v).bg = s.bg := rfl
@[simp] theorem laterA_pnl (c : Nat) (r : BitVec 5) (v : BitVec 48) : (s.laterA c r v).pnl = s.pnl := rfl
@[simp] theorem laterA_adc (c : Nat) (r : BitVec 5) (v : BitVec 48) : (s.laterA c r v).adc = s.adc := rfl
@[simp] theorem laterA_sec (c : Nat) (r : BitVec 5) (v : BitVec 48) : (s.laterA c r v).sec = s.sec := rfl
@[simp] theorem laterA_jtag (c : Nat) (r : BitVec 5) (v : BitVec 48) : (s.laterA c r v).jtag = s.jtag := rfl
@[simp] theorem laterA_out (c : Nat) (r : BitVec 5) (v : BitVec 48) : (s.laterA c r v).out = s.out := rfl
@[simp] theorem laterA_free (c : Nat) (r : BitVec 5) (v : BitVec 48) : (s.laterA c r v).free = s.free := rfl
@[simp] theorem laterA_pending (c : Nat) (r : BitVec 5) (v : BitVec 48) : (s.laterA c r v).pending = s.pending := rfl
@[simp] theorem laterA_plane_cycle (c : Nat) (r : BitVec 5) (v : BitVec 48) : (s.laterA c r v).plane.cycle = s.plane.cycle := rfl
@[simp] theorem laterA_plane_clockOn (c : Nat) (r : BitVec 5) (v : BitVec 48) : (s.laterA c r v).plane.clockOn = s.plane.clockOn := rfl
@[simp] theorem laterA_plane_progRun (c : Nat) (r : BitVec 5) (v : BitVec 48) : (s.laterA c r v).plane.progRun = s.plane.progRun := rfl
@[simp] theorem laterA_plane_sram (c : Nat) (r : BitVec 5) (v : BitVec 48) : (s.laterA c r v).plane.sram = s.plane.sram := rfl
@[simp] theorem laterA_plane_sramErr (c : Nat) (r : BitVec 5) (v : BitVec 48) : (s.laterA c r v).plane.sramErr = s.plane.sramErr := rfl
@[simp] theorem laterA_plane_xfers (c : Nat) (r : BitVec 5) (v : BitVec 48) : (s.laterA c r v).plane.xfers = s.plane.xfers := rfl
@[simp] theorem laterA_plane_wlds (c : Nat) (r : BitVec 5) (v : BitVec 48) : (s.laterA c r v).plane.wlds = s.plane.wlds := rfl
@[simp] theorem laterA_plane_kvs (c : Nat) (r : BitVec 5) (v : BitVec 48) : (s.laterA c r v).plane.kvs = s.plane.kvs := rfl
@[simp] theorem laterA_plane_hputs (c : Nat) (r : BitVec 5) (v : BitVec 48) : (s.laterA c r v).plane.hputs = s.plane.hputs := rfl
@[simp] theorem laterA_plane_packets (c : Nat) (r : BitVec 5) (v : BitVec 48) : (s.laterA c r v).plane.packets = s.plane.packets := rfl
@[simp] theorem laterA_plane_resvs (c : Nat) (r : BitVec 5) (v : BitVec 48) : (s.laterA c r v).plane.resvs = s.plane.resvs := rfl
@[simp] theorem laterA_plane_nextId (c : Nat) (r : BitVec 5) (v : BitVec 48) : (s.laterA c r v).plane.nextId = s.plane.nextId := rfl
@[simp] theorem laterA_plane_faults (c : Nat) (r : BitVec 5) (v : BitVec 48) : (s.laterA c r v).plane.faults = s.plane.faults := rfl
@[simp] theorem laterA_plane_fTimer (c : Nat) (r : BitVec 5) (v : BitVec 48) : (s.laterA c r v).plane.fTimer = s.plane.fTimer := rfl
@[simp] theorem laterA_plane_fFirst (c : Nat) (r : BitVec 5) (v : BitVec 48) : (s.laterA c r v).plane.fFirst = s.plane.fFirst := rfl
@[simp] theorem laterA_plane_fLast (c : Nat) (r : BitVec 5) (v : BitVec 48) : (s.laterA c r v).plane.fLast = s.plane.fLast := rfl
@[simp] theorem laterA_plane_freezeCnt (c : Nat) (r : BitVec 5) (v : BitVec 48) : (s.laterA c r v).plane.freezeCnt = s.plane.freezeCnt := rfl
@[simp] theorem laterA_plane_firstFrz (c : Nat) (r : BitVec 5) (v : BitVec 48) : (s.laterA c r v).plane.firstFrz = s.plane.firstFrz := rfl
@[simp] theorem laterA_plane_slipMax (c : Nat) (r : BitVec 5) (v : BitVec 48) : (s.laterA c r v).plane.slipMax = s.plane.slipMax := rfl
@[simp] theorem laterA_plane_fronts (c : Nat) (r : BitVec 5) (v : BitVec 48) : (s.laterA c r v).plane.fronts = s.plane.fronts := rfl
@[simp] theorem laterA_plane_maxWait (c : Nat) (r : BitVec 5) (v : BitVec 48) : (s.laterA c r v).plane.maxWait = s.plane.maxWait := rfl
@[simp] theorem laterA_plane_maxFront (c : Nat) (r : BitVec 5) (v : BitVec 48) : (s.laterA c r v).plane.maxFront = s.plane.maxFront := rfl
@[simp] theorem laterA_plane_lateWt (c : Nat) (r : BitVec 5) (v : BitVec 48) : (s.laterA c r v).plane.lateWt = s.plane.lateWt := rfl
@[simp] theorem laterA_plane_lateKv (c : Nat) (r : BitVec 5) (v : BitVec 48) : (s.laterA c r v).plane.lateKv = s.plane.lateKv := rfl
@[simp] theorem laterA_plane_crossings (c : Nat) (r : BitVec 5) (v : BitVec 48) : (s.laterA c r v).plane.crossings = s.plane.crossings := rfl
@[simp] theorem laterA_plane_packetCnt (c : Nat) (r : BitVec 5) (v : BitVec 48) : (s.laterA c r v).plane.packetCnt = s.plane.packetCnt := rfl
@[simp] theorem laterA_plane_dma (c : Nat) (r : BitVec 5) (v : BitVec 48) : (s.laterA c r v).plane.dma = s.plane.dma := rfl
@[simp] theorem laterA_plane_relGo (c : Nat) (r : BitVec 5) (v : BitVec 48) : (s.laterA c r v).plane.relGo = s.plane.relGo := rfl
@[simp] theorem laterA_plane_pays (c : Nat) (r : BitVec 5) (v : BitVec 48) : (s.laterA c r v).plane.pays = s.plane.pays := rfl

/-! ### laterP -/

@[simp] theorem laterP_fuses (c : Nat) (r : BitVec 3) (v : Bool) : (s.laterP c r v).fuses = s.fuses := rfl
@[simp] theorem laterP_jet (c : Nat) (r : BitVec 3) (v : Bool) : (s.laterP c r v).jet = s.jet := rfl
@[simp] theorem laterP_ldr (c : Nat) (r : BitVec 3) (v : Bool) : (s.laterP c r v).ldr = s.ldr := rfl
@[simp] theorem laterP_wst (c : Nat) (r : BitVec 3) (v : Bool) : (s.laterP c r v).wst = s.wst := rfl
@[simp] theorem laterP_kv (c : Nat) (r : BitVec 3) (v : Bool) : (s.laterP c r v).kv = s.kv := rfl
@[simp] theorem laterP_hub (c : Nat) (r : BitVec 3) (v : Bool) : (s.laterP c r v).hub = s.hub := rfl
@[simp] theorem laterP_tenants (c : Nat) (r : BitVec 3) (v : Bool) : (s.laterP c r v).tenants = s.tenants := rfl
@[simp] theorem laterP_host (c : Nat) (r : BitVec 3) (v : Bool) : (s.laterP c r v).host = s.host := rfl
@[simp] theorem laterP_iso (c : Nat) (r : BitVec 3) (v : Bool) : (s.laterP c r v).iso = s.iso := rfl
@[simp] theorem laterP_pwr (c : Nat) (r : BitVec 3) (v : Bool) : (s.laterP c r v).pwr = s.pwr := rfl
@[simp] theorem laterP_thm (c : Nat) (r : BitVec 3) (v : Bool) : (s.laterP c r v).thm = s.thm := rfl
@[simp] theorem laterP_bg (c : Nat) (r : BitVec 3) (v : Bool) : (s.laterP c r v).bg = s.bg := rfl
@[simp] theorem laterP_pnl (c : Nat) (r : BitVec 3) (v : Bool) : (s.laterP c r v).pnl = s.pnl := rfl
@[simp] theorem laterP_adc (c : Nat) (r : BitVec 3) (v : Bool) : (s.laterP c r v).adc = s.adc := rfl
@[simp] theorem laterP_sec (c : Nat) (r : BitVec 3) (v : Bool) : (s.laterP c r v).sec = s.sec := rfl
@[simp] theorem laterP_jtag (c : Nat) (r : BitVec 3) (v : Bool) : (s.laterP c r v).jtag = s.jtag := rfl
@[simp] theorem laterP_out (c : Nat) (r : BitVec 3) (v : Bool) : (s.laterP c r v).out = s.out := rfl
@[simp] theorem laterP_free (c : Nat) (r : BitVec 3) (v : Bool) : (s.laterP c r v).free = s.free := rfl
@[simp] theorem laterP_pending (c : Nat) (r : BitVec 3) (v : Bool) : (s.laterP c r v).pending = s.pending := rfl
@[simp] theorem laterP_plane_cycle (c : Nat) (r : BitVec 3) (v : Bool) : (s.laterP c r v).plane.cycle = s.plane.cycle := rfl
@[simp] theorem laterP_plane_clockOn (c : Nat) (r : BitVec 3) (v : Bool) : (s.laterP c r v).plane.clockOn = s.plane.clockOn := rfl
@[simp] theorem laterP_plane_progRun (c : Nat) (r : BitVec 3) (v : Bool) : (s.laterP c r v).plane.progRun = s.plane.progRun := rfl
@[simp] theorem laterP_plane_sram (c : Nat) (r : BitVec 3) (v : Bool) : (s.laterP c r v).plane.sram = s.plane.sram := rfl
@[simp] theorem laterP_plane_sramErr (c : Nat) (r : BitVec 3) (v : Bool) : (s.laterP c r v).plane.sramErr = s.plane.sramErr := rfl
@[simp] theorem laterP_plane_xfers (c : Nat) (r : BitVec 3) (v : Bool) : (s.laterP c r v).plane.xfers = s.plane.xfers := rfl
@[simp] theorem laterP_plane_wlds (c : Nat) (r : BitVec 3) (v : Bool) : (s.laterP c r v).plane.wlds = s.plane.wlds := rfl
@[simp] theorem laterP_plane_kvs (c : Nat) (r : BitVec 3) (v : Bool) : (s.laterP c r v).plane.kvs = s.plane.kvs := rfl
@[simp] theorem laterP_plane_hputs (c : Nat) (r : BitVec 3) (v : Bool) : (s.laterP c r v).plane.hputs = s.plane.hputs := rfl
@[simp] theorem laterP_plane_packets (c : Nat) (r : BitVec 3) (v : Bool) : (s.laterP c r v).plane.packets = s.plane.packets := rfl
@[simp] theorem laterP_plane_resvs (c : Nat) (r : BitVec 3) (v : Bool) : (s.laterP c r v).plane.resvs = s.plane.resvs := rfl
@[simp] theorem laterP_plane_nextId (c : Nat) (r : BitVec 3) (v : Bool) : (s.laterP c r v).plane.nextId = s.plane.nextId := rfl
@[simp] theorem laterP_plane_faults (c : Nat) (r : BitVec 3) (v : Bool) : (s.laterP c r v).plane.faults = s.plane.faults := rfl
@[simp] theorem laterP_plane_fTimer (c : Nat) (r : BitVec 3) (v : Bool) : (s.laterP c r v).plane.fTimer = s.plane.fTimer := rfl
@[simp] theorem laterP_plane_fFirst (c : Nat) (r : BitVec 3) (v : Bool) : (s.laterP c r v).plane.fFirst = s.plane.fFirst := rfl
@[simp] theorem laterP_plane_fLast (c : Nat) (r : BitVec 3) (v : Bool) : (s.laterP c r v).plane.fLast = s.plane.fLast := rfl
@[simp] theorem laterP_plane_freezeCnt (c : Nat) (r : BitVec 3) (v : Bool) : (s.laterP c r v).plane.freezeCnt = s.plane.freezeCnt := rfl
@[simp] theorem laterP_plane_firstFrz (c : Nat) (r : BitVec 3) (v : Bool) : (s.laterP c r v).plane.firstFrz = s.plane.firstFrz := rfl
@[simp] theorem laterP_plane_slipMax (c : Nat) (r : BitVec 3) (v : Bool) : (s.laterP c r v).plane.slipMax = s.plane.slipMax := rfl
@[simp] theorem laterP_plane_fronts (c : Nat) (r : BitVec 3) (v : Bool) : (s.laterP c r v).plane.fronts = s.plane.fronts := rfl
@[simp] theorem laterP_plane_maxWait (c : Nat) (r : BitVec 3) (v : Bool) : (s.laterP c r v).plane.maxWait = s.plane.maxWait := rfl
@[simp] theorem laterP_plane_maxFront (c : Nat) (r : BitVec 3) (v : Bool) : (s.laterP c r v).plane.maxFront = s.plane.maxFront := rfl
@[simp] theorem laterP_plane_lateWt (c : Nat) (r : BitVec 3) (v : Bool) : (s.laterP c r v).plane.lateWt = s.plane.lateWt := rfl
@[simp] theorem laterP_plane_lateKv (c : Nat) (r : BitVec 3) (v : Bool) : (s.laterP c r v).plane.lateKv = s.plane.lateKv := rfl
@[simp] theorem laterP_plane_crossings (c : Nat) (r : BitVec 3) (v : Bool) : (s.laterP c r v).plane.crossings = s.plane.crossings := rfl
@[simp] theorem laterP_plane_packetCnt (c : Nat) (r : BitVec 3) (v : Bool) : (s.laterP c r v).plane.packetCnt = s.plane.packetCnt := rfl
@[simp] theorem laterP_plane_dma (c : Nat) (r : BitVec 3) (v : Bool) : (s.laterP c r v).plane.dma = s.plane.dma := rfl
@[simp] theorem laterP_plane_relGo (c : Nat) (r : BitVec 3) (v : Bool) : (s.laterP c r v).plane.relGo = s.plane.relGo := rfl
@[simp] theorem laterP_plane_pays (c : Nat) (r : BitVec 3) (v : Bool) : (s.laterP c r v).plane.pays = s.plane.pays := rfl

/-! ### laterV -/

@[simp] theorem laterV_fuses (c lat r : Nat) (v : BitVec 2048) : (s.laterV c lat r v).fuses = s.fuses := rfl
@[simp] theorem laterV_jet (c lat r : Nat) (v : BitVec 2048) : (s.laterV c lat r v).jet = s.jet := rfl
@[simp] theorem laterV_ldr (c lat r : Nat) (v : BitVec 2048) : (s.laterV c lat r v).ldr = s.ldr := rfl
@[simp] theorem laterV_wst (c lat r : Nat) (v : BitVec 2048) : (s.laterV c lat r v).wst = s.wst := rfl
@[simp] theorem laterV_kv (c lat r : Nat) (v : BitVec 2048) : (s.laterV c lat r v).kv = s.kv := rfl
@[simp] theorem laterV_hub (c lat r : Nat) (v : BitVec 2048) : (s.laterV c lat r v).hub = s.hub := rfl
@[simp] theorem laterV_tenants (c lat r : Nat) (v : BitVec 2048) : (s.laterV c lat r v).tenants = s.tenants := rfl
@[simp] theorem laterV_host (c lat r : Nat) (v : BitVec 2048) : (s.laterV c lat r v).host = s.host := rfl
@[simp] theorem laterV_iso (c lat r : Nat) (v : BitVec 2048) : (s.laterV c lat r v).iso = s.iso := rfl
@[simp] theorem laterV_pwr (c lat r : Nat) (v : BitVec 2048) : (s.laterV c lat r v).pwr = s.pwr := rfl
@[simp] theorem laterV_thm (c lat r : Nat) (v : BitVec 2048) : (s.laterV c lat r v).thm = s.thm := rfl
@[simp] theorem laterV_bg (c lat r : Nat) (v : BitVec 2048) : (s.laterV c lat r v).bg = s.bg := rfl
@[simp] theorem laterV_pnl (c lat r : Nat) (v : BitVec 2048) : (s.laterV c lat r v).pnl = s.pnl := rfl
@[simp] theorem laterV_adc (c lat r : Nat) (v : BitVec 2048) : (s.laterV c lat r v).adc = s.adc := rfl
@[simp] theorem laterV_sec (c lat r : Nat) (v : BitVec 2048) : (s.laterV c lat r v).sec = s.sec := rfl
@[simp] theorem laterV_jtag (c lat r : Nat) (v : BitVec 2048) : (s.laterV c lat r v).jtag = s.jtag := rfl
@[simp] theorem laterV_out (c lat r : Nat) (v : BitVec 2048) : (s.laterV c lat r v).out = s.out := rfl
@[simp] theorem laterV_free (c lat r : Nat) (v : BitVec 2048) : (s.laterV c lat r v).free = s.free := rfl
@[simp] theorem laterV_pending (c lat r : Nat) (v : BitVec 2048) : (s.laterV c lat r v).pending = s.pending := rfl
@[simp] theorem laterV_plane_cycle (c lat r : Nat) (v : BitVec 2048) : (s.laterV c lat r v).plane.cycle = s.plane.cycle := rfl
@[simp] theorem laterV_plane_clockOn (c lat r : Nat) (v : BitVec 2048) : (s.laterV c lat r v).plane.clockOn = s.plane.clockOn := rfl
@[simp] theorem laterV_plane_progRun (c lat r : Nat) (v : BitVec 2048) : (s.laterV c lat r v).plane.progRun = s.plane.progRun := rfl
@[simp] theorem laterV_plane_sram (c lat r : Nat) (v : BitVec 2048) : (s.laterV c lat r v).plane.sram = s.plane.sram := rfl
@[simp] theorem laterV_plane_sramErr (c lat r : Nat) (v : BitVec 2048) : (s.laterV c lat r v).plane.sramErr = s.plane.sramErr := rfl
@[simp] theorem laterV_plane_xfers (c lat r : Nat) (v : BitVec 2048) : (s.laterV c lat r v).plane.xfers = s.plane.xfers := rfl
@[simp] theorem laterV_plane_wlds (c lat r : Nat) (v : BitVec 2048) : (s.laterV c lat r v).plane.wlds = s.plane.wlds := rfl
@[simp] theorem laterV_plane_kvs (c lat r : Nat) (v : BitVec 2048) : (s.laterV c lat r v).plane.kvs = s.plane.kvs := rfl
@[simp] theorem laterV_plane_hputs (c lat r : Nat) (v : BitVec 2048) : (s.laterV c lat r v).plane.hputs = s.plane.hputs := rfl
@[simp] theorem laterV_plane_packets (c lat r : Nat) (v : BitVec 2048) : (s.laterV c lat r v).plane.packets = s.plane.packets := rfl
@[simp] theorem laterV_plane_resvs (c lat r : Nat) (v : BitVec 2048) : (s.laterV c lat r v).plane.resvs = s.plane.resvs := rfl
@[simp] theorem laterV_plane_nextId (c lat r : Nat) (v : BitVec 2048) : (s.laterV c lat r v).plane.nextId = s.plane.nextId := rfl
@[simp] theorem laterV_plane_faults (c lat r : Nat) (v : BitVec 2048) : (s.laterV c lat r v).plane.faults = s.plane.faults := rfl
@[simp] theorem laterV_plane_fTimer (c lat r : Nat) (v : BitVec 2048) : (s.laterV c lat r v).plane.fTimer = s.plane.fTimer := rfl
@[simp] theorem laterV_plane_fFirst (c lat r : Nat) (v : BitVec 2048) : (s.laterV c lat r v).plane.fFirst = s.plane.fFirst := rfl
@[simp] theorem laterV_plane_fLast (c lat r : Nat) (v : BitVec 2048) : (s.laterV c lat r v).plane.fLast = s.plane.fLast := rfl
@[simp] theorem laterV_plane_freezeCnt (c lat r : Nat) (v : BitVec 2048) : (s.laterV c lat r v).plane.freezeCnt = s.plane.freezeCnt := rfl
@[simp] theorem laterV_plane_firstFrz (c lat r : Nat) (v : BitVec 2048) : (s.laterV c lat r v).plane.firstFrz = s.plane.firstFrz := rfl
@[simp] theorem laterV_plane_slipMax (c lat r : Nat) (v : BitVec 2048) : (s.laterV c lat r v).plane.slipMax = s.plane.slipMax := rfl
@[simp] theorem laterV_plane_fronts (c lat r : Nat) (v : BitVec 2048) : (s.laterV c lat r v).plane.fronts = s.plane.fronts := rfl
@[simp] theorem laterV_plane_maxWait (c lat r : Nat) (v : BitVec 2048) : (s.laterV c lat r v).plane.maxWait = s.plane.maxWait := rfl
@[simp] theorem laterV_plane_maxFront (c lat r : Nat) (v : BitVec 2048) : (s.laterV c lat r v).plane.maxFront = s.plane.maxFront := rfl
@[simp] theorem laterV_plane_lateWt (c lat r : Nat) (v : BitVec 2048) : (s.laterV c lat r v).plane.lateWt = s.plane.lateWt := rfl
@[simp] theorem laterV_plane_lateKv (c lat r : Nat) (v : BitVec 2048) : (s.laterV c lat r v).plane.lateKv = s.plane.lateKv := rfl
@[simp] theorem laterV_plane_crossings (c lat r : Nat) (v : BitVec 2048) : (s.laterV c lat r v).plane.crossings = s.plane.crossings := rfl
@[simp] theorem laterV_plane_packetCnt (c lat r : Nat) (v : BitVec 2048) : (s.laterV c lat r v).plane.packetCnt = s.plane.packetCnt := rfl
@[simp] theorem laterV_plane_dma (c lat r : Nat) (v : BitVec 2048) : (s.laterV c lat r v).plane.dma = s.plane.dma := rfl
@[simp] theorem laterV_plane_relGo (c lat r : Nat) (v : BitVec 2048) : (s.laterV c lat r v).plane.relGo = s.plane.relGo := rfl
@[simp] theorem laterV_plane_pays (c lat r : Nat) (v : BitVec 2048) : (s.laterV c lat r v).plane.pays = s.plane.pays := rfl

/-! ### emit -/

@[simp] theorem emit_fuses (o : Out) : (s.emit o).fuses = s.fuses := rfl
@[simp] theorem emit_plane (o : Out) : (s.emit o).plane = s.plane := rfl
@[simp] theorem emit_jet (o : Out) : (s.emit o).jet = s.jet := rfl
@[simp] theorem emit_ldr (o : Out) : (s.emit o).ldr = s.ldr := rfl
@[simp] theorem emit_wst (o : Out) : (s.emit o).wst = s.wst := rfl
@[simp] theorem emit_kv (o : Out) : (s.emit o).kv = s.kv := rfl
@[simp] theorem emit_hub (o : Out) : (s.emit o).hub = s.hub := rfl
@[simp] theorem emit_tenants (o : Out) : (s.emit o).tenants = s.tenants := rfl
@[simp] theorem emit_host (o : Out) : (s.emit o).host = s.host := rfl
@[simp] theorem emit_iso (o : Out) : (s.emit o).iso = s.iso := rfl
@[simp] theorem emit_pwr (o : Out) : (s.emit o).pwr = s.pwr := rfl
@[simp] theorem emit_thm (o : Out) : (s.emit o).thm = s.thm := rfl
@[simp] theorem emit_bg (o : Out) : (s.emit o).bg = s.bg := rfl
@[simp] theorem emit_pnl (o : Out) : (s.emit o).pnl = s.pnl := rfl
@[simp] theorem emit_adc (o : Out) : (s.emit o).adc = s.adc := rfl
@[simp] theorem emit_sec (o : Out) : (s.emit o).sec = s.sec := rfl
@[simp] theorem emit_jtag (o : Out) : (s.emit o).jtag = s.jtag := rfl
@[simp] theorem emit_out (o : Out) : (s.emit o).out = s.out ++ [o] := rfl
@[simp] theorem emit_free (o : Out) : (s.emit o).free = s.free := rfl
@[simp] theorem emit_pending (o : Out) : (s.emit o).pending = s.pending := rfl

/-! ### bumpFree -/

@[simp] theorem bumpFree_fuses : (s.bumpFree).fuses = s.fuses := rfl
@[simp] theorem bumpFree_plane : (s.bumpFree).plane = s.plane := rfl
@[simp] theorem bumpFree_jet : (s.bumpFree).jet = s.jet := rfl
@[simp] theorem bumpFree_ldr : (s.bumpFree).ldr = s.ldr := rfl
@[simp] theorem bumpFree_wst : (s.bumpFree).wst = s.wst := rfl
@[simp] theorem bumpFree_kv : (s.bumpFree).kv = s.kv := rfl
@[simp] theorem bumpFree_hub : (s.bumpFree).hub = s.hub := rfl
@[simp] theorem bumpFree_tenants : (s.bumpFree).tenants = s.tenants := rfl
@[simp] theorem bumpFree_host : (s.bumpFree).host = s.host := rfl
@[simp] theorem bumpFree_iso : (s.bumpFree).iso = s.iso := rfl
@[simp] theorem bumpFree_pwr : (s.bumpFree).pwr = s.pwr := rfl
@[simp] theorem bumpFree_thm : (s.bumpFree).thm = s.thm := rfl
@[simp] theorem bumpFree_bg : (s.bumpFree).bg = s.bg := rfl
@[simp] theorem bumpFree_pnl : (s.bumpFree).pnl = s.pnl := rfl
@[simp] theorem bumpFree_adc : (s.bumpFree).adc = s.adc := rfl
@[simp] theorem bumpFree_sec : (s.bumpFree).sec = s.sec := rfl
@[simp] theorem bumpFree_jtag : (s.bumpFree).jtag = s.jtag := rfl
@[simp] theorem bumpFree_out : (s.bumpFree).out = s.out := rfl
@[simp] theorem bumpFree_free : (s.bumpFree).free = s.free + 1 := rfl
@[simp] theorem bumpFree_pending : (s.bumpFree).pending = s.pending := rfl

/-! ### setTenant -/

@[simp] theorem setTenant_fuses (n : Nat) (v : Tenant) : (s.setTenant n v).fuses = s.fuses := rfl
@[simp] theorem setTenant_plane (n : Nat) (v : Tenant) : (s.setTenant n v).plane = s.plane := rfl
@[simp] theorem setTenant_jet (n : Nat) (v : Tenant) : (s.setTenant n v).jet = s.jet := rfl
@[simp] theorem setTenant_ldr (n : Nat) (v : Tenant) : (s.setTenant n v).ldr = s.ldr := rfl
@[simp] theorem setTenant_wst (n : Nat) (v : Tenant) : (s.setTenant n v).wst = s.wst := rfl
@[simp] theorem setTenant_kv (n : Nat) (v : Tenant) : (s.setTenant n v).kv = s.kv := rfl
@[simp] theorem setTenant_hub (n : Nat) (v : Tenant) : (s.setTenant n v).hub = s.hub := rfl
@[simp] theorem setTenant_tenants (n : Nat) (v : Tenant) : (s.setTenant n v).tenants = tset {} s.tenants n v := rfl
@[simp] theorem setTenant_host (n : Nat) (v : Tenant) : (s.setTenant n v).host = s.host := rfl
@[simp] theorem setTenant_iso (n : Nat) (v : Tenant) : (s.setTenant n v).iso = s.iso := rfl
@[simp] theorem setTenant_pwr (n : Nat) (v : Tenant) : (s.setTenant n v).pwr = s.pwr := rfl
@[simp] theorem setTenant_thm (n : Nat) (v : Tenant) : (s.setTenant n v).thm = s.thm := rfl
@[simp] theorem setTenant_bg (n : Nat) (v : Tenant) : (s.setTenant n v).bg = s.bg := rfl
@[simp] theorem setTenant_pnl (n : Nat) (v : Tenant) : (s.setTenant n v).pnl = s.pnl := rfl
@[simp] theorem setTenant_adc (n : Nat) (v : Tenant) : (s.setTenant n v).adc = s.adc := rfl
@[simp] theorem setTenant_sec (n : Nat) (v : Tenant) : (s.setTenant n v).sec = s.sec := rfl
@[simp] theorem setTenant_jtag (n : Nat) (v : Tenant) : (s.setTenant n v).jtag = s.jtag := rfl
@[simp] theorem setTenant_out (n : Nat) (v : Tenant) : (s.setTenant n v).out = s.out := rfl
@[simp] theorem setTenant_free (n : Nat) (v : Tenant) : (s.setTenant n v).free = s.free := rfl
@[simp] theorem setTenant_pending (n : Nat) (v : Tenant) : (s.setTenant n v).pending = s.pending := rfl

/-! ### modTenant -/

@[simp] theorem modTenant_fuses (n : Nat) (f : Tenant → Tenant) : (s.modTenant n f).fuses = s.fuses := rfl
@[simp] theorem modTenant_plane (n : Nat) (f : Tenant → Tenant) : (s.modTenant n f).plane = s.plane := rfl
@[simp] theorem modTenant_jet (n : Nat) (f : Tenant → Tenant) : (s.modTenant n f).jet = s.jet := rfl
@[simp] theorem modTenant_ldr (n : Nat) (f : Tenant → Tenant) : (s.modTenant n f).ldr = s.ldr := rfl
@[simp] theorem modTenant_wst (n : Nat) (f : Tenant → Tenant) : (s.modTenant n f).wst = s.wst := rfl
@[simp] theorem modTenant_kv (n : Nat) (f : Tenant → Tenant) : (s.modTenant n f).kv = s.kv := rfl
@[simp] theorem modTenant_hub (n : Nat) (f : Tenant → Tenant) : (s.modTenant n f).hub = s.hub := rfl
@[simp] theorem modTenant_tenants (n : Nat) (f : Tenant → Tenant) : (s.modTenant n f).tenants = tset {} s.tenants n (f (s.tenant n)) := rfl
@[simp] theorem modTenant_host (n : Nat) (f : Tenant → Tenant) : (s.modTenant n f).host = s.host := rfl
@[simp] theorem modTenant_iso (n : Nat) (f : Tenant → Tenant) : (s.modTenant n f).iso = s.iso := rfl
@[simp] theorem modTenant_pwr (n : Nat) (f : Tenant → Tenant) : (s.modTenant n f).pwr = s.pwr := rfl
@[simp] theorem modTenant_thm (n : Nat) (f : Tenant → Tenant) : (s.modTenant n f).thm = s.thm := rfl
@[simp] theorem modTenant_bg (n : Nat) (f : Tenant → Tenant) : (s.modTenant n f).bg = s.bg := rfl
@[simp] theorem modTenant_pnl (n : Nat) (f : Tenant → Tenant) : (s.modTenant n f).pnl = s.pnl := rfl
@[simp] theorem modTenant_adc (n : Nat) (f : Tenant → Tenant) : (s.modTenant n f).adc = s.adc := rfl
@[simp] theorem modTenant_sec (n : Nat) (f : Tenant → Tenant) : (s.modTenant n f).sec = s.sec := rfl
@[simp] theorem modTenant_jtag (n : Nat) (f : Tenant → Tenant) : (s.modTenant n f).jtag = s.jtag := rfl
@[simp] theorem modTenant_out (n : Nat) (f : Tenant → Tenant) : (s.modTenant n f).out = s.out := rfl
@[simp] theorem modTenant_free (n : Nat) (f : Tenant → Tenant) : (s.modTenant n f).free = s.free := rfl
@[simp] theorem modTenant_pending (n : Nat) (f : Tenant → Tenant) : (s.modTenant n f).pending = s.pending := rfl

/-! ### setQp -/

@[simp] theorem setQp_fuses (n : Nat) (q : Qp) : (s.setQp n q).fuses = s.fuses := rfl
@[simp] theorem setQp_plane (n : Nat) (q : Qp) : (s.setQp n q).plane = s.plane := rfl
@[simp] theorem setQp_jet (n : Nat) (q : Qp) : (s.setQp n q).jet = s.jet := rfl
@[simp] theorem setQp_ldr (n : Nat) (q : Qp) : (s.setQp n q).ldr = s.ldr := rfl
@[simp] theorem setQp_wst (n : Nat) (q : Qp) : (s.setQp n q).wst = s.wst := rfl
@[simp] theorem setQp_kv (n : Nat) (q : Qp) : (s.setQp n q).kv = s.kv := rfl
@[simp] theorem setQp_hub (n : Nat) (q : Qp) : (s.setQp n q).hub = s.hub := rfl
@[simp] theorem setQp_tenants (n : Nat) (q : Qp) : (s.setQp n q).tenants = s.tenants := rfl
@[simp] theorem setQp_iso (n : Nat) (q : Qp) : (s.setQp n q).iso = s.iso := rfl
@[simp] theorem setQp_pwr (n : Nat) (q : Qp) : (s.setQp n q).pwr = s.pwr := rfl
@[simp] theorem setQp_thm (n : Nat) (q : Qp) : (s.setQp n q).thm = s.thm := rfl
@[simp] theorem setQp_bg (n : Nat) (q : Qp) : (s.setQp n q).bg = s.bg := rfl
@[simp] theorem setQp_pnl (n : Nat) (q : Qp) : (s.setQp n q).pnl = s.pnl := rfl
@[simp] theorem setQp_adc (n : Nat) (q : Qp) : (s.setQp n q).adc = s.adc := rfl
@[simp] theorem setQp_sec (n : Nat) (q : Qp) : (s.setQp n q).sec = s.sec := rfl
@[simp] theorem setQp_jtag (n : Nat) (q : Qp) : (s.setQp n q).jtag = s.jtag := rfl
@[simp] theorem setQp_out (n : Nat) (q : Qp) : (s.setQp n q).out = s.out := rfl
@[simp] theorem setQp_free (n : Nat) (q : Qp) : (s.setQp n q).free = s.free := rfl
@[simp] theorem setQp_pending (n : Nat) (q : Qp) : (s.setQp n q).pending = s.pending := rfl

/-! ### setPort -/

@[simp] theorem setPort_fuses (p : Nat) (x : FPort) : (s.setPort p x).fuses = s.fuses := rfl
@[simp] theorem setPort_plane (p : Nat) (x : FPort) : (s.setPort p x).plane = s.plane := rfl
@[simp] theorem setPort_jet (p : Nat) (x : FPort) : (s.setPort p x).jet = s.jet := rfl
@[simp] theorem setPort_ldr (p : Nat) (x : FPort) : (s.setPort p x).ldr = s.ldr := rfl
@[simp] theorem setPort_wst (p : Nat) (x : FPort) : (s.setPort p x).wst = s.wst := rfl
@[simp] theorem setPort_kv (p : Nat) (x : FPort) : (s.setPort p x).kv = s.kv := rfl
@[simp] theorem setPort_hub (p : Nat) (x : FPort) : (s.setPort p x).hub = s.hub := rfl
@[simp] theorem setPort_tenants (p : Nat) (x : FPort) : (s.setPort p x).tenants = s.tenants := rfl
@[simp] theorem setPort_iso (p : Nat) (x : FPort) : (s.setPort p x).iso = s.iso := rfl
@[simp] theorem setPort_pwr (p : Nat) (x : FPort) : (s.setPort p x).pwr = s.pwr := rfl
@[simp] theorem setPort_thm (p : Nat) (x : FPort) : (s.setPort p x).thm = s.thm := rfl
@[simp] theorem setPort_bg (p : Nat) (x : FPort) : (s.setPort p x).bg = s.bg := rfl
@[simp] theorem setPort_pnl (p : Nat) (x : FPort) : (s.setPort p x).pnl = s.pnl := rfl
@[simp] theorem setPort_adc (p : Nat) (x : FPort) : (s.setPort p x).adc = s.adc := rfl
@[simp] theorem setPort_sec (p : Nat) (x : FPort) : (s.setPort p x).sec = s.sec := rfl
@[simp] theorem setPort_jtag (p : Nat) (x : FPort) : (s.setPort p x).jtag = s.jtag := rfl
@[simp] theorem setPort_out (p : Nat) (x : FPort) : (s.setPort p x).out = s.out := rfl
@[simp] theorem setPort_free (p : Nat) (x : FPort) : (s.setPort p x).free = s.free := rfl
@[simp] theorem setPort_pending (p : Nat) (x : FPort) : (s.setPort p x).pending = s.pending := rfl

/-! ### setLatch -/

@[simp] theorem setLatch_fuses (k : Nat) (v : Option (BitVec 32)) : (s.setLatch k v).fuses = s.fuses := rfl
@[simp] theorem setLatch_plane (k : Nat) (v : Option (BitVec 32)) : (s.setLatch k v).plane = s.plane := rfl
@[simp] theorem setLatch_jet (k : Nat) (v : Option (BitVec 32)) : (s.setLatch k v).jet = s.jet := rfl
@[simp] theorem setLatch_ldr (k : Nat) (v : Option (BitVec 32)) : (s.setLatch k v).ldr = s.ldr := rfl
@[simp] theorem setLatch_wst (k : Nat) (v : Option (BitVec 32)) : (s.setLatch k v).wst = s.wst := rfl
@[simp] theorem setLatch_kv (k : Nat) (v : Option (BitVec 32)) : (s.setLatch k v).kv = s.kv := rfl
@[simp] theorem setLatch_hub (k : Nat) (v : Option (BitVec 32)) : (s.setLatch k v).hub = s.hub := rfl
@[simp] theorem setLatch_tenants (k : Nat) (v : Option (BitVec 32)) : (s.setLatch k v).tenants = s.tenants := rfl
@[simp] theorem setLatch_iso (k : Nat) (v : Option (BitVec 32)) : (s.setLatch k v).iso = s.iso := rfl
@[simp] theorem setLatch_pwr (k : Nat) (v : Option (BitVec 32)) : (s.setLatch k v).pwr = s.pwr := rfl
@[simp] theorem setLatch_thm (k : Nat) (v : Option (BitVec 32)) : (s.setLatch k v).thm = s.thm := rfl
@[simp] theorem setLatch_bg (k : Nat) (v : Option (BitVec 32)) : (s.setLatch k v).bg = s.bg := rfl
@[simp] theorem setLatch_pnl (k : Nat) (v : Option (BitVec 32)) : (s.setLatch k v).pnl = s.pnl := rfl
@[simp] theorem setLatch_adc (k : Nat) (v : Option (BitVec 32)) : (s.setLatch k v).adc = s.adc := rfl
@[simp] theorem setLatch_sec (k : Nat) (v : Option (BitVec 32)) : (s.setLatch k v).sec = s.sec := rfl
@[simp] theorem setLatch_jtag (k : Nat) (v : Option (BitVec 32)) : (s.setLatch k v).jtag = s.jtag := rfl
@[simp] theorem setLatch_out (k : Nat) (v : Option (BitVec 32)) : (s.setLatch k v).out = s.out := rfl
@[simp] theorem setLatch_free (k : Nat) (v : Option (BitVec 32)) : (s.setLatch k v).free = s.free := rfl
@[simp] theorem setLatch_pending (k : Nat) (v : Option (BitVec 32)) : (s.setLatch k v).pending = s.pending := rfl

/-! ### setHalf -/

@[simp] theorem setHalf_fuses (k : Nat) (v : Option (BitVec 32)) : (s.setHalf k v).fuses = s.fuses := rfl
@[simp] theorem setHalf_plane (k : Nat) (v : Option (BitVec 32)) : (s.setHalf k v).plane = s.plane := rfl
@[simp] theorem setHalf_jet (k : Nat) (v : Option (BitVec 32)) : (s.setHalf k v).jet = s.jet := rfl
@[simp] theorem setHalf_ldr (k : Nat) (v : Option (BitVec 32)) : (s.setHalf k v).ldr = s.ldr := rfl
@[simp] theorem setHalf_wst (k : Nat) (v : Option (BitVec 32)) : (s.setHalf k v).wst = s.wst := rfl
@[simp] theorem setHalf_kv (k : Nat) (v : Option (BitVec 32)) : (s.setHalf k v).kv = s.kv := rfl
@[simp] theorem setHalf_hub (k : Nat) (v : Option (BitVec 32)) : (s.setHalf k v).hub = s.hub := rfl
@[simp] theorem setHalf_tenants (k : Nat) (v : Option (BitVec 32)) : (s.setHalf k v).tenants = s.tenants := rfl
@[simp] theorem setHalf_iso (k : Nat) (v : Option (BitVec 32)) : (s.setHalf k v).iso = s.iso := rfl
@[simp] theorem setHalf_pwr (k : Nat) (v : Option (BitVec 32)) : (s.setHalf k v).pwr = s.pwr := rfl
@[simp] theorem setHalf_thm (k : Nat) (v : Option (BitVec 32)) : (s.setHalf k v).thm = s.thm := rfl
@[simp] theorem setHalf_bg (k : Nat) (v : Option (BitVec 32)) : (s.setHalf k v).bg = s.bg := rfl
@[simp] theorem setHalf_pnl (k : Nat) (v : Option (BitVec 32)) : (s.setHalf k v).pnl = s.pnl := rfl
@[simp] theorem setHalf_adc (k : Nat) (v : Option (BitVec 32)) : (s.setHalf k v).adc = s.adc := rfl
@[simp] theorem setHalf_sec (k : Nat) (v : Option (BitVec 32)) : (s.setHalf k v).sec = s.sec := rfl
@[simp] theorem setHalf_jtag (k : Nat) (v : Option (BitVec 32)) : (s.setHalf k v).jtag = s.jtag := rfl
@[simp] theorem setHalf_out (k : Nat) (v : Option (BitVec 32)) : (s.setHalf k v).out = s.out := rfl
@[simp] theorem setHalf_free (k : Nat) (v : Option (BitVec 32)) : (s.setHalf k v).free = s.free := rfl
@[simp] theorem setHalf_pending (k : Nat) (v : Option (BitVec 32)) : (s.setHalf k v).pending = s.pending := rfl

/-! ### setSlot -/

@[simp] theorem setSlot_fuses (n : Nat) (q : Seq) : (s.setSlot n q).fuses = s.fuses := rfl
@[simp] theorem setSlot_plane (n : Nat) (q : Seq) : (s.setSlot n q).plane = s.plane := rfl
@[simp] theorem setSlot_jet (n : Nat) (q : Seq) : (s.setSlot n q).jet = s.jet := rfl
@[simp] theorem setSlot_ldr (n : Nat) (q : Seq) : (s.setSlot n q).ldr = s.ldr := rfl
@[simp] theorem setSlot_wst (n : Nat) (q : Seq) : (s.setSlot n q).wst = s.wst := rfl
@[simp] theorem setSlot_kv (n : Nat) (q : Seq) : (s.setSlot n q).kv = s.kv := rfl
@[simp] theorem setSlot_tenants (n : Nat) (q : Seq) : (s.setSlot n q).tenants = s.tenants := rfl
@[simp] theorem setSlot_host (n : Nat) (q : Seq) : (s.setSlot n q).host = s.host := rfl
@[simp] theorem setSlot_iso (n : Nat) (q : Seq) : (s.setSlot n q).iso = s.iso := rfl
@[simp] theorem setSlot_pwr (n : Nat) (q : Seq) : (s.setSlot n q).pwr = s.pwr := rfl
@[simp] theorem setSlot_thm (n : Nat) (q : Seq) : (s.setSlot n q).thm = s.thm := rfl
@[simp] theorem setSlot_bg (n : Nat) (q : Seq) : (s.setSlot n q).bg = s.bg := rfl
@[simp] theorem setSlot_pnl (n : Nat) (q : Seq) : (s.setSlot n q).pnl = s.pnl := rfl
@[simp] theorem setSlot_adc (n : Nat) (q : Seq) : (s.setSlot n q).adc = s.adc := rfl
@[simp] theorem setSlot_sec (n : Nat) (q : Seq) : (s.setSlot n q).sec = s.sec := rfl
@[simp] theorem setSlot_jtag (n : Nat) (q : Seq) : (s.setSlot n q).jtag = s.jtag := rfl
@[simp] theorem setSlot_out (n : Nat) (q : Seq) : (s.setSlot n q).out = s.out := rfl
@[simp] theorem setSlot_free (n : Nat) (q : Seq) : (s.setSlot n q).free = s.free := rfl
@[simp] theorem setSlot_pending (n : Nat) (q : Seq) : (s.setSlot n q).pending = s.pending := rfl

/-! ### modSlot -/

@[simp] theorem modSlot_fuses (n : Nat) (f : Seq → Seq) : (s.modSlot n f).fuses = s.fuses := rfl
@[simp] theorem modSlot_plane (n : Nat) (f : Seq → Seq) : (s.modSlot n f).plane = s.plane := rfl
@[simp] theorem modSlot_jet (n : Nat) (f : Seq → Seq) : (s.modSlot n f).jet = s.jet := rfl
@[simp] theorem modSlot_ldr (n : Nat) (f : Seq → Seq) : (s.modSlot n f).ldr = s.ldr := rfl
@[simp] theorem modSlot_wst (n : Nat) (f : Seq → Seq) : (s.modSlot n f).wst = s.wst := rfl
@[simp] theorem modSlot_kv (n : Nat) (f : Seq → Seq) : (s.modSlot n f).kv = s.kv := rfl
@[simp] theorem modSlot_tenants (n : Nat) (f : Seq → Seq) : (s.modSlot n f).tenants = s.tenants := rfl
@[simp] theorem modSlot_host (n : Nat) (f : Seq → Seq) : (s.modSlot n f).host = s.host := rfl
@[simp] theorem modSlot_iso (n : Nat) (f : Seq → Seq) : (s.modSlot n f).iso = s.iso := rfl
@[simp] theorem modSlot_pwr (n : Nat) (f : Seq → Seq) : (s.modSlot n f).pwr = s.pwr := rfl
@[simp] theorem modSlot_thm (n : Nat) (f : Seq → Seq) : (s.modSlot n f).thm = s.thm := rfl
@[simp] theorem modSlot_bg (n : Nat) (f : Seq → Seq) : (s.modSlot n f).bg = s.bg := rfl
@[simp] theorem modSlot_pnl (n : Nat) (f : Seq → Seq) : (s.modSlot n f).pnl = s.pnl := rfl
@[simp] theorem modSlot_adc (n : Nat) (f : Seq → Seq) : (s.modSlot n f).adc = s.adc := rfl
@[simp] theorem modSlot_sec (n : Nat) (f : Seq → Seq) : (s.modSlot n f).sec = s.sec := rfl
@[simp] theorem modSlot_jtag (n : Nat) (f : Seq → Seq) : (s.modSlot n f).jtag = s.jtag := rfl
@[simp] theorem modSlot_out (n : Nat) (f : Seq → Seq) : (s.modSlot n f).out = s.out := rfl
@[simp] theorem modSlot_free (n : Nat) (f : Seq → Seq) : (s.modSlot n f).free = s.free := rfl
@[simp] theorem modSlot_pending (n : Nat) (f : Seq → Seq) : (s.modSlot n f).pending = s.pending := rfl

/-! ### setAdp -/

@[simp] theorem setAdp_fuses (n : Nat) (a : Adp) : (s.setAdp n a).fuses = s.fuses := rfl
@[simp] theorem setAdp_plane (n : Nat) (a : Adp) : (s.setAdp n a).plane = s.plane := rfl
@[simp] theorem setAdp_jet (n : Nat) (a : Adp) : (s.setAdp n a).jet = s.jet := rfl
@[simp] theorem setAdp_ldr (n : Nat) (a : Adp) : (s.setAdp n a).ldr = s.ldr := rfl
@[simp] theorem setAdp_wst (n : Nat) (a : Adp) : (s.setAdp n a).wst = s.wst := rfl
@[simp] theorem setAdp_kv (n : Nat) (a : Adp) : (s.setAdp n a).kv = s.kv := rfl
@[simp] theorem setAdp_tenants (n : Nat) (a : Adp) : (s.setAdp n a).tenants = s.tenants := rfl
@[simp] theorem setAdp_host (n : Nat) (a : Adp) : (s.setAdp n a).host = s.host := rfl
@[simp] theorem setAdp_iso (n : Nat) (a : Adp) : (s.setAdp n a).iso = s.iso := rfl
@[simp] theorem setAdp_pwr (n : Nat) (a : Adp) : (s.setAdp n a).pwr = s.pwr := rfl
@[simp] theorem setAdp_thm (n : Nat) (a : Adp) : (s.setAdp n a).thm = s.thm := rfl
@[simp] theorem setAdp_bg (n : Nat) (a : Adp) : (s.setAdp n a).bg = s.bg := rfl
@[simp] theorem setAdp_pnl (n : Nat) (a : Adp) : (s.setAdp n a).pnl = s.pnl := rfl
@[simp] theorem setAdp_adc (n : Nat) (a : Adp) : (s.setAdp n a).adc = s.adc := rfl
@[simp] theorem setAdp_sec (n : Nat) (a : Adp) : (s.setAdp n a).sec = s.sec := rfl
@[simp] theorem setAdp_jtag (n : Nat) (a : Adp) : (s.setAdp n a).jtag = s.jtag := rfl
@[simp] theorem setAdp_out (n : Nat) (a : Adp) : (s.setAdp n a).out = s.out := rfl
@[simp] theorem setAdp_free (n : Nat) (a : Adp) : (s.setAdp n a).free = s.free := rfl
@[simp] theorem setAdp_pending (n : Nat) (a : Adp) : (s.setAdp n a).pending = s.pending := rfl

/-! ### setPfx -/

@[simp] theorem setPfx_fuses (n : Nat) (e : Pfx) : (s.setPfx n e).fuses = s.fuses := rfl
@[simp] theorem setPfx_plane (n : Nat) (e : Pfx) : (s.setPfx n e).plane = s.plane := rfl
@[simp] theorem setPfx_jet (n : Nat) (e : Pfx) : (s.setPfx n e).jet = s.jet := rfl
@[simp] theorem setPfx_ldr (n : Nat) (e : Pfx) : (s.setPfx n e).ldr = s.ldr := rfl
@[simp] theorem setPfx_wst (n : Nat) (e : Pfx) : (s.setPfx n e).wst = s.wst := rfl
@[simp] theorem setPfx_hub (n : Nat) (e : Pfx) : (s.setPfx n e).hub = s.hub := rfl
@[simp] theorem setPfx_tenants (n : Nat) (e : Pfx) : (s.setPfx n e).tenants = s.tenants := rfl
@[simp] theorem setPfx_host (n : Nat) (e : Pfx) : (s.setPfx n e).host = s.host := rfl
@[simp] theorem setPfx_iso (n : Nat) (e : Pfx) : (s.setPfx n e).iso = s.iso := rfl
@[simp] theorem setPfx_pwr (n : Nat) (e : Pfx) : (s.setPfx n e).pwr = s.pwr := rfl
@[simp] theorem setPfx_thm (n : Nat) (e : Pfx) : (s.setPfx n e).thm = s.thm := rfl
@[simp] theorem setPfx_bg (n : Nat) (e : Pfx) : (s.setPfx n e).bg = s.bg := rfl
@[simp] theorem setPfx_pnl (n : Nat) (e : Pfx) : (s.setPfx n e).pnl = s.pnl := rfl
@[simp] theorem setPfx_adc (n : Nat) (e : Pfx) : (s.setPfx n e).adc = s.adc := rfl
@[simp] theorem setPfx_sec (n : Nat) (e : Pfx) : (s.setPfx n e).sec = s.sec := rfl
@[simp] theorem setPfx_jtag (n : Nat) (e : Pfx) : (s.setPfx n e).jtag = s.jtag := rfl
@[simp] theorem setPfx_out (n : Nat) (e : Pfx) : (s.setPfx n e).out = s.out := rfl
@[simp] theorem setPfx_free (n : Nat) (e : Pfx) : (s.setPfx n e).free = s.free := rfl
@[simp] theorem setPfx_pending (n : Nat) (e : Pfx) : (s.setPfx n e).pending = s.pending := rfl

/-! ### setWslot -/

@[simp] theorem setWslot_fuses (n : Nat) (x : WSlot) : (s.setWslot n x).fuses = s.fuses := rfl
@[simp] theorem setWslot_plane (n : Nat) (x : WSlot) : (s.setWslot n x).plane = s.plane := rfl
@[simp] theorem setWslot_jet (n : Nat) (x : WSlot) : (s.setWslot n x).jet = s.jet := rfl
@[simp] theorem setWslot_ldr (n : Nat) (x : WSlot) : (s.setWslot n x).ldr = s.ldr := rfl
@[simp] theorem setWslot_kv (n : Nat) (x : WSlot) : (s.setWslot n x).kv = s.kv := rfl
@[simp] theorem setWslot_hub (n : Nat) (x : WSlot) : (s.setWslot n x).hub = s.hub := rfl
@[simp] theorem setWslot_tenants (n : Nat) (x : WSlot) : (s.setWslot n x).tenants = s.tenants := rfl
@[simp] theorem setWslot_host (n : Nat) (x : WSlot) : (s.setWslot n x).host = s.host := rfl
@[simp] theorem setWslot_iso (n : Nat) (x : WSlot) : (s.setWslot n x).iso = s.iso := rfl
@[simp] theorem setWslot_pwr (n : Nat) (x : WSlot) : (s.setWslot n x).pwr = s.pwr := rfl
@[simp] theorem setWslot_thm (n : Nat) (x : WSlot) : (s.setWslot n x).thm = s.thm := rfl
@[simp] theorem setWslot_bg (n : Nat) (x : WSlot) : (s.setWslot n x).bg = s.bg := rfl
@[simp] theorem setWslot_pnl (n : Nat) (x : WSlot) : (s.setWslot n x).pnl = s.pnl := rfl
@[simp] theorem setWslot_adc (n : Nat) (x : WSlot) : (s.setWslot n x).adc = s.adc := rfl
@[simp] theorem setWslot_sec (n : Nat) (x : WSlot) : (s.setWslot n x).sec = s.sec := rfl
@[simp] theorem setWslot_jtag (n : Nat) (x : WSlot) : (s.setWslot n x).jtag = s.jtag := rfl
@[simp] theorem setWslot_out (n : Nat) (x : WSlot) : (s.setWslot n x).out = s.out := rfl
@[simp] theorem setWslot_free (n : Nat) (x : WSlot) : (s.setWslot n x).free = s.free := rfl
@[simp] theorem setWslot_pending (n : Nat) (x : WSlot) : (s.setWslot n x).pending = s.pending := rfl

/-! ### setChan -/

@[simp] theorem setChan_fuses (n : Nat) (c : AdcCh) : (s.setChan n c).fuses = s.fuses := rfl
@[simp] theorem setChan_plane (n : Nat) (c : AdcCh) : (s.setChan n c).plane = s.plane := rfl
@[simp] theorem setChan_jet (n : Nat) (c : AdcCh) : (s.setChan n c).jet = s.jet := rfl
@[simp] theorem setChan_ldr (n : Nat) (c : AdcCh) : (s.setChan n c).ldr = s.ldr := rfl
@[simp] theorem setChan_wst (n : Nat) (c : AdcCh) : (s.setChan n c).wst = s.wst := rfl
@[simp] theorem setChan_kv (n : Nat) (c : AdcCh) : (s.setChan n c).kv = s.kv := rfl
@[simp] theorem setChan_hub (n : Nat) (c : AdcCh) : (s.setChan n c).hub = s.hub := rfl
@[simp] theorem setChan_tenants (n : Nat) (c : AdcCh) : (s.setChan n c).tenants = s.tenants := rfl
@[simp] theorem setChan_host (n : Nat) (c : AdcCh) : (s.setChan n c).host = s.host := rfl
@[simp] theorem setChan_iso (n : Nat) (c : AdcCh) : (s.setChan n c).iso = s.iso := rfl
@[simp] theorem setChan_pwr (n : Nat) (c : AdcCh) : (s.setChan n c).pwr = s.pwr := rfl
@[simp] theorem setChan_thm (n : Nat) (c : AdcCh) : (s.setChan n c).thm = s.thm := rfl
@[simp] theorem setChan_bg (n : Nat) (c : AdcCh) : (s.setChan n c).bg = s.bg := rfl
@[simp] theorem setChan_pnl (n : Nat) (c : AdcCh) : (s.setChan n c).pnl = s.pnl := rfl
@[simp] theorem setChan_sec (n : Nat) (c : AdcCh) : (s.setChan n c).sec = s.sec := rfl
@[simp] theorem setChan_jtag (n : Nat) (c : AdcCh) : (s.setChan n c).jtag = s.jtag := rfl
@[simp] theorem setChan_out (n : Nat) (c : AdcCh) : (s.setChan n c).out = s.out := rfl
@[simp] theorem setChan_free (n : Nat) (c : AdcCh) : (s.setChan n c).free = s.free := rfl
@[simp] theorem setChan_pending (n : Nat) (c : AdcCh) : (s.setChan n c).pending = s.pending := rfl

/-! ### setPair -/

@[simp] theorem setPair_fuses (n : Nat) (p : Pair) : (s.setPair n p).fuses = s.fuses := rfl
@[simp] theorem setPair_plane (n : Nat) (p : Pair) : (s.setPair n p).plane = s.plane := rfl
@[simp] theorem setPair_jet (n : Nat) (p : Pair) : (s.setPair n p).jet = s.jet := rfl
@[simp] theorem setPair_ldr (n : Nat) (p : Pair) : (s.setPair n p).ldr = s.ldr := rfl
@[simp] theorem setPair_wst (n : Nat) (p : Pair) : (s.setPair n p).wst = s.wst := rfl
@[simp] theorem setPair_kv (n : Nat) (p : Pair) : (s.setPair n p).kv = s.kv := rfl
@[simp] theorem setPair_hub (n : Nat) (p : Pair) : (s.setPair n p).hub = s.hub := rfl
@[simp] theorem setPair_tenants (n : Nat) (p : Pair) : (s.setPair n p).tenants = s.tenants := rfl
@[simp] theorem setPair_host (n : Nat) (p : Pair) : (s.setPair n p).host = s.host := rfl
@[simp] theorem setPair_iso (n : Nat) (p : Pair) : (s.setPair n p).iso = s.iso := rfl
@[simp] theorem setPair_pwr (n : Nat) (p : Pair) : (s.setPair n p).pwr = s.pwr := rfl
@[simp] theorem setPair_bg (n : Nat) (p : Pair) : (s.setPair n p).bg = s.bg := rfl
@[simp] theorem setPair_pnl (n : Nat) (p : Pair) : (s.setPair n p).pnl = s.pnl := rfl
@[simp] theorem setPair_adc (n : Nat) (p : Pair) : (s.setPair n p).adc = s.adc := rfl
@[simp] theorem setPair_sec (n : Nat) (p : Pair) : (s.setPair n p).sec = s.sec := rfl
@[simp] theorem setPair_jtag (n : Nat) (p : Pair) : (s.setPair n p).jtag = s.jtag := rfl
@[simp] theorem setPair_out (n : Nat) (p : Pair) : (s.setPair n p).out = s.out := rfl
@[simp] theorem setPair_free (n : Nat) (p : Pair) : (s.setPair n p).free = s.free := rfl
@[simp] theorem setPair_pending (n : Nat) (p : Pair) : (s.setPair n p).pending = s.pending := rfl

/-! ### Core.later -/

variable (k : Core)

@[simp] theorem later_role (n : Nat) (sl : SlotKind) (d : OpDest) (v : BitVec 2048) : (k.later n sl d v).role = k.role := rfl
@[simp] theorem later_issue (n : Nat) (sl : SlotKind) (d : OpDest) (v : BitVec 2048) : (k.later n sl d v).issue = k.issue := rfl
@[simp] theorem later_pc (n : Nat) (sl : SlotKind) (d : OpDest) (v : BitVec 2048) : (k.later n sl d v).pc = k.pc := rfl
@[simp] theorem later_target (n : Nat) (sl : SlotKind) (d : OpDest) (v : BitVec 2048) : (k.later n sl d v).target = k.target := rfl
@[simp] theorem later_delaySlot (n : Nat) (sl : SlotKind) (d : OpDest) (v : BitVec 2048) : (k.later n sl d v).delaySlot = k.delaySlot := rfl
@[simp] theorem later_lastPc (n : Nat) (sl : SlotKind) (d : OpDest) (v : BitVec 2048) : (k.later n sl d v).lastPc = k.lastPc := rfl
@[simp] theorem later_nextAt (n : Nat) (sl : SlotKind) (d : OpDest) (v : BitVec 2048) : (k.later n sl d v).nextAt = k.nextAt := rfl
@[simp] theorem later_g (n : Nat) (sl : SlotKind) (d : OpDest) (v : BitVec 2048) : (k.later n sl d v).g = k.g := rfl
@[simp] theorem later_a (n : Nat) (sl : SlotKind) (d : OpDest) (v : BitVec 2048) : (k.later n sl d v).a = k.a := rfl
@[simp] theorem later_p (n : Nat) (sl : SlotKind) (d : OpDest) (v : BitVec 2048) : (k.later n sl d v).p = k.p := rfl
@[simp] theorem later_cc (n : Nat) (sl : SlotKind) (d : OpDest) (v : BitVec 2048) : (k.later n sl d v).cc = k.cc := rfl
@[simp] theorem later_incs (n : Nat) (sl : SlotKind) (d : OpDest) (v : BitVec 2048) : (k.later n sl d v).incs = k.incs := rfl
@[simp] theorem later_sh (n : Nat) (sl : SlotKind) (d : OpDest) (v : BitVec 2048) : (k.later n sl d v).sh = k.sh := rfl
@[simp] theorem later_sendCnt (n : Nat) (sl : SlotKind) (d : OpDest) (v : BitVec 2048) : (k.later n sl d v).sendCnt = k.sendCnt := rfl
@[simp] theorem later_v (n : Nat) (sl : SlotKind) (d : OpDest) (v : BitVec 2048) : (k.later n sl d v).v = k.v := rfl
@[simp] theorem later_writes (n : Nat) (sl : SlotKind) (d : OpDest) (v : BitVec 2048) :
    (k.later n sl d v).writes = k.writes ++ [⟨n, slotOrd sl, d, none, v⟩] := rfl
@[simp] theorem later_incDue (n : Nat) (sl : SlotKind) (d : OpDest) (v : BitVec 2048) : (k.later n sl d v).incDue = k.incDue := rfl
@[simp] theorem later_samples (n : Nat) (sl : SlotKind) (d : OpDest) (v : BitVec 2048) : (k.later n sl d v).samples = k.samples := rfl
@[simp] theorem later_loads (n : Nat) (sl : SlotKind) (d : OpDest) (v : BitVec 2048) : (k.later n sl d v).loads = k.loads := rfl
@[simp] theorem later_stores (n : Nat) (sl : SlotKind) (d : OpDest) (v : BitVec 2048) : (k.later n sl d v).stores = k.stores := rfl
@[simp] theorem later_banks (n : Nat) (sl : SlotKind) (d : OpDest) (v : BitVec 2048) : (k.later n sl d v).banks = k.banks := rfl
@[simp] theorem later_drops (n : Nat) (sl : SlotKind) (d : OpDest) (v : BitVec 2048) : (k.later n sl d v).drops = k.drops := rfl
@[simp] theorem later_armed (n : Nat) (sl : SlotKind) (d : OpDest) (v : BitVec 2048) : (k.later n sl d v).armed = k.armed := rfl
@[simp] theorem later_watches (n : Nat) (sl : SlotKind) (d : OpDest) (v : BitVec 2048) : (k.later n sl d v).watches = k.watches := rfl
@[simp] theorem later_mode (n : Nat) (sl : SlotKind) (d : OpDest) (v : BitVec 2048) : (k.later n sl d v).mode = k.mode := rfl
@[simp] theorem later_arrays (n : Nat) (sl : SlotKind) (d : OpDest) (v : BitVec 2048) : (k.later n sl d v).arrays = k.arrays := rfl
@[simp] theorem later_passes (n : Nat) (sl : SlotKind) (d : OpDest) (v : BitVec 2048) : (k.later n sl d v).passes = k.passes := rfl
@[simp] theorem later_lastE (n : Nat) (sl : SlotKind) (d : OpDest) (v : BitVec 2048) : (k.later n sl d v).lastE = k.lastE := rfl
@[simp] theorem later_drains (n : Nat) (sl : SlotKind) (d : OpDest) (v : BitVec 2048) : (k.later n sl d v).drains = k.drains := rfl
@[simp] theorem later_merges (n : Nat) (sl : SlotKind) (d : OpDest) (v : BitVec 2048) : (k.later n sl d v).merges = k.merges := rfl
@[simp] theorem later_inits (n : Nat) (sl : SlotKind) (d : OpDest) (v : BitVec 2048) : (k.later n sl d v).inits = k.inits := rfl
@[simp] theorem later_tloads (n : Nat) (sl : SlotKind) (d : OpDest) (v : BitVec 2048) : (k.later n sl d v).tloads = k.tloads := rfl
@[simp] theorem later_xq (n : Nat) (sl : SlotKind) (d : OpDest) (v : BitVec 2048) : (k.later n sl d v).xq = k.xq := rfl
@[simp] theorem later_frozen (n : Nat) (sl : SlotKind) (d : OpDest) (v : BitVec 2048) : (k.later n sl d v).frozen = k.frozen := rfl
@[simp] theorem later_gcyc (n : Nat) (sl : SlotKind) (d : OpDest) (v : BitVec 2048) : (k.later n sl d v).gcyc = k.gcyc := rfl
@[simp] theorem later_slip (n : Nat) (sl : SlotKind) (d : OpDest) (v : BitVec 2048) : (k.later n sl d v).slip = k.slip := rfl
@[simp] theorem later_hold (n : Nat) (sl : SlotKind) (d : OpDest) (v : BitVec 2048) : (k.later n sl d v).hold = k.hold := rfl
@[simp] theorem later_outl (n : Nat) (sl : SlotKind) (d : OpDest) (v : BitVec 2048) : (k.later n sl d v).outl = k.outl := rfl
@[simp] theorem later_rank (n : Nat) (sl : SlotKind) (d : OpDest) (v : BitVec 2048) : (k.later n sl d v).rank = k.rank := rfl
@[simp] theorem later_res (n : Nat) (sl : SlotKind) (d : OpDest) (v : BitVec 2048) : (k.later n sl d v).res = k.res := rfl
@[simp] theorem later_corr (n : Nat) (sl : SlotKind) (d : OpDest) (v : BitVec 2048) : (k.later n sl d v).corr = k.corr := rfl
@[simp] theorem later_fill (n : Nat) (sl : SlotKind) (d : OpDest) (v : BitVec 2048) : (k.later n sl d v).fill = k.fill := rfl
@[simp] theorem later_take (n : Nat) (sl : SlotKind) (d : OpDest) (v : BitVec 2048) : (k.later n sl d v).take = k.take := rfl
@[simp] theorem later_arrived (n : Nat) (sl : SlotKind) (d : OpDest) (v : BitVec 2048) : (k.later n sl d v).arrived = k.arrived := rfl
@[simp] theorem later_modeNext (n : Nat) (sl : SlotKind) (d : OpDest) (v : BitVec 2048) : (k.later n sl d v).modeNext = k.modeNext := rfl
@[simp] theorem later_overs (n : Nat) (sl : SlotKind) (d : OpDest) (v : BitVec 2048) : (k.later n sl d v).overs = k.overs := rfl
@[simp] theorem later_relAt (n : Nat) (sl : SlotKind) (d : OpDest) (v : BitVec 2048) : (k.later n sl d v).relAt = k.relAt := rfl
@[simp] theorem later_aBusy (n : Nat) (sl : SlotKind) (d : OpDest) (v : BitVec 2048) : (k.later n sl d v).aBusy = k.aBusy := rfl

end Sys2Proof.Laws
end

