-- ==== Sys2Proof/Laws/Tables.lean ====
section
/-! SUPPORT. Sparse tables and memories: read after write, and every operation keeps the canonical form. -/

namespace Sys2Proof.Laws

open Sys2Proof Sys2Proof.Machine

variable {α : Type} [DecidableEq α] {d : α}

theorem twfFrom_cons {lo j : Nat} {w : α} {r : Table α} :
    twfFrom d lo ((j, w) :: r) = true ↔ lo ≤ j ∧ w ≠ d ∧ twfFrom d (j + 1) r = true := by
  simp [twfFrom, and_assoc]

/-- A canonical table is canonical from any lower bound. -/
theorem twfFrom_lower {lo lo' : Nat} {t : Table α} (h : twfFrom d lo t = true) (hl : lo' ≤ lo) : twfFrom d lo' t = true := by
  cases t with
  | nil => rfl
  | cons e r =>
    obtain ⟨j, w⟩ := e
    rw [twfFrom_cons] at h ⊢
    exact ⟨hl.trans h.1, h.2⟩

/-- Below its lower bound a canonical table reads the default. -/
theorem tget_below {lo k : Nat} {t : Table α} (h : twfFrom d lo t = true) (hk : k < lo) : tget d t k = d := by
  cases t with
  | nil => rfl
  | cons e r =>
    obtain ⟨j, w⟩ := e
    rw [twfFrom_cons] at h
    simp [tget, show k < j by omega]

/-- A write keeps the canonical form. -/
theorem twfFrom_tset {lo k : Nat} {v : α} {t : Table α} (h : twfFrom d lo t = true) (hk : lo ≤ k) :
    twfFrom d lo (tset d t k v) = true := by
  induction t generalizing lo with
  | nil =>
    by_cases hv : v = d
    · simp [tset, hv, twfFrom]
    · simp [tset, hv, twfFrom, hk]
  | cons e r ih =>
    obtain ⟨j, w⟩ := e
    have h' := twfFrom_cons.1 h
    by_cases h1 : k < j
    · by_cases hv : v = d
      · simpa [tset, h1, hv] using h
      · simp only [tset, h1, if_true, hv, if_false]
        exact twfFrom_cons.2 ⟨hk, hv, twfFrom_cons.2 ⟨h1, h'.2⟩⟩
    · by_cases h2 : k = j
      · subst h2
        by_cases hv : v = d
        · simpa [tset, hv] using twfFrom_lower h'.2.2 (by omega)
        · simp only [tset, lt_irrefl, if_false, if_true, hv]
          exact twfFrom_cons.2 ⟨h'.1, hv, h'.2.2⟩
      · simp only [tset, h1, h2, if_false]
        exact twfFrom_cons.2 ⟨h'.1, h'.2.1, ih h'.2.2 (by omega)⟩

theorem twf_tset {k : Nat} {v : α} {t : Table α} (h : twf d t = true) : twf d (tset d t k v) = true :=
  twfFrom_tset h (Nat.zero_le k)

theorem twf_tmod {k : Nat} {f : α → α} {t : Table α} (h : twf d t = true) : twf d (tmod d t k f) = true := twf_tset h

/-- A read at the place just written gives the value written. -/
theorem tget_tset_from {lo k : Nat} {v : α} {t : Table α} (h : twfFrom d lo t = true) : tget d (tset d t k v) k = v := by
  induction t generalizing lo with
  | nil => by_cases hv : v = d <;> simp [tset, hv, tget]
  | cons e r ih =>
    obtain ⟨j, w⟩ := e
    have h' := twfFrom_cons.1 h
    by_cases h1 : k < j
    · by_cases hv : v = d <;> simp [tset, h1, hv, tget]
    · by_cases h2 : k = j
      · subst h2
        by_cases hv : v = d
        · simpa [tset, hv] using tget_below h'.2.2 (by omega)
        · simp [tset, hv, tget]
      · simp only [tset, h1, h2, if_false, tget]
        exact ih h'.2.2

theorem tget_tset {k : Nat} {v : α} {t : Table α} (h : twf d t = true) : tget d (tset d t k v) k = v := tget_tset_from h

/-- A write leaves every other place alone. -/
theorem tget_tset_ne_from {lo k k' : Nat} {v : α} {t : Table α} (h : twfFrom d lo t = true) (hne : k' ≠ k) :
    tget d (tset d t k v) k' = tget d t k' := by
  induction t generalizing lo with
  | nil =>
    by_cases hv : v = d
    · simp [tset, hv, tget]
    · by_cases h1 : k' < k <;> simp [tset, hv, tget, h1, hne]
  | cons e r ih =>
    obtain ⟨j, w⟩ := e
    have h' := twfFrom_cons.1 h
    by_cases h1 : k < j
    · by_cases hv : v = d
      · simp [tset, h1, hv]
      · simp only [tset, h1, if_true, hv, if_false]
        by_cases h3 : k' < k
        · simp [tget, h3, show k' < j by omega]
        · simp [tget, h3, hne]
    · by_cases h2 : k = j
      · subst h2
        by_cases hv : v = d
        · simp only [tset, lt_irrefl, if_false, if_true, hv]
          by_cases h3 : k' < k
          · simp [tget, h3, tget_below h'.2.2 (show k' < k + 1 by omega)]
          · simp [tget, h3, hne]
        · simp [tset, hv, tget, hne]
      · simp only [tset, h1, h2, if_false, tget]
        rw [ih h'.2.2]

theorem tget_tset_ne {k k' : Nat} {v : α} {t : Table α} (h : twf d t = true) (hne : k' ≠ k) :
    tget d (tset d t k v) k' = tget d t k' := tget_tset_ne_from h hne

/-- Dropping entries keeps the canonical form. -/
theorem twfFrom_filter {lo : Nat} {t : Table α} (p : Nat × α → Bool) (h : twfFrom d lo t = true) :
    twfFrom d lo (t.filter p) = true := by
  induction t generalizing lo with
  | nil => rfl
  | cons e r ih =>
    obtain ⟨j, w⟩ := e
    have h' := twfFrom_cons.1 h
    by_cases hp : p (j, w)
    · simp only [List.filter_cons, hp, if_true]
      exact twfFrom_cons.2 ⟨h'.1, h'.2.1, ih h'.2.2⟩
    · simp only [List.filter_cons, hp]
      exact twfFrom_lower (ih h'.2.2) (Nat.le_succ_of_le h'.1)

theorem twf_filter {t : Table α} (p : Nat × α → Bool) (h : twf d t = true) : twf d (t.filter p) = true := twfFrom_filter p h

/-- Applying a function to every entry keeps the canonical form. -/
theorem twf_tmap {f : α → α} {t : Table α} (h : twf d t = true) : twf d (tmap d f t) = true := by
  have key : ∀ (lo : Nat) (t : Table α), twfFrom d lo t = true → twfFrom d lo (tmap d f t) = true := by
    intro lo t
    induction t generalizing lo with
    | nil => intro _; rfl
    | cons e r ih =>
      obtain ⟨j, w⟩ := e
      intro h
      have h' := twfFrom_cons.1 h
      by_cases hv : f w = d
      · simp only [tmap, List.map_cons, List.filter_cons, hv]
        simpa [tmap] using twfFrom_lower (ih _ h'.2.2) (Nat.le_succ_of_le h'.1)
      · simp only [tmap, List.map_cons, List.filter_cons, ne_eq, hv, not_false_eq_true, decide_true, if_true]
        exact twfFrom_cons.2 ⟨h'.1, hv, ih _ h'.2.2⟩
  exact key 0 t h

/-! ### Memories -/

theorem memWf_nil : memWf [] = true := rfl

theorem memWf_mset {m : List Host.Cell} {a : Nat} {b : Byte} (h : memWf m = true) : memWf (mset m a b) = true := twf_tset h

theorem memWf_mwrite {l : List Byte} {m : List Host.Cell} {a : Nat} (h : memWf m = true) : memWf (mwrite m a l) = true := by
  induction l generalizing m a with
  | nil => exact h
  | cons b r ih => exact ih (memWf_mset h)

theorem memWf_storeCells {l m : List Host.Cell} (h : memWf m = true) : memWf (storeCells m l) = true := by
  induction l generalizing m with
  | nil => exact h
  | cons c r ih => exact ih (memWf_mset h)

theorem memWf_mclear {m : List Host.Cell} {lo hi : Nat} (h : memWf m = true) : memWf (mclear m lo hi) = true := twf_filter _ h

/-- Read after write. -/
theorem mget_mset {m : List Host.Cell} {a : Nat} {b : Byte} (h : memWf m = true) : mget (mset m a b) a = b := tget_tset h

theorem mget_mset_ne {m : List Host.Cell} {a x : Nat} {b : Byte} (h : memWf m = true) (hx : x ≠ a) :
    mget (mset m a b) x = mget m x := tget_tset_ne h hx

/-- A run of bytes leaves every byte outside it alone. -/
theorem mget_mwrite_out {l : List Byte} {m : List Host.Cell} {a x : Nat} (h : memWf m = true) (hx : x < a ∨ a + l.length ≤ x) :
    mget (mwrite m a l) x = mget m x := by
  induction l generalizing m a with
  | nil => rfl
  | cons b r ih =>
    simp only [List.length_cons] at hx
    rw [mwrite, ih (memWf_mset h) (by omega), mget_mset_ne h (by omega)]

/-- A run of bytes reads as written. -/
theorem mget_mwrite_in {l : List Byte} {m : List Host.Cell} {a i : Nat} (h : memWf m = true) (hi : i < l.length) :
    mget (mwrite m a l) (a + i) = l[i] := by
  induction l generalizing m a i with
  | nil => simp at hi
  | cons b r ih =>
    cases i with
    | zero => rw [mwrite, mget_mwrite_out (memWf_mset h) (by omega), Nat.add_zero, mget_mset h]; rfl
    | succ n =>
      rw [mwrite, show a + (n + 1) = a + 1 + n by omega, ih (memWf_mset h) (by simpa using hi)]
      simp

theorem mread_length (m : List Host.Cell) (a n : Nat) : (mread m a n).length = n := by
  induction n generalizing a with
  | zero => rfl
  | succ n ih => simp [mread, ih]

theorem leBytes_length (n v : Nat) : (leBytes n v).length = n := by
  induction n generalizing v with
  | zero => rfl
  | succ n ih => simp [leBytes, ih]

/-- Little-endian bytes stand for their number. -/
theorem ofLe_leBytes (n v : Nat) : ofLe (leBytes n v) = v % 256 ^ n := by
  induction n generalizing v with
  | zero => simp [leBytes, ofLe, Nat.mod_one]
  | succ n ih =>
    have hb : (BitVec.ofNat 8 v).toNat = v % 256 := by simp
    rw [leBytes, ofLe, ih, hb, Nat.pow_succ', Nat.mod_mul]

end Sys2Proof.Laws
end

