-- ==== Sys2Proof/Laws/Ops.lean ====
section
/-! SUPPORT. What each shared operation can do, said once. -/

namespace Sys2Proof.Laws

open Sys2Proof Sys2Proof.Machine

/-! ### Cores -/

theorem core_setCore {s : State} {c : Nat} {k : Core} (h : twf ({} : Core) s.plane.cores = true) : (s.setCore c k).core c = k :=
  tget_tset h

theorem core_setCore_ne {s : State} {c c' : Nat} {k : Core} (h : twf ({} : Core) s.plane.cores = true) (hc : c' ≠ c) :
    (s.setCore c k).core c' = s.core c' :=
  tget_tset_ne h hc

theorem cores_setCore {s : State} {c : Nat} {k : Core} (h : twf ({} : Core) s.plane.cores = true) :
    twf ({} : Core) (s.setCore c k).plane.cores = true :=
  twf_tset h

theorem tenant_setTenant {s : State} {t : Nat} {v : Tenant} (h : twf ({} : Tenant) s.tenants = true) :
    (s.setTenant t v).tenant t = v :=
  tget_tset h

theorem tenant_setTenant_ne {s : State} {t t' : Nat} {v : Tenant} (h : twf ({} : Tenant) s.tenants = true) (ht : t' ≠ t) :
    (s.setTenant t v).tenant t' = s.tenant t' :=
  tget_tset_ne h ht

/-! ### The squall wires -/

/-- `raise` changes at most the list of detected faults, sq_later and the clusters hurt during a load. -/
theorem raise_frame (s : State) (f : FaultRep) :
    s.raise f = { s with plane := { s.plane with faults := (s.raise f).plane.faults },
                         bg := { s.bg with sqLater := (s.raise f).bg.sqLater },
                         ldr := { s.ldr with hurt := (s.raise f).ldr.hurt } } := by
  unfold State.raise
  split
  · rfl
  · split
    · rfl
    · split
      · split <;> rfl
      · rfl

@[simp] theorem raise_pending (s : State) (f : FaultRep) : (s.raise f).pending = s.pending := by rw [raise_frame]
@[simp] theorem raise_cores (s : State) (f : FaultRep) : (s.raise f).plane.cores = s.plane.cores := by rw [raise_frame]
@[simp] theorem raise_sram (s : State) (f : FaultRep) : (s.raise f).plane.sram = s.plane.sram := by rw [raise_frame]
@[simp] theorem raise_hub (s : State) (f : FaultRep) : (s.raise f).hub = s.hub := by rw [raise_frame]
@[simp] theorem raise_tenants (s : State) (f : FaultRep) : (s.raise f).tenants = s.tenants := by rw [raise_frame]
@[simp] theorem raise_core (s : State) (f : FaultRep) (c : Nat) : (s.raise f).core c = s.core c := by
  simp [State.core]

/-- While a program runs, a detected fault waits for the stop. -/
theorem raise_run {s : State} {f : FaultRep} (h : s.plane.progRun = true) : (s.raise f).plane.faults = s.plane.faults ++ [f] := by
  simp [State.raise, h]

/-! ### The frame of a slot operation -/

/-- A slot operation of an existing core: an illegal encoding raises class 07h, a guard that is off leaves the state, and
otherwise the effect happens; a number past the last core changes nothing. -/
theorem issueSlot_cases {s : State} {c : Nat} {sl : SlotKind} {gd : Guard} {legal : Bool} {act : Core → State} {r : Res}
    (h : issueSlot s c sl gd legal act = r) :
    (nCores ≤ c ∧ r = .next s) ∨
    (c < nCores ∧ legal = false ∧ r = .next (s.raiseCore c 7 sl (s.core c).pc.toNat)) ∨
    (c < nCores ∧ legal = true ∧ guardOn (s.core c) gd = false ∧ r = .next s) ∨
    (c < nCores ∧ legal = true ∧ guardOn (s.core c) gd = true ∧ r = .next (act (s.core c))) := by
  subst h
  unfold issueSlot
  by_cases hc : nCores ≤ c
  · exact .inl ⟨hc, by simp [hc]⟩
  · have hc' : c < nCores := Nat.lt_of_not_le hc
    cases legal with
    | false => exact .inr (.inl ⟨hc', rfl, by simp [hc]⟩)
    | true =>
      cases hg : guardOn (s.core c) gd with
      | false => exact .inr (.inr (.inl ⟨hc', rfl, rfl, by simp [hc, hg]⟩))
      | true => exact .inr (.inr (.inr ⟨hc', rfl, rfl, by simp [hc, hg]⟩))

theorem issueSlot_on {s : State} {c : Nat} {sl : SlotKind} {gd : Guard} {act : Core → State} (hc : c < nCores)
    (hg : guardOn (s.core c) gd = true) : issueSlot s c sl gd true act = .next (act (s.core c)) := by
  simp [issueSlot, Nat.not_le.2 hc, hg]

theorem issueSlot_off {s : State} {c : Nat} {sl : SlotKind} {gd : Guard} {act : Core → State} (hc : c < nCores)
    (hg : guardOn (s.core c) gd = false) : issueSlot s c sl gd true act = .next s := by
  simp [issueSlot, Nat.not_le.2 hc, hg]

theorem issueSlot_illegal {s : State} {c : Nat} {sl : SlotKind} {gd : Guard} {act : Core → State} (hc : c < nCores) :
    issueSlot s c sl gd false act = .next (s.raiseCore c 7 sl (s.core c).pc.toNat) := by
  simp [issueSlot, Nat.not_le.2 hc]

/-! ### Registers -/

@[simp] theorem gGet_zero (k : Core) : k.gGet 0 = 0 := by simp [Core.gGet]
@[simp] theorem pGet_zero (k : Core) : k.pGet 0 = true := by simp [Core.pGet]

/-- A write to g0 is ignored. -/
@[simp] theorem put_g0 (k : Core) (v : BitVec 2048) : k.put (.g 0) v = k := by simp [Core.put]
@[simp] theorem put_p0 (k : Core) (v : BitVec 2048) : k.put (.p 0) v = k := by simp [Core.put]

theorem put_g {k : Core} {r : BitVec 5} {v : BitVec 2048} (hr : r ≠ 0) :
    k.put (.g r) v = { k with g := tset 0 k.g r.toNat (v.setWidth 64) } := if_neg hr

/-- A written scalar register reads its new value. -/
theorem gGet_put {k : Core} {r : BitVec 5} {v : BitVec 2048} (h : twf (0 : BitVec 64) k.g = true) (hr : r ≠ 0) :
    (k.put (.g r) v).gGet r.toNat = v.setWidth 64 := by
  have hz : ¬ r.toNat = 0 := fun e => hr (BitVec.eq_of_toNat_eq (by simpa using e))
  rw [put_g hr, Core.gGet, if_neg hz]
  exact tget_tset h

/-- The other scalar registers keep theirs. -/
theorem gGet_put_ne {k : Core} {r : BitVec 5} {x : Nat} {v : BitVec 2048} (h : twf (0 : BitVec 64) k.g = true) (hx : x ≠ r.toNat) :
    (k.put (.g r) v).gGet x = k.gGet x := by
  by_cases hr : r = 0
  · rw [hr, put_g0]
  · rw [put_g hr, Core.gGet, Core.gGet]
    split
    · rfl
    · exact tget_tset_ne h hx

/-! ### Bytes and digests -/

theorem shaBlock_length (h : List (BitVec 64)) (b : List Byte) (hl : h.length = 8) : (shaBlock h b).length = 8 := by
  simp [shaBlock, hl]

theorem sha512_length (m : List Byte) : (sha512 m).length = 64 := by
  have fold : ∀ (l : List Nat) (f : Nat → List Byte) (h : List (BitVec 64)), h.length = 8 →
      (l.foldl (fun hv i => shaBlock hv (f i)) h).length = 8 := by
    intro l f
    induction l with
    | nil => exact fun h e => e
    | cons a r ih => exact fun h e => ih _ (shaBlock_length h _ e)
  have k (l : List (BitVec 64)) : (l.flatMap fun x => beBytes 8 x.toNat).length = 8 * l.length := by
    simp [List.length_flatMap, beBytes, leBytes_length, Nat.mul_comm]
  simp [sha512, k, fold _ _ shaH0 rfl]

/-! ### Memories of the state -/

theorem memWf_sramSet {s : State} {a : Nat} {l : List Byte} (h : memWf s.plane.sram = true) :
    memWf (s.sramSet a l).plane.sram = true :=
  memWf_mwrite h

end Sys2Proof.Laws
end

