-- ==== Sys2Proof/Laws/PerInstr.lean ====
section
/-! SUPPORT. A property of every command as syntax, one lemma per constructor. -/

namespace Sys2Proof.Laws.SlotCores

open Sys2Proof

/-- A well-formed command that is a slot operation names one of the 18,432 physical cores (R11, R12). -/
def Statement (i : Instr) : Prop := ∀ c, i.wf = true → slotCore i = some c → c < 18432

/-- A core number that passes the check is in range. -/
theorem core_of_wf {c d : Nat} {b : Bool} (h : (coreIn c && b) = true) (e : some c = some d) : d < 18432 := by
  cases e
  exact of_decide_eq_true (Bool.and_eq_true_iff.mp h).1

theorem bundleIssue : ∀ x0, Statement (.bundleIssue x0) := fun _ _ _ e => nomatch e
theorem nop : ∀ x0 x1 x2, Statement (.nop x0 x1 x2) := fun _ _ _ _ h e => core_of_wf h e
theorem add : ∀ x0 x1 x2 x3 x4, Statement (.add x0 x1 x2 x3 x4) := fun _ _ _ _ _ _ h e => core_of_wf h e
theorem sub : ∀ x0 x1 x2 x3 x4, Statement (.sub x0 x1 x2 x3 x4) := fun _ _ _ _ _ _ h e => core_of_wf h e
theorem and : ∀ x0 x1 x2 x3 x4, Statement (.and x0 x1 x2 x3 x4) := fun _ _ _ _ _ _ h e => core_of_wf h e
theorem or : ∀ x0 x1 x2 x3 x4, Statement (.or x0 x1 x2 x3 x4) := fun _ _ _ _ _ _ h e => core_of_wf h e
theorem xor : ∀ x0 x1 x2 x3 x4, Statement (.xor x0 x1 x2 x3 x4) := fun _ _ _ _ _ _ h e => core_of_wf h e
theorem shl : ∀ x0 x1 x2 x3 x4, Statement (.shl x0 x1 x2 x3 x4) := fun _ _ _ _ _ _ h e => core_of_wf h e
theorem shr : ∀ x0 x1 x2 x3 x4, Statement (.shr x0 x1 x2 x3 x4) := fun _ _ _ _ _ _ h e => core_of_wf h e
theorem sra : ∀ x0 x1 x2 x3 x4, Statement (.sra x0 x1 x2 x3 x4) := fun _ _ _ _ _ _ h e => core_of_wf h e
theorem mul : ∀ x0 x1 x2 x3 x4, Statement (.mul x0 x1 x2 x3 x4) := fun _ _ _ _ _ _ h e => core_of_wf h e
theorem min : ∀ x0 x1 x2 x3 x4, Statement (.min x0 x1 x2 x3 x4) := fun _ _ _ _ _ _ h e => core_of_wf h e
theorem max : ∀ x0 x1 x2 x3 x4, Statement (.max x0 x1 x2 x3 x4) := fun _ _ _ _ _ _ h e => core_of_wf h e
theorem addi : ∀ x0 x1 x2 x3 x4, Statement (.addi x0 x1 x2 x3 x4) := fun _ _ _ _ _ _ h e => core_of_wf h e
theorem andi : ∀ x0 x1 x2 x3 x4, Statement (.andi x0 x1 x2 x3 x4) := fun _ _ _ _ _ _ h e => core_of_wf h e
theorem ori : ∀ x0 x1 x2 x3 x4, Statement (.ori x0 x1 x2 x3 x4) := fun _ _ _ _ _ _ h e => core_of_wf h e
theorem xori : ∀ x0 x1 x2 x3 x4, Statement (.xori x0 x1 x2 x3 x4) := fun _ _ _ _ _ _ h e => core_of_wf h e
theorem shli : ∀ x0 x1 x2 x3 x4, Statement (.shli x0 x1 x2 x3 x4) := fun _ _ _ _ _ _ h e => core_of_wf h e
theorem shri : ∀ x0 x1 x2 x3 x4, Statement (.shri x0 x1 x2 x3 x4) := fun _ _ _ _ _ _ h e => core_of_wf h e
theorem srai : ∀ x0 x1 x2 x3 x4, Statement (.srai x0 x1 x2 x3 x4) := fun _ _ _ _ _ _ h e => core_of_wf h e
theorem li : ∀ x0 x1 x2 x3, Statement (.li x0 x1 x2 x3) := fun _ _ _ _ _ h e => core_of_wf h e
theorem lih : ∀ x0 x1 x2 x3, Statement (.lih x0 x1 x2 x3) := fun _ _ _ _ _ h e => core_of_wf h e
theorem cmp : ∀ x0 x1 x2 x3 x4 x5 x6 x7, Statement (.cmp x0 x1 x2 x3 x4 x5 x6 x7) := fun _ _ _ _ _ _ _ _ _ h e => core_of_wf h e
theorem plog : ∀ x0 x1 x2 x3 x4 x5 x6 x7, Statement (.plog x0 x1 x2 x3 x4 x5 x6 x7) := fun _ _ _ _ _ _ _ _ _ h e => core_of_wf h e
theorem amov : ∀ x0 x1 x2 x3, Statement (.amov x0 x1 x2 x3) := fun _ _ _ _ _ h e => core_of_wf h e
theorem gmov : ∀ x0 x1 x2 x3, Statement (.gmov x0 x1 x2 x3) := fun _ _ _ _ _ h e => core_of_wf h e
theorem aadd : ∀ x0 x1 x2 x3 x4, Statement (.aadd x0 x1 x2 x3 x4) := fun _ _ _ _ _ _ h e => core_of_wf h e
theorem aaddg : ∀ x0 x1 x2 x3 x4, Statement (.aaddg x0 x1 x2 x3 x4) := fun _ _ _ _ _ _ h e => core_of_wf h e
theorem br : ∀ x0 x1 x2, Statement (.br x0 x1 x2) := fun _ _ _ _ h e => core_of_wf h e
theorem bdec : ∀ x0 x1 x2 x3, Statement (.bdec x0 x1 x2 x3) := fun _ _ _ _ _ h e => core_of_wf h e
theorem jr : ∀ x0 x1 x2, Statement (.jr x0 x1 x2) := fun _ _ _ _ h e => core_of_wf h e
theorem jal : ∀ x0 x1 x2 x3, Statement (.jal x0 x1 x2 x3) := fun _ _ _ _ _ h e => core_of_wf h e
theorem rdsh : ∀ x0 x1 x2 x3, Statement (.rdsh x0 x1 x2 x3) := fun _ _ _ _ _ h e => core_of_wf h e
theorem rdcyc : ∀ x0 x1 x2, Statement (.rdcyc x0 x1 x2) := fun _ _ _ _ h e => core_of_wf h e
theorem rdcc : ∀ x0 x1 x2 x3, Statement (.rdcc x0 x1 x2 x3) := fun _ _ _ _ _ h e => core_of_wf h e
theorem cset : ∀ x0 x1 x2 x3 x4 x5, Statement (.cset x0 x1 x2 x3 x4 x5) := fun _ _ _ _ _ _ _ h e => core_of_wf h e
theorem cadd : ∀ x0 x1 x2 x3 x4 x5, Statement (.cadd x0 x1 x2 x3 x4 x5) := fun _ _ _ _ _ _ _ h e => core_of_wf h e
theorem csub : ∀ x0 x1 x2 x3 x4 x5, Statement (.csub x0 x1 x2 x3 x4 x5) := fun _ _ _ _ _ _ _ h e => core_of_wf h e
theorem wait : ∀ x0 x1 x2 x3 x4 x5 x6, Statement (.wait x0 x1 x2 x3 x4 x5 x6) := fun _ _ _ _ _ _ _ _ h e => core_of_wf h e
theorem waitCheck : ∀ x0, Statement (.waitCheck x0) := fun _ _ _ e => nomatch e
theorem watch : ∀ x0 x1 x2 x3 x4 x5 x6, Statement (.watch x0 x1 x2 x3 x4 x5 x6) := fun _ _ _ _ _ _ _ _ h e => core_of_wf h e
theorem watchCheck : ∀ x0, Statement (.watchCheck x0) := fun _ _ _ e => nomatch e
theorem arm : ∀ x0 x1 x2 x3 x4 x5, Statement (.arm x0 x1 x2 x3 x4 x5) := fun _ _ _ _ _ _ _ h e => core_of_wf h e
theorem front : ∀ x0 x1 x2 x3 x4, Statement (.front x0 x1 x2 x3 x4) := fun _ _ _ _ _ _ h e => core_of_wf h e
theorem frontRelease : Statement .frontRelease := fun _ _ e => nomatch e
theorem frontTimeout : Statement .frontTimeout := fun _ _ e => nomatch e
theorem ld : ∀ x0 x1 x2 x3 x4 x5 x6, Statement (.ld x0 x1 x2 x3 x4 x5 x6) := fun _ _ _ _ _ _ _ _ h e => core_of_wf h e
theorem st : ∀ x0 x1 x2 x3 x4 x5, Statement (.st x0 x1 x2 x3 x4 x5) := fun _ _ _ _ _ _ _ h e => core_of_wf h e
theorem ldv : ∀ x0 x1 x2 x3 x4 x5, Statement (.ldv x0 x1 x2 x3 x4 x5) := fun _ _ _ _ _ _ _ h e => core_of_wf h e
theorem stv : ∀ x0 x1 x2 x3 x4, Statement (.stv x0 x1 x2 x3 x4) := fun _ _ _ _ _ _ h e => core_of_wf h e
theorem cget : ∀ x0 x1 x2 x3 x4 x5 x6, Statement (.cget x0 x1 x2 x3 x4 x5 x6) := fun _ _ _ _ _ _ _ _ h e => core_of_wf h e
theorem cput : ∀ x0 x1 x2 x3 x4 x5, Statement (.cput x0 x1 x2 x3 x4 x5) := fun _ _ _ _ _ _ _ h e => core_of_wf h e
theorem clusterTransferComplete : ∀ x0, Statement (.clusterTransferComplete x0) := fun _ _ _ e => nomatch e
theorem send : ∀ x0 x1 x2 x3 x4 x5 x6, Statement (.send x0 x1 x2 x3 x4 x5 x6) := fun _ _ _ _ _ _ _ _ h e => core_of_wf h e
theorem get : ∀ x0 x1 x2 x3 x4 x5 x6, Statement (.get x0 x1 x2 x3 x4 x5 x6) := fun _ _ _ _ _ _ _ _ h e => core_of_wf h e
theorem wld : ∀ x0 x1 x2 x3 x4 x5, Statement (.wld x0 x1 x2 x3 x4 x5) := fun _ _ _ _ _ _ _ h e => core_of_wf h e
theorem wdrop : ∀ x0 x1 x2, Statement (.wdrop x0 x1 x2) := fun _ _ _ _ h e => core_of_wf h e
theorem kvld : ∀ x0 x1 x2 x3 x4 x5 x6, Statement (.kvld x0 x1 x2 x3 x4 x5 x6) := fun _ _ _ _ _ _ _ _ h e => core_of_wf h e
theorem kvst : ∀ x0 x1 x2 x3 x4 x5 x6 x7, Statement (.kvst x0 x1 x2 x3 x4 x5 x6 x7) := fun _ _ _ _ _ _ _ _ _ h e => core_of_wf h e
theorem hput : ∀ x0 x1 x2 x3 x4 x5, Statement (.hput x0 x1 x2 x3 x4 x5) := fun _ _ _ _ _ _ _ h e => core_of_wf h e
theorem weightPageArrival : ∀ x0 x1 x2 x3, Statement (.weightPageArrival x0 x1 x2 x3) := fun _ _ _ _ _ _ e => nomatch e
theorem kvldComplete : ∀ x0 x1 x2, Statement (.kvldComplete x0 x1 x2) := fun _ _ _ _ _ e => nomatch e
theorem kvstComplete : ∀ x0 x1, Statement (.kvstComplete x0 x1) := fun _ _ _ _ e => nomatch e
theorem hputAccept : ∀ x0, Statement (.hputAccept x0) := fun _ _ _ e => nomatch e
theorem tld : ∀ x0 x1 x2 x3 x4 x5 x6 x7, Statement (.tld x0 x1 x2 x3 x4 x5 x6 x7) := fun _ _ _ _ _ _ _ _ _ h e => core_of_wf h e
theorem strm : ∀ x0 x1 x2 x3 x4 x5 x6 x7 x8 x9 x10 x11 x12, Statement (.strm x0 x1 x2 x3 x4 x5 x6 x7 x8 x9 x10 x11 x12) := fun _ _ _ _ _ _ _ _ _ _ _ _ _ _ h e => core_of_wf h e
theorem drn : ∀ x0 x1 x2 x3 x4 x5 x6 x7 x8, Statement (.drn x0 x1 x2 x3 x4 x5 x6 x7 x8) := fun _ _ _ _ _ _ _ _ _ _ h e => core_of_wf h e
theorem drainWrite : ∀ x0 x1, Statement (.drainWrite x0 x1) := fun _ _ _ _ e => nomatch e
theorem ainit : ∀ x0 x1 x2 x3 x4 x5 x6 x7 x8, Statement (.ainit x0 x1 x2 x3 x4 x5 x6 x7 x8) := fun _ _ _ _ _ _ _ _ _ _ h e => core_of_wf h e
theorem amode : ∀ x0 x1 x2 x3 x4 x5 x6, Statement (.amode x0 x1 x2 x3 x4 x5 x6) := fun _ _ _ _ _ _ _ _ h e => core_of_wf h e
theorem cvt : ∀ x0 x1 x2 x3 x4 x5 x6 x7 x8 x9 x10 x11, Statement (.cvt x0 x1 x2 x3 x4 x5 x6 x7 x8 x9 x10 x11) := fun _ _ _ _ _ _ _ _ _ _ _ _ _ h e => core_of_wf h e
theorem cut : ∀ x0 x1 x2 x3 x4 x5 x6 x7 x8 x9 x10 x11 x12, Statement (.cut x0 x1 x2 x3 x4 x5 x6 x7 x8 x9 x10 x11 x12) := fun _ _ _ _ _ _ _ _ _ _ _ _ _ _ h e => core_of_wf h e
theorem cout : ∀ x0 x1 x2 x3 x4 x5 x6 x7 x8, Statement (.cout x0 x1 x2 x3 x4 x5 x6 x7 x8) := fun _ _ _ _ _ _ _ _ _ _ h e => core_of_wf h e
theorem correctionOpEnd : ∀ x0, Statement (.correctionOpEnd x0) := fun _ _ _ e => nomatch e
theorem cmerge : ∀ x0 x1 x2 x3 x4 x5, Statement (.cmerge x0 x1 x2 x3 x4 x5) := fun _ _ _ _ _ _ _ h e => core_of_wf h e
theorem vadd : ∀ x0 x1 x2 x3 x4 x5, Statement (.vadd x0 x1 x2 x3 x4 x5) := fun _ _ _ _ _ _ _ h e => core_of_wf h e
theorem vsub : ∀ x0 x1 x2 x3 x4 x5, Statement (.vsub x0 x1 x2 x3 x4 x5) := fun _ _ _ _ _ _ _ h e => core_of_wf h e
theorem vmul : ∀ x0 x1 x2 x3 x4 x5, Statement (.vmul x0 x1 x2 x3 x4 x5) := fun _ _ _ _ _ _ _ h e => core_of_wf h e
theorem vfma : ∀ x0 x1 x2 x3 x4 x5 x6, Statement (.vfma x0 x1 x2 x3 x4 x5 x6) := fun _ _ _ _ _ _ _ _ h e => core_of_wf h e
theorem vmin : ∀ x0 x1 x2 x3 x4 x5, Statement (.vmin x0 x1 x2 x3 x4 x5) := fun _ _ _ _ _ _ _ h e => core_of_wf h e
theorem vmax : ∀ x0 x1 x2 x3 x4 x5, Statement (.vmax x0 x1 x2 x3 x4 x5) := fun _ _ _ _ _ _ _ h e => core_of_wf h e
theorem vcmp : ∀ x0 x1 x2 x3 x4 x5 x6, Statement (.vcmp x0 x1 x2 x3 x4 x5 x6) := fun _ _ _ _ _ _ _ _ h e => core_of_wf h e
theorem vsel : ∀ x0 x1 x2 x3 x4 x5 x6, Statement (.vsel x0 x1 x2 x3 x4 x5 x6) := fun _ _ _ _ _ _ _ _ h e => core_of_wf h e
theorem vexp : ∀ x0 x1 x2 x3 x4, Statement (.vexp x0 x1 x2 x3 x4) := fun _ _ _ _ _ _ h e => core_of_wf h e
theorem vlog : ∀ x0 x1 x2 x3 x4, Statement (.vlog x0 x1 x2 x3 x4) := fun _ _ _ _ _ _ h e => core_of_wf h e
theorem vrcp : ∀ x0 x1 x2 x3 x4, Statement (.vrcp x0 x1 x2 x3 x4) := fun _ _ _ _ _ _ h e => core_of_wf h e
theorem vrsq : ∀ x0 x1 x2 x3 x4, Statement (.vrsq x0 x1 x2 x3 x4) := fun _ _ _ _ _ _ h e => core_of_wf h e
theorem vrsum : ∀ x0 x1 x2 x3 x4, Statement (.vrsum x0 x1 x2 x3 x4) := fun _ _ _ _ _ _ h e => core_of_wf h e
theorem vrmax : ∀ x0 x1 x2 x3 x4, Statement (.vrmax x0 x1 x2 x3 x4) := fun _ _ _ _ _ _ h e => core_of_wf h e
theorem vrmin : ∀ x0 x1 x2 x3 x4, Statement (.vrmin x0 x1 x2 x3 x4) := fun _ _ _ _ _ _ h e => core_of_wf h e
theorem vcvt : ∀ x0 x1 x2 x3 x4 x5 x6, Statement (.vcvt x0 x1 x2 x3 x4 x5 x6) := fun _ _ _ _ _ _ _ _ h e => core_of_wf h e
theorem vquant : ∀ x0 x1 x2 x3 x4 x5 x6, Statement (.vquant x0 x1 x2 x3 x4 x5 x6) := fun _ _ _ _ _ _ _ _ h e => core_of_wf h e
theorem vdeq : ∀ x0 x1 x2 x3 x4 x5 x6, Statement (.vdeq x0 x1 x2 x3 x4 x5 x6) := fun _ _ _ _ _ _ _ _ h e => core_of_wf h e
theorem vwadd : ∀ x0 x1 x2 x3 x4 x5, Statement (.vwadd x0 x1 x2 x3 x4 x5) := fun _ _ _ _ _ _ _ h e => core_of_wf h e
theorem vwrnd : ∀ x0 x1 x2 x3 x4, Statement (.vwrnd x0 x1 x2 x3 x4) := fun _ _ _ _ _ _ h e => core_of_wf h e
theorem vpop : ∀ x0 x1 x2 x3 x4, Statement (.vpop x0 x1 x2 x3 x4) := fun _ _ _ _ _ _ h e => core_of_wf h e
theorem vext : ∀ x0 x1 x2 x3 x4 x5, Statement (.vext x0 x1 x2 x3 x4 x5) := fun _ _ _ _ _ _ _ h e => core_of_wf h e
theorem vsplat : ∀ x0 x1 x2 x3 x4, Statement (.vsplat x0 x1 x2 x3 x4) := fun _ _ _ _ _ _ h e => core_of_wf h e
theorem vtopm : ∀ x0 x1 x2 x3 x4 x5, Statement (.vtopm x0 x1 x2 x3 x4 x5) := fun _ _ _ _ _ _ _ h e => core_of_wf h e
theorem routerHop : ∀ x0, Statement (.routerHop x0) := fun _ _ _ e => nomatch e
theorem gatewayLookup : ∀ x0, Statement (.gatewayLookup x0) := fun _ _ _ e => nomatch e
theorem reduceCombine : ∀ x0 x1, Statement (.reduceCombine x0 x1) := fun _ _ _ _ e => nomatch e
theorem packetDelivery : ∀ x0, Statement (.packetDelivery x0) := fun _ _ _ e => nomatch e
theorem getReply : ∀ x0, Statement (.getReply x0) := fun _ _ _ e => nomatch e
theorem squallStop : Statement .squallStop := fun _ _ e => nomatch e
theorem transitFault : ∀ x0, Statement (.transitFault x0) := fun _ _ _ e => nomatch e
theorem loadStart : Statement .loadStart := fun _ _ e => nomatch e
theorem loadAbort : Statement .loadAbort := fun _ _ e => nomatch e
theorem loadPass1 : ∀ x0, Statement (.loadPass1 x0) := fun _ _ _ e => nomatch e
theorem loadVerify : Statement .loadVerify := fun _ _ e => nomatch e
theorem loadCheck : Statement .loadCheck := fun _ _ e => nomatch e
theorem loadMap : ∀ x0, Statement (.loadMap x0) := fun _ _ _ e => nomatch e
theorem loadPass2 : ∀ x0 x1, Statement (.loadPass2 x0 x1) := fun _ _ _ _ e => nomatch e
theorem clusterDigestCheck : ∀ x0, Statement (.clusterDigestCheck x0) := fun _ _ _ e => nomatch e
theorem resendRound : ∀ x0 x1, Statement (.resendRound x0 x1) := fun _ _ _ _ e => nomatch e
theorem loadCopy : Statement .loadCopy := fun _ _ e => nomatch e
theorem install : ∀ x0, Statement (.install x0) := fun _ _ _ e => nomatch e
theorem wstResume : ∀ x0, Statement (.wstResume x0) := fun _ _ _ e => nomatch e
theorem wstAbort : Statement .wstAbort := fun _ _ e => nomatch e
theorem eraseSlot : Statement .eraseSlot := fun _ _ e => nomatch e
theorem reProvision : Statement .reProvision := fun _ _ e => nomatch e
theorem substitute : Statement .substitute := fun _ _ e => nomatch e
theorem wstReservedCmd : ∀ x0, Statement (.wstReservedCmd x0) := fun _ _ _ e => nomatch e
theorem sliceFetchComplete : ∀ x0 x1, Statement (.sliceFetchComplete x0 x1) := fun _ _ _ _ e => nomatch e
theorem shardFetchTimeout : ∀ x0, Statement (.shardFetchTimeout x0) := fun _ _ _ e => nomatch e
theorem slotEraseComplete : ∀ x0, Statement (.slotEraseComplete x0) := fun _ _ _ e => nomatch e
theorem remapApply : Statement .remapApply := fun _ _ e => nomatch e
theorem weightScrub : ∀ x0 x1 x2 x3, Statement (.weightScrub x0 x1 x2 x3) := fun _ _ _ _ _ _ e => nomatch e
theorem fieldSubstitutionStart : Statement .fieldSubstitutionStart := fun _ _ e => nomatch e
theorem substitutionCopyEnd : ∀ x0 x1, Statement (.substitutionCopyEnd x0 x1) := fun _ _ _ _ e => nomatch e
theorem kvApply : Statement .kvApply := fun _ _ e => nomatch e
theorem kvPatrolScrub : ∀ x0 x1, Statement (.kvPatrolScrub x0 x1) := fun _ _ _ _ e => nomatch e
theorem arrivalTick : Statement .arrivalTick := fun _ _ e => nomatch e
theorem gaugeTick : Statement .gaugeTick := fun _ _ e => nomatch e
theorem stepBoundary : Statement .stepBoundary := fun _ _ e => nomatch e
theorem submissionDoorbell : ∀ x0 x1 x2 x3, Statement (.submissionDoorbell x0 x1 x2 x3) := fun _ _ _ _ _ _ e => nomatch e
theorem startReq : ∀ x0 x1, Statement (.startReq x0 x1) := fun _ _ _ _ e => nomatch e
theorem continueReq : ∀ x0 x1, Statement (.continueReq x0 x1) := fun _ _ _ _ e => nomatch e
theorem pauseReq : ∀ x0 x1, Statement (.pauseReq x0 x1) := fun _ _ _ _ e => nomatch e
theorem resumeReq : ∀ x0 x1, Statement (.resumeReq x0 x1) := fun _ _ _ _ e => nomatch e
theorem cancelReq : ∀ x0 x1, Statement (.cancelReq x0 x1) := fun _ _ _ _ e => nomatch e
theorem adapterUpload : ∀ x0 x1, Statement (.adapterUpload x0 x1) := fun _ _ _ _ e => nomatch e
theorem adapterRelease : ∀ x0 x1, Statement (.adapterRelease x0 x1) := fun _ _ _ _ e => nomatch e
theorem adapterLoadComplete : ∀ x0 x1, Statement (.adapterLoadComplete x0 x1) := fun _ _ _ _ e => nomatch e
theorem parkAll : Statement .parkAll := fun _ _ e => nomatch e
theorem parkComplete : ∀ x0 x1, Statement (.parkComplete x0 x1) := fun _ _ _ _ e => nomatch e
theorem parkRetry : ∀ x0, Statement (.parkRetry x0) := fun _ _ _ e => nomatch e
theorem restoreComplete : ∀ x0 x1, Statement (.restoreComplete x0 x1) := fun _ _ _ _ e => nomatch e
theorem snowpackOpTimeout : ∀ x0, Statement (.snowpackOpTimeout x0) := fun _ _ _ e => nomatch e
theorem snowpackExpiry : ∀ x0, Statement (.snowpackExpiry x0) := fun _ _ _ e => nomatch e
theorem ringConfigWrite : ∀ x0 x1 x2, Statement (.ringConfigWrite x0 x1 x2) := fun _ _ _ _ _ e => nomatch e
theorem hostIndexWrite : ∀ x0 x1 x2, Statement (.hostIndexWrite x0 x1 x2) := fun _ _ _ _ _ e => nomatch e
theorem interruptModeration : ∀ x0 x1, Statement (.interruptModeration x0 x1) := fun _ _ _ _ e => nomatch e
theorem functionLevelReset : ∀ x0, Statement (.functionLevelReset x0) := fun _ _ _ e => nomatch e
theorem drainComplete : ∀ x0, Statement (.drainComplete x0) := fun _ _ _ e => nomatch e
theorem vfEnable : ∀ x0, Statement (.vfEnable x0) := fun _ _ _ e => nomatch e
theorem function0Reset : Statement .function0Reset := fun _ _ e => nomatch e
theorem cxlLinkDown : ∀ x0, Statement (.cxlLinkDown x0) := fun _ _ _ e => nomatch e
theorem cxlLinkUp : Statement .cxlLinkUp := fun _ _ e => nomatch e
theorem cxlCompletionTimeout : ∀ x0 x1 x2 x3, Statement (.cxlCompletionTimeout x0 x1 x2 x3) := fun _ _ _ _ _ _ e => nomatch e
theorem hdmAccess : ∀ x0 x1 x2 x3, Statement (.hdmAccess x0 x1 x2 x3) := fun _ _ _ _ _ _ e => nomatch e
theorem identify : Statement .identify := fun _ _ e => nomatch e
theorem getTimestamp : Statement .getTimestamp := fun _ _ e => nomatch e
theorem setTimestamp : ∀ x0, Statement (.setTimestamp x0) := fun _ _ _ e => nomatch e
theorem getSupportedLogs : Statement .getSupportedLogs := fun _ _ e => nomatch e
theorem getLog : ∀ x0 x1 x2, Statement (.getLog x0 x1 x2) := fun _ _ _ _ _ e => nomatch e
theorem identifyMemoryDevice : Statement .identifyMemoryDevice := fun _ _ e => nomatch e
theorem setQp : ∀ x0 x1, Statement (.setQp x0 x1) := fun _ _ _ _ e => nomatch e
theorem getQp : ∀ x0, Statement (.getQp x0) := fun _ _ _ e => nomatch e
theorem setPortAddresses : ∀ x0, Statement (.setPortAddresses x0) := fun _ _ _ e => nomatch e
theorem unsupportedOpcode : ∀ x0, Statement (.unsupportedOpcode x0) := fun _ _ _ e => nomatch e
theorem getIdentity : Statement .getIdentity := fun _ _ e => nomatch e
theorem getNonce : Statement .getNonce := fun _ _ e => nomatch e
theorem getAttestationReport : ∀ x0, Statement (.getAttestationReport x0) := fun _ _ _ e => nomatch e
theorem enrolOwner : ∀ x0, Statement (.enrolOwner x0) := fun _ _ _ e => nomatch e
theorem replaceOwnerKeys : ∀ x0, Statement (.replaceOwnerKeys x0) := fun _ _ _ e => nomatch e
theorem clearOwnership : ∀ x0, Statement (.clearOwnership x0) := fun _ _ _ e => nomatch e
theorem rotateTenantKey : ∀ x0, Statement (.rotateTenantKey x0) := fun _ _ _ e => nomatch e
theorem getTenantKeyEpoch : ∀ x0, Statement (.getTenantKeyEpoch x0) := fun _ _ _ e => nomatch e
theorem hostPush : ∀ x0 x1, Statement (.hostPush x0 x1) := fun _ _ _ _ e => nomatch e
theorem rdmaWriteArrival : ∀ x0 x1 x2 x3, Statement (.rdmaWriteArrival x0 x1 x2 x3) := fun _ _ _ _ _ _ e => nomatch e
theorem sendArrival : ∀ x0 x1, Statement (.sendArrival x0 x1) := fun _ _ _ _ e => nomatch e
theorem rdmaReadRequest : ∀ x0 x1 x2 x3, Statement (.rdmaReadRequest x0 x1 x2 x3) := fun _ _ _ _ _ _ e => nomatch e
theorem ackTimeout : ∀ x0, Statement (.ackTimeout x0) := fun _ _ _ e => nomatch e
theorem rateInterval : Statement .rateInterval := fun _ _ e => nomatch e
theorem fabricPortDown : ∀ x0 x1, Statement (.fabricPortDown x0 x1) := fun _ _ _ _ e => nomatch e
theorem fabricPortUp : ∀ x0, Statement (.fabricPortUp x0) := fun _ _ _ e => nomatch e
theorem portEnable : ∀ x0 x1, Statement (.portEnable x0 x1) := fun _ _ _ _ e => nomatch e
theorem isobarJoin : ∀ x0, Statement (.isobarJoin x0) := fun _ _ _ e => nomatch e
theorem isobarFrameReceive : ∀ x0, Statement (.isobarFrameReceive x0) := fun _ _ _ e => nomatch e
theorem isobarTimeFrame : Statement .isobarTimeFrame := fun _ _ e => nomatch e
theorem isobarBudgetFrame : Statement .isobarBudgetFrame := fun _ _ e => nomatch e
theorem isobarShareCompute : Statement .isobarShareCompute := fun _ _ e => nomatch e
theorem isobarAlarm : ∀ x0 x1, Statement (.isobarAlarm x0 x1) := fun _ _ _ _ e => nomatch e
theorem isobarBreakTimeout : Statement .isobarBreakTimeout := fun _ _ e => nomatch e
theorem isobarMasterLost : Statement .isobarMasterLost := fun _ _ e => nomatch e
theorem smbIdentity : Statement .smbIdentity := fun _ _ e => nomatch e
theorem smbState : Statement .smbState := fun _ _ e => nomatch e
theorem smbFaultSummary : Statement .smbFaultSummary := fun _ _ e => nomatch e
theorem smbDieTemperature : ∀ x0, Statement (.smbDieTemperature x0) := fun _ _ _ e => nomatch e
theorem smbCoolantTemperature : ∀ x0, Statement (.smbCoolantTemperature x0) := fun _ _ _ e => nomatch e
theorem smbFlow : Statement .smbFlow := fun _ _ e => nomatch e
theorem smbPower : ∀ x0, Statement (.smbPower x0) := fun _ _ _ e => nomatch e
theorem smbRackBudget : ∀ x0, Statement (.smbRackBudget x0) := fun _ _ _ e => nomatch e
theorem smbIdentifyPattern : ∀ x0, Statement (.smbIdentifyPattern x0) := fun _ _ _ e => nomatch e
theorem bypass : Statement .bypass := fun _ _ e => nomatch e
theorem idcode : Statement .idcode := fun _ _ e => nomatch e
theorem samplePreload : ∀ x0, Statement (.samplePreload x0) := fun _ _ _ e => nomatch e
theorem extest : Statement .extest := fun _ _ e => nomatch e
theorem clamp : Statement .clamp := fun _ _ e => nomatch e
theorem highz : Statement .highz := fun _ _ e => nomatch e
theorem extestPulse : Statement .extestPulse := fun _ _ e => nomatch e
theorem extestTrain : Statement .extestTrain := fun _ _ e => nomatch e
theorem avsSetpointAdjust : Statement .avsSetpointAdjust := fun _ _ e => nomatch e
theorem virUndervoltage : ∀ x0, Statement (.virUndervoltage x0) := fun _ _ _ e => nomatch e
theorem virOkRestored : Statement .virOkRestored := fun _ _ e => nomatch e
theorem clockStepChange : Statement .clockStepChange := fun _ _ e => nomatch e
theorem stateTargetWrite : ∀ x0, Statement (.stateTargetWrite x0) := fun _ _ _ e => nomatch e
theorem stateTransition : Statement .stateTransition := fun _ _ e => nomatch e
theorem idleDescent : Statement .idleDescent := fun _ _ e => nomatch e
theorem forcedChange : ∀ x0, Statement (.forcedChange x0) := fun _ _ _ e => nomatch e
theorem regulatorTileTrip : ∀ x0 x1 x2 x3 x4, Statement (.regulatorTileTrip x0 x1 x2 x3 x4) := fun _ _ _ _ _ _ _ e => nomatch e
theorem vtransitFeedTrip : ∀ x0 x1 x2, Statement (.vtransitFeedTrip x0 x1 x2) := fun _ _ _ _ _ e => nomatch e
theorem thermalSample : ∀ x0, Statement (.thermalSample x0) := fun _ _ _ e => nomatch e
theorem powerCapUpdate : ∀ x0, Statement (.powerCapUpdate x0) := fun _ _ _ e => nomatch e
theorem clockStepControl : ∀ x0, Statement (.clockStepControl x0) := fun _ _ _ e => nomatch e
theorem capBelowStep6 : Statement .capBelowStep6 := fun _ _ e => nomatch e
theorem coolantStop : Statement .coolantStop := fun _ _ e => nomatch e
theorem coolantRestored : Statement .coolantRestored := fun _ _ e => nomatch e
theorem dewPointCheck : Statement .dewPointCheck := fun _ _ e => nomatch e
theorem sensorRecal : Statement .sensorRecal := fun _ _ e => nomatch e
theorem vsbApply : ∀ x0 x1, Statement (.vsbApply x0 x1) := fun _ _ _ _ e => nomatch e
theorem perstAssert : Statement .perstAssert := fun _ _ e => nomatch e
theorem perstRelease : Statement .perstRelease := fun _ _ e => nomatch e
theorem bringupPhaseComplete : ∀ x0, Statement (.bringupPhaseComplete x0) := fun _ _ _ e => nomatch e
theorem coolantConditionMet : Statement .coolantConditionMet := fun _ _ e => nomatch e
theorem virOkTimeout : Statement .virOkTimeout := fun _ _ e => nomatch e
theorem postSquallTest : ∀ x0 x1, Statement (.postSquallTest x0 x1) := fun _ _ _ _ e => nomatch e
theorem attnPress : Statement .attnPress := fun _ _ e => nomatch e
theorem attnHold : Statement .attnHold := fun _ _ e => nomatch e
theorem presenceExpiry : Statement .presenceExpiry := fun _ _ e => nomatch e
theorem removePress : Statement .removePress := fun _ _ e => nomatch e
theorem removalParkTimeout : Statement .removalParkTimeout := fun _ _ e => nomatch e
theorem removalCancel : Statement .removalCancel := fun _ _ e => nomatch e
theorem touchDetect : ∀ x0 x1, Statement (.touchDetect x0 x1) := fun _ _ _ _ e => nomatch e
theorem presenceChange : ∀ x0 x1, Statement (.presenceChange x0 x1) := fun _ _ _ _ e => nomatch e
theorem calIsoChange : ∀ x0, Statement (.calIsoChange x0) := fun _ _ _ e => nomatch e
theorem adcSample : ∀ x0 x1, Statement (.adcSample x0 x1) := fun _ _ _ _ e => nomatch e
theorem feTempRead : ∀ x0, Statement (.feTempRead x0) := fun _ _ _ e => nomatch e
theorem driftCalibration : ∀ x0 x1 x2 x3, Statement (.driftCalibration x0 x1 x2 x3) := fun _ _ _ _ _ _ e => nomatch e
theorem driftRetry : ∀ x0, Statement (.driftRetry x0) := fun _ _ _ e => nomatch e
theorem driftAll : Statement .driftAll := fun _ _ e => nomatch e
theorem adcFeWrite : ∀ x0 x1, Statement (.adcFeWrite x0 x1) := fun _ _ _ _ e => nomatch e
theorem syscalPoint0 : ∀ x0, Statement (.syscalPoint0 x0) := fun _ _ _ e => nomatch e
theorem syscalPoint1 : ∀ x0, Statement (.syscalPoint1 x0) := fun _ _ _ e => nomatch e
theorem lowerHalfRead : ∀ x0 x1, Statement (.lowerHalfRead x0 x1) := fun _ _ _ _ e => nomatch e
theorem registerWrite : ∀ x0 x1 x2 x3, Statement (.registerWrite x0 x1 x2 x3) := fun _ _ _ _ _ _ e => nomatch e
theorem vsbLoss : Statement .vsbLoss := fun _ _ e => nomatch e
theorem spdmRequest : ∀ x0 x1, Statement (.spdmRequest x0 x1) := fun _ _ _ _ e => nomatch e
theorem arpRequest : ∀ x0 x1, Statement (.arpRequest x0 x1) := fun _ _ _ _ e => nomatch e
theorem cnpReceived : ∀ x0, Statement (.cnpReceived x0) := fun _ _ _ e => nomatch e
theorem barographVoteDisagreement : Statement .barographVoteDisagreement := fun _ _ e => nomatch e
theorem upperHalfRead : ∀ x0 x1, Statement (.upperHalfRead x0 x1) := fun _ _ _ _ e => nomatch e
theorem virOkAsserted : Statement .virOkAsserted := fun _ _ e => nomatch e

end Sys2Proof.Laws.SlotCores
end

