-- ==== Sys2Proof/Laws/Ports.lean ====
section
/-! SUPPORT. What an access of a shared port can do: one group a cycle on port B, one access a cycle on a bank, and what the
small updates of the packets and transfers in flight leave alone. -/

namespace Sys2Proof.Laws

open Sys2Proof Sys2Proof.Machine

/-- Port B serves a group just when it has served none in the cycle, and then it is taken. -/
theorem useB_cases {u v : PortUse} {c : Nat} (h : useB u c = some v) :
    u.cores.contains c = false ∧ v = { u with cores := c :: u.cores } := by
  unfold useB at h
  split at h
  · cases h
  · rename_i n
    exact ⟨Bool.eq_false_iff.mpr n, by simpa using h.symm⟩

/-- A port that has served a group serves no other in the cycle (R90). -/
theorem useB_once {u v : PortUse} {c : Nat} (h : useB u c = some v) : useB v c = none := by
  obtain ⟨-, rfl⟩ := useB_cases h
  simp [useB]

/-- The other cores' ports are untouched by it. -/
theorem useB_others {u v : PortUse} {c d : Nat} (h : useB u c = some v) (n : d ≠ c) : (useB v d).isSome = (useB u d).isSome := by
  obtain ⟨-, rfl⟩ := useB_cases h
  simp only [useB, List.contains_cons, beq_eq_false_iff_ne.mpr n, Bool.false_or]
  split <;> rfl

/-- A cluster memory serves an access just when none of its banks is in use, and then they are in use. -/
theorem useCm_cases {u v : PortUse} {pcl off n : Nat} (h : useCm u pcl off n = some v) :
    meets u.banks (cmBanks pcl off n) = false ∧ v = { u with banks := u.banks ++ cmBanks pcl off n } := by
  unfold useCm at h
  dsimp only at h
  split at h
  · cases h
  · rename_i m
    exact ⟨Bool.eq_false_iff.mpr m, by simpa using h.symm⟩

@[simp] theorem setPay_cores (s : State) (y : Payload) : (setPay s y).plane.cores = s.plane.cores := rfl
@[simp] theorem setPay_sram (s : State) (y : Payload) : (setPay s y).plane.sram = s.plane.sram := rfl
@[simp] theorem setPay_packets (s : State) (y : Payload) : (setPay s y).plane.packets = s.plane.packets := rfl
@[simp] theorem setXfer_cores (s : State) (x : Xfer) : (setXfer s x).plane.cores = s.plane.cores := rfl
@[simp] theorem setXfer_sram (s : State) (x : Xfer) : (setXfer s x).plane.sram = s.plane.sram := rfl
@[simp] theorem dropXfer_cores (s : State) (id : Nat) : (dropXfer s id).plane.cores = s.plane.cores := rfl
@[simp] theorem dropXfer_sram (s : State) (id : Nat) : (dropXfer s id).plane.sram = s.plane.sram := rfl

/-- A refused read changes neither a core nor a byte. -/
theorem delayPay_frame (s : State) (y : Payload) :
    (delayPay s y).plane.cores = s.plane.cores ∧ (delayPay s y).plane.sram = s.plane.sram := by
  unfold delayPay
  dsimp only
  split <;> exact ⟨rfl, rfl⟩

end Sys2Proof.Laws
end

