-- ==== Sys2Proof/Laws/Units.lean ====
section
/-! SUPPORT. Reads after writes of the tables of slots, ports, pairs and channels, and what writing an event or a token
can change. -/

namespace Sys2Proof.Laws

open Sys2Proof Sys2Proof.Machine

/-! ### Tables of units -/

theorem slot_setSlot {s : State} {n : Nat} {q : Seq} (h : twf ({} : Seq) s.hub.slots = true) : (s.setSlot n q).slot n = q :=
  tget_tset h
theorem slot_setSlot_ne {s : State} {n m : Nat} {q : Seq} (h : twf ({} : Seq) s.hub.slots = true) (hm : m ≠ n) :
    (s.setSlot n q).slot m = s.slot m := tget_tset_ne h hm

theorem adp_setAdp {s : State} {n : Nat} {q : Adp} (h : twf ({} : Adp) s.hub.adps = true) : (s.setAdp n q).adp n = q :=
  tget_tset h
theorem adp_setAdp_ne {s : State} {n m : Nat} {q : Adp} (h : twf ({} : Adp) s.hub.adps = true) (hm : m ≠ n) :
    (s.setAdp n q).adp m = s.adp m := tget_tset_ne h hm

theorem wslot_setWslot {s : State} {n : Nat} {q : WSlot} (h : twf ({} : WSlot) s.wst.slots = true) : (s.setWslot n q).wslot n = q :=
  tget_tset h
theorem wslot_setWslot_ne {s : State} {n m : Nat} {q : WSlot} (h : twf ({} : WSlot) s.wst.slots = true) (hm : m ≠ n) :
    (s.setWslot n q).wslot m = s.wslot m := tget_tset_ne h hm

theorem qp_setQp {s : State} {n : Nat} {q : Qp} (h : twf ({} : Qp) s.host.qps = true) : (s.setQp n q).qp n = q :=
  tget_tset h
theorem qp_setQp_ne {s : State} {n m : Nat} {q : Qp} (h : twf ({} : Qp) s.host.qps = true) (hm : m ≠ n) :
    (s.setQp n q).qp m = s.qp m := tget_tset_ne h hm

theorem port_setPort {s : State} {n : Nat} {q : FPort} (h : twf ({} : FPort) s.host.ports = true) : (s.setPort n q).port n = q :=
  tget_tset h
theorem port_setPort_ne {s : State} {n m : Nat} {q : FPort} (h : twf ({} : FPort) s.host.ports = true) (hm : m ≠ n) :
    (s.setPort n q).port m = s.port m := tget_tset_ne h hm

theorem pair_setPair {s : State} {n : Nat} {q : Pair} (h : twf ({} : Pair) s.thm.pairs = true) : (s.setPair n q).pair n = q :=
  tget_tset h
theorem pair_setPair_ne {s : State} {n m : Nat} {q : Pair} (h : twf ({} : Pair) s.thm.pairs = true) (hm : m ≠ n) :
    (s.setPair n q).pair m = s.pair m := tget_tset_ne h hm

theorem chan_setChan {s : State} {n : Nat} {q : AdcCh} (h : twf ({} : AdcCh) s.adc.ch = true) : (s.setChan n q).chan n = q :=
  tget_tset h
theorem chan_setChan_ne {s : State} {n m : Nat} {q : AdcCh} (h : twf ({} : AdcCh) s.adc.ch = true) (hm : m ≠ n) :
    (s.setChan n q).chan m = s.chan m := tget_tset_ne h hm

/-! ### Events and tokens (R319, R320, R355, R357) -/

/-- An owner event changes the owner ring's index, the events that wait for it, their drop count, and the output. -/
theorem ownerEvent_frame (s : State) (c r v : Nat) (g : BitVec 64) :
    ownerEvent s c r v g = { s with
      host := { s.host with
        evq := (ownerEvent s c r v g).host.evq, eqE := (ownerEvent s c r v g).host.eqE
        evdrop := (ownerEvent s c r v g).host.evdrop }
      out := (ownerEvent s c r v g).out } := by
  simp only [ownerEvent]
  split
  · rfl
  · split <;> rfl

theorem raiseEvt_frame (s : State) (t : Nat) :
    raiseEvt s t = { s with tenants := (raiseEvt s t).tenants, out := (raiseEvt s t).out } := by
  unfold raiseEvt; split <;> rfl

theorem raiseTok_frame (s : State) (t : Nat) :
    raiseTok s t = { s with tenants := (raiseTok s t).tenants, out := (raiseTok s t).out } := by
  unfold raiseTok; split <;> rfl

theorem writeBack_frame (s : State) (t : Nat) : writeBack s t = { s with out := (writeBack s t).out } := by
  simp only [writeBack]; split <;> rfl

/-- Writing an event changes only the tenant blocks and the output. -/
theorem putEvent_frame (s : State) (t : Nat) (e : Event) :
    putEvent s t e = { s with tenants := (putEvent s t e).tenants, out := (putEvent s t e).out } := by
  simp only [putEvent]
  rw [raiseEvt_frame, writeBack_frame]
  rfl

/-- An event to a tenant changes only the tenant blocks, the events that wait for its ring, their drop count, and the output. -/
theorem sendEvent_frame (s : State) (t : Nat) (e : Event) :
    sendEvent s t e = { s with
      tenants := (sendEvent s t e).tenants
      hub := { s.hub with evq := (sendEvent s t e).hub.evq, dropEv := (sendEvent s t e).hub.dropEv }
      out := (sendEvent s t e).out } := by
  simp only [sendEvent]
  split
  · rfl
  · split
    · rw [putEvent_frame]
    · split <;> rfl

/-- A token changes only the tenant blocks and the output. -/
theorem sendToken_frame (s : State) (t : Nat) (d : List Byte) :
    sendToken s t d = { s with tenants := (sendToken s t d).tenants, out := (sendToken s t d).out } := by
  simp only [sendToken]
  split
  · rfl
  · rw [raiseTok_frame, writeBack_frame]
    rfl

@[simp] theorem sendEvent_plane (s : State) (t : Nat) (e : Event) : (sendEvent s t e).plane = s.plane := by rw [sendEvent_frame]
@[simp] theorem sendEvent_slots (s : State) (t : Nat) (e : Event) : (sendEvent s t e).hub.slots = s.hub.slots := by
  rw [sendEvent_frame]
@[simp] theorem sendToken_plane (s : State) (t : Nat) (d : List Byte) : (sendToken s t d).plane = s.plane := by
  rw [sendToken_frame]
@[simp] theorem ownerEvent_plane (s : State) (c r v : Nat) (g : BitVec 64) : (ownerEvent s c r v g).plane = s.plane := by
  rw [ownerEvent_frame]
@[simp] theorem ownerEvent_hub (s : State) (c r v : Nat) (g : BitVec 64) : (ownerEvent s c r v g).hub = s.hub := by
  rw [ownerEvent_frame]

end Sys2Proof.Laws
end

