-- ==== Sys2Proof/Tests/Slice0.lean ====
section
/-! SUPPORT. Tests: ill-formed terms, states that meet the hypotheses of the statements, and single steps against the spec. -/

namespace Sys2Proof.Tests

open Sys2Proof Sys2Proof.Machine Sys2Proof.Safety

set_option maxRecDepth 20000
set_option Elab.async false

/-! ### Small states -/

/-- The program of the small states: 64 KiB of code, 28 cores and 46 fields. -/
def prog0 : Prog := { codeSize := 1, kCores := 28, fFields := 46 }

/-- A part in Run with a program running in cycle 100 and one core. -/
def base0 : State :=
  { State.reset with
    plane := { cycle := 100, clockOn := true, progRun := true }
    ldr := { state := 8, prog := some prog0 }
    pwr := { state := 5, off := false, virEn := true, virOk := true }
    bg := { ready := true, vsb := true, perst := false } }

def core0 : Core := { role := some 0, issue := .run, pc := 0x170020, g := [(1, 5), (2, 0xFFFFFFFFFFFFFFFF), (3, 64)] }

/-- base0 with core 0 as given. -/
def onCore (k : Core) : State := { base0 with plane := { base0.plane with cores := [(0, k)] } }

/-! ### Well-formedness: an ill-formed term for each check -/

theorem test_wf_core_exists :
    (Instr.bundleIssue 18431).wf = true ∧ (Instr.bundleIssue 18432).wf = false ∧ (Instr.add 18432 {} 1 1 1).wf = false ∧
    (Instr.waitCheck 18432).wf = false ∧ (Instr.drainWrite 18432 0).wf = false ∧ (Instr.correctionOpEnd 18432).wf = false := by
  decide

theorem test_wf_nop_has_no_guard : (Instr.nop 0 .S {}).wf = true ∧ (Instr.nop 0 .S { gp := 1 }).wf = false := by decide

theorem test_wf_immediate_shifts :
    (Instr.shli 0 {} 1 1 63).wf = true ∧ (Instr.shli 0 {} 1 1 64).wf = false ∧ (Instr.shri 0 {} 1 1 64).wf = false ∧
    (Instr.srai 0 {} 1 1 0xFFFFFFFF).wf = false := by decide

theorem test_wf_predicates :
    (Instr.cmp 0 {} 1 5 1 2 false 0).wf = true ∧ (Instr.cmp 0 {} 1 6 1 2 false 0).wf = false ∧
    (Instr.cmp 0 {} 1 0 1 2 false 9).wf = false ∧ (Instr.cmp 0 {} 1 0 1 2 true 9).wf = false ∧
    (Instr.plog 0 {} 1 1 false 2 false 3).wf = false := by decide

theorem test_wf_address_and_shape_registers :
    (Instr.amov 0 {} 15 31).wf = true ∧ (Instr.amov 0 {} 16 31).wf = false ∧ (Instr.gmov 0 {} 31 16).wf = false ∧
    (Instr.aadd 0 {} 0 16 0).wf = false ∧ (Instr.aaddg 0 {} 16 0 0).wf = false ∧ (Instr.rdsh 0 {} 1 16).wf = false := by decide

theorem test_wf_counts_and_fronts :
    (Instr.cset 0 {} 1 0 false 5).wf = true ∧ (Instr.cset 0 {} 1 2 false 5).wf = false ∧ (Instr.cadd 0 {} 1 2 true 5).wf = false ∧
    (Instr.csub 0 {} 1 2 false 0).wf = false ∧ (Instr.wait 0 {} 1 2 false 0 5).wf = false ∧
    (Instr.watch 0 {} 1 2 true 0 5).wf = false ∧ (Instr.arm 0 {} 1 2 true 5).wf = false ∧
    (Instr.front 0 {} 1 0 false).wf = false := by decide

theorem test_wf_turned_tiles :
    (Instr.ldv 0 {} 0 30 3 0).wf = true ∧ (Instr.ldv 0 {} 0 31 3 0).wf = false ∧ (Instr.ldv 0 {} 0 0 5 0).wf = false ∧
    (Instr.cget 0 {} 0 1 0 7 2).wf = true ∧ (Instr.cget 0 {} 0 1 0 6 2).wf = false ∧ (Instr.cget 0 {} 0 1 0 0 5).wf = false := by
  decide

theorem test_wf_transfers :
    (Instr.send 0 {} 0 3 0 0 false).wf = false ∧ (Instr.send 0 {} 0 2 0 5 false).wf = false ∧
    (Instr.get 0 {} 2 3 0 0 false).wf = false ∧ (Instr.kvld 0 {} 3 1 0 0 0).wf = false ∧
    (Instr.kvst 0 {} 3 1 0 0 0 0).wf = false ∧ (Instr.kvst 0 {} 0 1 0 0 0 3).wf = false ∧
    (Instr.hput 0 {} 0 2 0 0).wf = false := by decide

theorem test_wf_array_operations :
    (Instr.tld 0 {} 1 false true false 0 0).wf = true ∧ (Instr.tld 0 {} 0 false true false 0 0).wf = false ∧
    (Instr.tld 0 {} 1 false true false 1 0).wf = false ∧ (Instr.tld 0 {} 1 false false true 0 2).wf = false ∧
    (Instr.tld 0 {} 7 false false true 0 3).wf = false ∧ (Instr.tld 0 {} 15 false true true 0 4).wf = false ∧
    (Instr.strm 0 {} 1 3 true 0 0 1 1 0 0 0 0).wf = false ∧ (Instr.strm 0 {} 1 0 true 31 1 1 1 0 0 0 0).wf = false ∧
    (Instr.strm 0 {} 1 0 true 0 0 1 1 0 4 0 0).wf = false ∧ (Instr.strm 0 {} 1 0 true 0 0 1 1 0 3 1 0).wf = false ∧
    (Instr.drn 0 {} 0 16 16 0 false 0 0).wf = false ∧ (Instr.drn 0 {} 0 0 0 3 false 0 0).wf = false ∧
    (Instr.drn 0 {} 0 0 0 0 true 1 0).wf = false ∧ (Instr.ainit 0 {} 0 0 0 1 false 0 0).wf = false ∧
    (Instr.ainit 0 {} 0 0 0 0 true 0 0).wf = false ∧ (Instr.amode 0 {} 8 false false 0 0).wf = false := by decide

theorem test_wf_correction_operations :
    (Instr.cvt 0 {} 0 true 1 0 0 0 0 0 0 0).wf = false ∧ (Instr.cvt 0 {} 0 false 0 0 0 3 0 0 0 0).wf = false ∧
    (Instr.cut 0 {} 0 false 0 0 3 0 true 0 0 0 127).wf = false ∧ (Instr.cut 0 {} 0 true 1 0 0 0 true 0 0 0 0).wf = false ∧
    (Instr.cut 0 {} 0 false 0 1 0 0 true 0 0 31 0).wf = false ∧ (Instr.cut 0 {} 0 false 0 0 0 1 true 0 0 0 0).wf = false ∧
    (Instr.cout 0 {} 0 false 16 16 true 0 0).wf = false ∧ (Instr.cmerge 0 {} 0 31 0 1).wf = false ∧
    (Instr.cmerge 0 {} 0 0 31 1).wf = false := by decide

theorem test_wf_vector_operations :
    (Instr.vcmp 0 {} 1 1 1 false 7).wf = false ∧ (Instr.vexp 0 {} 1 1 true).wf = false ∧ (Instr.vlog 0 {} 1 1 true).wf = false ∧
    (Instr.vrcp 0 {} 1 1 true).wf = false ∧ (Instr.vrsq 0 {} 1 1 true).wf = false ∧ (Instr.vrsum 0 {} 1 1 true).wf = false ∧
    (Instr.vrmax 0 {} 1 1 true).wf = false ∧ (Instr.vrmin 0 {} 1 1 true).wf = false ∧ (Instr.vext 0 {} 1 1 0 true).wf = false ∧
    (Instr.vcvt 0 {} 1 1 8 0 false).wf = false ∧ (Instr.vcvt 0 {} 1 1 0 1 true).wf = false ∧
    (Instr.vquant 0 {} 1 1 2 8 false).wf = false ∧ (Instr.vquant 0 {} 1 1 0 7 false).wf = false ∧
    (Instr.vquant 0 {} 1 1 0 8 true).wf = false ∧ (Instr.vdeq 0 {} 1 1 7 0 false).wf = false ∧
    (Instr.vdeq 0 {} 1 1 8 1 true).wf = false ∧ (Instr.vwadd 0 {} 1 0 0 false).wf = false ∧
    (Instr.vwadd 0 {} 0 0 0 true).wf = false ∧ (Instr.vwrnd 0 {} 0 1 false).wf = false ∧ (Instr.vpop 0 {} 0 0 3).wf = false ∧
    (Instr.vpop 0 {} 1 0 1).wf = false ∧ (Instr.vtopm 0 {} 1 0 0 true).wf = false := by decide

theorem test_wf_units :
    (Instr.weightPageArrival 576 0 0 {}).wf = false ∧ (Instr.weightPageArrival 0 4 0 {}).wf = false ∧
    (Instr.reduceCombine 576 0).wf = false ∧ (Instr.transitFault 48).wf = false ∧ (Instr.clusterDigestCheck 552).wf = false ∧
    (Instr.wstReservedCmd 6).wf = false ∧ (Instr.slotEraseComplete 4).wf = false ∧ (Instr.weightScrub 0 0 8388608 {}).wf = false ∧
    (Instr.weightScrub 4 0 0 {}).wf = false ∧ (Instr.kvPatrolScrub (1152 * 2 ^ 26) 0).wf = false ∧
    (Instr.kvPatrolScrub 0 3).wf = false := by decide

theorem test_wf_tenants_slots_and_rings :
    (Instr.submissionDoorbell true 256 0 []).wf = false ∧ (Instr.startReq 256 {}).wf = false ∧ (Instr.continueReq 256 {}).wf = false ∧
    (Instr.pauseReq 256 {}).wf = false ∧ (Instr.resumeReq 256 {}).wf = false ∧ (Instr.cancelReq 256 {}).wf = false ∧
    (Instr.adapterUpload 256 {}).wf = false ∧ (Instr.adapterRelease 256 {}).wf = false ∧
    (Instr.adapterLoadComplete 64 0).wf = false ∧ (Instr.adapterLoadComplete 0 3).wf = false ∧
    (Instr.parkComplete 256 {}).wf = false ∧ (Instr.parkRetry 256).wf = false ∧ (Instr.restoreComplete 256 {}).wf = false ∧
    (Instr.snowpackOpTimeout 256).wf = false ∧ (Instr.ringConfigWrite true (.sq 256) 0).wf = false ∧
    (Instr.ringConfigWrite false .owner 0).wf = false ∧ (Instr.hostIndexWrite true (.oq 256) 0).wf = false ∧
    (Instr.hostIndexWrite true (.eq 256) 0).wf = false ∧ (Instr.interruptModeration 256 true).wf = false ∧
    (Instr.functionLevelReset (some 256)).wf = false ∧ (Instr.drainComplete 256).wf = false ∧ (Instr.vfEnable 256).wf = false ∧
    (Instr.hostPush 256 none).wf = false := by decide

theorem test_wf_ports_pins_and_views :
    (Instr.unsupportedOpcode 1).wf = false ∧ (Instr.rdmaWriteArrival ⟨4096, {}⟩ 0 0 []).wf = false ∧ (Instr.sendArrival ⟨4096, {}⟩ []).wf = false ∧
    (Instr.rdmaReadRequest ⟨4096, {}⟩ 0 0 0).wf = false ∧ (Instr.ackTimeout ⟨4096, false⟩).wf = false ∧ (Instr.cnpReceived ⟨4096, {}⟩).wf = false ∧
    (Instr.fabricPortDown 12 {}).wf = false ∧ (Instr.fabricPortUp 12).wf = false ∧ (Instr.portEnable 12 0).wf = false ∧
    (Instr.arpRequest ⟨12, false, {}⟩ []).wf = false ∧ (Instr.smbDieTemperature 2).wf = false ∧ (Instr.smbDieTemperature 6).wf = false ∧
    (Instr.smbPower 8).wf = false ∧ (Instr.smbPower 12).wf = false ∧ (Instr.forcedChange 0).wf = false ∧
    (Instr.forcedChange 6).wf = false ∧ (Instr.regulatorTileTrip 18 0 0 0 0).wf = false ∧
    (Instr.regulatorTileTrip 0 48 0 0 0).wf = false ∧ (Instr.regulatorTileTrip 0 0 12 0 0).wf = false ∧
    (Instr.regulatorTileTrip 0 0 0 8 0).wf = false ∧ (Instr.regulatorTileTrip 0 0 0 0 6).wf = false ∧
    (Instr.vtransitFeedTrip 48 0 true).wf = false ∧ (Instr.vtransitFeedTrip 0 12 true).wf = false ∧
    (Instr.thermalSample [(1448, 0, 0)]).wf = false ∧ (Instr.touchDetect 4 0).wf = false ∧ (Instr.presenceChange 18 true).wf = false ∧
    (Instr.adcSample 125 0).wf = false ∧ (Instr.feTempRead (List.replicate 26 0)).wf = false ∧ (Instr.driftRetry 24).wf = false ∧
    (Instr.adcFeWrite 25 0).wf = false ∧ (Instr.lowerHalfRead (.tenant 256) ⟨0, 4⟩).wf = false ∧
    (Instr.upperHalfRead (.tenant 256) ⟨4, 4⟩).wf = false ∧ (Instr.registerWrite (.tenant 256) 0 8 0).wf = false ∧
    (Instr.registerWrite (.config 257) 0 4 0).wf = false ∧ (Instr.lowerHalfRead .owner ⟨0, 0⟩).wf = false := by decide

theorem test_wf_findings :
    (Instr.bringupPhaseComplete [.router 48]).wf = false ∧ (Instr.bringupPhaseComplete [.coreSram 18432]).wf = false ∧
    (Instr.bringupPhaseComplete [.core 18432]).wf = false ∧ (Instr.bringupPhaseComplete [.clusterMem 576]).wf = false ∧
    (Instr.bringupPhaseComplete [.kvTile 0 2]).wf = false ∧ (Instr.bringupPhaseComplete [.weightPort 576 0]).wf = false ∧
    (Instr.bringupPhaseComplete [.spareLines 33 1]).wf = false ∧
    (Instr.bringupPhaseComplete [.selfTest, .noRecord, .planeRef]).wf = true := by decide

/-! ### States that meet the hypotheses: the block and the scalar operations -/

theorem witness_StepRunsTheFront :
    (onCore core0).pending = [] ∧ (onCore core0).plane.clockOn = true ∧ State.reset.pending = [] ∧
    State.reset.plane.clockOn = false := by decide

theorem witness_EveryStepKeeps :
    memOk (onCore core0) = true ∧ coresOk (onCore core0) = true ∧ tablesOk (onCore core0) = true ∧
    goesOn (step { onCore core0 with pending := [.add 0 {} 4 1 2] }) = true ∧
    goesOn (step { onCore core0 with pending := [.gaugeTick] }) = true := by decide +kernel

theorem witness_SlotDecodeOfEncode :
    encodeSlot (.add 3 {} 5 4 3) = some (.S, 0x0102906000000000) ∧ slotCore (.add 3 {} 5 4 3) = some 3 ∧
    encodeSlot (.nop 0 .V {}) = some (.V, 0) ∧ slotCore (.nop 0 .V {}) = some 0 := by decide

theorem witness_GuardsAndEncodings :
    (encodeSlot (.add 0 { gp := 1 } 5 4 3) = some (.S, 0x0112906000000000) ∧ slotCore (.add 0 { gp := 1 } 5 4 3) = some 0 ∧
      slotLegal (.add 0 { gp := 1 } 5 4 3) = true ∧ ((onCore core0).core 0).delaySlot = false ∧
      guardOn ((onCore core0).core 0) (slotGuard 0x0112906000000000) = false) ∧
    (encodeSlot (.shli 0 {} 1 1 64) = some (.S, 0x1400840000000040) ∧ slotCore (.shli 0 {} 1 1 64) = some 0 ∧
      slotLegal (.shli 0 {} 1 1 64) = false) := by decide

theorem witness_Issues : Issues (onCore core0) 0 {} ∧ Issues (onCore core0) 18431 { gn := true, gp := 7 } := by
  constructor <;> exact ⟨by decide, by decide⟩

theorem witness_ScalarResults : (64 : Nat) > (63 : BitVec 32).toNat ∧ (0 : BitVec 32).toNat < 64 := by decide

theorem witness_PredicateResults : 6 ≤ (6 : BitVec 4).toNat ∧ 6 ≤ (15 : BitVec 4).toNat ∧ (1 : BitVec 5) ≠ 0 := by decide

theorem witness_AddressAndSpecialRegisterResults : (0 : BitVec 5).toNat < 16 ∧ (15 : BitVec 5).toNat < 16 := by decide

theorem witness_BranchResults :
    ((onCore core0).core 0).delaySlot = false ∧ 0 < nCores ∧
    ((onCore { core0 with delaySlot := true }).core 0).delaySlot = true := by decide

theorem witness_DueWritesBecomeVisible :
    (let w : RegWrite := { due := 100, ord := 3, dest := .g 0, val := 9 }
     let k : Core := { core0 with writes := [w] }
     gOk k = true ∧ k.writes = [w] ∧ w.due ≤ 100 ∧ w.dest = .g 0 ∧ w.ord ≤ 3) ∧
    (let w : RegWrite := { due := 99, ord := 0, dest := .g 31, val := 9 }
     let k : Core := { core0 with writes := [w] }
     gOk k = true ∧ k.writes = [w] ∧ w.due ≤ 100 ∧ w.dest = .g 31 ∧ w.ord ≤ 3) ∧
    (let k : Core := { core0 with writes :=
      [{ due := 100, ord := slotOrd .M, dest := .g 4, val := 1 }, { due := 100, ord := slotOrd .S, dest := .g 4, val := 2 }] }
     gOk k = true ∧ (4 : BitVec 5) ≠ 0) := by decide +kernel

theorem witness_CounterOperations :
    (let k := (onCore { core0 with cc := [(2, 0xFFFFFFFF)], incs := [(2, 3)], overs := [(2, 0x170020, .M)] }).core 0
     tget 0 k.incs 2 = 3 ∧ k.overs = [(2, 0x170020, .M)] ∧ 5 + 3 + 1 < 2 ^ 32 ∧
     (onCore core0).plane.progRun = true ∧ ((onCore core0).core 0).overs = []) ∧
    (let k := (onCore { core0 with cc := [(2, 7)], incs := [(2, 3)] }).core 0
     countOk 0 false 5 = true ∧ tget 0 k.incs 2 = 3 ∧ 5 + 3 < 2 ^ 32 ∧ 3 ≤ (k.ccGet 2).toNat ∧ (k.ccGet 2).toNat + 5 < 2 ^ 32 ∧
     3 + 4 ≤ (k.ccGet 2).toNat) ∧
    (let k := (onCore { core0 with cc := [(2, 0xFFFFFFFF)] }).core 0
     countOk 1 true 0 = true ∧ tget 0 k.incs 2 = 0 ∧ 2 ^ 32 ≤ (k.ccGet 2).toNat + 1) ∧
    (let k := (onCore core0).core 0
     tget 0 k.incs 2 = 0 ∧ (k.ccGet 2).toNat < 1) ∧
    (let s := onCore { core0 with cc := [(63, 0xFFFFFFFF)] }
     coresOk s = true ∧ (s.core 0).ccGet 62 ≠ 0xFFFFFFFF ∧ (s.core 0).ccGet 63 = 0xFFFFFFFF) := by decide

theorem witness_WaitsAndWatches :
    (countOk 0 false 3 = true ∧ ((onCore core0).core 0).watches = [] ∧ ((onCore core0).core 0).relAt ≠ some (onCore core0).plane.cycle) ∧
    ((onCore { core0 with relAt := some 100 }).core 0).relAt = some (onCore core0).plane.cycle ∧
    (let s := onCore { core0 with watches := [{}, {}, {}, {}] }
     4 ≤ ((s.core 0).watches.filter fun w => w.seen.isNone).length) ∧
    (let s (n : BitVec 32) (v : Option (BitVec 32)) := onCore { core0 with issue := .hold 100 1 n 0x170000 v }
     coresOk (s 2 none) = true ∧ ((s 2 none).core 0).issue = .hold 100 1 2 0x170000 none ∧
     ((s 2 (some 2)).core 0).issue = .hold 100 1 2 0x170000 (some 2) ∧ (2 : BitVec 32).toNat ≤ (2 : BitVec 32).toNat ∧
     ((s 3 (some 2)).core 0).issue = .hold 100 1 3 0x170000 (some 2) ∧ (2 : BitVec 32).toNat < (3 : BitVec 32).toNat ∧
     (s 3 (some 2)).plane.progRun = true) ∧
    (let s (n : BitVec 32) (v : Option (BitVec 32)) := onCore { core0 with watches := [{ due := 100, cc := 1, count := n, seen := v }] }
     coresOk (s 2 none) = true ∧ ((s 2 none).core 0).watches = [{ due := 100, cc := 1, count := 2 }] ∧
     ((s 3 (some 2)).core 0).watches = [{ due := 100, cc := 1, count := 3, seen := some 2 }] ∧ (s 3 (some 2)).plane.progRun = true) := by
  decide

/-- base0 with core 0 at a front. -/
def atFront (num : BitVec 8) (bound : BitVec 20) : State :=
  let s := onCore { core0 with issue := .front 30 num bound false 0x170000 }
  { s with plane := { s.plane with fFirst := some 0, fLast := 36 } }

theorem witness_FrontStopsAndTimesOut :
    (coresOk (onCore core0) = true ∧ (1 : BitVec 20) ≠ 0 ∧ ((onCore core0).core 0).delaySlot = false ∧
      (onCore core0).plane.fFirst = none ∧ (atFront 1 5).plane.fFirst ≠ none) ∧
    (let s := atFront 1 1
     s.plane.progRun = true ∧ s.plane.fFirst ≠ none ∧ s.plane.faults = [] ∧ frontWait s < (refFront s).2.1.toNat) ∧
    (let s : State := { atFront 1 1 with plane := { (atFront 1 1).plane with fTimer := 16800 } }
     s.plane.progRun = true ∧ s.plane.fFirst ≠ none ∧ s.plane.faults = [] ∧ (refFront s).2.1.toNat ≤ frontWait s) := by decide

theorem witness_FrontRelease :
    (let s := atFront 1 5
     s.plane.progRun = true ∧ s.plane.clockOn = true ∧ s.plane.faults = [] ∧ allReady s = true ∧ mismatched s = none ∧
     s.plane.fLast + 64 ≤ s.plane.cycle + 1 ∧ boundReached s = false ∧ (refFront s).2.2 = false) ∧
    (let s : State := { atFront 1 5 with plane := { (atFront 1 5).plane with relGo := true } }
     s.plane.relGo = true ∧ coresOk s = true ∧ s.plane.faults = [] ∧ allIssued s = true ∧ (refFront s).2.2 = false ∧
     s.plane.fronts < 2 ^ 32 - 1 ∧ (s.core 0).role ≠ none) ∧
    (let s : State := { atFront 1 5 with plane := { (atFront 1 5).plane with relGo := true, faults := [{}] } }
     s.plane.relGo = true ∧ coresOk s = true ∧ s.plane.faults ≠ []) ∧
    (let s : State := { atFront 1 5 with plane := { (atFront 1 5).plane with
        cores := [(0, { core0 with issue := .front 30 1 5 true 0x170000 })] } }
     allIssued s = true ∧ mismatched s = none ∧ (refFront s).2.2 = true ∧ stepHeld s = true) ∧
    (allIssued (onCore core0) = false ∧ (onCore core0).plane.faults = []) ∧
    (let s : State := { atFront 1 1 with plane := { (atFront 1 1).plane with fTimer := 16800 } }
     allIssued s = true ∧ mismatched s = none ∧ boundReached s = true) ∧
    (let s : State := { atFront 1 5 with plane := { (atFront 1 5).plane with fLast := 38 } }
     allIssued s = true ∧ mismatched s = none ∧ s.plane.cycle + 1 < s.plane.fLast + 64) ∧
    (let s : State := { atFront 1 5 with plane := { (atFront 1 5).plane with
        cores := [(0, { core0 with issue := .front 30 1 5 false 0 }), (1, { core0 with issue := .front 30 2 5 false 0 })] } }
     allIssued s = true ∧ mismatched s = some (1, { core0 with issue := .front 30 2 5 false 0 })) := by decide

/-- base0 whose core 0 stands before a bundle with an add in its S slot. -/
def beforeAdd : State := (onCore core0).sramSet (spmAddr 0 0x170020) (leBytes 32 0x0102906000000000)

theorem witness_BundleIssues :
    (coresOk beforeAdd = true ∧ beforeAdd.plane.sramErr = [] ∧ mayIssue beforeAdd (beforeAdd.core 0) = true ∧
      inCode beforeAdd (beforeAdd.core 0).pc.toNat = true ∧ encodeSlot (.add 0 {} 5 4 3) = some (.S, 0x0102906000000000) ∧
      beforeAdd.sramGet (spmAddr 0 0x170020) 32 = leBytes 32 0x0102906000000000 ∧
      goesOn (exec (.add 0 {} 5 4 3) (beforeAdd.setCore 0 { beforeAdd.core 0 with target := none })) = true) ∧
    (mayIssue base0 (base0.core 0) = false) ∧
    (let s := onCore core0
     mayIssue s (s.core 0) = true ∧ inCode s (s.core 0).pc.toNat = true ∧ s.plane.sramErr = [] ∧
     s.sramGet (spmAddr 0 (s.core 0).pc.toNat) 32 = leBytes 32 0) ∧
    (let s := onCore { core0 with pc := 0x16FFE0 }
     mayIssue s (s.core 0) = true ∧ inCode s (s.core 0).pc.toNat = false) := by decide +kernel

/-! ### States that meet the hypotheses: vectors, arrays, loads and transfers -/

theorem witness_VectorMoveResults :
    coresOk (onCore core0) = true ∧ (6 : BitVec 4).toNat ≤ 6 ∧ (0 : BitVec 4).toNat ≤ 7 ∧ (7 : BitVec 4).toNat ≤ 7 ∧
    (1 : BitVec 4).toNat ≤ 1 ∧ 8 ≤ (8 : BitVec 4).toNat ∧ (11 : BitVec 4).toNat ≤ 11 ∧ (28 : BitVec 5).toNat % 4 = 0 ∧
    (30 : BitVec 5).toNat % 2 = 0 := by decide

/-- A drain entry that stands available to the vector unit. -/
def poppable : DrainEntry := { tAt := 90, data := [1, 2, 3], dst := true, avail := true }

theorem witness_VectorPop :
    (let s := onCore { core0 with arrays := [(3, { queue := [poppable] })] }
     coresOk s = true ∧ ((s.core 0).arr 3).queue = [poppable] ∧ poppable.dst = true ∧ poppable.avail = true) ∧
    ((onCore core0).core 0).arr 0 = {} ∧ (2 : BitVec 2) ≠ 3 ∧ (28 : BitVec 5).toNat % 2 ^ (2 : BitVec 2).toNat = 0 ∧
    (29 : BitVec 5).toNat % 2 ^ (2 : BitVec 2).toNat ≠ 0 := by decide

/-- Address registers: a0 and a1 in the scratchpad, a2 in the cluster memory, a3 at the end of the scratchpad's data. -/
def core1 : Core :=
  { core0 with a := [(0, 0x3F00000000), (1, 0x3F00000040), (2, 0x2000000000), (3, 0x3F0016FFF8)] }

theorem witness_ArrayOperations :
    (let k := core1
     (1 : BitVec 4) ≠ 0 ∧ addrUnit (k.aGet 1) = 0x3F ∧ addrOff (k.aGet 1) / 256 * 256 + 256 * popMask 15 ≤ 0x180000 ∧
     addrUnit (k.aGet 2) ≠ 0x3F ∧ (0 : BitVec 2) ≠ 3 ∧ (0 : BitVec 5).toNat + (31 : BitVec 5).toNat ≤ 31 ∧
     addrOff (k.aGet 1) + 16 * 32 ≤ 0x180000 ∧ (7 : BitVec 4).toNat ≤ 7 ∧ (2 : BitVec 2) ≠ 3) ∧
    (let kk := 32 * ((0 : BitVec 10).toNat + 1)
     addrUnit (core1.aGet 0) = 0x3F ∧ addrOff (core1.aGet 0) / 64 * 64 + (8 * kk + 16) ≤ 0x180000 ∧
     addrOff (core1.aGet 0) + 512 * (kk / 16 - 1) + 16 * ((31 : BitVec 5).toNat + 1) ≤ 0x180000 ∧
     addrOff (core1.aGet 0) / 64 * 64 + (16 * 8 + 2 * 16) ≤ 0x180000 ∧ (0 : BitVec 5).toNat + (31 : BitVec 5).toNat ≤ 31) := by
  decide

theorem witness_LoadsAndStoresIssue :
    (let s := onCore core1
     let ad := addrImm ((s.core 0).aGet 3) 0
     let o := addrOff ad / 8 * 8
     addrUnit ad = 0x3F ∧ o + 8 = 0x180000 - codeBytes s ∧ o + 8 ≤ 0x180000 ∧
     addrOff ad / 256 * 256 + 256 ≤ 0x180000 - codeBytes s) ∧
    (let s := onCore core1
     let out := addrImm ((s.core 0).aGet 2) 0
     let far := addrImm ((s.core 0).aGet 3) 0x10008
     let code := addrImm ((s.core 0).aGet 3) 8
     addrUnit out ≠ 0x3F ∧ 0x180000 ≤ addrOff far ∧ 0x180000 < addrOff far / 8 * 8 + 8 ∧
     addrUnit code = 0x3F ∧ inCode s (addrOff code / 8 * 8) = true ∧
     addrUnit ((s.core 0).aGet 2) ≠ 0x3F) := by decide

theorem witness_BankAccesses :
    memOk (onCore core0) = true ∧ coresOk (onCore core0) = true ∧ (onCore core0).plane.sramErr = [] ∧
    (let l : PendLoad := { tAt := 100, off := 64, bytes := 8 }
     l.off = 64 ∧ l.bytes = 8 ∧ 8 ≤ 8 ∧ l.vec = false ∧ l.sx = false ∧ l.rc = 1 ∧ l.got = [] ∧
     l.tAt ≤ (onCore core0).plane.cycle) ∧
    (let l : PendLoad := { tAt := 101, off := 64, bytes := 8 }
     (onCore core0).plane.cycle + l.rc ≤ l.tAt) := by decide

/-- base0 with an error of the given kind in the word at address 64 of core 0's scratchpad. -/
def withErr (e : Nat) : State := { base0 with plane := { base0.plane with sramErr := [(8, e)] } }

theorem witness_CheckBits :
    (withErr 1).bg.eccCorr < 2 ^ 32 ∧ sramBad (withErr 1) 64 8 = none ∧ singleWords (withErr 1) 64 8 = [8] ∧
    sramBad (withErr 2) 60 8 = some 64 ∧ (withErr 2).plane.progRun = true ∧ 64 % 8 = 0 ∧ [1#8, 2, 3, 4, 5, 6, 7, 8].length % 8 = 0 ∧
    sramBad (withErr 2) 0 64 = none ∧ sramBad (withErr 2) 72 8 = none := by decide

/-- A configuration of KV space: one lane and one head, slabs of one page, 46 fields, 16 page rows an area. -/
def kvCfg0 : KvCfgA :=
  { cfg := 1 <<< 55 ||| 1 <<< 48 ||| 1 <<< 39 ||| 46 <<< 30 ||| 1024, area := 0x0010001000100010, cls := List.replicate 8 0 }

/-- core1 of base0 with the configuration in force. -/
def kvCore : State := { onCore core1 with kv := { app := kvCfg0 } }

theorem witness_TransfersIssue :
    (let s := kvCore
     let k := s.core 0
     let x := (k.gGet 3).toNat
     addrUnit (k.aGet 0) = 0x3F ∧ addrOff (k.aGet 0) / 64 * 64 + 64 * 64 ≤ 0x180000 - codeBytes s ∧
     x % 2 ^ 32 / 64 * 64 + 64 * 64 ≤ 0x1800000 ∧ (3 : BitVec 2).toNat < gradeWt s ∧ x % 2 ^ 23 + 16 ≤ 8388608 ∧
     (s.plane.wlds.filter fun y => y.pcl == 0 && y.wafer == 3).length < 448) ∧
    (let s := kvCore
     let k := s.core 0
     let kad := (k.gGet 3).toNat % 2 ^ 44 / 64 * 64
     addrUnit (k.aGet 2) = 0x20 ∧ addrOff (k.aGet 2) / 64 * 64 + 64 * 256 ≤ 0x1800000 ∧ (0 : BitVec 2) ≠ 3 ∧
     kvRunBad s 0 0 kad (64 * 128) true = false ∧ kvRunBad s 0 2 kad (64 * 128) false = false ∧
     (s.plane.kvs.filter fun y => y.path == 0).length < 128) := by decide

/-- A cget of two lines issued in cycle t, of which n lines have been read and m have arrived. -/
def xfer0 (t n m : Nat) : Xfer :=
  { id := 7, core := 0, off := 64, cm := 128, lines := 2, cc := 3, tAt := t, reads := n, wrote := m
    path := if m < n then [(100, [5])] else [] }
def withXfer (x : Xfer) : State :=
  { onCore core0 with plane := { (onCore core0).plane with xfers := [x], sram := [(cmAddr 0 128, 5)] } }

theorem witness_ClusterTransfers :
    (let s (t m : Nat) := withXfer (xfer0 t 2 m)
     coresOk (s 90 2) = true ∧ (s 90 2).plane.xfers = [xfer0 90 2 2] ∧ (xfer0 90 2 2).core < nCores ∧
     (s 90 2).plane.cycle < 90 + 9 + 2 ∧ (xfer0 89 2 1).wrote < (xfer0 89 2 1).lines ∧
     89 + 9 + 2 ≤ (s 89 2).plane.cycle ∧ (xfer0 89 2 2).lines ≤ (xfer0 89 2 2).wrote ∧ (s 89 2).plane.progRun = true ∧
     ((s 89 2).core 0).ccGet 3 ≠ 0xFFFFFFFF) ∧
    (let x := xfer0 89 0 0
     let s := withXfer x
     coresOk s = true ∧ s.plane.sramErr = [] ∧ s.plane.xfers = [x] ∧ x.put = false ∧ x.tm = 0 ∧ x.reads < x.lines ∧
     x.tAtR ≤ s.plane.cycle ∧ (useCm {} (pclOf x.core) (x.cm + 64 * x.reads) 64).isSome = true ∧
     useCm ((useCm {} (pclOf x.core) (x.cm + 64 * x.reads) 64).getD {}) (pclOf x.core) (x.cm + 64 * x.reads) 64 = none) ∧
    (let x := xfer0 89 1 0
     let s := withXfer x
     s.plane.xfers = [x] ∧ x.path = [(100, [5])] ∧ 100 ≤ s.plane.cycle ∧ (s.core 0).aBusy.contains (bankOf 64) = false ∧
     ({ core0 with aBusy := [1] } : Core).aBusy.contains (bankOf 64) = true) := by decide

/-- A kvld or kvst of two lines, m of which have moved. -/
def kvCmd0 (store : Bool) (m : Nat) : KvCmd :=
  { id := 8, core := 0, store := store, cmem := true, off := 64, lines := 2, cc := 3, tAt := 90, moved := m }
def withKv (x : KvCmd) (run : Bool) : State := { kvCore with plane := { kvCore.plane with kvs := [x], progRun := run } }

def hputCmd0 (n m : Nat) : HputCmd := { id := 9, core := 0, off := 0, lines := n, cc := 3, moved := m }
/-- A candidate block for slot 0, ordinal 0, whose header is zero, and a slot that waits for it. -/
def withHput (n m : Nat) : State :=
  { onCore core0 with
    plane := { (onCore core0).plane with hputs := [hputCmd0 n m] }
    hub := { slots := [(0, { st := 3, decodes := true })] } }

theorem witness_TransfersComplete :
    (let s (st run : Bool) (m : Nat) := withKv (kvCmd0 st m) run
     memOk (s false true 2) = true ∧ coresOk (s false true 2) = true ∧ (s false true 2).plane.kvs = [kvCmd0 false 2] ∧
     (kvCmd0 false 2).core < nCores ∧ (s false true 2).plane.sramErr = [] ∧ (kvCmd0 false 2).cmem = true ∧ (kvCmd0 false 2).qm = 0 ∧
     0 < gradeKv (s false true 2) ∧ (kvCmd0 true 1).moved < (kvCmd0 true 1).lines ∧ (kvCmd0 false 2).lines ≤ (kvCmd0 false 2).moved ∧
     (s false true 2).plane.progRun = true ∧ ((s false true 2).core 0).ccGet 3 ≠ 0xFFFFFFFF ∧
     (s true false 2).plane.kvs = [kvCmd0 true 2] ∧ (kvCmd0 true 2).store = true ∧ (s true false 2).plane.progRun = false) ∧
    (let x : KvCmd := { kvCmd0 true 0 with cmem := false }
     let s := withKv x true
     s.plane.kvs = [x] ∧ s.plane.sramErr = [] ∧ x.tAt < s.plane.cycle ∧ x.moved < x.lines ∧ x.store = true ∧ x.cmem = false ∧
     (useB {} x.core).isSome = true ∧ useB { cores := [0] } x.core = none) ∧
    (let s := withHput 9 9
     s.plane.hputs = [hputCmd0 9 9] ∧ coresOk s = true ∧ s.plane.progRun = true ∧ (s.core 0).ccGet 3 ≠ 0xFFFFFFFF ∧
     (hputCmd0 9 8).moved < (hputCmd0 9 8).lines ∧ (hputCmd0 9 9).lines ≤ (hputCmd0 9 9).moved ∧ (hputCmd0 8 8).lines ≠ 9 ∧
     candWanted s (leAt (hputCmd0 9 9).buf 0 2) (leAt (hputCmd0 9 9).buf 2 2) = true) := by decide +kernel

def wldCmd0 (l : List Nat) : WldCmd :=
  { core := 0, pcl := 0, wafer := 0, page := 4, left := 2, cc := 3, tAt := 90, places := l, nextAt := 100 }
def withWld (k : Core) (l : List Nat) : State := { onCore k with plane := { (onCore k).plane with wlds := [wldCmd0 l] } }

theorem witness_WeightPageArrives :
    ((withWld core0 []).plane.wlds = [wldCmd0 []] ∧ (wldCmd0 []).places = []) ∧
    (let s := withWld { core0 with arrived := [(31, true)] } [4, 5]
     memOk s = true ∧ coresOk s = true ∧ s.plane.wlds = [wldCmd0 [4, 5]] ∧ (wldCmd0 [4, 5]).places = [4, 5] ∧
     [5].length + 1 = (wldCmd0 [4, 5]).left ∧ (wldCmd0 [4, 5]).core < nCores ∧ (wldCmd0 [4, 5]).retry = none ∧
     fifoCredit (s.core 0) = false) ∧
    (let s := withWld { core0 with fill := 480, arrived := [(479, true)] } [4, 5]
     memOk s = true ∧ coresOk s = true ∧ fifoCredit (s.core 0) = true ∧ (wldCmd0 [4, 5]).tAt < s.plane.cycle ∧
     (wldCmd0 [4, 5]).nextAt ≤ s.plane.cycle ∧ s.plane.progRun = true ∧ (s.core 0).ccGet 3 ≠ 0xFFFFFFFF ∧
     (s.core 0).fill < 512) := by decide

def drain0 (t : Nat) (dst req : Bool) : DrainEntry := { tAt := t, data := [1, 2], dst := dst, addr := 64, cc := 3, req := req }
def corr0 (fin : Nat) : CorrEntry := { begun := true, fin := fin, cc := 3 }

theorem witness_DrainsAndCorrectionsEnd :
    (let s (e : DrainEntry) := onCore { core0 with arrays := [(1, { queue := [e] })] }
     coresOk (s (drain0 100 true false)) = true ∧ (((s (drain0 100 true false)).core 0).arr 1).queue = [drain0 100 true false] ∧
     (drain0 100 true false).avail = false ∧ (drain0 100 true false).req = false ∧ (s (drain0 100 true false)).plane.cycle ≤ 100 ∧
     99 < (s (drain0 99 true false)).plane.cycle ∧ (drain0 99 true false).dst = true ∧
     (s (drain0 99 true false)).plane.progRun = true ∧ ((s (drain0 99 true false)).core 0).ccGet 3 ≠ 0xFFFFFFFF ∧
     (drain0 99 false false).dst = false ∧ (drain0 99 false true).req = true ∧
     (((s (drain0 99 false true)).core 0).arr 1).queue = [drain0 99 false true] ∧
     meets ((s (drain0 99 false true)).core 0).aBusy (runBanks 64 2) = false ∧ meets [1] (runBanks 64 2) = true) ∧
    (let s (e : CorrEntry) := onCore { core0 with corr := [e] }
     coresOk (s (corr0 101)) = true ∧ ((s (corr0 101)).core 0).corr = [corr0 101] ∧ (s (corr0 101)).plane.cycle < (corr0 101).fin ∧
     coresOk (s (corr0 100)) = true ∧ (corr0 100).begun = true ∧ (corr0 100).fin ≤ (s (corr0 100)).plane.cycle ∧
     (corr0 100).reads = [] ∧ (corr0 100).grans = 0 ∧ (s (corr0 100)).plane.progRun = true ∧
     ((s (corr0 100)).core 0).ccGet 3 ≠ 0xFFFFFFFF) := by decide

/-! ### States that meet the hypotheses: the network -/

/-- g4 and g5 hold the header of a get request, g6 and g7 a header of field 46, which does not exist. -/
def core2 : Core := { core1 with g := [(1, 5), (2, 0xFFFFFFFFFFFFFFFF), (3, 64), (5, 1 <<< 46), (6, 46 <<< 42)] }

theorem witness_PacketsAreSent :
    let s := onCore core2
    let k := s.core 0
    let ad := k.aGet 0
    coresOk s = true ∧ (8 : BitVec 5).toNat % 2 = 0 ∧ addrUnit ad = 0x3F ∧ addrOff ad / 256 * 256 + 256 * 16 ≤ 0x180000 ∧
    hdrFault s (wireHdr k 8 15) false false = none ∧ hdrFault s (wireHdr k 4 15) true false = none ∧
    hdrFault s (hSet (wireHdr k 8 15) 111 110 2) false true = none ∧ hdrFault s (wireHdr k 6 15) false false = some 3 := by
  decide +kernel

/-- base0 with packets and tables of the gateways and routers. -/
def withPkts (l : List Packet) (gw rt : Table (BitVec 32)) : State :=
  { onCore core0 with plane := { (onCore core0).plane with packets := l }, jet := { gwUni := gw, router := rt } }

/-- A unicast header with n turns given from the first one on, for field 0. -/
def turns (n first cluster : Nat) : BitVec 128 := BitVec.ofNat 128 (n * 2 ^ 104 + first * 2 ^ 80 + cluster * 2 ^ 38)

def pkt0 (h : BitVec 128) (loc : PktAt) (t : Nat) : Packet := { id := 5, hdr := h, loc := loc, t := t, dir := 1 }

theorem witness_PacketsTravel :
    (let p := pkt0 (turns 2 0 1) (.router 0 4) 101
     let s := withPkts [p] [] []
     s.plane.packets = [p] ∧ s.plane.resvs = [] ∧ s.jet.tblErr = [] ∧ isUnicast p.hdr = true ∧ p.waits = false ∧
     s.plane.cycle < p.t) ∧
    (let p := pkt0 (turns 2 0 1) (.router 0 4) 100
     let s := withPkts [p] [] []
     isUnicast p.hdr = true ∧ p.t ≤ s.plane.cycle ∧ 1 ≤ 4 ∧ p.turn < hTcnt p.hdr ∧ hTurn p.hdr p.turn = 0 ∧
     clusterBeyond (0 % 12) p.dir = some 1) ∧
    (let p := pkt0 (turns 1 3 0) (.router 0 4) 100
     let s := withPkts [p] [] []
     isUnicast p.hdr = true ∧ p.t ≤ s.plane.cycle ∧ 1 ≤ 4 ∧ p.turn < hTcnt p.hdr ∧ hTurn p.hdr p.turn = 3 ∧
     lfieldOf s (0 / 12) = some (hField p.hdr) ∧ 0 % 12 = hCluster p.hdr ∧ hField p.hdr < progF s) ∧
    (let p := pkt0 (turns 1 3 0) (.gate 1 3 2) 100
     let s := withPkts [p] [(64 * (4 * 1 + 3) + 0, 5 <<< 29)] []
     isUnicast p.hdr = true ∧ p.t ≤ s.plane.cycle ∧ hField p.hdr < progF s ∧ clusterAt 3 2 = some 8 ∧ bypassed s 1 = false ∧
     bits (tget 0 s.jet.gwUni (64 * (4 * 1 + 3) + hField p.hdr)).toNat 31 29 = 5) := by decide

/-- A header whose destination is the start of unit 0's code region, and a get request's. -/
def codeHdr : BitVec 128 := BitVec.ofNat 128 0x17FF00
def getHdr : BitVec 128 := BitVec.ofNat 128 (2 ^ 110 + 2 ^ 48)

/-- A delivery of one flit at router 0 with n of its flits written. -/
def deliv (h : BitVec 128) (t n : Nat) : Packet := { pkt0 h (.deliver 0) t with written := n, pay := some 6 }
def withDeliv (p : Packet) : State :=
  let s := withPkts [p] [] []
  { s with plane := { s.plane with pays := [{ id := 6, hdr := p.hdr, n := 1, flits := [9] }] } }

theorem witness_PacketsAreDelivered :
    (let p := deliv 0 98 0
     let s := withDeliv p
     coresOk s = true ∧ s.plane.packets = [p] ∧ p.loc = .deliver 0 ∧ hUnit p.hdr < 28 ∧ pcoreOf s 0 (hUnit p.hdr) = some 0 ∧
     hKind p.hdr ≠ 1 ∧ p.written < p.n ∧ p.t + 2 + p.written ≤ s.plane.cycle ∧ p.written < (flitsOf s p).length ∧
     runInCode s (hOff p.hdr + 256 * p.written) 256 = false ∧ s.plane.cycle < (deliv 0 99 0).t + 2 + (deliv 0 99 0).written ∧
     ({} : PortUse).cores.contains 0 = false ∧ ({ cores := [0] } : PortUse).cores.contains 0 = true) ∧
    (let p := deliv codeHdr 98 0
     let s := withDeliv p
     hKind p.hdr ≠ 1 ∧ p.t + 2 + p.written ≤ s.plane.cycle ∧ p.written < (flitsOf s p).length ∧
     pcoreOf s 0 (hUnit p.hdr) = some 0 ∧ runInCode s (hOff p.hdr + 256 * p.written) 256 = true) ∧
    (let p := deliv 0 97 1
     let s := withDeliv p
     p.t + 2 + p.n ≤ s.plane.cycle ∧ p.n ≤ p.written ∧ s.plane.progRun = true ∧ (s.core 0).ccGet (hDcc p.hdr) ≠ 0xFFFFFFFF) ∧
    (let p := pkt0 getHdr (.deliver 575) 100
     let s := withPkts [p] [] []
     hKind p.hdr = 1 ∧ p.t ≤ s.plane.cycle ∧ pcoreOf s 575 (hUnit p.hdr) = some 0) := by decide

/-- A send of two flits issued in cycle t, one of which has been read. -/
def pay0 (t : Nat) : Payload := { id := 6, n := 2, sa := some 0, core := some 0, issued := t, flits := [9] }

theorem witness_PortBServesOneGroup :
    (pay0 98).core = some 0 ∧ (pay0 98).win = none ∧ (pay0 98).sa = some 0 ∧ (pay0 98).lc = none ∧ (pay0 98).parts = [] ∧
    (pay0 98).flits.length < (pay0 98).n ∧ base0.plane.sramErr = [] ∧ base0.plane.cycle < (pay0 99).issued + 1 + (pay0 99).flits.length ∧
    (pay0 98).issued + 1 + (pay0 98).flits.length ≤ base0.plane.cycle ∧ ({} : PortUse).cores.contains 0 = false ∧
    ({ cores := [0] } : PortUse).cores.contains 0 = true ∧ ({ addr := 0, data := [1] } : PortWrite).win = none := by decide

/-- A packet of tree 1 that adds FP32 lanes, and one that would take their maximum. -/
def red (id port op : Nat) : Packet :=
  { id := id, hdr := BitVec.ofNat 128 (2 ^ 116 + op * 2 ^ 112), loc := .router 0 port, t := 99 }
/-- Tree 1 of router 0 adds what comes in by N and E and gives it to L. -/
def redState (op : Nat) : State := withPkts [red 1 1 1, red 2 2 op] [] [(1, 3 <<< 30 ||| 16 <<< 25 ||| 12 <<< 20)]

theorem witness_ReductionsCombine :
    (let s := redState 1
     let e := treeEntry s 0 1
     s.plane.packets = [red 1 1 1, red 2 2 1] ∧ (red 1 1 1).id ≠ (red 2 2 1).id ∧ s.plane.resvs = [] ∧
     (red 1 1 1).t = (red 2 2 1).t ∧ (red 1 1 1).t ≤ s.plane.cycle ∧ hTree (red 1 1 1).hdr = 1 ∧ hTree (red 2 2 1).hdr = 1 ∧
     hOp (red 1 1 1).hdr = 1 ∧ isUnicast (red 1 1 1).hdr = false ∧ bits e 31 30 = 3 ∧ portsOf (bits e 24 20) = [1, 2] ∧
     portsOf (bits e 29 25) = [0] ∧ sameReduce (red 1 1 1).hdr (red 2 2 1).hdr = true ∧
     lfieldOf s (0 / 12) = some (hField (red 1 1 1).hdr) ∧ 0 % 12 = hCluster (red 1 1 1).hdr ∧ hField (red 1 1 1).hdr < progF s) ∧
    (let s := redState 2
     s.plane.packets = [red 1 1 1, red 2 2 2] ∧ hOp (red 2 2 2).hdr ≠ 0 ∧ sameReduce (red 1 1 1).hdr (red 2 2 2).hdr = false ∧
     s.plane.progRun = true) ∧
    (let a : Payload := { id := 1, flits := [9] }
     let b : Payload := { id := 2, flits := [8] }
     let y : Payload := { id := 3, hdr := (red 1 1 1).hdr, n := 1, parts := [1, 2] }
     ({ base0 with plane := { base0.plane with pays := [a, b, y] } } : State).plane.pays = [a, b, y] ∧ a.id ≠ b.id ∧ a.id ≠ y.id ∧
     b.id ≠ y.id ∧ y.n = 1 ∧ y.parts = [a.id, b.id] ∧ hOp y.hdr = 1 ∧ hFmt y.hdr = false) := by decide

/-! ### States that meet the hypotheses: squalls, the load and the stores -/

def squall0 (n : Nat) : State :=
  { onCore core0 with plane := { (onCore core0).plane with faults := [{ cycle := n, cls := 7 }] } }

theorem witness_SquallsStopThePlane :
    (coresOk (squall0 38) = true ∧ (squall0 38).plane.progRun = true ∧ (squall0 38).plane.faults = [{ cycle := 38, cls := 7 }] ∧
      (squall0 38).ldr.waitFront = false ∧ (squall0 38).plane.cycle < 38 + 63 ∧ 37 + 63 ≤ (squall0 37).plane.cycle ∧
      (squall0 37).ldr.state = 8 ∧ ((squall0 37).core 0).role ≠ none) ∧
    ((onCore core0).plane.progRun = true ∧ fieldState (onCore core0) 47 = 0) := by decide

/-- base0 with the loader in a state, an image of zeros read, and no program. -/
def loadingAt (n : Nat) : State := { base0 with ldr := { state := n }, plane := {} }

theorem witness_LoadsAreChecked :
    ((loadingAt 0).bg.ready = true ∧ (loadingAt 0).ldr.start = false ∧ (loadingAt 0).ldr.state ≠ 8 ∧ base0.ldr.state = 8 ∧
      base0.ldr.start = false ∧ State.reset.bg.ready = false) ∧
    (1 ≤ (loadingAt 1).ldr.state ∧ (loadingAt 7).ldr.state ≤ 7 ∧ 8 ≤ (loadingAt 8).ldr.state ∧ (loadingAt 0).ldr.state = 0) ∧
    ((loadingAt 1).ldr.state = 1 ∧ (loadingAt 1).pwr.state = 5 ∧ formatFault [] = some (0xFFFF, 0)) ∧
    ((loadingAt 2).ldr.state = 2 ∧ edOk (loadingAt 2) (loadingAt 2).ldr.image = false) ∧
    ((loadingAt 3).ldr.state = 3 ∧ checkFault (loadingAt 3) (loadingAt 3).ldr.image (loadingAt 3).ldr.cur = none ∧
      keepsSeqs (loadingAt 3) (loadingAt 3).ldr.cur = true ∧
      checkFault (loadingAt 3) [] { contract := 2 } = some (3, 2, 1)) := by decide +kernel

/-- The part of base0 whose owner keys are a. -/
def owned (s : State) (a b : List Byte) : State := { s with sec := { s.sec with edKey := some a, mlKey := b } }

theorem owned_edOk {s : State} {a m : List Byte} (h : s.sec.edKey = some a)
    (e : edVerify a (bodyDigest m) ((m.drop (m.length - 4096)).take 64) = true) : edOk s m = true := by
  simp only [edOk, h]
  exact e

theorem owned_mlOk {s : State} {a b m : List Byte} (h : s.sec.edKey = some a) (g : s.sec.mlKey = b)
    (q : mlVerify b [] (bodyDigest m) ((m.drop (m.length - 4096 + 64)).take 3309) = true) : mlOk s m = true := by
  simp only [mlOk, h, g, Option.isSome_some, Bool.true_and]
  exact q

/-- The two signature checks of an image: an image that its owner signed meets them (a verification of ML-DSA-65 is left out of
the kernel's tests for its length). -/
theorem witness_LoadsAreChecked_verify (a b m : List Byte)
    (e : edVerify a (bodyDigest m) ((m.drop (m.length - 4096)).take 64) = true)
    (q : mlVerify b [] (bodyDigest m) ((m.drop (m.length - 4096 + 64)).take 3309) = true) :
    (owned (loadingAt 2) a b).ldr.state = 2 ∧ edOk (owned (loadingAt 2) a b) m = true ∧ mlOk (owned (loadingAt 2) a b) m = true := by
  exact ⟨rfl, owned_edOk rfl e, owned_mlOk rfl rfl q⟩

/-- SHA-512 of no bytes (FIPS 180-4). -/
def sha0 : List Byte :=
  [0xCF, 0x83, 0xE1, 0x35, 0x7E, 0xEF, 0xB8, 0xBD, 0xF1, 0x54, 0x28, 0x50, 0xD6, 0x6D, 0x80, 0x07,
   0xD6, 0x20, 0xE4, 0x05, 0x0B, 0x57, 0x15, 0xDC, 0x83, 0xF4, 0xA9, 0x21, 0xD3, 0x6C, 0xE9, 0xCE,
   0x47, 0xD0, 0xD1, 0x3C, 0x5D, 0x85, 0xF2, 0xB0, 0xFF, 0x83, 0x18, 0xD2, 0x87, 0x7E, 0xEC, 0x2F,
   0x63, 0xB9, 0x31, 0xBD, 0x47, 0x41, 0x7A, 0x81, 0xA5, 0x38, 0x32, 0x7A, 0xF9, 0x27, 0xDA, 0x3E]

/-- A target that names cluster 0 of field 0 and offset 0 of its memory, and a block of zeros. -/
def blkX : List Byte := leBytes 6 1 ++ leBytes 2 1 ++ leBytes 8 0x20 ++ List.replicate 4096 0

/-- A section table entry. -/
def sectEntry (ty off len : Nat) : List Byte := leBytes 8 ty ++ leBytes 8 off ++ leBytes 8 len ++ leBytes 8 0

/-- A short image for the states after the format check: a data initialiser of 8 bytes for cluster 0 of field 0, and a
cluster digest table. -/
def imgPre : List Byte :=
  leBytes 6 0 ++ leBytes 2 2 ++ leBytes 8 0 ++ leBytes 8 24 ++ sectEntry 2 88 24 ++ sectEntry 9 112 64 ++
  leBytes 6 1 ++ leBytes 2 1 ++ leBytes 8 0x20 ++ leBytes 8 7
def imgS : List Byte := imgPre ++ sha512 blkX

/-- One with a table entry of tree 0, which does not exist. -/
def imgBad : List Byte := leBytes 6 0 ++ leBytes 2 1 ++ leBytes 8 0 ++ leBytes 8 24 ++ sectEntry 6 56 8 ++ leBytes 8 0

def progS : Prog := { kCores := 1, fFields := 1, digest := sha0 }

/-- base0 with the loader in a state, an image read and no program. -/
def loadState (n : Nat) (m : List Byte) : State :=
  { base0 with plane := {}, ldr := { state := n, image := m, cur := progS } }

/-- The initialiser's block. -/
def blkS : Blk := { sec := { no := 0, ty := 2, idx := 0, off := 88, len := 24 }, k := 0, data := leBytes 8 7 }

theorem witness_LoadsStoreAndStart_map :
    (let s : State := { loadState 4 imgS with plane := { packets := [{}] } }
     memOk s = true ∧ s.plane.sramErr = [] ∧ s.ldr.state = 4 ∧ planeQuiet s = false) ∧
    (let s := loadState 4 imgBad
     memOk s = true ∧ planeQuiet s = true ∧ tablesFault imgBad progS = some 0) ∧
    (let s := loadState 4 imgS
     planeQuiet s = true ∧ tablesFault imgS progS = none ∧ atReference s progS = true) := by decide +kernel

theorem witness_LoadsStoreAndStart_pass2 :
    let s := loadState 5 imgS
    s.ldr.missing = [] ∧ s.ldr.blocks = 0 ∧ bodyDigest imgS = progS.digest ∧ blkPairs imgS progS = [(0, 0)] ∧
    (blocksOf imgS)[0]? = some blkS ∧ blkPlace s imgS progS blkS 0 = some (cmAddr 0 0) ∧ lclAlive s 0 = true := by
  decide +kernel

theorem witness_LoadsStoreAndStart_changedImage : bodyDigest [] ≠ ({} : Prog).digest := by decide +kernel

theorem witness_LoadsStoreAndStart_digest :
    let s : State := { loadState 5 imgS with ldr := { (loadState 5 imgS).ldr with blocks := 1 } }
    s.ldr.blocks ≠ 0 ∧ s.ldr.missing = [] ∧ s.ldr.checked = [] ∧ s.ldr.bad = [] ∧
    sha512 (blkDigest s imgS progS 0 blkS) = digestEntry imgS 0 := by
  intro s
  refine ⟨by decide, rfl, rfl, rfl, ?_⟩
  have h : blkDigest s imgS progS 0 blkS = blkX := by decide +kernel
  have x : sectOf (imgSects imgS) 9 = some { no := 1, ty := 9, idx := 0, off := 112, len := 64 } := by decide +kernel
  simp only [h, digestEntry, x]
  show _ = (List.drop 112 (imgPre ++ sha512 blkX)).take 64
  rw [List.drop_left' (by decide), List.take_of_length_le (Nat.le_of_eq (Laws.sha512_length _))]

theorem witness_LoadsStoreAndStart_wrongDigest :
    sha512 (blkDigest (loadState 5 imgBad) imgBad progS 0 blkS) ≠ digestEntry imgBad 0 := by
  have d : digestEntry imgBad 0 = [] := by decide
  rw [d]
  exact fun h => absurd (congrArg List.length h) (by rw [Laws.sha512_length]; decide)

theorem witness_LoadsStoreAndStart_rounds :
    (let s : State := { loadState 6 imgS with ldr := { (loadState 6 imgS).ldr with missing := [(0, 0)], rounds := 7 } }
     s.ldr.missing = [(0, 0)] ∧ s.ldr.bad = [] ∧ s.ldr.rounds < 8 ∧ lclAlive s 0 = true) ∧
    (let s : State := { loadState 5 imgS with ldr := { (loadState 5 imgS).ldr with missing := [(0, 0)], rounds := 8 } }
     s.ldr.missing = [(0, 0)] ∧ 8 ≤ s.ldr.rounds) := by decide

/-- A program of one core for role 0. -/
def progR : Prog := { kCores := 1, fFields := 1, codeSize := 1, roles := [(0, { len := 32, entry := 0x170000 })], placement := [(0, 1)] }

theorem witness_LoadsStoreAndStart_copy :
    let s := loadState 7 imgS
    s.ldr.state = 7 ∧ (progCores s progR).filter (fun x => x.1 == 0) = [(0, 0, 0, 0)] := by decide +kernel


/-- An image that passes the format check: header, section table, no roles, 12 placements and 12 cluster digests. -/
def imgHead : List Byte :=
  leBytes 4 0x50584C49 ++ leBytes 2 1 ++ leBytes 2 3 ++ leBytes 8 20480 ++ leBytes 8 4096 ++ leBytes 1 0 ++ leBytes 1 2 ++
  leBytes 2 0x101 ++ leBytes 4 0 ++ leBytes 2 1
def imgTable : List Byte := sectEntry 3 8192 0 ++ sectEntry 4 8192 24 ++ sectEntry 9 12288 768
def imgOk : List Byte := imgHead ++ (List.replicate 4062 0 ++ (imgTable ++ List.replicate 16288 0))

theorem imgOk_zero (i : Nat) (h : 34 ≤ i) (t : i < 4096 ∨ 4192 ≤ i) : byteAt imgOk i = 0 := by
  have l1 : imgHead.length = 34 := by decide
  have l2 : imgTable.length = 96 := by decide
  have z (n k : Nat) : (List.replicate n (0 : Byte)).getD k 0 = 0 := by
    rw [List.getD_eq_getElem?_getD, List.getElem?_replicate]; split <;> rfl
  unfold byteAt imgOk
  rw [List.getD_append_right _ _ _ _ (by omega), l1]
  rcases t with t | t
  · rw [List.getD_append _ _ _ _ (by rw [List.length_replicate]; omega)]
    exact z _ _
  · rw [List.getD_append_right _ _ _ _ (by rw [List.length_replicate]; omega), List.length_replicate,
      List.getD_append_right _ _ _ _ (by omega)]
    exact z _ _

theorem imgOk_split : imgOk = (imgHead ++ List.replicate 4062 0) ++ (imgTable ++ List.replicate 16288 0) := by
  simp only [imgOk, List.append_assoc]

theorem imgOk_pre : (imgHead ++ List.replicate 4062 (0 : Byte)).length = 4096 := by
  have l1 : imgHead.length = 34 := by decide
  rw [List.length_append, List.length_replicate, l1]

theorem leAt_table (k n : Nat) (h : k + n ≤ 96) : leAt imgOk (4096 + k) n = leAt imgTable k n := by
  have l2 : imgTable.length = 96 := by decide
  unfold leAt
  rw [imgOk_split, ← imgOk_pre, List.drop_append, Nat.add_sub_cancel_left, List.drop_of_length_le (Nat.le_add_right _ _),
    List.nil_append, List.drop_append_of_le_length (by omega), List.take_append_of_le_length (by rw [List.length_drop]; omega)]

theorem byteAt_table (k : Nat) (h : k < 96) : byteAt imgOk (4096 + k) = byteAt imgTable k := by
  have l2 : imgTable.length = 96 := by decide
  unfold byteAt
  rw [imgOk_split, List.getD_append_right _ _ _ _ (by rw [imgOk_pre]; omega), imgOk_pre, Nat.add_sub_cancel_left,
    List.getD_append _ _ _ _ (by omega)]

theorem imgOk_length : imgOk.length = 20480 := by
  have l2 : imgTable.length = 96 := by decide
  rw [imgOk_split, List.length_append, imgOk_pre, List.length_append, List.length_replicate, l2]

theorem zeroBytes_ok (sec lo hi : Nat) (h : 34 ≤ lo) (t : hi ≤ 4096 ∨ 4192 ≤ lo) :
    ∀ c ∈ zeroBytes imgOk sec lo hi, c.1 = true := by
  intro c hc
  obtain ⟨i, hi', rfl⟩ := List.mem_map.1 hc
  rw [List.mem_range] at hi'
  exact beq_iff_eq.2 (imgOk_zero (lo + i) (by omega) (by omega))

theorem zeroTable_ok (sec k n : Nat) (h : k + n ≤ 96) (z : ∀ i, i < n → byteAt imgTable (k + i) = 0) :
    ∀ c ∈ zeroBytes imgOk sec (4096 + k) (4096 + k + n), c.1 = true := by
  intro c hc
  obtain ⟨i, hi', rfl⟩ := List.mem_map.1 hc
  rw [List.mem_range] at hi'
  have e : byteAt imgOk (4096 + k + i) = 0 := by
    rw [Nat.add_assoc, byteAt_table _ (by omega)]
    exact z i (by omega)
  exact beq_iff_eq.2 e

def sects0 : List Sect :=
  [{ no := 0, ty := 3, idx := 0, off := 8192, len := 0 }, { no := 1, ty := 4, idx := 0, off := 8192, len := 24 },
   { no := 2, ty := 9, idx := 0, off := 12288, len := 768 }]

theorem imgOk_sectOff : imgSectOff imgOk = 4096 := by decide +kernel

theorem imgOk_sects : imgSects imgOk = sects0 := by
  have n : leAt imgOk 6 2 = 3 := by decide +kernel
  have g : sects0 = (List.range 3).map fun i =>
      { no := i, ty := leAt imgTable (32 * i) 1, idx := leAt imgTable (32 * i + 2) 2, off := leAt imgTable (32 * i + 8) 8,
        len := leAt imgTable (32 * i + 16) 8 } := by decide +kernel
  rw [g]
  simp only [imgSects, n, imgOk_sectOff]
  refine List.map_congr_left fun i hi => ?_
  rw [List.mem_range] at hi
  simp only [Nat.add_assoc]
  rw [leAt_table _ _ (by omega), leAt_table _ _ (by omega), leAt_table _ _ (by omega), leAt_table _ _ (by omega)]

theorem formatFault_none {m : List Byte} (h : ∀ c ∈ headerChecks m, c.1 = true) (t : ∀ c ∈ sectChecks m, c.1 = true) :
    formatFault m = none := by
  have none_of {l : List FmtCheck} (h : ∀ c ∈ l, c.1 = true) : (l.find? fun c => !c.1) = none :=
    List.find?_eq_none.2 fun c hc => by simp [h c hc]
  simp only [formatFault]
  rw [none_of h, none_of t]
  rfl

theorem witness_LoadsAreChecked_format : formatFault imgOk = none := by
  have l := imgOk_length
  have table : ∀ c ∈ (imgSects imgOk).flatMap fun x => entryChecks imgOk ((imgSects imgOk).take x.no) x, c.1 = true := by
    have no : ∀ x ∈ sects0, x.no < 3 := by decide
    have e1 : ∀ x ∈ sects0, decide (1 ≤ x.ty ∧ x.ty ≤ 9) = true := by decide
    have e2 : ∀ x ∈ sects0, (x.ty == 1 || x.idx == 0) = true := by decide
    have e3 : ∀ x ∈ sects0, (x.off % 4096 == 0 && decide (512 ≤ x.off)) = true := by decide
    have e4 : ∀ x ∈ sects0, x.off + x.len + 4096 ≤ 20480 := by decide
    have e5 : ∀ x ∈ sects0,
        (!((sects0.take x.no).any fun y => y.ty == x.ty && (x.ty != 1 || y.idx == x.idx)) || x.ty == 2) = true := by decide
    have z1 : ∀ x ∈ sects0, ∀ i, i < 1 → byteAt imgTable (32 * x.no + 1 + i) = 0 := by decide
    have z2 : ∀ x ∈ sects0, ∀ i, i < 4 → byteAt imgTable (32 * x.no + 4 + i) = 0 := by decide
    have z3 : ∀ x ∈ sects0, ∀ i, i < 8 → byteAt imgTable (32 * x.no + 24 + i) = 0 := by decide
    intro c hc
    obtain ⟨x, hx, hc⟩ := List.mem_flatMap.1 hc
    rw [imgOk_sects] at hx hc
    have n := no x hx
    simp only [entryChecks, imgOk_sectOff, List.mem_append, List.mem_cons, List.not_mem_nil, or_false] at hc
    rw [l] at hc
    rcases hc with (((((hc | hc) | hc) | hc) | (hc | hc)) | hc) | hc
    · rw [hc]; exact e1 x hx
    · exact zeroTable_ok x.no (32 * x.no + 1) 1 (by omega) (z1 x hx) c (by simpa only [Nat.add_assoc] using hc)
    · rw [hc]; exact e2 x hx
    · exact zeroTable_ok x.no (32 * x.no + 4) 4 (by omega) (z2 x hx) c (by simpa only [Nat.add_assoc] using hc)
    · rw [hc]; exact e3 x hx
    · rw [hc]; simpa using e4 x hx
    · exact zeroTable_ok x.no (32 * x.no + 24) 8 (by omega) (z3 x hx) c (by simpa only [Nat.add_assoc] using hc)
    · rw [hc]; exact e5 x hx
  have kinds : ∀ c ∈ [3, 4, 9].map fun ty => (((sectOf (imgSects imgOk) ty).isSome, 0xFFFF, ty) : FmtCheck), c.1 = true := by
    rw [imgOk_sects]; decide
  have content : ∀ c ∈ (imgSects imgOk).flatMap (contentChecks imgOk), c.1 = true := by
    rw [imgOk_sects]; decide +kernel
  have gaps : ∀ c ∈ (List.range imgOk.length).map fun i => ((byteAt imgOk i == 0 || assigned imgOk i, 0xFFFF, i) : FmtCheck),
      c.1 = true := by
    intro c hc
    obtain ⟨i, -, rfl⟩ := List.mem_map.1 hc
    have n : leAt imgOk 6 2 = 3 := by decide +kernel
    show (byteAt imgOk i == 0 || assigned imgOk i) = true
    by_cases h : i < 512
    · simp [assigned, h]
    · by_cases t : i < 4096 ∨ 4192 ≤ i
      · rw [imgOk_zero i (by omega) t]; rfl
      · have : 4096 ≤ i ∧ i < 4096 + 32 * 3 := by omega
        simp [assigned, imgOk_sectOff, n, this]
  have head : ∀ c ∈ headerChecks imgOk, c.1 = true := by
    intro c hc
    simp only [headerChecks, List.mem_append] at hc
    rw [l] at hc
    rcases hc with (((hc | hc) | hc) | hc) | hc
    · revert c; decide +kernel
    · revert c; decide +kernel
    · revert c; decide +kernel
    · exact zeroBytes_ok _ _ _ (by omega) (by omega) c hc
    · exact zeroBytes_ok _ _ _ (by omega) (by omega) c hc
  have all : ∀ c ∈ sectChecks imgOk, c.1 = true := by
    intro c hc
    simp only [sectChecks, List.mem_append] at hc
    rcases hc with ((hc | hc) | hc) | hc
    · exact table c hc
    · exact kinds c hc
    · exact content c hc
    · exact gaps c hc
  exact formatFault_none head all

/-! A manifest that passes the format check: one source, one shard without slices, no pages. -/

def manHead : List Byte :=
  leBytes 4 0x4D584C49 ++ leBytes 2 1 ++ leBytes 2 0x101 ++ leBytes 8 12288 ++ List.replicate 32 0 ++ leBytes 2 1 ++ leBytes 2 1 ++
  leBytes 4 0 ++ leBytes 8 4096 ++ leBytes 8 4096 ++ leBytes 8 4096
def man0 : List Byte := manHead ++ List.replicate 12208 0

theorem manHead_length : manHead.length = 80 := by decide

theorem man0_length : man0.length = 12288 := by
  unfold man0; rw [List.length_append, List.length_replicate, manHead_length]

theorem man0_tail (k n : Nat) (h : 80 ≤ k) (t : k + n ≤ 12288) : (man0.drop k).take n = List.replicate n 0 := by
  unfold man0
  rw [List.drop_append, List.drop_of_length_le (by rw [manHead_length]; omega), List.nil_append, List.drop_replicate,
    manHead_length, List.take_replicate]
  congr 1; omega

theorem man0_sources : entries man0 4096 32 1 = [List.replicate 32 0] := by
  show [(man0.drop (4096 + 32 * 0)).take 32] = _
  rw [man0_tail _ _ (by omega) (by omega)]

theorem man0_shards : entries man0 4096 128 1 = [List.replicate 128 0] := by
  show [(man0.drop (4096 + 128 * 0)).take 128] = _
  rw [man0_tail _ _ (by omega) (by omega)]

theorem man0_places : manSrc man0 = (4096, 1) ∧ manShard man0 = (4096, 1) ∧ manSlice man0 = (4096, 0) := by decide +kernel

def manP : Manifest :=
  { fFields := 1, wafers := 1, modelId := List.replicate 16 0, pages := [0, 0, 0, 0], sources := [List.replicate 32 0],
    shards := [parseShard (List.replicate 128 0)], slices := [], instDig := instDigest man0 }

theorem man0_parse : parseManifest man0 = manP := by
  obtain ⟨a, b, c⟩ := man0_places
  have f : leAt man0 6 1 = 1 := by decide +kernel
  have w : leAt man0 7 1 = 1 := by decide +kernel
  have m : (man0.drop 16).take 16 = List.replicate 16 0 := by decide +kernel
  have p : ((List.range 4).map fun w => leAt man0 (32 + 4 * w) 4) = [0, 0, 0, 0] := by decide +kernel
  have z : entries man0 4096 128 0 = [] := rfl
  simp only [parseManifest, a, b, c, f, w, m, p, z, man0_sources, man0_shards, List.map_nil, List.map_cons]
  rfl

theorem man0_gaps : gapsZero man0 = true := by
  obtain ⟨a, b, c⟩ := man0_places
  simp only [gapsZero, List.all_eq_true]
  intro ⟨x, i⟩ h
  by_cases t : i < 80
  · simp [t]
  · have g : man0[i]? = some x := List.mem_zipIdx_iff_getElem?.1 h
    have z : x = 0 := by
      unfold man0 at g
      rw [List.getElem?_append_right (by rw [manHead_length]; omega), List.getElem?_replicate] at g
      split at g
      · exact (Option.some.inj g).symm
      · cases g
    simp [z]

theorem man0_format : manFormatOk man0 = true := by
  obtain ⟨a, b, c⟩ := man0_places
  have s : shardFmtOk man0 (List.replicate 128 0) = true := by decide +kernel
  have h : leAt man0 0 4 = 0x4D584C49 ∧ leAt man0 4 2 = 1 ∧ leAt man0 8 8 = 12288 := by decide +kernel
  have z : entries man0 4096 128 0 = [] := rfl
  have o : sourceOk (List.replicate 32 0) = true := by decide
  unfold manFormatOk tableOk
  rw [man0_parse, man0_gaps, a, b, c, man0_length, h.1, h.2.1, h.2.2, man0_shards, z]
  simp only [List.all_cons, s, List.all_nil, manP, o]
  decide

/-! ### States that meet the hypotheses: the weight store and the KV store -/

/-- A manifest of one shard with two slices of four pages and no bytes in clusters 0 and 1; d is the first one's digest. -/
def manS (d : List Byte) : Manifest :=
  { fFields := 1, wafers := 1, pages := [4, 0, 0, 0], shards := [{ form := 2, nsl := 2 }]
    slices := [{ npages := 4, digest := d }, { cluster := 1, npages := 4 }] }

/-- base0 without a program, with weight-store slots. -/
def wstState (l : Table WSlot) (w : Wst) : State := { base0 with plane := {}, ldr := {}, wst := { w with slots := l } }

theorem witness_WeightStoreCommands_slots :
    (let s := wstState [(0, { st := 3, bound := true })] {}
     tablesOk s = true ∧ s.wst.busy = false ∧ s.wst.abortReq = false ∧ s.pwr.state = 5 ∧ 0 < gradeWt s ∧ (s.wslot s.wst.slot.toNat).st ≠ 0 ∧
     (s.wslot s.wst.slot.toNat).st ≠ 4 ∧ (s.wslot s.wst.slot.toNat).bound = true ∧
     slotOfPage s 0 0 0 = none ∧ slotOfPage { s with wst := { s.wst with rpage := 3 <<< 34 } } 0 3 0 = none) ∧
    (let s := wstState [(3, { st := 3, man := manS [], base := [0, 0, 0, 0] })] { slot := 3, rpage := 1 <<< 24 ||| 3 }
     tablesOk s = true ∧ (s.wslot s.wst.slot.toNat).st = 3 ∧ (s.wslot s.wst.slot.toNat).bound = false ∧
     slotOfPage s 1 0 3 = some (3, 3) ∧ sliceOfPage (s.wslot 3).man 1 0 3 = some (0, 1)) ∧
    (let s : State := { wstState [] { field := 5 } with bg := { base0.bg with fieldSt := [(46, 1), (47, 1)] } }
     freeSpares s = 0 ∧ s.wst.fenced.contains s.wst.field.toNat = false ∧ s.wst.sub = none) ∧
    (let s := wstState [] { field := 5, fenced := [5] }
     s.wst.fenced = [s.wst.field.toNat] ∧ s.wst.sub = none ∧ sparesOf s = [46, 47] ∧ pfieldOf s s.wst.field.toNat = some 5) := by
  decide

/-- The two signature checks of a manifest are the owner's; every other check of the install is met. -/
theorem witness_WeightStoreCommands_install (a b : List Byte)
    (e : edVerify a (bodyDigest man0) ((man0.drop (man0.length - 4096)).take 64) = true)
    (q : mlVerify b [] (bodyDigest man0) ((man0.drop (man0.length - 4096 + 64)).take 3309) = true) :
    let v := (wstBegun (owned (wstState [] {}) a b) 1).setWslot 0 { st := 1 }
    ((owned (wstState [] {}) a b).wslot 0).st = 0 ∧ manResult v man0 = 0 ∧ allocBases v (parseManifest man0) = some [0, 0, 0, 0] := by
  intro v
  have h : edOk v man0 = true := owned_edOk rfl e
  have g : mlOk v man0 = true := owned_mlOk rfl rfl q
  have w : gradeWt v = 4 := rfl
  refine ⟨rfl, ?_, ?_⟩
  · simp only [manResult, man0_parse, man0_format, h, g, w]
    decide
  · rw [man0_parse]
    rfl

theorem witness_WeightStoreCommands_resume (a b : List Byte)
    (e : edVerify a (bodyDigest man0) ((man0.drop (man0.length - 4096)).take 64) = true)
    (q : mlVerify b [] (bodyDigest man0) ((man0.drop (man0.length - 4096 + 64)).take 3309) = true) :
    let s := owned (wstState [(0, { st := 4, man := parseManifest man0, missing := [{ reason := 2 }] })] {}) a b
    let x := s.wslot 0
    x.st = 4 ∧ manFormatOk man0 = true ∧ edOk (wstBegun s 2) man0 = true ∧ mlOk (wstBegun s 2) man0 = true ∧
    (parseManifest man0).instDig = x.man.instDig ∧ x.missing = [{ reason := 2 }] ∧
    0 < (withSources x.man (parseManifest man0)).shards.length := by
  refine ⟨rfl, man0_format, owned_edOk rfl e, owned_mlOk rfl rfl q, rfl, rfl, ?_⟩
  show 0 < (withSources (parseManifest man0) (parseManifest man0)).shards.length
  rw [man0_parse]
  decide

/-- An install of slot 1 that waits for the first of two slices. -/
def ctl0 (n : Nat) : ShardCtl := { shard := 0, todo := [0, 1], refetch := n }
def installing (n : Nat) (d : List Byte) : State :=
  wstState [(0, { st := 6 }), (1, { st := 2, man := manS d })] { busy := true, lastCmd := 1, lastSlot := 1, ctls := [ctl0 n] }

theorem witness_WeightStoreSessions (n : Nat) (d : List Byte) :
    let s := installing n d
    s.wst.ctls = [ctl0 n] ∧ (ctl0 n).st = 0 ∧ (ctl0 n).todo = [0, 1] ∧ s.wst.lastCmd = 1 ∧ s.wst.subCmd = none ∧ sessionRuns s = true ∧
    (s.wslot s.wst.lastSlot).st = 2 ∧ (s.wslot 0).st = 6 ∧ 0 ≠ s.wst.lastSlot := by
  refine ⟨rfl, rfl, rfl, rfl, rfl, rfl, rfl, rfl, Nat.zero_ne_one⟩

theorem witness_WeightStoreSessions_slices :
    tablesOk (installing 3 (sha512 [])) = true ∧
    (let e := (manS (sha512 [])).slices.getD 0 {}
     ([] : List Byte).length = e.slen ∧ sha512 [] = e.digest ∧
     layForm ((manS (sha512 [])).shards.getD 0 {}).form e [] = some []) ∧
    sha512 [] ≠ ((manS []).slices.getD 0 {}).digest ∧ (ctl0 3).refetch < 4 ∧ 4 ≤ (ctl0 4).refetch := by
  refine ⟨by decide +kernel, ⟨rfl, rfl, rfl⟩, fun h => ?_, by decide, by decide⟩
  exact absurd (congrArg List.length h) (by rw [Laws.sha512_length]; decide)

theorem witness_PagesAndSubstitutions :
    (memOk base0 = true ∧ base0.ldr.state = 8) ∧
    (let s := wstState [] { newRemap := [(pageKey 575 3 8388607, 9)] }
     memOk s = true ∧ s.ldr.state ≠ 8 ∧ s.wst.newRemap = [(pageKey 575 3 8388607, 9)]) ∧
    (let s := wstState [(0, { st := 3, man := manS [], base := [0, 0, 0, 0] })] {}
     lclOf s 1 = some 1 ∧ 4 ≤ s.pwr.state ∧ slotOfPage s 1 0 3 ≠ none ∧ lendsChannel s 1 0 = true ∧ s.wst.refreshQ = [] ∧
     s.wst.wear = [] ∧ tget 0 s.wst.spareUsed 4 < 131072 ∧ 0 < gradeWt s) ∧
    (let s := wstState [] { fenced := [45] }
     s.wst.autoSub = true ∧ s.bg.ready = true ∧ s.wst.sub = none ∧ s.wst.fenced = [45] ∧ sparesOf s = [46, 47] ∧
     pfieldOf s 45 = some 45) ∧
    (let s := wstState [] { sub := some { lfield := 0, lost := 0, spare := 46 } }
     s.wst.sub = some { lfield := 0, lost := 0, spare := 46 } ∧ s.pwr.state = 5 ∧ loading s = false ∧ s.wst.fenced = [] ∧
     s.wst.subCmd = none ∧ s.wst.wear = [] ∧ 0 ≠ 46) := by decide

/-- base0 without a program, with KV registers written but not applied. -/
def kvWritten : State :=
  { base0 with plane := {}, ldr := {}, kv := { cfg := kvCfg0.cfg, area := kvCfg0.area } }

theorem witness_KvStoreCommands :
    kvResult State.reset (writtenKv State.reset) ≠ 0 ∧ kvResult kvWritten (writtenKv kvWritten) = 0 ∧ base0.ldr.state = 8 ∧
    (1152 * 2 ^ 26 - 1) * 64 / 2 ^ 32 % 2 < gradeKv base0 ∧ 0 * 64 / 2 ^ 32 % 2 < gradeKv base0 ∧ 4 ≤ base0.pwr.state := by
  decide

/-! ### States that meet the hypotheses: the hub -/

/-- kvCfg0 with two regions of 1,024 tokens in class 0. -/
def kvCfg1 : KvCfgA := { kvCfg0 with cls := (2 <<< 32 ||| 1024) :: List.replicate 7 0 }

/-- Tenant 5: enabled, rings on, 10 tokens in its gauge, one adapter slot, a snowpack area of 64 extents kept for a minute. -/
def tenant0 : Tenant :=
  { sqBase := 1 <<< 11, oqBase := 1 <<< 11, eqBase := 1 <<< 11, mse := true, bme := true, level := 10, gCfg := 100 <<< 32 ||| 10, quota := 1
    snpA := 1 <<< 63, snpC := 60 <<< 32 ||| 64 }

def progH : Prog := { prog0 with pPos := 8, kMax := 7 }

/-- base0 with tenant 5, the configuration and hub contents, time 1,000 us. -/
def hubState (h : Hub) : State :=
  { base0 with
    tenants := [(5, tenant0)]
    kv := { app := kvCfg1 }
    ldr := { state := 8, prog := some progH, lastProg := some progH }
    hub := { h with time := 1000 } }

/-- A request entry of 64 bytes: command, tag 9, a count, an adapter. -/
def entry0 (cmd count ad : Nat) : List Byte :=
  leBytes 8 cmd ++ leBytes 8 9 ++ leBytes 8 0 ++ leBytes 8 count ++ leBytes 8 ad ++ leBytes 24 0

/-- A parameter block: class 0, top-p 1.0, 100 tokens at most. -/
def params0 : List Byte := leBytes 12 0 ++ leBytes 4 0x3F800000 ++ leBytes 4 0 ++ leBytes 4 100 ++ leBytes 232 0

theorem witness_TicksAndBoundaries :
    (State.reset.pwr.off = true ∧ tablesOk State.reset = true) ∧
    (let s := hubState { fresh := [5, 6] }
     tablesOk s = true ∧ s.pwr.off = false ∧ (s.hub.queue.all fun r => reqCmd r.entry != 6) = true ∧ s.bg.virRetryAt = none ∧
     1 < s.hub.fresh.length) ∧
    (let k : Core := { core0 with issue := .front 30 1 20 true 0x170000 }
     let s : State := { hubState {} with plane := (onCore k).plane }
     s.running = true ∧ s.pwr.state = 5 ∧ atStepFront s = true ∧ s.hub.committedOk = false) ∧
    ((hubState { committedOk := true }).running = true ∧ (hubState { committedOk := true }).hub.committedOk = true) ∧
    (let s := loadingAt 0
     s.running = false ∧ s.hub.slots = [] ∧ s.hub.queue = [] ∧ s.hub.adps = [] ∧ s.hub.uploads = []) ∧
    (let s := hubState { adps := [(63, { st := 1, tenant := 5, body := [1] })] }
     tablesOk s = true ∧ (s.adp 63).st = 1 ∧ (s.adp 63).done = false ∧ s.hub.uploads = []) := by decide +kernel

theorem witness_RequestRows :
    tenantEnabled (hubState {}) 5 = true ∧ tablesOk (hubState {}) = true ∧ tenantEnabled (hubState {}) 6 = false ∧
    (hubState {}).host.hdmOn = false := by decide

/-- A request that waits, of tenant 5 with tag 9. -/
def req0 (cmd count ad : Nat) : Req :=
  reqOf 5 { entry := rowEntry cmd (entry0 cmd count ad), blk := some params0, toks := some (leBytes 12 1) }

theorem witness_BoundaryActsOnRequests_start :
    let r := req0 1 3 0
    (let s := hubState { queue := [r] }
     tablesOk s = true ∧ r.tenant < 256 ∧ s.hub.queue = [r] ∧ s.hub.admitOff = false ∧ s.host.linkHeld = false ∧ r.bad = [] ∧
     reqCmd r.entry = 1 ∧ reqFormatBad r.entry = false ∧ startBlock s r = some params0 ∧ startReject s r params0 = none ∧
     startPrompt s r params0 = some (leBytes 12 1) ∧ freeSlotNo s = some 0 ∧ freeRegion s (pbClass params0) = some 0 ∧
     0 < (s.tenant 5).level ∧ pbAdapter params0 = 0 ∧ waitsFill s r (tokList (leBytes 12 1) 3) = false) ∧
    (let s := hubState { slots := [(0, { st := 3, tenant := 5, tag := 9, hasRegion := true }), (1, { st := 3, tenant := 5, tag := 8, hasRegion := true, region := 1 })] }
     startReject s r params0 = some 2 ∧ freeRegion s (pbClass params0) = none ∧
     startReject s { r with entry := leBytes 8 1 ++ leBytes 8 7 ++ r.entry.drop 16 } params0 = none) ∧
    (({ hubState {} with tenants := [(5, { tenant0 with level := 0 })] } : State).tenant 5).level ≤ 0 ∧
    (hubState { admitOff := true }).hub.admitOff = true ∧
    freeSlotNo (hubState { slots := (List.range 256).map fun n => (n, { st := 3 }) }) = none := by decide +kernel

/-- A park record of tenant 5's sequence with tag 9. -/
def rec0 : ParkRec := { tenant := 5, tag := 9, parkId := 4, expiry := 1001, next := 2, seq := { committed := 20, st := 3 } }

theorem witness_BoundaryActsOnRequests_parked :
    let s := hubState { parked := [rec0] }
    let r := { req0 2 3 0 with acked := true }
    (tablesOk s = true ∧ reqFormatBad (req0 2 3 0).entry = false ∧ (req0 2 3 0).acked = false ∧ reqCount (req0 2 3 0).entry ≠ 0 ∧
     reqFormatBad (req0 4 0 0).entry = false ∧ slotOf s 5 9 = none ∧ recOf s 5 9 = some rec0 ∧ s.now < rec0.expiry) ∧
    recBusy s rec0 = false ∧ freeSlotNo s = some 0 ∧ freeRegion s rec0.seq.cls = some 0 ∧ 0 < (s.tenant 5).level ∧
    rec0.seq.adpId = 0 ∧ fillsNext s rec0.seq.scope rec0.seq.hashes = false ∧ r.bad = [] ∧ r.acked = true ∧
    contTokens s r = some (leBytes 12 1) ∧ (progOf s).pPos ≠ 0 ∧
    rec0.seq.committed + rec0.seq.pending.length + reqCount r.entry < maxLenOf s rec0.seq ∧
    slotOf (hubState {}) 5 9 = none ∧ recOf (hubState {}) 5 9 = none := by decide +kernel

theorem witness_BoundaryActsOnRequests_live :
    let q : Seq := { st := 3, tenant := 5, tag := 9, committed := 20 }
    let s (q : Seq) := hubState { slots := [(255, q)] }
    (tablesOk (s q) = true ∧ slotOf (s q) 5 9 = some 255 ∧ reqFormatBad (req0 3 0 0).entry = false ∧ ((s q).slot 255).st = 3 ∧
     ((s q).slot 255).stopNow = false ∧ snpOn (s q) 5 = true ∧ (s q).hub.parked = [] ∧
     ((s q).hub.slots.all fun e => e.2.st != 5) = true ∧
     allExtents (s q) ((s q).slot 255) ≤ bits ((s q).tenant 5).snpC.toNat 31 0 ∧ reqFormatBad (req0 5 0 0).entry = false) ∧
    ((s { q with st := 5 }).slot 255).st = 5 ∧ slotOf (s { q with stopNow := true }) 5 9 = some 255 ∧
    ((s { q with stopNow := true }).slot 255).stopNow = true := by decide +kernel

theorem witness_BoundaryActsOnRequests_boundary :
    let k : Core := { core0 with issue := .front 30 1 20 true 0x170000 }
    let s : State := { hubState { queue := [req0 3 0 0] } with plane := (onCore k).plane }
    s.running = true ∧ s.pwr.state = 5 ∧ atStepFront s = true ∧ s.hub.committedOk = false := by decide +kernel

/-- An adapter image without a body, with the digest d. -/
def adapter0 (d : List Byte) : List Byte :=
  [0x49, 0x4C, 0x58, 0x41] ++ leBytes 2 1 ++ leBytes 2 8 ++ leBytes 56 0 ++ d

theorem witness_RequestsAct_adapters :
    (let e := rowEntry 6 (entry0 6 128 3)
     let s := hubState {}
     tenantEnabled s 5 = true ∧ reqFormatBad (reqOf 5 { entry := e }).entry = false ∧ reqAdapter e ≠ 0 ∧
     imageBad (adapter0 sha0) 128 = false ∧ reqCount e = 128 ∧ (adapter0 sha0).length - 128 ≤ adpSlotBytes s ∧
     sha512 ((adapter0 sha0).drop 128) = ((adapter0 sha0).drop 64).take 64 ∧ adpFree s = some 0 ∧
     adpHeld s 5 < bits (s.tenant 5).quota.toNat 6 0 ∧ imageBad (adapter0 (leBytes 64 0)) 128 = false ∧
     sha512 ((adapter0 (leBytes 64 0)).drop 128) ≠ ((adapter0 (leBytes 64 0)).drop 64).take 64 ∧
     bits ((hubState { adps := [(8, { st := 2, tenant := 5, id := 3 })] }).tenant 5).quota.toNat 6 0 ≤
       adpHeld (hubState { adps := [(8, { st := 2, tenant := 5, id := 3 })] }) 5) ∧
    (let r := req0 7 0 3
     let a : Adp := { st := 2, tenant := 5, id := 3 }
     let s := hubState { adps := [(8, a)] }
     let p := hubState { adps := [(8, a)], slots := [(0, { st := 3, tenant := 5, adp := some 8 })] }
     tablesOk s = true ∧ tablesOk p = true ∧ reqFormatBad r.entry = false ∧ r.acked = false ∧ reqAdapter r.entry ≠ 0 ∧
     newestAdp s 5 3 = some 8 ∧ pinsOf s 8 = 0 ∧ s.hub.uploads = [] ∧ newestAdp p 5 3 = some 8 ∧ pinsOf p 8 ≠ 0) := by
  decide +kernel

theorem witness_SnowpackActs :
    (let s := hubState { slots := [(1, { st := 5, tenant := 5, attempts := 1 })] }
     tablesOk s = true ∧ 4 ≤ s.pwr.state ∧ 0 < gradeKv s ∧ (s.slot 1).st = 5 ∧ (s.slot 1).attempts < 2 ∧
     2 ≤ ((hubState { slots := [(1, { st := 5, attempts := 2 })] }).slot 1).attempts) ∧
    (let s (w : Nat) := hubState { slots := [(1, { st := 4, tenant := 5, retryAt := some w })] }
     (s 1001).now < 1001 ∧ 1000 ≤ (s 1000).now ∧ ((s 1000).slot 1).st = 4 ∧ ((s 1000).slot 1).retryAt = some 1000 ∧
     snpOn (s 1000) 5 = true ∧ (s 1000).hub.parked = [] ∧ ((s 1000).hub.slots.all fun e => e.2.st != 5) = true ∧
     allExtents (s 1000) ((s 1000).slot 1) ≤ bits ((s 1000).tenant 5).snpC.toNat 31 0) ∧
    (let q : Seq := { st := 7, tenant := 5, parkId := 4 }
     let r : ParkRec := { rec0 with tgt := 1 <<< 62 }
     let s : State := { hubState { slots := [(1, q)], parked := [r] } with ldr := { lastProg := some progH } }
     let body := leBytes 6 0 ++ leBytes 2 5 ++ leBytes 8 9 ++ leBytes 8 4
     (s.slot 1).st = 7 ∧ (s.hub.parked.find? fun x => x.parkId == (s.slot 1).parkId) = some r ∧
     s.ldr.lastProg = some progH ∧ s.running = false ∧ (s.slot 1).contd = false ∧ r.seq.adpId = 0 ∧ r.seq.hashes = [] ∧
     recOpen s r (recRead s r 0 (recLen s r) body) (recRead s r (r.dext * 2 ^ 20) (16 * r.dext) []) = some [] ∧
     (List.range 16).map (byteAt ((recRead s r 0 (recLen s r) body).drop 128)) = (List.range 16).map (byteAt progH.modelId) ∧
     (List.range 64).map (byteAt ((recRead s r 0 (recLen s r) body).drop 64)) = (List.range 64).map (byteAt progH.instDig) ∧
     recOpen s r [] [] = none ∧ ({ r with epoch := 1 } : ParkRec).epoch ≠ (tepochOf s 5).toNat ∧ 4 ≠ (s.slot 1).order) ∧
    (let s := hubState { parked := [rec0] }
     s.hub.parked.find? (fun x => x.parkId == rec0.parkId) = some rec0 ∧ s.now < rec0.expiry ∧ recBusy s rec0 = false ∧
     ({ rec0 with expiry := 1000 } : ParkRec).expiry ≤ s.now) := by decide +kernel

/-! ### States that meet the hypotheses: the host -/

/-- hubState with tenant 5 as given. -/
def withTenant (k : Tenant) : State := { hubState {} with tenants := [(5, k)] }

theorem witness_RingsAndFunctions :
    (let s := withTenant tenant0
     tablesOk s = true ∧ (s.tenant 5).draining = false ∧ ringOcc (s.tenant 5).oqE 0 ≤ ringSize (s.tenant 5).oqBase ∧
     ringSize (s.tenant 5).oqBase < ringOcc (s.tenant 5).oqE 1 ∧ (s.tenant 5).sqH = (s.tenant 5).sqE ∧ tenantEnabled s 5 = true ∧
     ringEn (s.tenant 5).sqBase = true ∧ ringOcc 1 (s.tenant 5).sqE = 1 ∧ (entry0 1 3 0).length = 64 ∧
     ringSize (s.tenant 5).sqBase < ringOcc 65 (s.tenant 5).sqE ∧ evtDue s 5 = false ∧ 5 < s.host.numVFs ∧ s.host.vfEn = true ∧ s.host.hdmOn = false) ∧
    (let s := withTenant { tenant0 with evtMod := 0x01000100, evtNew := 1, tokNew := 1 }
     tablesOk s = true ∧ evtDue s 5 = true ∧ tokDue s 5 = true) ∧
    (let s := withTenant { tenant0 with draining := true }
     tablesOk s = true ∧ (s.tenant 5).draining = true) ∧
    ({ (withTenant tenant0) with adc := { scGo := true } } : State).adc.scGo = true ∧ (loadingAt 1).ldr.state = 1 ∧
    8 ≤ (hubState {}).ldr.state := by decide +kernel

theorem witness_LinkAndHostReads :
    (let s : State := { base0 with host := { linkUp := true }, pnl := { pres := 1 <<< 17 } }
     s.host.linkUp = true ∧ s.bg.ready = true ∧ bit s.pnl.pres.toNat 17 = true) ∧
    (bit base0.pnl.pres.toNat 17 = false ∧ base0.host.linkUp = false ∧ (loadingAt 1).ldr.state = 1) ∧
    (let r : Req := { tenant := 5, entry := leBytes 16 1 ++ leBytes 8 0x1000 ++ leBytes 40 0 }
     ((hubState {}).hub.queue = [] ∧ ringTenant (hubState {}) 63 = some 5) ∧ (hubState { queue := [r] }).hub.queue = [r] ∧ reqCmd r.entry = 1 ∧ inRun 0x10FF (leAt r.entry 16 8) 256 = true) ∧
    (let q : Seq := { st := 7, parkId := 4 }
     let s := hubState { slots := [(1, q)], parked := [rec0] }
     s.hub.slots = [(1, q)] ∧ q.st = 7 ∧ s.hub.parked = [rec0] ∧ rec0.parkId = q.parkId ∧ bit rec0.tgt.toNat 62 = false ∧
     inRun 0x1FFFFF (extentAddr rec0.base rec0.ext) (rec0.next * 2 ^ 20) = true) ∧
    (let s : State := { hubState {} with host := { hdmSize := 2 ^ 28 } }
     0 % 64 = 0 ∧ s.bg.ready = true ∧ 0 + 64 ≤ s.host.hdmSize ∧ 0 + 64 ≤ stagingSize s ∧ (List.replicate 64 (0 : Byte)).length = 64 ∧
     s.host.hdmSize < 2 ^ 28 + 1) ∧
    (let s : State := { base0 with host := { hdmSize := 2 ^ 28 } }
     stagingSize s < 0 + 64) := by decide +kernel

/-- A ready queue pair of port 0 and tenant 5, window 0. -/
def ctx0 : List Byte := leBytes 4 1 ++ leBytes 2 5 ++ leBytes 58 0

theorem witness_MailboxAnswers :
    tablesOk base0 = true ∧ mboxUp State.reset = false ∧ mboxUp base0 = true ∧ base0.host.stamp = 0 ∧ base0.host.stampAt = 0 ∧
    (let s : State := { hubState {} with host := { stamp := 7, stampAt := 1000 } }
     mboxUp s = true ∧ s.host.stamp ≠ 0 ∧ s.host.stampAt ≤ s.now) ∧
    0 + 68 ≤ 68 ∧ 68 < 1 + 68 ∧ ctxOk ctx0 = true ∧ ctxOk (leBytes 64 2) = false ∧
    portAddrOk (leBytes 48 11) = true ∧ portAddrOk (leBytes 48 12) = false ∧ mboxOps.contains 0x0002 = false := by decide +kernel

/-! ### States that meet the hypotheses: security and fabric -/

/-- base0 with a held nonce and owner keys; the payload of n zeros names the nonce. -/
def secState (n : Nat) (ed : List Byte) : State :=
  { base0 with sec := { edKey := some ed, nonce := some ((List.replicate n (0 : Byte)).take 32) } }

theorem witness_SecurityCommands_presence :
    let s (k : Option (List Byte)) : State := { base0 with sec := { edKey := k }, pnl := { presUntil := some 1 }, ldr := {} }
    mboxUp (s none) = true ∧ present base0 = false ∧ present (s none) = true ∧ (List.replicate 1984 (0 : Byte)).length = 1984 ∧
    (List.replicate 1983 (0 : Byte)).length ≠ 1984 ∧ (s (some [])).sec.edKey ≠ none ∧ (s none).sec.edKey = none ∧
    clearRefused { s (some []) with pnl := { (s (some [])).pnl with presUntil := none } } = 0 := by
  simp only [List.length_replicate]
  decide

theorem witness_SecurityCommands_rotate (ed : List Byte) :
    let s := secState 3409 ed
    let p : List Byte := List.replicate 3409 0
    p.length = 3409 ∧ s.sec.edKey = some ed ∧ s.sec.nonce = some (p.take 32) ∧ base0.sec.edKey = none ∧
    leAt p 32 2 = 0 ∧ rotateRefused p { s with sec := { s.sec with nonce := none } } = 0 ∧
    ({ s with sec := { s.sec with nonce := none } } : State).sec.nonce ≠ some (p.take 32) := by
  refine ⟨List.length_replicate, rfl, rfl, rfl, by decide +kernel, ?_, fun h => nomatch h⟩
  have l : leAt (List.replicate 3409 0) 32 2 = 0 := by decide +kernel
  have r : leAt (List.replicate 3409 0) 34 2 = 0 := by decide +kernel
  simp only [rotateRefused, l, r]
  rfl

/-- The signatures are the owner's; every other condition of a replacement of the owner keys is met. -/
theorem witness_SecurityCommands_replace (ed : List Byte) :
    let s := secState 8762 ed
    let p : List Byte := List.replicate 8762 0
    p.length = 8762 ∧ s.sec.edKey = some ed ∧ s.sec.nonce = some (p.take 32) ∧
    replaceRefused { { s with ldr := {} } with sec := { s.sec with nonce := none } } = 0 := by
  exact ⟨List.length_replicate, rfl, rfl, rfl⟩

theorem witness_SecurityCommands_lengths :
    (256 : BitVec 16).toNat = 256 ∧ (255 : BitVec 16).toNat < 256 ∧ (List.replicate 32 (0 : Byte)).length = 32 ∧
    ([] : List Byte).length ≠ 32 := by decide

/-- Tenant 5 with window 0 open for pushes and arrivals: 2 KiB of the memory of cluster 0, 512 bytes a send, key 7. -/
def winTenant : Tenant :=
  { tenant0 with
    winA := [(0, 7 <<< 61 ||| 0x20 <<< 32)], winB := [(0, 7 <<< 32 ||| 1 <<< 28 ||| 8)], pCtl := 1 <<< 63 ||| 1 }

def fabState (q : Qp) : State :=
  { withTenant winTenant with
    plane := { (onCore core0).plane with cores := [(0, core0)] }, host := { qps := [(3, q)] } }

theorem witness_FabricMessages_arrivals :
    let q : Qp := { ctx := ctx0, st := 1 }
    let s := fabState q
    let a := winA s 5 0
    let b := winB s 5 0
    let d : List Byte := List.replicate 256 0
    tablesOk s = true ∧ roceOk s 3 {} = true ∧ roceOk s 3 { udp := 80 } = false ∧ (s.qp 3).st = 1 ∧ s.running = true ∧
    qpTenant (s.qp 3) = some 5 ∧ winByKey s 5 6 = none ∧ winByKey s 5 7 = some 0 ∧ winFits s a b (2048 - 256) d.length = true ∧
    winFits s a b 2048 d.length = false ∧ winPcl s a = some 0 ∧ winUnit a = 0x20 ∧
    (unitPlace s 0 (winUnit a) (winOff a + 1792)).isSome = true ∧ s.plane.sramErr = [] ∧ (byteAt (s.qp 3).ctx 7).toNat = 0 ∧
    bit a.toNat 61 = true ∧ bits b.toNat 31 28 ≠ 0 ∧ 256 * 2 ^ bits b.toNat 31 28 ≤ winLen b ∧
    d.length ≤ 256 * 2 ^ bits b.toNat 31 28 := by decide +kernel

theorem witness_FabricMessages_pairs :
    ((fabState {}).qp 3).st ≠ 1 ∧ ({ fabState { ctx := ctx0, st := 1 } with ldr := {} } : State).running = false ∧
    ((fabState { st := 1, retries := 6 }).qp 3).retries < 7 ∧ 7 ≤ ((fabState { st := 1, retries := 7 }).qp 3).retries ∧
    ((fabState { st := 1, rnr := 6 }).qp 3).rnr < 7 ∧ 7 ≤ ((fabState { st := 1, rnr := 7 }).qp 3).rnr ∧
    ((fabState { st := 1, cnps := 9 }).qp 3).st ≠ 0 ∧ 0 < ((fabState { st := 1, cnps := 9 }).qp 3).cnps ∧
    ((fabState { st := 1 }).qp 3).cnps = 0 := by decide +kernel

theorem witness_PushesAndWindowWrites :
    (let s := fabState { st := 1 }
     let v := (s.tenant 5).pCtl
     let a := winA s 5 0
     let b := winB s 5 0
     let d : List Byte := List.replicate 256 0
     tablesOk s = true ∧ coresOk s = true ∧ memOk s = true ∧ tenantEnabled s 5 = true ∧ tenantEnabled s 6 = false ∧
     bits v.toNat 62 61 = 0 ∧ d.length = 256 * bits v.toNat 19 0 ∧ d ≠ [] ∧ s.running = true ∧ bit a.toNat 62 = true ∧
     winFits s a b (256 * bits v.toNat 43 24) d.length = true ∧ winPcl s a = some 0 ∧ (loadingAt 0).running = false) ∧
    (let j : DmaJob := { pcl := 575, unit := 0x20, off := 100, data := List.replicate 300 1, core := some 18400, cc := 5 }
     let s : State := { base0 with plane := { base0.plane with dma := [j] } }
     s.pending = [] ∧ s.plane.clockOn = true ∧ s.plane.dma = [j] ∧ j.unit = 0x20 ∧ j.data ≠ [] ∧ j.pcl < 576 ∧
     j.off + j.data.length ≤ cmSize ∧ s.plane.cores = [] ∧ s.plane.packets = [] ∧ s.plane.pays = [] ∧ s.plane.kvs = [] ∧
     s.plane.hputs = [] ∧ s.plane.xfers = [] ∧ s.plane.wlds = [] ∧ s.plane.relGo = false ∧ s.plane.sramErr = [] ∧
     min j.data.length (256 - j.off % 256) < j.data.length ∧
     min 1 (256 - 100 % 256) = [(1 : Byte)].length) := by decide +kernel

/-- base0 with port 11 as given and a cable present in it. -/
def portState (x : FPort) (l : Table Qp) : State :=
  { base0 with host := { ports := [(11, x)], qps := l }, pnl := { pres := 1 <<< 11 } }

theorem witness_FabricPorts :
    (let x : FPort := { en := true, st := 2, run := 1, addr := leBytes 48 11 }
     let s := portState x []
     tablesOk s = true ∧ (s.port 11).st = 2 ∧ s.host.qps = [] ∧ (s.port 11).run = 1 ∧ (s.port 11).en = true ∧
     portUp (s.port 11) false = true ∧ frameOk (s.port 11) false {} = true ∧ frameOk (s.port 11) false { tags := 2 } = false ∧
     (portAddr (s.port 11) false).length = 48 ∧ leBytes 4 0 = ((portAddr (s.port 11) false).drop 16).take 4 ∧
     leBytes 4 1 ≠ ((portAddr (s.port 11) false).drop 16).take 4 ∧ leBytes 4 1 ≠ ((portAddr (s.port 11) false).drop 32).take 16) ∧
    (let q : Qp := { ctx := [1, 11], st := 1 }
     let s := portState { en := true, st := 2 } [(3, q)]
     tablesOk s = true ∧ (s.port 11).st = 2 ∧ s.host.qps = [(3, q)] ∧ q.st = 1 ∧ qpPort q = 11 ∧ s.hub.slots = [] ∧ s.wst.ctls = []) ∧
    (let s := portState { en := true, st := 1 } []
     tablesOk s = true ∧ bit s.pnl.pres.toNat 11 = true ∧ 2 ≤ s.pwr.state ∧ (s.port 11).en = true ∧ (s.port 11).st ≠ 2 ∧
     (s.port 11).st < 2 ∧ bit s.pnl.pres.toNat 10 = false ∧ portUp (s.port 11) false = false) ∧
    (let v : BitVec 64 := 1 <<< 63 ||| 2 <<< 61
     (base0.port 0).en = false ∧ bit v.toNat 63 = true ∧ BitVec.ofNat 2 (bits v.toNat 62 61) ≠ 3 ∧ bit (0 : BitVec 64).toNat 63 = false) := by
  decide +kernel

/-! ### States that meet the hypotheses: the ring, the service ports, power and heat -/

/-- base0 with an open bypass and the configuration and ring state given. -/
def isoState (i : Iso) : State := { base0 with iso := { i with opened := true } }

theorem witness_IsobarActs :
    (base0.pwr.off = false ∧ base0.bg.perst = false ∧ base0.pwr.causes = [] ∧ bit (1 <<< 63 : BitVec 64).toNat 63 = true ∧
      base0.iso.opened = false ∧ bit (0 : BitVec 64).toNat 63 = false ∧ (isoState {}).iso.opened = true ∧ (isoState {}).iso.ring ≠ 1 ∧
      (isoState {}).pwr.off = false ∧ (isoState {}).bg.perst = false ∧ (isoState {}).pwr.causes = []) ∧
    (let f := isoFrame 1 3 254 7 (leBytes 20 900)
     let s := isoState { cfg := 1 <<< 63 }
     isoGood f = true ∧ isoOwn s f = false ∧ s.iso.ring ≠ 2 ∧ leAt f 0 1 = 1 ∧ isoMaster s = false ∧ s.iso.masters = [] ∧
     isoGood [] = false) ∧
    (let f := isoFrame 2 3 0 7 (leBytes 20 900)
     let s := isoState { cfg := 1 <<< 63, station := 1 }
     let o := isoState { cfg := 1 <<< 63, station := 3 }
     isoGood f = true ∧ isoOwn s f = false ∧ leAt f 0 1 = 2 ∧ s.iso.demands = [] ∧ isoOwn o f = true ∧ leAt f 0 1 ≠ 1) ∧
    isoMaster (isoState { cfg := 1 <<< 62 }) = true ∧
    (let s := isoState { ring := 1, demands := [(0, 900, 100), (3, 800, 200)], budgetB := 600 }
     s.iso.ring = 1 ∧ s.iso.demands = [(s.iso.station, 900, 100), (3, 800, 200)] ∧ 3 ≠ s.iso.station ∧ 100 < 900 ∧ 200 < 800 ∧
     ({ s with iso := { s.iso with budgetB := 300 } } : State).iso.budgetB ≤ 100 + 200) ∧
    (isoState { ring := 2 }).iso.ring = 2 := by decide +kernel

theorem witness_ServicePorts :
    State.reset.bg.vsb = false ∧ base0.bg.vsb = true ∧ kindSensor base0 0 = some 0 ∧
    3 ≤ (3 : BitVec 8).toNat ∧ (5 : BitVec 8).toNat ≤ 5 ∧
    ({ base0 with thm := { therm := some 9000 } } : State).thm.therm = some 9000 ∧ (1 : BitVec 8).toNat ≤ 1 ∧
    base0.bg.perst = false ∧ ({ base0 with bg := { base0.bg with perst := true } } : State).bg.perst = true := by decide +kernel

/-- base0 without a program at a power state with a target. -/
def pwrState (n : Nat) (tgt : BitVec 3) : State :=
  { base0 with plane := {}, ldr := {}, pwr := { base0.pwr with state := n, tgt := tgt } }

theorem witness_PowerLadder :
    (let s (v w : Nat) : State := { base0 with pwr := { base0.pwr with vmin := v, setpt := w } }
     (s 1429 1500).pwr.compat = false ∧ (s 1429 1500).pwr.virEn = true ∧ (s 1429 1500).pwr.vmin < 1430 ∧
     1430 ≤ (s 1430 1500).pwr.vmin ∧ (s 1459 1500).pwr.vmin < 1460 ∧ 1460 ≤ (s 1460 1500).pwr.vmin ∧ (s 1480 1500).pwr.vmin ≤ 1480 ∧
     1480 < (s 1481 1500).pwr.vmin ∧ (s 1400 1600).pwr.setpt = 1600 ∧ State.reset.pwr.virEn = false) ∧
    ({ base0.pwr with stepReq := some 3 } : Pwr).stepReq = some 3 ∧
    (base0.bg.ready = true ∧ base0.pwr.off = false ∧ goal base0 = base0.pwr.state ∧ State.reset.bg.ready = false) ∧
    (goal (pwrState 5 1) < (pwrState 5 1).pwr.state ∧ (pwrState 5 1).running = false ∧ goal (pwrState 4 1) < 4 ∧
      planeQuiet (pwrState 4 1) = true ∧ planeQuiet { pwrState 4 1 with plane := { packets := [{}] } } = false ∧
      goal (pwrState 3 1) < 3 ∧ goal (pwrState 2 1) < 2) ∧
    (1 < goal (pwrState 1 5) ∧ (pwrState 1 5).adc.calIsoPin = false ∧ (pwrState 1 5).pwr.virEn = true ∧ (pwrState 1 5).pwr.virOk = true ∧
      2 < goal (pwrState 2 5) ∧ 3 < goal (pwrState 3 5) ∧ 4 < goal (pwrState 4 5) ∧ (pwrState 4 5).pwr.restart = false) ∧
    (let s : State := { pwrState 1 5 with
        pwr := { (pwrState 1 5).pwr with virEn := false }
        thm := { cplIn := true, cplOut := true, flow := 600 } }
     1 < goal s ∧ s.adc.calIsoPin = false ∧ s.pwr.virEn = false ∧ virAllowed s = true) ∧
    (let s (us : Nat) : State := { base0 with pwr := { base0.pwr with idleS := 1, idleSt := 4 }, hub := { time := us } }
     (s 0).pwr.idleS ≠ 0 ∧ 1 ≤ (s 0).pwr.idleSt.toNat ∧ (s 0).pwr.idleSt.toNat ≤ 4 ∧ liveCount (s 0) = 0 ∧
     (s 1000000).hub.idleUs + 1000000 * (s 1000000).pwr.idleS.toNat ≤ (s 1000000).now ∧
     (s 999999).now < (s 999999).hub.idleUs + 1000000 * (s 999999).pwr.idleS.toNat) := by decide +kernel

theorem witness_ForcedChanges :
    (base0.bg.ready = true ∧ base0.pwr.causes = [] ∧ base0.pwr.parkS = none ∧ 1 < base0.pwr.state ∧ base0.pwr.virEn = true ∧
      State.reset.bg.ready = false ∧ State.reset.pwr.virEn = false ∧ inPhases base0 = false ∧ dieThere base0 0 = true ∧
      dieThere base0 7 = true ∧ tget 0 base0.pwr.feeds 575 = 0 ∧ base0.plane.progRun = true) ∧
    ({ base0.pwr with causes := [2] } : Pwr).causes = [2] ∧
    (let s (n : Nat) : State := { base0 with
        bg := { base0.bg with phaseOn := true, phase := 2, virFails := n }, pwr := { base0.pwr with virOk := false } }
     inPhases (s 1) = true ∧ (s 1).pwr.virEn = true ∧ (s 1).pwr.virOk = false ∧ (s 1).bg.virFails < 2 ∧ 2 ≤ (s 2).bg.virFails) ∧
    tget 0 ({ base0.pwr with feeds := [(575, 1)] } : Pwr).feeds 575 = 1 ∧
    tget 0 ({ base0.pwr with feeds := [(575, 2)] } : Pwr).feeds 575 = 2 := by decide +kernel

theorem witness_ThermalControl :
    (tablesOk base0 = true ∧ base0.pwr.off = false ∧ base0.bg.vsb = true ∧ base0.thm.pairs = [] ∧ base0.thm.dwellHi = false ∧
      max (760 : Int) (-320) ≤ 760 ∧ 760 < max (761 : Int) 0 ∧ max (800 : Int) 0 ≤ 800 ∧ 800 < max (801 : Int) 0 ∧ (840 : Int) < 841) ∧
    (let s : State := { base0 with thm := { pairs := [(1151, { hotA := 1 })] } }
     tablesOk s = true ∧ s.thm.pairs = [(1151, { hotA := 1 })]) ∧
    (let s : State := { base0 with
        pwr := { base0.pwr with step := 1, vmin := 1470 }, thm := { fitUs := some 0, eff := 0 }, hub := { time := 1000000 } }
     s.pwr.step ≤ 6 ∧ 0 < s.pwr.step ∧ 0 ≤ (effCap s).1 ∧ stepFits 0 (effCap s).1 1 0 = true ∧ s.thm.fitUs = some 0 ∧
     0 + 1000000 ≤ s.now ∧ s.pwr.stepReq = none ∧ (effCap s).1 < 100000) ∧
    (let s (us : Nat) : State := { base0 with thm := { overUs := some 7 }, hub := { time := us } }
     (s 100007).thm.overUs = some 7 ∧ 7 + 100000 ≤ (s 100007).now ∧ (s 100006).now < 7 + 100000 ∧ (s 0).pwr.causes = [] ∧
     (s 0).pwr.parkS = none) ∧
    (coolantLost base0 = true ∧ 2 ≤ base0.pwr.state) ∧
    (let s (us : Nat) : State := { base0 with
        thm := { cplIn := true, cplOut := true, flowOkAt := some 0 }, pwr := { base0.pwr with causes := [1] }, hub := { time := us } }
     coolantLost (s 0) = false ∧ (s 0).thm.cplIn = true ∧ (s 0).pwr.causes = [1] ∧ flowFor (s 5000000) 5000000 = true ∧
     flowFor (s 4999999) 5000000 = false ∧ flowFor (s 60000000) 60000000 = true) ∧
    ((base0.chan 17).atRail = false ∧ (base0.chan 18).atRail = false ∧ (base0.chan 12).atRail = false ∧ (base0.chan 13).atRail = false) ∧
    (({ base0 with adc := { ch := [(17, { atRail := true })] } } : State).chan 17).atRail = true ∧ base0.pwr.state ≠ 1 ∧
    pairThere base0 1447 = true ∧ validT ((base0.pair 0).a) = true := by decide +kernel

/-! ### States that meet the hypotheses: bring-up, the panel, the converter and the registers -/

/-- base0 in a phase of bring-up. -/
def bringState (n : Nat) : State := { base0 with ldr := {}, plane := {}, bg := { base0.bg with ready := false, phase := n, phaseOn := true } }

theorem witness_BringupActs :
    (State.reset.bg.vsb = false ∧ base0.bg.vsb = true ∧ base0.bg.perst = false ∧ tablesOk base0 = true) ∧
    (let s (c : Bool) : State := { base0 with bg := { vsb := true }, adc := { calIsoPin := c } }
     (s false).bg.perst = true ∧ (s false).bg.stopc = 0 ∧ (s false).bg.phaseOn = false ∧ (s false).bg.ready = false ∧
     (s false).bg.hotWait = false ∧ (s false).adc.calIsoPin = false ∧ (s true).adc.calIsoPin = true) ∧
    (let s (us : Nat) : State := { bringState 2 with
        bg := { (bringState 2).bg with cwait := true }, thm := { cplIn := true, cplOut := true, flowOkAt := some 0 }, hub := { time := us } }
     (s 0).bg.phase = 2 ∧ (s 0).bg.phaseOn = true ∧ (s 0).bg.cwait = true ∧ (s 0).pwr.boardIn = true ∧
     flowFor (s 5000000) 5000000 = true ∧ flowFor (s 4999999) 5000000 = false) ∧
    ((bringState 2).bg.stopc = 0 ∧ (bringState 2).pwr.causes = [] ∧ (bringState 2).pwr.virEn = true ∧ (bringState 2).pwr.virOk = true ∧
      ({ bringState 2 with pwr := { (bringState 2).pwr with virOk := false } } : State).pwr.virOk = false ∧
      ({ bringState 1 with bg := { (bringState 1).bg with perst := true } } : State).bg.perst = true ∧
      3 ≤ (bringState 3).bg.phase ∧ (bringState 5).bg.phase ≤ 5 ∧ (bringState 6).bg.phase = 6) ∧
    (let s : State := { base0 with bg := { base0.bg with testFor := some (0, 18431) } }
     s.bg.testFor = some (0, 18431) ∧ s.running = true ∧ ({ s with ldr := {} } : State).running = false ∧ base0.bg.testFor = none) ∧
    (base0.bg.voteAt = none ∧
      (let s : State := { bringState 4 with bg := { (bringState 4).bg with voteAt := some 0 }, hub := { time := 999999 } }
       s.bg.vsb = true ∧ s.bg.voteAt = some 0 ∧ s.now < 0 + 1000000 ∧ s.bg.ready = false)) := by decide +kernel

/-- base0 with the removal's cause set, or none, and the time its parks end. -/
def panelState (causes : List Nat) (park : Option Nat) (p : Pnl) : State :=
  { base0 with pwr := { base0.pwr with causes := causes, parkS := park }, pnl := p, hub := { time := 1000 } }

theorem witness_PanelActs :
    (tablesOk (panelState [3] (some 1000) {}) = true ∧ (panelState [3] (some 1000) {}).pwr.off = false ∧
      removing (panelState [] none {}) = false ∧ (panelState [3] (some 1000) {}).pwr.causes = [3] ∧
      (panelState [3] (some 1000) {}).bg.ready = true ∧ (panelState [3] (some 1000) {}).pwr.parkS = some 1000 ∧
      1000 ≤ (panelState [3] (some 1000) {}).now ∧ 1 < (panelState [3] (some 1000) {}).pwr.state) ∧
    (let s : State := { panelState [3] (some 1001) {} with hub := { time := 1000, slots := [(0, { st := 5 })] } }
     s.pwr.parkS = some 1001 ∧ s.now < 1001 ∧ parksOver s = false) ∧
    ((panelState [] none { presUntil := some 1000 }).pnl.presUntil = some 1000 ∧ 1000 ≤ (panelState [] none {}).now ∧
      (panelState [] none {}).now < 1001) ∧
    ((bringState 3).bg.ready = false ∧ (bringState 3).pwr.causes = [] ∧
      (let s : State := { panelState [] none {} with hub := { slots := [(0, { st := 5 })] } }
       s.bg.ready = true ∧ 4 ≤ s.pwr.state ∧ parksOver s = false) ∧
      (panelState [] none {}).pwr.parkS = none ∧ (panelState [] none {}).hub.slots = []) ∧
    (let s (c : AdcCh) : State := { base0 with adc := { ch := [(22, c)], thr := 10 } }
     let a := (s { hist := [100, 102], above := 1 }).chan (19 + 3)
     let b := (s { hist := [100, 102], below := 9, touched := true }).chan (19 + 3)
     a.touched = false ∧ 2 * a.hist.sum + 2 * 10 * a.hist.length ≤ 2 * 111 * a.hist.length ∧ a.hist ≠ [] ∧ 1 ≤ a.above ∧
     ¬ 2 * a.hist.sum + 2 * 10 * a.hist.length ≤ 2 * 110 * a.hist.length ∧ b.touched = true ∧ 9 ≤ b.below ∧
     ¬ 2 * b.hist.sum + 10 * b.hist.length ≤ 2 * 105 * b.hist.length) ∧
    (base0.bg.relWait = false ∧
      (let s : State := { base0 with bg := { vsb := true, relWait := true } }
       s.bg.relWait = true ∧ s.bg.perst = true ∧ s.bg.vsb = true)) := by decide +kernel

/-- base0 with channel 3 as given and a converter. -/
def adcState (c : AdcCh) (a : Adc) : State := { base0 with adc := { a with ch := [(3, c)] } }

theorem witness_ConverterActs :
    (tablesOk (adcState { z := 1, span := 1000 } {}) = true ∧ slotChan 0 3 = 3 ∧ slotChan 2 123 = 23 ∧ slotChan 7 119 = 11 ∧
      (49 + 1) % 50 = 0 ∧ (0 + 1) % 50 ≠ 0 ∧ (List.replicate 25 (0 : Int)).length ≤ 25) ∧
    ((adcState {} {}).adc.busy = none ∧ driftNext (adcState { due := 1 } {}) = some 3 ∧ driftNext (adcState {} {}) = none) ∧
    ((adcState {} { busy := some 3 }).adc.busy = some 3 ∧ driftBad { z := 100, span := 1000 } 100 1000 = false ∧
      driftBad { z := 100, span := 1000 } 100 2000 = true) ∧
    (let s : State := { adcState { retryAt := some 5 } {} with hub := { time := 5 } }
     (s.chan 3).retryAt = some 5 ∧ 5 ≤ s.now ∧ base0.now < 5) ∧
    (base0.adc.scGo = false ∧
      (let c : AdcCh := { z := 0, span := 1000 }
       let s := adcState c { scGo := true, capCh := 3, capPoint := true, capValue := 500, zeroPt := some (3, 0, 0, 256000) }
       let u := uOf (s.chan 3) 128000 256
       let v := uOf (s.chan 3) 12800 256
       s.adc.scGo = true ∧ s.adc.capCh.toNat = 3 ∧ s.adc.busy ≠ some 3 ∧ s.adc.capPoint = true ∧
       s.adc.zeroPt = some (3, 0, 0, 256000) ∧ 256000 * u.2 ≤ 10 * ((u.1 * 256000 - 0 * u.2).natAbs : Int) ∧ isPt 3 = false ∧
       10 * ((v.1 * 256000 - 0 * v.2).natAbs : Int) < 256000 * v.2 ∧
       (adcState c { scGo := true, capCh := 3 }).adc.capPoint = false)) := by decide +kernel

theorem witness_RegisterAccess :
    (let s : State := { base0 with host := { latches := [(0x200008, some 7)], halves := [(0x200008, some 9)] } }
     tablesOk s = true ∧ blockUp s none 0x200008 = true ∧ blockUp s none 0x20000C = true ∧
     placeHit none 0x200008 4 = some (0x200008, 8) ∧ placeHit none 0x20000C 4 = some (0x200008, 8) ∧ placeHit none 0x200008 8 = some (0x200008, 8) ∧
     s.latchOf 0x200008 = some 7 ∧ s.halfAt 0x200008 = some 9 ∧ base0.latchOf 0x200008 = none ∧ base0.halfAt 0x200008 = none) ∧
    (placeHit none 0x200008 2 = some (0x200008, 8) ∧ accessOk (0x200008, 8) 0x200008 2 = false) ∧
    (placeHit none 0x2FFFF8 4 = none ∧ inWindow none 0x2FFFF8 4 = false ∧ inDevice none 0x2FFFF8 = false ∧ nextHit .owner 0x2FFFF8 4 = false) ∧
    (State.reset.bg.ready = false ∧ 0x500000 ≤ 0x500000 ∧ 0xCFFFFF < 0xD00000) ∧
    (base0.bg.ready = true ∧ ((withTenant { tenant0 with draining := true }).tenant 5).draining = true) := by decide +kernel

theorem witness_ResetValues :
    (0x100000, 5) ∈ [((0x100000, 5) : Nat × Nat)] ∧ readPf State.reset 0x100000 = 5 ∧ readPf State.reset 0x200000 = 9000 ∧
    readTenant State.reset 255 0 = 0 := by decide +kernel


/-! ### Worked examples of the spec -/

/-- The KV configuration of Tessel-96 on an ILX8 (chapter 10, "writing one key of Tessel-96"). -/
def kvTessel : State :=
  { State.reset with
    fuses := { State.reset.fuses with grade := 8 }
    kv := { app := { cfg := BitVec.ofNat 64 (16 * 2 ^ 48 + 2 * 2 ^ 46 + 16 * 2 ^ 39 + 46 * 2 ^ 30 + 278528) } } }

/-- Table "KV: locating one key". -/
theorem test_kv_key :
    (let m := kvMap kvTessel 0 0x66E297A00; (m.field, m.cluster, m.wafer, m.row, m.blk)) = (33, 1, 1, 89, 0) ∧
    scaleAddr kvTessel 0x66E297A00 2 0 = 0x66E2D43A0 := by decide +kernel

/-- The quanta A to E of chapter 10, "dealing one field". -/
def dealt : List Quantum :=
  [{ slot := 17, head := 5, pre := false, ord := 3, idx := 3, valid := 232, cost := 928, field := 0 },
   { slot := 9, head := 2, pre := false, ord := 10, idx := 10, valid := 256, cost := 256, field := 0 },
   { slot := 9, head := 11, pre := false, ord := 12, idx := 12, valid := 256, cost := 256, field := 0 },
   { slot := 20, head := 0, pre := true, ord := 0, idx := 7001, valid := 64, cost := 128, field := 0 },
   { slot := 30, head := 7, pre := false, ord := 0, idx := 0, valid := 100, cost := 800, field := 0 }]

theorem test_dealing :
    (assign 3 [] (sortQ dealt)).1.map (fun e => (e.1, e.2.slot, e.2.head)) =
      [(0, 17, 5), (1, 30, 7), (2, 9, 2), (2, 9, 11), (2, 20, 0)] ∧
    (assign 3 [] (sortQ dealt)).2 = [(0, 928), (1, 800), (2, 640)] ∧
    dealt.head?.map workEntry = some (leBytes 8 0x1114000067380000) := by decide +kernel

/-- Table "Serving: depth trace": steps 3, 7, 9 and 41. -/
theorem test_depth :
    nextDepth 3 0 1 4 = (2, 0) ∧ nextDepth 4 0 0 4 = (2, 0) ∧ nextDepth 1 0 0 4 = (0, 0) ∧ nextDepth 0 31 0 4 = (1, 0) := by
  decide

/-- Tables "worked MXFP4 block" and "worked A4 block" of chapter 2, the inputs in 1/1024. -/
theorem test_blocks :
    (let q := quantise .mx4 (([5120, -717, 307, 13312, 1229] ++ List.replicate 27 0).map fun v => FV.ofDy ⟨v, -10⟩)
     (q.1, q.2.take 5)) = (0x81, [2, 0, 0, 5, 1]) ∧
    (let q := a4Block { wf := 6, nc := 1, ceil := 0x4100 }
      (([40960, -20480, 3072, 1536] ++ List.replicate 28 0).map fun v => FV.ofDy ⟨v, -10⟩)
     (q.1, q.2.1.take 4, q.2.2)) = (0x80, [0, 15, 3, 2], [(0, 0x4220)]) := by decide +kernel

/-- Table "Telemetry: results of the example": the later sample of the flow channel. -/
theorem test_flow_reading :
    systemLayer 14 { z := 26240, span := 235928, s1 := 0x3C00D, s0 := 0xFFFF87D8 }
      (uOf { z := 26240, span := 235928, s1 := 0x3C00D, s0 := 0xFFFF87D8 } (16 * 9000) 1) = 419 := by decide +kernel

/-- "fast and exact on the same data" of chapter 2: the fast sum loses the 1. -/
theorem test_fast_order :
    accFast (accFast (accFast 0 (FV.ofDy ⟨1, 25⟩)) (FV.ofDy ⟨1, 0⟩)) (FV.ofDy ⟨-1, 25⟩) = 0 ∧
    accFast (accFast (accFast 0 (FV.ofDy ⟨1, 25⟩)) (FV.ofDy ⟨-1, 25⟩)) (FV.ofDy ⟨1, 0⟩) = 0x3F800000 := by decide +kernel

/-- Table "Bring-up: indications": Run, a pending squall, and a Barograph stop above it. -/
theorem test_panel :
    display base0 = .state 5 ∧ ledState base0 = .green ∧ ledRemoval base0 = .dark ∧
    display { base0 with bg := { base0.bg with sqVld := true, sqCls := 12 } } = .squall 12 ∧
    ledHealth { base0 with bg := { base0.bg with sqVld := true, sqCls := 12 } } = .amber ∧
    display { base0 with bg := { base0.bg with sqVld := true, stopc := 2 } } = .bgStop 2 := by decide

/-- RFC 8032, test 1: the public key of a seed. -/
theorem test_ed25519 :
    edPublic (leBytes 32 0x607fae1c03ac3b701969327b69c54944c42cec92f44a84ba605afdef9db1619d) =
      leBytes 32 0x1a5107f7681a02af2523a6daf372e10e3a0764c9d3fe4bd5b70ab18201985ad7 := by decide +kernel

/-- The GCM specification, test case 14: one block of zeros under a key of zeros. -/
theorem test_aes_gcm :
    aesGcm (List.replicate 32 0) (List.replicate 12 0) [] (List.replicate 16 0) =
      ((leBytes 16 0xcea7403d4d606b6e074ec5d3baf39d18).reverse, (leBytes 16 0xd0d1c8a799996bf0265b98b5d48ab919).reverse) := by
  decide +kernel

/-- FIPS 202: SHAKE256 of no bytes. -/
theorem test_shake : shake256 [] 8 = (leBytes 8 0x46b9dd2b0ba88d13).reverse := by decide +kernel

end Sys2Proof.Tests
end

section
/-! PROOFS. What a core reads after an update: a core of a sound state is sound, and a core set beside a raised fault. -/

namespace Sys2Proof.Proofs

open Sys2Proof Sys2Proof.Machine Sys2Proof.Safety Sys2Proof.Laws

/-- A table reads its default or the value of one of its entries. -/
theorem tget_eq_default_or_mem {α : Type} (d : α) (t : Table α) (k : Nat) :
    tget d t k = d ∨ (k, tget d t k) ∈ t := by
  induction t with
  | nil => exact .inl rfl
  | cons e r ih =>
    obtain ⟨j, w⟩ := e
    by_cases hlt : k < j
    · exact .inl (by simp [tget, hlt])
    · by_cases heq : k = j
      · exact .inr (by simp [tget, heq])
      · have hr : tget d ((j, w) :: r) k = tget d r k := by simp [tget, hlt, heq]
        rw [hr]
        exact ih.imp_right (List.mem_cons_of_mem _)

theorem twf_cores_of_coresOk {s : State} (h : coresOk s = true) : twf ({} : Core) s.plane.cores = true :=
  (Bool.and_eq_true_iff.1 h).1

/-- Every core of a sound state, listed or not, has its tables in canonical form. -/
theorem coreOk_core {s : State} (h : coresOk s = true) (c : Nat) : coreOk (s.core c) = true := by
  have hall := List.all_eq_true.1 (Bool.and_eq_true_iff.1 h).2
  rcases tget_eq_default_or_mem ({} : Core) s.plane.cores c with hd | hm
  · rw [State.core, hd]
    rfl
  · exact hall _ hm

theorem twf_cc_of_coreOk {k : Core} (h : coreOk k = true) : twf (0 : BitVec 32) k.cc = true :=
  (Bool.and_eq_true_iff.1 (Bool.and_eq_true_iff.1 h).1).2

/-- Raising a fault while a program runs, beside a new core: the core reads as set, the fault is recorded last, and the
other cores and the memories stay. -/
theorem setCore_raise_reads {s : State} {c : Nat} {k : Core} {f : FaultRep} (h : coresOk s = true)
    (hrun : s.plane.progRun = true) :
    ((s.setCore c k).raise f).core c = k ∧
    ((s.setCore c k).raise f).plane.faults = s.plane.faults ++ [f] ∧
    ((s.setCore c k).raise f).plane.sram = s.plane.sram ∧
    ∀ c', c' ≠ c → ((s.setCore c k).raise f).core c' = s.core c' := by
  have hcores := twf_cores_of_coresOk h
  refine ⟨?_, raise_run hrun, raise_sram _ _, fun c' hne => ?_⟩
  · rw [raise_core, core_setCore hcores]
  · rw [raise_core, core_setCore_ne hcores hne]

end Sys2Proof.Proofs
end

section
/-! PROOFS. cmp and plog (R112, R113): the six conditions and the three functions, and when the encoding is legal. -/

namespace Sys2Proof.Proofs

open Sys2Proof Sys2Proof.Machine Sys2Proof.Safety Sys2Proof.Laws

/-! ### The conditions and functions -/

theorem cmpCond_eq (x y : BitVec 64) : cmpCond 0 x y = decide (x = y) := rfl
theorem cmpCond_ne (x y : BitVec 64) : cmpCond 1 x y = decide (x ≠ y) := by
  rw [decide_not]
  rfl
theorem cmpCond_lt (x y : BitVec 64) : cmpCond 2 x y = decide (x.toInt < y.toInt) := rfl
theorem cmpCond_ge (x y : BitVec 64) : cmpCond 3 x y = decide (y.toInt ≤ x.toInt) := by
  rw [decide_eq_decide.2 Int.not_lt.symm, decide_not]
  rfl
theorem cmpCond_ltu (x y : BitVec 64) : cmpCond 4 x y = decide (x.toNat < y.toNat) := rfl
theorem cmpCond_geu (x y : BitVec 64) : cmpCond 5 x y = decide (y.toNat ≤ x.toNat) := by
  rw [decide_eq_decide.2 Nat.not_lt.symm, decide_not]
  rfl

theorem plogFn_and (a b : Bool) : plogFn 0 a b = (a && b) := rfl
theorem plogFn_or (a b : Bool) : plogFn 1 a b = (a || b) := rfl
theorem plogFn_xor (a b : Bool) : plogFn 2 a b = (a != b) := rfl

/-! ### The operations -/

section
variable {s : State} {c : Nat} {gd : Guard} {pd : BitVec 3}

theorem exec_cmp {cond : BitVec 4} {s1 s2 : BitVec 5} {im : Bool} {imm : BitVec 32} :
    exec (.cmp c gd pd cond s1 s2 im imm) s = execCmp c gd pd cond s1 s2 im imm s := rfl

theorem exec_plog {ps1 ps2 : BitVec 3} {n1 n2 : Bool} {fn : BitVec 2} :
    exec (.plog c gd pd ps1 n1 ps2 n2 fn) s = execPlog c gd pd ps1 n1 ps2 n2 fn s := rfl

/-- A legal cmp against a register sends its condition to the predicate. -/
theorem exec_cmp_register {cond : BitVec 4} {s1 s2 : BitVec 5} (hi : Issues s c gd) (hcond : cond.toNat ≤ 5) :
    exec (.cmp c gd pd cond s1 s2 false 0) s = .next (Coming s c (s.plane.cycle + 1) .S (.p pd)
      (if cmpCond cond ((s.core c).gGet s1.toNat) ((s.core c).gGet s2.toNat) then 1 else 0)) := by
  have hlegal : (decide (cond.toNat ≤ 5) && (0 : BitVec 32) == 0) = true := by simp [hcond]
  rw [exec_cmp, execCmp, if_neg Bool.false_ne_true, hlegal, issueSlot_on hi.1 hi.2]
  rfl

/-- A legal cmp against the immediate compares with its sign extension. -/
theorem exec_cmp_immediate {cond : BitVec 4} {s1 : BitVec 5} {imm : BitVec 32} (hi : Issues s c gd)
    (hcond : cond.toNat ≤ 5) :
    exec (.cmp c gd pd cond s1 0 true imm) s = .next (Coming s c (s.plane.cycle + 1) .S (.p pd)
      (if cmpCond cond ((s.core c).gGet s1.toNat) (imm.signExtend 64) then 1 else 0)) := by
  have hlegal : (decide (cond.toNat ≤ 5) && (0 : BitVec 5) == 0) = true := by simp [hcond]
  rw [exec_cmp, execCmp, if_pos rfl, hlegal, issueSlot_on hi.1 hi.2]
  rfl

/-- A reserved condition, or an operand field that the form does not use and that is not zero, is an illegal encoding. -/
theorem exec_cmp_illegal {cond : BitVec 4} {s1 s2 : BitVec 5} {im : Bool} {imm : BitVec 32} (hc : c < nCores)
    (hillegal : (decide (cond.toNat ≤ 5) && (if im then s2 == 0 else imm == 0)) = false) :
    exec (.cmp c gd pd cond s1 s2 im imm) s = .next (Detected s c 7 .S) := by
  rw [exec_cmp, execCmp, hillegal, issueSlot_illegal hc]
  rfl

/-- A plog of one of its three functions sends it to the predicate. -/
theorem exec_plog_legal {ps1 ps2 : BitVec 3} {n1 n2 : Bool} {fn : BitVec 2} (hi : Issues s c gd) (hfn : (fn != 3) = true) :
    exec (.plog c gd pd ps1 n1 ps2 n2 fn) s = .next (Coming s c (s.plane.cycle + 1) .S (.p pd)
      (if plogFn fn ((s.core c).pGet ps1.toNat != n1) ((s.core c).pGet ps2.toNat != n2) then 1 else 0)) := by
  rw [exec_plog, execPlog, hfn, issueSlot_on hi.1 hi.2]
  rfl

end

/-- Settles O10: each legal form sends its condition or function to the predicate one cycle later, and the two illegal
forms fail the encoding check. -/
theorem predicateResults : Obligations.PredicateResults := by
  unfold Obligations.PredicateResults
  intro s c gd pd ps1 ps2 n1 n2 s1 s2 imm hi x y a b put
  refine ⟨?_, ?_, ?_, ?_, ?_, ?_, ⟨?_, ?_, ?_, ?_, ?_, ?_⟩, ?_, ?_, ?_, ?_, ?_⟩
  · rw [exec_cmp_register hi (by decide), cmpCond_eq]
  · rw [exec_cmp_register hi (by decide), cmpCond_ne]
  · rw [exec_cmp_register hi (by decide), cmpCond_lt]
  · rw [exec_cmp_register hi (by decide), cmpCond_ge]
  · rw [exec_cmp_register hi (by decide), cmpCond_ltu]
  · rw [exec_cmp_register hi (by decide), cmpCond_geu]
  · rw [exec_cmp_immediate hi (by decide), cmpCond_eq]
  · rw [exec_cmp_immediate hi (by decide), cmpCond_ne]
  · rw [exec_cmp_immediate hi (by decide), cmpCond_lt]
  · rw [exec_cmp_immediate hi (by decide), cmpCond_ge]
  · rw [exec_cmp_immediate hi (by decide), cmpCond_ltu]
  · rw [exec_cmp_immediate hi (by decide), cmpCond_geu]
  · intro cond im hres
    have hcond : decide (cond.toNat ≤ 5) = false := decide_eq_false (by omega)
    exact exec_cmp_illegal hi.1 (by rw [hcond, Bool.false_and])
  · intro cond hs2
    have hzero : (s2 == 0) = false := beq_eq_false_iff_ne.2 hs2
    exact exec_cmp_illegal hi.1 (by rw [if_pos rfl, hzero, Bool.and_false])
  · rw [exec_plog_legal hi rfl, plogFn_and]
  · rw [exec_plog_legal hi rfl, plogFn_or]
  · rw [exec_plog_legal hi rfl, plogFn_xor]

end Sys2Proof.Proofs
end

section
/-! PROOFS. Completion counters (R115, R116): an operation acts before the cycle's increments, or overflows. -/

namespace Sys2Proof.Proofs

open Sys2Proof Sys2Proof.Machine Sys2Proof.Safety Sys2Proof.Laws

/-! ### The count operand -/

theorem ccLegal_of_countOk {g : BitVec 5} {src : Bool} {imm : BitVec 24} (h : countOk g src imm = true) :
    ccLegal g src imm = true := h

theorem ccCount_toNat (k : Core) (g : BitVec 5) (src : Bool) (imm : BitVec 24) :
    (ccCount k g src imm).toNat = if src then (k.gGet g.toNat).toNat % 2 ^ 32 else imm.toNat := by
  cases src with
  | true => exact BitVec.toNat_setWidth 32 (k.gGet g.toNat)
  | false => exact BitVec.toNat_setWidth_of_le (w := 24) (w' := 32) (b := imm) (by decide)

/-! ### The counter operation -/

/-- The increments of counter i that stand over at FFFF_FFFFh (R116). -/
def oversOf (k : Core) (i : Nat) : List (Nat × Nat × SlotKind) := k.overs.filter fun o => o.1 == i

/-- When the replaced content y and the m increments of the cycle fit, the increments come on top and none stands over. -/
theorem ccOp_fits {s : State} {c i y m z : Nat} {f : Int → Int}
    (hm : tget 0 (s.core c).incs i + (oversOf (s.core c) i).length = m)
    (hy : f (((s.core c).ccGet i).toNat - (tget 0 (s.core c).incs i : Nat)) = y) (hz : y + m = z) (hfit : z < 2 ^ 32) :
    ccOp s c i f = s.setCore c { s.core c with
      cc := tset 0 (s.core c).cc i (BitVec.ofNat 32 z)
      incs := tset 0 (s.core c).incs i m
      overs := (s.core c).overs.filter fun o => o.1 != i } := by
  have hrange : ¬((y : Int) < 0 ∨ (2 ^ 32 : Int) ≤ y) := by omega
  have hall : y + tget 0 (s.core c).incs i + (oversOf (s.core c) i).length = z := by omega
  have hmin : min z (2 ^ 32 - 1) = z := by omega
  have htally : z - y = m := by omega
  simp only [ccOp, hy, if_neg hrange, Int.toNat_natCast]
  rw [← oversOf, hall, hmin, htally, Nat.sub_self, Nat.sub_zero, List.drop_length, List.append_nil]
  rfl

/-- The same when no increment has stood over. -/
theorem ccOp_fits_of_no_over {s : State} {c i y n z : Nat} {f : Int → Int} (hov : (s.core c).overs = [])
    (hn : tget 0 (s.core c).incs i = n) (hy : f (((s.core c).ccGet i).toNat - (n : Nat)) = y) (hz : y + n = z)
    (hfit : z < 2 ^ 32) :
    ccOp s c i f = s.setCore c { s.core c with
      cc := tset 0 (s.core c).cc i (BitVec.ofNat 32 z), incs := tset 0 (s.core c).incs i n, overs := [] } := by
  subst hn
  rw [ccOp_fits (m := tget 0 (s.core c).incs i) (by simp [oversOf, hov]) hy hz hfit, hov, List.filter_nil]

/-- The same when one increment of the counter has stood over: it is applied with the others. -/
theorem ccOp_fits_of_one_over {s : State} {c i y n z pc : Nat} {sl : SlotKind} {f : Int → Int}
    (hov : (s.core c).overs = [(i, pc, sl)]) (hn : tget 0 (s.core c).incs i = n)
    (hy : f (((s.core c).ccGet i).toNat - (n : Nat)) = y) (hz : y + (n + 1) = z) (hfit : z < 2 ^ 32) :
    ccOp s c i f = s.setCore c { s.core c with
      cc := tset 0 (s.core c).cc i (BitVec.ofNat 32 z), incs := tset 0 (s.core c).incs i (n + 1), overs := [] } := by
  subst hn
  have hfilter : [(i, pc, sl)].filter (fun o => o.1 != i) = [] := by simp
  rw [ccOp_fits (m := tget 0 (s.core c).incs i + 1) (by simp [oversOf, hov]) hy hz hfit, hov, hfilter]

/-- A content outside 0 to FFFF_FFFFh raises the counter-overflow squall and changes nothing else. -/
theorem ccOp_overflow {s : State} {c i : Nat} {f : Int → Int} {v : Int}
    (hv : f (((s.core c).ccGet i).toNat - (tget 0 (s.core c).incs i : Nat)) = v) (hout : v < 0 ∨ (2 ^ 32 : Int) ≤ v) :
    ccOp s c i f = s.raise { coreRep s c 6 .S (s.core c).pc.toNat with counter := i } := by
  simp only [ccOp, hv, if_pos hout]

section
variable {s : State} {c : Nat} {gd : Guard} {cc : BitVec 6} {g : BitVec 5} {src : Bool} {imm : BitVec 24}

/-- A C-format operation that issues with a legal count has its effect. -/
theorem issueSlot_count {act : Core → State} (hi : Issues s c gd) (hl : countOk g src imm = true) :
    issueSlot s c .S gd (ccLegal g src imm) act = .next (act (s.core c)) := by
  rw [ccLegal_of_countOk hl, issueSlot_on hi.1 hi.2]

theorem exec_cset : exec (.cset c gd cc g src imm) s = execCset c gd cc g src imm s := rfl
theorem exec_cadd : exec (.cadd c gd cc g src imm) s = execCadd c gd cc g src imm s := rfl
theorem exec_csub : exec (.csub c gd cc g src imm) s = execCsub c gd cc g src imm s := rfl

theorem exec_cset_issues (hi : Issues s c gd) (hl : countOk g src imm = true) :
    exec (.cset c gd cc g src imm) s = .next (ccOp s c cc.toNat fun _ => (ccCount (s.core c) g src imm).toNat) :=
  exec_cset.trans (issueSlot_count hi hl)

theorem exec_cadd_issues (hi : Issues s c gd) (hl : countOk g src imm = true) :
    exec (.cadd c gd cc g src imm) s = .next (ccOp s c cc.toNat fun v => v + (ccCount (s.core c) g src imm).toNat) :=
  exec_cadd.trans (issueSlot_count hi hl)

theorem exec_csub_issues (hi : Issues s c gd) (hl : countOk g src imm = true) :
    exec (.csub c gd cc g src imm) s = .next (ccOp s c cc.toNat fun v => v - (ccCount (s.core c) g src imm).toNat) :=
  exec_csub.trans (issueSlot_count hi hl)

end

/-! ### Increments by completions -/

theorem ccGet_ccSet {k : Core} {i : Nat} {v : BitVec 32} (h : twf (0 : BitVec 32) k.cc = true) : (k.ccSet i v).ccGet i = v :=
  tget_tset h

theorem ccGet_ccSet_ne {k : Core} {i j : Nat} {v : BitVec 32} (h : twf (0 : BitVec 32) k.cc = true) (hj : j ≠ i) :
    (k.ccSet i v).ccGet j = k.ccGet j :=
  tget_tset_ne h hj

theorem ccGet_toNat_eq_top_iff {k : Core} {i : Nat} : (k.ccGet i).toNat = 2 ^ 32 - 1 ↔ k.ccGet i = 0xFFFFFFFF :=
  BitVec.toNat_inj (y := 0xFFFFFFFF#32)

/-- Below FFFF_FFFFh an increment adds 1 and is tallied. -/
theorem incr_below_top {s : State} {c i pc : Nat} {sl : SlotKind} (h : (s.core c).ccGet i ≠ 0xFFFFFFFF) :
    s.incr c i pc sl = s.setCore c { (s.core c).ccSet i ((s.core c).ccGet i + 1) with
      incs := tmod 0 (s.core c).incs i (· + 1) } :=
  if_neg (mt ccGet_toNat_eq_top_iff.1 h)

/-- Such an increment adds 1 to its counter and leaves the other counters, the other cores, the memories, the scalar
registers and the detected faults. -/
theorem incr_below_top_reads {s : State} {c i pc : Nat} {sl : SlotKind} (hok : coresOk s = true)
    (h : (s.core c).ccGet i ≠ 0xFFFFFFFF) :
    (((s.incr c i pc sl).core c).ccGet i).toNat = ((s.core c).ccGet i).toNat + 1 ∧
    (∀ j, j ≠ i → ((s.incr c i pc sl).core c).ccGet j = (s.core c).ccGet j) ∧
    (∀ c', c' ≠ c → (s.incr c i pc sl).core c' = s.core c') ∧
    (s.incr c i pc sl).plane.sram = s.plane.sram ∧ ((s.incr c i pc sl).core c).g = (s.core c).g ∧
    (s.incr c i pc sl).plane.faults = s.plane.faults := by
  have hcores := twf_cores_of_coresOk hok
  have hcc := twf_cc_of_coreOk (coreOk_core hok c)
  have hlt : ((s.core c).ccGet i).toNat + 1 < 2 ^ 32 := by
    have hne := mt ccGet_toNat_eq_top_iff.1 h
    omega
  rw [incr_below_top h, core_setCore hcores]
  refine ⟨?_, fun j hj => ccGet_ccSet_ne hcc hj, fun c' hne => core_setCore_ne hcores hne, rfl, rfl, rfl⟩
  calc (((s.core c).ccSet i ((s.core c).ccGet i + 1)).ccGet i).toNat
      = ((s.core c).ccGet i + 1).toNat := by rw [ccGet_ccSet hcc]
    _ = ((s.core c).ccGet i).toNat + 1 := by rw [BitVec.toNat_add_of_lt hlt]; rfl

/-- At FFFF_FFFFh an increment stands over. -/
theorem incr_at_top {s : State} {c i pc : Nat} {sl : SlotKind} (h : (s.core c).ccGet i = 0xFFFFFFFF) :
    s.incr c i pc sl = s.setCore c { s.core c with overs := (s.core c).overs ++ [(i, pc, sl)] } :=
  if_pos (ccGet_toNat_eq_top_iff.2 h)

/-- One increment that stands over raises its squall at the end of the cycle. -/
theorem settleOvers_single {s : State} {c i pc : Nat} {sl : SlotKind} (h : (s.core c).overs = [(i, pc, sl)]) :
    settleOvers s c =
      (s.setCore c { s.core c with overs := [] }).raise { coreRep s c 6 sl pc with counter := i } := by
  simp only [settleOvers, h, List.foldl_cons, List.foldl_nil]
  rfl

/-- Settles O14: an operation that fits puts the increments on top, one that does not raises the squall; an increment
counts below FFFF_FFFFh and stands over at it. -/
theorem counterOperations : Obligations.CounterOperations := by
  unfold Obligations.CounterOperations
  refine ⟨?_, ?_⟩
  · intro s c n gd cc g src imm pc sl hi hl k x v ovf hn put
    have hx : (ccCount (s.core c) g src imm).toNat = x := ccCount_toNat ..
    have hv : ((s.core c).ccGet cc.toNat).toNat = v := rfl
    have htally : tget 0 (s.core c).incs cc.toNat = n := hn
    rw [exec_cset_issues hi hl, exec_cadd_issues hi hl, exec_csub_issues hi hl, hx]
    refine ⟨fun hov => ⟨fun hfit => ?_, fun hle hfit => ?_, fun hle => ?_, fun h0 hout => ?_, fun h0 hout => ?_⟩,
      fun hov hfit => ?_⟩
    · exact congrArg _ (ccOp_fits_of_no_over hov hn rfl rfl hfit)
    · exact congrArg _ (ccOp_fits_of_no_over (y := v + x - n) hov hn (by omega) (by omega) hfit)
    · exact congrArg _ (ccOp_fits_of_no_over (y := v - (n + x)) hov hn (by omega) (by omega) (by omega))
    · exact congrArg _ (ccOp_overflow rfl (.inr (by omega)))
    · exact congrArg _ (ccOp_overflow rfl (.inl (by omega)))
    · exact congrArg _ (ccOp_fits_of_one_over hov hn rfl rfl hfit)
  · intro s c i pc sl hok k
    refine ⟨fun hlt => ?_, incr_at_top, fun hov hrun => ?_⟩
    · intro t
      exact incr_below_top_reads hok hlt
    · intro t
      have ht : t = (s.setCore c { k with overs := [] }).raise { coreRep s c 6 sl pc with counter := i } :=
        settleOvers_single hov
      rw [ht]
      obtain ⟨hcore, hfaults, hsram, hothers⟩ := setCore_raise_reads hok hrun
      exact ⟨hfaults, hcore, hothers, hsram⟩

end Sys2Proof.Proofs
end

section
/-! PROOFS. Waits, watches and arms (R117-R119, R214), and the checks of waits and watches. -/

namespace Sys2Proof.Proofs

open Sys2Proof Sys2Proof.Machine Sys2Proof.Safety Sys2Proof.Laws

/-! ### Issue -/

section
variable {s : State} {c : Nat} {gd : Guard} {cc : BitVec 6} {g : BitVec 5} {src : Bool} {d : BitVec 16} {imm : BitVec 24}

theorem exec_wait : exec (.wait c gd cc g src d imm) s = execWait c gd cc g src d imm s := rfl
theorem exec_watch : exec (.watch c gd cc g src d imm) s = execWatch c gd cc g src d imm s := rfl
theorem exec_arm : exec (.arm c gd cc g src imm) s = execArm c gd cc g src imm s := rfl

theorem exec_wait_issues (hi : Issues s c gd) (hl : countOk g src imm = true) :
    exec (.wait c gd cc g src d imm) s = .next (s.setCore c { s.core c with
      issue := .hold (s.plane.cycle + d.toNat) cc (ccCount (s.core c) g src imm) (s.core c).pc none }) :=
  exec_wait.trans (issueSlot_count hi hl)

/-- With a tracker free, a watch takes it. -/
theorem exec_watch_tracked (hi : Issues s c gd) (hl : countOk g src imm = true)
    (hfree : ((s.core c).watches.filter fun w => w.seen.isNone).length < 4) :
    exec (.watch c gd cc g src d imm) s = .next (s.setCore c { s.core c with
      watches := (s.core c).watches ++ [{ due := s.plane.cycle + d.toNat, cc := cc
                                          count := ccCount (s.core c) g src imm, pc := (s.core c).pc }] }) :=
  (exec_watch.trans (issueSlot_count hi hl)).trans (congrArg _ (if_neg (Nat.not_le.2 hfree)))

/-- With four watches pending, a fifth raises the counter-overflow squall. -/
theorem exec_watch_overflow (hi : Issues s c gd) (hl : countOk g src imm = true)
    (hfull : 4 ≤ ((s.core c).watches.filter fun w => w.seen.isNone).length) :
    exec (.watch c gd cc g src d imm) s =
      .next (s.raise { coreRep s c 6 .S (s.core c).pc.toNat with counter := cc.toNat }) :=
  (exec_watch.trans (issueSlot_count hi hl)).trans (congrArg _ (if_pos hfull))

theorem exec_arm_sets (hi : Issues s c gd) (hl : countOk g src imm = true) (hrel : (s.core c).relAt ≠ some s.plane.cycle) :
    exec (.arm c gd cc g src imm) s = .next (s.setCore c { s.core c with
      armed := tset none (s.core c).armed cc.toNat (some (ccCount (s.core c) g src imm)) }) :=
  (exec_arm.trans (issueSlot_count hi hl)).trans (congrArg _ (if_neg hrel))

/-- In the cycle of a release the release clears the target that an arm would set (R214). -/
theorem exec_arm_released (hi : Issues s c gd) (hl : countOk g src imm = true)
    (hrel : (s.core c).relAt = some s.plane.cycle) : exec (.arm c gd cc g src imm) s = .next s :=
  (exec_arm.trans (issueSlot_count hi hl)).trans (congrArg _ (if_pos hrel))

end

/-! ### The end of a cycle -/

/-- Scheduling one result for each entry of a list changes only the results on their way. -/
theorem foldl_later_frame {α : Type} (l : List α) (due : Nat) (sl : SlotKind) (dest : α → OpDest)
    (val : Core → α → BitVec 2048) (k : Core) :
    ∃ ws, l.foldl (fun k x => k.later due sl (dest x) (val k x)) k = { k with writes := ws } := by
  induction l generalizing k with
  | nil => exact ⟨k.writes, rfl⟩
  | cons x r ih =>
    obtain ⟨ws, hws⟩ := ih (k.later due sl (dest x) (val k x))
    exact ⟨ws, hws⟩

/-- The samples of rdcc change only the results on their way and the samples left. -/
theorem samplesCycle_frame (k : Core) (n : Nat) :
    ∃ ws xs, samplesCycle k n = { k with writes := ws, samples := xs } := by
  obtain ⟨ws, hws⟩ := foldl_later_frame (k.samples.filter fun x => decide (x.tAt ≤ n)) (n + 1) .S (fun x => .g x.gr)
    (fun k x => (k.ccGet x.cc.toNat).setWidth 2048) { k with samples := k.samples.filter fun x => decide (n < x.tAt) }
  exact ⟨ws, _, hws⟩

/-- At the end of a cycle the issue state and the watches are as the checks note them, and the counters, the scalar
registers and pc stay. -/
theorem closeCore_reads (k : Core) (n : Nat) :
    (closeCore k n).issue = (noteChecks k n).issue ∧ (closeCore k n).watches = (noteChecks k n).watches ∧
    (closeCore k n).cc = k.cc ∧ (closeCore k n).g = k.g ∧ (closeCore k n).pc = k.pc := by
  obtain ⟨ws, xs, hsamples⟩ := samplesCycle_frame k n
  rw [closeCore, hsamples]
  exact ⟨rfl, rfl, rfl, rfl, rfl⟩

/-- A hold notes its counter in the cycle in which it is due. -/
theorem noteChecks_issue_of_hold {k : Core} {n due : Nat} {cc : BitVec 6} {x : BitVec 32} {pc : BitVec 21}
    {seen : Option (BitVec 32)} (h : k.issue = .hold due cc x pc seen) :
    (noteChecks k n).issue = .hold due cc x pc (if due = n then some (k.ccGet cc.toNat) else seen) := by
  simp only [noteChecks, h]

/-- So does a watch. -/
theorem noteChecks_watches_of_single {k : Core} {n : Nat} {w : Watch} (h : k.watches = [w]) :
    (noteChecks k n).watches = [{ w with seen := if w.due = n then some (k.ccGet w.cc.toNat) else w.seen }] := by
  simp only [noteChecks, h, List.map_cons, List.map_nil]
  split <;> rfl

/-! ### The checks -/

section
variable {s : State} {c : Nat}

theorem exec_waitCheck : exec (.waitCheck c) s = execWaitCheck c s := rfl
theorem exec_watchCheck : exec (.watchCheck c) s = execWatchCheck c s := rfl

section
variable {due : Nat} {cc : BitVec 6} {n v : BitVec 32} {pc : BitVec 21}

/-- Before the end of cycle t + d the check of a wait does nothing. -/
theorem exec_waitCheck_unseen (hc : c < nCores) (h : (s.core c).issue = .hold due cc n pc none) :
    exec (.waitCheck c) s = .next s := by
  rw [exec_waitCheck, execWaitCheck, if_neg (Nat.not_le.2 hc)]
  simp only [h]

/-- The counter that a wait noted decides. -/
theorem exec_waitCheck_seen (hc : c < nCores) (h : (s.core c).issue = .hold due cc n pc (some v)) :
    exec (.waitCheck c) s =
      if n.toNat ≤ v.toNat then .next (s.setCore c { s.core c with issue := .run, nextAt := due + 1 })
      else .next ((s.setCore c { s.core c with issue := .stopped }).raise (missRep s c due cc v n pc)) := by
  rw [exec_waitCheck, execWaitCheck, if_neg (Nat.not_le.2 hc)]
  simp only [h]

/-- A count that was reached lets the next bundle issue one cycle after the wait. -/
theorem exec_waitCheck_reached (hc : c < nCores) (h : (s.core c).issue = .hold due cc n pc (some v))
    (hreach : n.toNat ≤ v.toNat) :
    exec (.waitCheck c) s = .next (s.setCore c { s.core c with issue := .run, nextAt := due + 1 }) :=
  (exec_waitCheck_seen hc h).trans (if_pos hreach)

/-- A count that was not reached stops the core and raises the squall of class 05h. -/
theorem exec_waitCheck_missed (hc : c < nCores) (h : (s.core c).issue = .hold due cc n pc (some v))
    (hmiss : v.toNat < n.toNat) :
    exec (.waitCheck c) s =
      .next ((s.setCore c { s.core c with issue := .stopped }).raise (missRep s c due cc v n pc)) :=
  (exec_waitCheck_seen hc h).trans (if_neg (Nat.not_le.2 hmiss))

end

section
variable {w : Watch} {v : BitVec 32}

/-- The check frees the trackers whose counter was noted, and raises the squalls of those that saw too low a count. -/
theorem exec_watchCheck_core (hc : c < nCores) :
    exec (.watchCheck c) s = .next (raiseWatches
      (s.setCore c { s.core c with watches := (s.core c).watches.filter fun w => w.seen.isNone }) c
      ((s.core c).watches.filter fun w => w.seen.isSome)) :=
  exec_watchCheck.trans (if_neg (Nat.not_le.2 hc))

theorem raiseWatches_reached (hseen : w.seen = some v) (hreach : w.count.toNat ≤ v.toNat) :
    raiseWatches s c [w] = s := by
  simp only [raiseWatches, hseen, if_pos hreach]

theorem raiseWatches_missed (hseen : w.seen = some v) (hmiss : v.toNat < w.count.toNat) :
    raiseWatches s c [w] = s.raise (missRep s c w.due w.cc v w.count w.pc) := by
  simp only [raiseWatches, hseen, if_neg (Nat.not_le.2 hmiss)]

/-- Before the end of cycle t + d a single watch keeps its tracker. -/
theorem exec_watchCheck_unseen (hc : c < nCores) (h : (s.core c).watches = [w]) (hseen : w.seen = none) :
    exec (.watchCheck c) s = .next (s.setCore c (s.core c)) := by
  have hpend : (s.core c).watches.filter (fun w => w.seen.isNone) = (s.core c).watches := by simp [h, hseen]
  have hpast : (s.core c).watches.filter (fun w => w.seen.isSome) = [] := by simp [h, hseen]
  rw [exec_watchCheck_core hc, hpend, hpast]
  rfl

/-- A single watch whose counter was noted gives up its tracker, whatever the counter was. -/
theorem exec_watchCheck_seen (hc : c < nCores) (h : (s.core c).watches = [w]) (hseen : w.seen = some v) :
    exec (.watchCheck c) s = .next (raiseWatches (s.setCore c { s.core c with watches := [] }) c [w]) := by
  have hpend : (s.core c).watches.filter (fun w => w.seen.isNone) = [] := by simp [h, hseen]
  have hpast : (s.core c).watches.filter (fun w => w.seen.isSome) = [w] := by simp [h, hseen]
  rw [exec_watchCheck_core hc, hpend, hpast]

/-- A watch whose count was reached frees its tracker. -/
theorem exec_watchCheck_reached (hc : c < nCores) (h : (s.core c).watches = [w]) (hseen : w.seen = some v)
    (hreach : w.count.toNat ≤ v.toNat) :
    exec (.watchCheck c) s = .next (s.setCore c { s.core c with watches := [] }) := by
  rw [exec_watchCheck_seen hc h hseen, raiseWatches_reached hseen hreach]

/-- A watch whose count was not reached frees its tracker and raises the squall of class 05h. -/
theorem exec_watchCheck_missed (hc : c < nCores) (h : (s.core c).watches = [w]) (hseen : w.seen = some v)
    (hmiss : v.toNat < w.count.toNat) :
    exec (.watchCheck c) s =
      .next ((s.setCore c { s.core c with watches := [] }).raise (missRep s c w.due w.cc v w.count w.pc)) := by
  rw [exec_watchCheck_seen hc h hseen, raiseWatches_missed hseen hmiss]
  rfl

end

end

/-- Settles O15: each operation has its effect at issue; the end of cycle t + d notes the counter, and the check decides
by what was noted. -/
theorem waitsAndWatches : Obligations.WaitsAndWatches := by
  unfold Obligations.WaitsAndWatches
  refine ⟨?_, ?_, ?_, ?_⟩
  · intro s c gd cc g src d imm hi hl k x w pend
    exact ⟨exec_wait_issues hi hl, exec_watch_tracked hi hl, exec_watch_overflow hi hl, exec_arm_sets hi hl,
      exec_arm_released hi hl⟩
  · intro k n due cc x pc w
    obtain ⟨hissue, hwatches, hframe⟩ := closeCore_reads k n
    refine ⟨fun h => ?_, fun h hseen => ?_, hframe⟩
    · rw [hissue, noteChecks_issue_of_hold h]
    · rw [hwatches, noteChecks_watches_of_single h, hseen]
  · intro s c due cc n v pc hc hok k
    refine ⟨exec_waitCheck_unseen hc, exec_waitCheck_reached hc, fun h hmiss hrun => ?_⟩
    obtain ⟨hcore, hfaults, hreads⟩ := setCore_raise_reads hok hrun
    exact ⟨_, exec_waitCheck_missed hc h hmiss, hcore, hfaults, hreads⟩
  · intro s c w v hc hok h k
    refine ⟨fun hseen => ?_, exec_watchCheck_reached hc h, fun hseen hmiss hrun => ?_⟩
    · exact ⟨_, exec_watchCheck_unseen hc h hseen, core_setCore (twf_cores_of_coresOk hok), rfl⟩
    · obtain ⟨hcore, hfaults, hreads⟩ := setCore_raise_reads hok hrun
      exact ⟨_, exec_watchCheck_missed hc h hseen hmiss, hcore, hfaults, hreads⟩

end Sys2Proof.Proofs
end

section
/-! PROOFS. Slot words (R105, R111, R123, R140, R159): a field of an encoded word reads back, so decoding gives the operation. -/

namespace Sys2Proof.Proofs

open Sys2Proof Sys2Proof.Machine Sys2Proof.Safety Sys2Proof.Laws

theorem boolBit_eq (b : Bool) (lo : Nat) : boolBit b lo = (BitVec.ofBool b).toNat * 2 ^ lo := by
  cases b <;> simp [boolBit]

theorem slotHeader_eq (op : Nat) (g : Guard) :
    slotHeader op g = op * 2 ^ 56 + ((BitVec.ofBool g.gn).toNat * 2 ^ 55 + g.gp.toNat * 2 ^ 52) := by
  cases h : g.gn <;> simp [slotHeader, h, Nat.add_assoc]

/-! ### The fields of a word -/

theorem slotBit_eq (lo w : Nat) : slotBit lo w = decide (w / 2 ^ lo % 2 ^ 1 = 1) := rfl

theorem decide_ofBool_toNat (b : Bool) : decide ((BitVec.ofBool b).toNat = 1) = b := by
  cases b <;> rfl

/-- Bits above a field do not reach it. -/
theorem field_above {x p r lo n : Nat} (h : lo + n ≤ p) : (x * 2 ^ p + r) / 2 ^ lo % 2 ^ n = r / 2 ^ lo % 2 ^ n := by
  obtain ⟨k, rfl⟩ := Nat.exists_eq_add_of_le h
  have he : x * 2 ^ (lo + n + k) = x * 2 ^ k * 2 ^ n * 2 ^ lo := by rw [pow_add, pow_add]; ring
  rw [he, Nat.add_comm, Nat.add_mul_div_right _ _ (Nat.two_pow_pos lo), Nat.add_mul_mod_self_right]

theorem field_at {x r lo n : Nat} (hx : x < 2 ^ n) (hr : r < 2 ^ lo) : (x * 2 ^ lo + r) / 2 ^ lo % 2 ^ n = x := by
  rw [Nat.add_comm, Nat.add_mul_div_right _ _ (Nat.two_pow_pos lo), Nat.div_eq_of_lt hr, Nat.zero_add, Nat.mod_eq_of_lt hx]

theorem field_at_last {x lo n : Nat} (hx : x < 2 ^ n) : x * 2 ^ lo / 2 ^ lo % 2 ^ n = x := by
  rw [Nat.mul_div_cancel _ (Nat.two_pow_pos lo), Nat.mod_eq_of_lt hx]

/-- Bits below a field do not reach it. -/
theorem field_below {r lo n : Nat} (hr : r < 2 ^ lo) : r / 2 ^ lo % 2 ^ n = 0 := by
  rw [Nat.div_eq_of_lt hr, Nat.zero_mod]

theorem field_above_last {x p lo n : Nat} (h : lo + n ≤ p) : x * 2 ^ p / 2 ^ lo % 2 ^ n = 0 := by
  have := field_above (x := x) (r := 0) h
  simpa using this

theorem field_lowest {x n : Nat} (hx : x < 2 ^ n) : x / 2 ^ 0 % 2 ^ n = x := by
  rw [Nat.pow_zero, Nat.div_one, Nat.mod_eq_of_lt hx]

theorem opcode_at {x r lo : Nat} (hr : r < 2 ^ lo) : (x * 2 ^ lo + r) / 2 ^ lo = x := by
  rw [Nat.add_comm, Nat.add_mul_div_right _ _ (Nat.two_pow_pos lo), Nat.div_eq_of_lt hr, Nat.zero_add]

theorem decodeS_encodeS {i : Instr} {c w : Nat} (h : encodeS i = some w) (hc : slotCore i = some c) :
    decodeS c w = some i ∧ w < 2 ^ 64 := by
  cases i <;> simp only [encodeS, reduceCtorEq, Option.some.injEq] at h
  all_goals
    obtain rfl := Option.some.inj hc
    simp only [boolBit_eq, slotHeader_eq, Nat.add_assoc] at h
    subst h
    refine ⟨?_, by omega⟩
    rw [decodeS, opcode_at (by omega)]
    simp (disch := omega) only [slotGuard, slotField, slotBit_eq, slotZero, Nat.reduceAdd, Nat.reduceSub, field_above, field_at,
      field_at_last, field_above_last, field_below, field_lowest, decide_ofBool_toNat, BitVec.ofNat_toNat, BitVec.setWidth_eq, decide_true, if_true]

theorem decodeM_encodeM {i : Instr} {c w : Nat} (h : encodeM i = some w) (hc : slotCore i = some c) :
    decodeM c w = some i ∧ w < 2 ^ 64 := by
  cases i <;> simp only [encodeM, reduceCtorEq, Option.some.injEq] at h
  all_goals
    obtain rfl := Option.some.inj hc
    simp only [boolBit_eq, slotHeader_eq, Nat.add_assoc] at h
    subst h
    refine ⟨?_, by omega⟩
    rw [decodeM, opcode_at (by omega)]
    simp (disch := omega) only [slotGuard, slotField, slotBit_eq, slotZero, Nat.reduceAdd, Nat.reduceSub, field_above, field_at,
      field_at_last, field_above_last, field_below, field_lowest, decide_ofBool_toNat, BitVec.ofNat_toNat, BitVec.setWidth_eq, decide_true, Bool.and_self, if_true]

theorem decodeV_encodeV {i : Instr} {c w : Nat} (h : encodeV i = some w) (hc : slotCore i = some c) :
    decodeV c w = some i ∧ w < 2 ^ 64 := by
  cases i <;> simp only [encodeV, reduceCtorEq, Option.some.injEq] at h
  all_goals
    obtain rfl := Option.some.inj hc
    simp only [boolBit_eq, slotHeader_eq, Nat.add_assoc] at h
    subst h
    refine ⟨?_, by omega⟩
    rw [decodeV, opcode_at (by omega)]
    simp (disch := omega) only [slotGuard, slotField, slotBit_eq, slotZero, Nat.reduceAdd, Nat.reduceSub, field_above, field_at,
      field_at_last, field_above_last, field_below, decide_ofBool_toNat, BitVec.ofNat_toNat, BitVec.setWidth_eq, decide_true, Bool.and_self, if_true]

theorem decodeX_encodeX {i : Instr} {c w : Nat} (h : encodeX i = some w) (hc : slotCore i = some c) :
    decodeX c w = some i ∧ w < 2 ^ 64 := by
  cases i <;> simp only [encodeX, reduceCtorEq, Option.some.injEq] at h
  all_goals
    obtain rfl := Option.some.inj hc
    simp only [boolBit_eq, slotHeader_eq, Nat.add_assoc] at h
    subst h
    refine ⟨?_, by omega⟩
    rw [decodeX, opcode_at (by omega)]
    simp (disch := omega) only [slotGuard, slotField, slotBit_eq, slotZero, Nat.reduceAdd, Nat.reduceSub, field_above, field_at,
      field_at_last, field_above_last, field_lowest, decide_ofBool_toNat, BitVec.ofNat_toNat, BitVec.setWidth_eq, decide_true, if_true]

/-! ### The four slots -/

/-- A slot operation is a nop, of word 0, or has the word of exactly its own slot's table. -/
theorem encodeSlot_cases {i : Instr} {sl : SlotKind} {w : Nat} (h : encodeSlot i = some (sl, w)) :
    (∃ c gd, i = .nop c sl gd ∧ w = 0) ∨ (sl = .S ∧ encodeS i = some w) ∨ (sl = .M ∧ encodeM i = some w) ∨
    (sl = .V ∧ encodeV i = some w) ∨ (sl = .X ∧ encodeX i = some w) := by
  unfold encodeSlot at h
  split at h
  next c k gd =>
    obtain ⟨rfl, rfl⟩ := Prod.mk.inj (Option.some.inj h)
    exact .inl ⟨c, gd, rfl, rfl⟩
  next =>
    refine .inr ?_
    split at h
    · obtain ⟨rfl, rfl⟩ := Prod.mk.inj (Option.some.inj h); exact .inl ⟨rfl, by assumption⟩
    · obtain ⟨rfl, rfl⟩ := Prod.mk.inj (Option.some.inj h); exact .inr (.inl ⟨rfl, by assumption⟩)
    · obtain ⟨rfl, rfl⟩ := Prod.mk.inj (Option.some.inj h); exact .inr (.inr (.inl ⟨rfl, by assumption⟩))
    · obtain ⟨rfl, rfl⟩ := Prod.mk.inj (Option.some.inj h); exact .inr (.inr (.inr ⟨rfl, by assumption⟩))
    · cases h

theorem decodeSlot_nop (sl : SlotKind) (c : Nat) : decodeSlot sl c 0 = some (.nop c sl {}) := by
  cases sl <;> rfl

/-- Settles O6: in each slot the word read back field by field is the operation. -/
theorem slotDecodeOfEncode : Obligations.SlotDecodeOfEncode := by
  unfold Obligations.SlotDecodeOfEncode
  intro i c w sl h hc hnop
  rcases encodeSlot_cases h with ⟨c', gd, rfl, rfl⟩ | ⟨rfl, he⟩ | ⟨rfl, he⟩ | ⟨rfl, he⟩ | ⟨rfl, he⟩
  · obtain rfl := Option.some.inj hc
    rw [hnop gd rfl, decodeSlot_nop]
    exact ⟨rfl, by decide⟩
  · exact decodeS_encodeS he hc
  · exact decodeM_encodeM he hc
  · exact decodeV_encodeV he hc
  · exact decodeX_encodeX he hc

end Sys2Proof.Proofs
end

section
/-! PROOFS. The function that each command's arm calls. -/

namespace Sys2Proof.Proofs

open Sys2Proof Sys2Proof.Machine

variable {s : State}

@[simp] theorem exec_bundleIssue {c} : exec (.bundleIssue c) s = execBundleIssue c s := rfl
@[simp] theorem exec_nop {c sl gd} : exec (.nop c sl gd) s = execNop c sl gd s := rfl
@[simp] theorem exec_add {c gd d s1 s2} : exec (.add c gd d s1 s2) s = execAdd c gd d s1 s2 s := rfl
@[simp] theorem exec_sub {c gd d s1 s2} : exec (.sub c gd d s1 s2) s = execSub c gd d s1 s2 s := rfl
@[simp] theorem exec_and {c gd d s1 s2} : exec (.and c gd d s1 s2) s = execAnd c gd d s1 s2 s := rfl
@[simp] theorem exec_or {c gd d s1 s2} : exec (.or c gd d s1 s2) s = execOr c gd d s1 s2 s := rfl
@[simp] theorem exec_xor {c gd d s1 s2} : exec (.xor c gd d s1 s2) s = execXor c gd d s1 s2 s := rfl
@[simp] theorem exec_shl {c gd d s1 s2} : exec (.shl c gd d s1 s2) s = execShl c gd d s1 s2 s := rfl
@[simp] theorem exec_shr {c gd d s1 s2} : exec (.shr c gd d s1 s2) s = execShr c gd d s1 s2 s := rfl
@[simp] theorem exec_sra {c gd d s1 s2} : exec (.sra c gd d s1 s2) s = execSra c gd d s1 s2 s := rfl
@[simp] theorem exec_mul {c gd d s1 s2} : exec (.mul c gd d s1 s2) s = execMul c gd d s1 s2 s := rfl
@[simp] theorem exec_min {c gd d s1 s2} : exec (.min c gd d s1 s2) s = execMin c gd d s1 s2 s := rfl
@[simp] theorem exec_max {c gd d s1 s2} : exec (.max c gd d s1 s2) s = execMax c gd d s1 s2 s := rfl
@[simp] theorem exec_addi {c gd d s1 imm} : exec (.addi c gd d s1 imm) s = execAddi c gd d s1 imm s := rfl
@[simp] theorem exec_andi {c gd d s1 imm} : exec (.andi c gd d s1 imm) s = execAndi c gd d s1 imm s := rfl
@[simp] theorem exec_ori {c gd d s1 imm} : exec (.ori c gd d s1 imm) s = execOri c gd d s1 imm s := rfl
@[simp] theorem exec_xori {c gd d s1 imm} : exec (.xori c gd d s1 imm) s = execXori c gd d s1 imm s := rfl
@[simp] theorem exec_shli {c gd d s1 imm} : exec (.shli c gd d s1 imm) s = execShli c gd d s1 imm s := rfl
@[simp] theorem exec_shri {c gd d s1 imm} : exec (.shri c gd d s1 imm) s = execShri c gd d s1 imm s := rfl
@[simp] theorem exec_srai {c gd d s1 imm} : exec (.srai c gd d s1 imm) s = execSrai c gd d s1 imm s := rfl
@[simp] theorem exec_li {c gd d imm} : exec (.li c gd d imm) s = execLi c gd d imm s := rfl
@[simp] theorem exec_lih {c gd d imm} : exec (.lih c gd d imm) s = execLih c gd d imm s := rfl
@[simp] theorem exec_amov {c gd d s1} : exec (.amov c gd d s1) s = execAmov c gd d s1 s := rfl
@[simp] theorem exec_gmov {c gd d s1} : exec (.gmov c gd d s1) s = execGmov c gd d s1 s := rfl
@[simp] theorem exec_aadd {c gd d s1 imm} : exec (.aadd c gd d s1 imm) s = execAadd c gd d s1 imm s := rfl
@[simp] theorem exec_aaddg {c gd d s1 s2} : exec (.aaddg c gd d s1 s2) s = execAaddg c gd d s1 s2 s := rfl
@[simp] theorem exec_br {c gd off} : exec (.br c gd off) s = execBr c gd off s := rfl
@[simp] theorem exec_bdec {c gd g off} : exec (.bdec c gd g off) s = execBdec c gd g off s := rfl
@[simp] theorem exec_jr {c gd g} : exec (.jr c gd g) s = execJr c gd g s := rfl
@[simp] theorem exec_jal {c gd g off} : exec (.jal c gd g off) s = execJal c gd g off s := rfl
@[simp] theorem exec_rdsh {c gd d s1} : exec (.rdsh c gd d s1) s = execRdsh c gd d s1 s := rfl
@[simp] theorem exec_rdcyc {c gd d} : exec (.rdcyc c gd d) s = execRdcyc c gd d s := rfl
@[simp] theorem exec_rdcc {c gd cc g} : exec (.rdcc c gd cc g) s = execRdcc c gd cc g s := rfl
@[simp] theorem exec_front {c gd num bound stp} : exec (.front c gd num bound stp) s = execFront c gd num bound stp s := rfl
@[simp] theorem exec_frontRelease : exec .frontRelease s = execFrontRelease s := rfl
@[simp] theorem exec_frontTimeout : exec .frontTimeout s = execFrontTimeout s := rfl
@[simp] theorem exec_ld {c gd a reg size sx off} : exec (.ld c gd a reg size sx off) s = execLd c gd a reg size sx off s := rfl
@[simp] theorem exec_st {c gd a reg size off} : exec (.st c gd a reg size off) s = execSt c gd a reg size off s := rfl
@[simp] theorem exec_ldv {c gd a reg tm off} : exec (.ldv c gd a reg tm off) s = execLdv c gd a reg tm off s := rfl
@[simp] theorem exec_stv {c gd a reg off} : exec (.stv c gd a reg off) s = execStv c gd a reg off s := rfl
@[simp] theorem exec_cget {c gd a g cc lines tm} : exec (.cget c gd a g cc lines tm) s = execCget c gd a g cc lines tm s := rfl
@[simp] theorem exec_cput {c gd a g cc lines} : exec (.cput c gd a g cc lines) s = execCput c gd a g cc lines s := rfl
@[simp] theorem exec_clusterTransferComplete {id} : exec (.clusterTransferComplete id) s = execClusterTransferComplete id s := rfl
@[simp] theorem exec_send {c gd a gH flits cc lc} : exec (.send c gd a gH flits cc lc) s = execSend c gd a gH flits cc lc s := rfl
@[simp] theorem exec_get {c gd gH gR flits cc lc} : exec (.get c gd gH gR flits cc lc) s = execGet c gd gH gR flits cc lc s := rfl
@[simp] theorem exec_wld {c gd wafer g pages cc} : exec (.wld c gd wafer g pages cc) s = execWld c gd wafer g pages cc s := rfl
@[simp] theorem exec_wdrop {c gd granules} : exec (.wdrop c gd granules) s = execWdrop c gd granules s := rfl
@[simp] theorem exec_kvld {c gd area g a lines cc} : exec (.kvld c gd area g a lines cc) s = execKvld c gd area g a lines cc s := rfl
@[simp] theorem exec_kvst {c gd area g a lines cc qm} : exec (.kvst c gd area g a lines cc qm) s = execKvst c gd area g a lines cc qm s := rfl
@[simp] theorem exec_hput {c gd a kind cc lines} : exec (.hput c gd a kind cc lines) s = execHput c gd a kind cc lines s := rfl
@[simp] theorem exec_weightPageArrival {pcl wafer idx res} : exec (.weightPageArrival pcl wafer idx res) s = execWeightPageArrival pcl wafer idx res s := rfl
@[simp] theorem exec_kvldComplete {id corr bad} : exec (.kvldComplete id corr bad) s = execKvldComplete id corr bad s := rfl
@[simp] theorem exec_kvstComplete {id ecc} : exec (.kvstComplete id ecc) s = execKvstComplete id ecc s := rfl
@[simp] theorem exec_hputAccept {id} : exec (.hputAccept id) s = execHputAccept id s := rfl
@[simp] theorem exec_tld {c gd amask slot sc src a tm} : exec (.tld c gd amask slot sc src a tm) s = execTld c gd amask slot sc src a tm s := rfl
@[simp] theorem exec_strm {c gd amask tsrc opn b len gV gM a af asr anchor} : exec (.strm c gd amask tsrc opn b len gV gM a af asr anchor) s = execStrm c gd amask tsrc opn b len gV gM a af asr anchor s := rfl
@[simp] theorem exec_drn {c gd arr r0 rows form dst a cc} : exec (.drn c gd arr r0 rows form dst a cc) s = execDrn c gd arr r0 rows form dst a cc s := rfl
@[simp] theorem exec_drainWrite {c arr} : exec (.drainWrite c arr) s = execDrainWrite c arr s := rfl
@[simp] theorem exec_ainit {c gd arr r0 rows form dst a cc} : exec (.ainit c gd arr r0 rows form dst a cc) s = execAinit c gd arr r0 rows form dst a cc s := rfl
@[simp] theorem exec_amode {c gd wf ae xm nc ceil} : exec (.amode c gd wf ae xm nc ceil) s = execAmode c gd wf ae xm nc ceil s := rfl
@[simp] theorem exec_cvt {c gd rank vsrc av ax asr af p ks anchor cc} : exec (.cvt c gd rank vsrc av ax asr af p ks anchor cc) s = execCvt c gd rank vsrc av ax asr af p ks anchor cc s := rfl
@[simp] theorem exec_cut {c gd rank usrc au p outs grp opn anchor cc rbase ns} : exec (.cut c gd rank usrc au p outs grp opn anchor cc rbase ns) s = execCut c gd rank usrc au p outs grp opn anchor cc rbase ns s := rfl
@[simp] theorem exec_cout {c gd arr half p rbase opn anchor cc} : exec (.cout c gd arr half p rbase opn anchor cc) s = execCout c gd arr half p rbase opn anchor cc s := rfl
@[simp] theorem exec_correctionOpEnd {c} : exec (.correctionOpEnd c) s = execCorrectionOpEnd c s := rfl
@[simp] theorem exec_cmerge {c gd arr b rbase rows} : exec (.cmerge c gd arr b rbase rows) s = execCmerge c gd arr b rbase rows s := rfl
@[simp] theorem exec_vadd {c gd vd vs1 vs2 ty} : exec (.vadd c gd vd vs1 vs2 ty) s = execVadd c gd vd vs1 vs2 ty s := rfl
@[simp] theorem exec_vsub {c gd vd vs1 vs2 ty} : exec (.vsub c gd vd vs1 vs2 ty) s = execVsub c gd vd vs1 vs2 ty s := rfl
@[simp] theorem exec_vmul {c gd vd vs1 vs2 ty} : exec (.vmul c gd vd vs1 vs2 ty) s = execVmul c gd vd vs1 vs2 ty s := rfl
@[simp] theorem exec_vfma {c gd vd vs1 vs2 vs3 ty} : exec (.vfma c gd vd vs1 vs2 vs3 ty) s = execVfma c gd vd vs1 vs2 vs3 ty s := rfl
@[simp] theorem exec_vmin {c gd vd vs1 vs2 ty} : exec (.vmin c gd vd vs1 vs2 ty) s = execVmin c gd vd vs1 vs2 ty s := rfl
@[simp] theorem exec_vmax {c gd vd vs1 vs2 ty} : exec (.vmax c gd vd vs1 vs2 ty) s = execVmax c gd vd vs1 vs2 ty s := rfl
@[simp] theorem exec_vcmp {c gd vd vs1 vs2 ty cond} : exec (.vcmp c gd vd vs1 vs2 ty cond) s = execVcmp c gd vd vs1 vs2 ty cond s := rfl
@[simp] theorem exec_vsel {c gd vd vs1 vs2 vs3 ty} : exec (.vsel c gd vd vs1 vs2 vs3 ty) s = execVsel c gd vd vs1 vs2 vs3 ty s := rfl
@[simp] theorem exec_vexp {c gd vd vs1 ty} : exec (.vexp c gd vd vs1 ty) s = execVexp c gd vd vs1 ty s := rfl
@[simp] theorem exec_vlog {c gd vd vs1 ty} : exec (.vlog c gd vd vs1 ty) s = execVlog c gd vd vs1 ty s := rfl
@[simp] theorem exec_vrcp {c gd vd vs1 ty} : exec (.vrcp c gd vd vs1 ty) s = execVrcp c gd vd vs1 ty s := rfl
@[simp] theorem exec_vrsq {c gd vd vs1 ty} : exec (.vrsq c gd vd vs1 ty) s = execVrsq c gd vd vs1 ty s := rfl
@[simp] theorem exec_vrsum {c gd vd vs1 ty} : exec (.vrsum c gd vd vs1 ty) s = execVrsum c gd vd vs1 ty s := rfl
@[simp] theorem exec_vrmax {c gd vd vs1 ty} : exec (.vrmax c gd vd vs1 ty) s = execVrmax c gd vd vs1 ty s := rfl
@[simp] theorem exec_vrmin {c gd vd vs1 ty} : exec (.vrmin c gd vd vs1 ty) s = execVrmin c gd vd vs1 ty s := rfl
@[simp] theorem exec_vcvt {c gd vd vs1 sf df h} : exec (.vcvt c gd vd vs1 sf df h) s = execVcvt c gd vd vs1 sf df h s := rfl
@[simp] theorem exec_vquant {c gd vd vs1 sf df h} : exec (.vquant c gd vd vs1 sf df h) s = execVquant c gd vd vs1 sf df h s := rfl
@[simp] theorem exec_vdeq {c gd vd vs1 sf df h} : exec (.vdeq c gd vd vs1 sf df h) s = execVdeq c gd vd vs1 sf df h s := rfl
@[simp] theorem exec_vwadd {c gd vd vs1 vs2 ty} : exec (.vwadd c gd vd vs1 vs2 ty) s = execVwadd c gd vd vs1 vs2 ty s := rfl
@[simp] theorem exec_vwrnd {c gd vd vs1 ty} : exec (.vwrnd c gd vd vs1 ty) s = execVwrnd c gd vd vs1 ty s := rfl
@[simp] theorem exec_vpop {c gd vd arr grp} : exec (.vpop c gd vd arr grp) s = execVpop c gd vd arr grp s := rfl
@[simp] theorem exec_vext {c gd d s1 lane ty} : exec (.vext c gd d s1 lane ty) s = execVext c gd d s1 lane ty s := rfl
@[simp] theorem exec_vsplat {c gd d s1 ty} : exec (.vsplat c gd d s1 ty) s = execVsplat c gd d s1 ty s := rfl
@[simp] theorem exec_vtopm {c gd vd vs1 gs init} : exec (.vtopm c gd vd vs1 gs init) s = execVtopm c gd vd vs1 gs init s := rfl
@[simp] theorem exec_routerHop {id} : exec (.routerHop id) s = execRouterHop id s := rfl
@[simp] theorem exec_gatewayLookup {id} : exec (.gatewayLookup id) s = execGatewayLookup id s := rfl
@[simp] theorem exec_reduceCombine {pcl tree} : exec (.reduceCombine pcl tree) s = execReduceCombine pcl tree s := rfl
@[simp] theorem exec_packetDelivery {id} : exec (.packetDelivery id) s = execPacketDelivery id s := rfl
@[simp] theorem exec_getReply {id} : exec (.getReply id) s = execGetReply id s := rfl
@[simp] theorem exec_squallStop : exec .squallStop s = execSquallStop s := rfl
@[simp] theorem exec_transitFault {pf} : exec (.transitFault pf) s = execTransitFault pf s := rfl
@[simp] theorem exec_loadStart : exec .loadStart s = execLoadStart s := rfl
@[simp] theorem exec_loadAbort : exec .loadAbort s = execLoadAbort s := rfl
@[simp] theorem exec_loadPass1 {img} : exec (.loadPass1 img) s = execLoadPass1 img s := rfl
@[simp] theorem exec_loadVerify : exec .loadVerify s = execLoadVerify s := rfl
@[simp] theorem exec_loadCheck : exec .loadCheck s = execLoadCheck s := rfl
@[simp] theorem exec_loadMap {plan} : exec (.loadMap plan) s = execLoadMap plan s := rfl
@[simp] theorem exec_loadPass2 {img lost} : exec (.loadPass2 img lost) s = execLoadPass2 img lost s := rfl
@[simp] theorem exec_clusterDigestCheck {lcl} : exec (.clusterDigestCheck lcl) s = execClusterDigestCheck lcl s := rfl
@[simp] theorem exec_resendRound {img lost} : exec (.resendRound img lost) s = execResendRound img lost s := rfl
@[simp] theorem exec_loadCopy : exec .loadCopy s = execLoadCopy s := rfl
@[simp] theorem exec_install {man} : exec (.install man) s = execInstall man s := rfl
@[simp] theorem exec_wstResume {man} : exec (.wstResume man) s = execWstResume man s := rfl
@[simp] theorem exec_wstAbort : exec .wstAbort s = execWstAbort s := rfl
@[simp] theorem exec_eraseSlot : exec .eraseSlot s = execEraseSlot s := rfl
@[simp] theorem exec_reProvision : exec .reProvision s = execReProvision s := rfl
@[simp] theorem exec_substitute : exec .substitute s = execSubstitute s := rfl
@[simp] theorem exec_wstReservedCmd {cmd} : exec (.wstReservedCmd cmd) s = execWstReservedCmd cmd s := rfl
@[simp] theorem exec_sliceFetchComplete {shard sl} : exec (.sliceFetchComplete shard sl) s = execSliceFetchComplete shard sl s := rfl
@[simp] theorem exec_shardFetchTimeout {shard} : exec (.shardFetchTimeout shard) s = execShardFetchTimeout shard s := rfl
@[simp] theorem exec_slotEraseComplete {slot} : exec (.slotEraseComplete slot) s = execSlotEraseComplete slot s := rfl
@[simp] theorem exec_remapApply : exec .remapApply s = execRemapApply s := rfl
@[simp] theorem exec_weightScrub {wafer pcl page res} : exec (.weightScrub wafer pcl page res) s = execWeightScrub wafer pcl page res s := rfl
@[simp] theorem exec_fieldSubstitutionStart : exec .fieldSubstitutionStart s = execFieldSubstitutionStart s := rfl
@[simp] theorem exec_substitutionCopyEnd {pages lines} : exec (.substitutionCopyEnd pages lines) s = execSubstitutionCopyEnd pages lines s := rfl
@[simp] theorem exec_kvApply : exec .kvApply s = execKvApply s := rfl
@[simp] theorem exec_kvPatrolScrub {line res} : exec (.kvPatrolScrub line res) s = execKvPatrolScrub line res s := rfl
@[simp] theorem exec_arrivalTick : exec .arrivalTick s = execArrivalTick s := rfl
@[simp] theorem exec_gaugeTick : exec .gaugeTick s = execGaugeTick s := rfl
@[simp] theorem exec_stepBoundary : exec .stepBoundary s = execStepBoundary s := rfl
@[simp] theorem exec_submissionDoorbell {owner t hidx reads} : exec (.submissionDoorbell owner t hidx reads) s = execSubmissionDoorbell owner t hidx reads s := rfl
@[simp] theorem exec_startReq {t r} : exec (.startReq t r) s = execStartReq t r s := rfl
@[simp] theorem exec_continueReq {t r} : exec (.continueReq t r) s = execContinueReq t r s := rfl
@[simp] theorem exec_pauseReq {t r} : exec (.pauseReq t r) s = execPauseReq t r s := rfl
@[simp] theorem exec_resumeReq {t r} : exec (.resumeReq t r) s = execResumeReq t r s := rfl
@[simp] theorem exec_cancelReq {t r} : exec (.cancelReq t r) s = execCancelReq t r s := rfl
@[simp] theorem exec_adapterUpload {t r} : exec (.adapterUpload t r) s = execAdapterUpload t r s := rfl
@[simp] theorem exec_adapterRelease {t r} : exec (.adapterRelease t r) s = execAdapterRelease t r s := rfl
@[simp] theorem exec_adapterLoadComplete {slot res} : exec (.adapterLoadComplete slot res) s = execAdapterLoadComplete slot res s := rfl
@[simp] theorem exec_parkAll : exec .parkAll s = execParkAll s := rfl
@[simp] theorem exec_parkComplete {slot copy} : exec (.parkComplete slot copy) s = execParkComplete slot copy s := rfl
@[simp] theorem exec_parkRetry {slot} : exec (.parkRetry slot) s = execParkRetry slot s := rfl
@[simp] theorem exec_restoreComplete {slot copy} : exec (.restoreComplete slot copy) s = execRestoreComplete slot copy s := rfl
@[simp] theorem exec_snowpackOpTimeout {slot} : exec (.snowpackOpTimeout slot) s = execSnowpackOpTimeout slot s := rfl
@[simp] theorem exec_snowpackExpiry {parkId} : exec (.snowpackExpiry parkId) s = execSnowpackExpiry parkId s := rfl
@[simp] theorem exec_ringConfigWrite {owner ring v} : exec (.ringConfigWrite owner ring v) s = execRingConfigWrite owner ring v s := rfl
@[simp] theorem exec_hostIndexWrite {owner ring v} : exec (.hostIndexWrite owner ring v) s = execHostIndexWrite owner ring v s := rfl
@[simp] theorem exec_interruptModeration {t tok} : exec (.interruptModeration t tok) s = execInterruptModeration t tok s := rfl
@[simp] theorem exec_functionLevelReset {t} : exec (.functionLevelReset t) s = execFunctionLevelReset t s := rfl
@[simp] theorem exec_drainComplete {t} : exec (.drainComplete t) s = execDrainComplete t s := rfl
@[simp] theorem exec_vfEnable {t} : exec (.vfEnable t) s = execVfEnable t s := rfl
@[simp] theorem exec_function0Reset : exec .function0Reset s = execFunction0Reset s := rfl
@[simp] theorem exec_cxlLinkDown {why} : exec (.cxlLinkDown why) s = execCxlLinkDown why s := rfl
@[simp] theorem exec_cxlLinkUp : exec .cxlLinkUp s = execCxlLinkUp s := rfl
@[simp] theorem exec_cxlCompletionTimeout {what addr again late} : exec (.cxlCompletionTimeout what addr again late) s = execCxlCompletionTimeout what addr again late s := rfl
@[simp] theorem exec_hdmAccess {addr wr len ecc} : exec (.hdmAccess addr wr len ecc) s = execHdmAccess addr wr len ecc s := rfl
@[simp] theorem exec_identify : exec .identify s = execIdentify s := rfl
@[simp] theorem exec_getTimestamp : exec .getTimestamp s = execGetTimestamp s := rfl
@[simp] theorem exec_setTimestamp {v} : exec (.setTimestamp v) s = execSetTimestamp v s := rfl
@[simp] theorem exec_getSupportedLogs : exec .getSupportedLogs s = execGetSupportedLogs s := rfl
@[simp] theorem exec_getLog {cel off len} : exec (.getLog cel off len) s = execGetLog cel off len s := rfl
@[simp] theorem exec_identifyMemoryDevice : exec .identifyMemoryDevice s = execIdentifyMemoryDevice s := rfl
@[simp] theorem exec_setQp {qp ctx} : exec (.setQp qp ctx) s = execSetQp qp ctx s := rfl
@[simp] theorem exec_getQp {qp} : exec (.getQp qp) s = execGetQp qp s := rfl
@[simp] theorem exec_setPortAddresses {payload} : exec (.setPortAddresses payload) s = execSetPortAddresses payload s := rfl
@[simp] theorem exec_unsupportedOpcode {op} : exec (.unsupportedOpcode op) s = execUnsupportedOpcode op s := rfl
@[simp] theorem exec_getIdentity : exec .getIdentity s = execGetIdentity s := rfl
@[simp] theorem exec_getNonce : exec .getNonce s = execGetNonce s := rfl
@[simp] theorem exec_getAttestationReport {nonce} : exec (.getAttestationReport nonce) s = execGetAttestationReport nonce s := rfl
@[simp] theorem exec_enrolOwner {payload} : exec (.enrolOwner payload) s = execEnrolOwner payload s := rfl
@[simp] theorem exec_replaceOwnerKeys {payload} : exec (.replaceOwnerKeys payload) s = execReplaceOwnerKeys payload s := rfl
@[simp] theorem exec_clearOwnership {payload} : exec (.clearOwnership payload) s = execClearOwnership payload s := rfl
@[simp] theorem exec_rotateTenantKey {payload} : exec (.rotateTenantKey payload) s = execRotateTenantKey payload s := rfl
@[simp] theorem exec_getTenantKeyEpoch {t} : exec (.getTenantKeyEpoch t) s = execGetTenantKeyEpoch t s := rfl
@[simp] theorem exec_hostPush {t data} : exec (.hostPush t data) s = execHostPush t data s := rfl
@[simp] theorem exec_rdmaWriteArrival {rx rkey addr data} : exec (.rdmaWriteArrival rx rkey addr data) s = execRdmaWriteArrival rx rkey addr data s := rfl
@[simp] theorem exec_sendArrival {rx data} : exec (.sendArrival rx data) s = execSendArrival rx data s := rfl
@[simp] theorem exec_rdmaReadRequest {rx rkey addr len} : exec (.rdmaReadRequest rx rkey addr len) s = execRdmaReadRequest rx rkey addr len s := rfl
@[simp] theorem exec_ackTimeout {loss} : exec (.ackTimeout loss) s = execAckTimeout loss s := rfl
@[simp] theorem exec_rateInterval : exec .rateInterval s = execRateInterval s := rfl
@[simp] theorem exec_fabricPortDown {p loss} : exec (.fabricPortDown p loss) s = execFabricPortDown p loss s := rfl
@[simp] theorem exec_fabricPortUp {p} : exec (.fabricPortUp p) s = execFabricPortUp p s := rfl
@[simp] theorem exec_portEnable {p v} : exec (.portEnable p v) s = execPortEnable p v s := rfl
@[simp] theorem exec_isobarJoin {v} : exec (.isobarJoin v) s = execIsobarJoin v s := rfl
@[simp] theorem exec_isobarFrameReceive {frame} : exec (.isobarFrameReceive frame) s = execIsobarFrameReceive frame s := rfl
@[simp] theorem exec_isobarTimeFrame : exec .isobarTimeFrame s = execIsobarTimeFrame s := rfl
@[simp] theorem exec_isobarBudgetFrame : exec .isobarBudgetFrame s = execIsobarBudgetFrame s := rfl
@[simp] theorem exec_isobarShareCompute : exec .isobarShareCompute s = execIsobarShareCompute s := rfl
@[simp] theorem exec_isobarAlarm {code detail} : exec (.isobarAlarm code detail) s = execIsobarAlarm code detail s := rfl
@[simp] theorem exec_isobarBreakTimeout : exec .isobarBreakTimeout s = execIsobarBreakTimeout s := rfl
@[simp] theorem exec_isobarMasterLost : exec .isobarMasterLost s = execIsobarMasterLost s := rfl
@[simp] theorem exec_smbIdentity : exec .smbIdentity s = execSmbIdentity s := rfl
@[simp] theorem exec_smbState : exec .smbState s = execSmbState s := rfl
@[simp] theorem exec_smbFaultSummary : exec .smbFaultSummary s = execSmbFaultSummary s := rfl
@[simp] theorem exec_smbDieTemperature {code} : exec (.smbDieTemperature code) s = execSmbDieTemperature code s := rfl
@[simp] theorem exec_smbCoolantTemperature {outlet} : exec (.smbCoolantTemperature outlet) s = execSmbCoolantTemperature outlet s := rfl
@[simp] theorem exec_smbFlow : exec .smbFlow s = execSmbFlow s := rfl
@[simp] theorem exec_smbPower {code} : exec (.smbPower code) s = execSmbPower code s := rfl
@[simp] theorem exec_smbRackBudget {v} : exec (.smbRackBudget v) s = execSmbRackBudget v s := rfl
@[simp] theorem exec_smbIdentifyPattern {v} : exec (.smbIdentifyPattern v) s = execSmbIdentifyPattern v s := rfl
@[simp] theorem exec_bypass : exec .bypass s = execBypass s := rfl
@[simp] theorem exec_idcode : exec .idcode s = execIdcode s := rfl
@[simp] theorem exec_samplePreload {pins} : exec (.samplePreload pins) s = execSamplePreload pins s := rfl
@[simp] theorem exec_extest : exec .extest s = execExtest s := rfl
@[simp] theorem exec_clamp : exec .clamp s = execClamp s := rfl
@[simp] theorem exec_highz : exec .highz s = execHighz s := rfl
@[simp] theorem exec_extestPulse : exec .extestPulse s = execExtestPulse s := rfl
@[simp] theorem exec_extestTrain : exec .extestTrain s = execExtestTrain s := rfl
@[simp] theorem exec_avsSetpointAdjust : exec .avsSetpointAdjust s = execAvsSetpointAdjust s := rfl
@[simp] theorem exec_virUndervoltage {okFell} : exec (.virUndervoltage okFell) s = execVirUndervoltage okFell s := rfl
@[simp] theorem exec_virOkRestored : exec .virOkRestored s = execVirOkRestored s := rfl
@[simp] theorem exec_clockStepChange : exec .clockStepChange s = execClockStepChange s := rfl
@[simp] theorem exec_stateTargetWrite {v} : exec (.stateTargetWrite v) s = execStateTargetWrite v s := rfl
@[simp] theorem exec_stateTransition : exec .stateTransition s = execStateTransition s := rfl
@[simp] theorem exec_idleDescent : exec .idleDescent s = execIdleDescent s := rfl
@[simp] theorem exec_forcedChange {cause} : exec (.forcedChange cause) s = execForcedChange cause s := rfl
@[simp] theorem exec_regulatorTileTrip {die pf cl tile rail} : exec (.regulatorTileTrip die pf cl tile rail) s = execRegulatorTileTrip die pf cl tile rail s := rfl
@[simp] theorem exec_vtransitFeedTrip {pf cl neighbour} : exec (.vtransitFeedTrip pf cl neighbour) s = execVtransitFeedTrip pf cl neighbour s := rfl
@[simp] theorem exec_thermalSample {reads} : exec (.thermalSample reads) s = execThermalSample reads s := rfl
@[simp] theorem exec_powerCapUpdate {p} : exec (.powerCapUpdate p) s = execPowerCapUpdate p s := rfl
@[simp] theorem exec_clockStepControl {p} : exec (.clockStepControl p) s = execClockStepControl p s := rfl
@[simp] theorem exec_capBelowStep6 : exec .capBelowStep6 s = execCapBelowStep6 s := rfl
@[simp] theorem exec_coolantStop : exec .coolantStop s = execCoolantStop s := rfl
@[simp] theorem exec_coolantRestored : exec .coolantRestored s = execCoolantRestored s := rfl
@[simp] theorem exec_dewPointCheck : exec .dewPointCheck s = execDewPointCheck s := rfl
@[simp] theorem exec_sensorRecal : exec .sensorRecal s = execSensorRecal s := rfl
@[simp] theorem exec_vsbApply {strapHigh testOk} : exec (.vsbApply strapHigh testOk) s = execVsbApply strapHigh testOk s := rfl
@[simp] theorem exec_perstAssert : exec .perstAssert s = execPerstAssert s := rfl
@[simp] theorem exec_perstRelease : exec .perstRelease s = execPerstRelease s := rfl
@[simp] theorem exec_bringupPhaseComplete {found} : exec (.bringupPhaseComplete found) s = execBringupPhaseComplete found s := rfl
@[simp] theorem exec_coolantConditionMet : exec .coolantConditionMet s = execCoolantConditionMet s := rfl
@[simp] theorem exec_virOkTimeout : exec .virOkTimeout s = execVirOkTimeout s := rfl
@[simp] theorem exec_postSquallTest {res dur} : exec (.postSquallTest res dur) s = execPostSquallTest res dur s := rfl
@[simp] theorem exec_attnPress : exec .attnPress s = execAttnPress s := rfl
@[simp] theorem exec_attnHold : exec .attnHold s = execAttnHold s := rfl
@[simp] theorem exec_presenceExpiry : exec .presenceExpiry s = execPresenceExpiry s := rfl
@[simp] theorem exec_removePress : exec .removePress s = execRemovePress s := rfl
@[simp] theorem exec_removalParkTimeout : exec .removalParkTimeout s = execRemovalParkTimeout s := rfl
@[simp] theorem exec_removalCancel : exec .removalCancel s = execRemovalCancel s := rfl
@[simp] theorem exec_touchDetect {pad mean} : exec (.touchDetect pad mean) s = execTouchDetect pad mean s := rfl
@[simp] theorem exec_presenceChange {bit v} : exec (.presenceChange bit v) s = execPresenceChange bit v s := rfl
@[simp] theorem exec_calIsoChange {low} : exec (.calIsoChange low) s = execCalIsoChange low s := rfl
@[simp] theorem exec_adcSample {slot raw} : exec (.adcSample slot raw) s = execAdcSample slot raw s := rfl
@[simp] theorem exec_feTempRead {temps} : exec (.feTempRead temps) s = execFeTempRead temps s := rfl
@[simp] theorem exec_driftCalibration {sz sf z f} : exec (.driftCalibration sz sf z f) s = execDriftCalibration sz sf z f s := rfl
@[simp] theorem exec_driftRetry {n} : exec (.driftRetry n) s = execDriftRetry n s := rfl
@[simp] theorem exec_driftAll : exec .driftAll s = execDriftAll s := rfl
@[simp] theorem exec_adcFeWrite {n v} : exec (.adcFeWrite n v) s = execAdcFeWrite n v s := rfl
@[simp] theorem exec_syscalPoint0 {mean} : exec (.syscalPoint0 mean) s = execSyscalPoint0 mean s := rfl
@[simp] theorem exec_syscalPoint1 {mean} : exec (.syscalPoint1 mean) s = execSyscalPoint1 mean s := rfl
@[simp] theorem exec_lowerHalfRead {view run} : exec (.lowerHalfRead view run) s = execLowerHalfRead view run s := rfl
@[simp] theorem exec_registerWrite {view off size v} : exec (.registerWrite view off size v) s = execRegisterWrite view off size v s := rfl
@[simp] theorem exec_vsbLoss : exec .vsbLoss s = execVsbLoss s := rfl
@[simp] theorem exec_spdmRequest {req keys} : exec (.spdmRequest req keys) s = execSpdmRequest req keys s := rfl
@[simp] theorem exec_arpRequest {rx addr} : exec (.arpRequest rx addr) s = execArpRequest rx addr s := rfl
@[simp] theorem exec_cnpReceived {rx} : exec (.cnpReceived rx) s = execCnpReceived rx s := rfl
@[simp] theorem exec_barographVoteDisagreement : exec .barographVoteDisagreement s = execBarographVoteDisagreement s := rfl
@[simp] theorem exec_upperHalfRead {view run} : exec (.upperHalfRead view run) s = execUpperHalfRead view run s := rfl
@[simp] theorem exec_virOkAsserted : exec .virOkAsserted s = execVirOkAsserted s := rfl

end Sys2Proof.Proofs
end

section
/-! PROOFS. Guards and illegal encodings: what every slot operation has in common. -/

namespace Sys2Proof.Proofs

open Sys2Proof Sys2Proof.Machine Sys2Proof.Safety Sys2Proof.Laws

/-- Command i of core c is the issue of its slot, under the guard of its word, legal exactly as its encoding is, and also when
it is not in a delay slot where that matters. -/
def IssuesSlot (i : Instr) (c w : Nat) (sl : SlotKind) (s : State) : Prop :=
  ∃ legal act, exec i s = issueSlot s c sl (slotGuard w) legal act ∧
    (slotLegal i = false → legal = false) ∧ (slotLegal i = true → (s.core c).delaySlot = false → legal = true)

theorem turnBytes_eq_tileBytes (tm : BitVec 3) : turnBytes tm = tileBytes tm := by
  decide +revert

theorem tldLegal_eq_tileLoadOk (amask : BitVec 4) (sc src : Bool) (a : BitVec 4) (tm : BitVec 3) :
    tldLegal amask sc src a tm = tileLoadOk amask sc src a tm := rfl

theorem slotGuard_of_word {op rest w : Nat} {gd : Guard} (hr : rest < 2 ^ 52)
    (hw : op * 2 ^ 56 + ((BitVec.ofBool gd.gn).toNat * 2 ^ 55 + (gd.gp.toNat * 2 ^ 52 + rest)) = w) : slotGuard w = gd := by
  subst hw
  simp (disch := omega) only [slotGuard, slotField, slotBit_eq, field_above, field_at, decide_ofBool_toNat,
    BitVec.ofNat_toNat, BitVec.setWidth_eq]

section
variable {i : Instr} {c w : Nat} {s : State}

theorem issuesSlot_encodeS (he : encodeS i = some w) (hc : slotCore i = some c) : IssuesSlot i c w .S s := by
  cases i <;> simp only [encodeS, reduceCtorEq, Option.some.injEq] at he
  all_goals
    obtain rfl := Option.some.inj hc
    simp only [boolBit_eq, slotHeader_eq, Nat.add_assoc] at he
    have hgd : slotGuard w = ‹Guard› := slotGuard_of_word (by omega) he
    clear he hc
    unfold IssuesSlot
    rw [hgd]
    simp only [
      exec_add, exec_sub, exec_and, exec_or, exec_xor, exec_shl, exec_shr, exec_sra, exec_mul, exec_min, exec_max,
      exec_addi, exec_andi, exec_ori, exec_xori, exec_shli, exec_shri, exec_srai, exec_li, exec_lih, exec_cmp, exec_plog,
      exec_amov, exec_gmov, exec_aadd, exec_aaddg, exec_br, exec_bdec, exec_jr, exec_jal, exec_rdsh, exec_rdcyc, exec_rdcc,
      exec_cset, exec_cadd, exec_csub, exec_wait, exec_watch, exec_arm, exec_front, execAdd, execSub, execAnd, execOr,
      execXor, execShl, execShr, execSra, execMul, execMin, execMax, execAddi, execAndi, execOri, execXori, execShli,
      execShri, execSrai, execLi, execLih, execBr, execBdec, execJr, execJal]
    refine ⟨_, _, rfl, ?_, ?_⟩
    all_goals
      delta slotLegal
      simp_all [aregOk, countOk, ccLegal]

theorem issuesSlot_encodeM (he : encodeM i = some w) (hc : slotCore i = some c) : IssuesSlot i c w .M s := by
  cases i <;> simp only [encodeM, reduceCtorEq, Option.some.injEq] at he
  all_goals
    obtain rfl := Option.some.inj hc
    simp only [boolBit_eq, slotHeader_eq, Nat.add_assoc] at he
    have hgd : slotGuard w = ‹Guard› := slotGuard_of_word (by omega) he
    clear he hc
    unfold IssuesSlot
    rw [hgd]
    simp only [
      exec_ld, exec_st, exec_ldv, exec_stv, exec_cget, exec_cput, exec_send, exec_get, exec_wld, exec_wdrop, exec_kvld,
      exec_kvst, exec_hput, execLdv, execCget, turnCycles,
      turnBytes_eq_tileBytes]
    exact ⟨_, _, rfl, id, fun h _ => h⟩

theorem issuesSlot_encodeV (he : encodeV i = some w) (hc : slotCore i = some c) : IssuesSlot i c w .V s := by
  cases i <;> simp only [encodeV, reduceCtorEq, Option.some.injEq] at he
  all_goals
    obtain rfl := Option.some.inj hc
    simp only [boolBit_eq, slotHeader_eq, Nat.add_assoc] at he
    have hgd : slotGuard w = ‹Guard› := slotGuard_of_word (by omega) he
    clear he hc
    unfold IssuesSlot
    rw [hgd]
    simp only [
      exec_vadd, exec_vsub, exec_vmul, exec_vfma, exec_vmin, exec_vmax, exec_vcmp, exec_vsel, exec_vexp, exec_vlog,
      exec_vrcp, exec_vrsq, exec_vrsum, exec_vrmax, exec_vrmin, exec_vcvt, exec_vquant, exec_vdeq, exec_vwadd, exec_vwrnd,
      exec_vpop, exec_vext, exec_vsplat, exec_vtopm, execVadd, execVsub, execVmul, execVmin, execVmax, execVexp, execVlog,
      execVrcp, execVrsq, execVrsum, execVrmax, execVrmin, execVpop]
    exact ⟨_, _, rfl, id, fun h _ => h⟩

theorem issuesSlot_encodeX (he : encodeX i = some w) (hc : slotCore i = some c) : IssuesSlot i c w .X s := by
  cases i <;> simp only [encodeX, reduceCtorEq, Option.some.injEq] at he
  all_goals
    obtain rfl := Option.some.inj hc
    simp only [boolBit_eq, slotHeader_eq, Nat.add_assoc] at he
    have hgd : slotGuard w = ‹Guard› := slotGuard_of_word (by omega) he
    clear he hc
    unfold IssuesSlot
    rw [hgd]
    simp only [
      exec_tld, exec_strm, exec_drn, exec_ainit, exec_amode, exec_cvt, exec_cut, exec_cout, exec_cmerge, execCut]
    exact ⟨_, _, rfl, id, fun h _ => h⟩

end

/-- The legality of an operation of a slot's table decides, up to the delay slot, whether it issues. -/
theorem issuesSlot_of_encode {i : Instr} {c w : Nat} {sl : SlotKind} {s : State} (h : encodeSlot i = some (sl, w))
    (hc : slotCore i = some c) : (∃ gd, i = .nop c sl gd ∧ w = 0) ∨ IssuesSlot i c w sl s := by
  rcases encodeSlot_cases h with ⟨c', gd, rfl, rfl⟩ | ⟨rfl, he⟩ | ⟨rfl, he⟩ | ⟨rfl, he⟩ | ⟨rfl, he⟩
  · obtain rfl := Option.some.inj hc
    exact .inl ⟨gd, rfl, rfl⟩
  · exact .inr (issuesSlot_encodeS he hc)
  · exact .inr (issuesSlot_encodeM he hc)
  · exact .inr (issuesSlot_encodeV he hc)
  · exact .inr (issuesSlot_encodeX he hc)

/-- The guard of a nop's word is p0, which is always on. -/
theorem guardOn_slotGuard_zero (k : Core) : guardOn k (slotGuard 0) = true := by
  simp [guardOn, slotGuard, slotField, slotBit]

/-- Settles O8: every slot operation is the issue of its slot under its guard and its legality. -/
theorem guardsAndEncodings : Obligations.GuardsAndEncodings := by
  constructor
  · intro i c w sl s h hcore hc hlegal hdelay hoff
    rcases issuesSlot_of_encode h hcore with ⟨gd, rfl, rfl⟩ | ⟨legal, act, hi, -, hon⟩
    · rw [guardOn_slotGuard_zero] at hoff
      cases hoff
    · rw [hi, hon hlegal hdelay]
      exact issueSlot_off hc hoff
  · intro i c w sl s h hcore hc hlegal
    rcases issuesSlot_of_encode h hcore with ⟨gd, rfl, rfl⟩ | ⟨legal, act, hi, hillegal, -⟩
    · rw [exec_nop, execNop, show decide (gd = {}) = false from hlegal]
      exact issueSlot_illegal hc
    · rw [hi, hillegal hlegal]
      exact issueSlot_illegal hc

end Sys2Proof.Proofs
end

section
/-! PROOFS. The scalar slot: arithmetic, address registers, special reads and branches. -/

namespace Sys2Proof.Proofs

open Sys2Proof Sys2Proof.Machine Sys2Proof.Safety Sys2Proof.Laws

/-! ### Values -/

theorem shiftLeft_eq_ofNat {w : Nat} (x : BitVec w) (n : Nat) : x <<< n = BitVec.ofNat w (x.toNat * 2 ^ n) := by
  apply BitVec.eq_of_toNat_eq
  simp [Nat.shiftLeft_eq]

theorem ushiftRight_eq_ofNat {w : Nat} (x : BitVec w) (n : Nat) : x >>> n = BitVec.ofNat w (x.toNat / 2 ^ n) := by
  apply BitVec.eq_of_toNat_eq
  rw [BitVec.toNat_ushiftRight, BitVec.toNat_ofNat, Nat.shiftRight_eq_div_pow,
    Nat.mod_eq_of_lt (lt_of_le_of_lt (Nat.div_le_self _ _) x.isLt)]

theorem sshiftRight_eq_ofInt {w : Nat} (x : BitVec w) (n : Nat) : x.sshiftRight n = BitVec.ofInt w (x.toInt / 2 ^ n) := by
  rw [BitVec.sshiftRight, Int.shiftRight_eq_div_pow, Nat.cast_pow, Nat.cast_ofNat]

theorem mul_eq_ofNat {w : Nat} (x y : BitVec w) : x * y = BitVec.ofNat w (x.toNat * y.toNat) := by
  apply BitVec.eq_of_toNat_eq
  simp

theorem signedMin_eq_ofInt {w : Nat} (x y : BitVec w) : (if BitVec.slt y x then y else x) = BitVec.ofInt w (min x.toInt y.toInt) := by
  by_cases h : y.toInt < x.toInt
  · rw [if_pos (BitVec.slt_iff_toInt_lt.2 h), Int.min_eq_right h.le, BitVec.ofInt_toInt]
  · rw [if_neg (mt BitVec.slt_iff_toInt_lt.1 h), Int.min_eq_left (not_lt.1 h), BitVec.ofInt_toInt]

theorem signedMax_eq_ofInt {w : Nat} (x y : BitVec w) : (if BitVec.slt x y then y else x) = BitVec.ofInt w (max x.toInt y.toInt) := by
  by_cases h : x.toInt < y.toInt
  · rw [if_pos (BitVec.slt_iff_toInt_lt.2 h), Int.max_eq_right h.le, BitVec.ofInt_toInt]
  · rw [if_neg (mt BitVec.slt_iff_toInt_lt.1 h), Int.max_eq_left (not_lt.1 h), BitVec.ofInt_toInt]

theorem add_signExtend_eq_ofInt {w v : Nat} (x : BitVec w) (y : BitVec v) :
    x + y.signExtend w = BitVec.ofInt w (x.toInt + y.toInt) := by
  rw [BitVec.ofInt_add, BitVec.ofInt_toInt]
  rfl

theorem append_setWidth_eq_ofNat (x : BitVec 64) (hi : BitVec 32) :
    hi ++ x.setWidth 32 = BitVec.ofNat 64 (hi.toNat * 2 ^ 32 + x.toNat % 2 ^ 32) := by
  apply BitVec.eq_of_toNat_eq
  have hlow : x.toNat % 2 ^ 32 < 2 ^ 32 := Nat.mod_lt _ (by norm_num)
  rw [BitVec.toNat_append, BitVec.toNat_setWidth, BitVec.toNat_ofNat, ← Nat.shiftLeft_add_eq_or_of_lt hlow, Nat.shiftLeft_eq]
  omega

section
variable {s : State} {c : Nat} {gd : Guard}

/-! ### The frames of the operations -/

theorem sBin_issues {d s1 s2 : BitVec 5} {lat : Nat} {f : BitVec 64 → BitVec 64 → BitVec 64} (hi : Issues s c gd) :
    sBin s c gd d s1 s2 lat f =
      .next (ComingG s c (s.plane.cycle + lat) .S d (f ((s.core c).gGet s1.toNat) ((s.core c).gGet s2.toNat))) := by
  rw [sBin, issueSlot_on hi.1 hi.2]
  rfl

theorem sImm_issues {d s1 : BitVec 5} {f : BitVec 64 → BitVec 64} (hi : Issues s c gd) :
    sImm s c gd d s1 true f = .next (ComingG s c (s.plane.cycle + 1) .S d (f ((s.core c).gGet s1.toNat))) := by
  rw [sImm, issueSlot_on hi.1 hi.2]
  rfl

theorem branchSlot_issues {act : Core → Core} (hi : Issues s c gd) (hd : (s.core c).delaySlot = false) :
    branchSlot s c gd act = .next (s.setCore c { act (s.core c) with delaySlot := true }) := by
  rw [branchSlot, hd, Bool.not_false, issueSlot_on hi.1 hi.2]

theorem branchSlot_illegal {act : Core → Core} (hc : c < nCores) (hd : (s.core c).delaySlot = true) :
    branchSlot s c gd act = .next (Detected s c 7 .S) := by
  rw [branchSlot, hd, Bool.not_true, issueSlot_illegal hc]
  rfl

end

/-- Settles O9: each operation is the frame of its kind with its own function. -/
theorem scalarResults : Obligations.ScalarResults := by
  unfold Obligations.ScalarResults
  constructor
  · intro s c gd d s1 s2 sl hi x y put
    refine ⟨?_, ?_, ?_, ?_, ?_, ?_, ?_, ?_, ?_, ?_, ?_, ?_⟩
    · rw [exec_nop, execNop, decide_eq_true rfl, issueSlot_on hi.1 (by simp [guardOn])]
    · rw [exec_add, execAdd, sBin_issues hi]
    · rw [exec_sub, execSub, sBin_issues hi]
    · rw [exec_and, execAnd, sBin_issues hi]
    · rw [exec_or, execOr, sBin_issues hi]
    · rw [exec_xor, execXor, sBin_issues hi]
    · rw [exec_shl, execShl, sBin_issues hi, shiftLeft_eq_ofNat]
    · rw [exec_shr, execShr, sBin_issues hi, ushiftRight_eq_ofNat]
    · rw [exec_sra, execSra, sBin_issues hi, sshiftRight_eq_ofInt]
    · rw [exec_mul, execMul, sBin_issues hi, mul_eq_ofNat]
    · rw [exec_min, execMin, sBin_issues hi, signedMin_eq_ofInt]
    · rw [exec_max, execMax, sBin_issues hi, signedMax_eq_ofInt]
  · intro s c gd d s1 imm hi x put
    refine ⟨?_, ?_, ?_, ?_, fun himm => ?_, ?_, ?_⟩
    · rw [exec_addi, execAddi, sImm_issues hi, add_signExtend_eq_ofInt]
    · rw [exec_andi, execAndi, sImm_issues hi]
    · rw [exec_ori, execOri, sImm_issues hi]
    · rw [exec_xori, execXori, sImm_issues hi]
    · rw [exec_shli, exec_shri, exec_srai, execShli, execShri, execSrai, decide_eq_true himm]
      refine ⟨?_, ?_, ?_⟩
      · rw [sImm_issues hi, shiftLeft_eq_ofNat]
      · rw [sImm_issues hi, ushiftRight_eq_ofNat]
      · rw [sImm_issues hi, sshiftRight_eq_ofInt]
    · rw [exec_li, execLi, sImm_issues hi]
      rfl
    · rw [exec_lih, execLih, sImm_issues hi, append_setWidth_eq_ofNat]

theorem setWidth_eq_ofNat {w v : Nat} (x : BitVec w) : x.setWidth v = BitVec.ofNat v x.toNat := by
  apply BitVec.eq_of_toNat_eq
  rw [BitVec.toNat_setWidth, BitVec.toNat_ofNat]

/-- Settles O11: the address arithmetic of the model is written as the statement writes it. -/
theorem addressAndSpecialRegisterResults : Obligations.AddressAndSpecialRegisterResults := by
  unfold Obligations.AddressAndSpecialRegisterResults
  constructor
  · intro s c gd d s1 s2 imm hi hd hs1 ad put
    refine ⟨?_, ?_, ?_, ?_⟩
    · rw [exec_amov, execAmov, decide_eq_true hd, issueSlot_on hi.1 hi.2, setWidth_eq_ofNat]
      rfl
    · rw [exec_aadd, execAadd, decide_eq_true hd, decide_eq_true hs1, Bool.and_self, issueSlot_on hi.1 hi.2, addrAdd]
      rfl
    · rw [exec_aaddg, execAaddg, decide_eq_true hd, decide_eq_true hs1, Bool.and_self, issueSlot_on hi.1 hi.2, addrAdd,
        BitVec.toNat_setWidth]
      rfl
    · rw [exec_gmov, execGmov, decide_eq_true hs1, issueSlot_on hi.1 hi.2, setWidth_eq_ofNat]
      rfl
  · intro s c gd d s1 cc hi
    refine ⟨fun hs1 => ?_, ?_, ?_⟩
    · rw [exec_rdsh, execRdsh, decide_eq_true hs1, issueSlot_on hi.1 hi.2]
      rfl
    · rw [exec_rdcyc, execRdcyc, issueSlot_on hi.1 hi.2]
      rfl
    · rw [exec_rdcc, execRdcc, issueSlot_on hi.1 hi.2]
      rfl

/-- The return address of a jal has the same value at the width of a register and of a write. -/
theorem returnAddress_setWidth (pc : BitVec 21) :
    BitVec.ofNat 2048 (pc.toNat + 64) = (BitVec.ofNat 64 (pc.toNat + 64)).setWidth 2048 := by
  have hpc : pc.toNat + 64 < 2 ^ 64 := by omega
  apply BitVec.eq_of_toNat_eq
  rw [BitVec.toNat_setWidth, BitVec.toNat_ofNat, BitVec.toNat_ofNat, Nat.mod_eq_of_lt hpc]

/-- Settles O12: all four branches share one frame, and the front has the same check. -/
theorem branchResults : Obligations.BranchResults := by
  unfold Obligations.BranchResults
  constructor
  · intro s c gd g off hi hd k tgt dec wr
    refine ⟨?_, ?_, ?_, ?_⟩
    · rw [exec_br, execBr, branchSlot_issues hi hd]
      rfl
    · rw [exec_jr, execJr, branchSlot_issues hi hd]
    · rw [exec_bdec, execBdec, branchSlot_issues hi hd]
      by_cases hdec : (s.core c).gGet g.toNat - 1 = 0
      · simp only [if_pos hdec, dec, k]
        rfl
      · simp only [if_neg hdec, dec, k]
        rfl
    · rw [exec_jal, execJal, branchSlot_issues hi hd, returnAddress_setWidth]
      rfl
  · intro s c gd g off num bound stp hc hd
    refine ⟨?_, ?_, ?_, ?_, ?_⟩
    · rw [exec_br, execBr, branchSlot_illegal hc hd]
    · rw [exec_bdec, execBdec, branchSlot_illegal hc hd]
    · rw [exec_jr, execJr, branchSlot_illegal hc hd]
    · rw [exec_jal, execJal, branchSlot_illegal hc hd]
    · rw [exec_front, execFront, hd, Bool.not_true, Bool.and_false, issueSlot_illegal hc]
      rfl

end Sys2Proof.Proofs
end

section
/-! PROOFS. Fronts: how one stops a core, times out and is released. -/

namespace Sys2Proof.Proofs

open Sys2Proof Sys2Proof.Machine Sys2Proof.Safety Sys2Proof.Laws

section
variable {s : State} {c : Nat} {gd : Guard} {num : BitVec 8} {bound : BitVec 20} {stp : Bool}

/-- A legal front of an issuing core. -/
theorem exec_front_issues (hi : Issues s c gd) (hb : bound ≠ 0) (hd : (s.core c).delaySlot = false) :
    ∃ p, exec (.front c gd num bound stp) s = .next { s with plane := p } ∧
      p.cores = tset {} s.plane.cores c { s.core c with issue := .front s.plane.cycle num bound stp (s.core c).pc } ∧
      p.sram = s.plane.sram ∧ p.fLast = s.plane.cycle ∧ p.fFirst = some (firstFront s c) ∧
      p.fTimer = if s.plane.fFirst.isSome then s.plane.fTimer else 0 := by
  have hlegal : (bound != 0 && !(s.core c).delaySlot) = true := by
    rw [hd, Bool.not_false, Bool.and_true]
    exact bne_iff_ne.2 hb
  rw [exec_front, execFront, hlegal, issueSlot_on hi.1 hi.2]
  exact ⟨_, rfl, rfl, rfl, rfl, rfl, rfl⟩

theorem frontWait_lt_iff {n : Nat} : frontWait s < n ↔ s.plane.fTimer < n * 16800 :=
  Nat.div_lt_iff_lt_mul (by norm_num)

theorem frontTimeout_guard (hrun : s.plane.progRun = true) (hf : s.plane.fFirst ≠ none) (hno : s.plane.faults = []) :
    (!s.plane.progRun || s.plane.fFirst.isNone || !s.plane.faults.isEmpty) = false := by
  simp [hrun, hno, Option.isSome_iff_ne_none, hf]

end

/-- Settles O16: the front's frame, and the bound compared in cycles of the timer. -/
theorem frontStopsAndTimesOut : Obligations.FrontStopsAndTimesOut := by
  unfold Obligations.FrontStopsAndTimesOut
  constructor
  · intro s c gd num bound stp hi hok hb hd
    obtain ⟨p, he, hcores, hsram, hlast, hfirst, htimer⟩ := exec_front_issues (num := num) (stp := stp) hi hb hd
    have hwf := twf_cores_of_coresOk hok
    refine ⟨_, he, ?_, ?_, hsram, hlast, ?_, ?_⟩
    · show tget {} p.cores c = _
      rw [hcores, tget_tset hwf]
    · intro c' hne
      show tget {} p.cores c' = _
      rw [hcores, tget_tset_ne hwf hne]
      rfl
    · intro hnone
      show p.fFirst = _ ∧ p.fTimer = _
      rw [hfirst, htimer, firstFront, hnone]
      exact ⟨rfl, rfl⟩
    · intro hsome
      show p.fFirst ≠ none ∧ p.fTimer = _
      rw [hfirst, htimer, if_pos (Option.isSome_iff_ne_none.2 hsome)]
      exact ⟨nofun, rfl⟩
  · intro s hrun hf hno
    have hguard := frontTimeout_guard hrun hf hno
    constructor
    · intro hlt
      rw [exec_frontTimeout, execFrontTimeout, hguard, if_neg Bool.false_ne_true, if_pos (frontWait_lt_iff.1 hlt)]
    · intro hle
      rw [exec_frontTimeout, execFrontTimeout, hguard, if_neg Bool.false_ne_true,
        if_neg (mt frontWait_lt_iff.2 (not_lt.2 hle))]
      refine ⟨_, rfl, raise_cores s _, timeoutRep s, ?_, ?_, rfl, rfl⟩
      · rw [raise_run hrun, hno]
        rfl
      · unfold timeoutRep
        cases firstUnready s <;> rfl

/-! ### Release -/

/-- A core at a front goes on in cycle n with its armed targets cleared; another stays. -/
def releasedCore (k : Core) (n : Nat) : Core :=
  match k.issue with
  | .front _ _ _ _ _ => { k with issue := .run, nextAt := n, armed := [], relAt := some n }
  | _ => k

theorem releasedCore_twice (k : Core) (n : Nat) : releasedCore (releasedCore k n) n = releasedCore k n := by
  cases h : k.issue <;> simp [releasedCore, h]

theorem releaseCore_eq (s : State) (c : Nat) :
    releaseCore s c = s.setCore c (releasedCore (s.core c) (s.plane.cycle + 1)) := rfl

/-- Releasing the cores of a list releases each of them, once or more, and nothing else. -/
theorem foldl_releaseCore_reads (l : List (Nat × Core)) {s : State} (h : twf ({} : Core) s.plane.cores = true) :
    ∃ cs, l.foldl (fun s e => releaseCore s e.1) s = { s with plane := { s.plane with cores := cs } } ∧
      ∀ c, tget {} cs c = if c ∈ l.map Prod.fst then releasedCore (s.core c) (s.plane.cycle + 1) else s.core c := by
  induction l generalizing s with
  | nil => exact ⟨s.plane.cores, rfl, fun c => rfl⟩
  | cons e r ih =>
    obtain ⟨j, k⟩ := e
    obtain ⟨cs, hcs, hreads⟩ := ih (s := releaseCore s j) (cores_setCore h)
    refine ⟨cs, hcs, fun c => ?_⟩
    rw [hreads c]
    simp only [List.map_cons, List.mem_cons]
    by_cases hc : c = j
    · subst hc
      rw [releaseCore_eq, core_setCore h, setCore_plane_cycle, releasedCore_twice, ite_self]
      simp only [true_or, if_true]
    · rw [releaseCore_eq, core_setCore_ne h hc, setCore_plane_cycle]
      simp only [hc, false_or]

/-- A core with a role is listed as one of the program's. -/
theorem mem_roleCores {s : State} {c : Nat} (h : (s.core c).role ≠ none) : (c, s.core c) ∈ roleCores s := by
  rcases tget_eq_default_or_mem ({} : Core) s.plane.cores c with hd | hm
  · exact absurd (by rw [State.core, hd]) h
  · exact List.mem_filter.2 ⟨hm, Option.isSome_iff_ne_none.2 h⟩

theorem releasedCore_of_front {k : Core} {n : Nat} (h : (frontAt k).isSome = true) :
    releasedCore k n = { k with issue := .run, nextAt := n, armed := [], relAt := some n } := by
  cases hi : k.issue <;> simp_all [releasedCore, frontAt]

theorem satAdd_below {top a b : Nat} (h : a + b ≤ top) : satAdd top a b = a + b := Nat.min_eq_right h

/-- The release of a front that holds no step. -/
theorem releaseFront_of_not_step {s : State} (h : (refFront s).2.2 = false) :
    ∃ p, releaseFront s = { (roleCores s).foldl (fun s e => releaseCore s e.1) s with plane := p } ∧
      p.cores = ((roleCores s).foldl (fun s e => releaseCore s e.1) s).plane.cores ∧
      p.relGo = ((roleCores s).foldl (fun s e => releaseCore s e.1) s).plane.relGo ∧
      p.sram = ((roleCores s).foldl (fun s e => releaseCore s e.1) s).plane.sram ∧
      p.fFirst = none ∧ p.fronts = satAdd (2 ^ 32 - 1) s.plane.fronts 1 := by
  unfold releaseFront
  generalize refFront s = r at h ⊢
  obtain ⟨num, b, stp⟩ := r
  obtain rfl : stp = false := h
  exact ⟨_, rfl, rfl, rfl, rfl, rfl, rfl⟩

theorem roleCores_relGo (s : State) : roleCores { s with plane := { s.plane with relGo := false } } = roleCores s := rfl

theorem execFrontRelease_guard {s : State} (hrun : s.plane.progRun = true) (hclk : s.plane.clockOn = true)
    (hno : s.plane.faults = []) :
    (!s.plane.progRun || !s.plane.clockOn || !s.plane.faults.isEmpty || !allIssued s) = !allIssued s := by
  simp [hrun, hclk, hno]

theorem allIssued_of_allReady {s : State} (h : allReady s = true) : allIssued s = true :=
  (Bool.and_eq_true_iff.1 h).1

/-- Settles O17: the release is a fold over the cores of the program that reaches each of them. -/
theorem frontRelease : Obligations.FrontRelease := by
  unfold Obligations.FrontRelease
  refine ⟨?_, ?_, ?_⟩
  · intro s hrun hclk hno hready hmis hdue hbound hstep
    rw [exec_frontRelease, execFrontRelease, execFrontRelease_guard hrun hclk hno, allIssued_of_allReady hready, Bool.not_true,
      if_neg Bool.false_ne_true, hmis]
    have hgo : (!allReady s || decide (s.cycle + 1 < s.plane.fLast + 64) || ((refFront s).2.2 && stepHeld s) || boundReached s)
        = false := by
      have hlate : decide (s.cycle + 1 < s.plane.fLast + 64) = false := decide_eq_false (not_lt.2 hdue)
      have hheld : ((refFront s).2.2 && stepHeld s) = false := by
        cases hstp : (refFront s).2.2
        · rfl
        · exact (hstep hstp).1
      rw [hready, hlate, hheld, hbound]
      rfl
    have hload : ((refFront s).2.2 && s.ldr.waitFront) = false := by
      cases hstp : (refFront s).2.2
      · rfl
      · exact (hstep hstp).2
    simp only [hgo, hload, if_neg Bool.false_ne_true]
  · intro s hgo hok
    constructor
    · intro hf
      have hne : s.plane.faults.isEmpty = false := by simpa using hf
      rw [settleRelease, if_pos hgo]
      simp only [hne, if_neg Bool.false_ne_true]
    · intro hno hall hstp hcnt t
      have hempty : s.plane.faults.isEmpty = true := by simp [hno]
      have ht : t = releaseFront { s with plane := { s.plane with relGo := false } } := by
        simp only [t, settleRelease, hgo, hempty, if_true]
      obtain ⟨p, hp, hcores, hrel, hsram, hfirst, hfronts⟩ :=
        releaseFront_of_not_step (s := { s with plane := { s.plane with relGo := false } }) hstp
      obtain ⟨cs, hcs, hreads⟩ := foldl_releaseCore_reads (roleCores s)
        (s := { s with plane := { s.plane with relGo := false } }) (twf_cores_of_coresOk hok)
      rw [roleCores_relGo, hcs] at hcores hrel hsram hp
      rw [ht, hp]
      refine ⟨hrel, hfirst, ?_, hsram, fun c hrole => ?_⟩
      · show p.fronts = _
        rw [hfronts]
        exact satAdd_below (Nat.succ_le_of_lt hcnt)
      · have hmem := mem_roleCores hrole
        have hfront := List.all_eq_true.1 (Bool.and_eq_true_iff.1 hall).2 _ hmem
        have hcore : ({ s with plane := p } : State).core c =
            { s.core c with issue := .run, nextAt := s.plane.cycle + 1, armed := [], relAt := some (s.plane.cycle + 1) } := by
          show tget {} p.cores c = _
          rw [hcores]
          show tget {} cs c = _
          rw [hreads c, if_pos (List.mem_map_of_mem hmem)]
          exact releasedCore_of_front hfront
        show (({ s with plane := p } : State).core c).issue = _ ∧ (({ s with plane := p } : State).core c).nextAt = _ ∧
          (({ s with plane := p } : State).core c).armed = _ ∧ (({ s with plane := p } : State).core c).cc = _ ∧
          (({ s with plane := p } : State).core c).pc = _ ∧ (({ s with plane := p } : State).core c).g = _
        rw [hcore]
        exact ⟨rfl, rfl, rfl, rfl, rfl, rfl⟩
  · intro s hrun hclk hno
    refine ⟨?_, ?_, ?_⟩
    · intro hall
      rw [exec_frontRelease, execFrontRelease, execFrontRelease_guard hrun hclk hno, hall, Bool.not_false, if_pos rfl]
    · intro hall hmis hwhy
      have hstay : (!allReady s || decide (s.cycle + 1 < s.plane.fLast + 64) || ((refFront s).2.2 && stepHeld s) ||
          boundReached s) = true := by
        rcases hwhy with h | h | h | ⟨h1, h2⟩
        · simp [h]
        · simp [show s.cycle + 1 < s.plane.fLast + 64 from h]
        · simp [h]
        · simp [h1, h2]
      rw [exec_frontRelease, execFrontRelease, execFrontRelease_guard hrun hclk hno, hall, Bool.not_true,
        if_neg Bool.false_ne_true, hmis]
      simp only [hstay, if_true]
    · intro c k hall hmis
      rw [exec_frontRelease, execFrontRelease, execFrontRelease_guard hrun hclk hno, hall, Bool.not_true,
        if_neg Bool.false_ne_true, hmis]
      refine ⟨_, rfl, raise_cores s _, mismatchRep s c k, ?_, rfl, rfl⟩
      rw [raise_run hrun, hno]
      rfl

end Sys2Proof.Proofs
end

section
/-! PROOFS. Bundles: the four slots, the fetch of the next one, and the code region. -/

namespace Sys2Proof.Proofs

open Sys2Proof Sys2Proof.Machine Sys2Proof.Safety Sys2Proof.Laws

section
variable {s u : State} {c w : Nat} {i : Instr} {sl : SlotKind}

/-! ### Slot words -/

/-- In a bundle an operation of the S slot runs as its command does. -/
theorem runSlot_of_encodeS (he : encodeS i = some w) : runSlot i s = exec i s := by
  cases i <;> simp only [encodeS, reduceCtorEq] at he
  all_goals rfl

theorem runWord_zero (hc : c < nCores) : runWord c sl 0 s = s := by
  rw [runWord, decodeSlot_nop]
  show Res.stateOr (execNop c sl {} s) s = s
  rw [execNop, decide_eq_true rfl, issueSlot_on hc (by simp [guardOn])]
  rfl

theorem runWord_of_encodeS (he : encodeS i = some w) (hcore : slotCore i = some c) (hu : exec i s = .next u) :
    runWord c .S w s = u := by
  rw [runWord, show decodeSlot .S c w = some i from (decodeS_encodeS he hcore).1]
  show Res.stateOr (runSlot i s) s = u
  rw [runSlot_of_encodeS he, hu]
  rfl

theorem bundleWords_of_lt (hw : w < 2 ^ 64) : bundleWords w = (w, 0, 0, 0) := by
  have h0 : w / 2 ^ 64 = 0 := Nat.div_eq_of_lt hw
  have h1 : w / 2 ^ 128 = 0 := Nat.div_eq_of_lt (hw.trans (by norm_num))
  have h2 : w / 2 ^ 192 = 0 := Nat.div_eq_of_lt (hw.trans (by norm_num))
  rw [bundleWords, Nat.mod_eq_of_lt hw, h0, h1, h2, Nat.zero_mod]

theorem ofLe_leBytes_of_lt (hw : w < 2 ^ 64) : ofLe (leBytes 32 w) = w := by
  rw [ofLe_leBytes, Nat.mod_eq_of_lt (hw.trans (by norm_num))]

/-! ### Fetch -/

/-- A core that may issue and whose pc lies in the code region runs the bundle there. -/
theorem exec_bundleIssue_runs (hc : c < nCores) (hmay : mayIssue s (s.core c) = true)
    (hin : inCode s (s.core c).pc.toNat = true) :
    exec (.bundleIssue c) s = .next (runBundle s c (ofLe (s.sramGet (spmAddr c (s.core c).pc.toNat) 32))) := by
  rw [exec_bundleIssue, execBundleIssue, if_neg (not_le.2 hc)]
  simp only [hmay, hin, Bool.not_true, if_neg Bool.false_ne_true]

/-- A bundle with an operation in its S slot only. -/
theorem runBundle_scalar (hc : c < nCores) (hw : w < 2 ^ 64) :
    runBundle s c w = fetchNext ((runWord c .S w (s.setCore c { s.core c with target := none })).modCore c fun k' =>
      { k' with pc := (s.core c).target.getD ((s.core c).pc + 32), delaySlot := isBranch w, lastPc := (s.core c).pc,
                nextAt := s.plane.cycle + 1 }) c (s.core c).pc := by
  rw [runBundle, bundleWords_of_lt hw]
  simp only [runWord_zero hc]
  rfl

theorem fetchFail_outside (s : State) (c : Nat) :
    fetchFail (s.raiseCore c 3 .S (s.core c).pc.toNat) c =
      (Detected s c 3 .S).setCore c { s.core c with issue := .stopped } := by
  rw [fetchFail, State.modCore]
  exact congrArg (fun k : Core => (Detected s c 3 .S).setCore c { k with issue := .stopped }) (raise_core s _ c)

theorem fetchNow_outside (h : inCode s (s.core c).pc.toNat = false) :
    fetchNow s c = (Detected s c 3 .S).setCore c { s.core c with issue := .stopped } := by
  rw [fetchNow]
  simp only [h, Bool.not_false, if_true]
  exact fetchFail_outside s c

/-- What a fetch may change: the issue state, the bank bookkeeping and the pending accesses of its core, and the faults. -/
def FetchKeeps (s t : State) (c : Nat) : Prop :=
  (∃ issue stores loads banks, t.core c = { s.core c with issue := issue, stores := stores, loads := loads, banks := banks }) ∧
  t.plane.sram = s.plane.sram ∧ ∀ c', c' ≠ c → t.core c' = s.core c'

theorem fetchKeeps_setCore {k : Core} (h : twf ({} : Core) s.plane.cores = true)
    (hk : ∃ issue stores loads banks, k = { s.core c with issue := issue, stores := stores, loads := loads, banks := banks }) :
    FetchKeeps s (s.setCore c k) c := by
  obtain ⟨issue, stores, loads, banks, rfl⟩ := hk
  exact ⟨⟨issue, stores, loads, banks, core_setCore h⟩, rfl, fun c' hc => core_setCore_ne h hc⟩

theorem fetchKeeps_raise {t : State} {f : FaultRep} (h : FetchKeeps s t c) : FetchKeeps s (t.raise f) c := by
  obtain ⟨hcore, hsram, hother⟩ := h
  refine ⟨?_, ?_, fun c' hc => ?_⟩
  · rw [raise_core]; exact hcore
  · rw [raise_sram]; exact hsram
  · rw [raise_core]; exact hother c' hc

theorem fetchClash_keeps (h : twf ({} : Core) s.plane.cores = true) : FetchKeeps s (fetchClash s c) c := by
  rw [fetchClash]
  split
  · exact fetchKeeps_raise (fetchKeeps_setCore h ⟨_, _, _, _, rfl⟩)
  · exact fetchKeeps_setCore h ⟨_, _, _, _, rfl⟩

/-- Without errors in the memories a read gives the stored bytes and changes nothing. -/
theorem sramRead_clean {pc a n : Nat} (herr : s.plane.sramErr = []) : sramRead s sl pc a n = (some (s.sramGet a n), s) := by
  simp [sramRead, sramBad, sramCorrect, singleWords, herr]

theorem fetchNow_keeps (h : twf ({} : Core) s.plane.cores = true) (herr : s.plane.sramErr = []) :
    FetchKeeps s (fetchNow s c) c := by
  cases hin : inCode s (s.core c).pc.toNat
  · rw [fetchNow_outside hin]
    have hraise : twf ({} : Core) (Detected s c 3 .S).plane.cores = true := by
      rw [Detected, raise_cores]
      exact h
    refine ⟨⟨.stopped, _, _, _, core_setCore hraise⟩, raise_sram s _, fun c' hc => ?_⟩
    rw [core_setCore_ne hraise hc]
    exact raise_core s _ c'
  · rw [fetchNow]
    simp only [hin, Bool.not_true, if_neg Bool.false_ne_true, spmRead, sramRead_clean herr]
    exact fetchClash_keeps h

theorem fetchNext_keeps {old : BitVec 21} (h : twf ({} : Core) s.plane.cores = true) (herr : s.plane.sramErr = []) :
    FetchKeeps s (fetchNext s c old) c := by
  rw [fetchNext]
  split
  · exact fetchNow_keeps h herr
  · exact ⟨⟨_, _, _, _, rfl⟩, rfl, fun _ _ => rfl⟩

end

/-- Settles O18: the nops beside the S slot run to the same state, and a fetch changes no register. -/
theorem bundleIssues : Obligations.BundleIssues := by
  unfold Obligations.BundleIssues
  constructor
  · intro s u c w i hc hok hmay hin henc hcore hnop hmem hexec k v
    have he : encodeS i = some w := by
      rcases encodeSlot_cases henc with ⟨c', gd, rfl, rfl⟩ | ⟨-, he⟩ | ⟨h, -⟩ | ⟨h, -⟩ | ⟨h, -⟩
      · obtain rfl := Option.some.inj hcore
        exact absurd rfl (hnop gd)
      · exact he
      · cases h
      · cases h
      · cases h
    have hw := (decodeS_encodeS he hcore).2
    rw [exec_bundleIssue_runs hc hmay hin, hmem, ofLe_leBytes_of_lt hw, runBundle_scalar hc hw,
      runWord_of_encodeS he hcore hexec]
    rfl
  · intro s c hc hok k
    have hwf := twf_cores_of_coresOk hok
    refine ⟨?_, ?_, ?_⟩
    · intro hmay
      rw [exec_bundleIssue, execBundleIssue, if_neg (not_le.2 hc)]
      simp only [k, hmay, Bool.not_false, if_true]
    · intro hmay hin herr hmem
      have hzero : (0 : Nat) < 2 ^ 64 := by norm_num
      rw [exec_bundleIssue_runs hc hmay hin, hmem, ofLe_leBytes_of_lt hzero, runBundle_scalar hc hzero, runWord_zero hc]
      have hwf1 : twf ({} : Core) (s.setCore c { k with target := none }).plane.cores = true := cores_setCore hwf
      obtain ⟨⟨issue, stores, loads, banks, hcore⟩, hsram, hother⟩ := fetchNext_keeps (old := k.pc) (c := c)
        (s := (s.setCore c { k with target := none }).modCore c fun k' => { k' with
          pc := k.target.getD (k.pc + 32), delaySlot := isBranch 0, lastPc := k.pc, nextAt := s.plane.cycle + 1 })
        (cores_setCore hwf1) herr
      rw [State.modCore, core_setCore hwf1, core_setCore hwf] at hcore
      refine ⟨_, rfl, ?_⟩
      simp only [State.modCore, core_setCore hwf] at hcore hsram hother ⊢
      refine ⟨?_, ?_, ?_, ?_, ?_, ?_, ?_, ?_, ?_, ?_, hsram, fun c' hc' => ?_⟩
      · rw [hcore]
      · rw [hcore]
      · rw [hcore]
        rfl
      · rw [hcore]
      · rw [hcore]
      · rw [hcore]
      · rw [hcore]
      · rw [hcore]
      · rw [hcore]
      · rw [hcore]
      · rw [hother c' hc', core_setCore_ne hwf1 hc', core_setCore_ne hwf hc']
    · intro hin t
      refine ⟨fetchNow_outside hin, fun hmay => ?_⟩
      rw [exec_bundleIssue, execBundleIssue, if_neg (not_le.2 hc)]
      simp only [k] at hmay hin
      simp only [hmay, hin, Bool.not_true, Bool.not_false, if_true, if_neg Bool.false_ne_true]
      exact congrArg Host.Outcome.next (fetchFail_outside s c)

end Sys2Proof.Proofs
end

section
/-! PROOFS. The vector unit: lanes of a vector, the frames of its operations, and their results. -/

namespace Sys2Proof.Proofs

open Sys2Proof Sys2Proof.Machine Sys2Proof.Safety Sys2Proof.Laws

/-! ### Lanes -/

/-- The digit at place i of a packed list is its entry i, 0 beyond its end. -/
theorem packNat_digit {w : Nat} (l : List (BitVec w)) (i : Nat) :
    packNat w (l.map BitVec.toNat) / 2 ^ (w * i) % 2 ^ w = (l.getD i 0).toNat := by
  induction l generalizing i with
  | nil => simp [packNat]
  | cons x r ih =>
    rw [List.map_cons, packNat, Nat.mod_eq_of_lt x.isLt]
    cases i with
    | zero => simp [Nat.mod_eq_of_lt x.isLt]
    | succ i =>
      rw [Nat.mul_succ, Nat.add_comm (w * i) w, pow_add, ← Nat.div_div_eq_div_mul, Nat.add_mul_div_left _ _ (Nat.two_pow_pos w),
        Nat.div_eq_of_lt x.isLt, Nat.zero_add, ih i]
      rfl

/-- A field of a number of n bits is the same field of any number that agrees with it in those bits. -/
theorem mod_two_pow_field {x n a b : Nat} (h : a + b ≤ n) : x % 2 ^ n / 2 ^ a % 2 ^ b = x / 2 ^ a % 2 ^ b := by
  apply Nat.eq_of_testBit_eq
  intro j
  simp only [Nat.testBit_mod_two_pow, Nat.testBit_div_two_pow]
  by_cases hj : j < b
  · simp [hj, show j + a < n by omega]
  · simp [hj]

theorem extract_packed {w n i : Nat} {l : List (BitVec w)} (h : w * i + w ≤ n) :
    (BitVec.ofNat n (packNat w (l.map BitVec.toNat))).extractLsb' (w * i) w = l.getD i 0 := by
  apply BitVec.eq_of_toNat_eq
  rw [BitVec.extractLsb'_toNat, BitVec.toNat_ofNat, Nat.shiftRight_eq_div_pow, mod_two_pow_field h, packNat_digit]

theorem lane32_vecOf32 {l : List (BitVec 32)} {i : Nat} (hi : i < 64) : lane32 (vecOf32 l) i = l.getD i 0 :=
  extract_packed (by omega)

theorem lane16_vecOf16 {l : List (BitVec 16)} {i : Nat} (hi : i < 128) : lane16 (vecOf16 l) i = l.getD i 0 :=
  extract_packed (by omega)

theorem partAt_vecOfParts {l : List (BitVec 128)} {j : Nat} (hj : j < 16) : partAt (vecOfParts l) j = l.getD j 0 :=
  extract_packed (by omega)

theorem getD_map_range {α : Type} {f : Nat → α} {n i : Nat} {d : α} (hi : i < n) : ((List.range n).map f).getD i d = f i := by
  simp [List.getD, hi]

theorem lane32_tabulate {f : Nat → BitVec 32} {l : Nat} (hl : l < 64) : lane32 (vecOf32 ((List.range 64).map f)) l = f l := by
  rw [lane32_vecOf32 hl, getD_map_range hl]

theorem lane16_tabulate {f : Nat → BitVec 16} {l : Nat} (hl : l < 128) : lane16 (vecOf16 ((List.range 128).map f)) l = f l := by
  rw [lane16_vecOf16 hl, getD_map_range hl]

theorem lane32_replicate {x : BitVec 32} {l : Nat} (hl : l < 64) : lane32 (vecOf32 (List.replicate 64 x)) l = x := by
  rw [lane32_vecOf32 hl, List.getD_replicate _ hl]

/-! ### The frames of the operations -/

theorem laterV_eq_coming (s : State) (c lat : Nat) (vd : BitVec 5) (v : BitVec 2048) :
    s.laterV c lat vd.toNat v = Coming s c (s.plane.cycle + lat) .V (.v vd) v := by
  rw [State.laterV, BitVec.ofNat_toNat, BitVec.setWidth_eq]
  rfl

section
variable {s : State} {c : Nat} {gd : Guard} {vd vs1 vs2 vs3 : BitVec 5}

/-- Command i has a result on its way to vd after the latency, with the lanes of f. -/
def GivesLanes32 (s : State) (c lat : Nat) (vd : BitVec 5) (i : Instr) (f : Nat → BitVec 32) : Prop :=
  ∃ v, exec i s = .next (Coming s c (s.plane.cycle + lat) .V (.v vd) v) ∧ ∀ l, l < 64 → lane32 v l = f l

def GivesLanes16 (s : State) (c lat : Nat) (vd : BitVec 5) (i : Instr) (f : Nat → BitVec 16) : Prop :=
  ∃ v, exec i s = .next (Coming s c (s.plane.cycle + lat) .V (.v vd) v) ∧ ∀ l, l < 128 → lane16 v l = f l

theorem givesLanes32_of_issue {i : Instr} {lat : Nat} {act : Core → State} {f : Nat → BitVec 32} (hi : Issues s c gd)
    (he : exec i s = issueSlot s c .V gd true act)
    (ha : act (s.core c) = s.laterV c lat vd.toNat (vecOf32 ((List.range 64).map f))) : GivesLanes32 s c lat vd i f :=
  ⟨_, by rw [he, issueSlot_on hi.1 hi.2, ha, laterV_eq_coming], fun _ hl => lane32_tabulate hl⟩

theorem givesLanes16_of_issue {i : Instr} {lat : Nat} {act : Core → State} {f : Nat → BitVec 16} (hi : Issues s c gd)
    (he : exec i s = issueSlot s c .V gd true act)
    (ha : act (s.core c) = s.laterV c lat vd.toNat (vecOf16 ((List.range 128).map f))) : GivesLanes16 s c lat vd i f :=
  ⟨_, by rw [he, issueSlot_on hi.1 hi.2, ha, laterV_eq_coming], fun _ hl => lane16_tabulate hl⟩

end

/-- Settles O19: each operation tabulates its function over the lanes. -/
theorem vectorLaneResults : Obligations.VectorLaneResults := by
  unfold Obligations.VectorLaneResults
  intro s c gd vd vs1 vs2 vs3 cond hi hcond x y z gives32 gives16
  refine ⟨?_, ?_, ?_, ?_, ?_, ?_, ?_, ?_, ?_, ?_, ?_, ?_⟩
  · exact givesLanes32_of_issue hi (by rw [exec_vadd, execVadd, vBin]) rfl
  · exact givesLanes32_of_issue hi (by rw [exec_vsub, execVsub, vBin]) rfl
  · exact givesLanes32_of_issue hi (by rw [exec_vmul, execVmul, vBin]) rfl
  · exact givesLanes32_of_issue hi (by rw [exec_vfma, execVfma]) rfl
  · exact givesLanes32_of_issue hi (by rw [exec_vmin, execVmin, vBin]) rfl
  · exact givesLanes32_of_issue hi (by rw [exec_vmax, execVmax, vBin]) rfl
  · exact givesLanes32_of_issue hi (by rw [exec_vcmp, execVcmp, decide_eq_true hcond]) rfl
  · exact givesLanes32_of_issue hi (by rw [exec_vsel, execVsel]) rfl
  · exact givesLanes16_of_issue hi (by rw [exec_vadd, execVadd, vBin]) rfl
  · exact givesLanes16_of_issue hi (by rw [exec_vmul, execVmul, vBin]) rfl
  · exact givesLanes16_of_issue hi (by rw [exec_vsel, execVsel]) rfl
  · exact givesLanes16_of_issue hi (by rw [exec_vcmp, execVcmp, decide_eq_true hcond]) rfl

/-- Settles O20: a function maps the lanes, a reduction fills them, and type 1 is no legal encoding. -/
theorem vectorFunctionResults : Obligations.VectorFunctionResults := by
  unfold Obligations.VectorFunctionResults
  intro s c gd vd vs1 hi x lanes fast each all
  have hmap (lat : Nat) (f : BitVec 32 → BitVec 32) (i : Instr) (he : exec i s = vFn s c gd vd vs1 false lat f) : each i lat f :=
    givesLanes32_of_issue hi (by rw [he, vFn, Bool.not_false]) (by rw [lanes32, List.map_map]; rfl)
  have hred (lat : Nat) (f : List (BitVec 32) → BitVec 32) (i : Instr) (he : exec i s = vRed s c gd vd vs1 false lat f) :
      all i lat (f lanes) :=
    ⟨_, by rw [he, vRed, Bool.not_false, issueSlot_on hi.1 hi.2, laterV_eq_coming]; rfl, fun _ hl => lane32_replicate hl⟩
  refine ⟨hmap _ _ _ rfl, hmap _ _ _ rfl, hmap _ _ _ rfl, hmap _ _ _ rfl, hred _ _ _ rfl, hred _ _ _ rfl, hred _ _ _ rfl, ?_, ?_⟩
  · rw [exec_vexp, execVexp, vFn, Bool.not_true, issueSlot_illegal hi.1]
    rfl
  · rw [exec_vrsum, execVrsum, vRed, Bool.not_true, issueSlot_illegal hi.1]
    rfl

/-! ### Groups of registers -/

section
variable {α : Type} [DecidableEq α] {d : α}

/-- A second write of one entry is the only one. -/
theorem tset_tset_from {lo k : Nat} {v w : α} {t : Table α} (h : twfFrom d lo t = true) :
    tset d (tset d t k v) k w = tset d t k w := by
  induction t generalizing lo with
  | nil => by_cases hv : v = d <;> by_cases hw : w = d <;> simp [tset, hv, hw]
  | cons e r ih =>
    obtain ⟨j, x⟩ := e
    obtain ⟨-, -, hr⟩ := twfFrom_cons.1 h
    by_cases hlt : k < j
    · by_cases hv : v = d <;> by_cases hw : w = d <;> simp [tset, hlt, hv, hw]
    · by_cases heq : k = j
      · subst heq
        by_cases hv : v = d
        · have habove : ∀ u, tset d r k u = if u = d then r else (k, u) :: r := by
            intro u
            cases r with
            | nil => rfl
            | cons e' r' =>
              obtain ⟨j', x'⟩ := e'
              have hj' : k < j' := (twfFrom_cons.1 hr).1
              simp [tset, hj']
          by_cases hw : w = d <;> simp [tset, hv, hw, habove]
        · by_cases hw : w = d <;> simp [tset, hv, hw]
      · simp [tset, hlt, heq, ih hr]

end

theorem setCore_setCore {s : State} {c : Nat} {k l : Core} (h : twf ({} : Core) s.plane.cores = true) :
    (s.setCore c k).setCore c l = s.setCore c l :=
  congrArg (fun cs => ({ s with plane := { s.plane with cores := cs } } : State)) (tset_tset_from h)

/-- The writes of a group of registers from vd on. -/
def groupWrites (due vd : Nat) : List (BitVec 2048) → List RegWrite
  | [] => []
  | v :: r => { due := due, ord := 1, dest := .v (BitVec.ofNat 5 vd), val := v } :: groupWrites due (vd + 1) r

theorem laterGroup_cons {s : State} {c lat vd : Nat} {v : BitVec 2048} {r : List (BitVec 2048)}
    (h : twf ({} : Core) s.plane.cores = true) :
    laterGroup s c lat vd (v :: r) = s.setCore c
      { s.core c with writes := (s.core c).writes ++ groupWrites (s.plane.cycle + lat) vd (v :: r) } := by
  induction r generalizing s vd v with
  | nil => rfl
  | cons u r ih =>
    rw [laterGroup, State.laterV, State.modCore, ih (cores_setCore h), core_setCore h, setCore_setCore h, setCore_plane_cycle,
      Core.later, groupWrites, List.append_assoc]
    rfl

theorem getElem?_groupWrites (l : List (BitVec 2048)) {due vd i : Nat} : (groupWrites due vd l)[i]? =
    l[i]?.map fun v => { due := due, ord := 1, dest := .v (BitVec.ofNat 5 (vd + i)), val := v } := by
  induction l generalizing vd i with
  | nil => rfl
  | cons v r ih =>
    cases i with
    | zero => rfl
    | succ i => rw [groupWrites, List.getElem?_cons_succ, ih, List.getElem?_cons_succ, Nat.add_right_comm, Nat.add_assoc]

theorem groupWrites_tabulate {due vd n : Nat} {f : Nat → BitVec 2048} : groupWrites due vd ((List.range n).map f) =
    (List.range n).map fun j => { due := due, ord := 1, dest := .v (BitVec.ofNat 5 (vd + j)), val := f j } := by
  apply List.ext_getElem?
  intro i
  rw [getElem?_groupWrites, List.getElem?_map, List.getElem?_map]
  by_cases hi : i < n
  · simp [List.getElem?_range hi]
  · simp [List.getElem?_eq_none (l := List.range n) (i := i) (by simpa using hi)]

end Sys2Proof.Proofs
end

section
/-! PROOFS. Conversions, moves, top lists and the drain queue: what their results are. -/
namespace Sys2Proof.Proofs
open Sys2Proof Sys2Proof.Machine Sys2Proof.Safety Sys2Proof.Laws

/-! ### The order of a top list -/

theorem shlInt_cast (m a e : Int) (h : e ≤ a) : ((shlInt m (a - e) : Int) : ℚ) = m * 2 ^ a / 2 ^ e := by
  have hk : ((a - e).toNat : Int) = a - e := Int.toNat_of_nonneg (by omega)
  rw [shlInt]
  push_cast
  rw [← zpow_natCast, hk, zpow_sub₀ two_ne_zero, mul_div_assoc]

/-- A dyadic number is less than another when its value is. -/
theorem dy_lt_iff (a b : Dy) : Dy.lt a b = true ↔ (a.m : ℚ) * 2 ^ a.e < b.m * 2 ^ b.e := by
  have hp : (0 : ℚ) < 2 ^ min a.e b.e := zpow_pos two_pos _
  rw [Dy.lt, decide_eq_true_iff, ← Int.cast_lt (R := ℚ), shlInt_cast _ _ _ (min_le_left _ _), shlInt_cast _ _ _ (min_le_right _ _),
    div_lt_div_iff_of_pos_right hp]

/-- The place of a value in a top list: the greater value first, and NaN last. -/
def topRank : FV → ℤ ×ₗ ℚ
  | .nan => toLex (2, 0)
  | .inf true => toLex (1, 0)
  | .inf false => toLex (-1, 0)
  | .num n m e => toLex (0, -((FV.dy (.num n m e)).m * 2 ^ (FV.dy (.num n m e)).e))

theorem fv_lt_iff {a b : FV} (ha : a.isNan = false) (hb : b.isNan = false) : FV.lt a b = true ↔ topRank b < topRank a := by
  cases a with
  | nan => cases ha
  | inf x =>
    cases b with
    | nan => cases hb
    | inf y => cases x <;> cases y <;> simp [FV.lt, topRank, Prod.Lex.toLex_lt_toLex]
    | num _ _ _ => cases x <;> simp [FV.lt, topRank, Prod.Lex.toLex_lt_toLex]
  | num n m e =>
    cases b with
    | nan => cases hb
    | inf y => cases y <;> simp [FV.lt, topRank, Prod.Lex.toLex_lt_toLex]
    | num n' m' e' => simp [FV.lt, topRank, Prod.Lex.toLex_lt_toLex, dy_lt_iff]

/-- The place of an entry of a top list: its value's, then its index. -/
def topKey (x : BitVec 32 × BitVec 32) : (ℤ ×ₗ ℚ) ×ₗ ℕ := toLex (topRank (decFp32 x.1), x.2.toNat)

theorem topRank_lt_nan {a : FV} (ha : a.isNan = false) : topRank a < topRank .nan := by
  cases a with
  | nan => cases ha
  | inf y => cases y <;> simp [topRank, Prod.Lex.toLex_lt_toLex]
  | num _ _ _ => simp [topRank, Prod.Lex.toLex_lt_toLex]

theorem isNan_iff {a : FV} : a.isNan = true ↔ a = .nan := by cases a <;> simp [FV.isNan]

/-- An entry stands before another when its place is lower. -/
theorem topBefore_iff (x y : BitVec 32 × BitVec 32) : topBefore x y = true ↔ topKey x < topKey y := by
  rw [topBefore, topKey, topKey, Prod.Lex.toLex_lt_toLex]
  generalize decFp32 x.1 = a
  generalize decFp32 y.1 = b
  by_cases ha : a.isNan
  · obtain rfl := isNan_iff.1 ha
    by_cases hb : b.isNan
    · obtain rfl := isNan_iff.1 hb
      simp [FV.isNan, BitVec.ult]
    · have h := topRank_lt_nan (Bool.eq_false_iff.2 hb)
      simp [ha, hb, h.not_gt, h.ne']
  · by_cases hb : b.isNan
    · obtain rfl := isNan_iff.1 hb
      simp [ha, hb, topRank_lt_nan (Bool.eq_false_iff.2 ha)]
    · have hab := fv_lt_iff (Bool.eq_false_iff.2 ha) (Bool.eq_false_iff.2 hb)
      have hba := fv_lt_iff (Bool.eq_false_iff.2 hb) (Bool.eq_false_iff.2 ha)
      rcases lt_trichotomy (topRank a) (topRank b) with h | h | h
      · simp [ha, hb, hba.2 h, h]
      · simp [ha, hb, hab, hba, h, BitVec.ult]
      · simp [ha, hb, hab.2 h, mt hba.1 h.not_gt, h.not_gt, h.ne']

/-- No later entry stands before an earlier one. -/
def TopSorted (l : List (BitVec 32 × BitVec 32)) : Prop := l.Pairwise fun e f => topBefore f e = false

theorem mem_topInsert {x z : BitVec 32 × BitVec 32} {l : List (BitVec 32 × BitVec 32)} :
    z ∈ topInsert x l ↔ z = x ∨ z ∈ l := by
  induction l with
  | nil => simp [topInsert]
  | cons y r ih =>
    rw [topInsert]
    split
    · rw [List.mem_cons]
    · rw [List.mem_cons, ih, List.mem_cons]
      tauto

theorem topBefore_eq_false_iff (x y : BitVec 32 × BitVec 32) : topBefore x y = false ↔ topKey y ≤ topKey x := by
  rw [Bool.eq_false_iff, ne_eq, topBefore_iff, not_lt]

theorem topSorted_topInsert {x : BitVec 32 × BitVec 32} {l : List (BitVec 32 × BitVec 32)} (h : TopSorted l) :
    TopSorted (topInsert x l) := by
  unfold TopSorted at *
  simp only [topBefore_eq_false_iff] at *
  induction l with
  | nil => exact List.pairwise_singleton _ _
  | cons y r ih =>
    obtain ⟨hy, hr⟩ := List.pairwise_cons.1 h
    rw [topInsert]
    split
    · next hb =>
      have hxy := ((topBefore_iff x y).1 hb).le
      exact List.pairwise_cons.2 ⟨fun z hz => (List.mem_cons.1 hz).elim (fun e => e ▸ hxy) fun hz => hxy.trans (hy z hz), h⟩
    · next hb =>
      have hyx := (topBefore_eq_false_iff x y).1 (Bool.eq_false_iff.2 hb)
      exact List.pairwise_cons.2 ⟨fun z hz => (mem_topInsert.1 hz).elim (fun e => e ▸ hyx) (hy z), ih hr⟩

theorem length_topInsert {x : BitVec 32 × BitVec 32} {l : List (BitVec 32 × BitVec 32)} : (topInsert x l).length = l.length + 1 := by
  induction l with
  | nil => rfl
  | cons y r ih =>
    rw [topInsert]
    split
    · rfl
    · rw [List.length_cons, ih, List.length_cons]

/-- Entries put one after another into a sorted list leave a sorted list of them all. -/
theorem foldl_topInsert {l : List (BitVec 32 × BitVec 32)} (a : List (BitVec 32 × BitVec 32)) (h : TopSorted l) :
    TopSorted (a.foldl (fun l x => topInsert x l) l) ∧ (a.foldl (fun l x => topInsert x l) l).length = l.length + a.length := by
  induction a generalizing l with
  | nil => exact ⟨h, rfl⟩
  | cons x r ih =>
    obtain ⟨hs, hl⟩ := ih (topSorted_topInsert (x := x) h)
    exact ⟨hs, by rw [List.foldl_cons, hl, length_topInsert, List.length_cons, Nat.add_assoc, Nat.add_comm 1]⟩

theorem topMerge_sorted (n : Nat) (a b : List (BitVec 32 × BitVec 32)) : TopSorted (topMerge n a b) :=
  (foldl_topInsert (a ++ b) (l := []) List.Pairwise.nil).1.sublist (List.take_sublist _ _)

theorem length_topMerge {n : Nat} {a b : List (BitVec 32 × BitVec 32)} (h : n ≤ a.length) : (topMerge n a b).length = n := by
  rw [topMerge, List.length_take, (foldl_topInsert (a ++ b) (l := []) List.Pairwise.nil).2, List.length_append, List.length_nil]
  omega

/-! ### Groups -/

theorem laterGroup_tabulate {s : State} {c lat vd n : Nat} {f : Nat → BitVec 2048} (h : twf ({} : Core) s.plane.cores = true) :
    laterGroup s c lat vd ((List.range (n + 1)).map f) = s.setCore c { s.core c with
      writes := (s.core c).writes ++ (List.range (n + 1)).map fun j =>
        { due := s.plane.cycle + lat, ord := 1, dest := .v (BitVec.ofNat 5 (vd + j)), val := f j } } := by
  rw [← groupWrites_tabulate, List.range_succ_eq_map, List.map_cons, laterGroup_cons h]

theorem ofNat_setWidth_add (b : BitVec 64) (l : Nat) : b.setWidth 32 + BitVec.ofNat 32 l = BitVec.ofNat 32 (b.toNat + l) := by
  apply BitVec.eq_of_toNat_eq
  simp

/-- Settles O21: each result is its model function's, lane by lane; a top list is sorted because each entry is put in its
place in a total order. -/
theorem vectorMoveResults : Obligations.VectorMoveResults := by
  unfold Obligations.VectorMoveResults
  intro s c gd vd vs1 vs2 gs lane sf df hi hs k x
  have hw := twf_cores_of_coresOk hs
  refine ⟨fun h1 h2 => ?_, fun h1 h2 h3 => ?_, fun h1 h2 h3 => ?_, fun h1 h2 h3 => ?_, fun h1 => ?_, ?_, ?_, fun h1 => ?_⟩
  · rw [exec_vcvt, execVcvt, decide_eq_true h1, decide_eq_true h2]
    exact (issueSlot_on hi.1 hi.2).trans (congrArg _ (laterV_eq_coming ..))
  · rw [exec_vquant, execVquant, decide_eq_true h1, decide_eq_true h2, decide_eq_true h3]
    exact (issueSlot_on hi.1 hi.2).trans (congrArg _ (laterV_eq_coming ..))
  · rw [exec_vdeq, execVdeq, decide_eq_true h1, decide_eq_true h2, decide_eq_true h3]
    exact (issueSlot_on hi.1 hi.2).trans (congrArg _ (laterV_eq_coming ..))
  · refine ⟨{ k with writes := k.writes ++ (List.range 4).map fun q =>
      { due := s.plane.cycle + 4, ord := 1, dest := .v (BitVec.ofNat 5 (vd.toNat + q)), val := vecOfParts ((List.range 16).map fun j =>
        wideAdd (partAt (k.vGet (vs1.toNat + q)) j) (partAt (k.vGet (vs2.toNat + q)) j)) } }, ?_, rfl, rfl, fun q hq => ?_⟩
    · rw [exec_vwadd, execVwadd, decide_eq_true h1, decide_eq_true h2, decide_eq_true h3]
      exact (issueSlot_on hi.1 hi.2).trans (congrArg _ (laterGroup_tabulate hw))
    · refine ⟨_, List.mem_append_right _ (List.mem_map.2 ⟨q, List.mem_range.2 hq, rfl⟩), fun j hj => ?_⟩
      rw [partAt_vecOfParts hj, getD_map_range hj]
  · refine ⟨_, ?_, fun l hl => lane32_tabulate hl⟩
    rw [exec_vwrnd, execVwrnd, decide_eq_true h1]
    exact (issueSlot_on hi.1 hi.2).trans (congrArg _ (laterV_eq_coming ..))
  · rw [exec_vext, execVext, BitVec.ofNat_toNat]
    exact issueSlot_on hi.1 hi.2
  · refine ⟨_, ?_, fun l hl => (lane32_replicate hl).trans (BitVec.ofNat_toNat ..).symm⟩
    rw [exec_vsplat, execVsplat]
    exact (issueSlot_on hi.1 hi.2).trans (congrArg _ (laterV_eq_coming ..))
  · refine ⟨?_, length_topMerge (List.length_replicate).ge, topMerge_sorted ..⟩
    have hvd : BitVec.ofNat 5 (vd.toNat + 1) = vd + 1 := by
      apply BitVec.eq_of_toNat_eq
      simp
    rw [exec_vtopm, execVtopm, decide_eq_true h1, issueSlot_on hi.1 hi.2]
    simp only [ofNat_setWidth_add]
    refine congrArg _ ((laterGroup_cons hw).trans ?_)
    rw [groupWrites, groupWrites, groupWrites, hvd, BitVec.ofNat_toNat, BitVec.setWidth_eq]
    rfl

/-! ### The drain queue -/

theorem popEntry_head {e : DrainEntry} {r : List DrainEntry} (hd : e.dst = true) (ha : e.avail = true) :
    popEntry (e :: r) = (e.data, r) := by
  rw [popEntry, hd, ha]
  rfl

/-- What vpop does with a legal group, for what it takes from its queue. -/
theorem exec_vpop_legal {s : State} {c : Nat} {gd : Guard} {vd : BitVec 5} {arr grp : BitVec 2} (hi : Issues s c gd)
    (hw : twf ({} : Core) s.plane.cores = true) (hg : grp ≠ 3) (hvd : vd.toNat % 2 ^ grp.toNat = 0) {d : List Byte}
    {rest : List DrainEntry} (hp : popEntry ((s.core c).arr arr.toNat).queue = (d, rest)) :
    exec (.vpop c gd vd arr grp) s = .next (s.setCore c { s.core c with
      arrays := tset {} (s.core c).arrays arr.toNat { (s.core c).arr arr.toNat with queue := rest }
      writes := (s.core c).writes ++ (List.range (2 ^ grp.toNat)).map fun j =>
        { due := s.plane.cycle + 2, ord := 1, dest := .v (BitVec.ofNat 5 (vd.toNat + j)), val := packBv 2048 ((d.drop (256 * j)).take 256) } }) := by
  obtain ⟨n, hn⟩ : ∃ n, 2 ^ grp.toNat = n + 1 := ⟨_, (Nat.succ_pred (by positivity)).symm⟩
  rw [exec_vpop, execVpop, bne_iff_ne.2 hg, hn]
  rw [hn] at hvd
  rw [decide_eq_true hvd]
  refine (issueSlot_on hi.1 hi.2).trans (congrArg _ ?_)
  dsimp only
  rw [show tget {} (s.core c).arrays arr.toNat = (s.core c).arr arr.toNat from rfl, hp]
  dsimp only
  rw [laterGroup_tabulate (cores_setCore hw), core_setCore hw, setCore_setCore hw]
  rfl

/-- Settles O22. -/
theorem vectorPop : Obligations.VectorPop := by
  unfold Obligations.VectorPop
  intro s c gd vd arr grp e r hi hs k q n group
  have hw := twf_cores_of_coresOk hs
  refine ⟨fun hg hvd hq hd ha => ?_, fun hg hvd hq => ?_, fun hbad => ?_⟩
  · refine ⟨_, exec_vpop_legal hi hw hg hvd (d := e.data) (rest := r) ?_, ?_⟩
    · rw [← popEntry_head hd ha, ← hq]
    · rw [core_setCore hw]
      exact ⟨congrArg Arr.queue (tget_tset (Bool.and_eq_true_iff.1 (coreOk_core hs c)).2), rfl, rfl, rfl, rfl⟩
  · refine ⟨_, exec_vpop_legal hi hw hg hvd (d := []) (rest := []) ?_, ?_⟩
    · rw [show ((s.core c).arr arr.toNat).queue = [] from hq, popEntry]
    · rw [core_setCore hw]
      exact ⟨rfl, rfl, rfl, rfl⟩
  · have hl : (grp != 3 && decide (vd.toNat % 2 ^ grp.toNat = 0)) = false := by
      rcases hbad with rfl | h
      · rfl
      · rw [decide_eq_false h, Bool.and_false]
    rw [exec_vpop, execVpop, hl, issueSlot_illegal hi.1]
    rfl

end Sys2Proof.Proofs
end

section
/-! PROOFS. The check bits of the plane's memories, and the bank accesses of loads and stores. -/
namespace Sys2Proof.Proofs
open Sys2Proof Sys2Proof.Machine Sys2Proof.Safety Sys2Proof.Laws

section
variable {s : State} {sl : SlotKind} {pc a n : Nat} {d : List Byte}

/-! ### Runs of bytes -/

theorem mread_getElem? (m : List Host.Cell) (a n i : Nat) : (mread m a n)[i]? = if i < n then some (mget m (a + i)) else none := by
  induction n generalizing a i with
  | zero => simp [mread]
  | succ n ih =>
    cases i with
    | zero => simp [mread]
    | succ i => simp [mread, ih, Nat.add_assoc, Nat.add_comm 1]

theorem mread_mwrite_same {m : List Host.Cell} (h : memWf m = true) : mread (mwrite m a d) a d.length = d := by
  apply List.ext_getElem?
  intro i
  rw [mread_getElem?]
  split
  · next hi => rw [mget_mwrite_in h hi, List.getElem?_eq_getElem hi]
  · next hi => rw [List.getElem?_eq_none (not_lt.1 hi)]

/-! ### Check bits -/

@[simp] theorem foldl_flagLine_reads (ws : List Nat) (s : State) :
    (ws.foldl (fun s w => flagLine s (w / 8)) s).plane = s.plane ∧ (ws.foldl (fun s w => flagLine s (w / 8)) s).bg.eccCorr = s.bg.eccCorr := by
  induction ws generalizing s with
  | nil => exact ⟨rfl, rfl⟩
  | cons w r ih =>
    obtain ⟨hp, hb⟩ := ih (flagLine s (w / 8))
    exact ⟨hp, hb⟩

/-- The error records that a corrected read leaves. -/
theorem sramCorrect_plane (s : State) (a n : Nat) : (sramCorrect s a n).plane = { s.plane with
    sramErr := s.plane.sramErr.filter fun e => !(a / 8 ≤ e.1 && e.1 < (a + n + 7) / 8 && e.2 == 1) } := by
  rw [sramCorrect]
  split
  · next h =>
    have hnone := List.map_eq_nil_iff.1 (List.isEmpty_iff.1 h)
    have hall : (s.plane.sramErr.filter fun e => !(a / 8 ≤ e.1 && e.1 < (a + n + 7) / 8 && e.2 == 1)) = s.plane.sramErr :=
      List.filter_eq_self.2 fun e he => by rw [Bool.eq_false_iff.2 (List.filter_eq_nil_iff.1 hnone e he), Bool.not_false]
    rw [hall]
  · rw [(foldl_flagLine_reads _ _).1]

theorem sramCorrect_eccCorr (h : s.bg.eccCorr < 2 ^ 32) :
    (sramCorrect s a n).bg.eccCorr = min (2 ^ 32 - 1) (s.bg.eccCorr + (singleWords s a n).length) := by
  rw [sramCorrect]
  split
  · next he =>
    rw [List.isEmpty_iff.1 he, List.length_nil]
    omega
  · rw [(foldl_flagLine_reads _ _).2]
    rfl

theorem singleWords_sramCorrect : singleWords (sramCorrect s a n) a n = [] := by
  rw [singleWords, sramCorrect_plane, List.filter_filter]
  simp

theorem sramBad_sramCorrect : sramBad (sramCorrect s a n) a n = sramBad s a n := by
  rw [sramBad, sramCorrect_plane, List.find?_filter, sramBad]
  congr 3
  funext e
  rcases h : e.2 with _ | _ | _ | k <;> simp

/-- Without an error, a read gives the bytes that stand there. -/
theorem sramRead_good (h : sramBad s a n = none) : sramRead s sl pc a n = (some (s.sramGet a n), sramCorrect s a n) := by
  rw [sramRead, h]

theorem sramRead_bad {w : Nat} (h : sramBad s a n = some w) : sramRead s sl pc a n = (none, s.raise (memRep s sl pc w)) := by
  rw [sramRead, h]

/-- The report of a double-bit error is of class 0Ch and of this cycle, whatever memory it names. -/
theorem memRep_cls_cycle (w : Nat) : (memRep s sl pc w).cls = 0xC ∧ (memRep s sl pc w).cycle = s.plane.cycle := by
  rw [memRep]
  split
  · exact ⟨rfl, rfl⟩
  · split <;> exact ⟨rfl, rfl⟩

/-- A write of whole words corrects nothing. -/
theorem sramStore_whole (ha : a % 8 = 0) (hn : d.length % 8 = 0) :
    sramStore s sl pc a d = (sramClean s a d.length).sramSet a d := by
  have hp : partWords a d.length = [] := by
    rw [partWords, if_neg (by omega), if_neg (by omega)]
    rfl
  rw [sramStore, hp]
  rfl

/-- Without errors, a store writes its bytes and nothing else. -/
theorem sramStore_clean (h : s.plane.sramErr = []) : sramStore s sl pc a d = s.sramSet a d := by
  have hfind : ((partWords a d.length).find? fun w => tget 0 s.plane.sramErr w == 2) = none := by
    rw [h]
    exact List.find?_eq_none.2 fun _ _ => Bool.false_ne_true
  have hkeep (ws : List Nat) : ws.foldl (fun s w => sramCorrect s (8 * w) 8) s = s := by
    induction ws with
    | nil => rfl
    | cons w r ih =>
      rw [List.foldl_cons, show sramCorrect s (8 * w) 8 = s by simp [sramCorrect, singleWords, h], ih]
  rw [sramStore, hfind]
  dsimp only
  rw [hkeep, sramClean, h, List.filter_nil, ← h]

end

/-- Settles O26. -/
theorem checkBits : Obligations.CheckBits := by
  unfold Obligations.CheckBits
  intro s sl pc a n d hcnt
  refine ⟨fun h => ?_, fun w h hrun => ?_, fun ha hn => ?_⟩
  · rw [sramRead_good h]
    exact ⟨rfl, (congrArg Plane.sram (sramCorrect_plane s a n) :), singleWords_sramCorrect, sramBad_sramCorrect.trans h,
      (congrArg Plane.cores (sramCorrect_plane s a n) :), sramCorrect_eccCorr hcnt⟩
  · refine ⟨?_, memRep_cls_cycle w⟩
    rw [sramRead_bad h, State.raise, if_pos hrun]
  · rw [sramStore_whole ha hn]
    refine ⟨rfl, ?_, ?_, rfl, rfl⟩
    · rw [sramBad, Option.map_eq_none_iff]
      simp [sramClean, State.sramSet]
      omega
    · rw [singleWords]
      simp [sramClean, State.sramSet]
      omega

/-! ### Bank accesses -/

theorem ofLe_lt (l : List Byte) : ofLe l < 256 ^ l.length := by
  induction l with
  | nil => simp [ofLe]
  | cons b r ih =>
    have hb := b.isLt
    rw [ofLe, List.length_cons, pow_succ]
    omega

/-- Settles O25. -/
theorem bankAccesses : Obligations.BankAccesses := by
  unfold Obligations.BankAccesses
  intro s c o n d l w hm hs herr
  have hmem : memWf s.plane.sram = true := (Bool.and_eq_true_iff.1 (Bool.and_eq_true_iff.1 hm).1).1
  have hw := twf_cores_of_coresOk hs
  refine ⟨?_, fun hc => ?_, ?_⟩
  · rintro rfl rfl
    rw [doStore, spmWrite, sramStore_clean herr]
    exact ⟨mread_mwrite_same hmem, rfl, fun x hx => mget_mwrite_out hmem hx⟩
  · rw [readLoad]
    exact (congrArg (State.core · c) (if_pos hc)).trans (core_setCore hw)
  · rintro rfl rfl hn hv hsx hrc hgot ht
    have hval : ofLe (s.sramGet (spmAddr c l.off) l.bytes) < 2 ^ 64 := by
      refine (ofLe_lt _).trans_le ?_
      rw [State.sramGet, mread_length, show (256 : Nat) = 2 ^ 8 from rfl, ← pow_mul]
      exact Nat.pow_le_pow_right two_pos (by omega)
    have hwr : loadWrites l (s.sramGet (spmAddr c l.off) l.bytes) =
        [{ due := l.due, ord := 3, dest := .g l.reg, rd := some l.tAt
           val := BitVec.ofNat 2048 (ofLe (s.sramGet (spmAddr c l.off) l.bytes)) }] := by
      rw [loadWrites, hv, hsx]
      dsimp only
      rw [if_neg Bool.false_ne_true, if_neg Bool.false_ne_true, BitVec.setWidth_ofNat_of_le_of_lt (by decide) hval]
    have hread : readLoad s c l = s.modCore c fun k => { k with writes := k.writes ++ loadWrites l (s.sramGet (spmAddr c l.off) l.bytes) } := by
      rw [readLoad, if_neg (by rw [hrc]; exact not_le.2 (Nat.lt_succ_of_le ht)), PendLoad.runBytes, if_pos hrc, spmRead, hgot,
        List.length_nil, Nat.add_zero, sramRead_clean herr]
      exact if_neg (not_lt.2 ht)
    rw [hread, hwr]
    refine ⟨rfl, ?_, ?_⟩ <;> rw [State.modCore, core_setCore hw]

end Sys2Proof.Proofs
end

section
/-! PROOFS. Transfers: what their issue puts in flight. -/
namespace Sys2Proof.Proofs
open Sys2Proof Sys2Proof.Machine Sys2Proof.Safety Sys2Proof.Laws

section
variable {s : State} {c : Nat} {gd : Guard}

/-! ### The orders of the ports -/

theorem insertWld_perm (x : WldCmd) (l : List WldCmd) : (insertWld x l).Perm (x :: l) := by
  induction l with
  | nil => exact .refl _
  | cons y r ih =>
    rw [insertWld]
    split
    · exact (ih.cons y).trans (.swap x y r)
    · exact .refl _

theorem insertKv_perm (x : KvCmd) (l : List KvCmd) : (insertKv x l).Perm (x :: l) := by
  induction l with
  | nil => exact .refl _
  | cons y r ih =>
    rw [insertKv]
    split
    · exact (ih.cons y).trans (.swap x y r)
    · exact .refl _

/-- A command issued after every command of its port goes to the end. -/
theorem insertWld_last {x : WldCmd} {l : List WldCmd} (h : ∀ y ∈ l, y.tAt < x.tAt) : insertWld x l = l ++ [x] := by
  induction l with
  | nil => rfl
  | cons y r ih =>
    rw [insertWld, if_pos (.inl (h y List.mem_cons_self)), ih fun z hz => h z (List.mem_cons_of_mem y hz)]
    rfl

/-- A port with room has no command over its bound. -/
theorem kvOver_insertKv {x : KvCmd} {l : List KvCmd} (h : (l.filter fun y => y.path == x.path).length < 128) :
    kvOver (insertKv x l) x.path = none := by
  have hl := ((insertKv_perm x l).filter fun y => y.path == x.path).length_eq
  rw [List.filter_cons_of_pos (by exact beq_self_eq_true _), List.length_cons] at hl
  rw [kvOver, if_neg (by omega)]

theorem runInCode_below {o n : Nat} (h : o + n ≤ 0x180000 - codeBytes s) : runInCode s o n = false :=
  decide_eq_false fun ⟨hn, _⟩ => absurd h (not_le.2 hn)

/-! ### The issues -/

theorem issueXfer_run {k : Core} {put : Bool} {a : BitVec 4} {g : BitVec 5} {cc : BitVec 6} {n : Nat}
    (hu : addrUnit (k.aGet a.toNat) = 0x3F)
    (ho : addrOff (k.aGet a.toNat) / 64 * 64 + 64 * n ≤ 0x180000 - codeBytes s)
    (hcm : (k.gGet g.toNat).toNat % 2 ^ 32 / 64 * 64 + 64 * n ≤ 0x1800000) :
    issueXfer s c k put a g cc n 0 = { s with plane := { s.plane with nextId := s.plane.nextId + 1, xfers := s.plane.xfers ++
      [{ id := s.plane.nextId, core := c, put := put, off := addrOff (k.aGet a.toNat) / 64 * 64
         cm := (k.gGet g.toNat).toNat % 2 ^ 32 / 64 * 64, lines := n, cc := cc, tAt := s.plane.cycle
         tAtR := s.plane.cycle + 1, pc := k.pc }] } } := by
  have hrun : spmRun (k.aGet a.toNat) (addrOff (k.aGet a.toNat) / 64 * 64) (64 * n) = true :=
    decide_eq_true ⟨hu, ho.trans (Nat.sub_le ..)⟩
  rw [issueXfer]
  dsimp only
  rw [BitVec.toNat_setWidth, hrun, runInCode_below ho, decide_eq_false (p := cmSize < _) (not_lt.2 hcm), Bool.and_false]
  rfl

theorem issueKv_run {k : Core} {store : Bool} {area n : Nat} {g : BitVec 5} {a : BitVec 4} {cc : BitVec 6} {x : KvCmd}
    (hu : addrUnit (k.aGet a.toNat) = 0x20) (ho : addrOff (k.aGet a.toNat) / 64 * 64 + 64 * n ≤ 0x1800000)
    (hk : kvRunBad s c area ((k.gGet g.toNat).toNat % 2 ^ 44 / 64 * 64) (64 * n) store = false)
    (hx : x = { id := s.plane.nextId, core := c, store := store, area := area, addr := (k.gGet g.toNat).toNat % 2 ^ 44 / 64 * 64
                cmem := true, off := addrOff (k.aGet a.toNat) / 64 * 64, lines := n, cc := cc
                path := 2 * pclOf c + (kvMap s area ((k.gGet g.toNat).toNat % 2 ^ 44 / 64 * 64)).wafer, pc := k.pc
                tAt := s.cycle })
    (hon : (s.plane.kvs.filter fun y => y.path == x.path).length < 128) :
    issueKv s c k store area g a n 0 cc =
      { s with plane := { s.plane with nextId := s.plane.nextId + 1, kvs := insertKv x s.plane.kvs } } := by
  subst hx
  have hrun : planeRun (k.aGet a.toNat) n = (true, addrOff (k.aGet a.toNat) / 64 * 64, true) := by
    rw [planeRun, if_neg (by rw [hu]; decide), decide_eq_true ⟨hu, ho⟩]
  have hroom := kvOver_insertKv hon
  dsimp only at hroom
  rw [issueKv, hrun]
  dsimp only
  rw [show n * kvElem 0 = 64 * n from Nat.mul_comm n 64, hk, if_neg (by decide), Bool.not_true, Bool.and_false, Bool.false_and,
    if_neg Bool.false_ne_true, hroom]

theorem length_portWlds_insertWld (w : WldCmd) :
    (portWlds { s with plane := { s.plane with wlds := insertWld w s.plane.wlds } } w.pcl w.wafer).length =
      (portWlds s w.pcl w.wafer).length + 1 := by
  have hl := ((insertWld_perm w s.plane.wlds).filter fun y => y.pcl == w.pcl && y.wafer == w.wafer).length_eq
  rwa [List.filter_cons_of_pos (by simp), List.length_cons] at hl

/-- The command that a wld issues. -/
def wldOf (s : State) (c : Nat) (wafer : BitVec 2) (g : BitVec 5) (pages : BitVec 4) (cc : BitVec 6) : WldCmd :=
  { core := c, pcl := pclOf c, wafer := wafer.toNat, page := ((s.core c).gGet g.toNat).toNat % 2 ^ 23
    left := pages.toNat + 1, cc := cc, tAt := s.plane.cycle, pc := (s.core c).pc }

section
variable {wafer : BitVec 2} {g : BitVec 5} {pages : BitVec 4} {cc : BitVec 6} {w : WldCmd} (hi : Issues s c gd)
  (hw : wafer.toNat < gradeWt s) (hp : ((s.core c).gGet g.toNat).toNat % 2 ^ 23 + (pages.toNat + 1) ≤ 8388608)
  (hwd : w = wldOf s c wafer g pages cc)
include hi hw hp hwd

/-- The issue of a wld whose pages exist. -/
theorem exec_wld_run : exec (.wld c gd wafer g pages cc) s = .next
    (let s1 : State := { s with plane := { s.plane with wlds := insertWld w s.plane.wlds } }
     match (if 448 < (portWlds s1 w.pcl w.wafer).length then (portWlds s1 w.pcl w.wafer).getLast? else none) with
     | some y => ({ s1 with plane := { s1.plane with wlds := s1.plane.wlds.erase y } }).raiseCore y.core 6 .M y.pc.toNat
     | none => s1) := by
  subst hwd
  rw [exec_wld, execWld, issueSlot_on hi.1 hi.2]
  exact congrArg _ (if_neg (not_or.2 ⟨not_le.2 hw, not_lt.2 hp⟩))

theorem exec_wld_room (hon : (portWlds s w.pcl w.wafer).length < 448) : exec (.wld c gd wafer g pages cc) s =
    .next { s with plane := { s.plane with wlds := insertWld w s.plane.wlds } } := by
  rw [exec_wld_run hi hw hp hwd]
  dsimp only
  rw [length_portWlds_insertWld, if_neg (not_lt.2 hon)]

/-- The last command of a full port is the one refused. -/
theorem exec_wld_full (hlast : ∀ y ∈ s.plane.wlds, y.tAt < w.tAt) (hon : (portWlds s w.pcl w.wafer).length = 448) :
    exec (.wld c gd wafer g pages cc) s = .next (Detected s c 6 .M) := by
  have hport : portWlds { s with plane := { s.plane with wlds := s.plane.wlds ++ [w] } } w.pcl w.wafer =
      portWlds s w.pcl w.wafer ++ [w] := by
    rw [portWlds, List.filter_append, List.filter_cons_of_pos (by simp)]
    rfl
  have hout : (s.plane.wlds ++ [w]).erase w = s.plane.wlds := by
    rw [List.erase_append_right _ fun hm => absurd (hlast w hm) (lt_irrefl _), List.erase_cons_head, List.append_nil]
  rw [exec_wld_run hi hw hp hwd]
  dsimp only
  rw [length_portWlds_insertWld, hon, if_pos (by decide), insertWld_last hlast, hport, List.getLast?_concat]
  dsimp only
  rw [hout, hwd]
  rfl

end

end

/-- Settles O27. -/
theorem transfersIssue : Obligations.TransfersIssue := by
  unfold Obligations.TransfersIssue
  intro s c gd a g cc lines wafer area pages grs klines hi k ad x o n kn id cm kad path kv
  refine ⟨fun hu ho hcm => ?_, fun hw hp => ⟨fun hon => ?_, fun hlast => ?_⟩, ?_, fun hu ho har hk hon => ?_,
    fun hu ho har hk hon => ?_, fun hu ho => ?_⟩
  · rw [exec_cget, exec_cput, execCget, execCput, issueSlot_on hi.1 hi.2]
    exact ⟨(issueSlot_on hi.1 hi.2).trans (congrArg _ (issueXfer_run hu ho hcm)), congrArg _ (issueXfer_run hu ho hcm)⟩
  · exact exec_wld_room hi hw hp rfl hon
  · exact ⟨insertWld_last hlast, exec_wld_full hi hw hp rfl hlast⟩
  · rw [exec_wdrop, execWdrop]
    exact issueSlot_on hi.1 hi.2
  · rw [exec_kvst, execKvst, bne_iff_ne.2 har]
    refine (issueSlot_on hi.1 hi.2).trans (congrArg _ (issueKv_run hu ho hk rfl hon))
  · rw [exec_kvld, execKvld, bne_iff_ne.2 har]
    refine (issueSlot_on hi.1 hi.2).trans (congrArg _ (issueKv_run hu ho hk rfl hon))
  · have hrun : planeRun (k.aGet a.toNat) n = (false, o, true) := by
      rw [planeRun, if_pos hu]
      exact congrArg _ (congrArg _ (decide_eq_true ho))
    rw [exec_hput, execHput]
    refine (issueSlot_on hi.1 hi.2).trans (congrArg _ ?_)
    dsimp only
    rw [show planeRun ((s.core c).aGet a.toNat) (lines.toNat + 1) = _ from hrun]
    rfl

end Sys2Proof.Proofs
end

section
/-! PROOFS. Completions of transfers: the statement on a state with two transfers of one id. -/
namespace Sys2Proof.Proofs
open Sys2Proof Sys2Proof.Machine Sys2Proof.Safety Sys2Proof.Laws

/-- A load that has moved none of its lines, before a store of the same id that has moved its line. -/
def twinLoad : KvCmd := { id := 0, cmem := true, lines := 1 }

def twinStore : KvCmd := { id := 0, store := true, cmem := true, lines := 1, moved := 1 }

def twinKv : State := { fuses := { grade := 4 }, plane := { kvs := [twinLoad, twinStore] } }

/-- The completion of the id is the store's, which takes both transfers. -/
theorem exec_kvstComplete_twinKv : exec (.kvstComplete twinLoad.id {}) twinKv =
    .next { twinKv with plane := { twinKv.plane with kvs := [], lateKv := 1 } } := by
  rw [exec_kvstComplete]
  rfl

/-- Refutes O28: the statement does not say that the ids of the transfers in flight differ, and with a load that waits for its
line before a store of the same id that is ready, the completion of that id does something. -/
theorem not_transfersComplete : ¬ Obligations.TransfersComplete := by
  unfold Obligations.TransfersComplete LinesMoveAndComplete
  intro ⟨⟨hkv, _⟩, _⟩
  have hstill := ((hkv twinKv twinLoad [twinStore] rfl rfl rfl (by decide) rfl rfl rfl (by decide)).1 (by decide)).2
  rw [exec_kvstComplete_twinKv] at hstill
  have hkvs := congrArg (fun r => (Res.stateOr r twinKv).plane.kvs) hstill
  exact absurd hkvs (by decide)

end Sys2Proof.Proofs
end

section
/-! PROOFS. Weight pages: their entry into the weight FIFO. -/
namespace Sys2Proof.Proofs
open Sys2Proof Sys2Proof.Machine Sys2Proof.Safety Sys2Proof.Laws

/-! ### Tables and memories after several writes -/

section
variable {α : Type} [DecidableEq α] {d : α}

/-- A written value stands, in any table. -/
theorem tget_tset_of_ne_default {v : α} (hv : v ≠ d) (t : Table α) (k : Nat) : tget d (tset d t k v) k = v := by
  induction t with
  | nil => simp [tset, hv, tget]
  | cons e r ih =>
    obtain ⟨j, w⟩ := e
    rcases lt_trichotomy k j with h | rfl | h
    · simp [tset, h, hv, tget]
    · simp [tset, hv, tget]
    · simp [tset, not_lt.2 h.le, h.ne', tget, ih]

/-- A written value leaves the other places alone, in any table. -/
theorem tget_tset_ne_of_ne_default {v : α} (hv : v ≠ d) (t : Table α) {k k' : Nat} (hk : k' ≠ k) :
    tget d (tset d t k v) k' = tget d t k' := by
  induction t with
  | nil => simp [tset, hv, tget, hk]
  | cons e r ih =>
    obtain ⟨j, w⟩ := e
    rcases lt_trichotomy k j with h | rfl | h
    · rcases lt_or_ge k' k with h' | h'
      · simp [tset, h, hv, tget, h', h'.trans h]
      · simp [tset, h, hv, tget, not_lt.2 h', hk]
    · simp [tset, hv, tget, hk]
    · simp [tset, not_lt.2 h.le, h.ne', tget, ih]

theorem tget_foldl_tset {v : α} (hv : v ≠ d) (f : Nat → Nat) (l : List Nat) (t : Table α) {k : Nat}
    (h : (∃ i ∈ l, f i = k) ∨ tget d t k = v) : tget d (l.foldl (fun t i => tset d t (f i) v) t) k = v := by
  induction l generalizing t with
  | nil => exact h.resolve_left fun ⟨_, hi, _⟩ => absurd hi List.not_mem_nil
  | cons a r ih =>
    apply ih
    rcases h with ⟨i, hi, rfl⟩ | h
    · rcases List.mem_cons.1 hi with rfl | hi
      · exact .inr (tget_tset_of_ne_default hv t _)
      · exact .inl ⟨i, hi, rfl⟩
    · by_cases ha : k = f a
      · exact .inr (ha ▸ tget_tset_of_ne_default hv t _)
      · exact .inr ((tget_tset_ne_of_ne_default hv t ha).trans h)

end

section
variable {m : List Host.Cell} {a : Nat → Nat} {d : Nat → List Byte} {n : Nat}

theorem foldl_mwrite_wf (l : List Nat) (h : memWf m = true) : memWf (l.foldl (fun m i => mwrite m (a i) (d i)) m) = true := by
  induction l generalizing m with
  | nil => exact h
  | cons i r ih => exact ih (memWf_mwrite h)

/-- Writes of runs leave every byte outside them. -/
theorem mget_foldl_mwrite_out (l : List Nat) (h : memWf m = true) {x : Nat} (hx : ∀ i ∈ l, x < a i ∨ a i + (d i).length ≤ x) :
    mget (l.foldl (fun m i => mwrite m (a i) (d i)) m) x = mget m x := by
  induction l generalizing m with
  | nil => rfl
  | cons i r ih =>
    exact (ih (memWf_mwrite h) fun j hj => hx j (List.mem_cons_of_mem i hj)).trans (mget_mwrite_out h (hx i List.mem_cons_self))

theorem mread_congr {m m' : List Host.Cell} {b n : Nat} (h : ∀ x, b ≤ x → x < b + n → mget m x = mget m' x) :
    mread m b n = mread m' b n := by
  apply List.ext_getElem?
  intro i
  rw [mread_getElem?, mread_getElem?]
  split
  · next hi => rw [h _ (Nat.le_add_right ..) (Nat.add_lt_add_left hi b)]
  · rfl

/-- Each of several disjoint runs holds what was written to it. -/
theorem mread_foldl_mwrite {l : List Nat} (h : memWf m = true) (hlen : ∀ i ∈ l, (d i).length = n)
    (hdisj : l.Pairwise fun i j => a i + n ≤ a j ∨ a j + n ≤ a i) {i : Nat} (hi : i ∈ l) :
    mread (l.foldl (fun m i => mwrite m (a i) (d i)) m) (a i) n = d i := by
  induction l generalizing m with
  | nil => cases hi
  | cons j r ih =>
    obtain ⟨hj, hr⟩ := List.pairwise_cons.1 hdisj
    have hlen' := fun i hi => hlen i (List.mem_cons_of_mem j hi)
    rcases List.mem_cons.1 hi with rfl | hi
    · have hkeep : mread (r.foldl (fun m i => mwrite m (a i) (d i)) (mwrite m (a i) (d i))) (a i) n = mread (mwrite m (a i) (d i)) (a i) n :=
        mread_congr fun x h1 h2 => mget_foldl_mwrite_out r (memWf_mwrite h) fun k hk => by
          have hdk := hlen' k hk
          have hak := hj k hk
          omega
      rw [List.foldl_cons, hkeep, ← hlen i List.mem_cons_self, mread_mwrite_same h]
    · exact ih (memWf_mwrite h) hlen' hr hi

end

/-! ### The counter of a completion -/

/-- An increment below the top adds 1 to the counter. -/
theorem incr_counts {s : State} {c i pc : Nat} {sl : SlotKind} (hw : twf ({} : Core) s.plane.cores = true)
    (hcc : twf (0 : BitVec 32) (s.core c).cc = true) (h : (s.core c).ccGet i ≠ 0xFFFFFFFF) :
    (((s.incr c i pc sl).core c).ccGet i).toNat = ((s.core c).ccGet i).toNat + 1 := by
  have hne := mt ccGet_toNat_eq_top_iff.1 h
  rw [incr_below_top h, core_setCore hw]
  calc (((s.core c).ccSet i ((s.core c).ccGet i + 1)).ccGet i).toNat
      = ((s.core c).ccGet i + 1).toNat := by rw [ccGet_ccSet hcc]
    _ = ((s.core c).ccGet i).toNat + 1 := by rw [BitVec.toNat_add_of_lt (by simp; omega)]; rfl

theorem incr_core {s : State} {c i pc : Nat} {sl : SlotKind} (hw : twf ({} : Core) s.plane.cores = true)
    (h : (s.core c).ccGet i ≠ 0xFFFFFFFF) : (s.incr c i pc sl).core c =
      { (s.core c).ccSet i ((s.core c).ccGet i + 1) with incs := tmod 0 (s.core c).incs i (· + 1) } := by
  rw [incr_below_top h, core_setCore hw]

/-! ### The page -/

section
variable {s : State} {c : Nat} {d : List Byte}

/-- A port whose commands have started fixes no places. -/
theorem startWlds_started {pcl wafer : Nat} (h : ∀ y ∈ s.plane.wlds, y.places.isEmpty = false) : startWlds s pcl wafer = s := by
  have hid : (s.plane.wlds.map fun x => if x.places.isEmpty && ((portWlds s pcl wafer).take 6).contains x then
      { x with places := (List.range x.left).map fun i => pagePlace s pcl wafer (x.page + i) } else x) = s.plane.wlds :=
    (List.map_congr_left fun y hy => by rw [h y hy, Bool.false_and]; rfl).trans (List.map_id _)
  rw [startWlds]
  dsimp only
  rw [hid]

/-- Granules written one after another change the memory and its error records only. -/
theorem foldl_granules (l : List Nat) (a : Nat → Nat) (b : Nat → List Byte) (s : State) :
    l.foldl (fun s i => (sramClean s (a i) 128).sramSet (a i) (b i)) s = { s with plane := { s.plane with
      sramErr := (l.foldl (fun s i => (sramClean s (a i) 128).sramSet (a i) (b i)) s).plane.sramErr
      sram := l.foldl (fun m i => mwrite m (a i) (b i)) s.plane.sram } } := by
  induction l generalizing s with
  | nil => rfl
  | cons i r ih => exact ih _

/-- The granules of a page from place f on stand as arrived. -/
@[irreducible] def granulesArrived (f : Nat) (t : Table Bool) : Table Bool := (List.range 32).foldl (fun t i => tset false t ((f + i) % 512) true) t

theorem granulesArrived_at (f : Nat) (t : Table Bool) {i : Nat} (hi : i < 32) :
    tget false (granulesArrived f t) ((f + i) % 512) = true := by
  rw [granulesArrived]
  exact tget_foldl_tset (by decide) (fun i => (f + i) % 512) (List.range 32) t (.inl ⟨i, List.mem_range.2 hi, rfl⟩)

/-- The core after a page: its fill place moves on and its granules stand as arrived. -/
def filledCore (k : Core) : Core :=
  { k with fill := (k.fill + 32) % 512, arrived := granulesArrived k.fill k.arrived }

/-- The memories after a page entered the FIFO of core c from granule f on. -/
@[irreducible] def pageFilled (m : List Host.Cell) (c f : Nat) (d : List Byte) : List Host.Cell :=
  (List.range 32).foldl (fun m i => mwrite m (fifoAddr c (128 * ((f + i) % 512))) ((d.drop (128 * i)).take 128)) m

/-- Each granule of the page stands at its place of the ring. -/
theorem pageFilled_granule {m : List Host.Cell} {f : Nat} (hm : memWf m = true) (hd : d.length = 4096) {i : Nat} (hi : i < 32) :
    mread (pageFilled m c f d) (fifoAddr c (128 * ((f + i) % 512))) 128 = (d.drop (128 * i)).take 128 := by
  rw [pageFilled]
  refine mread_foldl_mwrite (l := List.range 32) (a := fun i => fifoAddr c (128 * ((f + i) % 512)))
    (d := fun i => (d.drop (128 * i)).take 128) hm (fun j hj => ?_) ?_ (List.mem_range.2 hi)
  · rw [List.length_take, List.length_drop, hd]
    have := List.mem_range.1 hj
    omega
  · refine List.pairwise_lt_range.imp_of_mem fun ha hb hab => ?_
    have := List.mem_range.1 hb
    simp only [fifoAddr]
    omega

theorem pageFilled_below {m : List Host.Cell} {f : Nat} (hm : memWf m = true) {b : Nat} (hb : b < 2 ^ 36) :
    mget (pageFilled m c f d) b = mget m b := by
  rw [pageFilled]
  refine mget_foldl_mwrite_out (List.range 32) hm fun i _ => .inl ?_
  rw [fifoAddr]
  omega

theorem fillFifo_frame (s : State) (c : Nat) (d : List Byte) : ∃ e, fillFifo s c d = { s with plane := { s.plane with
    sramErr := e, sram := pageFilled s.plane.sram c (s.core c).fill d
    cores := tset {} s.plane.cores c (filledCore (s.core c)) } } := by
  refine ⟨((List.range 32).foldl (fun s' i => (sramClean s' (fifoAddr c (128 * (((s.core c).fill + i) % 512))) 128).sramSet
    (fifoAddr c (128 * (((s.core c).fill + i) % 512))) ((d.drop (128 * i)).take 128)) s).plane.sramErr, ?_⟩
  rw [fillFifo]
  dsimp only
  rw [foldl_granules, pageFilled, filledCore, granulesArrived]
  rfl

end

theorem countRead_frame (s : State) (p : Nat) : (countRead s p).plane = s.plane ∧ (countRead s p).wst.mem = s.wst.mem := by
  rw [countRead]
  dsimp only
  split <;> exact ⟨rfl, rfl⟩

theorem portWlds_single {s : State} {x : WldCmd} (h : s.plane.wlds = [x]) : portWlds s x.pcl x.wafer = [x] := by
  rw [portWlds, h, List.filter_cons_of_pos (by simp)]
  rfl

section
variable {s : State} {x : WldCmd} {place : Nat} {ps : List Nat}

/-- The commands left after the page. -/
def wldsAfter (s : State) (x : WldCmd) (ps : List Nat) : List WldCmd :=
  if x.left ≤ 1 then []
  else [{ x with page := x.page + 1, left := x.left - 1, places := ps, nextAt := s.plane.cycle + 8 }]

/-- The only command of a port ends its page: what becomes of the port, the FIFO and the counter. -/
theorem endPage_single (hx : s.plane.wlds = [x]) (hp : x.places = place :: ps) (hps : ps.length + 1 = x.left) (hr : x.retry = none)
    (hrun : s.plane.progRun = true) : ∃ s1, s1.plane = { s.plane with wlds := wldsAfter s x ps } ∧
      endPage s x {} = (fillFifo s1 x.core (pageRead s place)).incr x.core x.cc.toNat x.pc.toNat .M := by
  have hput : putWld s.plane.wlds x (if x.left ≤ 1 then none else some (x.next s.cycle)) = wldsAfter s x ps := by
    rw [hx, putWld.eq_def]
    by_cases hl : x.left ≤ 1
    · simp only [if_true, if_pos hl, wldsAfter]
    · simp only [if_true, if_neg hl, wldsAfter, WldCmd.next, hp, List.drop_one, List.tail_cons, hr]
      rfl
  rw [endPage]
  dsimp only
  rw [hput, hp, List.headD_cons, if_neg Bool.false_ne_true, if_pos hrun, startWlds_started]
  · generalize hs0 : ({ s with plane := { s.plane with wlds := wldsAfter s x ps }, wst := { s.wst with deliv := tmod 0 s.wst.deliv (4 * x.pcl + x.wafer) (· + 1) } } : State) = s0
    obtain ⟨hpl, hmem⟩ := countRead_frame s0 place
    refine ⟨noteRead (countRead s0 place) (pageKey x.pcl x.wafer x.page) {}, hpl.trans (by rw [← hs0]), ?_⟩
    have hread : pageRead (noteRead (countRead s0 place) (pageKey x.pcl x.wafer x.page) {}) place = pageRead s place := by
      rw [pageRead, pageRead]
      exact congrArg (mread · _ _) (hmem.trans (by rw [← hs0]))
    rw [hread]
  · intro y hy
    rw [show (noteRead _ _ _).plane = (countRead _ _).plane from rfl, (countRead_frame _ _).1] at hy
    dsimp only at hy
    unfold wldsAfter at hy
    split at hy
    · cases hy
    · next hl =>
      rw [List.mem_singleton.1 hy]
      dsimp only
      cases ps with
      | nil =>
        rw [List.length_nil] at hps
        omega
      | cons _ _ => rfl

end

/-- What a page that has entered leaves, with its counter below the top. -/
structure PageIn (s t : State) (x : WldCmd) (ps : List Nat) (d : List Byte) : Prop where
  sram : t.plane.sram = pageFilled s.plane.sram x.core (s.core x.core).fill d
  core : t.core x.core = { (filledCore (s.core x.core)).ccSet x.cc.toNat ((s.core x.core).ccGet x.cc.toNat + 1) with
    incs := tmod 0 (s.core x.core).incs x.cc.toNat (· + 1) }
  count : ((t.core x.core).ccGet x.cc.toNat).toNat = ((s.core x.core).ccGet x.cc.toNat).toNat + 1
  wlds : t.plane.wlds = wldsAfter s x ps

theorem pageIn_fillFifo_incr {s s1 : State} {x : WldCmd} {ps : List Nat} {d : List Byte} (hs : coresOk s = true)
    (hpl : s1.plane = { s.plane with wlds := wldsAfter s x ps }) (hne : (s.core x.core).ccGet x.cc.toNat ≠ 0xFFFFFFFF) :
    PageIn s ((fillFifo s1 x.core d).incr x.core x.cc.toNat x.pc.toNat .M) x ps d := by
  have hw := twf_cores_of_coresOk hs
  have hk1 : s1.core x.core = s.core x.core := by
    rw [State.core, hpl]
    rfl
  obtain ⟨e, he⟩ := fillFifo_frame s1 x.core d
  rw [hk1, hpl] at he
  generalize fillFifo s1 x.core d = s2 at he
  obtain ⟨hsram, hcores, hwlds⟩ : s2.plane.sram = pageFilled s.plane.sram x.core (s.core x.core).fill d ∧
      s2.plane.cores = tset {} s.plane.cores x.core (filledCore (s.core x.core)) ∧ s2.plane.wlds = wldsAfter s x ps := by
    simp only [he, and_self]
  have hw2 : twf ({} : Core) s2.plane.cores = true := by
    rw [hcores]
    exact twf_tset hw
  have hk2 : s2.core x.core = filledCore (s.core x.core) := by
    rw [State.core, hcores]
    exact tget_tset hw
  have hne2 : (s2.core x.core).ccGet x.cc.toNat ≠ 0xFFFFFFFF := by
    rw [hk2]
    exact hne
  have hcc : twf (0 : BitVec 32) (s2.core x.core).cc = true := by
    rw [hk2]
    exact twf_cc_of_coreOk (coreOk_core hs x.core)
  have hcount := incr_counts (pc := x.pc.toNat) (sl := .M) hw2 hcc hne2
  have hcore := incr_core (pc := x.pc.toNat) (sl := .M) hw2 hne2
  rw [hk2] at hcount hcore
  have hincr := incr_below_top (pc := x.pc.toNat) (sl := .M) hne2
  exact ⟨by rw [hincr, setCore_plane_sram, hsram], hcore, hcount, by rw [hincr, setCore_plane_wlds, hwlds]⟩

/-- Settles O29. -/
theorem weightPageArrives : Obligations.WeightPageArrives := by
  unfold Obligations.WeightPageArrives
  refine ⟨fun s x hx hp => ?_, fun s x place ps hm hs hx hp hps hc hr => ?_⟩
  · rw [startWlds, portWlds_single hx, hx, List.map_singleton, hp, if_pos (by simp)]
  · have hd : (pageRead s place).length = 4096 := by rw [pageRead, mread_length]
    have hmem : memWf s.plane.sram = true := (Bool.and_eq_true_iff.1 (Bool.and_eq_true_iff.1 hm).1).1
    have hend (hrun : s.plane.progRun = true) (hne : (s.core x.core).ccGet x.cc.toNat ≠ 0xFFFFFFFF) : ∃ t, endPage s x {} = t ∧ PageIn s t x ps (pageRead s place) := by
      obtain ⟨s1, hpl, h⟩ := endPage_single hx hp hps hr hrun
      exact ⟨_, h, pageIn_fillFifo_incr hs hpl hne⟩
    have hstart : startWlds s x.pcl x.wafer = s := startWlds_started fun y hy => by
      rw [hx] at hy
      rw [List.mem_singleton.1 hy, hp]
      rfl
    have hexec : exec (.weightPageArrival x.pcl x.wafer 0 {}) s =
        if (!fifoCredit (s.core x.core)) = true ∨ s.cycle ≤ x.tAt ∨ s.cycle < x.nextAt then .next s else .next (endPage s x {}) := by
      rw [exec_weightPageArrival, execWeightPageArrival, hstart, portWlds_single hx]
      simp [hx, hr, pageTries]
    generalize pageRead s place = d at hd hend ⊢
    intro k d
    refine ⟨fun h => ?_, fun hcr ht hn hrun hne hf => ?_⟩
    · rw [hexec, if_pos]
      rcases h with h | h
      · exact .inl (by rw [h]; rfl)
      · exact .inr (.inr h)
    · obtain ⟨t, ht', hin⟩ := hend hrun hne
      refine ⟨t, ?_, fun i hi => ⟨?_, ?_⟩, ?_, ?_, ?_, hin.count, fun b hb => ?_, hin.wlds⟩
      · rw [hexec, if_neg, ht']
        rw [hcr]
        exact not_or.2 ⟨Bool.false_ne_true, not_or.2 ⟨not_le.2 ht, not_lt.2 hn⟩⟩
      · rw [State.sramGet, hin.sram]
        exact pageFilled_granule hmem hd hi
      · rw [hin.core]
        exact granulesArrived_at k.fill k.arrived hi
      · rw [hin.core]
        rfl
      · rw [hin.core]
        rfl
      · rw [hin.core]
        rfl
      · rw [hin.sram, pageFilled_below hmem hb]

end Sys2Proof.Proofs
end

section
/-! PROOFS. Drain entries and correction operations: how they end. -/
namespace Sys2Proof.Proofs
open Sys2Proof Sys2Proof.Machine Sys2Proof.Safety Sys2Proof.Laws

section
variable {s : State} {c : Nat} {arr : BitVec 2} {e : DrainEntry} {r : List DrainEntry}

theorem incrRun_running {i pc : Nat} {sl : SlotKind} (h : s.plane.progRun = true) : incrRun s c i pc sl = s.incr c i pc sl := if_pos h

/-- A core written with a new content counts from that content. -/
theorem incr_setCore {k : Core} {i pc : Nat} {sl : SlotKind} (hw : twf ({} : Core) s.plane.cores = true)
    (hcc : twf (0 : BitVec 32) k.cc = true) (hne : k.ccGet i ≠ 0xFFFFFFFF) :
    ((s.setCore c k).incr c i pc sl).core c = { k.ccSet i (k.ccGet i + 1) with incs := tmod 0 k.incs i (· + 1) } ∧
    ((((s.setCore c k).incr c i pc sl).core c).ccGet i).toNat = (k.ccGet i).toNat + 1 ∧
    ((s.setCore c k).incr c i pc sl).plane.sram = s.plane.sram := by
  have hk : (s.setCore c k).core c = k := core_setCore hw
  have hne' : ((s.setCore c k).core c).ccGet i ≠ 0xFFFFFFFF := by rwa [hk]
  have hcount := incr_counts (pc := pc) (sl := sl) (cores_setCore hw) (by rwa [hk]) hne'
  have hcore := incr_core (pc := pc) (sl := sl) (cores_setCore hw) hne'
  rw [hk] at hcount hcore
  exact ⟨hcore, hcount, by rw [incr_below_top hne']; rfl⟩

/-- A drain whose first entry has not asked yet acts on that entry. -/
theorem exec_drainWrite_head (hc : c < nCores) (hq : ((s.core c).arr arr.toNat).queue = e :: r) (ha : e.avail = false)
    (hr : e.req = false) {put : DrainEntry → State}
    (hput : put = fun e' => s.setCore c ((s.core c).setArr arr.toNat { (s.core c).arr arr.toNat with
      queue := ((s.core c).arr arr.toNat).queue.map fun x => if x = e then e' else x })) :
    exec (.drainWrite c arr) s =
      if s.plane.cycle ≤ e.tAt then .next s
      else if e.dst then .next (incrRun (put { e with avail := true }) c e.cc.toNat e.pc .X)
      else .next (put { e with req := true }) := by
  subst hput
  have hfind : (((s.core c).arr arr.toNat).queue.find? fun e => !e.avail && !e.req) = some e := by
    rw [hq, List.find?_cons_of_pos (by rw [ha, hr]; rfl)]
  rw [exec_drainWrite, execDrainWrite, if_neg (not_le.2 hc)]
  dsimp only
  rw [hfind]
  rfl

theorem arr_setArr {k : Core} {i : Nat} {a : Arr} (h : twf ({} : Arr) k.arrays = true) : (k.setArr i a).arr i = a := tget_tset h

/-- The first entry of the queue becomes e'. -/
theorem head?_map_first (e' : DrainEntry) : ((e :: r).map fun x => if x = e then e' else x).head? = some e' := by
  rw [List.map_cons, if_pos rfl, List.head?_cons]

end

/-! ### The write of a drain entry -/

section
variable {s : State} {c : Nat} {arr : BitVec 2} {e : DrainEntry} {r : List DrainEntry}

/-- The core after its oldest entry became a store of this cycle. -/
def grantedCore (s : State) (c : Nat) (arr : BitVec 2) (e : DrainEntry) (r : List DrainEntry) : Core :=
  { (s.core c).setArr arr.toNat { (s.core c).arr arr.toNat with queue := r } with
    stores := (s.core c).stores ++ [{ tAt := s.plane.cycle, off := e.addr, data := e.data, pc := e.pc, drn := true }]
    aBusy := (s.core c).aBusy ++ runBanks e.addr e.data.length }

theorem grantA_setCore {k : Core} {l : List Nat} (hw : twf ({} : Core) s.plane.cores = true) :
    grantA (s.setCore c k) c l = s.setCore c { k with aBusy := k.aBusy ++ l } := by
  rw [grantA.eq_def, State.modCore, core_setCore hw, setCore_setCore hw]

variable (hq : ((s.core c).arr arr.toNat).queue = e :: r) (hr : e.req = true)
include hq hr

theorem drainWrite_waits (hm : meets (s.core c).aBusy (runBanks e.addr e.data.length) = true) : drainWrite s c arr.toNat = s := by
  rw [drainWrite, hq, List.find?_cons_of_pos (by exact hr)]
  exact if_pos (.inr hm)

theorem drainWrite_granted (ht : e.tAt < s.plane.cycle) (hw : twf ({} : Core) s.plane.cores = true)
    (hm : meets (s.core c).aBusy (runBanks e.addr e.data.length) = false) :
    drainWrite s c arr.toNat = incrRun (s.setCore c (grantedCore s c arr e r)) c e.cc.toNat e.pc .X := by
  rw [drainWrite, hq, List.find?_cons_of_pos (by exact hr)]
  refine (if_neg (not_or.2 ⟨not_le.2 ht, by rw [hm]; exact Bool.false_ne_true⟩)).trans ?_
  dsimp only
  rw [List.erase_cons_head, grantA_setCore hw]
  rfl

end

/-- A correction operation changes the rank vectors and the residual rows only. -/
theorem corrResult_frame (k : Core) (e : CorrEntry) : ∃ a b, corrResult k e = { k with rank := a, res := b } := by
  have hfold {β : Type} (l : List β) (f : Core → β → Core)
      (hf : ∀ k x, ∃ a b, f k x = { k with rank := a, res := b }) (k : Core) : ∃ a b, l.foldl f k = { k with rank := a, res := b } := by
    induction l generalizing k with
    | nil => exact ⟨_, _, rfl⟩
    | cons x r ih =>
      obtain ⟨a, b, hx⟩ := hf k x
      obtain ⟨a', b', hr⟩ := ih (f k x)
      exact ⟨a', b', by rw [List.foldl_cons, hr, hx]⟩
  have hres (b p : Nat) (f : Nat → ResRow → ResRow) : ∃ a c, modRes k b p f = { k with rank := a, res := c } :=
    hfold _ _ (fun _ _ => ⟨_, _, rfl⟩) k
  rw [corrResult]
  dsimp only
  cases e.op with
  | cvt => exact hfold _ _ (fun _ _ => ⟨_, _, rfl⟩) k
  | cut => exact hres _ _ _
  | cout => exact hres _ _ _

/-- Settles O30. -/
theorem drainsAndCorrectionsEnd : Obligations.DrainsAndCorrectionsEnd := by
  unfold Obligations.DrainsAndCorrectionsEnd
  intro s c arr hc hs k q
  have hw := twf_cores_of_coresOk hs
  have hk := coreOk_core hs c
  have hcc := twf_cc_of_coreOk hk
  have harr : twf ({} : Arr) (s.core c).arrays = true := (Bool.and_eq_true_iff.1 hk).2
  refine ⟨fun e r hq ha hr => ⟨fun ht => ?_, fun ht hd hrun hne => ?_, fun ht hd => ?_⟩,
    fun e r hq hr ht => ⟨fun hm => ?_, fun hm hrun hne => ?_⟩, fun e r hq => ⟨fun h => ?_, fun hb hf hrd hg hrun hne => ?_⟩⟩
  · rw [exec_drainWrite_head hc hq ha hr rfl, if_pos ht]
  · obtain ⟨hcore, hcount, hsram⟩ := incr_setCore (c := c) (k := (s.core c).setArr arr.toNat { (s.core c).arr arr.toNat with
      queue := ((s.core c).arr arr.toNat).queue.map fun x => if x = e then { e with avail := true } else x }) (i := e.cc.toNat)
      (pc := e.pc) (sl := .X) hw hcc hne
    rw [exec_drainWrite_head hc hq ha hr rfl, if_neg (not_le.2 ht), if_pos hd]
    refine ⟨_, congrArg Host.Outcome.next (incrRun_running (by exact hrun)), ?_, ?_, hcount, hsram⟩
    · rw [hcore]
      change (tget {} (tset {} (s.core c).arrays arr.toNat _) arr.toNat).queue.head? = _
      rw [tget_tset harr, show ((s.core c).arr arr.toNat).queue = _ from hq]
      exact head?_map_first _
    · rw [hcore]
      rfl
  · rw [exec_drainWrite_head hc hq ha hr rfl, if_neg (not_le.2 ht), hd, if_neg Bool.false_ne_true]
    refine ⟨_, rfl, ?_, ?_, ?_, rfl⟩
    · rw [core_setCore hw, arr_setArr harr, show ((s.core c).arr arr.toNat).queue = _ from hq]
      exact head?_map_first _
    · rw [core_setCore hw]
      rfl
    · rw [core_setCore hw]
      rfl
  · exact drainWrite_waits hq hr hm
  · obtain ⟨hcore, hcount, hsram⟩ := incr_setCore (c := c) (k := grantedCore s c arr e r) (i := e.cc.toNat) (pc := e.pc) (sl := .X)
      hw hcc hne
    have hgr : drainWrite s c arr.toNat = (s.setCore c (grantedCore s c arr e r)).incr c e.cc.toNat e.pc .X :=
      (drainWrite_granted hq hr ht hw hm).trans (incrRun_running (by exact hrun))
    rw [hgr]
    refine ⟨?_, ?_, hcount, hsram⟩
    · rw [hcore]
      change (tget {} (tset {} (s.core c).arrays arr.toNat _) arr.toNat).queue = r
      rw [tget_tset harr]
    · rw [hcore]
      rfl
  · rw [exec_correctionOpEnd, execCorrectionOpEnd, if_neg (not_le.2 hc)]
    dsimp only
    rw [show (s.core c).corr = e :: r from hq]
    refine if_pos ?_
    rcases h with h | h | h | h
    · simp [h]
    · simp [show s.cycle < e.fin from h]
    · simp [h]
    · simp [h]
  · obtain ⟨rank, res, hres⟩ := corrResult_frame (s.core c) e
    obtain ⟨hcore, hcount, hsram⟩ := incr_setCore (c := c) (k := { corrResult (s.core c) e with corr := r }) (i := e.cc.toNat)
      (pc := e.pc) (sl := .X) hw (by rw [hres]; exact hcc) (by rw [hres]; exact hne)
    have hexec : exec (.correctionOpEnd c) s = .next (incrRun (s.setCore c { corrResult (s.core c) e with corr := r }) c e.cc.toNat e.pc .X) := by
      rw [exec_correctionOpEnd, execCorrectionOpEnd, if_neg (not_le.2 hc)]
      dsimp only
      rw [show (s.core c).corr = e :: r from hq]
      refine if_neg ?_
      simp [hb, hrd, hg, not_lt.2 (show e.fin ≤ s.cycle from hf)]
    refine ⟨_, hexec.trans (congrArg _ (incrRun_running hrun)), ?_, ?_, ?_, ?_, ?_, hsram, ?_⟩
    · rw [hcore]
      rfl
    · rw [hcore]
      rfl
    · rw [hcore]
      rfl
    · rw [hcore, hres]
      rfl
    · rw [hcore, hres]
      rfl
    · rw [hcount, hres]
      rfl

end Sys2Proof.Proofs
end

section
/-! PROOFS. Packet headers: their fields after a field is set, and the packets that send and get inject. -/
namespace Sys2Proof.Proofs
open Sys2Proof Sys2Proof.Machine Sys2Proof.Safety Sys2Proof.Laws

/-! ### Fields -/

theorem testBit_bits (x hi lo i : Nat) : (bits x hi lo).testBit i = (decide (i < hi + 1 - lo) && x.testBit (lo + i)) := by
  rw [bits, Nat.testBit_mod_two_pow, Nat.testBit_div_two_pow, Nat.add_comm lo]

section
variable {h : BitVec 128} {hi lo v hi' lo' : Nat}

/-- Setting a field replaces its bits and keeps the others. -/
theorem testBit_hSet (hlo : lo ≤ hi) (hhi : hi < 128) (i : Nat) :
    (hSet h hi lo v).toNat.testBit i = if lo ≤ i ∧ i ≤ hi then v.testBit (i - lo) else h.toNat.testBit i := by
  have hval : h.toNat / 2 ^ (hi + 1) * 2 ^ (hi + 1) + v % 2 ^ (hi + 1 - lo) * 2 ^ lo + h.toNat % 2 ^ lo =
      2 ^ lo * (2 ^ (hi + 1 - lo) * (h.toNat / 2 ^ (hi + 1)) + v % 2 ^ (hi + 1 - lo)) + h.toNat % 2 ^ lo := by
    rw [Nat.mul_add, ← Nat.mul_assoc, ← pow_add, Nat.add_sub_of_le (by omega : lo ≤ hi + 1)]
    ring
  rw [hSet, BitVec.toNat_ofNat, Nat.testBit_mod_two_pow, hval, Nat.testBit_two_pow_mul_add _ (Nat.mod_lt _ (by positivity)),
    Nat.testBit_two_pow_mul_add _ (Nat.mod_lt _ (by positivity)), Nat.testBit_mod_two_pow, Nat.testBit_mod_two_pow,
    Nat.testBit_div_two_pow]
  rcases lt_or_ge i lo with h1 | h1
  · have h2 : i < 128 := by omega
    simp [h1, h2]
  · rcases le_or_gt i hi with h2 | h2
    · have h3 : i - lo < hi + 1 - lo := by omega
      have h4 : i < 128 := by omega
      simp [not_lt.2 h1, h1, h2, h3, h4]
    · have h3 : ¬ i - lo < hi + 1 - lo := by omega
      have h4 : i - lo - (hi + 1 - lo) + (hi + 1) = i := by omega
      rcases lt_or_ge i 128 with h5 | h5
      · simp [not_lt.2 h1, h3, h4, h5, not_le.2 h2]
      · have h6 : h.toNat.testBit i = false := Nat.testBit_lt_two_pow (h.isLt.trans_le (Nat.pow_le_pow_right two_pos h5))
        simp [not_lt.2 h5, not_le.2 h2, h6]

theorem bits_hSet_same (hlo : lo ≤ hi) (hhi : hi < 128) : bits (hSet h hi lo v).toNat hi lo = v % 2 ^ (hi + 1 - lo) := by
  apply Nat.eq_of_testBit_eq
  intro i
  rw [testBit_bits, testBit_hSet hlo hhi, Nat.testBit_mod_two_pow]
  rcases lt_or_ge i (hi + 1 - lo) with h1 | h1
  · rw [if_pos ⟨Nat.le_add_right .., by omega⟩, Nat.add_sub_cancel_left]
  · simp [not_lt.2 h1]

/-- The other fields stay. -/
theorem bits_hSet_other (hlo : lo ≤ hi) (hhi : hi < 128) (hd : hi < lo' ∨ hi' < lo) :
    bits (hSet h hi lo v).toNat hi' lo' = bits h.toNat hi' lo' := by
  apply Nat.eq_of_testBit_eq
  intro i
  rw [testBit_bits, testBit_bits, testBit_hSet hlo hhi]
  rcases lt_or_ge i (hi' + 1 - lo') with h1 | h1
  · rw [if_neg (by omega)]
  · simp [not_lt.2 h1]

theorem extract_hSet_other {st len : Nat} (hlo : lo ≤ hi) (hhi : hi < 128) (hd : hi < st ∨ st + len ≤ lo) :
    (hSet h hi lo v).extractLsb' st len = h.extractLsb' st len := by
  apply BitVec.eq_of_getLsbD_eq
  intro i hi'
  rw [BitVec.getLsbD_extractLsb', BitVec.getLsbD_extractLsb', BitVec.getLsbD, BitVec.getLsbD, testBit_hSet hlo hhi, if_neg (by omega)]

end

/-! ### The header on the wire -/

section
variable {k : Core} {g : BitVec 5} {n : Nat}

theorem hLen_wireHdr (hn : n < 16) : hLen (wireHdr k g n) = n := by
  rw [hLen, wireHdr, bits_hSet_other (by decide) (by decide) (by decide), bits_hSet_same (by decide) (by decide)]
  exact Nat.mod_eq_of_lt hn

theorem hSeq_wireHdr : hSeq (wireHdr k g n) = k.sendCnt.toNat := by
  rw [hSeq, wireHdr, bits_hSet_same (by decide) (by decide)]
  exact Nat.mod_eq_of_lt k.sendCnt.isLt

/-- The fields beside the length and the send count are the register pair's. -/
theorem wireHdr_extract {st len : Nat} (hd : st + len ≤ 48 ∨ (80 ≤ st)) :
    (wireHdr k g n).extractLsb' st len = (k.gGet (g.toNat + 1) ++ k.gGet g.toNat : BitVec 128).extractLsb' st len := by
  rw [wireHdr, extract_hSet_other (by decide) (by decide) (by omega), extract_hSet_other (by decide) (by decide) (by omega)]

end

/-- What an injection leaves: the packet, its payload, the counts, and nothing else. -/
theorem inject_reads {s : State} {c : Nat} {k : Core} {p : Packet} {pay : List Payload} (hw : twf ({} : Core) s.plane.cores = true) :
    (inject s c k p pay).plane.packets = s.plane.packets ++ [p] ∧ (inject s c k p pay).plane.pays = s.plane.pays ++ pay ∧
    (inject s c k p pay).core c = { k with sendCnt := k.sendCnt + 1 } ∧ (inject s c k p pay).plane.sram = s.plane.sram ∧
    (inject s c k p pay).plane.packetCnt = satAdd (2 ^ 32 - 1) s.plane.packetCnt 1 :=
  ⟨rfl, rfl, tget_tset hw, rfl, rfl⟩

section
variable {s : State} {c : Nat} {gd : Guard} {a : BitVec 4} {gH gR : BitVec 5} {flits : BitVec 4} (hi : Issues s c gd)
  (hH : gH.toNat % 2 = 0)
include hi hH

theorem exec_send_refused {cls : Nat} (hrun : spmRun ((s.core c).aGet a.toNat) (addrOff ((s.core c).aGet a.toNat) / 256 * 256)
    (256 * (flits.toNat + 1)) = true) (hf : hdrFault s (wireHdr (s.core c) gH flits.toNat) false false = some cls) :
    exec (.send c gd a gH flits 0 false) s =
      .next (s.raise { coreRep s c cls .M (s.core c).pc.toNat with hdr0 := wireHdr (s.core c) gH flits.toNat }) := by
  rw [exec_send, execSend, decide_eq_true hH, show (true && (false || (0 : BitVec 6) == 0)) = true from rfl, issueSlot_on hi.1 hi.2]
  simp only [hrun, hf, Bool.not_true, reduceIte, Bool.false_eq_true]

theorem exec_send_run (hrun : spmRun ((s.core c).aGet a.toNat) (addrOff ((s.core c).aGet a.toNat) / 256 * 256)
    (256 * (flits.toNat + 1)) = true) (hf : hdrFault s (wireHdr (s.core c) gH flits.toNat) false false = none) :
    exec (.send c gd a gH flits 0 false) s = .next (inject s c (s.core c)
      { id := s.plane.nextId, hdr := wireHdr (s.core c) gH flits.toNat, n := flits.toNat + 1, loc := .router (pclOf c) 0
        t := s.cycle + 3, src := c, pay := some s.plane.nextId }
      [{ id := s.plane.nextId, hdr := wireHdr (s.core c) gH flits.toNat, n := flits.toNat + 1
         sa := some (spmAddr c (addrOff ((s.core c).aGet a.toNat) / 256 * 256)), core := some c, issued := s.cycle }]) := by
  rw [exec_send, execSend, decide_eq_true hH, show (true && (false || (0 : BitVec 6) == 0)) = true from rfl, issueSlot_on hi.1 hi.2]
  simp only [hrun, hf, Bool.not_true, reduceIte, Bool.false_eq_true]

theorem exec_get_run (hR : gR.toNat % 2 = 0) (hf : hdrFault s (wireHdr (s.core c) gH flits.toNat) true false = none)
    (hf' : hdrFault s (hSet (wireHdr (s.core c) gR flits.toNat) 111 110 2) false true = none) :
    exec (.get c gd gH gR flits 0 false) s = .next (inject s c (s.core c)
      { id := s.plane.nextId, hdr := wireHdr (s.core c) gH flits.toNat, n := 1
        reply := hSet (wireHdr (s.core c) gR flits.toNat) 111 110 2, loc := .router (pclOf c) 0, t := s.cycle + 3, src := c } []) := by
  rw [exec_get, execGet, decide_eq_true hH, decide_eq_true hR, show (true && true && (false || (0 : BitVec 6) == 0)) = true from rfl,
    issueSlot_on hi.1 hi.2]
  simp only [hf, hf', reduceIte, Bool.false_eq_true]

end

/-- Settles O31. -/
theorem packetsAreSent : Obligations.PacketsAreSent := by
  unfold Obligations.PacketsAreSent
  intro s c gd a gH gR flits hi hs hH hR k ad o h pair rep
  have hw := twf_cores_of_coresOk hs
  refine ⟨hLen_wireHdr flits.isLt, hSeq_wireHdr, wireHdr_extract (.inr le_rfl), wireHdr_extract (.inl le_rfl),
    fun hu ho hf => ?_, fun hf hf' => ?_, fun cls hu ho hf => ?_⟩
  · obtain ⟨hpk, hpay, hcore, hsram, hcnt⟩ := inject_reads hw
    exact ⟨_, exec_send_run hi hH (decide_eq_true ⟨hu, ho⟩) hf, hpk, hpay, hcore, hsram, hcnt⟩
  · obtain ⟨hpk, hpay, hcore, hsram, -⟩ := inject_reads hw
    exact ⟨_, exec_get_run hi hH hR hf hf', hpk, hpay.trans (List.append_nil _), hcore, hsram⟩
  · exact exec_send_refused hi hH (decide_eq_true ⟨hu, ho⟩) hf

end Sys2Proof.Proofs
end

section
/-! PROOFS. Headers in flight: routers, gateways, and what they leave unchanged. -/
namespace Sys2Proof.Proofs
open Sys2Proof Sys2Proof.Machine Sys2Proof.Safety Sys2Proof.Laws

section
variable {s : State} {p : Packet} {r : List Packet}

theorem findPkt_head (h : s.plane.packets = p :: r) : findPkt s p.id = some p := by
  rw [findPkt, h, List.find?_cons_of_pos (by simp)]

/-- A packet written in place of the first one is found under its id. -/
theorem findPkt_putPkt {q : Packet} (h : s.plane.packets = p :: r) (hq : q.id = p.id) :
    findPkt (putPkt s q) p.id = some q ∧ ∃ r', (putPkt s q).plane.packets = q :: r' := by
  have hp : (putPkt s q).plane.packets = q :: r.map fun x => if x.id = q.id then q else x := by
    rw [putPkt, h, List.map_cons, if_pos hq.symm]
  exact ⟨by rw [← hq]; exact findPkt_head hp, _, hp⟩

/-- An output that nobody holds is taken. -/
theorem holdOut_free {res t n : Nat} {h : BitVec 128} (hr : ∀ v ∈ s.plane.resvs, v.res ≠ res) : holdOut s res t n h =
    .ok { s with plane := { s.plane with resvs := s.plane.resvs ++ [{ res := res, tAt := t, len := n, hdr := h }] } } := by
  have hnone : (s.plane.resvs.find? fun r => r.res == res && decide (r.tAt < t + n) && decide (t < r.tAt + r.len)) = none :=
    List.find?_eq_none.2 fun v hv => by simp [hr v hv]
  rw [holdOut, hnone]

/-- The trace writes its buffer only. -/
theorem trace_reads (s : State) (pcl port t : Nat) (h : BitVec 128) : (trace s pcl port t h).plane = s.plane ∧
    (trace s pcl port t h).jet = s.jet ∧ (trace s pcl port t h).ldr.prog = s.ldr.prog := by
  rw [trace]
  dsimp only
  split <;> exact ⟨rfl, rfl, rfl⟩

theorem lfieldOf_congr {s' : State} (h : s'.jet = s.jet) (pf : Nat) : lfieldOf s' pf = lfieldOf s pf := by
  unfold lfieldOf pfieldOf
  rw [h]

theorem progF_congr {s' : State} (h : s'.ldr.prog = s.ldr.prog) : progF s' = progF s := by rw [progF, progF, h]

/-- A traced hold of a free output changes neither the packets nor the cores nor the memories. -/
structure SamePackets (s t : State) : Prop where
  packets : t.plane.packets = s.plane.packets
  cores : t.plane.cores = s.plane.cores
  sram : t.plane.sram = s.plane.sram
  pays : t.plane.pays = s.plane.pays

theorem samePackets_trace_hold {v : List Resv} {pcl port t' : Nat} {h' : BitVec 128} :
    SamePackets s (trace { s with plane := { s.plane with resvs := v } } pcl port t' h') :=
  ⟨by rw [(trace_reads ..).1], by rw [(trace_reads ..).1], by rw [(trace_reads ..).1], by rw [(trace_reads ..).1]⟩

/-- A state that a packet has been moved in. -/
def Moved (s t : State) (p q : Packet) : Prop :=
  t.plane.cores = s.plane.cores ∧ t.plane.sram = s.plane.sram ∧ findPkt t p.id = some q

theorem moved_putPkt {s' : State} {q : Packet} (h : s.plane.packets = p :: r) (hs : SamePackets s s') (hq : q.id = p.id) :
    Moved s (putPkt s' q) p q :=
  ⟨hs.cores, hs.sram, (findPkt_putPkt (hs.packets.trans h) hq).1⟩

/-- A header leaves a router toward the next cluster of the field. -/
theorem moved_leaveRouter {pcl d t c' : Nat} (h : s.plane.packets = p :: r) (hr : ∀ v ∈ s.plane.resvs, v.res ≠ resRouter pcl (d + 1))
    (hc : clusterBeyond (pcl % 12) d = some c') :
    Moved s (leaveRouter s p pcl d t) p { p with loc := .router (12 * (pcl / 12) + c') (opposite d + 1), t := t + 2, dir := d } := by
  rw [leaveRouter, holdOut_free hr]
  simp only [hc]
  exact moved_putPkt h samePackets_trace_hold rfl

/-- A header of this cluster that leaves through L is left to be delivered. -/
theorem ejectPkt_here {pcl t : Nat} (hr : ∀ v ∈ s.plane.resvs, v.res ≠ resRouter pcl 0)
    (hf : lfieldOf s (pcl / 12) = some (hField p.hdr)) (hc : pcl % 12 = hCluster p.hdr) (hp : hField p.hdr < progF s) :
    ∃ s', SamePackets s s' ∧ ejectPkt s p pcl t = putPkt s' { p with loc := .deliver pcl, t := t } := by
  generalize hs' : trace { s with plane := { s.plane with
    resvs := s.plane.resvs ++ [{ res := resRouter pcl 0, tAt := t, len := p.n, hdr := p.hdr }] } } pcl 0 t p.hdr = s'
  have hlf : lfieldOf s' (pcl / 12) = some (hField p.hdr) :=
    (lfieldOf_congr (s := s) (hs' ▸ (trace_reads _ _ _ _ _).2.1) _).trans hf
  have hpf : progF s' = progF s := progF_congr (hs' ▸ (trace_reads _ _ _ _ _).2.2)
  have hused : clusterUsed s' pcl = true := by
    rw [clusterUsed, hlf]
    exact decide_eq_true (hpf ▸ hp)
  refine ⟨s', hs' ▸ samePackets_trace_hold, ?_⟩
  rw [ejectPkt, holdOut_free hr]
  simp only [hs', hlf, hc, hused, beq_self_eq_true, Bool.and_self, if_true]

theorem moved_ejectPkt {pcl t : Nat} (h : s.plane.packets = p :: r) (hr : ∀ v ∈ s.plane.resvs, v.res ≠ resRouter pcl 0)
    (hf : lfieldOf s (pcl / 12) = some (hField p.hdr)) (hc : pcl % 12 = hCluster p.hdr) (hp : hField p.hdr < progF s) :
    Moved s (ejectPkt s p pcl t) p { p with loc := .deliver pcl, t := t } := by
  obtain ⟨s', hsame, he⟩ := ejectPkt_here (t := t) hr hf hc hp
  rw [he]
  exact moved_putPkt h hsame rfl

/-- A header placed at a router whose cycle has come takes its hop there. -/
theorem exec_routerHop_due {pcl port : Nat} (h : s.plane.packets = p :: r) (hl : p.loc = .router pcl port) (ht : p.t ≤ s.plane.cycle)
    (hw : p.waits = false) : exec (.routerHop p.id) s = .next (routerHop s p pcl port) := by
  rw [exec_routerHop, execRouterHop, findPkt_head h]
  simp only [hl, hw, Bool.false_eq_true, or_false]
  exact if_neg (not_lt.2 ht)

theorem exec_routerHop_early {pcl port : Nat} (h : s.plane.packets = p :: r) (hl : p.loc = .router pcl port) (ht : s.plane.cycle < p.t) :
    exec (.routerHop p.id) s = .next s := by
  rw [exec_routerHop, execRouterHop, findPkt_head h]
  simp only [hl]
  exact if_pos (.inl ht)

theorem routerHop_turns {pcl port : Nat} (hu : isUnicast p.hdr = true) (hport : 1 ≤ port) : routerHop s p pcl port = uniHop s p pcl port := by
  rw [routerHop, takeInjection, if_neg (by omega)]
  simp only [hu, if_true]

theorem moved_of_putPkt {q q' : Packet} {t : State} (hq : q.id = p.id) (hm : Moved (putPkt s q) t q q') : Moved s t p q' :=
  ⟨hm.1, hm.2.1, hq ▸ hm.2.2⟩

/-- A readable entry of a unicast table that says arrive puts the header at the lane's router. -/
theorem exec_gatewayLookup_arrive {pf side lane c' : Nat} (h : s.plane.packets = p :: r) (hr : s.plane.resvs = [])
    (htbl : s.jet.tblErr = []) (hu : isUnicast p.hdr = true) (hl : p.loc = .gate pf side lane) (ht : p.t ≤ s.plane.cycle)
    (hp : hField p.hdr < progF s) (hlane : lane < 3) (hc : clusterAt side lane = some c') (hby : bypassed s pf = false)
    (he : bits (tget 0 s.jet.gwUni (64 * (4 * pf + side) + hField p.hdr)).toNat 31 29 = 5) :
    ∃ t, exec (.gatewayLookup p.id) s = .next t ∧ Moved s t p { p with
      loc := .router (12 * pf + c') (side + 1)
      t := p.t + bits (tget 0 s.jet.gwUni (64 * (4 * pf + side) + hField p.hdr)).toNat 24 17
      dir := opposite side } := by
  have hnone (res : Nat) : ∀ v ∈ s.plane.resvs, v.res ≠ res := by simp [hr]
  have hread (key : Nat) (rep : FaultRep) : tableRead s key rep = .ok s := by rw [tableRead, htbl]; rfl
  have hentry : fieldEntry s.jet.gwUni s.jet.gwTree (4 * pf + side) p.hdr =
      (tget 0 s.jet.gwUni (64 * (4 * pf + side) + hField p.hdr)).toNat := by rw [fieldEntry, if_pos hu]
  generalize (tget 0 s.jet.gwUni (64 * (4 * pf + side) + hField p.hdr)).toNat = e at he hentry ⊢
  have hvalid : bit e 31 = true := decide_eq_true (by rw [bits] at he; omega)
  have hact : bits e 30 29 = 1 := by
    rw [bits] at he ⊢
    omega
  have hlk : gateLookup s p pf side lane = arriveGate s p pf side lane (p.t + bits e 24 17) := by
    have hl3 : (lane == 3) = false := beq_eq_false_iff_ne.2 (by omega)
    rw [gateLookup, hentry]
    simp [hact, hvalid, entryOk, hu, hl3, hby, hp]
  refine ⟨arriveGate s p pf side lane (p.t + bits e 24 17), ?_, ?_⟩
  · rw [exec_gatewayLookup, execGatewayLookup, findPkt_head h]
    simp only [hl, hread, hlk, if_neg (show ¬ s.cycle < p.t from not_lt.2 ht)]
  · rw [arriveGate, hc]
    simp only [holdOut_free (hnone _)]
    exact moved_putPkt h ⟨rfl, rfl, rfl, rfl⟩ rfl

end

/-- Settles O32. -/
theorem packetsTravel : Obligations.PacketsTravel := by
  unfold Obligations.PacketsTravel
  intro s p r pcl port h hr htbl hu hw
  refine ⟨fun hl ht => exec_routerHop_early h hl ht, fun hl ht hport hturn h0 c' hc => ?_, fun hl ht hport hturn h3 hf hcl hp => ?_,
    fun pf side lane c' hl ht hp hlane hc hby he => exec_gatewayLookup_arrive h hr htbl hu hl ht hp hlane hc hby he⟩
  · obtain ⟨-, r', hq⟩ := findPkt_putPkt (q := { p with turn := p.turn + 1 }) h rfl
    refine ⟨_, (exec_routerHop_due h hl ht hw).trans (congrArg _ ?_),
      moved_of_putPkt rfl (moved_leaveRouter (d := p.dir) (t := p.t) hq (by simp [putPkt, hr]) hc)⟩
    rw [routerHop_turns hu hport, uniHop, if_neg (by omega), if_neg (not_le.2 hturn)]
    simp only [h0]
  · obtain ⟨-, r', hq⟩ := findPkt_putPkt (q := { p with turn := p.turn + 1 }) h rfl
    refine ⟨_, (exec_routerHop_due h hl ht hw).trans (congrArg _ ?_),
      moved_of_putPkt rfl (moved_ejectPkt (t := p.t) hq (by simp [putPkt, hr]) hf hcl hp)⟩
    rw [routerHop_turns hu hport, uniHop, if_neg (by omega), if_neg (not_le.2 hturn)]
    simp only [h3]

end Sys2Proof.Proofs
end

section
/-! PROOFS. Deliveries and replies, and what port B serves in a cycle. -/
namespace Sys2Proof.Proofs
open Sys2Proof Sys2Proof.Machine Sys2Proof.Safety Sys2Proof.Laws

/-! ### A flit of a delivery -/

section
variable {s : State} {u : PortUse} {p : Packet} {r : List Packet} {pcl q : Nat}

theorem deliverFlit_waits (hl : p.loc = .deliver pcl) (h : s.plane.cycle < p.t + 2 + p.written) : deliverFlit (s, u) p = (s, u) := by
  simp only [deliverFlit, hl]
  exact if_pos (.inr (.inr (.inl h)))

/-- A flit that is due goes to the unit its header names. -/
theorem deliverFlit_due (hl : p.loc = .deliver pcl) (hk : hKind p.hdr ≠ 1) (hn : p.written < p.n)
    (ht : p.t + 2 + p.written ≤ s.plane.cycle) (hf : p.written < (flitsOf s p).length) (hu : hUnit p.hdr < 28)
    (hq : pcoreOf s pcl (hUnit p.hdr) = some q) :
    deliverFlit (s, u) p =
      if runInCode s (hOff p.hdr + 256 * p.written) 256 = true then
        (dropPkt (s.raise { coreRep s ((countCore s pcl p.hdr).getD (32 * pcl)) 4 .M 0 with hdr0 := p.hdr }) p.id, u)
      else if u.cores.contains (32 * pcl + q) = true then (s, u)
      else (putPkt s { p with written := p.written + 1 }, { u with
        cores := (32 * pcl + q) :: u.cores
        writes := u.writes ++ [{ addr := spmAddr (32 * pcl + q) (hOff p.hdr + 256 * p.written)
                                 data := leBytes 256 ((flitsOf s p).getD p.written 0).toNat }] }) := by
  have hcode : deliversCode s p.hdr (hOff p.hdr + 256 * p.written) 256 = runInCode s (hOff p.hdr + 256 * p.written) 256 := by
    rw [deliversCode, decide_eq_true hu, Bool.true_and]
  have huse : useUnit s u pcl (hUnit p.hdr) (hOff p.hdr + 256 * p.written) 256 = useB u (32 * pcl + q) := by
    rw [useUnit, if_pos hu, hq]
  have hplace : unitPlace s pcl (hUnit p.hdr) (hOff p.hdr + 256 * p.written) = some (spmAddr (32 * pcl + q) (hOff p.hdr + 256 * p.written)) := by
    rw [unitPlace, if_pos hu, hq]
    rfl
  simp only [deliverFlit, hl]
  rw [if_neg (by
    rintro (h | h | h | h)
    · exact hk h
    · exact absurd h (not_le.2 hn)
    · exact absurd h (not_lt.2 ht)
    · exact absurd h (not_le.2 hf)), hcode, huse, useB]
  cases hb : u.cores.contains (32 * pcl + q)
  · simp only [putUnit, hplace, if_neg (show hUnit p.hdr ≠ 0x30 by omega), Bool.false_eq_true, if_false, vBytes]
  · simp only [if_true]

/-! ### The end of a delivery -/

theorem countCore_unit (hu : hUnit p.hdr < 28) (hq : pcoreOf s pcl (hUnit p.hdr) = some q) :
    countCore s pcl p.hdr = some (32 * pcl + q) := by
  rw [countCore, if_pos hu, hq]
  rfl

theorem exec_packetDelivery_waits (h : s.plane.packets = p :: r) (hl : p.loc = .deliver pcl)
    (hw : s.plane.cycle < p.t + 2 + p.n ∨ p.written < p.n) : exec (.packetDelivery p.id) s = .next s := by
  rw [exec_packetDelivery, execPacketDelivery, findPkt_head h]
  simp only [hl]
  exact if_pos (.inr hw)

theorem exec_packetDelivery_done (h : s.plane.packets = p :: r) (hl : p.loc = .deliver pcl) (hk : hKind p.hdr ≠ 1)
    (ht : p.t + 2 + p.n ≤ s.plane.cycle) (hw : p.n ≤ p.written) (hu : hUnit p.hdr < 28)
    (hq : pcoreOf s pcl (hUnit p.hdr) = some q) :
    exec (.packetDelivery p.id) s = .next (incrRun (dropPkt s p.id) (32 * pcl + q) (hDcc p.hdr) 0 .M) := by
  rw [exec_packetDelivery, execPacketDelivery, findPkt_head h]
  simp only [hl]
  rw [if_neg (by
    rintro (h | h | h)
    · exact hk h
    · exact absurd h (not_lt.2 ht)
    · exact absurd h (not_lt.2 hw)), countCore_unit hu hq]

theorem findPkt_dropPkt (s : State) (id : Nat) : findPkt (dropPkt s id) id = none := by
  rw [findPkt, dropPkt, List.find?_eq_none]
  intro x hx
  obtain ⟨-, hne⟩ := List.mem_filter.1 hx
  simpa using hne

/-! ### Replies -/

/-- The header of a reply: kind 2, the request's length and send count, and otherwise the header the request carries. -/
def replyHdr (p : Packet) : BitVec 128 := hSet (hSet (hSet p.reply 111 110 2) 51 48 (hLen p.hdr)) 79 64 (hSeq p.hdr)

theorem hLen_lt (h : BitVec 128) : hLen h < 16 := Nat.mod_lt _ (by decide)

theorem replyHdr_fields (p : Packet) : hKind (replyHdr p) = 2 ∧ hLen (replyHdr p) = hLen p.hdr ∧ hDcc (replyHdr p) = hDcc p.reply := by
  refine ⟨?_, ?_, ?_⟩
  · rw [hKind, replyHdr, bits_hSet_other (by decide) (by decide) (by decide), bits_hSet_other (by decide) (by decide) (by decide),
      bits_hSet_same (by decide) (by decide)]
    rfl
  · rw [hLen, replyHdr, bits_hSet_other (by decide) (by decide) (by decide), bits_hSet_same (by decide) (by decide)]
    exact Nat.mod_eq_of_lt (hLen_lt _)
  · rw [hDcc, replyHdr, bits_hSet_other (by decide) (by decide) (by decide), bits_hSet_other (by decide) (by decide) (by decide),
      bits_hSet_other (by decide) (by decide) (by decide), hDcc]

/-- The reply that a get request becomes at its unit. -/
def replyPkt (p : Packet) (pcl : Nat) : Packet :=
  { id := p.id, hdr := replyHdr p, n := hLen p.hdr + 1, loc := .router pcl 0, t := p.t + 4, src := p.src, pay := some p.id }

/-- Said of any header, so that the header of the reply is never evaluated. -/
theorem packet_id_mk (i n t src : Nat) (h : BitVec 128) (l : PktAt) (y : Option Nat) :
    ({ id := i, hdr := h, n := n, loc := l, t := t, src := src, pay := y } : Packet).id = i := rfl

theorem replyPkt_id (p : Packet) (pcl : Nat) : (replyPkt p pcl).id = p.id := packet_id_mk ..

theorem replyPay_unit {id issued : Nat} {h : BitVec 128} (hu : hUnit p.hdr < 28) (hq : pcoreOf s pcl (hUnit p.hdr) = some q) :
    replyPay s id pcl h p.hdr issued =
      { id := id, hdr := h, n := hLen p.hdr + 1, sa := some (spmAddr (32 * pcl + q) (hOff p.hdr)), core := some (32 * pcl + q)
        issued := issued } := by
  rw [replyPay, unitPlace, hq]
  simp only [if_neg (show hUnit p.hdr ≠ 0x30 by omega), if_pos hu, Option.map_some]

theorem exec_getReply_due (h : s.plane.packets = p :: r) (hl : p.loc = .deliver pcl) (hk : hKind p.hdr = 1) (ht : p.t ≤ s.plane.cycle)
    (hu : hUnit p.hdr < 28) (hq : pcoreOf s pcl (hUnit p.hdr) = some q) :
    ∃ n, exec (.getReply p.id) s = .next { putPkt s (replyPkt p pcl) with plane := { (putPkt s (replyPkt p pcl)).plane with
      pays := (putPkt s (replyPkt p pcl)).plane.pays ++ [replyPay s p.id pcl (replyHdr p) p.hdr (p.t + 1)]
      packetCnt := n } } := by
  have hplace : (unitPlace s pcl (hUnit p.hdr) (hOff p.hdr)).isNone = false := by
    rw [unitPlace, if_pos hu, hq]
    rfl
  refine ⟨satAdd (2 ^ 32 - 1) (putPkt s (replyPkt p pcl)).plane.packetCnt 1, ?_⟩
  rw [exec_getReply, execGetReply, findPkt_head h]
  simp only [hl, hk, not_true_eq_false, ne_eq, false_or, if_neg (show ¬ s.cycle < p.t from not_lt.2 ht), hplace, Bool.false_eq_true, if_false,
    replyHdr, replyPkt]

end

theorem deliveriesAndReplies : DeliveriesAndReplies := by
  unfold DeliveriesAndReplies
  intro s u p r pcl q hs h hl hu hq c off
  refine ⟨fun _ _ ht => deliverFlit_waits hl ht, fun hk hn ht hf => ⟨fun hc => ?_, fun hc hb => ?_, fun hc hb => ?_⟩,
    fun _ hw => exec_packetDelivery_waits h hl hw, fun hk ht hw hrun hne => ?_, fun hk ht => ?_⟩
  · rw [deliverFlit_due hl hk hn ht hf hu hq, if_pos hc]
  · rw [deliverFlit_due hl hk hn ht hf hu hq, if_neg (by rw [show runInCode _ _ _ = _ from hc]; exact Bool.false_ne_true), if_pos hb]
  · rw [deliverFlit_due hl hk hn ht hf hu hq, if_neg (by rw [show runInCode _ _ _ = _ from hc]; exact Bool.false_ne_true),
      if_neg (by rw [show List.contains _ _ = _ from hb]; exact Bool.false_ne_true)]
  · have hw' : twf ({} : Core) (dropPkt s p.id).plane.cores = true := twf_cores_of_coresOk hs
    have hne' : ((dropPkt s p.id).core c).ccGet (hDcc p.hdr) ≠ 0xFFFFFFFF := hne
    refine ⟨_, (exec_packetDelivery_done h hl hk ht hw hu hq).trans (congrArg _ (incrRun_running (by exact hrun))), ?_,
      incr_counts hw' (twf_cc_of_coreOk (coreOk_core hs c)) hne', ?_⟩
    · rw [incr_below_top hne']
      rfl
    · rw [incr_below_top hne']
      exact findPkt_dropPkt s p.id
  · obtain ⟨hfind, -⟩ := findPkt_putPkt h (replyPkt_id p pcl)
    obtain ⟨hkind, hlen, hdcc⟩ := replyHdr_fields p
    obtain ⟨n, hexec⟩ := exec_getReply_due h hl hk ht hu hq
    rw [replyPay_unit hu hq] at hexec
    exact ⟨_, replyPkt p pcl, hexec, hfind, rfl, rfl, hkind, hlen, rfl, hdcc, rfl, rfl, rfl, rfl⟩

/-! ### Port B -/

section
variable {s : State} {u : PortUse} {y : Payload} {c a : Nat}

/-- A flit of a payload that is due asks port B of its core. -/
theorem payStep_due (hc : y.core = some c) (hw : y.win = none) (ha : y.sa = some a) (hlc : y.lc = none) (hp : y.parts = [])
    (hn : y.flits.length < y.n) (herr : s.plane.sramErr = []) (ht : y.issued + 1 + y.flits.length ≤ s.plane.cycle) :
    payStep (s, u) y =
      if u.cores.contains c = true then (delayPay s y, u)
      else (setPay s { y with flits := y.flits ++ [packBv 2048 (s.sramGet (a + 256 * y.flits.length) 256)] },
        { u with cores := c :: u.cores }) := by
  have hplace : payPlace s y = some (a + 256 * y.flits.length) := by
    rw [payPlace, hw, ha]
    rfl
  have huse : usePay u y (a + 256 * y.flits.length) = useB u c := by
    rw [usePay, hc]
  simp only [payStep, if_neg (not_le.2 hn), hp, List.isEmpty_nil, Bool.not_true, Bool.false_eq_true, if_false,
    if_neg (show ¬ s.cycle < _ from not_lt.2 ht), hplace, huse, useB]
  cases hb : u.cores.contains c
  · simp only [Bool.false_eq_true, if_false, sramRead_clean herr, gotFlit, hlc, hc, hw, ha, hp]
  · simp only [if_true]

end

theorem portBServesOneGroup : PortBServesOneGroup := by
  unfold PortBServesOneGroup
  refine ⟨fun s u y c a hc hw ha hlc hp hn herr => ⟨fun ht => ?_, fun ht => ⟨fun hb => ?_, fun hb => ?_⟩⟩, fun s w herr hw => ?_⟩
  · simp only [payStep, if_neg (not_le.2 hn), hp, List.isEmpty_nil, Bool.not_true, Bool.false_eq_true, if_false]
    exact if_pos ht
  · rw [payStep_due hc hw ha hlc hp hn herr ht, if_pos hb]
  · rw [payStep_due hc hw ha hlc hp hn herr ht, if_neg (by rw [hb]; exact Bool.false_ne_true)]
  · rw [makeWrite, sramStore_clean herr, hw]
    rfl

/-- Settles O33. -/
theorem packetsAreDelivered : Obligations.PacketsAreDelivered := ⟨deliveriesAndReplies, portBServesOneGroup⟩

end Sys2Proof.Proofs
end

section
/-! PROOFS. Reductions: two packets of a tree that meet at a combining router. -/
namespace Sys2Proof.Proofs
open Sys2Proof Sys2Proof.Machine Sys2Proof.Safety Sys2Proof.Laws

/-! ### The packets of one cycle -/

section
variable {s : State} {p q : Packet} {pcl i j : Nat}

theorem waitsAt_router (hl : p.loc = .router pcl i) (ho : hOp p.hdr ≠ 0) : waitsAt pcl (hTree p.hdr) p = some i := by
  simp [waitsAt, hl, ho]

/-- The packets a router's entry lists take at most its injection port. -/
def OnlyInjection (pcl : Nat) (l : List Resv) : Prop := ∀ v ∈ l, v.res = resRouter pcl 5

/-- One packet that takes the injection port, or needs none. -/
theorem takeInjection_free (hr : s.plane.resvs = []) : ∃ v, OnlyInjection pcl v ∧
    (if p.waits then .ok s else takeInjection s p pcl i) = .ok { s with plane := { s.plane with resvs := v } } ∧ (i ≠ 0 → v = []) := by
  have hself : s = { s with plane := { s.plane with resvs := [] } } := by rw [← hr]
  have hnone : OnlyInjection pcl [] := fun _ h => absurd h List.not_mem_nil
  by_cases hw : p.waits = true
  · exact ⟨[], hnone, by rw [if_pos hw]; exact congrArg _ hself, fun _ => rfl⟩
  · rw [if_neg hw, takeInjection]
    by_cases h0 : i = 0
    · rw [if_pos h0, holdOut_free (by simp [hr]), hr]
      exact ⟨_, fun v hv => by rw [List.mem_singleton.1 hv], rfl, fun h => absurd h0 h⟩
    · rw [if_neg h0]
      exact ⟨[], hnone, congrArg _ hself, fun _ => rfl⟩

/-- Of two packets on different ports only one can come from L, so that both are taken in. -/
theorem injectAll_pair (hr : s.plane.resvs = []) (hp : p.loc = .router pcl i) (hq : q.loc = .router pcl j) (hj : j ≠ 0) :
    ∃ v, OnlyInjection pcl v ∧ injectAll s pcl [p, q] = .ok { s with plane := { s.plane with resvs := v } } := by
  obtain ⟨v, hv, hi, -⟩ := takeInjection_free (p := p) (pcl := pcl) (i := i) hr
  have hq' (s' : State) : (if q.waits then .ok s' else takeInjection s' q pcl j) = .ok s' := by
    rw [takeInjection, if_neg hj, ite_self]
  refine ⟨v, hv, ?_⟩
  simp only [injectAll, hp, hq, hi, hq']

theorem sorted_pair {n a b : Nat} {f : Nat → Bool} (h : (List.range n).filter f = [a, b]) : a < b := by
  have hs : ((List.range n).filter f).Pairwise (· < ·) := List.pairwise_lt_range.filter _
  rw [h] at hs
  exact (List.pairwise_cons.1 hs).1 b (List.mem_singleton.2 rfl)

theorem dropPkt_pair {v : List Resv} (h : s.plane.packets = [p, q]) :
    [p, q].foldl (fun s p => dropPkt s p.id) { s with plane := { s.plane with resvs := v } } =
      { s with plane := { s.plane with resvs := v, packets := [] } } := by
  simp [dropPkt, h]

end

section
variable {s : State} {p q : Packet} {pcl i j : Nat} (hpk : s.plane.packets = [p, q]) (hr : s.plane.resvs = [])
  (hp : p.loc = .router pcl i) (hq : q.loc = .router pcl j) (htree : hTree q.hdr = hTree p.hdr)
  (hop : hOp p.hdr ≠ 0) (hoq : hOp q.hdr ≠ 0) (hin : portsOf (bits (treeEntry s pcl (hTree p.hdr)) 24 20) = [i, j])

include hp hq htree hop hoq hin in
/-- The packets in the order of the entry's ports. -/
theorem ports_pair : [i, j].filterMap (fun i => [p, q].find? fun p' => waitsAt pcl (hTree p.hdr) p' == some i) = [p, q] := by
  have hwp : waitsAt pcl (hTree p.hdr) p = some i := waitsAt_router hp hop
  have hwq : waitsAt pcl (hTree p.hdr) q = some j := htree ▸ waitsAt_router hq hoq
  have hij : i ≠ j := (sorted_pair hin).ne
  simp [hwp, hwq, hij]

include hpk hr hp hq htree hop hoq hin in
theorem exec_reduceCombine_pair (hpcl : pcl < 576) (hpt : p.t = q.t) (ht : p.t ≤ s.plane.cycle) :
    ∃ v, OnlyInjection pcl v ∧ exec (.reduceCombine pcl (hTree p.hdr)) s =
      .next (reduceGroup { s with plane := { s.plane with resvs := v } } pcl p [p, q]) := by
  have hj : j ≠ 0 := (Nat.zero_le i).trans_lt (sorted_pair hin) |>.ne'
  obtain ⟨v, hv, hinj⟩ := injectAll_pair hr hp hq hj
  refine ⟨v, hv, ?_⟩
  have hwp : waitsAt pcl (hTree p.hdr) p = some i := waitsAt_router hp hop
  have hwq : waitsAt pcl (hTree p.hdr) q = some j := htree ▸ waitsAt_router hq hoq
  have hhere : (s.plane.packets.filter fun p' => (waitsAt pcl (hTree p.hdr) p').isSome && decide (p'.t ≤ s.cycle)) = [p, q] := by
    have htc : p.t ≤ s.cycle := ht
    rw [hpk]
    simp [hwp, hwq, ← hpt, htc]
  have hgrp : ([p, q].filter fun p' => p'.t == p.t) = [p, q] := by simp [hpt]
  rw [exec_reduceCombine, execReduceCombine, if_neg (not_le.2 hpcl)]
  simp only [hhere, hgrp, hinj]

/-- What reduceGroup finds for a pair: its entry, its ports and the state without the two packets. -/
theorem reduceGroup_pair {v : List Resv} (hports : [i, j].filterMap (fun i => [p, q].find? fun p' => waitsAt pcl (hTree p.hdr) p' == some i) = [p, q])
    (hpk : s.plane.packets = [p, q]) (hin : portsOf (bits (treeEntry s pcl (hTree p.hdr)) 24 20) = [i, j])
    (hout : portsOf (bits (treeEntry s pcl (hTree p.hdr)) 29 25) = [0])
    (he : bits (treeEntry s pcl (hTree p.hdr)) 31 30 = 3) :
    reduceGroup { s with plane := { s.plane with resvs := v } } pcl p [p, q] =
      if sameReduce p.hdr q.hdr = false then
        State.raise { s with plane := { s.plane with resvs := v, packets := [] } }
          { rtrRep { s with plane := { s.plane with resvs := v } } pcl 8 ((waitsAt pcl (hTree p.hdr) p).getD 0) p.hdr with hdr1 := q.hdr }
      else
        let s0 : State := { s with plane := { s.plane with resvs := v, packets := [] } }
        reduceOut (combined s0 p [p, q]).2 (combined s0 p [p, q]).1 pcl 0 (p.t + 1) := by
  have hentry : treeEntry { s with plane := { s.plane with resvs := v } } pcl (hTree p.hdr) = treeEntry s pcl (hTree p.hdr) := rfl
  have h31 : bit (treeEntry s pcl (hTree p.hdr)) 31 = true := decide_eq_true (by rw [bits] at he; omega)
  have h30 : bit (treeEntry s pcl (hTree p.hdr)) 30 = true := decide_eq_true (by rw [bits] at he; omega)
  simp only [reduceGroup, hentry, hin, hout, hports, dropPkt_pair hpk, h31, h30]
  cases hs : sameReduce p.hdr q.hdr <;> simp [hs]

end

/-- What the combination of two packets leaves before it leaves the router. -/
theorem combined_reads (s : State) (p : Packet) (l : List Packet) :
    (combined s p l).1 = { p with pay := some s.plane.nextId, waits := false } ∧
    (combined s p l).2.plane.packets = s.plane.packets ++ [(combined s p l).1] ∧
    (combined s p l).2.plane.pays = s.plane.pays ++ [{ id := s.plane.nextId, hdr := p.hdr, n := p.n, parts := l.filterMap (·.pay) }] ∧
    (combined s p l).2.plane.resvs = s.plane.resvs ∧ (combined s p l).2.plane.cores = s.plane.cores ∧
    (combined s p l).2.plane.sram = s.plane.sram ∧ (combined s p l).2.jet = s.jet ∧ (combined s p l).2.ldr = s.ldr :=
  ⟨rfl, rfl, rfl, rfl, rfl, rfl, rfl, rfl⟩

/-! ### The payload -/

theorem reduceFold_pair (x y : BitVec 32) : reduceFold 1 [x, y] = fpAdd x y := rfl

/-- Two flits are added lane by lane. -/
theorem formFlits_pair {s : State} {a b y : Payload} {f g : BitVec 2048} (h : s.plane.pays = [a, b, y]) (hab : a.id ≠ b.id)
    (hay : a.id ≠ y.id) (hby : b.id ≠ y.id) (ha : a.flits = [f]) (hb : b.flits = [g]) (hn : y.n = 1) (hparts : y.parts = [a.id, b.id])
    (hop : hOp y.hdr = 1) (hfmt : hFmt y.hdr = false) :
    (formFlits s y).plane.pays =
      [a, b, { y with flits := [vecOf32 ((List.range 64).map fun i => fpAdd (lane32 f i) (lane32 g i))] }] := by
  have hins : (y.parts.filterMap fun i => (s.plane.pays.find? fun z => z.id == i).map (·.flits)) = [[f], [g]] := by
    rw [hparts, h]
    simp [hab, ha, hb]
  have hcomb : combine y.hdr 1 [[f], [g]] = [vecOf32 ((List.range 64).map fun i => fpAdd (lane32 f i) (lane32 g i))] := by
    rw [combine, hop, hfmt]
    rfl
  rw [formFlits, hins, hn, hcomb]
  simp [setPay, h, hay, hby]

/-- Settles O34. -/
theorem reductionsCombine : Obligations.ReductionsCombine := by
  unfold Obligations.ReductionsCombine
  refine ⟨fun s p q pcl i j hpk hid hpcl hr hp hq hpt ht => ?_, fun s a b y f g h hab hay hby ha hb hn hparts hop hfmt => ?_⟩
  · intro tr e htree hop hoq hu he hin hout
    obtain ⟨v, hv, hexec⟩ := exec_reduceCombine_pair hpk hr hp hq htree hop hoq hin hpcl hpt ht
    rw [reduceGroup_pair (ports_pair hp hq htree hop hoq hin) hpk hin hout he] at hexec
    refine ⟨fun hs hf hc hfp => ?_, fun hs hrun => ?_⟩
    · rw [if_neg (by rw [hs]; decide)] at hexec
      obtain ⟨hx, hpk1, hpays, hres, hcores, hsram, hjet, hldr⟩ :=
        combined_reads { s with plane := { s.plane with resvs := v, packets := [] } } p [p, q]
      dsimp only at hexec
      generalize combined { s with plane := { s.plane with resvs := v, packets := [] } } p [p, q] = cx at *
      obtain ⟨x, s1⟩ := cx
      dsimp only at *
      subst hx
      rw [reduceOut, if_pos rfl] at hexec
      obtain ⟨s', hsame, hej⟩ := ejectPkt_here (s := s1) (p := { p with pay := some s.plane.nextId, waits := false }) (t := p.t + 1)
        (pcl := pcl) (by
          intro w hw
          rw [hres] at hw
          rw [hv w hw, resRouter, resRouter]
          omega) ((lfieldOf_congr hjet _).trans hf) hc (by rw [progF_congr (s := s) (by rw [hldr])]; exact hfp)
      refine ⟨_, { p with pay := some s.plane.nextId, waits := false, loc := .deliver pcl, t := p.t + 1 }, hexec.trans (congrArg _ hej), ?_,
        rfl, rfl, rfl, rfl, rfl, hsame.sram.trans hsram, hsame.cores.trans hcores, hsame.pays.trans hpays⟩
      rw [putPkt, hsame.packets, hpk1]
      simp
    · rw [if_pos hs] at hexec
      exact ⟨_, _, hexec, by simp [State.raise, hrun], by rw [raise_run (by exact hrun)], rfl, rfl, rfl, rfl, by rw [raise_sram]⟩
  · exact ⟨_, formFlits_pair h hab hay hby ha hb hn hparts hop hfmt, fun l hl => lane32_tabulate hl⟩

end Sys2Proof.Proofs
end

section
/-! PROOFS. Fences, squalls and the ends of a load: what they change, and what they leave. -/
namespace Sys2Proof.Proofs
open Sys2Proof Sys2Proof.Machine Sys2Proof.Safety Sys2Proof.Laws

/-! ### Tables changed in every place -/

theorem tget_tmap_from {α : Type} [DecidableEq α] {d : α} {f : α → α} (hf : f d = d) {lo k : Nat} {t : Table α}
    (h : twfFrom d lo t = true) : tget d (tmap d f t) k = f (tget d t k) := by
  induction t generalizing lo with
  | nil => exact hf.symm
  | cons e r ih =>
    obtain ⟨j, w⟩ := e
    obtain ⟨-, -, hr⟩ := twfFrom_cons.1 h
    have hrec : tget d (tmap d f r) k = f (tget d r k) := ih hr
    have hbelow (hk : k ≤ j) : tget d (tmap d f r) k = d := by rw [hrec, tget_below hr (Nat.lt_succ_of_le hk), hf]
    by_cases hw : f w = d
    · have hcons : tmap d f ((j, w) :: r) = tmap d f r := by simp [tmap, hw]
      rcases lt_trichotomy k j with hk | rfl | hk
      · simp [hcons, tget, hk, hf, hbelow hk.le]
      · simp [hcons, tget, hw, hbelow le_rfl]
      · simp [hcons, tget, hk.ne', hk.not_gt, hrec]
    · have hcons : tmap d f ((j, w) :: r) = (j, f w) :: tmap d f r := by simp [tmap, hw]
      rcases lt_trichotomy k j with hk | rfl | hk
      · simp [hcons, tget, hk, hf]
      · simp [hcons, tget]
      · simp [hcons, tget, hk.ne', hk.not_gt, hrec]

/-- A change of every entry is seen in every place, when it keeps the default. -/
theorem tget_tmap {α : Type} [DecidableEq α] {d : α} {f : α → α} (hf : f d = d) {k : Nat} {t : Table α} (h : twf d t = true) :
    tget d (tmap d f t) k = f (tget d t k) := tget_tmap_from hf h

/-! ### Fences -/

/-- t is s but for the binding, the weight store's books, the host side and the output. -/
def OnlyBinding (s t : State) : Prop := ∃ j w h o, t = { s with jet := j, wst := w, host := h, out := o } ∧ w.mem = s.wst.mem ∧
  h.eqBase = s.host.eqBase ∧ h.eqH = s.host.eqH

theorem OnlyBinding.refl (s : State) : OnlyBinding s s := ⟨_, _, _, _, rfl, rfl, rfl, rfl⟩

theorem OnlyBinding.trans {s t u : State} (h : OnlyBinding s t) (h' : OnlyBinding t u) : OnlyBinding s u := by
  obtain ⟨_, _, _, _, rfl, hm, hb, hh⟩ := h
  obtain ⟨j, w, h, o, rfl, hm', hb', hh'⟩ := h'
  exact ⟨j, w, h, o, rfl, hm'.trans hm, hb'.trans hb, hh'.trans hh⟩

theorem OnlyBinding.keeps {s t : State} (h : OnlyBinding s t) : t.plane = s.plane ∧ t.bg = s.bg ∧ t.ldr = s.ldr ∧ t.kv = s.kv ∧
    t.wst.mem = s.wst.mem ∧ t.pwr = s.pwr ∧ t.thm = s.thm ∧ t.hub = s.hub ∧ t.fuses = s.fuses := by
  obtain ⟨_, _, _, _, rfl, hm, -, -⟩ := h
  exact ⟨rfl, rfl, rfl, rfl, hm, rfl, rfl, rfl, rfl⟩

theorem OnlyBinding.adc {s t : State} (h : OnlyBinding s t) : t.adc = s.adc := by
  obtain ⟨_, _, _, _, rfl, -⟩ := h
  rfl

theorem OnlyBinding.hostRing {s t : State} (h : OnlyBinding s t) :
    t.host.eqBase = s.host.eqBase ∧ t.host.eqH = s.host.eqH ∧ t.tenants = s.tenants := by
  obtain ⟨_, _, _, _, rfl, -, hb, hh⟩ := h
  exact ⟨hb, hh, rfl⟩

theorem onlyBinding_ownerEvent (s : State) (c r v : Nat) (g : BitVec 64) : OnlyBinding s (ownerEvent s c r v g) :=
  ⟨_, _, _, _, ownerEvent_frame s c r v g, rfl, rfl, rfl⟩

theorem onlyBinding_wstEnd (s : State) (r : Nat) : OnlyBinding s (wstEnd s r) := by
  rw [wstEnd]
  exact .trans ⟨_, _, _, _, rfl, rfl, rfl, rfl⟩ (onlyBinding_ownerEvent ..)

theorem onlyBinding_dropField (s : State) (lf : Nat) : OnlyBinding s (dropField s lf) := by
  rw [dropField]
  dsimp only
  split
  · exact .trans ⟨_, _, _, _, rfl, rfl, rfl, rfl⟩ (onlyBinding_wstEnd ..)
  · exact ⟨_, _, _, _, rfl, rfl, rfl, rfl⟩

theorem onlyBinding_startSubst (s : State) : OnlyBinding s (startSubst s) := by
  rw [startSubst]
  split
  · split
    · exact .refl s
    · exact ⟨_, _, _, _, rfl, rfl, rfl, rfl⟩
  · exact .refl s

theorem onlyBinding_loseField (s : State) (lf : Nat) : OnlyBinding s (loseField s lf) := by
  rw [loseField]
  dsimp only
  split
  · split
    · exact ⟨_, _, _, _, rfl, rfl, rfl, rfl⟩
    · exact onlyBinding_dropField s lf
  · split
    · exact .trans ⟨_, _, _, _, rfl, rfl, rfl, rfl⟩ (onlyBinding_startSubst _)
    · exact ⟨_, _, _, _, rfl, rfl, rfl, rfl⟩

theorem onlyBinding_dropExcess (n : Nat) (s : State) : OnlyBinding s (dropExcess n s) := by
  induction n generalizing s with
  | zero => exact .refl s
  | succ n ih =>
    rw [dropExcess]
    split
    · split
      · exact (onlyBinding_dropField s _).trans (ih _)
      · exact .refl s
    · exact .refl s

theorem onlyBinding_abandonSpare (s : State) (pf : Nat) : OnlyBinding s (abandonSpare s pf) := by
  rw [abandonSpare]
  split
  · split
    · dsimp only
      split
      · refine .trans (.trans ?_ (onlyBinding_dropExcess ..)) (onlyBinding_startSubst _)
        exact ⟨_, _, _, _, rfl, rfl, rfl, rfl⟩
      · refine .trans ?_ (onlyBinding_dropExcess ..)
        exact ⟨_, _, _, _, rfl, rfl, rfl, rfl⟩
    · exact onlyBinding_dropExcess _ s
  · exact onlyBinding_dropExcess _ s

/-- The map after a field in service is fenced: the field's state and masks, and one more record. -/
def fencedMap (s : State) (pf st : Nat) : State :=
  writeRecord (maskField { s with bg := { s.bg with fieldSt := tset 0 s.bg.fieldSt pf st } } pf)

theorem onlyBinding_fenceField {s : State} {pf : Nat} (st : Nat) (h : fieldState s pf = 0) :
    OnlyBinding (fencedMap s pf st) (fenceField s pf st) := by
  rw [fenceField, if_neg (not_not.2 h)]
  dsimp only
  split
  · exact onlyBinding_loseField _ _
  · exact onlyBinding_abandonSpare _ _

/-- A fence writes the map and the record, and changes neither the plane nor the loader. -/
theorem fenceField_reads {s : State} {pf st : Nat} (h : fieldState s pf = 0) (hst : st ≠ 0) :
    (fenceField s pf st).plane = s.plane ∧ tget 0 (fenceField s pf st).bg.fieldSt pf = st ∧
    (∀ k, k < 12 → tget 0 (fenceField s pf st).bg.badMask (12 * pf + k) = 0xFFFFFFFF#32) ∧
    (fenceField s pf st).bg.recSeq = s.bg.recSeq + 1 := by
  obtain ⟨hplane, hbg, -, -⟩ := (onlyBinding_fenceField st h).keeps
  rw [hplane, hbg]
  refine ⟨rfl, tget_tset_of_ne_default hst _ _, fun k hk => ?_, rfl⟩
  simp only [fencedMap, writeRecord, maskField]
  exact tget_foldl_tset (by decide) (fun k => 12 * pf + k) (List.range 12) _ (.inl ⟨k, List.mem_range.2 hk, rfl⟩)

/-! ### Squalls -/

/-- A core of the program is stopped, and keeps the rest. -/
def stoppedCore (k : Core) : Core := if k.role.isSome then { k with issue := .stopped, target := none } else k

theorem core_stopCores {s : State} (h : twf ({} : Core) s.plane.cores = true) (c : Nat) :
    (stopCores s).core c = stoppedCore (s.core c) := tget_tmap (f := stoppedCore) rfl h

theorem exec_squallStop_single {s : State} {f : FaultRep} (hf : s.plane.faults = [f]) (hrun : s.plane.progRun = true) :
    exec .squallStop s = if s.plane.cycle < f.cycle + 63 then .next s else .next (squall s f 0 0) := by
  have hc : faultCycle [f] = f.cycle := Nat.min_self _
  have hnow : ([f].filter fun x => x.cycle == f.cycle) = [f] := by simp
  rw [exec_squallStop, execSquallStop, hf, hc, hnow, hrun]
  simp only [pickFault, List.foldl_nil, Bool.not_true, Bool.false_or, decide_eq_true_eq, List.length_singleton, Nat.sub_self]
  rfl

/-- What a squall leaves when no load waits for a front. -/
theorem squall_reads {s : State} {f : FaultRep} (hw : s.ldr.waitFront = false) :
    (squall s f 0 0).plane = { (stopCores s).plane with faults := [] } ∧ (squall s f 0 0).kv = s.kv ∧ (squall s f 0 0).wst = s.wst ∧
    (squall s f 0 0).bg = { s.bg with
      sqOvw := s.bg.sqVld, sqVld := true, sqCls := f.cls, sqSame := 0, sqLater := 0, sqRec := f
      clean := (squall s f 0 0).bg.clean, testFor := testDue f, test := 0 } ∧
    (squall s f 0 0).ldr = { s.ldr with tracing := false, state := if s.ldr.state = 8 then 10 else s.ldr.state } ∧
    (squall s f 0 0).out.getLast? = some (.msix 0 2) := by
  rw [squall]
  dsimp only
  rw [ownerEvent_frame, if_neg (by rw [show State.ldr _ = _ from rfl]; exact Bool.eq_false_iff.1 hw)]
  exact ⟨rfl, rfl, rfl, rfl, rfl, List.getLast?_concat ..⟩

/-- Settles O35. -/
theorem squallsStopThePlane : Obligations.SquallsStopThePlane := by
  unfold Obligations.SquallsStopThePlane
  refine ⟨fun s f hs hrun hf hw => ⟨fun ht => ?_, fun ht => ?_⟩, fun s pf hpf hrun hst => ?_⟩
  · rw [exec_squallStop_single hf hrun, if_pos ht]
  · obtain ⟨hplane, hkv, hwst, hbg, hldr, hout⟩ := squall_reads (f := f) hw
    refine ⟨_, (exec_squallStop_single hf hrun).trans (if_neg (not_lt.2 ht)), ?_⟩
    have hcores := core_stopCores (twf_cores_of_coresOk hs)
    generalize squall s f 0 0 = t at *
    refine ⟨by rw [hplane]; rfl, by rw [hplane], by rw [hplane]; rfl, by rw [hkv], by rw [hwst], by rw [hbg], by rw [hbg], by rw [hbg],
      by rw [hbg], by rw [hbg], by rw [hbg], fun h8 => by rw [hldr]; exact if_pos h8, hout, fun c hc => ?_⟩
    have hk : t.core c = stoppedCore (s.core c) := by
      rw [← hcores, State.core, hplane]
      rfl
    rw [hk, stoppedCore, if_pos (Option.isSome_iff_ne_none.2 hc)]
    exact ⟨rfl, rfl, rfl, rfl, rfl⟩
  · have hexec : exec (.transitFault pf) s = .next (fenceField (s.raise (unitRep s (12 * pf) 0xE 6 0)) pf 1) := by
      rw [exec_transitFault, execTransitFault, if_neg (not_le.2 hpf)]
    obtain ⟨hplane1, hbg1⟩ : (s.raise (unitRep s (12 * pf) 0xE 6 0)).plane =
        { s.plane with faults := s.plane.faults ++ [unitRep s (12 * pf) 0xE 6 0] } ∧ (s.raise (unitRep s (12 * pf) 0xE 6 0)).bg = s.bg := by
      rw [State.raise, if_pos hrun]
      exact ⟨rfl, rfl⟩
    generalize s.raise (unitRep s (12 * pf) 0xE 6 0) = s1 at *
    obtain ⟨hplane, hfs, hmask, hrec⟩ := fenceField_reads (s := s1) (pf := pf) (st := 1) (by rw [fieldState, hbg1]; exact hst) one_ne_zero
    rw [hplane1] at hplane
    rw [hbg1] at hrec
    exact ⟨_, unitRep s (12 * pf) 0xE 6 0, hexec, by rw [hplane], rfl, Nat.mul_div_cancel_left pf (by decide), hfs, hmask, hrec,
      by rw [hplane], by rw [hplane]⟩

end Sys2Proof.Proofs
end

section
/-! PROOFS. The load from its start to the end of its checks. -/
namespace Sys2Proof.Proofs
open Sys2Proof Sys2Proof.Machine Sys2Proof.Safety Sys2Proof.Laws

section
variable {s : State}

/-- A load that fails is over, with its fault recorded; the plane stays. -/
theorem loadFault_reads (s : State) (code a b : Nat) : (loadFault s code a b).plane = s.plane ∧ (loadFault s code a b).ldr = { s.ldr with
    state := 9, start := false, fVld := true, fCode := code, fA := a % 65536, fB := b % 2 ^ 32, image := [], cur := {},
    bindTo := none, missing := [], bad := [], checked := [], hurt := [] } ∧
    (loadFault s code a b).out.getLast? = some (.msix 0 3) := by
  rw [loadFault]
  dsimp only
  rw [ownerEvent_frame, settleFences]
  obtain ⟨hplane, -, hldr, -⟩ := (onlyBinding_dropExcess 48 { s with ldr := { s.ldr with
    state := 9, start := false, fVld := true, fCode := code, fA := a % 65536, fB := b % 2 ^ 32, image := [], cur := {}
    bindTo := none, missing := [], bad := [], checked := [], hurt := [] } }).keeps
  exact ⟨hplane, hldr, List.getLast?_concat ..⟩

theorem loadEnds_loadFault (s : State) (code a b : Nat) : LoadEnds s (loadFault s code a b) code := by
  obtain ⟨hplane, hldr, hout⟩ := loadFault_reads s code a b
  exact ⟨by rw [hldr], by rw [hldr], by rw [hldr], by rw [hldr], hplane, hout⟩

theorem loadFault_fA (s : State) (code a b : Nat) : (loadFault s code a b).ldr.fA = a % 65536 := by
  rw [(loadFault_reads s code a b).2.1]

theorem loadFault_fB (s : State) (code a b : Nat) : (loadFault s code a b).ldr.fB = b % 2 ^ 32 := by
  rw [(loadFault_reads s code a b).2.1]

theorem running_iff : s.running = true ↔ s.ldr.state = 8 := decide_eq_true_iff

theorem exec_loadStart_idle (hr : s.bg.ready = true) (hs : s.ldr.start = false) (h : s.ldr.state ≠ 8) :
    exec .loadStart s = .next (beginLoad { s with ldr := { s.ldr with start := true } }) := by
  rw [exec_loadStart, execLoadStart, startLoad, hr, hs]
  exact congrArg _ (if_neg (mt running_iff.1 h))

theorem exec_loadStart_running (hr : s.bg.ready = true) (hs : s.ldr.start = false) (h : s.ldr.state = 8) :
    exec .loadStart s = .next { s with ldr := { s.ldr with start := true, waitFront := true } } := by
  rw [exec_loadStart, execLoadStart, startLoad, hr, hs]
  exact congrArg _ (if_pos (running_iff.2 h))

theorem exec_loadStart_ignored (h : s.bg.ready = false ∨ s.ldr.start = true) : exec .loadStart s = .next s := by
  rw [exec_loadStart, execLoadStart, startLoad, if_pos]
  rcases h with h | h <;> simp [h]

theorem loading_iff : loading s = true ↔ 1 ≤ s.ldr.state ∧ s.ldr.state ≤ 7 := decide_eq_true_iff

end

/-- Settles O36. -/
theorem loadsAreChecked : Obligations.LoadsAreChecked := by
  unfold Obligations.LoadsAreChecked
  intro s
  refine ⟨fun hr hs h => ⟨_, exec_loadStart_idle hr hs h, rfl, rfl, rfl, rfl, rfl⟩, fun hr hs h => exec_loadStart_running hr hs h,
    fun h => exec_loadStart_ignored h, fun h1 h7 => ?_, fun h => ?_, fun h1 hp => ⟨fun f => ?_, fun m a b hm => ?_, fun m hm => ?_⟩,
    fun h2 => ⟨fun he hm => ?_, fun he => ?_⟩, fun h3 => ⟨fun c a b hc => ?_, fun hc hk => ?_⟩⟩
  · refine ⟨_, ?_, loadEnds_loadFault s 0x11 s.ldr.state 0, ?_⟩
    · rw [exec_loadAbort, execLoadAbort, abortLoad, if_pos (loading_iff.2 ⟨h1, h7⟩)]
    · rw [loadFault_fA]
      omega
  · rw [exec_loadAbort, execLoadAbort, abortLoad, if_neg]
    rw [loading_iff]
    omega
  · refine ⟨_, ?_, loadEnds_loadFault s 0x10 1 (f / 4096), loadFault_fA .., loadFault_fB ..⟩
    rw [exec_loadPass1, execLoadPass1, if_neg (by omega)]
  · refine ⟨_, ?_, loadEnds_loadFault s 1 a b⟩
    rw [exec_loadPass1, execLoadPass1, if_neg (by omega)]
    simp only [hm]
  · rw [exec_loadPass1, execLoadPass1, if_neg (by omega)]
    simp only [hm]
  · rw [exec_loadVerify, execLoadVerify, if_neg (not_not.2 h2), he, hm]
    rfl
  · refine ⟨_, ?_, loadEnds_loadFault (sigFail s) 2 0 0, loadFault_fA ..⟩
    rw [exec_loadVerify, execLoadVerify, if_neg (not_not.2 h2), he]
    rfl
  · refine ⟨_, ?_, loadEnds_loadFault s c a b⟩
    rw [exec_loadCheck, execLoadCheck, if_neg (not_not.2 h3)]
    simp only [hc]
  · rw [exec_loadCheck, execLoadCheck, if_neg (not_not.2 h3)]
    simp only [hc, hk, if_true]

end Sys2Proof.Proofs
end

section
/-! PROOFS. The weight store's commands and its install sessions. -/
namespace Sys2Proof.Proofs
open Sys2Proof Sys2Proof.Machine Sys2Proof.Safety Sys2Proof.Laws

/-! ### How a command begins and ends -/

/-- The end of a command writes its result, closes the session, and keeps every slot. -/
theorem wstEnd_wst (s : State) (r : Nat) : (wstEnd s r).wst = { s.wst with
    busy := false, waiting := false, result := r, ctls := [], subCmd := none, abortReq := false } := by
  rw [wstEnd, ownerEvent_frame]

theorem wstEnds_wstEnd (s : State) (r : Nat) : WstEnds (wstEnd s r) s.wst.lastCmd s.wst.lastSlot r := by
  simp [WstEnds, wstEnd_wst]

@[simp] theorem wstEnd_slots (s : State) (r : Nat) : (wstEnd s r).wst.slots = s.wst.slots := by rw [wstEnd_wst]

theorem wstEnd_wslot (s : State) (r n : Nat) : (wstEnd s r).wslot n = s.wslot n := by rw [State.wslot, wstEnd_slots, State.wslot]

theorem verifyFail_ends {s : State} (h : twf ({} : WSlot) s.wst.slots = true) (r : Nat) :
    WstEnds (verifyFail s r) s.wst.lastCmd s.wst.lastSlot r ∧ (verifyFail s r).wslot s.wst.lastSlot = {} := by
  rw [verifyFail]
  exact ⟨wstEnds_wstEnd _ r, (wstEnd_wslot _ r _).trans (wslot_setWslot h)⟩

/-- An accepted command that waits in Run begins at once. -/
theorem wstRow_of_accept {s s0 : State} {n : Nat} (b : State → State) (hb : s.wst.busy = false)
    (hacc : wstAccept { s with wst := { s.wst with cmd := BitVec.ofNat 4 n } } = s0) (hwait : s0.wst.waiting = true)
    (hlast : s0.wst.lastCmd = n) (hp : s0.pwr.state = 5) (ha : s0.wst.abortReq = false) (hv : beginVerify s0 = s0)
    (hg : gradeWt s0 ≠ 0) : wstRow s n b = b { s0 with wst := { s0.wst with waiting := false } } := by
  have h0 : (if s.wst.busy then s else wstAccept { s with wst := { s.wst with cmd := BitVec.ofNat 4 n } }) = s0 := by
    rw [if_neg (by simp [hb]), hacc]
  rw [wstRow, h0]
  dsimp only
  rw [if_neg (by simp [hwait, hlast, hp, ha]), hv]
  exact if_neg hg

/-- The state after go was written in WST_CTRL, before the command begins. -/
def wstAsked (s : State) (n : Nat) : State :=
  { s with wst := { s.wst with
      cmd := BitVec.ofNat 4 n, busy := true, waiting := true, lastCmd := n, lastSlot := s.wst.slot.toNat, done := 0, total := 0,
      bytes := 0 } }

theorem wstAccept_asked {s : State} {n : Nat} (hb : s.wst.busy = false) (hn : n < 16) :
    wstAccept { s with wst := { s.wst with cmd := BitVec.ofNat 4 n } } = beginVerify (wstAsked s n) := by
  have hcmd : (BitVec.ofNat 4 n).toNat = n := by simp [hn]
  rw [wstAccept, wstAsked]
  simp only [hb, hcmd, Bool.false_eq_true, reduceIte]

/-- In Run an accepted command other than an install of an empty slot begins at once. -/
theorem wstRow_begins {s : State} {n : Nat} (b : State → State) (hb : s.wst.busy = false) (ha : s.wst.abortReq = false)
    (hp : s.pwr.state = 5) (hg : 0 < gradeWt s) (hn : n < 16) (hx : n = 1 → (s.wslot s.wst.slot.toNat).st ≠ 0) :
    wstRow s n b = b (wstBegun s n) := by
  have hv : beginVerify (wstAsked s n) = wstAsked s n := if_neg fun h => hx h.2.1 h.2.2.2.2
  exact wstRow_of_accept b hb ((wstAccept_asked hb hn).trans hv) rfl rfl hp ha hv hg.ne'

/-- In Run an install of an empty slot begins at once, and the slot is verifying. -/
theorem wstRow_verifies {s : State} (b : State → State) (hw : twf ({} : WSlot) s.wst.slots = true)
    (hb : s.wst.busy = false) (ha : s.wst.abortReq = false) (hp : s.pwr.state = 5) (hg : 0 < gradeWt s)
    (hx : (s.wslot s.wst.slot.toNat).st = 0) :
    wstRow s 1 b = b ((wstBegun s 1).setWslot s.wst.slot.toNat { st := 1 }) := by
  have hv : beginVerify (wstAsked s 1) = (wstAsked s 1).setWslot s.wst.slot.toNat { st := 1 } := if_pos ⟨rfl, rfl, hp, hg.ne', hx⟩
  have hslot : ((wstAsked s 1).setWslot s.wst.slot.toNat { st := 1 }).wslot s.wst.slot.toNat = { st := 1 } := wslot_setWslot hw
  refine wstRow_of_accept b hb ((wstAccept_asked hb (by decide)).trans hv) rfl rfl hp ha (if_neg fun h => ?_) hg.ne'
  exact absurd ((congrArg WSlot.st hslot).symm.trans h.2.2.2.2) (by decide)

/-! ### Sessions -/

theorem filterMap_range_none {β : Type} {f : Nat → Option β} {n : Nat} (h : ∀ i < n, f i = none) : (List.range n).filterMap f = [] :=
  List.filterMap_eq_nil_iff.2 fun i hi => h i (List.mem_range.1 hi)

theorem filterMap_range_single {β : Type} {f : Nat → Option β} {n k : Nat} {v : β} (hk : k < n) (hv : f k = some v)
    (h : ∀ i, i ≠ k → f i = none) : (List.range n).filterMap f = [v] := by
  induction n with
  | zero => omega
  | succ n ih =>
    rw [List.range_succ, List.filterMap_append]
    rcases (Nat.lt_succ_iff.1 hk).lt_or_eq with hlt | rfl
    · simp [ih hlt, h n hlt.ne']
    · simp [filterMap_range_none fun i hi => h i (Nat.ne_of_lt hi), hv]

/-- The controllers of a resume with one missing slice. -/
theorem resumeCtls_single {m : Manifest} {x : WSlot} {e : MissEnt} (hx : x.missing = [e]) (he : e.shard < m.shards.length) :
    ((List.range m.shards.length).filterMap fun i =>
      if ((x.missing.filter fun e => e.shard == i).map (·.slice)).isEmpty then none
      else some (newCtl i ((x.missing.filter fun e => e.shard == i).map (·.slice))
        (((x.missing.filter fun e => e.shard == i).map (·.slice)).length == (m.shards.getD i {}).nsl))) =
    [newCtl e.shard [e.slice] (1 == (m.shards.getD e.shard {}).nsl)] := by
  refine filterMap_range_single he (by simp [hx]) fun i hi => ?_
  simp [hx, hi.symm]

theorem sessionEnd_openSession {s : State} {k : ShardCtl} (hk : k.st = 0) : sessionEnd (openSession s [k]) = openSession s [k] := by
  rw [sessionEnd, if_pos]
  simp [openSession, hk]

/-- A field that waits takes the lowest spare when no substitution runs. -/
theorem startSubst_starts {s : State} {lf sp lost : Nat} {rest sps : List Nat} (hsub : s.wst.sub = none) (hf : s.wst.fenced = lf :: rest)
    (hsp : sparesOf s = sp :: sps) (hlost : pfieldOf s lf = some lost) :
    startSubst s = { s with wst := { s.wst with sub := some { lfield := lf, lost := lost, spare := sp }, fenced := rest } } := by
  simp only [startSubst, hsub, hf, hsp, hlost]

/-! ### The commands -/

/-- Settles O38: an accepted command begins at once on the state `wstBegun` (an install of an empty slot with that slot verifying),
and each command's own cases follow from the checks it makes there. -/
theorem weightStoreCommands : Obligations.WeightStoreCommands := by
  unfold Obligations.WeightStoreCommands
  intro s hok hbusy habort hpwr hgrade n x u v1
  have hw : twf ({} : WSlot) s.wst.slots = true := by simp only [tablesOk, Bool.and_eq_true] at hok; tauto
  have hwu (m : Nat) : twf ({} : WSlot) (u m).wst.slots = true := hw
  have hwv : twf ({} : WSlot) v1.wst.slots = true := twf_tset hw
  have hv1 : v1.wslot n = { st := 1 } := wslot_setWslot hw
  have begins (m : Nat) (b : State → State) (hm : m < 16) (hx : m = 1 → x.st ≠ 0) : wstRow s m b = b (u m) :=
    wstRow_begins b hbusy habort hpwr hgrade hm hx
  have verifies (b : State → State) (hx : x.st = 0) : wstRow s 1 b = b v1 := wstRow_verifies b hw hbusy habort hpwr hgrade hx
  refine ⟨fun hx => ?_, fun hx => ?_, fun b bases hx hres hbase => ?_, fun hx => ?_, fun b e hx hfmt hed hml hdig hmiss hsh => ?_,
    ?_, fun hx hbd => ?_, fun hx hbd => ?_, ?_, fun hfree hf hsub => ?_, fun sp rest lost hf hsub hsp hlost => ?_, fun cmd hcmd => ?_⟩
  · have hst : ¬ (v1.wslot v1.wst.lastSlot).st ≠ 1 := not_not.2 (congrArg WSlot.st hv1)
    refine ⟨_, by rw [exec_install, execInstall, verifies _ hx, installBegin, if_neg hst], ?_⟩
    have hev := ownerEvent_frame v1 0xB 0 0xFFFF v1.wst.msrc
    have hend := verifyFail_ends (s := ownerEvent v1 0xB 0 0xFFFF v1.wst.msrc) (by rw [hev]; exact hwv) 2
    rwa [show (ownerEvent v1 0xB 0 0xFFFF v1.wst.msrc).wst = v1.wst by rw [hev]] at hend
  · have hst : ((u 1).wslot (u 1).wst.lastSlot).st ≠ 1 := by show x.st ≠ 1; omega
    refine ⟨_, by rw [exec_install, execInstall, begins 1 _ (by decide) (by omega), installBegin, if_pos hst], wstEnds_wstEnd .., ?_⟩
    exact wstEnd_slots ..
  · have hst : ¬ (v1.wslot v1.wst.lastSlot).st ≠ 1 := not_not.2 (congrArg WSlot.st hv1)
    refine ⟨openSession (v1.setWslot n { st := 2, man := parseManifest b, base := bases })
      ((parseManifest b).shards.zipIdx.map fun (h, i) => newCtl i ((List.range h.nsl).map (h.slice0 + ·)) true), ?_, rfl, rfl, rfl, wslot_setWslot hwv, ?_,
      rfl⟩
    · rw [exec_install, execInstall, verifies _ hx, installBegin, if_neg hst]
      simp only [hres, hbase, ne_eq, not_true_eq_false, reduceIte]
      rfl
    · simp [openSession]
  · have hst : ((u 2).wslot (u 2).wst.lastSlot).st ≠ 4 := hx
    exact ⟨wstEnd (u 2) 5, by rw [exec_wstResume, execWstResume, begins 2 _ (by decide) (by simp), resumeBegin, if_pos hst],
      wstEnds_wstEnd .., wstEnd_slots ..⟩
  · have hst : ¬ ((u 2).wslot (u 2).wst.lastSlot).st ≠ 4 := not_not.2 hx
    have hdig' : ¬ (parseManifest b).instDig ≠ ((u 2).wslot (u 2).wst.lastSlot).man.instDig := not_not.2 hdig
    refine ⟨openSession ((u 2).setWslot n { x with man := withSources x.man (parseManifest b), st := 2 })
      [newCtl e.shard [e.slice] (1 == ((withSources x.man (parseManifest b)).shards.getD e.shard {}).nsl)], ?_, rfl, ?_, ?_, rfl⟩
    · rw [exec_wstResume, execWstResume, begins 2 _ (by decide) (by simp), resumeBegin, if_neg hst]
      simp only [hfmt, hed, hml, hdig', Bool.not_true, Bool.false_eq_true, or_self, reduceIte]
      rw [resumeCtls_single (m := withSources ((u 2).wslot (u 2).wst.lastSlot).man _) (x := (u 2).wslot (u 2).wst.lastSlot) hmiss hsh,
        sessionEnd_openSession rfl]
      rfl
    · exact congrArg WSlot.st (wslot_setWslot hw)
    · exact (congrArg WSlot.missing (wslot_setWslot hw)).trans hmiss
  · exact ⟨wstEnd (u 3) 5, by rw [exec_wstAbort, execWstAbort, if_neg (by simp [hbusy]), begins 3 _ (by decide) (by simp)],
      wstEnds_wstEnd .., wstEnd_slots ..⟩
  · have hst : ¬ (((u 4).wslot (u 4).wst.lastSlot).st = 0 ∨ ((u 4).wslot (u 4).wst.lastSlot).st = 6) := by
      show ¬ (x.st = 0 ∨ x.st = 6); omega
    have hbd' : ¬ ((u 4).wslot (u 4).wst.lastSlot).bound = true := by show ¬ x.bound = true; simp [hbd]
    exact ⟨(u 4).setWslot n { x with st := 6 },
      by rw [exec_eraseSlot, execEraseSlot, begins 4 _ (by decide) (by simp), eraseBegin, if_neg hst, if_neg hbd']; rfl,
      wslot_setWslot hw, rfl⟩
  · have hst : ¬ (((u 4).wslot (u 4).wst.lastSlot).st = 0 ∨ ((u 4).wslot (u 4).wst.lastSlot).st = 6) := by
      show ¬ (x.st = 0 ∨ x.st = 6); omega
    have hbd' : ((u 4).wslot (u 4).wst.lastSlot).bound = true := hbd
    exact ⟨wstEnd (u 4) 6, by rw [exec_eraseSlot, execEraseSlot, begins 4 _ (by decide) (by simp), eraseBegin, if_neg hst, if_pos hbd'],
      wstEnds_wstEnd .., wstEnd_slots ..⟩
  · intro v
    refine ⟨fun hnone => ?_, fun y rel sh sl hsome hslice => ?_⟩
    · have hnone' : slotOfPage (u 5) (bits v 33 24) (bits v 35 34) (bits v 22 0) = none := hnone
      refine ⟨wstEnd (u 5) 0xB, ?_, wstEnds_wstEnd ..⟩
      rw [exec_reProvision, execReProvision, begins 5 _ (by decide) (by simp), reprovBegin]
      simp only [show (u 5).wst.rpage.toNat = v from rfl, hnone']
    · have hsome' : slotOfPage (u 5) (bits v 33 24) (bits v 35 34) (bits v 22 0) = some (y, rel) := hsome
      refine ⟨openSession { u 5 with wst := { (u 5).wst with lastSlot := y } }
        [newCtl sh [sl] (((s.wslot y).man.shards.getD sh {}).nsl == 1)], ?_, rfl, rfl, rfl⟩
      rw [exec_reProvision, execReProvision, begins 5 _ (by decide) (by simp), reprovBegin]
      simp only [show (u 5).wst.rpage.toNat = v from rfl, hsome']
      simp only [State.wslot, u, wstBegun] at hslice ⊢
      simp only [hslice]
  · refine ⟨wstEnd (u 6) 9, ?_, wstEnds_wstEnd ..⟩
    have hf' : (u 6).wst.fenced.contains (u 6).wst.field.toNat = false := hf
    rw [exec_substitute, execSubstitute, begins 6 _ (by decide) (by simp), substBegin]
    simp only [show (u 6).wst.sub = none from hsub, hf', show freeSpares (u 6) = 0 from hfree, Bool.false_eq_true, reduceIte]
  · refine ⟨{ u 6 with wst := { (u 6).wst with
      subCmd := some s.wst.field.toNat, sub := some { lfield := s.wst.field.toNat, lost := lost, spare := sp }, fenced := [] } },
      ?_, rfl, rfl, rfl, rfl⟩
    have hf' : (u 6).wst.fenced = [(u 6).wst.field.toNat] := hf
    rw [exec_substitute, execSubstitute, begins 6 _ (by decide) (by simp), substBegin]
    simp only [show (u 6).wst.sub = none from hsub, hf', List.contains_cons, BEq.rfl, Bool.true_or, Bool.false_eq_true, reduceIte]
    exact congrArg Host.Outcome.next (startSubst_starts rfl (congrArg (_ :: ·) (by simp)) hsp hlost)
  · have hlow : ¬ ((1 ≤ cmd.toNat ∧ cmd.toNat ≤ 6) ∨ s.wst.busy = true) := by
      rw [hbusy]
      rcases hcmd with rfl | h
      · decide
      · simp; omega
    have hacc : wstAccept { s with wst := { s.wst with cmd := cmd } } = { s with wst := { s.wst with
        cmd := cmd, busy := true, waiting := true, lastCmd := cmd.toNat, lastSlot := s.wst.slot.toNat, done := 0, total := 0,
        bytes := 0 } } := by
      rw [wstAccept]
      simp only [hbusy, Bool.false_eq_true, reduceIte]
      exact if_neg fun h => hlow (.inl (by have := h.2.1; simp only at this; omega))
    exact ⟨wstEnd { s with wst := { s.wst with
        cmd := cmd, busy := true, waiting := true, lastCmd := cmd.toNat, lastSlot := s.wst.slot.toNat, done := 0, total := 0,
        bytes := 0 } } 0xE, by rw [exec_wstReservedCmd, execWstReservedCmd, if_neg hlow, hacc], wstEnds_wstEnd .., wstEnd_slots ..⟩

/-! ### Programming pages -/

/-- From s to t the cores and scratchpads stay, and a session goes on: no command waits for a substitution, and the controllers,
the place and the states of the slots are the same. -/
structure Programs (s t : State) : Prop where
  sram : t.plane.sram = s.plane.sram
  cores : t.plane.cores = s.plane.cores
  session : s.wst.subCmd = none → t.wst.subCmd = none ∧ t.wst.ctls = s.wst.ctls ∧ t.wst.bytes = s.wst.bytes ∧
    t.wst.lastSlot = s.wst.lastSlot ∧ ∀ n, (t.wslot n).st = (s.wslot n).st

theorem Programs.refl (s : State) : Programs s s := ⟨rfl, rfl, fun h => ⟨h, rfl, rfl, rfl, fun _ => rfl⟩⟩

theorem Programs.trans {s t u : State} (h : Programs s t) (h' : Programs t u) : Programs s u where
  sram := h'.sram.trans h.sram
  cores := h'.cores.trans h.cores
  session hs := by
    obtain ⟨hsub, hctls, hbytes, hlast, hst⟩ := h.session hs
    obtain ⟨hsub', hctls', hbytes', hlast', hst'⟩ := h'.session hsub
    exact ⟨hsub', hctls'.trans hctls, hbytes'.trans hbytes, hlast'.trans hlast, fun n => (hst' n).trans (hst n)⟩

theorem Programs.after {s t u : State} (h' : Programs t u) (h : Programs s t) : Programs s u := h.trans h'

/-- A change of the store, the tables of places and the fence map programs nothing else. -/
theorem programs_of_same {s t : State} (hplane : t.plane = s.plane) (hsub : t.wst.subCmd = s.wst.subCmd)
    (hctls : t.wst.ctls = s.wst.ctls) (hbytes : t.wst.bytes = s.wst.bytes) (hlast : t.wst.lastSlot = s.wst.lastSlot)
    (hslots : t.wst.slots = s.wst.slots) : Programs s t :=
  ⟨by rw [hplane], by rw [hplane], fun h => ⟨hsub.trans h, hctls, hbytes, hlast, fun n => by rw [State.wslot, hslots, State.wslot]⟩⟩

theorem programs_foldl {α : Type} {f : State → α → State} (hf : ∀ s x, Programs s (f s x)) (l : List α) (s : State) :
    Programs s (l.foldl f s) := by
  induction l generalizing s with
  | nil => exact .refl s
  | cons x r ih => exact (hf s x).trans (ih _)

theorem tget_map_entries {α β : Type} {d : α} {f : α → β} {g : α → α} (hg : ∀ x, f (g x) = f x) (t : Table α) (k : Nat) :
    f (tget d (t.map fun e => (e.1, g e.2)) k) = f (tget d t k) := by
  induction t with
  | nil => rfl
  | cons e r ih =>
    simp only [List.map_cons, tget]
    split
    · rfl
    · split
      · exact hg e.2
      · exact ih

theorem programs_dropField (s : State) (lf : Nat) : Programs s (dropField s lf) := by
  obtain ⟨hplane, -, -, -⟩ := (onlyBinding_dropField s lf).keeps
  refine ⟨by rw [hplane], by rw [hplane], fun hs => ?_⟩
  have hne : ¬ s.wst.subCmd = some lf := by simp [hs]
  rw [dropField, if_neg hne]
  refine ⟨by simp [hs], rfl, rfl, rfl, fun n => tget_map_entries (f := WSlot.st)
    (g := fun x => if lf < x.man.fFields then { x with invalid := true } else x) (fun x => ?_) _ n⟩
  split <;> rfl

theorem programs_startSubst (s : State) : Programs s (startSubst s) := by
  rw [startSubst]
  split
  · split
    · exact .refl s
    · exact programs_of_same rfl rfl rfl rfl rfl rfl
  · exact .refl s

theorem programs_loseField (s : State) (lf : Nat) : Programs s (loseField s lf) := by
  rw [loseField]
  dsimp only
  split
  · split
    · exact programs_of_same rfl rfl rfl rfl rfl rfl
    · exact programs_dropField s lf
  · split
    · exact (programs_startSubst _).after (programs_of_same rfl rfl rfl rfl rfl rfl)
    · exact programs_of_same rfl rfl rfl rfl rfl rfl

theorem programs_dropExcess (n : Nat) (s : State) : Programs s (dropExcess n s) := by
  induction n generalizing s with
  | zero => exact .refl s
  | succ n ih =>
    rw [dropExcess]
    split
    · split
      · exact (programs_dropField s _).trans (ih _)
      · exact .refl s
    · exact .refl s

theorem programs_abandonSpare (s : State) (pf : Nat) : Programs s (abandonSpare s pf) := by
  rw [abandonSpare]
  split
  · split
    · dsimp only
      have hdrop (w : Wst) (hw : w.subCmd = s.wst.subCmd ∧ w.ctls = s.wst.ctls ∧ w.bytes = s.wst.bytes ∧
          w.lastSlot = s.wst.lastSlot ∧ w.slots = s.wst.slots) : Programs s (dropExcess 48 { s with wst := w }) := by
        obtain ⟨hsub, hctls, hbytes, hlast, hslots⟩ := hw
        exact (programs_dropExcess 48 _).after (programs_of_same rfl hsub hctls hbytes hlast hslots)
      split
      · exact (programs_startSubst _).after (hdrop _ ⟨rfl, rfl, rfl, rfl, rfl⟩)
      · exact hdrop _ ⟨rfl, rfl, rfl, rfl, rfl⟩
    · exact programs_dropExcess 48 s
  · exact programs_dropExcess 48 s

theorem programs_fenceCluster (s : State) (pcl : Nat) : Programs s (fenceCluster s pcl) := by
  rw [fenceCluster, fenceField]
  split
  · exact programs_of_same rfl rfl rfl rfl rfl rfl
  · dsimp only
    split
    · exact (programs_loseField _ _).after (programs_of_same rfl rfl rfl rfl rfl rfl)
    · exact (programs_abandonSpare _ _).after (programs_of_same rfl rfl rfl rfl rfl rfl)

theorem programs_takeSpare (s : State) (pcl wafer : Nat) : Programs s (takeSpare s pcl wafer).2 := by
  simp only [takeSpare]
  split
  · exact programs_fenceCluster s pcl
  · exact programs_of_same rfl rfl rfl rfl rfl rfl

theorem programs_pageWrite (s : State) (q : Nat) (d : List Byte) : Programs s (pageWrite s q d) :=
  programs_of_same rfl rfl rfl rfl rfl rfl

theorem programs_fixPlaces (s : State) : Programs s (fixPlaces s) := by
  refine programs_foldl (fun s p => ?_) _ s
  exact ⟨rfl, rfl, fun h => ⟨h, rfl, rfl, rfl, fun _ => rfl⟩⟩

theorem programs_remapped (s : State) (r : Table (Option Nat)) (n : Nat) :
    Programs s { s with wst := { s.wst with remap := r, retired := n } } := programs_of_same rfl rfl rfl rfl rfl rfl

theorem programs_movePage (s : State) (pcl wafer page : Nat) : Programs s (movePage s pcl wafer page).2 := by
  have hspare := programs_takeSpare s pcl wafer
  rw [movePage]
  generalize pageRead s (pagePlace s pcl wafer page) = d
  dsimp only
  generalize takeSpare s pcl wafer = x at hspare ⊢
  obtain ⟨_ | q, s1⟩ := x
  · exact hspare
  · have hwrite := (hspare.trans (programs_fixPlaces s1)).trans (programs_pageWrite _ q d)
    exact .trans hwrite (programs_remapped _ _ _)

theorem programs_foldl_snd {α β : Type} {f : β × State → α → β × State} (hf : ∀ x a, Programs x.2 (f x a).2) (l : List α)
    (x : β × State) : Programs x.2 (l.foldl f x).2 := by
  induction l generalizing x with
  | nil => exact .refl x.2
  | cons a r ih => exact (hf x a).trans (ih _)

theorem programs_retireBlock (s : State) (blk : Nat) : Programs s (retireBlock s blk).2 := by
  refine programs_foldl_snd (fun (l, s) i => ?_) _ ([], s)
  dsimp only
  split
  · exact .refl s
  · next key _ =>
    have hmove := programs_movePage s (key / 2 ^ 26) (key / 2 ^ 24 % 4) (key % 2 ^ 24)
    split
    · next h => rwa [h] at hmove
    · next h => rwa [h] at hmove

/-! ### Wear -/

/-- The state after the wear count of block b has risen by one. -/
def wornState (s : State) (b : Nat) : State :=
  { s with wst := { s.wst with wear := tset 0 s.wst.wear b (tget 0 s.wst.wear b + 1) } }

/-- The body of `wearBlocks` for a block: stated over the recursor's table of earlier values, as Lean's own equation for `wearBlocks` does not come out. -/
theorem wearBlocks_body {n s b r} (G : Nat.below (motive := fun _ => State → List ℕ → State) (n + 1)) :
    wearBlocks._f (n + 1) G s (b :: r) =
      if 10000 ≤ tget 0 s.wst.wear b then G.1 s r
      else if tget 0 s.wst.wear b + 1 < 10000 then G.1 (wornState s b) r
      else G.1 (retireBlock (wornState s b) b).2 (r ++ (retireBlock (wornState s b) b).1) := by
  delta wearBlocks._f
  dsimp only
  rfl

theorem wearBlocks_cons {n s b r} :
    wearBlocks (n + 1) s (b :: r) =
      if 10000 ≤ tget 0 s.wst.wear b then wearBlocks n s r
      else if tget 0 s.wst.wear b + 1 < 10000 then wearBlocks n (wornState s b) r
      else wearBlocks n (retireBlock (wornState s b) b).2 (r ++ (retireBlock (wornState s b) b).1) := by
  delta wearBlocks
  have e := Nat.brecOn.eq (motive := fun _ => State → List ℕ → State) (n + 1) wearBlocks._f
  exact (congrFun (congrFun e s) (b :: r)).trans (wearBlocks_body _)

theorem programs_worn (s : State) (b : Nat) : Programs s (wornState s b) :=
  programs_of_same rfl rfl rfl rfl rfl rfl

theorem wearBlocks_nil (n : Nat) (s : State) : wearBlocks n s [] = s := by cases n <;> rfl

theorem programs_wearBlocks (n : Nat) (s : State) (l : List Nat) : Programs s (wearBlocks n s l) := by
  induction n generalizing s l with
  | zero =>
    cases l with
    | nil => exact wearBlocks_nil 0 s ▸ .refl s
    | cons b r => exact .refl s
  | succ n ih =>
    cases l with
    | nil => exact wearBlocks_nil (n + 1) s ▸ .refl s
    | cons b r =>
      rw [wearBlocks_cons]
      split
      · exact ih s r
      · split
        · exact (programs_worn s b).trans (ih _ r)
        · exact ((programs_worn s b).trans (programs_retireBlock _ b)).trans (ih _ _)

theorem programs_wearPlaces (s : State) (l : List Nat) : Programs s (wearPlaces s l) := programs_wearBlocks _ s _

theorem programs_writePages (s : State) (pcl wafer page n : Nat) (d : List Byte) : Programs s (writePages s pcl wafer page n d) :=
  (programs_foldl (fun s _ => programs_pageWrite s _ _) _ s).trans (programs_wearPlaces _ _)

/-! ### Slices -/

/-- From s to t only slots change, and slot n keeps its state. -/
def OnlyListed (n : Nat) (s t : State) : Prop :=
  ∃ l, t = { s with wst := { s.wst with slots := l } } ∧ (t.wslot n).st = (s.wslot n).st

theorem OnlyListed.refl (n : Nat) (s : State) : OnlyListed n s s := ⟨_, rfl, rfl⟩

theorem OnlyListed.trans {n : Nat} {s t u : State} (h : OnlyListed n s t) (h' : OnlyListed n t u) : OnlyListed n s u := by
  obtain ⟨l, rfl, hl⟩ := h
  obtain ⟨l', rfl, hl'⟩ := h'
  exact ⟨l', rfl, hl'.trans hl⟩

theorem onlyListed_foldl {α : Type} {n : Nat} {f : State → α → State} (hf : ∀ s x, OnlyListed n s (f s x)) (l : List α) (s : State) :
    OnlyListed n s (l.foldl f s) := by
  induction l generalizing s with
  | nil => exact .refl n s
  | cons x r ih => exact (hf s x).trans (ih _)

theorem onlyListed_setWslot {s : State} {n : Nat} {x : WSlot} (hx : x ≠ {}) (h : x.st = (s.wslot n).st) :
    OnlyListed n s (s.setWslot n x) := ⟨_, rfl, (congrArg WSlot.st (tget_tset_of_ne_default hx _ n)).trans h⟩

theorem onlyListed_listMissing (s : State) (n reason shard slice : Nat) : OnlyListed n s (listMissing s n reason shard slice) := by
  rw [listMissing]
  split
  · exact .refl n s
  · refine onlyListed_setWslot (fun h => ?_) rfl
    simpa using congrArg WSlot.missing h

theorem onlyListed_listUnfinished (s : State) (n : Nat) : OnlyListed n s (listUnfinished s n) := by
  refine onlyListed_foldl (fun s k => ?_) _ s
  split
  · exact onlyListed_foldl (fun s j => onlyListed_listMissing s n 3 k.shard j) _ s
  · exact .refl n s

/-- A session's end leaves its slot in the state given. -/
theorem setWslot_wstEnd_ends {s : State} {n r : Nat} {x : WSlot} (hx : x.st ≠ 0) :
    WstEnds (wstEnd (s.setWslot n x) r) s.wst.lastCmd s.wst.lastSlot r ∧ ((wstEnd (s.setWslot n x) r).wslot n).st = x.st ∧
    (wstEnd (s.setWslot n x) r).wst.mem = s.wst.mem := by
  have hne : x ≠ {} := fun h => hx (by rw [h])
  refine ⟨wstEnds_wstEnd _ r, (congrArg WSlot.st (wstEnd_wslot _ r n)).trans ?_, by rw [wstEnd_wst]; rfl⟩
  exact congrArg WSlot.st (tget_tset_of_ne_default hne s.wst.slots n)

/-- An install that is stopped leaves its slot incomplete. -/
theorem stopSession_ends {s : State} (r : Nat) (hst : (s.wslot s.wst.lastSlot).st = 2) :
    WstEnds (stopSession s r) s.wst.lastCmd s.wst.lastSlot r ∧ ((stopSession s r).wslot s.wst.lastSlot).st = 4 := by
  obtain ⟨l, hl, -⟩ := onlyListed_listUnfinished s s.wst.lastSlot
  generalize hx : State.wslot { s with wst := { s.wst with slots := l } } s.wst.lastSlot = x
  have hstop : stopSession s r = wstEnd (State.setWslot { s with wst := { s.wst with slots := l } } s.wst.lastSlot
      { x with st := 4 }) r := by rw [stopSession, if_pos hst, hl, ← hx]
  obtain ⟨hends, hst', -⟩ := setWslot_wstEnd_ends (s := { s with wst := { s.wst with slots := l } }) (n := s.wst.lastSlot) (r := r)
    (x := { x with st := 4 }) (Nat.succ_ne_zero 3)
  rw [hstop]
  exact ⟨hends, hst'⟩

/-- The last controller gives its shard up: the session ends, and an install's slot is incomplete. -/
theorem sessionEnd_abandon {s : State} {k : ShardCtl} (failing : List (Nat × Nat)) (hk : s.wst.ctls = [k]) (hcmd : s.wst.lastCmd = 1)
    (hst : (s.wslot s.wst.lastSlot).st = 2) :
    WstEnds (sessionEnd (abandon s k failing)) 1 s.wst.lastSlot 0xA ∧
    ((sessionEnd (abandon s k failing)).wslot s.wst.lastSlot).st = 4 ∧
    (sessionEnd (abandon s k failing)).wst.mem = s.wst.mem := by
  have hne : s.wslot s.wst.lastSlot ≠ {} := fun h => by simp [h] at hst
  obtain ⟨l, hl, hlst⟩ : ∃ l, abandon s k failing = { s with wst := { s.wst with slots := l, ctls := [{ k with st := 2 }] } } ∧
      (tget {} l s.wst.lastSlot).st = 2 := by
    rw [abandon]
    dsimp only
    rw [if_neg (by simp [hcmd])]
    generalize failing ++ _ = all
    obtain ⟨l, hl, hlst⟩ := (onlyListed_setWslot hne rfl).trans (onlyListed_foldl
      (fun s' f => onlyListed_listMissing s' s.wst.lastSlot f.2 k.shard f.1) all
      (s.setWslot s.wst.lastSlot (s.wslot s.wst.lastSlot)))
    rw [hl] at hlst
    refine ⟨l, ?_, hlst.trans hst⟩
    rw [hl, setCtl]
    simp [hk]
  have hend : sessionEnd (abandon s k failing) = wstEnd (State.setWslot
      { s with wst := { s.wst with slots := l, ctls := [{ k with st := 2 }] } } s.wst.lastSlot
      { tget {} l s.wst.lastSlot with st := 4 }) 0xA := by
    rw [hl, sessionEnd, if_neg (by simp)]
    dsimp only [State.wslot]
    rw [if_pos hlst]
    rfl
  rw [hend, ← hcmd]
  exact setWslot_wstEnd_ends (Nat.succ_ne_zero 3)

theorem fetched_frame (s : State) (k : ShardCtl) (n : Nat) : ∃ q, fetched s k n = { s with host := { s.host with qps := q } } := by
  rw [fetched]
  split
  · exact ⟨_, rfl⟩
  · exact ⟨_, rfl⟩

/-- A slice that is not the last: its pages are programmed, and the controller goes on. -/
theorem takeSlice_goesOn {s : State} {k : ShardCtl} {j j2 : Nat} {r : List Nat} {d pages : List Byte} (hk : s.wst.ctls = [k])
    (htodo : k.todo = j :: j2 :: r) (hcmd : s.wst.lastCmd = 1) (hsub : s.wst.subCmd = none)
    (hst : (s.wslot s.wst.lastSlot).st = 2) :
    (takeSlice s k j d pages).wst.ctls = [{ k with todo := j2 :: r, bytes := k.bytes ++ d }] ∧
    (takeSlice s k j d pages).wst.bytes = s.wst.bytes + 4096 * ((s.wslot s.wst.lastSlot).man.slices.getD j {}).npages ∧
    ((takeSlice s k j d pages).wslot s.wst.lastSlot).st = 2 ∧
    (takeSlice s k j d pages).plane.sram = s.plane.sram ∧ (takeSlice s k j d pages).plane.cores = s.plane.cores := by
  obtain ⟨s1, hs1, heq⟩ : ∃ s1, Programs s s1 ∧ takeSlice s k j d pages = setCtl
      { clearMissing s1 s.wst.lastSlot j with wst := { (clearMissing s1 s.wst.lastSlot j).wst with
        bytes := (clearMissing s1 s.wst.lastSlot j).wst.bytes + 4096 * ((s.wslot s.wst.lastSlot).man.slices.getD j {}).npages } }
      { k with todo := j2 :: r, bytes := k.bytes ++ d } := by
    have h5 : ¬ s.wst.lastCmd = 5 := by omega
    simp only [takeSlice, h5, reduceIte]
    generalize pclOfL s _ = o
    cases o with
    | none => exact ⟨s, .refl s, by simp [htodo]⟩
    | some pcl =>
      let x := s.wslot s.wst.lastSlot
      let h := x.man.shards.getD k.shard {}
      let e := x.man.slices.getD j {}
      refine ⟨writePages s pcl h.wafer (x.base.getD h.wafer 0 + e.page) e.npages pages, programs_writePages .., ?_⟩
      simp only [htodo, List.drop_succ_cons, List.drop_zero, List.isEmpty_cons, Bool.not_true, Bool.false_eq_true, reduceIte]
      rfl
  obtain ⟨-, hctls, hbytes, -, hslots⟩ := hs1.session hsub
  have hx : (s1.wslot s.wst.lastSlot).st = 2 := (hslots _).trans hst
  rw [heq]
  refine ⟨?_, congrArg (· + _) hbytes, ?_, hs1.sram, hs1.cores⟩
  · show List.map _ s1.wst.ctls = _
    simp [hctls, hk]
  · have hne : ¬ ((s1.wslot s.wst.lastSlot).st = 5 ∧ ((s1.wslot s.wst.lastSlot).missing.filter fun e => e.slice != j).isEmpty) := by
      rw [hx]
      omega
    have hclear : clearMissing s1 s.wst.lastSlot j = s1.setWslot s.wst.lastSlot { s1.wslot s.wst.lastSlot with
        missing := (s1.wslot s.wst.lastSlot).missing.filter fun e => e.slice != j } := by
      rw [clearMissing, if_neg hne]
    rw [hclear]
    refine (congrArg WSlot.st (tget_tset_of_ne_default (fun h => ?_) s1.wst.slots s.wst.lastSlot)).trans hx
    have := congrArg WSlot.st h
    simp [hx] at this

/-- A slice that is fetched again. -/
theorem refetch_again {s : State} {k : ShardCtl} (slice reason : Nat) (hk : s.wst.ctls = [k]) (h4 : k.refetch < 4) :
    (refetch s k slice reason).wst.ctls = [{ k with refetch := k.refetch + 1 }] ∧ (refetch s k slice reason).wst.mem = s.wst.mem := by
  rw [refetch, if_neg (by omega)]
  refine ⟨?_, rfl⟩
  show List.map _ s.wst.ctls = _
  simp [hk]

/-- Settles O39: the one controller is found by its shard and its try; an abort stops the session, a good slice is taken, a bad
one fetched again, and a fifth failure gives the shard up. -/
theorem weightStoreSessions : Obligations.WeightStoreSessions := by
  unfold Obligations.WeightStoreSessions
  intro s k j j2 r hok hk hkst htodo hcmd hsub hruns n x e hx
  have hw : twf ({} : WSlot) s.wst.slots = true := by simp only [tablesOk, Bool.and_eq_true] at hok; tauto
  obtain ⟨hbusy, hpwr⟩ : s.wst.busy = true ∧ s.pwr.state = 5 := by
    simp only [sessionRuns, Bool.and_eq_true, beq_iff_eq] at hruns
    tauto
  have hfind (att : Nat) : (s.wst.ctls.find? fun y => y.shard == k.shard && y.st == 0 && y.refetch == att) =
      if k.refetch = att then some k else none := by
    by_cases h : k.refetch = att <;> simp [hk, hkst, h]
  have hfind' : (s.wst.ctls.find? fun y => y.shard == k.shard && y.st == 0) = some k := by simp [hk, hkst]
  have hbad (d : List Byte) (hd : sha512 d ≠ e.digest) : ∃ q, exec (.sliceFetchComplete k.shard ⟨k.refetch, some d⟩) s =
      .next (refetch { s with host := { s.host with qps := q } } k j 1) := by
    obtain ⟨q, hq⟩ := fetched_frame s k d.length
    refine ⟨q, ?_⟩
    rw [exec_sliceFetchComplete, execSliceFetchComplete, hfind, if_pos rfl]
    simp only [hruns, Bool.not_true, Bool.false_eq_true, reduceIte, htodo, hq]
    exact if_pos (.inr hd)
  have hgood (d pages : List Byte) (hlen : d.length = e.slen) (hd : sha512 d = e.digest)
      (hlay : layForm (x.man.shards.getD k.shard {}).form e d = some pages) :
      ∃ q, exec (.sliceFetchComplete k.shard ⟨k.refetch, some d⟩) s =
        .next (takeSlice { s with host := { s.host with qps := q } } k j d pages) := by
    obtain ⟨q, hq⟩ := fetched_frame s k d.length
    refine ⟨q, ?_⟩
    rw [exec_sliceFetchComplete, execSliceFetchComplete, hfind, if_pos rfl]
    simp only [hruns, Bool.not_true, Bool.false_eq_true, reduceIte, htodo, hq]
    refine (if_neg (not_or.2 ⟨not_not.2 hlen, not_not.2 hd⟩)).trans ?_
    simp only [State.wslot, x, n, e] at hlay ⊢
    rw [hlay]
  have htime : exec (.shardFetchTimeout k.shard) s = .next (refetch s k j 2) := by
    simp only [exec_shardFetchTimeout, execShardFetchTimeout, hfind', hruns, reduceIte, htodo, List.headD_cons]
  refine ⟨?_, fun d pages hlen hd hlay => ?_, fun att d hatt => ?_, fun h4 d hd => ?_, fun h4 => ?_, fun h4 => ?_,
    fun m hm hmn hst => ?_⟩
  · have habort : abortSession s = stopSession s 0xC := by
      rw [abortSession, if_neg (by simp [hcmd]), if_pos hpwr]
    refine ⟨stopSession s 0xC, ?_, ?_⟩
    · rw [exec_wstAbort, execWstAbort, if_pos ⟨hbusy, by omega⟩, habort]
    · have hends := stopSession_ends 0xC hx
      rwa [hcmd] at hends
  · obtain ⟨q, hexec⟩ := hgood d pages hlen hd hlay
    exact ⟨_, hexec, takeSlice_goesOn (s := { s with host := { s.host with qps := q } }) hk htodo hcmd hsub hx⟩
  · rw [exec_sliceFetchComplete, execSliceFetchComplete, hfind, if_neg (fun h => hatt h.symm)]
  · obtain ⟨q, hexec⟩ := hbad d hd
    exact ⟨_, hexec, refetch_again (s := { s with host := { s.host with qps := q } }) j 1 hk h4⟩
  · exact ⟨_, htime, refetch_again j 2 hk h4⟩
  · refine ⟨_, htime, ?_⟩
    rw [refetch, if_pos h4]
    exact sessionEnd_abandon [(j, 2)] hk hcmd hx
  · have hmine : (s.wst.busy && s.wst.lastCmd == 4 && s.wst.lastSlot == m) = false := by simp [hcmd]
    refine ⟨s.setWslot m {}, ?_, wslot_setWslot hw, wslot_setWslot_ne hw hmn.symm, hbusy⟩
    rw [exec_slotEraseComplete, execSlotEraseComplete]
    simp only [hmine, hst, Bool.false_and, Bool.false_eq_true, ne_eq, not_true_eq_false, or_self, reduceIte]

end Sys2Proof.Proofs
end

section
/-! PROOFS. Remaps, scrubs and field substitutions of the weight store. -/
namespace Sys2Proof.Proofs
open Sys2Proof Sys2Proof.Machine Sys2Proof.Safety Sys2Proof.Laws

/-! ### Remaps -/

/-- Fixing the places of commands changes only the commands of the weight ports. -/
theorem fixPlaces_frame (s : State) : ∃ w, fixPlaces s = { s with plane := { s.plane with wlds := w } } := by
  rw [fixPlaces]
  generalize (s.plane.wlds.map fun x => (x.pcl, x.wafer)).eraseDups = l
  induction l generalizing s with
  | nil => exact ⟨_, rfl⟩
  | cons p r ih =>
    obtain ⟨w, hw⟩ := ih (startWlds s p.1 p.2)
    exact ⟨w, hw⟩

theorem pagePlace_of_remap {s : State} {t : Table (Option Nat)} {pcl w page q : Nat}
    (h : s.wst.remap = tset none t (pageKey pcl w page) (some q)) : pagePlace s pcl w page = q := by
  rw [pagePlace, h, tget_tset_of_ne_default (Option.some_ne_none q)]
  rfl

/-! ### Wear below the limit -/

/-- Blocks that have not been programmed before are counted once each, and none is retired. -/
theorem wearBlocks_fresh {n : Nat} {l : List Nat} {s : State} (hl : l.Nodup) (hn : l.length ≤ n) (hw : ∀ b ∈ l, tget 0 s.wst.wear b = 0) :
    ∃ w, wearBlocks n s l = { s with wst := { s.wst with wear := w } } := by
  induction l generalizing n s with
  | nil => exact ⟨_, wearBlocks_nil n s⟩
  | cons b r ih =>
    obtain ⟨n, rfl⟩ : ∃ m, n = m + 1 := ⟨n - 1, by simp at hn; omega⟩
    have hb := hw b List.mem_cons_self
    obtain ⟨hbr, hr⟩ := List.nodup_cons.1 hl
    rw [wearBlocks_cons, hb, if_neg (by decide), if_pos (by decide)]
    refine ih (s := wornState s b) hr (by simpa using hn) fun c hc => ?_
    have hcb : c ≠ b := fun h => hbr (h ▸ hc)
    exact (tget_tset_ne_of_ne_default (Nat.succ_ne_zero _) _ hcb).trans (hw c (List.mem_cons_of_mem b hc))

theorem nodup_eraseDups (l : List Nat) : l.eraseDups.Nodup := by
  induction hn : l.length using Nat.strong_induction_on generalizing l with
  | _ n ih =>
    cases l with
    | nil => simp
    | cons a r =>
      rw [List.eraseDups_cons, List.nodup_cons]
      refine ⟨by simp [List.mem_eraseDups], ih _ ?_ _ rfl⟩
      have := List.length_filter_le (fun b => !b == a) r
      simp at hn
      omega

theorem wearPlaces_fresh {s : State} (l : List Nat) (hw : s.wst.wear = []) :
    ∃ w, wearPlaces s l = { s with wst := { s.wst with wear := w } } :=
  wearBlocks_fresh (nodup_eraseDups _) (Nat.le_add_right _ _) fun b _ => by rw [hw]; rfl

/-! ### Scrub -/

theorem takeSpare_fresh {s : State} {pcl w : Nat} (hwear : s.wst.wear = []) (hn : tget 0 s.wst.spareUsed (4 * pcl + w) < sparePages) :
    takeSpare s pcl w = (some (pageKey pcl w (addrPages + tget 0 s.wst.spareUsed (4 * pcl + w))),
      { s with wst := { s.wst with spareUsed := tset 0 s.wst.spareUsed (4 * pcl + w) (tget 0 s.wst.spareUsed (4 * pcl + w) + 1) } }) := by
  have hlive : liveSpare s (4 * pcl + w) 512 (tget 0 s.wst.spareUsed (4 * pcl + w)) = tget 0 s.wst.spareUsed (4 * pcl + w) := by
    rw [liveSpare, hwear]
    exact if_pos (Nat.zero_lt_succ 9999)
  simp only [takeSpare, hlive]
  exact if_neg (by omega)

/-- The next unused spare page of a weight port. -/
def spareAt (s : State) (pcl w : Nat) : Nat := pageKey pcl w (addrPages + tget 0 s.wst.spareUsed (4 * pcl + w))

/-- The state after a page with content d moved to the next spare page. -/
def movedPage (s : State) (pcl w page : Nat) (d : List Byte) (c : List WldCmd) : State :=
  { s with
    plane := { s.plane with wlds := c }
    wst := { s.wst with
      mem := mwrite s.wst.mem (4096 * spareAt s pcl w) d
      spareUsed := tset 0 s.wst.spareUsed (4 * pcl + w) (tget 0 s.wst.spareUsed (4 * pcl + w) + 1)
      remap := tset none s.wst.remap (pageKey pcl w page) (some (spareAt s pcl w))
      retired := s.wst.retired + 1 } }

/-- A page that moves while spare pages are left and no block is worn. -/
theorem movePage_fresh {s : State} {pcl w page : Nat} {d : List Byte} (hd : pageRead s (pagePlace s pcl w page) = d)
    (hwear : s.wst.wear = []) (hn : tget 0 s.wst.spareUsed (4 * pcl + w) < sparePages) :
    ∃ c, movePage s pcl w page = (some (spareAt s pcl w / 256), movedPage s pcl w page d c) := by
  have hlen : d.take 4096 = d := List.take_of_length_le (hd ▸ (mread_length _ _ _).le)
  rw [movePage, hd]
  dsimp only
  rw [takeSpare_fresh hwear hn]
  obtain ⟨c, hc⟩ := fixPlaces_frame { s with wst := { s.wst with
    spareUsed := tset 0 s.wst.spareUsed (4 * pcl + w) (tget 0 s.wst.spareUsed (4 * pcl + w) + 1) } }
  refine ⟨c, ?_⟩
  dsimp only
  rw [hc, pageWrite, hlen]
  rfl

theorem refreshPage_fresh {s : State} {pcl w page : Nat} {d : List Byte} (hd : pageRead s (pagePlace s pcl w page) = d)
    (hwear : s.wst.wear = []) (hn : tget 0 s.wst.spareUsed (4 * pcl + w) < sparePages) :
    ∃ c e r q, refreshPage s pcl w page = { movedPage s pcl w page d c with wst := { (movedPage s pcl w page d c).wst with
      wear := e, refresh := min 65535 (s.wst.refresh + 1), reads := r, refreshQ := q } } := by
  obtain ⟨c, hmove⟩ := movePage_fresh hd hwear hn
  obtain ⟨e, he⟩ := wearBlocks_fresh (n := 512) (l := [spareAt s pcl w / 256]) (s := movedPage s pcl w page d c)
    (List.nodup_singleton _) (Nat.le_add_left 1 511) fun b _ => by show tget 0 s.wst.wear b = 0; rw [hwear]; rfl
  refine ⟨c, e, tset 0 s.wst.reads (pagePlace s pcl w page / 256) 0, s.wst.refreshQ.filter (· != pageKey pcl w page), ?_⟩
  rw [refreshPage, hmove]
  dsimp only
  rw [he]
  rfl

/-- A refreshed page stands at a spare page with its content. -/
theorem refreshPage_moves {s : State} {pcl w : Nat} (page : Nat) (hm : memWf s.wst.mem = true) (hwear : s.wst.wear = [])
    (hn : tget 0 s.wst.spareUsed (4 * pcl + w) < sparePages) :
    pageRead (refreshPage s pcl w page) (pagePlace (refreshPage s pcl w page) pcl w page) = pageRead s (pagePlace s pcl w page) ∧
    (refreshPage s pcl w page).wst.refresh = min 65535 (s.wst.refresh + 1) ∧
    (refreshPage s pcl w page).plane.sram = s.plane.sram ∧ (refreshPage s pcl w page).plane.cores = s.plane.cores := by
  have hlen : (pageRead s (pagePlace s pcl w page)).length = 4096 := mread_length _ _ _
  generalize hd : pageRead s (pagePlace s pcl w page) = d at hlen ⊢
  obtain ⟨c, e, r, q, ht⟩ := refreshPage_fresh hd hwear hn
  rw [ht]
  refine ⟨?_, rfl, rfl, rfl⟩
  have hplace : ∀ u : State, u.wst.remap = tset none s.wst.remap (pageKey pcl w page) (some (spareAt s pcl w)) →
      u.wst.mem = mwrite s.wst.mem (4096 * spareAt s pcl w) d → pageRead u (pagePlace u pcl w page) = d := by
    intro u hu hmem
    rw [pagePlace_of_remap hu, pageRead, hmem, ← hlen, mread_mwrite_same hm]
  exact hplace _ rfl rfl

theorem countRead_wst (s : State) (place : Nat) : ∃ h, countRead s place = { s with wst := { s.wst with
    reads := tset 0 s.wst.reads (place / 256) (tget 0 s.wst.reads (place / 256) + 1), hot := h } } := by
  rw [countRead]
  dsimp only
  split
  · exact ⟨_, rfl⟩
  · exact ⟨_, rfl⟩

/-- The state after scrub has read a good page. -/
def scrubbed (s : State) (pcl w page e : Nat) (h : List (Nat × Nat)) (v : Table Nat) : State :=
  { s with wst := { s.wst with
      deliv := v
      reads := tset 0 s.wst.reads (pagePlace s pcl w page / 256) (tget 0 s.wst.reads (pagePlace s pcl w page / 256) + 1)
      hot := h, reread := e } }

/-- A scrub that may read its page, with no page queued for a refresh: a good page is only counted, a weak one refreshed. -/
theorem weightScrub_good {s : State} {pcl w page l : Nat} (hl : lclOf s pcl = some l)
    (hguard : ¬ (gradeWt s ≤ w ∨ addrPages ≤ page ∨ s.pwr.state < 4 ∨
      ((slotOfPage s l w page).isNone ∧ !(s.wst.hot.any fun e => e.1 == pagePlace s pcl w page)) ∨ !lendsChannel s pcl w))
    (hq : s.wst.refreshQ = []) :
    ∃ u, (∃ e h v, u = scrubbed s pcl w page e h v) ∧ ∀ weak, exec (.weightScrub w pcl page { weak := weak }) s =
      .next (if weak then refreshPage u pcl w page else u) := by
  obtain ⟨h, hread⟩ := countRead_wst { s with wst := { s.wst with
    deliv := tset 0 s.wst.deliv (4 * pcl + w) 0, hot := s.wst.hot.filter fun e => e.1 != pagePlace s pcl w page } }
    (pagePlace s pcl w page)
  refine ⟨scrubbed s pcl w page (satAdd 65535 s.wst.reread 0) h (tset 0 s.wst.deliv (4 * pcl + w) 0), ⟨_, _, _, rfl⟩, fun weak => ?_⟩
  have hnote : noteRead (countRead { s with wst := { s.wst with
      deliv := tset 0 s.wst.deliv (4 * pcl + w) 0, hot := s.wst.hot.filter fun e => e.1 != pagePlace s pcl w page } }
      (pagePlace s pcl w page)) (pageKey pcl w page) { weak := weak } =
      scrubbed s pcl w page (satAdd 65535 s.wst.reread 0) h (tset 0 s.wst.deliv (4 * pcl + w) 0) := by
    rw [hread, noteRead]
    simp only [pageTries, hq]
    simp [scrubbed, b2n, hq]
  rw [exec_weightScrub, execWeightScrub]
  simp only [hl]
  rw [if_neg hguard, hnote]
  have hkey : (scrubbed s pcl w page (satAdd 65535 s.wst.reread 0) h (tset 0 s.wst.deliv (4 * pcl + w) 0)).wst.refreshQ.contains
      (pageKey pcl w page) = false := by simp [scrubbed, hq]
  rw [if_neg (by decide), hkey]
  cases weak with
  | false => exact if_neg (by decide)
  | true => exact if_pos (.inl rfl)

/-- Remaps and scrubs. -/
theorem remapsAndScrubs : RemapsAndScrubs := by
  intro s hok
  have hm : memWf s.wst.mem = true := by simp only [memOk, Bool.and_eq_true] at hok; tauto
  refine ⟨fun h8 => ?_, fun pcl w page place h8 hnew => ?_,
    fun pcl w page l hw hpage hl hpwr hslot hlend hq hwear => ?_⟩
  · rw [exec_remapApply, execRemapApply, if_pos (running_iff.2 h8)]
  · obtain ⟨c, hc⟩ := fixPlaces_frame s
    refine ⟨applyRemaps s, by rw [exec_remapApply, execRemapApply, if_neg fun h => h8 (running_iff.1 h)], ?_⟩
    have happly : applyRemaps s = { s with
        plane := { s.plane with wlds := c }
        wst := { s.wst with
          remap := tset none s.wst.remap (pageKey pcl w page) (some place)
          newRemap := [] } } := by
      rw [applyRemaps, hc]
      simp only [hnew, List.foldl_cons, List.foldl_nil]
    rw [happly]
    exact ⟨pagePlace_of_remap rfl, rfl, rfl, rfl⟩
  · have hpages : ¬ addrPages ≤ page := by show ¬ 8388608 ≤ page; omega
    have hguard : ¬ (gradeWt s ≤ w ∨ addrPages ≤ page ∨ s.pwr.state < 4 ∨
        ((slotOfPage s l w page).isNone ∧ !(s.wst.hot.any fun e => e.1 == pagePlace s pcl w page)) ∨ !lendsChannel s pcl w) := by
      have hsome : (slotOfPage s l w page).isNone = false := by simpa [Option.isSome_iff_ne_none] using hslot
      simp only [hsome, hlend, Bool.not_true, Bool.false_eq_true, false_and, or_false]
      omega
    obtain ⟨u, hu, hexec⟩ := weightScrub_good hl hguard hq
    obtain ⟨e, h, v, rfl⟩ := hu
    refine ⟨⟨_, hexec false, rfl, rfl, tget_tset_of_ne_default (Nat.succ_ne_zero _) _ _, rfl⟩, fun hn => ⟨_, hexec true, ?_⟩⟩
    exact refreshPage_moves (s := scrubbed s pcl w page e h v) page hm hwear hn

/-! ### Substitutions -/

theorem tget_filter_from {α : Type} [DecidableEq α] {d : α} {p : Nat → Bool} {lo : Nat} {t : Table α} (h : twfFrom d lo t = true)
    (k : Nat) : tget d (t.filter fun e => p e.1) k = if p k then tget d t k else d := by
  induction t generalizing lo with
  | nil => simp [tget]
  | cons e r ih =>
    obtain ⟨j, w⟩ := e
    obtain ⟨-, -, hr⟩ := twfFrom_cons.1 h
    have hbelow (hk : k ≤ j) : tget d r k = d := tget_below hr (Nat.lt_succ_of_le hk)
    rcases lt_trichotomy k j with hk | rfl | hk
    · by_cases hp : p j <;> simp [hp, tget, hk, ih hr, hbelow hk.le]
    · by_cases hp : p k <;> simp [hp, tget, ih hr]
    · by_cases hp : p j <;> simp [hp, tget, hk.ne', hk.not_gt, ih hr]

/-- A cleared range holds zeros. -/
theorem mget_mclear_in {m : List Host.Cell} {lo hi x : Nat} (h : memWf m = true) (h1 : lo ≤ x) (h2 : x < hi) :
    mget (mclear m lo hi) x = 0 := by
  rw [mget, mclear, tget_filter_from (p := fun a => decide (a < lo) || decide (hi ≤ a)) (lo := 0) h]
  exact if_neg (by simp; omega)

/-- Cells of a memory carried to other addresses: each destination holds what its source held. -/
theorem mget_carried {p : Nat → Bool} {g : Nat → Nat} {x : Nat} (hg : ∀ a, p a → g a = g x → a = x) (hx : p x) {m : List Host.Cell}
    {lo : Nat} (h : twfFrom (0 : Byte) lo m = true) {m0 : List Host.Cell} (h0 : memWf m0 = true) :
    mget ((m.filterMap fun c => if p c.1 then some (g c.1, c.2) else none).foldl (fun m c => mset m c.1 c.2) m0) (g x) =
      if mget m x = 0 then mget m0 (g x) else mget m x := by
  induction m generalizing lo m0 with
  | nil => simp [mget, tget]
  | cons c r ih =>
    obtain ⟨a, b⟩ := c
    obtain ⟨-, hb, hr⟩ := twfFrom_cons.1 h
    have hbelow (hk : x ≤ a) : mget r x = 0 := tget_below hr (Nat.lt_succ_of_le hk)
    have hhead : mget ((a, b) :: r) x = if x = a then b else mget r x := by
      rcases lt_trichotomy x a with hk | rfl | hk
      · simp [mget, tget, hk, hk.ne]
        exact (hbelow hk.le).symm
      · simp [mget, tget]
      · simp [mget, tget, hk.ne', hk.not_gt]
    rw [hhead]
    by_cases hp : p a
    · rw [List.filterMap_cons_some (b := (g a, b)) (by simp [hp]), List.foldl_cons, ih hr (memWf_mset h0)]
      by_cases hxa : x = a
      · subst hxa
        rw [if_pos rfl, hbelow le_rfl, if_pos rfl, mget_mset h0, if_neg hb]
      · rw [if_neg hxa, mget_mset_ne h0 fun h => hxa (hg a hp h.symm).symm]
    · rw [List.filterMap_cons_none (by simp [hp]), ih hr h0, if_neg fun h : x = a => hp (h ▸ hx)]

/-- KV storage after the copy of a substitution. -/
def copiedKv (s : State) (x : Subst) : List Host.Cell :=
  (kvCopyCells s x).foldl (fun m c => mset m c.1 c.2)
    (mclear s.kv.mem (tileBase (12 * x.spare) 0) (tileBase (12 * x.spare + 12) 0))

/-- The copy of KV storage: the spare's tiles hold what the lost field's held. -/
theorem mget_copiedKv {s : State} {x : Subst} (hm : memWf s.kv.mem = true) {k w a : Nat} (hk : k < 12) (hw : w < 2) (ha : a < 2 ^ 32) :
    mget (copiedKv s x) (tileBase (12 * x.spare + k) w + a) = mget s.kv.mem (tileBase (12 * x.lost + k) w + a) := by
  let p (a : Nat) : Bool := decide (a / 2 ^ 32 / 2 / 12 = x.lost)
  let g (a : Nat) : Nat := tileBase (12 * x.spare + a / 2 ^ 32 / 2 % 12) (a / 2 ^ 32 % 2) + a % 2 ^ 32
  have hcells : kvCopyCells s x = s.kv.mem.filterMap fun c => if p c.1 then some (g c.1, c.2) else none := by
    simp only [kvCopyCells, p, g, decide_eq_true_eq]
  have hsrc : p (tileBase (12 * x.lost + k) w + a) = true := by simp only [p, tileBase, decide_eq_true_eq]; omega
  have hdst : g (tileBase (12 * x.lost + k) w + a) = tileBase (12 * x.spare + k) w + a := by simp only [g, tileBase]; omega
  have hinj : ∀ b, p b → g b = g (tileBase (12 * x.lost + k) w + a) → b = tileBase (12 * x.lost + k) w + a := by
    intro b hb hgb
    rw [hdst] at hgb
    simp only [p, decide_eq_true_eq] at hb
    simp only [g, tileBase] at hgb ⊢
    omega
  rw [copiedKv, hcells, ← hdst, mget_carried hinj hsrc hm (memWf_mclear hm), hdst]
  split
  · next h0 =>
    rw [h0]
    exact mget_mclear_in hm (by simp only [tileBase]; omega) (by simp only [tileBase]; omega)
  · rfl

/-- A copy that meets no unreadable page or line, and no worn block. -/
theorem copyField_good {s : State} (x : Subst) (hwear : s.wst.wear = []) :
    ∃ m n w c, copyField s x {} {} = { s with
      wst := { s.wst with mem := m, corrBits := n, wear := w }
      kv := { s.kv with mem := copiedKv s x, corr := c } } := by
  simp only [copyField, List.filter_nil, List.foldl_nil, listBadPages]
  generalize lateralPlaces _ = l
  generalize List.foldl _ (clearSpare s x) _ = m
  obtain ⟨w, hw⟩ := wearPlaces_fresh (s := { s with
    wst := { s.wst with mem := m, corrBits := s.wst.corrBits + 0 }
    kv := { s.kv with mem := copiedKv s x, corr := satAdd (2 ^ 32 - 1) s.kv.corr 0 } }) l hwear
  exact ⟨m, s.wst.corrBits + 0, w, satAdd (2 ^ 32 - 1) s.kv.corr 0, hw⟩

theorem startSubst_idle {s : State} (hf : s.wst.fenced = []) : startSubst s = s := by
  rw [startSubst, hf]
  cases s.wst.sub <;> rfl

/-- t is s but for the host side and the output. -/
def OnlyOwnerEvent (s t : State) : Prop := ∃ h o, t = { s with host := h, out := o }

theorem ownerEvent_host (s : State) (c r v : Nat) (g : BitVec 64) : ownerEvent s c r v g = { s with
    host := (ownerEvent s c r v g).host, out := (ownerEvent s c r v g).out } := by rw [ownerEvent_frame]

/-- Field substitutions. -/
theorem substitutionsReplaceFields : SubstitutionsReplaceFields := by
  intro s hok
  have hm : memWf s.kv.mem = true := by simp only [memOk, Bool.and_eq_true] at hok; tauto
  refine ⟨fun lf lost rest sp sps hauto hready hsub hf hsp hlost => ?_, fun x hsub hpwr hload hf hcmd hwear hne => ?_⟩
  · rw [exec_fieldSubstitutionStart, execFieldSubstitutionStart, if_pos (by simp [hauto, hready]),
      startSubst_starts hsub hf hsp hlost]
  · obtain ⟨m, n, w, c, hcopy⟩ := copyField_good x hwear
    obtain ⟨u, hu, hexec⟩ : ∃ u, OnlyOwnerEvent (standIn { copyField s x {} {} with
          wst := { (copyField s x {} {}).wst with sub := none } } x.lfield x.spare) u ∧
        exec (.substitutionCopyEnd {} {}) s = .next u := by
      refine ⟨_, ⟨_, _, ownerEvent_host _ 5 0 x.lfield (BitVec.ofNat 64 x.spare)⟩, ?_⟩
      rw [exec_substitutionCopyEnd, execSubstitutionCopyEnd, hsub]
      dsimp only
      rw [if_neg (by simp [hpwr, hload])]
      have hsub2 : ∀ v : State, v.wst.subCmd = none → v.wst.fenced = [] →
          (let v1 := if v.wst.subCmd = some x.lfield then wstEnd v 0 else v
           if v1.wst.subCmd.isSome || v1.wst.autoSub then startSubst v1 else v1) = v := by
        intro v hv hvf
        have hv1 : (if v.wst.subCmd = some x.lfield then wstEnd v 0 else v) = v := if_neg (by simp [hv])
        rw [hv1]
        exact ite_eq_right_iff.2 fun _ => startSubst_idle hvf
      refine congrArg _ (hsub2 _ ?_ ?_)
      · rw [ownerEvent_frame, hcopy]; exact hcmd
      · rw [ownerEvent_frame, hcopy]; exact hf
    obtain ⟨h, o, rfl⟩ := hu
    refine ⟨_, hexec, rfl, ?_, ?_, ?_⟩
    · rw [hcopy]; rfl
    · rw [hcopy]; rfl
    · rw [hcopy]; exact fun k w a hk hw ha => mget_copiedKv hm hk hw ha

/-- Settles O40: both halves. -/
theorem pagesAndSubstitutions : Obligations.PagesAndSubstitutions := ⟨remapsAndScrubs, substitutionsReplaceFields⟩

end Sys2Proof.Proofs
end

section
/-! PROOFS. The KV store's configuration and its patrol scrub. -/
namespace Sys2Proof.Proofs
open Sys2Proof Sys2Proof.Machine Sys2Proof.Safety Sys2Proof.Laws

theorem kvApply_refused {s : State} (h : kvResult s (writtenKv s) ≠ 0) :
    kvApply s = { s with kv := { s.kv with result := kvResult s (writtenKv s) } } := if_neg h

theorem kvApply_accepted {s : State} (h : kvResult s (writtenKv s) = 0) :
    kvApply s = { kvScatter s (writtenKv s) with
      kv := { (kvScatter s (writtenKv s)).kv with app := writtenKv s, result := 0, pfx := [] }
      hub := { (kvScatter s (writtenKv s)).hub with adps := [] } } := if_pos h

/-- The scatter keeps the hub, and with KV wafers the plane too. -/
theorem kvScatter_keeps (s : State) (a : KvCfgA) :
    (kvScatter s a).hub = s.hub ∧ (0 < gradeKv s → (kvScatter s a).plane = s.plane) := by
  simp only [kvScatter]
  split
  · next h0 => exact ⟨rfl, fun h => absurd h0 h.ne'⟩
  · exact ⟨rfl, fun _ => rfl⟩

/-- Settles O41: an apply is refused or accepted by its checks, and a patrol scrub goes by the line's result. -/
theorem kvStoreCommands : Obligations.KvStoreCommands := by
  unfold Obligations.KvStoreCommands
  intro s
  refine ⟨fun h => ?_, fun h => ?_, fun h => ?_, fun line hline hgrade hpwr => ?_⟩
  · rw [exec_kvApply, execKvApply, kvApply_refused h]
  · obtain ⟨hhub, hplane⟩ := kvScatter_keeps s (writtenKv s)
    have happly := kvApply_accepted h
    refine ⟨kvApply s, by rw [exec_kvApply, execKvApply], ?_⟩
    rw [happly]
    exact ⟨rfl, rfl, rfl, rfl, (congrArg Hub.slots hhub :), hplane⟩
  · rw [kvResult, running_iff.2 h]
    rfl
  · have hguard : ¬ (1152 * 2 ^ 26 ≤ line ∨ gradeKv s ≤ line * 64 / 2 ^ 32 % 2) := by omega
    have hscrub (r : Nat) : exec (.kvPatrolScrub line r) s =
        if r = 0 then .next s else if r = 1 then .next (kvCorrected s 1) else .next (lineFault s line none) := by
      rw [exec_kvPatrolScrub, execKvPatrolScrub, if_neg hguard, if_neg (by omega)]
    exact ⟨hscrub 0, hscrub 1⟩

end Sys2Proof.Proofs
end

section
/-! PROOFS. The mailbox. -/
namespace Sys2Proof.Proofs
open Sys2Proof Sys2Proof.Machine Sys2Proof.Safety Sys2Proof.Laws

/-! ### Little-endian fields read back -/

theorem leBytes_ofLe (l : List Byte) : leBytes l.length (ofLe l) = l := by
  induction l with
  | nil => rfl
  | cons b r ih =>
    have hb := b.isLt
    have hdiv : (b.toNat + 256 * ofLe r) / 256 = ofLe r := by omega
    have hbyte : BitVec.ofNat 8 (b.toNat + 256 * ofLe r) = b := BitVec.eq_of_toNat_eq (by simp; omega)
    simp only [List.length_cons, leBytes, ofLe, hdiv, hbyte, ih]

theorem leBytes_succ_ofLe (l : List Byte) : leBytes (l.length + 1) (ofLe l) = l ++ [0] := by
  induction l with
  | nil => rfl
  | cons b r ih =>
    have hb := b.isLt
    have hdiv : (b.toNat + 256 * ofLe r) / 256 = ofLe r := by omega
    have hbyte : BitVec.ofNat 8 (b.toNat + 256 * ofLe r) = b := BitVec.eq_of_toNat_eq (by simp; omega)
    rw [List.length_cons, leBytes, ofLe, hdiv, hbyte, ih, List.cons_append]

/-- A field of a record, written again, is the field's bytes. -/
theorem leBytes_leAt {l : List Byte} {i n : Nat} (h : i + n ≤ l.length) : leBytes n (leAt l i n) = (l.drop i).take n := by
  have hlen : ((l.drop i).take n).length = n := by simp; omega
  rw [leAt]
  conv_lhs => rw [← hlen]
  rw [hlen]
  exact (congrArg (leBytes · _) hlen.symm).trans (leBytes_ofLe _)

theorem map_byteAt {l : List Byte} {i n : Nat} (h : i + n ≤ l.length) :
    ((List.range n).map fun j => byteAt l (j + i)) = (l.drop i).take n := by
  refine List.ext_getElem (by simp; omega) fun j h1 h2 => ?_
  simp only [List.length_map, List.length_range] at h1
  have hj : j + i < l.length := by omega
  simp [byteAt, hj, Nat.add_comm i j]

/-- A field one byte shorter than its place, where the last byte is zero. -/
theorem leBytes_leAt_zero {l : List Byte} {i n : Nat} (h : i + n < l.length) (h0 : leAt l (i + n) 1 = 0) :
    leBytes (n + 1) (leAt l i n) = (l.drop i).take (n + 1) := by
  have hlast : (l.drop (i + n)).take 1 = [0] := by rw [← leBytes_leAt (by omega), h0]; rfl
  have hlen : ((l.drop i).take n).length = n := by simp; omega
  have hsplit : (l.drop i).take (n + 1) = (l.drop i).take n ++ [0] := by rw [List.take_add, List.drop_drop, hlast]
  rw [hsplit, leAt, ← leBytes_succ_ofLe, hlen]

/-! ### Queue pair contexts (R360) -/

/-- Get QP returns the context that Set QP wrote. -/
theorem readQp_newQp {s : State} {c : List Byte} (h : ctxOk c = true) : readQp (newQp s c) = c := by
  obtain ⟨hlen, h15, h19⟩ : c.length = 64 ∧ leAt c 15 1 = 0 ∧ leAt c 19 1 = 0 := by
    simp only [ctxOk, Bool.and_eq_true, beq_iff_eq] at h
    tauto
  have hst : leBytes 1 (leAt c 0 1) = c.take 1 := (leBytes_leAt (by omega)).trans (by rw [List.drop_zero])
  have htail : (c.drop 20).take 44 = c.drop 20 := List.take_of_length_le (by simp; omega)
  have hjoin (i n : Nat) : c.take i ++ (c.drop i).take n = c.take (i + n) := List.take_add.symm
  simp only [readQp, newQp]
  rw [hst, map_byteAt (by omega), leBytes_leAt_zero (n := 3) (by omega) h15, leBytes_leAt_zero (n := 3) (by omega) h19,
    map_byteAt (by omega), htail, hjoin 1 11, hjoin 12 4, hjoin 16 4]
  exact List.take_append_drop 20 c

/-! ### The commands -/

theorem mboxEnd_out (s : State) (ret : Nat) (d : List Byte) : (mboxEnd s ret d).out = s.out ++ [.mbox ret d, .msix 0 1] := by
  simp [mboxEnd, State.emit]

theorem mboxEnd_setPort {s : State} {p : Nat} {x : FPort} (h : twf ({} : FPort) s.host.ports = true) :
    (mboxEnd (s.setPort p x) 0 []).port p = x ∧ ∀ y, y ≠ p → (mboxEnd (s.setPort p x) 0 []).port y = s.port y :=
  ⟨port_setPort h, fun _ hy => port_setPort_ne h hy⟩

theorem mboxRun_up {s : State} (f : State → State) (h : mboxUp s = true) : mboxRun s f = .next (f s) := by rw [mboxRun, if_pos h]

theorem mboxRun_down {s : State} (f : State → State) (h : mboxUp s = false) : mboxRun s f = .next s := by
  rw [mboxRun, if_neg (by simp [h])]

/-- Settles O47: every command goes through `mboxRun`, which answers only while the mailbox is up, and ends with `mboxEnd`. -/
theorem mailboxAnswers : Obligations.MailboxAnswers := by
  unfold Obligations.MailboxAnswers
  intro s qp ctx payload op v off len hok ends n
  obtain ⟨hqps, hports⟩ : twf ({} : Qp) s.host.qps = true ∧ twf ({} : FPort) s.host.ports = true := by
    simp only [tablesOk, Bool.and_eq_true] at hok; tauto
  refine ⟨fun ret d => ?_, fun hdown => ?_, fun hup => ?_⟩
  · simp [mboxEnd, mboxRegs, State.emit]
  · rw [exec_identify, execIdentify, exec_getTimestamp, execGetTimestamp, exec_setTimestamp, execSetTimestamp, exec_setQp, execSetQp,
      exec_getNonce, execGetNonce]
    exact ⟨mboxRun_down _ hdown, mboxRun_down _ hdown, mboxRun_down _ hdown, mboxRun_down _ hdown, mboxRun_down _ hdown⟩
  · have up (f : State → State) : mboxRun s f = .next (f s) := mboxRun_up f hup
    refine ⟨?_, fun h1 h2 => ?_, fun h1 h2 => ?_, ?_, ?_, fun h => ?_, fun h => ?_, ?_, ?_, fun hqp hctx => ⟨?_, ?_⟩,
      fun hctx => ?_, fun hqp => ?_, fun hp => ?_, fun hp => ?_, fun hop => ?_⟩
    · rw [exec_identify, execIdentify, up]
      rfl
    · rw [exec_getTimestamp, execGetTimestamp, up, mboxTime, if_pos ⟨h1, h2⟩]
      rfl
    · rw [exec_getTimestamp, execGetTimestamp, up, mboxTime, if_neg fun h => h1 h.1]
    · rw [exec_setTimestamp, execSetTimestamp, up]
    · rw [exec_getSupportedLogs, execGetSupportedLogs, up]
      rfl
    · rw [exec_getLog, execGetLog, up, if_pos (by simp [mboxOps, h])]
    · rw [exec_getLog, execGetLog, up, if_neg (by simp [mboxOps]; omega)]
    · rw [exec_getLog, execGetLog, up, if_neg (by simp)]
    · rw [exec_identifyMemoryDevice, execIdentifyMemoryDevice, up]
    · rw [exec_setQp, execSetQp, up, if_pos ⟨hqp, hctx⟩]
    · rw [exec_getQp, execGetQp, mboxRun_up (s := s.setQp qp (newQp s ctx)) _ hup, if_pos hqp, qp_setQp hqps, readQp_newQp hctx]
    · rw [exec_setQp, execSetQp, up, if_neg (by simp [hctx])]
    · rw [exec_getQp, execGetQp, up, if_neg (by omega)]
    · generalize hx : (if bit (leAt payload 0 1) 7 then { s.port (leAt payload 0 1 % 128) with addrU := payload }
        else { s.port (leAt payload 0 1 % 128) with addr := payload } : FPort) = x
      obtain ⟨hsame, hother⟩ := mboxEnd_setPort (x := x) (p := leAt payload 0 1 % 128) hports
      refine ⟨_, by rw [exec_setPortAddresses, execSetPortAddresses, up, if_pos hp, ← hx], fun h7 => ?_, fun h7 => ?_, hother, ?_⟩
      · rw [hsame, ← hx, if_neg (by simp [h7])]
      · rw [hsame, ← hx, if_pos h7]
      · rw [mboxEnd_out]
        rfl
    · rw [exec_setPortAddresses, execSetPortAddresses, up, if_neg (by simp [hp])]
    · rw [exec_unsupportedOpcode, execUnsupportedOpcode, if_neg (by simpa using hop), up]

end Sys2Proof.Proofs
end

section
/-! PROOFS. The security commands. -/
namespace Sys2Proof.Proofs
open Sys2Proof Sys2Proof.Machine Sys2Proof.Safety Sys2Proof.Laws

/-! ### Runs of exact length -/

theorem fitTo_length (n : Nat) (d : List Byte) : (fitTo n d).length = n := by simp [fitTo]

/-- A part of a run of exact length is the same part of its source. -/
theorem drop_take_fitTo {i k n : Nat} {d : List Byte} (hn : i + k ≤ n) (hd : i + k ≤ d.length) :
    ((fitTo n d).drop i).take k = (d.drop i).take k := by
  rw [← map_byteAt hd, ← map_byteAt (by rwa [fitTo_length])]
  refine List.map_congr_left fun j hj => ?_
  have hj' : j + i < n := by have := List.mem_range.1 hj; omega
  simp [byteAt, fitTo, hj']

theorem fitTo_self {n : Nat} {d : List Byte} (h : d.length = n) : fitTo n d = d := by
  have := drop_take_fitTo (i := 0) (k := n) (n := n) (d := d) (by omega) (by omega)
  simpa [List.take_of_length_le (fitTo_length n d).le, List.take_of_length_le h.le] using this

/-! ### The attestation report (R461) -/

/-- Bytes 0-31 of the report. -/
def reportHead (s : State) : List Byte :=
  ([0x49, 0x4C, 0x58, 0x52] : List Byte) ++ leBytes 2 1 ++ leBytes 2 0x200 ++ leBytes 1 s.fuses.grade ++ leBytes 1 (b2n s.fuses.b0) ++
    leBytes 1 (match runProg s with | some p => p.contract | none => 255) ++
    leBytes 1 (b2n (runProg s).isSome + 2 * b2n s.sec.edKey.isSome + 4 * b2n s.bg.clean) ++ leBytes 6 s.fuses.serial.toNat ++
    leBytes 2 0 ++ leBytes 4 s.sec.oepoch.toNat ++ leBytes 8 s.now

/-- The report's bytes after its nonce. -/
def reportTail (s : State) : List Byte :=
  sha512 (fenceMap s) ++ boundDigest s ++ (match runProg s with | some p => fitTo 64 p.digest | none => List.replicate 64 0) ++
    ownerDigest s ++ sha512 (fmapBytes s)

theorem reportHead_length (s : State) : (reportHead s).length = 32 := by simp [reportHead, leBytes_length]

theorem reportBody_eq (s : State) (nonce : List Byte) :
    reportBody s nonce = fitTo 512 (reportHead s ++ (fitTo 32 nonce ++ reportTail s)) := by
  rw [reportBody]
  refine congrArg (fitTo 512) ?_
  simp only [reportHead, reportTail, List.append_assoc] <;> cases runProg s <;> rfl

/-- The nonce stands at byte 32 of the report. -/
theorem reportBody_nonce {s : State} {nonce : List Byte} (h : nonce.length = 32) :
    ((reportBody s nonce).drop 32).take 32 = nonce := by
  have hdrop : (reportHead s ++ (fitTo 32 nonce ++ reportTail s)).drop 32 = nonce ++ reportTail s := by
    rw [List.drop_left' (reportHead_length s), fitTo_self h]
  rw [reportBody_eq, drop_take_fitTo (by omega) (by simp [reportHead_length, fitTo_length]; omega), hdrop, List.take_left' h]

/-- The parts of a report: the body, then the two signatures. -/
theorem report_parts {b x y : List Byte} (hb : b.length = 512) :
    (b ++ fitTo 64 x ++ fitTo 3309 y).length = 3885 ∧ (b ++ fitTo 64 x ++ fitTo 3309 y).take 512 = b ∧
    ((b ++ fitTo 64 x ++ fitTo 3309 y).drop 512).take 64 = fitTo 64 x := by
  refine ⟨by simp [fitTo_length, hb], ?_, ?_⟩
  · rw [List.append_assoc, List.take_left' hb]
  · rw [List.append_assoc, List.drop_left' hb, List.take_left' (fitTo_length 64 x)]

/-! ### Signed commands (R457) -/

theorem secEnd_eq (s : State) (st : Nat) (d : List Byte) : secEnd s st d = mboxEnd s 0 (BitVec.ofNat 8 st :: d) := rfl

theorem secEnd_out (s : State) (st : Nat) (d : List Byte) :
    (secEnd s st d).out = s.out ++ [.mbox 0 (BitVec.ofNat 8 st :: d), .msix 0 1] := by rw [secEnd_eq, mboxEnd_out]

section
variable {s : State} {op n : Nat} {payload ed : List Byte} {np : Bool} {refuse : State → Nat} {act : State → State}

theorem dropNonce_named (h : s.sec.nonce = some (payload.take 32)) :
    dropNonce s payload = { s with sec := { s.sec with nonce := none } } := if_pos (by simp [namesNonce, h])

theorem dropNonce_other (h : s.sec.nonce ≠ some (payload.take 32)) : dropNonce s payload = s := if_neg (by simp [namesNonce, h])

theorem signedRun_unowned (hlen : payload.length = 32 + n + pairLen * (1 + b2n np)) (hed : s.sec.edKey = none) :
    signedRun s op payload n np refuse act = secEnd (dropNonce s payload) 4 [] := by
  rw [signedRun, if_neg (not_not.2 hlen), hed]

theorem signedRun_stale (hlen : payload.length = 32 + n + pairLen * (1 + b2n np)) (hed : s.sec.edKey = some ed)
    (hn : s.sec.nonce ≠ some (payload.take 32)) : signedRun s op payload n np refuse act = staleEnd s := by
  rw [signedRun, if_neg (not_not.2 hlen), hed]
  simp [namesNonce, hn, dropNonce_other hn]

/-- A signed command that names the held nonce and is not refused goes by its signatures. -/
theorem signedRun_named (hlen : payload.length = 32 + n + pairLen * (1 + b2n np)) (hed : s.sec.edKey = some ed)
    (hn : s.sec.nonce = some (payload.take 32)) (hr : refuse { s with sec := { s.sec with nonce := none } } = 0) :
    signedRun s op payload n np refuse act =
      if pairOk ed s.sec.mlKey (signedMsg op payload n) payload (32 + n) = true ∧ (np = true →
          pairOk ((payload.drop 32).take 32) (((payload.drop 32).drop 32).take 1952) (signedMsg op payload n) payload
            (32 + n + pairLen) = true) then
        act { s with sec := { s.sec with nonce := none } }
      else secEnd (sigFail { s with sec := { s.sec with nonce := none } }) 2 [] := by
  rw [signedRun, if_neg (not_not.2 hlen), hed, dropNonce_named hn]
  dsimp only
  rw [if_neg (by simp [namesNonce, hn]), if_neg (not_not.2 hr)]
  generalize pairOk ed _ _ _ _ = a
  generalize pairOk _ _ _ _ (32 + n + pairLen) = b
  cases a <;> cases b <;> cases np <;> simp

end

theorem tepochOf_succ_ne_zero {s : State} {payload : List Byte} (h : rotateRefused payload s = 0) :
    tepochOf s (leAt payload 32 2) + 1 ≠ 0 := by
  have hne : tepochOf s (leAt payload 32 2) ≠ 0xFFFFFFFF#32 := by
    intro he
    rw [rotateRefused, if_pos (.inr (.inr he))] at h
    exact absurd h (by decide)
  bv_omega

/-- Settles O48: each command's checks decide its status, in the order of the sections. -/
theorem securityCommands : Obligations.SecurityCommands := by
  unfold Obligations.SecurityCommands
  intro s payload ed t hup ends used spent named signed keys
  have up (f : State → State) : mboxRun s f = .next (f s) := mboxRun_up f hup
  have absent (hp : present s = false) : (!present s) = true := by rw [hp]; rfl
  have here (hp : present s = true) : ¬ (!present s) = true := by rw [hp]; decide
  refine ⟨?_, ?_, fun hp => ⟨?_, ?_⟩, fun hp => ⟨fun hlen => ?_, fun hlen hed => ?_, fun hlen hed => ?_, fun hed => ?_,
    fun hed href => ?_⟩, fun hlen hed hn => ?_, fun hlen hed hn => ?_, fun hlen hed hn href => ⟨fun hs => ?_, fun hs ht => ?_⟩,
    fun hlen hed hn href hs hs' => ?_, fun x => ⟨fun hx => ?_, fun hx => ?_⟩, fun hlen => ?_, fun hlen => ?_⟩
  · rw [exec_getIdentity, execGetIdentity, up]
    rfl
  · refine ⟨secEnd ({ s with sec := { s.sec with nonce := some (leBytes 32 (Config.nonce s.free).toNat) } }).bumpFree 0
      (leBytes 32 (Config.nonce s.free).toNat), by rw [exec_getNonce, execGetNonce, up], leBytes 32 (Config.nonce s.free).toNat,
      leBytes_length _ _, rfl, rfl, secEnd_out _ 0 _⟩
  · rw [exec_enrolOwner, execEnrolOwner, up, if_pos (absent hp)]
    rfl
  · rw [exec_clearOwnership, execClearOwnership, up]
    exact congrArg _ (if_pos (absent hp))
  · rw [exec_enrolOwner, execEnrolOwner, up, if_neg (here hp), if_pos hlen]
    rfl
  · rw [exec_enrolOwner, execEnrolOwner, up, if_neg (here hp), if_neg (not_not.2 hlen),
      if_pos (show (usePresence s).sec.edKey.isSome = true from Option.isSome_iff_ne_none.2 hed)]
    rfl
  · have hkeys : withKeys (usePresence s) payload = { used with sec := { s.sec with
        edKey := some (payload.take 32), mlKey := payload.drop 32 } } := by
      have hml : (payload.drop 32).take 1952 = payload.drop 32 := List.take_of_length_le (by rw [List.length_drop]; omega)
      rw [withKeys, hml]
      rfl
    rw [exec_enrolOwner, execEnrolOwner, up, if_neg (here hp), if_neg (not_not.2 hlen), 
      if_neg (show ¬ (usePresence s).sec.edKey.isSome = true by simp [usePresence, hed]), hkeys]
    show Host.Outcome.next (secEnd _ 0 (sha512 (payload.take 32 ++ payload.drop 32))) = _
    rw [List.take_append_drop]
    rfl
  · rw [exec_clearOwnership, execClearOwnership, up]
    dsimp only [List.isEmpty_nil]
    rw [if_pos rfl, if_neg (here hp), if_pos (by simp [usePresence, hed])]
    rfl
  · refine ⟨clearOwner used, ?_, rfl, rfl, rfl, rfl, fun e he => ?_, secEnd_out _ 0 _⟩
    · rw [exec_clearOwnership, execClearOwnership, up]
      dsimp only [List.isEmpty_nil]
      rw [if_pos rfl, if_neg (here hp), if_neg (by simpa [usePresence] using hed), 
        if_neg (show ¬ clearRefused (usePresence s) ≠ 0 from not_not.2 href)]
      rfl
    · obtain ⟨e', -, rfl⟩ := List.mem_map.1 (show e ∈ List.map _ s.wst.slots from he)
      dsimp only
      split
      · next h => exact .inl h
      · exact .inr rfl
  · rw [exec_rotateTenantKey, execRotateTenantKey, up, signedRun_unowned hlen hed, dropNonce_named hn]
    rfl
  · rw [exec_rotateTenantKey, execRotateTenantKey, up, signedRun_stale hlen hed hn]
    rfl
  · rw [exec_rotateTenantKey, execRotateTenantKey, up, signedRun_named hlen hed hn href, if_neg fun h => hs h.1]
    rfl
  · have he := tepochOf_succ_ne_zero href
    subst ht
    refine ⟨secEnd { spent with sec := { spent.sec with
        tepoch := tset 0 s.sec.tepoch (leAt payload 32 2) (tepochOf s (leAt payload 32 2) + 1) } } 0
        (leBytes 4 (tepochOf s (leAt payload 32 2) + 1).toNat), ?_, tget_tset_of_ne_default he _ _, rfl, rfl, secEnd_out _ 0 _⟩
    rw [exec_rotateTenantKey, execRotateTenantKey, up, signedRun_named hlen hed hn href, if_pos ⟨hs, nofun⟩]
    rfl
  · refine ⟨secEnd (withKeys spent keys) 0 (ownerDigest (withKeys spent keys)), ?_, rfl, rfl, rfl, rfl, rfl⟩
    rw [exec_replaceOwnerKeys, execReplaceOwnerKeys, up, signedRun_named hlen hed hn href, if_pos ⟨hs, fun _ => hs'⟩]
  · rw [exec_getTenantKeyEpoch, execGetTenantKeyEpoch, up, if_neg (by omega)]
    rfl
  · rw [exec_getTenantKeyEpoch, execGetTenantKeyEpoch, up, if_pos hx]
    rfl
  · have hb : (reportBody s payload).length = 512 := fitTo_length _ _
    obtain ⟨hlen', hbody, hsig⟩ := report_parts (x := edSign s.sec.seedEd (sha512 (reportBody s payload)))
      (y := mlSign s.sec.seedMl [0x49, 0x4C, 0x58, 0x52] (sha512 (reportBody s payload)) (leBytes 32 (Config.mlRandom s.free).toNat)) hb
    refine ⟨_, ?_, hlen', hbody, ?_, hsig⟩
    · rw [exec_getAttestationReport, execGetAttestationReport, up, if_neg (not_not.2 hlen)]
      exact congrArg _ (secEnd_eq s.bumpFree 0 _)
    · generalize edSign s.sec.seedEd _ = x
      generalize mlSign _ _ _ _ = y
      rw [List.append_assoc, List.drop_append_of_le_length (by omega), List.take_append_of_le_length (by simp [hb]),
        reportBody_nonce hlen]
  · rw [exec_getAttestationReport, execGetAttestationReport, up, if_pos hlen]
    rfl

end Sys2Proof.Proofs
end

section
/-! PROOFS. The canonical forms that every step keeps, as one predicate on states, and the rules by which it passes through the
shapes the model's functions are made of: updates of fields, branches, folds, and the frame of a slot operation. -/

namespace Sys2Proof.Proofs

open Sys2Proof Sys2Proof.Machine Sys2Proof.Safety Sys2Proof.Laws

/-- What the serving hub leaves alone: the plane but for its scratchpads, and the units that it does not write. -/
structure Rest where
  plane : Plane
  faults : List FaultRep
  ldr : Loader
  jet : Jet
  bg : Bg
  pwr : Pwr
  ports : Table FPort

def restOf (s : State) : Rest :=
  { plane := { s.plane with sram := [], sramErr := [], faults := [] }, faults := s.plane.faults, ldr := s.ldr, jet := s.jet, bg := s.bg, pwr := s.pwr, ports := s.host.ports }

/-- The canonical forms of a state: under M those of the memories (`memOk`), under C those of the cores (`coresOk`), under D those
of the other tables (`tablesOk`), with a property T of what the hub leaves alone. With M, C, D or T alone it speaks of one
statement only. -/
structure Sound (M C D : Prop) (T : Rest → Prop) (s : State) : Prop where
  sram : M → memWf s.plane.sram = true
  wstMem : M → memWf s.wst.mem = true
  kvMem : M → memWf s.kv.mem = true
  cores : C → twf ({} : Core) s.plane.cores = true
  coreOks : C → (s.plane.cores.all fun e => coreOk e.2) = true
  tenants : D → twf ({} : Tenant) s.tenants = true
  wslots : D → twf ({} : WSlot) s.wst.slots = true
  slots : D → twf ({} : Seq) s.hub.slots = true
  adps : D → twf ({} : Adp) s.hub.adps = true
  qps : D → twf ({} : Qp) s.host.qps = true
  ports : D → twf ({} : FPort) s.host.ports = true
  pairs : D → twf ({} : Pair) s.thm.pairs = true
  chans : D → twf ({} : AdcCh) s.adc.ch = true
  rest : T (restOf s)

/-- A property of the plane alone. -/
def OnPlane (T : Plane → Prop) (r : Rest) : Prop := T r.plane

/-- A property of the cycle count alone. -/
def Cyc (T : Nat → Prop) : Rest → Prop := OnPlane fun p => T p.cycle

/-- Nothing said of the rest: the commands that start or reset the plane set the cycle count. -/
abbrev Any : Rest → Prop := Cyc fun _ => True

/-- Under C, the tables of a core are in canonical form. -/
def CoreSound (C : Prop) (k : Core) : Prop := C → coreOk k = true

theorem sound_of_memOk {s : State} (h : memOk s = true) : Sound True False False Any s := by
  simp only [memOk, Bool.and_eq_true] at h
  obtain ⟨⟨hsram, hwst⟩, hkv⟩ := h
  exact ⟨fun _ => hsram, fun _ => hwst, fun _ => hkv, nofun, nofun, nofun, nofun, nofun, nofun, nofun, nofun, nofun, nofun, trivial⟩

theorem memOk_of_sound {C D : Prop} {T : Rest → Prop} {s : State} (h : Sound True C D T s) : memOk s = true := by
  simp only [memOk, Bool.and_eq_true]
  exact ⟨⟨h.sram trivial, h.wstMem trivial⟩, h.kvMem trivial⟩

theorem sound_of_tablesOk {s : State} (ht : tablesOk s = true) : Sound False False True (· = restOf s) s := by
  simp only [tablesOk, Bool.and_eq_true] at ht
  obtain ⟨⟨⟨⟨⟨⟨⟨hten, hws⟩, hslots⟩, hadps⟩, hqps⟩, hports⟩, hpairs⟩, hch⟩ := ht
  exact ⟨nofun, nofun, nofun, nofun, nofun, fun _ => hten, fun _ => hws, fun _ => hslots, fun _ => hadps,
    fun _ => hqps, fun _ => hports, fun _ => hpairs, fun _ => hch, rfl⟩

theorem tablesOk_of_sound {M C : Prop} {T : Rest → Prop} {s : State} (h : Sound M C True T s) : tablesOk s = true := by
  simp only [tablesOk, Bool.and_eq_true]
  exact ⟨⟨⟨⟨⟨⟨⟨h.tenants trivial, h.wslots trivial⟩, h.slots trivial⟩, h.adps trivial⟩, h.qps trivial⟩, h.ports trivial⟩,
    h.pairs trivial⟩, h.chans trivial⟩

theorem sound_of_coresOk {s : State} (hc : coresOk s = true) (ht : tablesOk s = true) : Sound False True True Any s := by
  simp only [coresOk, Bool.and_eq_true] at hc
  obtain ⟨hcores, hall⟩ := hc
  exact { sound_of_tablesOk ht with cores := fun _ => hcores, coreOks := fun _ => hall, rest := trivial }

theorem coresOk_of_sound {M : Prop} {T : Rest → Prop} {s : State} (h : Sound M True True T s) :
    coresOk s = true ∧ tablesOk s = true := by
  rw [coresOk, Bool.and_eq_true]
  exact ⟨⟨h.cores trivial, h.coreOks trivial⟩, tablesOk_of_sound h⟩

section
variable {M C D : Prop} {T : Rest → Prop}

/-! ### Updates of fields -/

/-- An update beside the rest of a sound state is sound when each table it speaks of either is the old one, which needs no argument, or is
canonical where the old one was. -/
theorem sound_beside {u : State} {plane : Plane} {jet : Jet} {ldr : Loader} {wst : Wst} {kv : Kv} {hub : Hub}
    {ten : Table Tenant} {host : HostIf} {iso : Iso} {pwr : Pwr} {thm : Thm} {bg : Bg} {pnl : Pnl} {adc : Adc} {sec : Sec}
    {jtag : Jtag} {out : List Out} {free : Nat} {pending : List Instr} (h : Sound M C D T u)
    (sram : M → memWf u.plane.sram = true → memWf plane.sram = true := by simp only [imp_self, implies_true])
    (wstMem : M → memWf u.wst.mem = true → memWf wst.mem = true := by simp only [imp_self, implies_true])
    (kvMem : M → memWf u.kv.mem = true → memWf kv.mem = true := by simp only [imp_self, implies_true])
    (cores : C → twf ({} : Core) u.plane.cores = true → twf ({} : Core) plane.cores = true := by
      simp only [imp_self, implies_true])
    (coreOks : C → (u.plane.cores.all fun e => coreOk e.2) = true → (plane.cores.all fun e => coreOk e.2) = true := by
      simp only [imp_self, implies_true])
    (tenants : D → twf ({} : Tenant) u.tenants = true → twf ({} : Tenant) ten = true := by
      simp only [imp_self, implies_true])
    (wslots : D → twf ({} : WSlot) u.wst.slots = true → twf ({} : WSlot) wst.slots = true := by
      simp only [imp_self, implies_true])
    (slots : D → twf ({} : Seq) u.hub.slots = true → twf ({} : Seq) hub.slots = true := by simp only [imp_self, implies_true])
    (adps : D → twf ({} : Adp) u.hub.adps = true → twf ({} : Adp) hub.adps = true := by simp only [imp_self, implies_true])
    (qps : D → twf ({} : Qp) u.host.qps = true → twf ({} : Qp) host.qps = true := by simp only [imp_self, implies_true])
    (ports : D → twf ({} : FPort) u.host.ports = true → twf ({} : FPort) host.ports = true := by
      simp only [imp_self, implies_true])
    (pairs : D → twf ({} : Pair) u.thm.pairs = true → twf ({} : Pair) thm.pairs = true := by simp only [imp_self, implies_true])
    (chans : D → twf ({} : AdcCh) u.adc.ch = true → twf ({} : AdcCh) adc.ch = true := by
      simp only [imp_self, implies_true])
    (rest : T (restOf u) → T (restOf ⟨u.fuses, plane, jet, ldr, wst, kv, hub, ten, host, iso, pwr, thm, bg, pnl, adc, sec, jtag, out,
      free, pending⟩) := by exact fun hT => hT) :
    Sound M C D T ⟨u.fuses, plane, jet, ldr, wst, kv, hub, ten, host, iso, pwr, thm, bg, pnl, adc, sec, jtag, out, free,
      pending⟩ :=
  ⟨fun m => sram m (h.sram m), fun m => wstMem m (h.wstMem m), fun m => kvMem m (h.kvMem m), fun c => cores c (h.cores c),
    fun c => coreOks c (h.coreOks c), fun c => tenants c (h.tenants c), fun c => wslots c (h.wslots c),
    fun c => slots c (h.slots c), fun c => adps c (h.adps c), fun c => qps c (h.qps c), fun c => ports c (h.ports c),
    fun c => pairs c (h.pairs c), fun c => chans c (h.chans c), rest h.rest⟩

/-- The same where only the plane is spoken of. -/
theorem sound_updPlane {T : Plane → Prop} {u : State} {plane : Plane} {jet : Jet} {ldr : Loader} {wst : Wst} {kv : Kv} {hub : Hub}
    {ten : Table Tenant} {host : HostIf} {iso : Iso} {pwr : Pwr} {thm : Thm} {bg : Bg} {pnl : Pnl} {adc : Adc} {sec : Sec}
    {jtag : Jtag} {out : List Out} {free : Nat} {pending : List Instr} (h : Sound M C D (OnPlane T) u)
    (sram : M → memWf u.plane.sram = true → memWf plane.sram = true := by simp only [imp_self, implies_true])
    (wstMem : M → memWf u.wst.mem = true → memWf wst.mem = true := by simp only [imp_self, implies_true])
    (kvMem : M → memWf u.kv.mem = true → memWf kv.mem = true := by simp only [imp_self, implies_true])
    (cores : C → twf ({} : Core) u.plane.cores = true → twf ({} : Core) plane.cores = true := by
      simp only [imp_self, implies_true])
    (coreOks : C → (u.plane.cores.all fun e => coreOk e.2) = true → (plane.cores.all fun e => coreOk e.2) = true := by
      simp only [imp_self, implies_true])
    (tenants : D → twf ({} : Tenant) u.tenants = true → twf ({} : Tenant) ten = true := by
      simp only [imp_self, implies_true])
    (wslots : D → twf ({} : WSlot) u.wst.slots = true → twf ({} : WSlot) wst.slots = true := by
      simp only [imp_self, implies_true])
    (slots : D → twf ({} : Seq) u.hub.slots = true → twf ({} : Seq) hub.slots = true := by simp only [imp_self, implies_true])
    (adps : D → twf ({} : Adp) u.hub.adps = true → twf ({} : Adp) hub.adps = true := by simp only [imp_self, implies_true])
    (qps : D → twf ({} : Qp) u.host.qps = true → twf ({} : Qp) host.qps = true := by simp only [imp_self, implies_true])
    (ports : D → twf ({} : FPort) u.host.ports = true → twf ({} : FPort) host.ports = true := by
      simp only [imp_self, implies_true])
    (pairs : D → twf ({} : Pair) u.thm.pairs = true → twf ({} : Pair) thm.pairs = true := by simp only [imp_self, implies_true])
    (chans : D → twf ({} : AdcCh) u.adc.ch = true → twf ({} : AdcCh) adc.ch = true := by
      simp only [imp_self, implies_true])
    (rest : T (restOf u).plane → T { plane with sram := [], sramErr := [], faults := [] } := by exact fun hT => hT) :
    Sound M C D (OnPlane T) ⟨u.fuses, plane, jet, ldr, wst, kv, hub, ten, host, iso, pwr, thm, bg, pnl, adc, sec, jtag, out, free,
      pending⟩ :=
  ⟨fun m => sram m (h.sram m), fun m => wstMem m (h.wstMem m), fun m => kvMem m (h.kvMem m), fun c => cores c (h.cores c),
    fun c => coreOks c (h.coreOks c), fun c => tenants c (h.tenants c), fun c => wslots c (h.wslots c),
    fun c => slots c (h.slots c), fun c => adps c (h.adps c), fun c => qps c (h.qps c), fun c => ports c (h.ports c),
    fun c => pairs c (h.pairs c), fun c => chans c (h.chans c), rest h.rest⟩

/-- The same where only the cycle count is spoken of. -/
theorem sound_upd {T : Nat → Prop} {u : State} {plane : Plane} {jet : Jet} {ldr : Loader} {wst : Wst} {kv : Kv} {hub : Hub}
    {ten : Table Tenant} {host : HostIf} {iso : Iso} {pwr : Pwr} {thm : Thm} {bg : Bg} {pnl : Pnl} {adc : Adc} {sec : Sec}
    {jtag : Jtag} {out : List Out} {free : Nat} {pending : List Instr} (h : Sound M C D (Cyc T) u)
    (sram : M → memWf u.plane.sram = true → memWf plane.sram = true := by simp only [imp_self, implies_true])
    (wstMem : M → memWf u.wst.mem = true → memWf wst.mem = true := by simp only [imp_self, implies_true])
    (kvMem : M → memWf u.kv.mem = true → memWf kv.mem = true := by simp only [imp_self, implies_true])
    (cores : C → twf ({} : Core) u.plane.cores = true → twf ({} : Core) plane.cores = true := by
      simp only [imp_self, implies_true])
    (coreOks : C → (u.plane.cores.all fun e => coreOk e.2) = true → (plane.cores.all fun e => coreOk e.2) = true := by
      simp only [imp_self, implies_true])
    (tenants : D → twf ({} : Tenant) u.tenants = true → twf ({} : Tenant) ten = true := by
      simp only [imp_self, implies_true])
    (wslots : D → twf ({} : WSlot) u.wst.slots = true → twf ({} : WSlot) wst.slots = true := by
      simp only [imp_self, implies_true])
    (slots : D → twf ({} : Seq) u.hub.slots = true → twf ({} : Seq) hub.slots = true := by simp only [imp_self, implies_true])
    (adps : D → twf ({} : Adp) u.hub.adps = true → twf ({} : Adp) hub.adps = true := by simp only [imp_self, implies_true])
    (qps : D → twf ({} : Qp) u.host.qps = true → twf ({} : Qp) host.qps = true := by simp only [imp_self, implies_true])
    (ports : D → twf ({} : FPort) u.host.ports = true → twf ({} : FPort) host.ports = true := by
      simp only [imp_self, implies_true])
    (pairs : D → twf ({} : Pair) u.thm.pairs = true → twf ({} : Pair) thm.pairs = true := by simp only [imp_self, implies_true])
    (chans : D → twf ({} : AdcCh) u.adc.ch = true → twf ({} : AdcCh) adc.ch = true := by
      simp only [imp_self, implies_true])
    (cycle : T u.plane.cycle → T plane.cycle := by exact fun hT => hT) :
    Sound M C D (Cyc T) ⟨u.fuses, plane, jet, ldr, wst, kv, hub, ten, host, iso, pwr, thm, bg, pnl, adc, sec, jtag, out, free,
      pending⟩ :=
  ⟨fun m => sram m (h.sram m), fun m => wstMem m (h.wstMem m), fun m => kvMem m (h.kvMem m), fun c => cores c (h.cores c),
    fun c => coreOks c (h.coreOks c), fun c => tenants c (h.tenants c), fun c => wslots c (h.wslots c),
    fun c => slots c (h.slots c), fun c => adps c (h.adps c), fun c => qps c (h.qps c), fun c => ports c (h.ports c),
    fun c => pairs c (h.pairs c), fun c => chans c (h.chans c), cycle h.rest⟩

/-- The same for a core: its registers, counters and arrays are the old ones or canonical where they were. -/
theorem coreSound_upd {k : Core}
    {issue : IssueSt} {pc : BitVec 21} {target : Option (BitVec 21)} {delaySlot : Bool} {lastPc : BitVec 21} {nextAt :
    Nat} {g : Table (BitVec 64)} {a : Table (BitVec 48)} {p : Table Bool} {cc : Table (BitVec 32)} {incs : Table Nat}
    {sh : Table (BitVec 64)} {sendCnt : BitVec 16} {v : Table (BitVec 2048)} {writes : List RegWrite} {incDue : List
    (Nat × Nat × Nat)} {samples : List CcSample} {loads : List PendLoad} {stores : List PendStore} {banks : List
    BankUse} {drops : List (Nat × Nat)} {armed : Table (Option (BitVec 32))} {watches : List Watch} {mode : AMode}
    {arrays : Table Arr} {passes : List Pass} {lastE : Option Nat} {drains : List ActiveDrain} {merges : List
    ActiveMerge} {inits : List ActiveInit} {tloads : List ActiveLoad} {xq : List XQEntry} {frozen : Bool} {gcyc : Nat}
    {slip : Nat} {hold : Table HoldEntry} {outl : List Outlier} {rank : Table RankVec} {res : Table ResRow} {corr : List
    CorrEntry} {fill : Nat} {take : Nat} {arrived : Table Bool} {modeNext : Option AMode} {overs : List (Nat × Nat ×
    SlotKind)} {relAt : Option Nat} {aBusy : List Nat}
    (h : CoreSound C k)
    (hg : C → twf (0 : BitVec 64) k.g = true → twf (0 : BitVec 64) g = true := by simp only [imp_self, implies_true])
    (hcc : C → twf (0 : BitVec 32) k.cc = true → twf (0 : BitVec 32) cc = true := by simp only [imp_self, implies_true])
    (harr : C → twf ({} : Arr) k.arrays = true → twf ({} : Arr) arrays = true := by simp only [imp_self, implies_true]) :
    CoreSound C ⟨k.role, issue, pc, target, delaySlot, lastPc, nextAt, g, a, p, cc, incs, sh, sendCnt, v, writes, incDue,
      samples, loads, stores, banks, drops, armed, watches, mode, arrays, passes, lastE, drains, merges,
      inits, tloads, xq, frozen, gcyc, slip, hold, outl, rank, res, corr, fill, take, arrived, modeNext,
      overs, relAt, aBusy⟩ := by
  intro hC
  have hk := h hC
  simp only [coreOk, gOk, Bool.and_eq_true] at hk ⊢
  exact ⟨⟨hg hC hk.1.1, hcc hC hk.1.2⟩, harr hC hk.2⟩

/-! ### Branches, folds and pairs -/

theorem sound_ite {p : Prop} [Decidable p] {s t : State} (hs : Sound M C D T s) (ht : Sound M C D T t) :
    Sound M C D T (if p then s else t) := by
  split
  · exact hs
  · exact ht

theorem coreSound_ite {p : Prop} [Decidable p] {k l : Core} (hk : CoreSound C k) (hl : CoreSound C l) :
    CoreSound C (if p then k else l) := by
  split
  · exact hk
  · exact hl

theorem sound_foldl {α : Type} {f : State → α → State} {l : List α} {s : State} (h : Sound M C D T s)
    (hf : ∀ s x, Sound M C D T s → Sound M C D T (f s x)) : Sound M C D T (l.foldl f s) := by
  induction l generalizing s with
  | nil => exact h
  | cons x r ih => exact ih (hf s x h)

theorem coreSound_foldl {α : Type} {f : Core → α → Core} {l : List α} {k : Core} (h : CoreSound C k)
    (hf : ∀ k x, CoreSound C k → CoreSound C (f k x)) : CoreSound C (l.foldl f k) := by
  induction l generalizing k with
  | nil => exact h
  | cons x r ih => exact ih (hf k x h)

/-- A fold over a state beside other data. -/
theorem sound_foldl_fst {α β : Type} {f : State × β → α → State × β} {l : List α} {p : State × β} (h : Sound M C D T p.1)
    (hf : ∀ p x, Sound M C D T p.1 → Sound M C D T (f p x).1) : Sound M C D T (l.foldl f p).1 := by
  induction l generalizing p with
  | nil => exact h
  | cons x r ih => exact ih (hf p x h)

theorem sound_foldl_snd {α β : Type} {f : β × State → α → β × State} {l : List α} {p : β × State} (h : Sound M C D T p.2)
    (hf : ∀ p x, Sound M C D T p.2 → Sound M C D T (f p x).2) : Sound M C D T (l.foldl f p).2 := by
  induction l generalizing p with
  | nil => exact h
  | cons x r ih => exact ih (hf p x h)

theorem sound_of_fst {β : Type} {p : State × β} {s : State} {b : β} (e : p = (s, b)) (h : Sound M C D T p.1) : Sound M C D T s := by
  rw [e] at h
  exact h

theorem sound_of_snd {β : Type} {p : β × State} {s : State} {b : β} (e : p = (b, s)) (h : Sound M C D T p.2) : Sound M C D T s := by
  rw [e] at h
  exact h

/-! ### Cores -/

/-- A write lists no entry but the one written. -/
theorem mem_of_mem_tset {α : Type} [DecidableEq α] {d v : α} {t : Table α} {n : Nat} {e : Nat × α}
    (h : e ∈ tset d t n v) : e ∈ t ∨ e = (n, v) := by
  induction t with
  | nil =>
    by_cases hd : v = d <;> simp_all [tset]
  | cons x r ih =>
    obtain ⟨j, w⟩ := x
    by_cases hlt : n < j
    · by_cases hd : v = d <;> simp_all [tset]
      tauto
    · by_cases heq : n = j
      · by_cases hd : v = d <;> simp_all [tset]
        tauto
      · simp only [tset, hlt, heq, if_false, List.mem_cons] at h ⊢
        rcases h with h | h
        · exact .inl (.inl h)
        · exact (ih h).imp_left .inr

theorem all_tset {α : Type} [DecidableEq α] {d v : α} {t : Table α} {n : Nat} {p : α → Bool}
    (ht : (t.all fun e => p e.2) = true) (hv : p v = true) : ((tset d t n v).all fun e => p e.2) = true := by
  rw [List.all_eq_true] at ht ⊢
  intro e he
  rcases mem_of_mem_tset he with h | rfl
  · exact ht e h
  · exact hv

/-- Changing every entry in place keeps the canonical form, when no entry becomes the default. -/
theorem twf_map {α : Type} [DecidableEq α] {d : α} {f : α → α} (hf : ∀ w, w ≠ d → f w ≠ d) {t : Table α} (h : twf d t = true) :
    twf d (t.map fun e => (e.1, f e.2)) = true := by
  have key : ∀ (lo : Nat) (t : Table α), twfFrom d lo t = true → twfFrom d lo (t.map fun e => (e.1, f e.2)) = true := by
    intro lo t
    induction t generalizing lo with
    | nil => exact fun _ => rfl
    | cons e r ih =>
      intro h
      obtain ⟨hlo, hw, hr⟩ := twfFrom_cons.1 h
      exact twfFrom_cons.2 ⟨hlo, hf _ hw, ih _ hr⟩
  exact key 0 t h

/-- Writing entry after entry keeps the canonical form. -/
theorem twf_foldl_tset {α β : Type} [DecidableEq α] {d : α} {n : β → Nat} {v : Table α → β → α} {l : List β} {t : Table α}
    (h : twf d t = true) : twf d (l.foldl (fun t x => tset d t (n x) (v t x)) t) = true := by
  induction l generalizing t with
  | nil => exact h
  | cons x r ih => exact ih (twf_tset h)

theorem all_foldl_tset {α β : Type} [DecidableEq α] {d : α} {n : β → Nat} {v : β → α} {l : List β} {t : Table α} {p : α → Bool}
    (h : (t.all fun e => p e.2) = true) (hv : ∀ x, p (v x) = true) :
    ((l.foldl (fun t x => tset d t (n x) (v x)) t).all fun e => p e.2) = true := by
  induction l generalizing t with
  | nil => exact h
  | cons x r ih => exact ih (all_tset h (hv x))

theorem all_tmap {α : Type} [DecidableEq α] {d : α} {f : α → α} {t : Table α} {p : α → Bool} (hf : ∀ v, p v = true → p (f v) = true)
    (h : (t.all fun e => p e.2) = true) : ((tmap d f t).all fun e => p e.2) = true := by
  rw [List.all_eq_true] at h ⊢
  intro e he
  obtain ⟨x, hx, rfl⟩ := List.mem_map.1 (List.mem_filter.1 he).1
  exact hf _ (h x hx)

theorem Sound.core {s : State} (h : Sound M C D T s) (c : Nat) : CoreSound C (s.core c) := fun hC =>
  coreOk_core (Bool.and_eq_true_iff.2 ⟨h.cores hC, h.coreOks hC⟩) c

theorem sound_setCore {T : Nat → Prop} {s : State} {c : Nat} {k : Core} (h : Sound M C D (Cyc T) s) (hk : CoreSound C k) : Sound M C D (Cyc T) (s.setCore c k) :=
  { h with cores := fun hC => twf_tset (h.cores hC), coreOks := fun hC => all_tset (h.coreOks hC) (hk hC) }

theorem sound_modCore {T : Nat → Prop} {s : State} {c : Nat} {f : Core → Core} (h : Sound M C D (Cyc T) s)
    (hf : ∀ k, CoreSound C k → CoreSound C (f k)) : Sound M C D (Cyc T) (s.modCore c f) :=
  sound_setCore h (hf _ (h.core c))

/-! ### Outcomes -/

theorem answers_next {s : State} (h : Sound M C D T s) : Answers (.next s) (Sound M C D T) := ⟨s, rfl, h⟩

theorem answers_ite {p : Prop} [Decidable p] {r q : Res} (hr : Answers r (Sound M C D T)) (hq : Answers q (Sound M C D T)) :
    Answers (if p then r else q) (Sound M C D T) := by
  split
  · exact hr
  · exact hq

end

end Sys2Proof.Proofs
end

section
/-! PROOFS. Every function keeps the canonical forms: the shared operations, and the core's S, M and V slots. -/

namespace Sys2Proof.Proofs

set_option Elab.async false

open Sys2Proof Sys2Proof.Machine Sys2Proof.Safety Sys2Proof.Laws

variable {M C D : Prop} {T : Rest → Prop}

theorem sound_sramSet {s a d} (h : Sound M C D T s) :
    Sound M C D T (State.sramSet s a d) := by
  unfold State.sramSet
  dsimp only
  exact sound_beside h (sram := fun _ => memWf_mwrite)

theorem sound_emit {s o} (h : Sound M C D T s) :
    Sound M C D T (State.emit s o) := by
  unfold State.emit
  exact sound_beside h

theorem sound_bumpFree {s} (h : Sound M C D T s) :
    Sound M C D T (State.bumpFree s) := by
  unfold State.bumpFree
  exact sound_beside h

theorem sound_setTenant {s t v} (h : Sound M C D T s) :
    Sound M C D T (State.setTenant s t v) := by
  unfold State.setTenant
  exact sound_beside h (tenants := fun _ => twf_tset)

theorem sound_modTenant {s t f} (h : Sound M C D T s) :
    Sound M C D T (State.modTenant s t f) :=
  sound_setTenant h

theorem sound_setQp {s n q} (h : Sound M C D T s) :
    Sound M C D T (State.setQp s n q) := by
  unfold State.setQp
  dsimp only
  exact sound_beside h (qps := fun _ => twf_tset)

theorem sound_qpSent {s n bytes} (h : Sound M C D T s) :
    Sound M C D T (State.qpSent s n bytes) :=
  sound_setQp h

theorem sound_clearOp {s kind ref} (h : Sound M C D T s) :
    Sound M C D T (State.clearOp s kind ref) := by
  unfold State.clearOp
  dsimp only
  exact sound_beside h

theorem sound_lateDone {s fab} (h : Sound M C D T s) :
    Sound M C D T (lateDone s fab) := by
  unfold lateDone
  dsimp only
  split
  · exact sound_beside h
  · exact sound_beside h

theorem sound_raise {T : Plane → Prop} {s f} (h : Sound M C D (OnPlane T) s) :
    Sound M C D (OnPlane T) (State.raise s f) := by
  unfold State.raise
  dsimp only
  split
  · exact sound_updPlane h
  · split
    · exact sound_updPlane h
    · split
      · split
        · exact sound_updPlane h
        · exact h
      · exact h

theorem sound_raiseCore {T : Plane → Prop} {s c cls slot pc} (h : Sound M C D (OnPlane T) s) :
    Sound M C D (OnPlane T) (State.raiseCore s c cls slot pc) :=
  sound_raise h

theorem coreSound_ccSet {k i v} (h : CoreSound C k) :
    CoreSound C (Core.ccSet k i v) := by
  unfold Core.ccSet
  exact coreSound_upd h (hcc := fun _ => twf_tset)

theorem sound_incr {T : Nat → Prop} {s c i pc slot} (h : Sound M C D (Cyc T) s) :
    Sound M C D (Cyc T) (State.incr s c i pc slot) := by
  unfold State.incr
  dsimp only
  split
  · exact sound_setCore h (coreSound_upd (h.core _))
  · exact sound_setCore h (coreSound_upd (coreSound_ccSet (h.core _)))

theorem sound_sramClean {s a n} (h : Sound M C D T s) :
    Sound M C D T (sramClean s a n) := by
  unfold sramClean
  dsimp only
  exact sound_beside h

theorem sound_flagLine {T : Plane → Prop} {s line} (h : Sound M C D (OnPlane T) s) :
    Sound M C D (OnPlane T) (flagLine s line) := by
  unfold flagLine
  dsimp only
  exact sound_updPlane h

theorem sound_sramCorrect {T : Plane → Prop} {s a n} (h : Sound M C D (OnPlane T) s) :
    Sound M C D (OnPlane T) (sramCorrect s a n) := by
  unfold sramCorrect
  dsimp only
  split
  · exact h
  · exact sound_foldl (sound_updPlane h) fun _ _ h1 => sound_flagLine h1

theorem sound_sramRead {T : Plane → Prop} {s sl pc a n} (h : Sound M C D (OnPlane T) s) :
    Sound M C D (OnPlane T) (sramRead s sl pc a n).2 := by
  unfold sramRead
  split
  · exact sound_raise h
  · exact sound_sramCorrect h

theorem sound_sramReadAll {T : Plane → Prop} {s sl pc runs} (h : Sound M C D (OnPlane T) s) :
    Sound M C D (OnPlane T) (sramReadAll s sl pc runs).2 := by
  unfold sramReadAll
  split
  · exact sound_raise h
  · exact sound_foldl h fun _ _ h1 => sound_sramCorrect h1

theorem sound_sramStore {T : Plane → Prop} {s sl pc a d} (h : Sound M C D (OnPlane T) s) :
    Sound M C D (OnPlane T) (sramStore s sl pc a d) := by
  unfold sramStore
  split
  · exact sound_raise h
  · exact sound_sramSet (sound_sramClean (sound_foldl h fun _ _ h1 => sound_sramCorrect h1))

theorem coreSound_put {k d v} (h : CoreSound C k) :
    CoreSound C (Core.put k d v) := by
  unfold Core.put
  split
  · split
    · exact h
    · exact coreSound_upd h (hg := fun _ => twf_tset)
  · exact coreSound_upd h
  · split
    · exact h
    · exact coreSound_upd h
  · exact coreSound_upd h

theorem coreSound_later {k due sl d v} (h : CoreSound C k) :
    CoreSound C (Core.later k due sl d v) := by
  unfold Core.later
  exact coreSound_upd h

theorem sound_laterG {T : Nat → Prop} {s c lat sl r v} (h : Sound M C D (Cyc T) s) :
    Sound M C D (Cyc T) (State.laterG s c lat sl r v) :=
  sound_modCore h fun _ h1 => coreSound_later h1

theorem sound_laterA {T : Nat → Prop} {s c r v} (h : Sound M C D (Cyc T) s) :
    Sound M C D (Cyc T) (State.laterA s c r v) :=
  sound_modCore h fun _ h1 => coreSound_later h1

theorem sound_laterP {T : Nat → Prop} {s c r v} (h : Sound M C D (Cyc T) s) :
    Sound M C D (Cyc T) (State.laterP s c r v) :=
  sound_modCore h fun _ h1 => coreSound_later h1

theorem sound_laterV {T : Nat → Prop} {s c lat r v} (h : Sound M C D (Cyc T) s) :
    Sound M C D (Cyc T) (State.laterV s c lat r v) :=
  sound_modCore h fun _ h1 => coreSound_later h1

theorem answers_issueSlot {T : Plane → Prop} {s c sl gd legal act} (h : Sound M C D (OnPlane T) s) (h1 : ∀ k, CoreSound C k → Sound M C D (OnPlane T) (act k)) :
    Answers (issueSlot s c sl gd legal act) (Sound M C D (OnPlane T)) := by
  unfold issueSlot
  dsimp only
  split
  · exact answers_next h
  · split
    · exact answers_next (sound_raiseCore h)
    · split
      · exact answers_next (h1 _ (h.core _))
      · exact answers_next h

theorem sound_spmRead {T : Plane → Prop} {s c off n sl pc} (h : Sound M C D (OnPlane T) s) :
    Sound M C D (OnPlane T) (spmRead s c off n sl pc).2 :=
  sound_sramRead h

theorem sound_spmWrite {T : Plane → Prop} {s c off d sl pc} (h : Sound M C D (OnPlane T) s) :
    Sound M C D (OnPlane T) (spmWrite s c off d sl pc) :=
  sound_sramStore h

theorem coreSound_useBanks {k t pc l} (h : CoreSound C k) :
    CoreSound C (Core.useBanks k t pc l) := by
  unfold Core.useBanks
  exact coreSound_upd h

theorem sound_grantA {T : Nat → Prop} {s c l} (h : Sound M C D (Cyc T) s) :
    Sound M C D (Cyc T) (grantA s c l) := by
  unfold grantA
  exact sound_modCore h fun _ h1 => coreSound_upd h1

theorem answers_execLd {T : Nat → Prop} {c gd a reg size sx off s} (h : Sound M C D (Cyc T) s) :
    Answers (execLd c gd a reg size sx off s) (Sound M C D (Cyc T)) := by
  unfold execLd
  dsimp only
  exact answers_issueSlot h fun _ h1 => sound_ite (sound_setCore h (coreSound_useBanks (coreSound_upd h1))) (sound_raiseCore h)

theorem sound_issueStore {T : Nat → Prop} {s c k ad o d} (h : Sound M C D (Cyc T) s) (h1 : CoreSound C k) :
    Sound M C D (Cyc T) (issueStore s c k ad o d) := by
  unfold issueStore
  dsimp only
  split
  · exact sound_raiseCore h
  · split
    · exact sound_raiseCore h
    · exact sound_setCore h (coreSound_useBanks (coreSound_upd h1))

theorem answers_execSt {T : Nat → Prop} {c gd a reg size off s} (h : Sound M C D (Cyc T) s) :
    Answers (execSt c gd a reg size off s) (Sound M C D (Cyc T)) :=
  answers_issueSlot h fun _ h1 => sound_issueStore h h1

theorem answers_execLdv {T : Nat → Prop} {c gd a reg tm off s} (h : Sound M C D (Cyc T) s) :
    Answers (execLdv c gd a reg tm off s) (Sound M C D (Cyc T)) := by
  unfold execLdv
  dsimp only
  exact answers_issueSlot h fun _ h1 => sound_ite (sound_setCore h (coreSound_foldl (coreSound_upd h1) fun _ _ h2 =>
      coreSound_useBanks h2)) (sound_raiseCore h)

theorem answers_execStv {T : Nat → Prop} {c gd a reg off s} (h : Sound M C D (Cyc T) s) :
    Answers (execStv c gd a reg off s) (Sound M C D (Cyc T)) :=
  answers_issueSlot h fun _ h1 => sound_issueStore h h1

theorem sound_readLoad {T : Nat → Prop} {s c l} (h : Sound M C D (Cyc T) s) :
    Sound M C D (Cyc T) (readLoad s c l) := by
  unfold readLoad
  dsimp only
  split
  · exact sound_modCore h fun _ h1 => coreSound_upd h1
  · split
    · rename_i e
      exact (sound_of_snd e (sound_spmRead h))
    · rename_i e
      split
      · exact sound_modCore (sound_of_snd e (sound_spmRead h)) fun _ h2 => coreSound_upd h2
      · exact sound_modCore (sound_of_snd e (sound_spmRead h)) fun _ h3 => coreSound_upd h3

theorem sound_readLoads {T : Nat → Prop} {s c} (h : Sound M C D (Cyc T) s) :
    Sound M C D (Cyc T) (readLoads s c) := by
  unfold readLoads
  exact sound_foldl (sound_modCore h fun _ h1 => coreSound_upd h1) fun _ _ h2 => sound_readLoad h2

theorem sound_doStore {T : Plane → Prop} {s c w} (h : Sound M C D (OnPlane T) s) :
    Sound M C D (OnPlane T) (doStore s c w) :=
  sound_spmWrite h

theorem sound_issueXfer {T : Nat → Prop} {s c k put a g cc lines tm} (h : Sound M C D (Cyc T) s) (h1 : CoreSound C k) :
    Sound M C D (Cyc T) (issueXfer s c k put a g cc lines tm) := by
  unfold issueXfer
  dsimp only
  split
  · exact sound_raiseCore h
  · split
    · exact sound_raiseCore h
    · exact sound_upd h

theorem answers_execCget {T : Nat → Prop} {c gd a g cc lines tm s} (h : Sound M C D (Cyc T) s) :
    Answers (execCget c gd a g cc lines tm s) (Sound M C D (Cyc T)) :=
  answers_issueSlot h fun _ h1 => sound_issueXfer h h1

theorem answers_execCput {T : Nat → Prop} {c gd a g cc lines s} (h : Sound M C D (Cyc T) s) :
    Answers (execCput c gd a g cc lines s) (Sound M C D (Cyc T)) :=
  answers_issueSlot h fun _ h1 => sound_issueXfer h h1

theorem sound_cmRead {T : Plane → Prop} {s pcl off n} (h : Sound M C D (OnPlane T) s) :
    Sound M C D (OnPlane T) (cmRead s pcl off n).2 :=
  sound_sramRead h

theorem sound_cmWrite {T : Plane → Prop} {s pcl off d} (h : Sound M C D (OnPlane T) s) :
    Sound M C D (OnPlane T) (cmWrite s pcl off d) :=
  sound_sramStore h

theorem sound_incrRun {T : Nat → Prop} {s c i pc sl} (h : Sound M C D (Cyc T) s) :
    Sound M C D (Cyc T) (incrRun s c i pc sl) := by
  unfold incrRun
  split
  · exact sound_incr h
  · exact h

theorem answers_execClusterTransferComplete {T : Nat → Prop} {id s} (h : Sound M C D (Cyc T) s) :
    Answers (execClusterTransferComplete id s) (Sound M C D (Cyc T)) := by
  unfold execClusterTransferComplete
  dsimp only
  split
  · exact answers_next h
  · split
    · exact answers_next h
    · exact answers_next (sound_incrRun (sound_upd h))

theorem sound_takeGranules {T : Nat → Prop} {s c n} (h : Sound M C D (Cyc T) s) :
    Sound M C D (Cyc T) (takeGranules s c n).2 := by
  unfold takeGranules
  dsimp only
  exact sound_setCore h (coreSound_upd (h.core _))

theorem sound_takeChecked {T : Nat → Prop} {s c n sl pc} (h : Sound M C D (Cyc T) s) :
    Sound M C D (Cyc T) (takeChecked s c n sl pc).2 := by
  unfold takeChecked
  dsimp only
  split
  · rename_i e
    exact (sound_of_snd e (sound_sramReadAll h))
  · rename_i e
    exact sound_takeGranules (sound_of_snd e (sound_sramReadAll h))

theorem answers_execWdrop {T : Nat → Prop} {c gd granules s} (h : Sound M C D (Cyc T) s) :
    Answers (execWdrop c gd granules s) (Sound M C D (Cyc T)) := by
  unfold execWdrop
  exact answers_issueSlot h fun _ h1 => sound_setCore h (coreSound_upd h1)

theorem answers_sBin {T : Nat → Prop} {s c gd d s1 s2 lat f} (h : Sound M C D (Cyc T) s) :
    Answers (sBin s c gd d s1 s2 lat f) (Sound M C D (Cyc T)) :=
  answers_issueSlot h fun _ _ => sound_laterG h

theorem answers_sImm {T : Nat → Prop} {s c gd d s1 legal f} (h : Sound M C D (Cyc T) s) :
    Answers (sImm s c gd d s1 legal f) (Sound M C D (Cyc T)) :=
  answers_issueSlot h fun _ _ => sound_laterG h

theorem answers_execNop {T : Plane → Prop} {c sl gd s} (h : Sound M C D (OnPlane T) s) :
    Answers (execNop c sl gd s) (Sound M C D (OnPlane T)) :=
  answers_issueSlot h fun _ _ => h

theorem answers_execAdd {T : Nat → Prop} {c gd d s1 s2 s} (h : Sound M C D (Cyc T) s) :
    Answers (execAdd c gd d s1 s2 s) (Sound M C D (Cyc T)) :=
  answers_sBin h

theorem answers_execSub {T : Nat → Prop} {c gd d s1 s2 s} (h : Sound M C D (Cyc T) s) :
    Answers (execSub c gd d s1 s2 s) (Sound M C D (Cyc T)) :=
  answers_sBin h

theorem answers_execAnd {T : Nat → Prop} {c gd d s1 s2 s} (h : Sound M C D (Cyc T) s) :
    Answers (execAnd c gd d s1 s2 s) (Sound M C D (Cyc T)) :=
  answers_sBin h

theorem answers_execOr {T : Nat → Prop} {c gd d s1 s2 s} (h : Sound M C D (Cyc T) s) :
    Answers (execOr c gd d s1 s2 s) (Sound M C D (Cyc T)) :=
  answers_sBin h

theorem answers_execXor {T : Nat → Prop} {c gd d s1 s2 s} (h : Sound M C D (Cyc T) s) :
    Answers (execXor c gd d s1 s2 s) (Sound M C D (Cyc T)) :=
  answers_sBin h

theorem answers_execShl {T : Nat → Prop} {c gd d s1 s2 s} (h : Sound M C D (Cyc T) s) :
    Answers (execShl c gd d s1 s2 s) (Sound M C D (Cyc T)) :=
  answers_sBin h

theorem answers_execShr {T : Nat → Prop} {c gd d s1 s2 s} (h : Sound M C D (Cyc T) s) :
    Answers (execShr c gd d s1 s2 s) (Sound M C D (Cyc T)) :=
  answers_sBin h

theorem answers_execSra {T : Nat → Prop} {c gd d s1 s2 s} (h : Sound M C D (Cyc T) s) :
    Answers (execSra c gd d s1 s2 s) (Sound M C D (Cyc T)) :=
  answers_sBin h

theorem answers_execMul {T : Nat → Prop} {c gd d s1 s2 s} (h : Sound M C D (Cyc T) s) :
    Answers (execMul c gd d s1 s2 s) (Sound M C D (Cyc T)) :=
  answers_sBin h

theorem answers_execMin {T : Nat → Prop} {c gd d s1 s2 s} (h : Sound M C D (Cyc T) s) :
    Answers (execMin c gd d s1 s2 s) (Sound M C D (Cyc T)) :=
  answers_sBin h

theorem answers_execMax {T : Nat → Prop} {c gd d s1 s2 s} (h : Sound M C D (Cyc T) s) :
    Answers (execMax c gd d s1 s2 s) (Sound M C D (Cyc T)) :=
  answers_sBin h

theorem answers_execAddi {T : Nat → Prop} {c gd d s1 imm s} (h : Sound M C D (Cyc T) s) :
    Answers (execAddi c gd d s1 imm s) (Sound M C D (Cyc T)) :=
  answers_sImm h

theorem answers_execAndi {T : Nat → Prop} {c gd d s1 imm s} (h : Sound M C D (Cyc T) s) :
    Answers (execAndi c gd d s1 imm s) (Sound M C D (Cyc T)) :=
  answers_sImm h

theorem answers_execOri {T : Nat → Prop} {c gd d s1 imm s} (h : Sound M C D (Cyc T) s) :
    Answers (execOri c gd d s1 imm s) (Sound M C D (Cyc T)) :=
  answers_sImm h

theorem answers_execXori {T : Nat → Prop} {c gd d s1 imm s} (h : Sound M C D (Cyc T) s) :
    Answers (execXori c gd d s1 imm s) (Sound M C D (Cyc T)) :=
  answers_sImm h

theorem answers_execShli {T : Nat → Prop} {c gd d s1 imm s} (h : Sound M C D (Cyc T) s) :
    Answers (execShli c gd d s1 imm s) (Sound M C D (Cyc T)) :=
  answers_sImm h

theorem answers_execShri {T : Nat → Prop} {c gd d s1 imm s} (h : Sound M C D (Cyc T) s) :
    Answers (execShri c gd d s1 imm s) (Sound M C D (Cyc T)) :=
  answers_sImm h

theorem answers_execSrai {T : Nat → Prop} {c gd d s1 imm s} (h : Sound M C D (Cyc T) s) :
    Answers (execSrai c gd d s1 imm s) (Sound M C D (Cyc T)) :=
  answers_sImm h

theorem answers_execLi {T : Nat → Prop} {c gd d imm s} (h : Sound M C D (Cyc T) s) :
    Answers (execLi c gd d imm s) (Sound M C D (Cyc T)) :=
  answers_sImm h

theorem answers_execLih {T : Nat → Prop} {c gd d imm s} (h : Sound M C D (Cyc T) s) :
    Answers (execLih c gd d imm s) (Sound M C D (Cyc T)) :=
  answers_sImm h

theorem answers_execCmp {T : Nat → Prop} {c gd pd cond s1 s2 im imm s} (h : Sound M C D (Cyc T) s) :
    Answers (execCmp c gd pd cond s1 s2 im imm s) (Sound M C D (Cyc T)) :=
  answers_issueSlot h fun _ _ => sound_laterP h

theorem answers_execPlog {T : Nat → Prop} {c gd pd ps1 n1 ps2 n2 fn s} (h : Sound M C D (Cyc T) s) :
    Answers (execPlog c gd pd ps1 n1 ps2 n2 fn s) (Sound M C D (Cyc T)) :=
  answers_issueSlot h fun _ _ => sound_laterP h

theorem answers_execAmov {T : Nat → Prop} {c gd d s1 s} (h : Sound M C D (Cyc T) s) :
    Answers (execAmov c gd d s1 s) (Sound M C D (Cyc T)) :=
  answers_issueSlot h fun _ _ => sound_laterA h

theorem answers_execGmov {T : Nat → Prop} {c gd d s1 s} (h : Sound M C D (Cyc T) s) :
    Answers (execGmov c gd d s1 s) (Sound M C D (Cyc T)) :=
  answers_issueSlot h fun _ _ => sound_laterG h

theorem answers_execAadd {T : Nat → Prop} {c gd d s1 imm s} (h : Sound M C D (Cyc T) s) :
    Answers (execAadd c gd d s1 imm s) (Sound M C D (Cyc T)) :=
  answers_issueSlot h fun _ _ => sound_laterA h

theorem answers_execAaddg {T : Nat → Prop} {c gd d s1 s2 s} (h : Sound M C D (Cyc T) s) :
    Answers (execAaddg c gd d s1 s2 s) (Sound M C D (Cyc T)) :=
  answers_issueSlot h fun _ _ => sound_laterA h

theorem answers_branchSlot {T : Nat → Prop} {s c gd act} (h : Sound M C D (Cyc T) s) (h1 : ∀ k, CoreSound C k → CoreSound C (act k)) :
    Answers (branchSlot s c gd act) (Sound M C D (Cyc T)) := by
  unfold branchSlot
  dsimp only
  exact answers_issueSlot h fun _ h2 => sound_setCore h (coreSound_upd (h1 _ h2))

theorem answers_execBr {T : Nat → Prop} {c gd off s} (h : Sound M C D (Cyc T) s) :
    Answers (execBr c gd off s) (Sound M C D (Cyc T)) := by
  unfold execBr
  exact answers_branchSlot h fun _ h1 => coreSound_upd h1

theorem answers_execBdec {T : Nat → Prop} {c gd g off s} (h : Sound M C D (Cyc T) s) :
    Answers (execBdec c gd g off s) (Sound M C D (Cyc T)) := by
  unfold execBdec
  dsimp only
  exact answers_branchSlot h fun _ h1 => coreSound_ite (coreSound_later h1) (coreSound_upd (coreSound_later h1))

theorem answers_execJr {T : Nat → Prop} {c gd g s} (h : Sound M C D (Cyc T) s) :
    Answers (execJr c gd g s) (Sound M C D (Cyc T)) := by
  unfold execJr
  exact answers_branchSlot h fun _ h1 => coreSound_upd h1

theorem answers_execJal {T : Nat → Prop} {c gd g off s} (h : Sound M C D (Cyc T) s) :
    Answers (execJal c gd g off s) (Sound M C D (Cyc T)) := by
  unfold execJal
  dsimp only
  exact answers_branchSlot h fun _ h1 => coreSound_upd (coreSound_later h1)

theorem answers_execRdsh {T : Nat → Prop} {c gd d s1 s} (h : Sound M C D (Cyc T) s) :
    Answers (execRdsh c gd d s1 s) (Sound M C D (Cyc T)) :=
  answers_issueSlot h fun _ _ => sound_laterG h

theorem answers_execRdcyc {T : Nat → Prop} {c gd d s} (h : Sound M C D (Cyc T) s) :
    Answers (execRdcyc c gd d s) (Sound M C D (Cyc T)) :=
  answers_issueSlot h fun _ _ => sound_laterG h

theorem answers_execRdcc {T : Nat → Prop} {c gd cc g s} (h : Sound M C D (Cyc T) s) :
    Answers (execRdcc c gd cc g s) (Sound M C D (Cyc T)) := by
  unfold execRdcc
  exact answers_issueSlot h fun _ h1 => sound_setCore h (coreSound_upd h1)

theorem sound_ccOp {T : Nat → Prop} {s c i f} (h : Sound M C D (Cyc T) s) :
    Sound M C D (Cyc T) (ccOp s c i f) := by
  unfold ccOp
  dsimp only
  split
  · exact sound_raise h
  · exact sound_setCore h (coreSound_upd (coreSound_ccSet (h.core _)))

theorem answers_execCset {T : Nat → Prop} {c gd cc g src imm s} (h : Sound M C D (Cyc T) s) :
    Answers (execCset c gd cc g src imm s) (Sound M C D (Cyc T)) :=
  answers_issueSlot h fun _ _ => sound_ccOp h

theorem answers_execCadd {T : Nat → Prop} {c gd cc g src imm s} (h : Sound M C D (Cyc T) s) :
    Answers (execCadd c gd cc g src imm s) (Sound M C D (Cyc T)) :=
  answers_issueSlot h fun _ _ => sound_ccOp h

theorem answers_execCsub {T : Nat → Prop} {c gd cc g src imm s} (h : Sound M C D (Cyc T) s) :
    Answers (execCsub c gd cc g src imm s) (Sound M C D (Cyc T)) :=
  answers_issueSlot h fun _ _ => sound_ccOp h

theorem answers_execWait {T : Nat → Prop} {c gd cc g src d imm s} (h : Sound M C D (Cyc T) s) :
    Answers (execWait c gd cc g src d imm s) (Sound M C D (Cyc T)) := by
  unfold execWait
  exact answers_issueSlot h fun _ h1 => sound_setCore h (coreSound_upd h1)

theorem sound_fetchFail {T : Nat → Prop} {s c} (h : Sound M C D (Cyc T) s) :
    Sound M C D (Cyc T) (fetchFail s c) := by
  unfold fetchFail
  exact sound_modCore h fun _ h1 => coreSound_upd h1

theorem sound_fetchClash {T : Nat → Prop} {s c} (h : Sound M C D (Cyc T) s) :
    Sound M C D (Cyc T) (fetchClash s c) := by
  unfold fetchClash
  dsimp only
  split
  · exact sound_raise (sound_setCore h (coreSound_upd (h.core _)))
  · exact sound_setCore h (coreSound_useBanks (h.core _))

theorem sound_fetchNow {T : Nat → Prop} {s c} (h : Sound M C D (Cyc T) s) :
    Sound M C D (Cyc T) (fetchNow s c) := by
  unfold fetchNow
  dsimp only
  split
  · exact sound_fetchFail (sound_raiseCore h)
  · split
    · rename_i e
      exact sound_fetchFail (sound_of_snd e (sound_spmRead h))
    · rename_i e
      exact sound_fetchClash (sound_of_snd e (sound_spmRead h))

theorem sound_waitFetch {T : Nat → Prop} {s c} (h : Sound M C D (Cyc T) s) :
    Sound M C D (Cyc T) (waitFetch s c) := by
  unfold waitFetch
  dsimp only
  split
  · split
    · exact sound_fetchNow h
    · exact h
  · exact h

theorem coreSound_noteChecks {k n} (h : CoreSound C k) :
    CoreSound C (noteChecks k n) := by
  unfold noteChecks
  exact coreSound_upd h

theorem answers_execWaitCheck {T : Nat → Prop} {c s} (h : Sound M C D (Cyc T) s) :
    Answers (execWaitCheck c s) (Sound M C D (Cyc T)) := by
  unfold execWaitCheck
  dsimp only
  split
  · exact answers_next h
  · split
    · split
      · exact answers_next (sound_setCore h (coreSound_upd (h.core _)))
      · exact answers_next (sound_raise (sound_setCore h (coreSound_upd (h.core _))))
    · exact answers_next h

theorem answers_execWatch {T : Nat → Prop} {c gd cc g src d imm s} (h : Sound M C D (Cyc T) s) :
    Answers (execWatch c gd cc g src d imm s) (Sound M C D (Cyc T)) := by
  unfold execWatch
  dsimp only
  exact answers_issueSlot h fun _ h1 => sound_ite (sound_raise h) (sound_setCore h (coreSound_upd h1))

theorem sound_raiseWatches {T : Plane → Prop} {s c l} (h : Sound M C D (OnPlane T) s) :
    Sound M C D (OnPlane T) (raiseWatches s c l) := by
  induction l generalizing s with
  | nil => exact h
  | cons w r ih =>
    refine ih ?_
    split
    · exact sound_ite h (sound_raise h)
    · exact h

theorem answers_execWatchCheck {T : Nat → Prop} {c s} (h : Sound M C D (Cyc T) s) :
    Answers (execWatchCheck c s) (Sound M C D (Cyc T)) := by
  unfold execWatchCheck
  dsimp only
  split
  · exact answers_next h
  · exact answers_next (sound_raiseWatches (sound_setCore h (coreSound_upd (h.core _))))

theorem answers_execArm {T : Nat → Prop} {c gd cc g src imm s} (h : Sound M C D (Cyc T) s) :
    Answers (execArm c gd cc g src imm s) (Sound M C D (Cyc T)) := by
  unfold execArm
  exact answers_issueSlot h fun _ h1 => sound_ite h (sound_setCore h (coreSound_upd h1))

theorem answers_execFront {T : Nat → Prop} {c gd num bound stp s} (h : Sound M C D (Cyc T) s) :
    Answers (execFront c gd num bound stp s) (Sound M C D (Cyc T)) := by
  unfold execFront
  dsimp only
  exact answers_issueSlot h fun _ h1 => sound_upd (sound_setCore h (coreSound_upd h1))

theorem answers_vBin {T : Nat → Prop} {s c gd vd vs1 vs2 ty f} (h : Sound M C D (Cyc T) s) :
    Answers (vBin s c gd vd vs1 vs2 ty f) (Sound M C D (Cyc T)) :=
  answers_issueSlot h fun _ _ => sound_laterV h

theorem answers_vFn {T : Nat → Prop} {s c gd vd vs1 ty lat f} (h : Sound M C D (Cyc T) s) :
    Answers (vFn s c gd vd vs1 ty lat f) (Sound M C D (Cyc T)) :=
  answers_issueSlot h fun _ _ => sound_laterV h

theorem answers_vRed {T : Nat → Prop} {s c gd vd vs1 ty lat f} (h : Sound M C D (Cyc T) s) :
    Answers (vRed s c gd vd vs1 ty lat f) (Sound M C D (Cyc T)) :=
  answers_issueSlot h fun _ _ => sound_laterV h

theorem answers_execVadd {T : Nat → Prop} {c gd vd vs1 vs2 ty s} (h : Sound M C D (Cyc T) s) :
    Answers (execVadd c gd vd vs1 vs2 ty s) (Sound M C D (Cyc T)) :=
  answers_vBin h

theorem answers_execVsub {T : Nat → Prop} {c gd vd vs1 vs2 ty s} (h : Sound M C D (Cyc T) s) :
    Answers (execVsub c gd vd vs1 vs2 ty s) (Sound M C D (Cyc T)) :=
  answers_vBin h

theorem answers_execVmul {T : Nat → Prop} {c gd vd vs1 vs2 ty s} (h : Sound M C D (Cyc T) s) :
    Answers (execVmul c gd vd vs1 vs2 ty s) (Sound M C D (Cyc T)) :=
  answers_vBin h

theorem answers_execVfma {T : Nat → Prop} {c gd vd vs1 vs2 vs3 ty s} (h : Sound M C D (Cyc T) s) :
    Answers (execVfma c gd vd vs1 vs2 vs3 ty s) (Sound M C D (Cyc T)) :=
  answers_issueSlot h fun _ _ => sound_laterV h

theorem answers_execVmin {T : Nat → Prop} {c gd vd vs1 vs2 ty s} (h : Sound M C D (Cyc T) s) :
    Answers (execVmin c gd vd vs1 vs2 ty s) (Sound M C D (Cyc T)) :=
  answers_vBin h

theorem answers_execVmax {T : Nat → Prop} {c gd vd vs1 vs2 ty s} (h : Sound M C D (Cyc T) s) :
    Answers (execVmax c gd vd vs1 vs2 ty s) (Sound M C D (Cyc T)) :=
  answers_vBin h

theorem answers_execVcmp {T : Nat → Prop} {c gd vd vs1 vs2 ty cond s} (h : Sound M C D (Cyc T) s) :
    Answers (execVcmp c gd vd vs1 vs2 ty cond s) (Sound M C D (Cyc T)) :=
  answers_issueSlot h fun _ _ => sound_laterV h

theorem answers_execVsel {T : Nat → Prop} {c gd vd vs1 vs2 vs3 ty s} (h : Sound M C D (Cyc T) s) :
    Answers (execVsel c gd vd vs1 vs2 vs3 ty s) (Sound M C D (Cyc T)) :=
  answers_issueSlot h fun _ _ => sound_laterV h

theorem answers_execVexp {T : Nat → Prop} {c gd vd vs1 ty s} (h : Sound M C D (Cyc T) s) :
    Answers (execVexp c gd vd vs1 ty s) (Sound M C D (Cyc T)) :=
  answers_vFn h

theorem answers_execVlog {T : Nat → Prop} {c gd vd vs1 ty s} (h : Sound M C D (Cyc T) s) :
    Answers (execVlog c gd vd vs1 ty s) (Sound M C D (Cyc T)) :=
  answers_vFn h

theorem answers_execVrcp {T : Nat → Prop} {c gd vd vs1 ty s} (h : Sound M C D (Cyc T) s) :
    Answers (execVrcp c gd vd vs1 ty s) (Sound M C D (Cyc T)) :=
  answers_vFn h

theorem answers_execVrsq {T : Nat → Prop} {c gd vd vs1 ty s} (h : Sound M C D (Cyc T) s) :
    Answers (execVrsq c gd vd vs1 ty s) (Sound M C D (Cyc T)) :=
  answers_vFn h

theorem answers_execVrsum {T : Nat → Prop} {c gd vd vs1 ty s} (h : Sound M C D (Cyc T) s) :
    Answers (execVrsum c gd vd vs1 ty s) (Sound M C D (Cyc T)) :=
  answers_vRed h

theorem answers_execVrmax {T : Nat → Prop} {c gd vd vs1 ty s} (h : Sound M C D (Cyc T) s) :
    Answers (execVrmax c gd vd vs1 ty s) (Sound M C D (Cyc T)) :=
  answers_vRed h

theorem answers_execVrmin {T : Nat → Prop} {c gd vd vs1 ty s} (h : Sound M C D (Cyc T) s) :
    Answers (execVrmin c gd vd vs1 ty s) (Sound M C D (Cyc T)) :=
  answers_vRed h

theorem answers_execVcvt {T : Nat → Prop} {c gd vd vs1 sf df half s} (h : Sound M C D (Cyc T) s) :
    Answers (execVcvt c gd vd vs1 sf df half s) (Sound M C D (Cyc T)) :=
  answers_issueSlot h fun _ _ => sound_laterV h

theorem answers_execVquant {T : Nat → Prop} {c gd vd vs1 sf df half s} (h : Sound M C D (Cyc T) s) :
    Answers (execVquant c gd vd vs1 sf df half s) (Sound M C D (Cyc T)) :=
  answers_issueSlot h fun _ _ => sound_laterV h

theorem answers_execVdeq {T : Nat → Prop} {c gd vd vs1 sf df half s} (h : Sound M C D (Cyc T) s) :
    Answers (execVdeq c gd vd vs1 sf df half s) (Sound M C D (Cyc T)) :=
  answers_issueSlot h fun _ _ => sound_laterV h

theorem sound_laterGroup {T : Nat → Prop} {s c lat vd l} (h : Sound M C D (Cyc T) s) :
    Sound M C D (Cyc T) (laterGroup s c lat vd l) := by
  induction l generalizing s vd with
  | nil => exact h
  | cons v r ih => exact ih (sound_laterV h)

theorem answers_execVwadd {T : Nat → Prop} {c gd vd vs1 vs2 ty s} (h : Sound M C D (Cyc T) s) :
    Answers (execVwadd c gd vd vs1 vs2 ty s) (Sound M C D (Cyc T)) :=
  answers_issueSlot h fun _ _ => sound_laterGroup h

theorem answers_execVwrnd {T : Nat → Prop} {c gd vd vs1 ty s} (h : Sound M C D (Cyc T) s) :
    Answers (execVwrnd c gd vd vs1 ty s) (Sound M C D (Cyc T)) :=
  answers_issueSlot h fun _ _ => sound_laterV h

theorem answers_execVpop {T : Nat → Prop} {c gd vd arr grp s} (h : Sound M C D (Cyc T) s) :
    Answers (execVpop c gd vd arr grp s) (Sound M C D (Cyc T)) := by
  unfold execVpop
  dsimp only
  exact answers_issueSlot h fun _ h1 => sound_laterGroup (sound_setCore h (coreSound_upd h1 (harr := fun _ => twf_tset)))

theorem answers_execVext {T : Nat → Prop} {c gd d s1 lane ty s} (h : Sound M C D (Cyc T) s) :
    Answers (execVext c gd d s1 lane ty s) (Sound M C D (Cyc T)) :=
  answers_issueSlot h fun _ _ => sound_laterG h

theorem answers_execVsplat {T : Nat → Prop} {c gd d s1 ty s} (h : Sound M C D (Cyc T) s) :
    Answers (execVsplat c gd d s1 ty s) (Sound M C D (Cyc T)) :=
  answers_issueSlot h fun _ _ => sound_laterV h

theorem answers_execVtopm {T : Nat → Prop} {c gd vd vs1 gs init s} (h : Sound M C D (Cyc T) s) :
    Answers (execVtopm c gd vd vs1 gs init s) (Sound M C D (Cyc T)) :=
  answers_issueSlot h fun _ _ => sound_laterGroup h

end Sys2Proof.Proofs
end

section
/-! PROOFS. Every function keeps the canonical forms: the array group and the correction unit. -/

namespace Sys2Proof.Proofs

set_option Elab.async false

open Sys2Proof Sys2Proof.Machine Sys2Proof.Safety Sys2Proof.Laws

variable {M C D : Prop} {T : Rest → Prop}

theorem sound_enqueueX {T : Nat → Prop} {s c k op} (h : Sound M C D (Cyc T) s) (h1 : CoreSound C k) :
    Sound M C D (Cyc T) (enqueueX s c k op) := by
  unfold enqueueX
  exact sound_setCore h (coreSound_upd h1)

theorem answers_execTld {T : Nat → Prop} {c gd amask slot sc src a tm s} (h : Sound M C D (Cyc T) s) :
    Answers (execTld c gd amask slot sc src a tm s) (Sound M C D (Cyc T)) := by
  unfold execTld
  dsimp only
  exact answers_issueSlot h fun _ h1 => sound_ite (sound_raiseCore h) (sound_enqueueX h h1)

theorem answers_execStrm {T : Nat → Prop} {c gd amask tsrc opn b len gV gM a af asr anchor s} (h : Sound M C D (Cyc T) s) :
    Answers (execStrm c gd amask tsrc opn b len gV gM a af asr anchor s) (Sound M C D (Cyc T)) := by
  unfold execStrm
  dsimp only
  exact answers_issueSlot h fun _ h1 => sound_ite (sound_enqueueX h h1) (sound_raiseCore h)

theorem answers_execDrn {T : Nat → Prop} {c gd arr r0 rows form dst a cc s} (h : Sound M C D (Cyc T) s) :
    Answers (execDrn c gd arr r0 rows form dst a cc s) (Sound M C D (Cyc T)) := by
  unfold execDrn
  dsimp only
  exact answers_issueSlot h fun _ h1 => sound_ite (sound_raiseCore h) (sound_enqueueX h h1)

theorem answers_execAinit {T : Nat → Prop} {c gd arr r0 rows form dst a cc s} (h : Sound M C D (Cyc T) s) :
    Answers (execAinit c gd arr r0 rows form dst a cc s) (Sound M C D (Cyc T)) := by
  unfold execAinit
  dsimp only
  exact answers_issueSlot h fun _ h1 => sound_ite (sound_raiseCore h) (sound_enqueueX h h1)

theorem answers_execAmode {T : Nat → Prop} {c gd wf ae xm nc ceil s} (h : Sound M C D (Cyc T) s) :
    Answers (execAmode c gd wf ae xm nc ceil s) (Sound M C D (Cyc T)) :=
  answers_issueSlot h fun _ h1 => sound_enqueueX h h1

theorem answers_execCmerge {T : Nat → Prop} {c gd arr b rbase rows s} (h : Sound M C D (Cyc T) s) :
    Answers (execCmerge c gd arr b rbase rows s) (Sound M C D (Cyc T)) :=
  answers_issueSlot h fun _ h1 => sound_enqueueX h h1

theorem coreSound_setArr {k i a} (h : CoreSound C k) :
    CoreSound C (Core.setArr k i a) := by
  unfold Core.setArr
  exact coreSound_upd h (harr := fun _ => twf_tset)

theorem sound_startX {T : Nat → Prop} {s c e} (h : Sound M C D (Cyc T) s) :
    Sound M C D (Cyc T) (startX s c e) := by
  unfold startX
  dsimp only
  split
  · exact sound_setCore h (coreSound_upd (h.core _))
  · exact sound_setCore h (coreSound_upd (h.core _))
  · exact sound_setCore h (coreSound_upd (h.core _))
  · split
    · exact sound_raiseCore h
    · split
      · exact sound_raiseCore h
      · exact sound_setCore h (coreSound_upd (h.core _))
  · split
    · exact sound_raiseCore h
    · exact sound_setCore h (coreSound_upd (h.core _))
  · exact sound_setCore h (coreSound_upd (h.core _))

theorem sound_noteSlip {T : Nat → Prop} {s c slip} (h : Sound M C D (Cyc T) s) :
    Sound M C D (Cyc T) (noteSlip s c slip) := by
  unfold noteSlip
  dsimp only
  exact sound_upd (sound_modCore h fun _ h1 => coreSound_upd h1)

theorem sound_popX {T : Nat → Prop} {s c} (h : Sound M C D (Cyc T) s) :
    Sound M C D (Cyc T) (popX s c) := by
  unfold popX
  dsimp only
  split
  · exact h
  · split
    · exact sound_raiseCore (sound_noteSlip (sound_setCore h (coreSound_upd (h.core _))))
    · exact sound_startX (sound_noteSlip (sound_setCore h (coreSound_upd (h.core _))))

theorem coreSound_feedLine {s c k p} (_ : Sound M C D T s) (h : CoreSound C k) :
    CoreSound C (feedLine s c k p).2 := by
  unfold feedLine
  dsimp only
  split
  · split
    · exact coreSound_upd h
    · exact coreSound_upd h
  · exact h
  · exact h

theorem sound_feederStep {T : Nat → Prop} {s c} (h : Sound M C D (Cyc T) s) :
    Sound M C D (Cyc T) (feederStep s c) := by
  unfold feederStep
  dsimp only
  split
  · exact h
  · split
    · exact h
    · split
      · rename_i e
        exact sound_setCore (sound_of_snd e (sound_sramReadAll h)) (coreSound_upd (h.core _))
      · rename_i e
        exact sound_grantA (sound_setCore (sound_of_snd e (sound_sramReadAll h)) (coreSound_upd (coreSound_feedLine h (h.core
            _))))

theorem coreSound_passColumns {k p g after f} (h : CoreSound C k) :
    CoreSound C (passColumns k p g after f) := by
  unfold passColumns
  dsimp only
  exact coreSound_foldl h fun _ _ h1 => coreSound_ite (coreSound_foldl h1 fun _ _ h2 => coreSound_setArr h2) h1

theorem coreSound_accPass {k p g} (h : CoreSound C k) :
    CoreSound C (accPass k p g) :=
  coreSound_passColumns h

theorem coreSound_openPass {k p g} (h : CoreSound C k) :
    CoreSound C (openPass k p g) := by
  unfold openPass
  split
  · exact coreSound_passColumns h
  · exact h

theorem coreSound_takeTile {k p l} (h : CoreSound C k) :
    CoreSound C (takeTile k p l).1 := by
  induction l generalizing k p with
  | nil => exact h
  | cons i r ih => exact ih (coreSound_setArr h)

theorem coreSound_beginPass {k p} (h : CoreSound C k) :
    CoreSound C (beginPass k p) := by
  unfold beginPass
  dsimp only
  exact coreSound_upd (coreSound_takeTile h)

theorem sound_beginPasses {T : Nat → Prop} {s c} (h : Sound M C D (Cyc T) s) :
    Sound M C D (Cyc T) (beginPasses s c) := by
  unfold beginPasses
  dsimp only
  split
  · exact h
  · split
    · exact h
    · split
      · exact sound_raise (sound_setCore h (coreSound_upd (h.core _)))
      · exact sound_setCore h (coreSound_beginPass (h.core _))

theorem sound_checkPass {T : Nat → Prop} {s c p} (h : Sound M C D (Cyc T) s) :
    Sound M C D (Cyc T) (checkPass s c p) := by
  unfold checkPass
  dsimp only
  split
  · exact sound_raise (sound_setCore h (coreSound_upd (h.core _)))
  · exact h

theorem sound_checkPasses {T : Nat → Prop} {s c} (h : Sound M C D (Cyc T) s) :
    Sound M C D (Cyc T) (checkPasses s c) :=
  sound_foldl h fun _ _ h1 => sound_checkPass h1

theorem coreSound_fillSlots {k l is recs} (h : CoreSound C k) :
    CoreSound C (fillSlots k l is recs) := by
  induction is generalizing k recs with
  | nil => exact h
  | cons i r ih =>
    cases recs with
    | nil => exact h
    | cons q qs => exact ih (coreSound_setArr h)

theorem sound_loadBeat {T : Nat → Prop} {s c l lines} (h : Sound M C D (Cyc T) s) :
    Sound M C D (Cyc T) (loadBeat s c l lines).2 := by
  unfold loadBeat
  split
  · split
    · rename_i e
      exact (sound_of_snd e (sound_sramReadAll h))
    · rename_i e
      exact sound_grantA (sound_of_snd e (sound_sramReadAll h))
  · split
    · rename_i e
      exact (sound_of_snd e (sound_takeChecked h))
    · rename_i e
      exact (sound_of_snd e (sound_takeChecked h))

theorem sound_loadGoes {T : Nat → Prop} {s c l} (h : Sound M C D (Cyc T) s) :
    Sound M C D (Cyc T) (loadGoes s c l) := by
  unfold loadGoes
  exact sound_modCore h fun _ h1 => coreSound_ite (coreSound_fillSlots h1) (coreSound_upd h1)

theorem sound_loadsStep {T : Nat → Prop} {s c used lost off l} (h : Sound M C D (Cyc T) s) :
    Sound M C D (Cyc T) (loadsStep s c used lost off l) := by
  induction l generalizing s used lost off with
  | nil => exact h
  | cons l r ih =>
    simp only [loadsStep]
    split
    · exact ih (sound_setCore h (coreSound_upd (h.core _)))
    · split
      · split
        · exact ih (sound_setCore h (coreSound_upd (h.core _)))
        · exact ih (sound_setCore h (coreSound_upd (h.core _)))
      · split
        · exact ih (sound_setCore h (coreSound_upd (h.core _)))
        · split
          · rename_i e
            exact ih (sound_of_snd e (sound_loadBeat h))
          · rename_i e
            exact ih (sound_loadGoes (sound_of_snd e (sound_loadBeat h)))

theorem sound_moveRow {T : Nat → Prop} {s c d} (h : Sound M C D (Cyc T) s) :
    Sound M C D (Cyc T) (moveRow s c d) := by
  unfold moveRow
  dsimp only
  exact sound_setCore h (coreSound_upd (coreSound_setArr (h.core _)))

theorem sound_drainsStep {T : Nat → Prop} {s c} (h : Sound M C D (Cyc T) s) :
    Sound M C D (Cyc T) (drainsStep s c) :=
  sound_foldl h fun _ _ h1 => sound_moveRow h1

theorem coreSound_mergesStep {k} (h : CoreSound C k) :
    CoreSound C (mergesStep k) := by
  unfold mergesStep
  dsimp only
  exact coreSound_upd (coreSound_foldl h fun _ _ h1 => coreSound_setArr h1)

theorem sound_initOpens {T : Nat → Prop} {s c i} (h : Sound M C D (Cyc T) s) :
    Sound M C D (Cyc T) (initOpens s c i).2 := by
  unfold initOpens
  dsimp only
  split
  · exact h
  · exact sound_ite (sound_incrRun (sound_modCore h fun _ h1 => coreSound_setArr h1)) (sound_modCore h fun _ h2 =>
        coreSound_setArr h2)

theorem sound_initReads {T : Nat → Prop} {s c i} (h : Sound M C D (Cyc T) s) :
    Sound M C D (Cyc T) (initReads s c i).2 := by
  unfold initReads
  dsimp only
  split
  · split
    · exact h
    · split
      · rename_i e
        exact (sound_of_snd e (sound_spmRead h))
      · rename_i e
        exact sound_grantA (sound_of_snd e (sound_spmRead h))
  · split
    · exact h
    · split
      · rename_i e
        exact (sound_of_snd e (sound_spmRead h))
      · rename_i e
        exact sound_grantA (sound_of_snd e (sound_spmRead h))

theorem sound_initsStep {T : Nat → Prop} {s c i} (h : Sound M C D (Cyc T) s) :
    Sound M C D (Cyc T) (initsStep s c i) := by
  unfold initsStep
  dsimp only
  split
  · exact sound_initOpens h
  · split
    · rename_i e
      exact (sound_of_snd e (sound_initReads (sound_initOpens h)))
    · rename_i e
      exact sound_modCore (sound_of_snd e (sound_initReads (sound_initOpens h))) fun _ h1 => coreSound_upd h1

theorem sound_drainWrite {T : Nat → Prop} {s c arr} (h : Sound M C D (Cyc T) s) :
    Sound M C D (Cyc T) (drainWrite s c arr) := by
  unfold drainWrite
  dsimp only
  split
  · exact h
  · split
    · exact h
    · exact sound_incrRun (sound_grantA (sound_setCore h (coreSound_upd (coreSound_setArr (h.core _)))))

theorem sound_drainWrites {T : Nat → Prop} {s c} (h : Sound M C D (Cyc T) s) :
    Sound M C D (Cyc T) (drainWrites s c) :=
  sound_foldl h fun _ _ h1 => sound_drainWrite h1

theorem answers_execDrainWrite {T : Nat → Prop} {c arr s} (h : Sound M C D (Cyc T) s) :
    Answers (execDrainWrite c arr s) (Sound M C D (Cyc T)) := by
  unfold execDrainWrite
  dsimp only
  split
  · exact answers_next h
  · split
    · exact answers_next h
    · split
      · exact answers_next h
      · split
        · exact answers_next (sound_incrRun (sound_setCore h (coreSound_setArr (h.core _))))
        · exact answers_next (sound_setCore h (coreSound_setArr (h.core _)))

theorem sound_noteFreeze {T : Nat → Prop} {s c} (h : Sound M C D (Cyc T) s) :
    Sound M C D (Cyc T) (noteFreeze s c) := by
  unfold noteFreeze
  dsimp only
  exact sound_upd h

theorem sound_slipOver {T : Nat → Prop} {s c} (h : Sound M C D (Cyc T) s) :
    Sound M C D (Cyc T) (slipOver s c) := by
  unfold slipOver
  dsimp only
  split
  · split
    · exact sound_raiseCore (sound_setCore h (coreSound_upd (h.core _)))
    · exact h
  · exact h

theorem sound_groupCycle {T : Nat → Prop} {s c} (h : Sound M C D (Cyc T) s) :
    Sound M C D (Cyc T) (groupCycle s c) := by
  unfold groupCycle
  dsimp only
  exact sound_modCore (sound_loadsStep (sound_modCore (sound_foldl (sound_modCore (sound_modCore (sound_checkPasses
      (sound_beginPasses (sound_drainsStep (sound_popX (sound_modCore h fun _ h1 => coreSound_upd h1))))) fun _ h2 =>
          coreSound_foldl (coreSound_mergesStep (coreSound_foldl h2 fun _ _ h3 => coreSound_accPass h3)) fun _ _ h4 =>
              coreSound_openPass h4) fun _ h5 => coreSound_upd h5) fun _ _ h6 => sound_initsStep h6) fun _ h7 =>
                  coreSound_upd h7)) fun _ h8 => coreSound_upd h8

theorem sound_arrayCycle {T : Nat → Prop} {s c} (h : Sound M C D (Cyc T) s) :
    Sound M C D (Cyc T) (arrayCycle s c) := by
  unfold arrayCycle
  split
  · exact sound_slipOver (sound_noteFreeze (sound_modCore h fun _ h1 => coreSound_upd h1))
  · exact sound_groupCycle h

theorem sound_enqueueCorr {T : Nat → Prop} {s c k op cc} (h : Sound M C D (Cyc T) s) (h1 : CoreSound C k) :
    Sound M C D (Cyc T) (enqueueCorr s c k op cc) := by
  unfold enqueueCorr
  exact sound_setCore h (coreSound_upd h1)

theorem answers_execCvt {T : Nat → Prop} {c gd rank vsrc av ax asr af p ks anchor cc s} (h : Sound M C D (Cyc T) s) :
    Answers (execCvt c gd rank vsrc av ax asr af p ks anchor cc s) (Sound M C D (Cyc T)) := by
  unfold execCvt
  dsimp only
  exact answers_issueSlot h fun _ h1 => sound_ite (sound_raiseCore h) (sound_enqueueCorr h h1)

theorem answers_execCut {T : Nat → Prop} {c gd rank usrc au p outs grp opn anchor cc rbase ns s} (h : Sound M C D (Cyc T) s) :
    Answers (execCut c gd rank usrc au p outs grp opn anchor cc rbase ns s) (Sound M C D (Cyc T)) := by
  unfold execCut
  dsimp only
  exact answers_issueSlot h fun _ h1 => sound_ite (sound_raiseCore h) (sound_enqueueCorr h h1)

theorem answers_execCout {T : Nat → Prop} {c gd arr half p rbase opn anchor cc s} (h : Sound M C D (Cyc T) s) :
    Answers (execCout c gd arr half p rbase opn anchor cc s) (Sound M C D (Cyc T)) :=
  answers_issueSlot h fun _ h1 => sound_enqueueCorr h h1

theorem coreSound_modRes {k base p f} (h : CoreSound C k) :
    CoreSound C (modRes k base p f) := by
  unfold modRes
  exact coreSound_foldl h fun _ _ h1 => coreSound_upd h1

theorem coreSound_corrResult {k e} (h : CoreSound C k) :
    CoreSound C (corrResult k e) := by
  unfold corrResult
  dsimp only
  split
  · exact coreSound_foldl h fun _ _ h1 => coreSound_upd h1
  · exact coreSound_modRes h
  · exact coreSound_modRes h

theorem sound_corrReadStep {T : Nat → Prop} {s c e} (h : Sound M C D (Cyc T) s) :
    Sound M C D (Cyc T) (corrReadStep s c e).2 := by
  unfold corrReadStep
  dsimp only
  split
  · rename_i e
    exact (sound_of_snd e (sound_sramReadAll h))
  · rename_i e
    exact sound_grantA (sound_of_snd e (sound_sramReadAll h))

theorem sound_corrTake {T : Nat → Prop} {s c e} (h : Sound M C D (Cyc T) s) :
    Sound M C D (Cyc T) (corrTake s c e).2 := by
  unfold corrTake
  split
  · rename_i e
    exact (sound_of_snd e (sound_takeChecked h))
  · rename_i e
    exact (sound_of_snd e (sound_takeChecked h))

theorem sound_corrCycle {T : Nat → Prop} {s c} (h : Sound M C D (Cyc T) s) :
    Sound M C D (Cyc T) (corrCycle s c) := by
  unfold corrCycle
  dsimp only
  split
  · exact h
  · split
    · rename_i e
      exact sound_modCore (sound_of_snd e (sound_corrTake h)) fun _ h1 => coreSound_upd h1
    · rename_i e
      split
      · rename_i e2
        exact sound_modCore (sound_of_snd e2 (sound_corrReadStep (sound_of_snd e (sound_corrTake h)))) fun _ h2 =>
            coreSound_upd h2
      · rename_i e2
        exact sound_modCore (sound_of_snd e2 (sound_corrReadStep (sound_of_snd e (sound_corrTake h)))) fun _ h3 =>
            coreSound_upd h3

theorem answers_execCorrectionOpEnd {T : Nat → Prop} {c s} (h : Sound M C D (Cyc T) s) :
    Answers (execCorrectionOpEnd c s) (Sound M C D (Cyc T)) := by
  unfold execCorrectionOpEnd
  dsimp only
  split
  · exact answers_next h
  · split
    · exact answers_next h
    · split
      · exact answers_next h
      · exact answers_next (sound_incrRun (sound_setCore h (coreSound_upd (coreSound_corrResult (h.core _)))))

end Sys2Proof.Proofs
end

section
/-! PROOFS. Every function keeps the canonical forms: events, fences, the KV store and hput. -/

namespace Sys2Proof.Proofs

set_option Elab.async false

open Sys2Proof Sys2Proof.Machine Sys2Proof.Safety Sys2Proof.Laws

variable {M C D : Prop} {T : Rest → Prop}

theorem sound_writeBack {s t} (h : Sound M C D T s) :
    Sound M C D T (writeBack s t) := by
  unfold writeBack
  dsimp only
  split
  · exact sound_emit h
  · exact h

theorem sound_raiseEvt {s t} (h : Sound M C D T s) :
    Sound M C D T (raiseEvt s t) := by
  unfold raiseEvt
  split
  · exact sound_emit (sound_modTenant h)
  · exact h

theorem sound_raiseTok {s t} (h : Sound M C D T s) :
    Sound M C D T (raiseTok s t) := by
  unfold raiseTok
  split
  · exact sound_emit (sound_modTenant h)
  · exact h

theorem sound_putEvent {s t e} (h : Sound M C D T s) :
    Sound M C D T (putEvent s t e) :=
  sound_raiseEvt (sound_writeBack (sound_modTenant (sound_emit h)))

theorem sound_setEvq {s t l} (h : Sound M C D T s) :
    Sound M C D T (State.setEvq s t l) := by
  unfold State.setEvq
  dsimp only
  exact sound_beside h

theorem sound_flushList {s t l} (h : Sound M C D T s) :
    Sound M C D T (flushList s t l) := by
  induction l generalizing s with
  | nil => exact sound_setEvq h
  | cons e r ih => exact sound_ite (sound_setEvq h) (ih (sound_putEvent h))

theorem sound_flushEvents {s t} (h : Sound M C D T s) :
    Sound M C D T (flushEvents s t) := by
  unfold flushEvents
  split
  · exact h
  · exact sound_flushList h

theorem sound_sendEvent {s t e} (h : Sound M C D T s) :
    Sound M C D T (sendEvent s t e) := by
  unfold sendEvent
  dsimp only
  split
  · exact h
  · split
    · exact sound_putEvent h
    · split
      · exact sound_setEvq h
      · exact sound_beside h

theorem sound_sendToken {s t d} (h : Sound M C D T s) :
    Sound M C D T (sendToken s t d) := by
  unfold sendToken
  dsimp only
  split
  · exact h
  · exact sound_raiseTok (sound_writeBack (sound_modTenant (sound_emit h)))

theorem sound_putOwner {s e} (h : Sound M C D T s) :
    Sound M C D T (putOwner s e) := by
  unfold putOwner
  dsimp only
  exact sound_emit (sound_beside (sound_emit h))

theorem sound_flushOwnerList {s l} (h : Sound M C D T s) :
    Sound M C D T (flushOwnerList s l) := by
  induction l generalizing s with
  | nil => exact sound_beside h
  | cons e r ih => exact sound_ite (sound_beside h) (ih (sound_putOwner h))

theorem sound_flushOwner {s} (h : Sound M C D T s) :
    Sound M C D T (flushOwner s) :=
  sound_flushOwnerList h

theorem sound_ownerEvent {s code reason value tag} (h : Sound M C D T s) :
    Sound M C D T (ownerEvent s code reason value tag) := by
  unfold ownerEvent
  dsimp only
  split
  · exact sound_putOwner h
  · split
    · exact sound_beside h
    · exact sound_beside h

theorem sound_drainDrop {s t} (h : Sound M C D T s) :
    Sound M C D T (drainDrop s t) :=
  sound_modTenant h

theorem sound_badIndex {s t} (h : Sound M C D T s) :
    Sound M C D T (badIndex s t) :=
  sound_modTenant h

theorem sound_writeRingBase {s r v} (h : Sound M C D T s) :
    Sound M C D T (writeRingBase s r v) := by
  unfold writeRingBase
  dsimp only
  split
  · split
    · exact sound_drainDrop h
    · exact sound_modTenant h
  · split
    · exact sound_drainDrop h
    · exact sound_modTenant h
  · split
    · exact sound_drainDrop h
    · exact sound_flushEvents (sound_modTenant h)
  · exact sound_flushOwner (sound_beside h)

theorem sound_writeHostIndex {s r v} (h : Sound M C D T s) :
    Sound M C D T (writeHostIndex s r v) := by
  unfold writeHostIndex
  dsimp only
  split
  · exact h
  · split
    · exact sound_drainDrop h
    · split
      · exact sound_badIndex h
      · exact sound_modTenant h
  · split
    · exact sound_drainDrop h
    · split
      · exact sound_badIndex h
      · exact sound_flushEvents (sound_modTenant h)
  · split
    · exact h
    · exact sound_flushOwner (sound_beside h)

theorem answers_execRingConfigWrite {owner ring v s} (h : Sound M C D T s) :
    Answers (execRingConfigWrite owner ring v s) (Sound M C D T) := by
  unfold execRingConfigWrite
  split
  · exact answers_next h
  · exact answers_next (sound_writeRingBase h)

theorem sound_writeRecord {T : Plane → Prop} {s} (h : Sound M C D (OnPlane T) s) :
    Sound M C D (OnPlane T) (writeRecord s) := by
  unfold writeRecord
  dsimp only
  exact sound_updPlane h

theorem sound_wstEnd {s result} (h : Sound M C D T s) :
    Sound M C D T (wstEnd s result) := by
  unfold wstEnd
  dsimp only
  exact sound_ownerEvent (sound_beside h)

theorem sound_dropField {T : Plane → Prop} {s lf} (h : Sound M C D (OnPlane T) s) :
    Sound M C D (OnPlane T) (dropField s lf) := by
  have hinv : ∀ w : WSlot, w ≠ {} → (if lf < w.man.fFields then { w with invalid := true } else w) ≠ {} := by
    intro w hw
    split
    · exact fun e => nomatch congrArg WSlot.invalid e
    · exact hw
  unfold dropField
  dsimp only
  split
  · exact sound_wstEnd (sound_updPlane h (wslots := fun _ => twf_map hinv))
  · exact sound_updPlane h (wslots := fun _ => twf_map hinv)

theorem sound_startSubst {s} (h : Sound M C D T s) :
    Sound M C D T (startSubst s) := by
  unfold startSubst
  dsimp only
  split
  · split
    · exact h
    · exact sound_beside h
  · exact h

theorem sound_loseField {T : Plane → Prop} {s lf} (h : Sound M C D (OnPlane T) s) :
    Sound M C D (OnPlane T) (loseField s lf) := by
  unfold loseField
  dsimp only
  split
  · split
    · exact sound_updPlane h
    · exact sound_dropField h
  · split
    · exact sound_startSubst (sound_updPlane h)
    · exact sound_updPlane h

theorem sound_maskField {T : Plane → Prop} {s pf} (h : Sound M C D (OnPlane T) s) :
    Sound M C D (OnPlane T) (maskField s pf) := by
  unfold maskField
  dsimp only
  exact sound_updPlane h

theorem sound_dropExcess {T : Plane → Prop} {n s} (h : Sound M C D (OnPlane T) s) :
    Sound M C D (OnPlane T) (dropExcess n s) := by
  induction n generalizing s with
  | zero => exact h
  | succ n ih =>
    rw [dropExcess]
    split
    · split
      · exact ih (sound_dropField h)
      · exact h
    · exact h

theorem sound_abandonSpare {T : Plane → Prop} {s pf} (h : Sound M C D (OnPlane T) s) :
    Sound M C D (OnPlane T) (abandonSpare s pf) := by
  unfold abandonSpare
  dsimp only
  split
  · split
    · split
      · exact sound_startSubst (sound_dropExcess (sound_updPlane h))
      · exact sound_dropExcess (sound_updPlane h)
    · exact sound_dropExcess h
  · exact sound_dropExcess h

theorem sound_fenceField {T : Plane → Prop} {s pf st} (h : Sound M C D (OnPlane T) s) :
    Sound M C D (OnPlane T) (fenceField s pf st) := by
  unfold fenceField
  dsimp only
  split
  · exact sound_updPlane h
  · split
    · exact sound_loseField (sound_writeRecord (sound_maskField (sound_updPlane h)))
    · exact sound_abandonSpare (sound_writeRecord (sound_maskField (sound_updPlane h)))

theorem sound_fenceCluster {T : Plane → Prop} {s pcl} (h : Sound M C D (OnPlane T) s) :
    Sound M C D (OnPlane T) (fenceCluster s pcl) :=
  sound_fenceField h

theorem sound_fenceCore {T : Plane → Prop} {s c} (h : Sound M C D (OnPlane T) s) :
    Sound M C D (OnPlane T) (fenceCore s c) := by
  unfold fenceCore
  dsimp only
  split
  · exact sound_fenceField (sound_writeRecord (sound_updPlane h))
  · exact sound_writeRecord (sound_updPlane h)

theorem answers_execFieldSubstitutionStart {s} (h : Sound M C D T s) :
    Answers (execFieldSubstitutionStart s) (Sound M C D T) := by
  unfold execFieldSubstitutionStart
  exact answers_next (sound_ite (sound_startSubst h) h)

theorem sound_kvBlockWrite {T : Plane → Prop} {s area addr d} (h : Sound M C D (OnPlane T) s) :
    Sound M C D (OnPlane T) (kvBlockWrite s area addr d) := by
  unfold kvBlockWrite
  dsimp only
  split
  · exact h
  · split
    · exact sound_sramStore h
    · exact sound_updPlane h (kvMem := fun _ => memWf_mwrite)

theorem sound_kvBlocksWrite {T : Plane → Prop} {s area addr d n} (h : Sound M C D (OnPlane T) s) :
    Sound M C D (OnPlane T) (kvBlocksWrite s area addr d n) := by
  induction n generalizing s addr d with
  | zero => exact h
  | succ n ih => exact ih (sound_kvBlockWrite h)

theorem sound_kvRunWrite {T : Plane → Prop} {s area addr d n} (h : Sound M C D (OnPlane T) s) :
    Sound M C D (OnPlane T) (kvRunWrite s area addr d n) := by
  induction n generalizing s addr d with
  | zero => exact h
  | succ n ih => exact ih (sound_kvBlockWrite h)

theorem sound_kvWriteAll {T : Plane → Prop} {s area addr d} (h : Sound M C D (OnPlane T) s) :
    Sound M C D (OnPlane T) (kvWriteAll s area addr d) :=
  sound_kvRunWrite h

theorem sound_hdmWrite {T : Plane → Prop} {s addr d bad} (h : Sound M C D (OnPlane T) s) :
    Sound M C D (OnPlane T) (hdmWrite s addr d bad) :=
  sound_foldl h fun _ _ h1 => sound_kvRunWrite h1

theorem sound_setPfx {s g e} (h : Sound M C D T s) :
    Sound M C D T (State.setPfx s g e) := by
  unfold State.setPfx
  dsimp only
  exact sound_beside h

theorem sound_pfxRef {s g} (h : Sound M C D T s) :
    Sound M C D T (pfxRef s g) :=
  sound_setPfx h

theorem sound_pfxExtend {s scope st par l} (h : Sound M C D T s) :
    Sound M C D T (pfxExtend s scope st par l).2 := by
  induction l generalizing s par with
  | nil => exact h
  | cons x r ih =>
    rw [pfxExtend]
    split
    · exact h
    · split
      · exact h
      · exact ih (sound_setPfx h)

theorem sound_pfxRelease {s g} (h : Sound M C D T s) :
    Sound M C D T (pfxRelease s g) := by
  unfold pfxRelease
  dsimp only
  split
  · exact sound_setPfx h
  · exact sound_setPfx h

theorem sound_releaseChain {s l} (h : Sound M C D T s) :
    Sound M C D T (releaseChain s l) :=
  sound_foldl h fun _ _ h1 => sound_pfxRelease h1

theorem sound_pfxWithdraw {s g} (h : Sound M C D T s) :
    Sound M C D T (pfxWithdraw s g) := by
  unfold pfxWithdraw
  dsimp only
  split
  · exact h
  · split
    · exact sound_setPfx h
    · exact sound_setPfx h

theorem sound_markFault {s slot reason} (h : Sound M C D T s) :
    Sound M C D T (markFault s slot reason) := by
  unfold markFault
  dsimp only
  split
  · exact h
  · exact sound_beside h (slots := fun _ => twf_tset)

theorem sound_markChains {s l} (h : Sound M C D T s) :
    Sound M C D T (markChains s l) :=
  sound_foldl h fun _ _ h1 => sound_markFault h1

theorem sound_elogAdd {s area addr tile code who ten} (h : Sound M C D T s) :
    Sound M C D T (elogAdd s area addr tile code who ten) := by
  unfold elogAdd
  dsimp only
  exact sound_beside h

theorem sound_spareRow {T : Plane → Prop} {s line} (h : Sound M C D (OnPlane T) s) :
    Sound M C D (OnPlane T) (spareRow s line) := by
  unfold spareRow
  dsimp only
  split
  · exact sound_fenceCluster (sound_updPlane h (kvMem := fun _ => memWf_mclear))
  · split
    · exact sound_fenceCluster (sound_updPlane h (kvMem := fun _ => memWf_mclear))
    · exact sound_updPlane h (kvMem := fun _ => memWf_mclear)

theorem sound_contain {s area addr} (h : Sound M C D T s) :
    Sound M C D T (contain s area addr).2.2.2 := by
  unfold contain
  dsimp only
  split
  · split
    · exact h
    · split
      · exact h
      · split
        · exact sound_markFault h
        · exact h
  · split
    · exact sound_foldl (sound_markChains h) fun _ _ h1 => sound_pfxWithdraw h1
    · exact h
  · split
    · exact sound_foldl (sound_beside h (adps := fun _ => twf_tset)) fun _ _ h1 => sound_markFault h1
    · exact h
  · exact sound_ownerEvent h

theorem sound_lineFault {T : Plane → Prop} {s line via} (h : Sound M C D (OnPlane T) s) :
    Sound M C D (OnPlane T) (lineFault s line via) := by
  unfold lineFault
  dsimp only
  split
  · exact sound_spareRow h
  · split
    · exact sound_spareRow (sound_elogAdd (sound_markFault h))
    · exact sound_spareRow (sound_elogAdd (sound_contain h))
    · exact sound_spareRow (sound_elogAdd (sound_contain h))

theorem sound_kvCorrected {s n} (h : Sound M C D T s) :
    Sound M C D T (kvCorrected s n) := by
  unfold kvCorrected
  dsimp only
  exact sound_beside h

theorem sound_badLines {T : Plane → Prop} {s area l} (h : Sound M C D (OnPlane T) s) :
    Sound M C D (OnPlane T) (badLines s area l) := by
  induction l generalizing s with
  | nil => exact h
  | cons x r ih =>
    refine ih ?_
    split
    · exact sound_lineFault h
    · exact h

theorem sound_issueKv {T : Nat → Prop} {s c k store area g a lines qm cc} (h : Sound M C D (Cyc T) s) (h1 : CoreSound C k) :
    Sound M C D (Cyc T) (issueKv s c k store area g a lines qm cc) := by
  unfold issueKv
  dsimp only
  split
  · exact sound_raiseCore h
  · split
    · exact sound_raiseCore h
    · split
      · exact sound_raiseCore (sound_upd h)
      · exact sound_upd h

theorem answers_execKvld {T : Nat → Prop} {c gd area g a lines cc s} (h : Sound M C D (Cyc T) s) :
    Answers (execKvld c gd area g a lines cc s) (Sound M C D (Cyc T)) :=
  answers_issueSlot h fun _ h1 => sound_issueKv h h1

theorem answers_execKvst {T : Nat → Prop} {c gd area g a lines cc qm s} (h : Sound M C D (Cyc T) s) :
    Answers (execKvst c gd area g a lines cc qm s) (Sound M C D (Cyc T)) :=
  answers_issueSlot h fun _ h1 => sound_issueKv h h1

theorem sound_kvCount {T : Nat → Prop} {s c i pc} (h : Sound M C D (Cyc T) s) :
    Sound M C D (Cyc T) (kvCount s c i pc) := by
  unfold kvCount
  dsimp only
  split
  · exact sound_incr h
  · exact sound_upd h

theorem sound_planeRead {T : Nat → Prop} {s c cm o n pc} (h : Sound M C D (Cyc T) s) :
    Sound M C D (Cyc T) (planeRead s c cm o n pc).2 := by
  unfold planeRead
  split
  · exact sound_cmRead h
  · exact sound_spmRead h

theorem sound_planeWrite {T : Nat → Prop} {s c cm o pc d} (h : Sound M C D (Cyc T) s) :
    Sound M C D (Cyc T) (planeWrite s c cm o pc d) := by
  unfold planeWrite
  split
  · exact sound_cmWrite h
  · exact sound_spmWrite h

theorem sound_takeKv {T : Nat → Prop} {s id} (h : Sound M C D (Cyc T) s) :
    Sound M C D (Cyc T) (takeKv s id) := by
  unfold takeKv
  dsimp only
  exact sound_upd h

theorem answers_execKvldComplete {T : Nat → Prop} {id corr bad s} (h : Sound M C D (Cyc T) s) :
    Answers (execKvldComplete id corr bad s) (Sound M C D (Cyc T)) := by
  unfold execKvldComplete
  dsimp only
  split
  · exact answers_next h
  · split
    · exact answers_next h
    · exact answers_next (sound_kvCount (sound_planeWrite (sound_takeKv (sound_kvCorrected (sound_badLines h)))))

theorem sound_kvQuantLine {T : Nat → Prop} {s x d i} (h : Sound M C D (Cyc T) s) :
    Sound M C D (Cyc T) (kvQuantLine s x d i) := by
  unfold kvQuantLine
  dsimp only
  split
  · exact sound_kvBlockWrite h
  · exact sound_kvBlockWrite (sound_kvBlockWrite h)

theorem answers_execKvstComplete {T : Nat → Prop} {id ecc s} (h : Sound M C D (Cyc T) s) :
    Answers (execKvstComplete id ecc s) (Sound M C D (Cyc T)) := by
  unfold execKvstComplete
  dsimp only
  split
  · exact answers_next h
  · split
    · exact answers_next h
    · exact answers_next (sound_kvCount (sound_ite (sound_kvWriteAll (sound_badLines (sound_kvCorrected (sound_takeKv h))))
          (sound_foldl (sound_badLines (sound_kvCorrected (sound_takeKv h))) fun _ _ h1 => sound_kvQuantLine h1)))

theorem answers_execKvPatrolScrub {T : Plane → Prop} {line res s} (h : Sound M C D (OnPlane T) s) :
    Answers (execKvPatrolScrub line res s) (Sound M C D (OnPlane T)) := by
  unfold execKvPatrolScrub
  split
  · exact answers_next h
  · split
    · exact answers_next h
    · split
      · exact answers_next h
      · split
        · exact answers_next (sound_kvCorrected h)
        · exact answers_next (sound_lineFault h)

theorem sound_kvScatter {s a} (h : Sound M C D T s) :
    Sound M C D T (kvScatter s a) := by
  unfold kvScatter
  dsimp only
  split
  · exact sound_beside (sound_bumpFree h) (sram := fun _ hm => memWf_storeCells (twf_filter _ hm))
  · exact sound_beside (sound_bumpFree h) (kvMem := fun _ _ => memWf_storeCells memWf_nil)

theorem sound_kvApply {s} (h : Sound M C D T s) :
    Sound M C D T (kvApply s) := by
  unfold kvApply
  dsimp only
  split
  · exact sound_beside (sound_kvScatter h) (adps := fun _ _ => rfl)
  · exact sound_beside h

theorem answers_execKvApply {s} (h : Sound M C D T s) :
    Answers (execKvApply s) (Sound M C D T) :=
  answers_next (sound_kvApply h)

theorem answers_execHput {T : Nat → Prop} {c gd a kind cc lines s} (h : Sound M C D (Cyc T) s) :
    Answers (execHput c gd a kind cc lines s) (Sound M C D (Cyc T)) := by
  unfold execHput
  dsimp only
  exact answers_issueSlot h fun _ _ => sound_ite (sound_raiseCore h) (sound_upd h)

theorem sound_hubTake {s lines d} (h : Sound M C D T s) :
    Sound M C D T (hubTake s lines d) := by
  unfold hubTake
  dsimp only
  split
  · exact sound_beside h
  · exact sound_beside h

theorem answers_execHputAccept {T : Nat → Prop} {id s} (h : Sound M C D (Cyc T) s) :
    Answers (execHputAccept id s) (Sound M C D (Cyc T)) := by
  unfold execHputAccept
  dsimp only
  split
  · exact answers_next h
  · split
    · exact answers_next h
    · exact answers_next (sound_kvCount (sound_ite (sound_hubTake (sound_upd h)) (sound_upd h)))

end Sys2Proof.Proofs
end

section
/-! PROOFS. Every function keeps the canonical forms: the Jetstream. -/

namespace Sys2Proof.Proofs

set_option Elab.async false

open Sys2Proof Sys2Proof.Machine Sys2Proof.Safety Sys2Proof.Laws

variable {M C D : Prop} {T : Rest → Prop}

theorem sound_inject {T : Nat → Prop} {s c k p pay} (h : Sound M C D (Cyc T) s) (h1 : CoreSound C k) :
    Sound M C D (Cyc T) (inject s c k p pay) := by
  unfold inject
  dsimp only
  exact sound_upd (sound_setCore h (coreSound_upd h1))

theorem answers_execSend {T : Nat → Prop} {c gd a gH flits cc lc s} (h : Sound M C D (Cyc T) s) :
    Answers (execSend c gd a gH flits cc lc s) (Sound M C D (Cyc T)) := by
  unfold execSend
  refine answers_issueSlot h fun k h1 => ?_
  refine sound_ite ?_ ?_
  · exact sound_raiseCore h
  · cases hdrFault s (wireHdr k gH flits.toNat) false false with
    | some cls => exact sound_raise h
    | none => exact sound_inject h h1

theorem answers_execGet {T : Nat → Prop} {c gd gH gR flits cc lc s} (h : Sound M C D (Cyc T) s) :
    Answers (execGet c gd gH gR flits cc lc s) (Sound M C D (Cyc T)) := by
  unfold execGet
  refine answers_issueSlot h fun k h1 => ?_
  extract_lets hdr r
  generalize hdrFault s hdr true false = f
  generalize hdrFault s r false true = f2
  cases f with
  | some cls => exact sound_raise h
  | none =>
    cases f2 with
    | some cls => exact sound_raise h
    | none => exact sound_inject h (coreSound_upd h1)

theorem sound_dropPkt {T : Nat → Prop} {s id} (h : Sound M C D (Cyc T) s) :
    Sound M C D (Cyc T) (dropPkt s id) := by
  unfold dropPkt
  dsimp only
  exact sound_upd h

theorem sound_collide {T : Nat → Prop} {s id rep other} (h : Sound M C D (Cyc T) s) :
    Sound M C D (Cyc T) (collide s id rep other) :=
  sound_dropPkt (sound_raise h)

theorem sound_putPkt {T : Nat → Prop} {s p} (h : Sound M C D (Cyc T) s) :
    Sound M C D (Cyc T) (putPkt s p) := by
  unfold putPkt
  dsimp only
  exact sound_upd h

theorem sound_addPkt {T : Nat → Prop} {s p} (h : Sound M C D (Cyc T) s) :
    Sound M C D (Cyc T) (addPkt s p) := by
  unfold addPkt
  dsimp only
  exact sound_upd h

theorem sound_trace {T : Plane → Prop} {s pcl port t half} (h : Sound M C D (OnPlane T) s) :
    Sound M C D (OnPlane T) (trace s pcl port t half) := by
  unfold trace
  dsimp only
  split
  · exact sound_updPlane h
  · exact h

theorem sound_countCrossing {T : Nat → Prop} {s n} (h : Sound M C D (Cyc T) s) :
    Sound M C D (Cyc T) (countCrossing s n) := by
  unfold countCrossing
  dsimp only
  exact sound_upd h

theorem sound_crossField {T : Nat → Prop} {s p pf d lane t} (h : Sound M C D (Cyc T) s) :
    Sound M C D (Cyc T) (crossField s p pf d lane t) := by
  unfold crossField
  split
  · exact sound_putPkt (sound_countCrossing h)
  · exact sound_putPkt (sound_countCrossing h)

theorem sound_of_holdOut {T : Nat → Prop} {s t : State} {res x len hdr} (h : Sound M C D (Cyc T) s) (e : holdOut s res x len hdr = .ok t) :
    Sound M C D (Cyc T) t := by
  unfold holdOut at e
  split at e
  · cases e
  · cases e
    exact sound_upd h

theorem sound_of_takeInjection {T : Nat → Prop} {s t : State} {p pcl port} (h : Sound M C D (Cyc T) s) (e : takeInjection s p pcl port = .ok t) :
    Sound M C D (Cyc T) t := by
  unfold takeInjection at e
  split at e
  · exact sound_of_holdOut h e
  · cases e
    exact h

theorem sound_of_tableRead {T : Plane → Prop} {s t : State} {key rep} (h : Sound M C D (OnPlane T) s) (e : tableRead s key rep = .ok t) : Sound M C D (OnPlane T) t := by
  unfold tableRead at e
  split at e
  · cases e
    exact h
  · cases e
    exact sound_updPlane h
  · cases e

theorem sound_of_tableRead_error {T : Nat → Prop} {s t : State} {key rep} (h : Sound M C D (Cyc T) s) (e : tableRead s key rep = .error t) :
    Sound M C D (Cyc T) t := by
  unfold tableRead at e
  split at e
  · cases e
  · cases e
  · cases e
    exact sound_raise h

theorem sound_leaveRouter {T : Nat → Prop} {s p pcl d t} (h : Sound M C D (Cyc T) s) :
    Sound M C D (Cyc T) (leaveRouter s p pcl d t) := by
  unfold leaveRouter
  dsimp only
  split
  · exact sound_collide h
  · rename_i e
    replace h := sound_of_holdOut h e
    split
    · exact sound_putPkt (sound_trace h)
    · split
      · exact sound_dropPkt (sound_raise (sound_trace h))
      · split
        · exact sound_dropPkt (sound_raise (sound_trace h))
        · split
          · exact sound_collide (sound_trace h)
          · rename_i e2
            exact sound_crossField (sound_of_holdOut (sound_trace h) e2)

theorem sound_ejectPkt {T : Nat → Prop} {s p pcl t} (h : Sound M C D (Cyc T) s) :
    Sound M C D (Cyc T) (ejectPkt s p pcl t) := by
  unfold ejectPkt
  dsimp only
  split
  · exact sound_collide h
  · rename_i e
    replace h := sound_of_holdOut h e
    exact sound_ite (sound_putPkt (sound_trace h)) (sound_dropPkt (sound_raise (sound_trace h)))

theorem sound_ejectCopy {T : Nat → Prop} {s p pcl t} (h : Sound M C D (Cyc T) s) :
    Sound M C D (Cyc T) (ejectCopy s p pcl t) := by
  unfold ejectCopy
  dsimp only
  split
  · exact sound_collide h
  · rename_i e
    replace h := sound_of_holdOut h e
    split
    · exact sound_ite (sound_putPkt (sound_trace h)) (sound_dropPkt (sound_trace h))
    · exact sound_dropPkt (sound_trace h)

theorem sound_copyOut {T : Nat → Prop} {s p pcl first l} (h : Sound M C D (Cyc T) s) :
    Sound M C D (Cyc T) (copyOut s p pcl first l) := by
  induction l generalizing s first with
  | nil => exact h
  | cons o r ih =>
    have h1 := sound_ite (p := first = true) h (sound_addPkt (p := p) h)
    exact ih (sound_ite (sound_ejectCopy h1) (sound_leaveRouter h1))

theorem sound_mcHop {T : Nat → Prop} {s p pcl port} (h : Sound M C D (Cyc T) s) :
    Sound M C D (Cyc T) (mcHop s p pcl port) := by
  unfold mcHop
  dsimp only
  split
  · exact sound_dropPkt (sound_raise h)
  · split
    · exact sound_dropPkt h
    · exact sound_copyOut h

theorem sound_reduceOut {T : Nat → Prop} {s p pcl o t} (h : Sound M C D (Cyc T) s) :
    Sound M C D (Cyc T) (reduceOut s p pcl o t) := by
  unfold reduceOut
  split
  · exact sound_ejectPkt h
  · exact sound_leaveRouter h

theorem sound_reduceHop {T : Nat → Prop} {s p pcl port} (h : Sound M C D (Cyc T) s) :
    Sound M C D (Cyc T) (reduceHop s p pcl port) := by
  unfold reduceHop
  dsimp only
  split
  · split
    · exact sound_dropPkt (sound_raise h)
    · split
      · exact sound_reduceOut h
      · exact sound_putPkt h
  · exact sound_dropPkt (sound_raise h)

theorem sound_uniHop {T : Nat → Prop} {s p pcl port} (h : Sound M C D (Cyc T) s) :
    Sound M C D (Cyc T) (uniHop s p pcl port) := by
  unfold uniHop
  dsimp only
  split
  · split
    · exact sound_ejectPkt h
    · exact sound_leaveRouter h
  · split
    · exact sound_dropPkt (sound_raise h)
    · split
      · exact sound_leaveRouter (sound_putPkt h)
      · exact sound_leaveRouter (sound_putPkt h)
      · exact sound_leaveRouter (sound_putPkt h)
      · exact sound_ejectPkt (sound_putPkt h)

theorem sound_routerHop {T : Nat → Prop} {s p pcl port} (h : Sound M C D (Cyc T) s) :
    Sound M C D (Cyc T) (routerHop s p pcl port) := by
  unfold routerHop
  split
  · exact sound_collide h
  · rename_i e
    replace h := sound_of_takeInjection h e
    split
    · exact sound_uniHop h
    · split
      · rename_i e2
        exact sound_dropPkt (sound_of_tableRead_error h e2)
      · rename_i e2
        replace h := sound_of_tableRead h e2
        exact sound_ite (sound_mcHop h) (sound_reduceHop h)

theorem answers_execRouterHop {T : Nat → Prop} {id s} (h : Sound M C D (Cyc T) s) :
    Answers (execRouterHop id s) (Sound M C D (Cyc T)) := by
  unfold execRouterHop
  split
  · exact answers_next h
  · split
    · split
      · exact answers_next h
      · exact answers_next (sound_routerHop h)
    · exact answers_next h

theorem sound_forwardGate {T : Nat → Prop} {s p pf lane t keep l} (h : Sound M C D (Cyc T) s) :
    Sound M C D (Cyc T) (forwardGate s p pf lane t keep l) := by
  induction l generalizing s with
  | nil => exact sound_ite h (sound_dropPkt h)
  | cons d r ih =>
    have h1 := sound_ite (p := (r.isEmpty && !keep) = true) h (sound_addPkt (p := p) h)
    refine sound_ite ?_ (ih ?_)
    · split
      · exact sound_collide h1
      · rename_i e
        exact sound_crossField (sound_of_holdOut h1 e)
    · split
      · exact sound_collide h1
      · rename_i e
        exact sound_crossField (sound_of_holdOut h1 e)

theorem sound_arriveGate {T : Nat → Prop} {s p pf side lane t} (h : Sound M C D (Cyc T) s) :
    Sound M C D (Cyc T) (arriveGate s p pf side lane t) := by
  unfold arriveGate
  split
  · split
    · exact sound_collide h
    · rename_i e
      exact sound_putPkt (sound_of_holdOut h e)
  · exact sound_dropPkt (sound_raise h)

theorem sound_bypassedGate {T : Nat → Prop} {s p pf side lane straight} (h : Sound M C D (Cyc T) s) :
    Sound M C D (Cyc T) (bypassedGate s p pf side lane straight) := by
  unfold bypassedGate
  split
  · exact sound_forwardGate h
  · exact sound_dropPkt (sound_raise h)

theorem sound_gateLookup {T : Nat → Prop} {s p pf side lane} (h : Sound M C D (Cyc T) s) :
    Sound M C D (Cyc T) (gateLookup s p pf side lane) := by
  unfold gateLookup
  dsimp only
  split
  · exact sound_dropPkt (sound_raise h)
  · split
    · exact sound_bypassedGate h
    · split
      · exact sound_arriveGate (sound_ite (sound_forwardGate h) h)
      · split
        · exact sound_forwardGate h
        · exact h

theorem sound_stationOut {T : Nat → Prop} {s p n dir lane t} (h : Sound M C D (Cyc T) s) :
    Sound M C D (Cyc T) (stationOut s p n dir lane t) := by
  unfold stationOut
  dsimp only
  split
  · exact sound_collide h
  · rename_i e
    replace h := sound_of_holdOut h e
    split
    · exact sound_putPkt (sound_countCrossing h)
    · exact sound_putPkt (sound_countCrossing h)
    · exact sound_ite (sound_crossField (sound_countCrossing h)) (sound_putPkt (sound_countCrossing h))

theorem sound_forwardStation {T : Nat → Prop} {s p n lane t l} (h : Sound M C D (Cyc T) s) :
    Sound M C D (Cyc T) (forwardStation s p n lane t l) := by
  induction l generalizing s with
  | nil => exact sound_dropPkt h
  | cons d r ih =>
    cases r with
    | nil => exact sound_stationOut h
    | cons d2 r => exact ih (sound_stationOut (sound_addPkt h))

theorem sound_stationLookup {T : Nat → Prop} {s p n lane} (h : Sound M C D (Cyc T) s) :
    Sound M C D (Cyc T) (stationLookup s p n lane) := by
  unfold stationLookup
  dsimp only
  split
  · exact sound_dropPkt (sound_raise h)
  · exact sound_forwardStation h

theorem answers_execGatewayLookup {T : Nat → Prop} {id s} (h : Sound M C D (Cyc T) s) :
    Answers (execGatewayLookup id s) (Sound M C D (Cyc T)) := by
  unfold execGatewayLookup
  split
  · exact answers_next h
  · split
    · exact answers_next h
    · split
      · split
        · rename_i e
          exact answers_next (sound_dropPkt (sound_of_tableRead_error h e))
        · rename_i e
          exact answers_next (sound_gateLookup (sound_of_tableRead h e))
      · split
        · rename_i e
          exact answers_next (sound_dropPkt (sound_of_tableRead_error h e))
        · rename_i e
          exact answers_next (sound_stationLookup (sound_of_tableRead h e))
      · exact answers_next h

theorem sound_combined {T : Nat → Prop} {s a ports} (h : Sound M C D (Cyc T) s) :
    Sound M C D (Cyc T) (combined s a ports).2 := by
  unfold combined
  dsimp only
  exact sound_upd h

theorem sound_reduceGroup {T : Nat → Prop} {s pcl p0 grp} (h : Sound M C D (Cyc T) s) :
    Sound M C D (Cyc T) (reduceGroup s pcl p0 grp) := by
  unfold reduceGroup
  dsimp only
  split
  · split
    · exact sound_raise (sound_foldl h fun _ _ h1 => sound_dropPkt h1)
    · split
      · exact sound_reduceOut h
      · exact sound_reduceOut (sound_combined (sound_foldl h fun _ _ h2 => sound_dropPkt h2))
  · exact sound_raise (sound_foldl h fun _ _ h3 => sound_dropPkt h3)
  · exact sound_raise (sound_foldl h fun _ _ h4 => sound_dropPkt h4)

theorem sound_of_injectAll {T : Nat → Prop} {s t : State} {pcl l} (h : Sound M C D (Cyc T) s) (e : injectAll s pcl l = .ok t) : Sound M C D (Cyc T) t := by
  induction l generalizing s with
  | nil =>
    cases e
    exact h
  | cons p r ih =>
    rw [injectAll] at e
    split at e
    · cases e
    · rename_i e1
      refine ih ?_ e
      split at e1
      · cases e1
        exact h
      · exact sound_of_takeInjection h e1

theorem sound_of_injectAll_error {T : Nat → Prop} {s t : State} {pcl l} (h : Sound M C D (Cyc T) s) (e : injectAll s pcl l = .error t) : Sound M C D (Cyc T) t := by
  induction l generalizing s with
  | nil => cases e
  | cons p r ih =>
    rw [injectAll] at e
    split at e
    · cases e
      exact sound_collide h
    · rename_i e1
      refine ih ?_ e
      split at e1
      · cases e1
        exact h
      · exact sound_of_takeInjection h e1

theorem answers_execReduceCombine {T : Nat → Prop} {pcl tree s} (h : Sound M C D (Cyc T) s) :
    Answers (execReduceCombine pcl tree s) (Sound M C D (Cyc T)) := by
  unfold execReduceCombine
  dsimp only
  split
  · exact answers_next h
  · split
    · exact answers_next h
    · split
      · rename_i e
        exact answers_next (sound_of_injectAll_error h e)
      · rename_i e
        exact answers_next (sound_reduceGroup (sound_of_injectAll h e))

theorem sound_markArrived {T : Nat → Prop} {s pcl off n} (h : Sound M C D (Cyc T) s) :
    Sound M C D (Cyc T) (markArrived s pcl off n) := by
  unfold markArrived
  split
  · exact h
  · exact sound_modCore h fun _ h1 => coreSound_upd h1

theorem answers_execPacketDelivery {T : Nat → Prop} {id s} (h : Sound M C D (Cyc T) s) :
    Answers (execPacketDelivery id s) (Sound M C D (Cyc T)) := by
  unfold execPacketDelivery
  split
  · exact answers_next h
  · split
    · split
      · exact answers_next h
      · split
        · exact answers_next (sound_incrRun (sound_dropPkt h))
        · exact answers_next (sound_dropPkt h)
    · exact answers_next h

theorem answers_execGetReply {T : Nat → Prop} {id s} (h : Sound M C D (Cyc T) s) :
    Answers (execGetReply id s) (Sound M C D (Cyc T)) := by
  unfold execGetReply
  dsimp only
  split
  · exact answers_next h
  · split
    · split
      · exact answers_next h
      · split
        · exact answers_next (sound_dropPkt h)
        · exact answers_next (sound_upd (sound_putPkt h))
    · exact answers_next h

theorem sound_sigFail {s} (h : Sound M C D T s) :
    Sound M C D T (sigFail s) := by
  unfold sigFail
  dsimp only
  exact sound_beside h

end Sys2Proof.Proofs
end

section
/-! PROOFS. Every function keeps the canonical forms: the weight store, and bundles. -/

namespace Sys2Proof.Proofs

set_option Elab.async false

open Sys2Proof Sys2Proof.Machine Sys2Proof.Safety Sys2Proof.Laws

variable {M C D : Prop} {T : Rest → Prop}

theorem sound_pageWrite {s place d} (h : Sound M C D T s) :
    Sound M C D T (pageWrite s place d) := by
  unfold pageWrite
  dsimp only
  exact sound_beside h (wstMem := fun _ => memWf_mwrite)

theorem sound_setWslot {s n x} (h : Sound M C D T s) :
    Sound M C D T (State.setWslot s n x) := by
  unfold State.setWslot
  dsimp only
  exact sound_beside h (wslots := fun _ => twf_tset)

theorem sound_listMissing {s n reason shard slice} (h : Sound M C D T s) :
    Sound M C D T (listMissing s n reason shard slice) := by
  unfold listMissing
  dsimp only
  split
  · exact h
  · exact sound_setWslot h

theorem sound_listDamage {s lcl wafer page reason} (h : Sound M C D T s) :
    Sound M C D T (listDamage s lcl wafer page reason) := by
  unfold listDamage
  dsimp only
  split
  · exact h
  · split
    · exact h
    · exact sound_setWslot (sound_listMissing h)

theorem sound_takeSpare {T : Nat → Prop} {s pcl wafer} (h : Sound M C D (Cyc T) s) :
    Sound M C D (Cyc T) (takeSpare s pcl wafer).2 := by
  unfold takeSpare
  dsimp only
  split
  · exact sound_fenceCluster h
  · exact sound_upd h

theorem sound_startWlds {T : Nat → Prop} {s pcl wafer} (h : Sound M C D (Cyc T) s) :
    Sound M C D (Cyc T) (startWlds s pcl wafer) := by
  unfold startWlds
  dsimp only
  exact sound_upd h

theorem sound_fixPlaces {T : Nat → Prop} {s} (h : Sound M C D (Cyc T) s) :
    Sound M C D (Cyc T) (fixPlaces s) :=
  sound_foldl h fun _ _ h1 => sound_startWlds h1

theorem sound_movePage {T : Nat → Prop} {s pcl wafer page} (h : Sound M C D (Cyc T) s) :
    Sound M C D (Cyc T) (movePage s pcl wafer page).2 := by
  unfold movePage
  dsimp only
  split
  · rename_i e
    exact (sound_of_snd e (sound_takeSpare h))
  · rename_i e
    exact sound_upd (sound_pageWrite (sound_fixPlaces (sound_of_snd e (sound_takeSpare h))))

theorem sound_retireBlock {T : Nat → Prop} {s blk} (h : Sound M C D (Cyc T) s) :
    Sound M C D (Cyc T) (retireBlock s blk).2 := by
  unfold retireBlock
  dsimp only
  exact sound_foldl_snd h fun _ _ h1 => by
    split
    · exact h1
    · split
      · rename_i e
        exact (sound_of_snd e (sound_movePage h1))
      · rename_i e
        exact (sound_of_snd e (sound_movePage h1))

theorem sound_wearBlocks {T : Nat → Prop} {n s l} (h : Sound M C D (Cyc T) s) :
    Sound M C D (Cyc T) (wearBlocks n s l) := by
  induction n generalizing s l with
  | zero =>
    cases l with
    | nil => exact h
    | cons b r => exact h
  | succ n ih =>
    cases l with
    | nil => exact h
    | cons b r =>
      rw [wearBlocks_cons]
      split
      · exact ih h
      · split
        · exact ih (sound_upd h)
        · exact ih (sound_retireBlock (sound_upd h))

theorem sound_wearPlaces {T : Nat → Prop} {s places} (h : Sound M C D (Cyc T) s) :
    Sound M C D (Cyc T) (wearPlaces s places) :=
  sound_wearBlocks h

theorem sound_writePages {T : Nat → Prop} {s pcl wafer page n d} (h : Sound M C D (Cyc T) s) :
    Sound M C D (Cyc T) (writePages s pcl wafer page n d) :=
  sound_wearPlaces (sound_foldl h fun _ _ h1 => sound_pageWrite h1)

theorem sound_countRead {s place} (h : Sound M C D T s) :
    Sound M C D T (countRead s place) := by
  unfold countRead
  dsimp only
  split
  · exact sound_beside h
  · exact sound_beside h

theorem sound_noteRead {s key r} (h : Sound M C D T s) :
    Sound M C D T (noteRead s key r) := by
  unfold noteRead
  dsimp only
  exact sound_beside h

theorem answers_execWld {T : Nat → Prop} {c gd wafer g pages cc s} (h : Sound M C D (Cyc T) s) :
    Answers (execWld c gd wafer g pages cc s) (Sound M C D (Cyc T)) := by
  unfold execWld
  dsimp only
  exact answers_issueSlot h fun _ _ => sound_ite (sound_raiseCore h) (by
    split
    · exact sound_raiseCore (sound_upd h)
    · exact sound_upd h)

theorem sound_fillFifo {T : Nat → Prop} {s c d} (h : Sound M C D (Cyc T) s) :
    Sound M C D (Cyc T) (fillFifo s c d) := by
  unfold fillFifo
  dsimp only
  exact sound_modCore (sound_foldl h fun _ _ h1 => sound_sramSet (sound_sramClean h1)) fun _ h2 => coreSound_upd h2

theorem sound_endPage {T : Nat → Prop} {s x res} (h : Sound M C D (Cyc T) s) :
    Sound M C D (Cyc T) (endPage s x res) := by
  unfold endPage
  dsimp only
  split
  · exact sound_raise (by
    split
    · exact sound_listDamage (sound_startWlds (sound_noteRead (sound_countRead (sound_upd h))))
    · exact sound_startWlds (sound_noteRead (sound_countRead (sound_upd h))))
  · split
    · exact sound_incr (sound_fillFifo (sound_startWlds (sound_noteRead (sound_countRead (sound_upd h)))))
    · exact sound_upd (sound_fillFifo (sound_startWlds (sound_noteRead (sound_countRead (sound_upd h)))))

theorem answers_execWeightPageArrival {T : Nat → Prop} {pcl wafer idx res s} (h : Sound M C D (Cyc T) s) :
    Answers (execWeightPageArrival pcl wafer idx res s) (Sound M C D (Cyc T)) := by
  unfold execWeightPageArrival
  dsimp only
  split
  · exact answers_next (sound_startWlds h)
  · split
    · exact answers_next (sound_startWlds h)
    · split
      · exact answers_next (sound_endPage (sound_startWlds h))
      · exact answers_next (sound_upd (sound_startWlds h))

theorem sound_retriesCycle {T : Nat → Prop} {s} (h : Sound M C D (Cyc T) s) :
    Sound M C D (Cyc T) (retriesCycle s) := by
  unfold retriesCycle
  exact sound_foldl h fun _ _ h1 => by
    split
    · split
      · exact sound_endPage h1
      · exact h1
    · exact h1

theorem sound_refreshPage {T : Nat → Prop} {s pcl wafer page} (h : Sound M C D (Cyc T) s) :
    Sound M C D (Cyc T) (refreshPage s pcl wafer page) := by
  unfold refreshPage
  dsimp only
  split
  · rename_i e
    exact (sound_of_snd e (sound_movePage h))
  · rename_i e
    exact sound_upd (sound_wearBlocks (sound_of_snd e (sound_movePage h)))

theorem answers_execWeightScrub {T : Nat → Prop} {wafer pcl page res s} (h : Sound M C D (Cyc T) s) :
    Answers (execWeightScrub wafer pcl page res s) (Sound M C D (Cyc T)) := by
  unfold execWeightScrub
  dsimp only
  split
  · exact answers_next h
  · split
    · exact answers_next h
    · split
      · exact answers_next (sound_listDamage (sound_noteRead (sound_countRead (sound_upd h))))
      · split
        · exact answers_next (sound_refreshPage (sound_noteRead (sound_countRead (sound_upd h))))
        · exact answers_next (sound_noteRead (sound_countRead (sound_upd h)))

theorem sound_beginVerify {s} (h : Sound M C D T s) :
    Sound M C D T (beginVerify s) := by
  unfold beginVerify
  dsimp only
  split
  · exact sound_setWslot h
  · exact h

theorem sound_wstAccept {s} (h : Sound M C D T s) :
    Sound M C D T (wstAccept s) := by
  unfold wstAccept
  dsimp only
  split
  · exact h
  · exact sound_beginVerify (sound_beside h)

theorem sound_wstRow {s n begin'} (h : Sound M C D T s) (h1 : ∀ s, Sound M C D T s → Sound M C D T (begin' s)) :
    Sound M C D T (wstRow s n begin') := by
  unfold wstRow
  dsimp only
  split
  · split
    · exact h
    · split
      · exact sound_wstEnd (sound_beside (sound_beginVerify h))
      · exact h1 _ (sound_beside (sound_beginVerify h))
  · split
    · exact sound_wstAccept (sound_beside h)
    · split
      · exact sound_wstEnd (sound_beside (sound_beginVerify (sound_wstAccept (sound_beside h))))
      · exact h1 _ (sound_beside (sound_beginVerify (sound_wstAccept (sound_beside h))))

theorem sound_openSession {s l} (h : Sound M C D T s) :
    Sound M C D T (openSession s l) := by
  unfold openSession
  dsimp only
  exact sound_beside h

theorem sound_sessionEnd {s} (h : Sound M C D T s) :
    Sound M C D T (sessionEnd s) := by
  unfold sessionEnd
  dsimp only
  split
  · exact h
  · exact sound_wstEnd (sound_ite (sound_setWslot h) h)

theorem sound_verifyFail {s result} (h : Sound M C D T s) :
    Sound M C D T (verifyFail s result) :=
  sound_wstEnd (sound_setWslot h)

theorem sound_installBegin {man s} (h : Sound M C D T s) :
    Sound M C D T (installBegin man s) := by
  unfold installBegin
  dsimp only
  split
  · exact sound_wstEnd h
  · split
    · exact sound_verifyFail (sound_ownerEvent h)
    · split
      · exact sound_verifyFail (sound_ite (sound_sigFail h) h)
      · split
        · exact sound_verifyFail h
        · exact sound_openSession (sound_setWslot h)

theorem answers_execInstall {man s} (h : Sound M C D T s) :
    Answers (execInstall man s) (Sound M C D T) :=
  answers_next (sound_wstRow h fun _ h1 => sound_installBegin h1)

theorem sound_resumeBegin {man s} (h : Sound M C D T s) :
    Sound M C D T (resumeBegin man s) := by
  unfold resumeBegin
  dsimp only
  split
  · exact sound_wstEnd h
  · split
    · exact sound_wstEnd (sound_ownerEvent h)
    · split
      · exact sound_wstEnd h
      · split
        · exact sound_wstEnd (sound_sigFail h)
        · split
          · exact sound_wstEnd h
          · exact sound_sessionEnd (sound_openSession (sound_setWslot h))

theorem answers_execWstResume {man s} (h : Sound M C D T s) :
    Answers (execWstResume man s) (Sound M C D T) :=
  answers_next (sound_wstRow h fun _ h1 => sound_resumeBegin h1)

theorem sound_listUnfinished {s n} (h : Sound M C D T s) :
    Sound M C D T (listUnfinished s n) := by
  unfold listUnfinished
  exact sound_foldl h fun _ _ h1 => sound_ite (sound_foldl h1 fun _ _ h2 => sound_listMissing h2) h1

theorem sound_stopSession {s result} (h : Sound M C D T s) :
    Sound M C D T (stopSession s result) := by
  unfold stopSession
  dsimp only
  split
  · exact sound_wstEnd (sound_setWslot (sound_listUnfinished h))
  · split
    · exact sound_verifyFail h
    · exact sound_wstEnd h

theorem sound_abortSession {s} (h : Sound M C D T s) :
    Sound M C D T (abortSession s) := by
  unfold abortSession
  dsimp only
  split
  · exact h
  · split
    · exact sound_stopSession h
    · exact sound_beside h

theorem answers_execWstAbort {s} (h : Sound M C D T s) :
    Answers (execWstAbort s) (Sound M C D T) := by
  unfold execWstAbort
  split
  · exact answers_next (sound_abortSession h)
  · exact answers_next (sound_wstRow h fun _ h1 => sound_wstEnd h1)

theorem sound_eraseBegin {s} (h : Sound M C D T s) :
    Sound M C D T (eraseBegin s) := by
  unfold eraseBegin
  dsimp only
  split
  · exact sound_wstEnd h
  · split
    · exact sound_wstEnd h
    · exact sound_setWslot h

theorem answers_execEraseSlot {s} (h : Sound M C D T s) :
    Answers (execEraseSlot s) (Sound M C D T) :=
  answers_next (sound_wstRow h fun _ h1 => sound_eraseBegin h1)

theorem answers_execSlotEraseComplete {slot s} (h : Sound M C D T s) :
    Answers (execSlotEraseComplete slot s) (Sound M C D T) := by
  unfold execSlotEraseComplete
  dsimp only
  split
  · exact answers_next h
  · exact answers_next (sound_ite (sound_wstEnd (sound_setWslot h)) (sound_setWslot h))

theorem sound_reprovBegin {s} (h : Sound M C D T s) :
    Sound M C D T (reprovBegin s) := by
  unfold reprovBegin
  dsimp only
  split
  · exact sound_wstEnd h
  · split
    · exact sound_wstEnd (sound_beside h)
    · exact sound_openSession (sound_beside h)

theorem answers_execReProvision {s} (h : Sound M C D T s) :
    Answers (execReProvision s) (Sound M C D T) :=
  answers_next (sound_wstRow h fun _ h1 => sound_reprovBegin h1)

theorem sound_substBegin {s} (h : Sound M C D T s) :
    Sound M C D T (substBegin s) := by
  unfold substBegin
  dsimp only
  split
  · split
    · exact sound_beside h
    · split
      · exact sound_startSubst (sound_beside h)
      · exact sound_wstEnd h
  · split
    · exact sound_beside h
    · split
      · exact sound_startSubst (sound_beside h)
      · exact sound_wstEnd h

theorem answers_execSubstitute {s} (h : Sound M C D T s) :
    Answers (execSubstitute s) (Sound M C D T) :=
  answers_next (sound_wstRow h fun _ h1 => sound_substBegin h1)

theorem answers_execWstReservedCmd {cmd s} (h : Sound M C D T s) :
    Answers (execWstReservedCmd cmd s) (Sound M C D T) := by
  unfold execWstReservedCmd
  dsimp only
  split
  · exact answers_next h
  · exact answers_next (sound_wstEnd (sound_wstAccept (sound_beside h)))

theorem sound_setCtl {s k} (h : Sound M C D T s) :
    Sound M C D T (setCtl s k) := by
  unfold setCtl
  dsimp only
  exact sound_beside h

theorem sound_clearMissing {s n slice} (h : Sound M C D T s) :
    Sound M C D T (clearMissing s n slice) :=
  sound_setWslot h

theorem sound_abandon {s k failing} (h : Sound M C D T s) :
    Sound M C D T (abandon s k failing) :=
  sound_setCtl (sound_foldl (sound_setWslot h) fun _ _ h1 => sound_listMissing h1)

theorem sound_fetched {s k n} (h : Sound M C D T s) :
    Sound M C D T (fetched s k n) := by
  unfold fetched
  split
  · exact sound_qpSent h
  · exact h

theorem sound_refetch {s k slice reason} (h : Sound M C D T s) :
    Sound M C D T (refetch s k slice reason) := by
  unfold refetch
  split
  · exact sound_sessionEnd (sound_abandon h)
  · exact sound_setCtl (sound_clearOp h)

theorem sound_shardEnd {s k} (h : Sound M C D T s) :
    Sound M C D T (shardEnd s k) := by
  unfold shardEnd
  dsimp only
  split
  · split
    · exact sound_sessionEnd (sound_abandon h)
    · exact sound_setCtl h
  · exact sound_sessionEnd (sound_beside (sound_setCtl h))

theorem sound_writeSpares {T : Nat → Prop} {s pcl wafer page d n} (h : Sound M C D (Cyc T) s) :
    Sound M C D (Cyc T) (writeSpares s pcl wafer page d n).2 := by
  induction n generalizing s page d with
  | zero => exact h
  | succ n ih =>
    rw [writeSpares]
    split
    · rename_i e
      exact sound_of_snd e (sound_takeSpare h)
    · rename_i e
      exact ih (sound_upd (sound_pageWrite (sound_of_snd e (sound_takeSpare h))))

theorem sound_respare {T : Nat → Prop} {s pcl wafer page n d} (h : Sound M C D (Cyc T) s) :
    Sound M C D (Cyc T) (respare s pcl wafer page n d).2 := by
  unfold respare
  dsimp only
  split
  · rename_i e
    exact sound_wearPlaces (sound_of_snd e (sound_writeSpares h))
  · rename_i e
    exact sound_upd (sound_of_snd e (sound_writeSpares h))

theorem sound_applyRemaps {T : Nat → Prop} {s} (h : Sound M C D (Cyc T) s) :
    Sound M C D (Cyc T) (applyRemaps s) := by
  unfold applyRemaps
  dsimp only
  exact sound_upd (sound_fixPlaces h)

theorem answers_execRemapApply {T : Nat → Prop} {s} (h : Sound M C D (Cyc T) s) :
    Answers (execRemapApply s) (Sound M C D (Cyc T)) := by
  unfold execRemapApply
  exact answers_next (sound_ite h (sound_applyRemaps h))

theorem sound_takeSlice {T : Nat → Prop} {s k slice d pages} (h : Sound M C D (Cyc T) s) :
    Sound M C D (Cyc T) (takeSlice s k slice d pages) := by
  unfold takeSlice
  dsimp only
  split
  · split
    · exact h
    · split
      · exact sound_shardEnd (sound_upd (sound_clearMissing h))
      · exact sound_setCtl (sound_upd (sound_clearMissing h))
  · split
    · split
      · split
        · exact sound_respare h
        · split
          · exact sound_shardEnd (sound_upd (sound_clearMissing (sound_respare h)))
          · exact sound_setCtl (sound_upd (sound_clearMissing (sound_respare h)))
      · split
        · exact sound_applyRemaps (sound_respare h)
        · split
          · exact sound_shardEnd (sound_upd (sound_clearMissing (sound_applyRemaps (sound_respare h))))
          · exact sound_setCtl (sound_upd (sound_clearMissing (sound_applyRemaps (sound_respare h))))
    · split
      · exact sound_writePages h
      · split
        · exact sound_shardEnd (sound_upd (sound_clearMissing (sound_writePages h)))
        · exact sound_setCtl (sound_upd (sound_clearMissing (sound_writePages h)))

theorem answers_execSliceFetchComplete {T : Nat → Prop} {shard sl s} (h : Sound M C D (Cyc T) s) :
    Answers (execSliceFetchComplete shard sl s) (Sound M C D (Cyc T)) := by
  unfold execSliceFetchComplete
  dsimp only
  split
  · exact answers_next (sound_lateDone h)
  · split
    · exact answers_next h
    · split
      · exact answers_next (sound_shardEnd h)
      · exact answers_next (sound_refetch h)
      · split
        · exact answers_next (sound_refetch (sound_fetched h))
        · split
          · exact answers_next (sound_refetch (sound_fetched h))
          · exact answers_next (sound_takeSlice (sound_fetched h))

theorem answers_execShardFetchTimeout {shard s} (h : Sound M C D T s) :
    Answers (execShardFetchTimeout shard s) (Sound M C D T) := by
  unfold execShardFetchTimeout
  split
  · exact answers_next h
  · exact answers_next (sound_ite (sound_refetch h) h)

theorem sound_endSessions {s} (h : Sound M C D T s) :
    Sound M C D T (endSessions s) := by
  unfold endSessions
  dsimp only
  split
  · split
    · exact sound_stopSession (sound_beside h)
    · exact sound_beside h
  · split
    · exact sound_stopSession h
    · exact h

theorem sound_listBadPages {s x l} (h : Sound M C D T s) :
    Sound M C D T (listBadPages s x l) :=
  sound_foldl h fun _ _ h1 => sound_listDamage h1

theorem sound_copyField {T : Nat → Prop} {s x pages lines} (h : Sound M C D (Cyc T) s) :
    Sound M C D (Cyc T) (copyField s x pages lines) := by
  unfold copyField
  dsimp only
  refine sound_wearPlaces (sound_upd ?_ (wstMem := fun _ hm => memWf_storeCells (twf_filter _ hm))
    (kvMem := fun _ hm => memWf_storeCells (memWf_mclear hm)))
  exact sound_foldl (sound_foldl (sound_foldl (sound_listBadPages h) fun _ _ h1 => sound_lineFault h1)
    fun _ _ h2 => sound_noteRead h2) fun _ _ h3 => sound_noteRead h3

theorem sound_standIn {T : Plane → Prop} {s lf spare} (h : Sound M C D (OnPlane T) s) :
    Sound M C D (OnPlane T) (standIn s lf spare) := by
  unfold standIn
  dsimp only
  exact sound_updPlane h

theorem answers_execSubstitutionCopyEnd {T : Nat → Prop} {pages lines s} (h : Sound M C D (Cyc T) s) :
    Answers (execSubstitutionCopyEnd pages lines s) (Sound M C D (Cyc T)) := by
  unfold execSubstitutionCopyEnd
  dsimp only
  split
  · exact answers_next h
  · split
    · exact answers_next h
    · exact answers_next (sound_ite (sound_startSubst (sound_ite (sound_wstEnd (sound_ownerEvent (sound_standIn (sound_upd
          (sound_copyField h))))) (sound_ownerEvent (sound_standIn (sound_upd (sound_copyField h)))))) (sound_ite
              (sound_wstEnd (sound_ownerEvent (sound_standIn (sound_upd (sound_copyField h))))) (sound_ownerEvent
                  (sound_standIn (sound_upd (sound_copyField h))))))

theorem answers_runSlot {T : Nat → Prop} {i s} (h : Sound M C D (Cyc T) s) :
    Answers (runSlot i s) (Sound M C D (Cyc T)) := by
  cases i
  case nop => exact answers_execNop h
  case add => exact answers_execAdd h
  case sub => exact answers_execSub h
  case and => exact answers_execAnd h
  case or => exact answers_execOr h
  case xor => exact answers_execXor h
  case shl => exact answers_execShl h
  case shr => exact answers_execShr h
  case sra => exact answers_execSra h
  case mul => exact answers_execMul h
  case min => exact answers_execMin h
  case max => exact answers_execMax h
  case addi => exact answers_execAddi h
  case andi => exact answers_execAndi h
  case ori => exact answers_execOri h
  case xori => exact answers_execXori h
  case shli => exact answers_execShli h
  case shri => exact answers_execShri h
  case srai => exact answers_execSrai h
  case li => exact answers_execLi h
  case lih => exact answers_execLih h
  case cmp => exact answers_execCmp h
  case plog => exact answers_execPlog h
  case amov => exact answers_execAmov h
  case gmov => exact answers_execGmov h
  case aadd => exact answers_execAadd h
  case aaddg => exact answers_execAaddg h
  case br => exact answers_execBr h
  case bdec => exact answers_execBdec h
  case jr => exact answers_execJr h
  case jal => exact answers_execJal h
  case rdsh => exact answers_execRdsh h
  case rdcyc => exact answers_execRdcyc h
  case rdcc => exact answers_execRdcc h
  case cset => exact answers_execCset h
  case cadd => exact answers_execCadd h
  case csub => exact answers_execCsub h
  case wait => exact answers_execWait h
  case watch => exact answers_execWatch h
  case arm => exact answers_execArm h
  case front => exact answers_execFront h
  case ld => exact answers_execLd h
  case st => exact answers_execSt h
  case ldv => exact answers_execLdv h
  case stv => exact answers_execStv h
  case cget => exact answers_execCget h
  case cput => exact answers_execCput h
  case send => exact answers_execSend h
  case get => exact answers_execGet h
  case wld => exact answers_execWld h
  case wdrop => exact answers_execWdrop h
  case kvld => exact answers_execKvld h
  case kvst => exact answers_execKvst h
  case hput => exact answers_execHput h
  case vadd => exact answers_execVadd h
  case vsub => exact answers_execVsub h
  case vmul => exact answers_execVmul h
  case vfma => exact answers_execVfma h
  case vmin => exact answers_execVmin h
  case vmax => exact answers_execVmax h
  case vcmp => exact answers_execVcmp h
  case vsel => exact answers_execVsel h
  case vexp => exact answers_execVexp h
  case vlog => exact answers_execVlog h
  case vrcp => exact answers_execVrcp h
  case vrsq => exact answers_execVrsq h
  case vrsum => exact answers_execVrsum h
  case vrmax => exact answers_execVrmax h
  case vrmin => exact answers_execVrmin h
  case vcvt => exact answers_execVcvt h
  case vquant => exact answers_execVquant h
  case vdeq => exact answers_execVdeq h
  case vwadd => exact answers_execVwadd h
  case vwrnd => exact answers_execVwrnd h
  case vpop => exact answers_execVpop h
  case vext => exact answers_execVext h
  case vsplat => exact answers_execVsplat h
  case vtopm => exact answers_execVtopm h
  case tld => exact answers_execTld h
  case strm => exact answers_execStrm h
  case drn => exact answers_execDrn h
  case ainit => exact answers_execAinit h
  case amode => exact answers_execAmode h
  case cvt => exact answers_execCvt h
  case cut => exact answers_execCut h
  case cout => exact answers_execCout h
  case cmerge => exact answers_execCmerge h
  all_goals exact answers_next h

theorem sound_stateOr {r s} (h : Answers r (Sound M C D T)) :
    Sound M C D T (Res.stateOr r s) := by
  obtain ⟨t, rfl, ht⟩ := h
  exact ht

theorem sound_runWord {T : Nat → Prop} {c sl w s} (h : Sound M C D (Cyc T) s) :
    Sound M C D (Cyc T) (runWord c sl w s) := by
  unfold runWord
  split
  · exact sound_stateOr (answers_runSlot h)
  · exact sound_raiseCore h

theorem sound_fetchNext {T : Nat → Prop} {s c old} (h : Sound M C D (Cyc T) s) :
    Sound M C D (Cyc T) (fetchNext s c old) := by
  unfold fetchNext
  dsimp only
  split
  · exact sound_fetchNow h
  · exact h

theorem sound_runBundle {T : Nat → Prop} {s c w} (h : Sound M C D (Cyc T) s) :
    Sound M C D (Cyc T) (runBundle s c w) := by
  unfold runBundle
  dsimp only
  exact sound_fetchNext (sound_modCore (sound_runWord (sound_runWord (sound_runWord (sound_runWord (sound_setCore h
      (coreSound_upd (h.core _))))))) fun _ h1 => coreSound_upd h1)

theorem answers_execBundleIssue {T : Nat → Prop} {c s} (h : Sound M C D (Cyc T) s) :
    Answers (execBundleIssue c s) (Sound M C D (Cyc T)) := by
  unfold execBundleIssue
  dsimp only
  split
  · exact answers_next h
  · split
    · exact answers_next h
    · split
      · exact answers_next (sound_fetchFail (sound_raiseCore h))
      · exact answers_next (sound_runBundle h)

end Sys2Proof.Proofs
end

section
/-! PROOFS. Every function keeps the canonical forms: the serving hub. -/

namespace Sys2Proof.Proofs

set_option Elab.async false

open Sys2Proof Sys2Proof.Machine Sys2Proof.Safety Sys2Proof.Laws

variable {M C D : Prop} {T : Rest → Prop}

theorem sound_setSlot {s n q} (h : Sound M C D T s) :
    Sound M C D T (State.setSlot s n q) := by
  unfold State.setSlot
  dsimp only
  exact sound_beside h (slots := fun _ => twf_tset)

theorem sound_modSlot {s n f} (h : Sound M C D T s) :
    Sound M C D T (State.modSlot s n f) :=
  sound_setSlot h

theorem sound_dropRec {s id} (h : Sound M C D T s) :
    Sound M C D T (dropRec s id) := by
  unfold dropRec
  dsimp only
  exact sound_beside h

theorem sound_tagEvent {s t code reason value tag} (h : Sound M C D T s) :
    Sound M C D T (tagEvent s t code reason value tag) :=
  sound_sendEvent h

theorem sound_seqEvent {s n code reason value} (h : Sound M C D T s) :
    Sound M C D T (seqEvent s n code reason value) :=
  sound_sendEvent h

theorem sound_reject {s t reason tag} (h : Sound M C D T s) :
    Sound M C D T (reject s t reason tag) :=
  sound_tagEvent h

theorem sound_ackDone {s t cmd tag} (h : Sound M C D T s) :
    Sound M C D T (ackDone s t cmd tag) :=
  sound_tagEvent h

theorem sound_setAdp {s k a} (h : Sound M C D T s) :
    Sound M C D T (State.setAdp s k a) := by
  unfold State.setAdp
  dsimp only
  exact sound_beside h (adps := fun _ => twf_tset)

theorem sound_placeUploads {s l} (h : Sound M C D T s) :
    Sound M C D T (placeUploads s l) := by
  induction l generalizing s with
  | nil => exact sound_beside h
  | cons u r ih =>
    rw [placeUploads]
    split
    · split
      · exact ih (sound_setAdp h)
      · exact sound_beside (ih h)
    · exact sound_beside h

theorem sound_sweepOne {s k} (h : Sound M C D T s) :
    Sound M C D T (sweepOne s k) := by
  unfold sweepOne
  dsimp only
  split
  · exact sound_setAdp (sound_tagEvent h)
  · exact h

theorem sound_sweepAdps {s} (h : Sound M C D T s) :
    Sound M C D T (sweepAdps s) :=
  sound_placeUploads (sound_foldl h fun _ _ h1 => sound_sweepOne h1)

theorem sound_releaseSeq {s n} (h : Sound M C D T s) :
    Sound M C D T (releaseSeq s n) :=
  sound_sweepAdps (sound_modSlot (sound_releaseChain h))

theorem sound_endSeq {s n st code reason value} (h : Sound M C D T s) :
    Sound M C D T (endSeq s n st code reason value) :=
  sound_releaseSeq (sound_modSlot (sound_seqEvent h))

theorem sound_faultSeq {s n reason} (h : Sound M C D T s) :
    Sound M C D T (faultSeq s n reason) :=
  sound_endSeq h

theorem sound_finishSeq {s n reason} (h : Sound M C D T s) :
    Sound M C D T (finishSeq s n reason) :=
  sound_endSeq h

theorem sound_freeEnded {s} (h : Sound M C D T s) :
    Sound M C D T (freeEnded s) := by
  unfold freeEnded
  dsimp only
  exact sound_beside h (slots := fun _ => twf_filter _)

theorem sound_freeSlot {s n} (h : Sound M C D T s) :
    Sound M C D T (freeSlot s n) :=
  sound_setSlot (sound_releaseSeq h)

theorem sound_parkFail {s n why} (h : Sound M C D T s) :
    Sound M C D T (parkFail s n why) := by
  unfold parkFail
  dsimp only
  split
  · exact sound_faultSeq (sound_seqEvent (sound_beside (sound_modSlot h)))
  · exact sound_modSlot (sound_seqEvent (sound_beside (sound_modSlot h)))

theorem sound_beginPark {s n reason} (h : Sound M C D T s) :
    Sound M C D T (beginPark s n reason) := by
  unfold beginPark
  dsimp only
  split
  · exact sound_parkFail (sound_modSlot h)
  · exact sound_clearOp (sound_beside (sound_setSlot (sound_modSlot h)))

theorem sound_holdSeq {s n reason} (h : Sound M C D T s) :
    Sound M C D T (holdSeq s n reason) := by
  unfold holdSeq
  dsimp only
  split
  · exact sound_setSlot h
  · exact sound_seqEvent (sound_setSlot h)

theorem sound_releaseHold {s n} (h : Sound M C D T s) :
    Sound M C D T (releaseHold s n) := by
  unfold releaseHold
  dsimp only
  split
  · exact sound_seqEvent (sound_setSlot h)
  · exact h

theorem sound_wakeUp {T : Plane → Prop} {s} (h : Sound M C D (OnPlane T) s) :
    Sound M C D (OnPlane T) (wakeUp s) := by
  unfold wakeUp
  dsimp only
  split
  · exact sound_updPlane h
  · exact h

theorem sound_dropTenantSeqs {s t} (h : Sound M C D T s) :
    Sound M C D T (dropTenantSeqs s t) := by
  unfold dropTenantSeqs
  dsimp only
  exact sound_beside (sound_foldl h fun _ _ h1 => sound_freeSlot h1)

theorem memWf_foldl_mwrite {base : Nat} {l : List (Nat × List Byte)} {m : List Host.Cell} (h : memWf m = true) :
    memWf (l.foldl (fun m r => mwrite m (base + r.1) r.2) m) = true := by
  induction l generalizing m with
  | nil => exact h
  | cons r l ih => exact ih (memWf_mwrite h)

theorem sound_writeHub {s pcl runs} (h : Sound M C D T s) :
    Sound M C D T (writeHub s pcl runs) := by
  unfold writeHub
  dsimp only
  exact sound_sramClean (sound_beside h (sram := fun _ hm => memWf_foldl_mwrite (memWf_mclear hm)))

theorem sound_writeDescriptor {s ps l} (h : Sound M C D T s) :
    Sound M C D T (writeDescriptor s ps l) := by
  unfold writeDescriptor
  dsimp only
  exact sound_foldl h fun _ _ h1 => by
    split
    · exact h1
    · exact sound_foldl h1 fun _ _ h2 => sound_writeHub h2

theorem sound_markPart {s n pt} (h : Sound M C D T s) :
    Sound M C D T (markPart s n pt) := by
  unfold markPart
  exact sound_modSlot (sound_releaseHold h)

theorem sound_planFrom {n s l} (h : Sound M C D T s) :
    Sound M C D T (planFrom n s l) := by
  induction n generalizing s l with
  | zero => exact h
  | succ n ih =>
    rw [planFrom]
    dsimp only
    split
    · split
      · exact h
      · exact ih (sound_ite h (sound_holdSeq h))
    · exact sound_beside (sound_foldl (sound_writeDescriptor h) fun _ _ h1 => sound_markPart h1)

theorem sound_planStep {s} (h : Sound M C D T s) :
    Sound M C D T (planStep s) :=
  sound_planFrom h

theorem sound_rdmaWrite {s tgt qp addr d} (h : Sound M C D T s) :
    Sound M C D T (rdmaWrite s tgt qp addr d) := by
  unfold rdmaWrite
  split
  · exact h
  · exact sound_emit (sound_qpSent h)

theorem sound_fabWrite {s tgt parts qp start base at0 d} (h : Sound M C D T s) :
    Sound M C D T (fabWrite s tgt parts qp start base at0 d) :=
  sound_rdmaWrite (sound_foldl h fun _ _ h1 => sound_rdmaWrite h1)

theorem sound_snpWrite {T : Plane → Prop} {s tgt n base at0 d} (h : Sound M C D (OnPlane T) s) :
    Sound M C D (OnPlane T) (snpWrite s tgt n base at0 d) := by
  unfold snpWrite
  dsimp only
  split
  · exact sound_fabWrite h
  · split
    · exact sound_hdmWrite h
    · exact sound_emit h

/- The kernel evaluates `snpSeal` when it compares `parkDone s n` with its body, so the proof compares the functions. -/
theorem sound_parkDone {T : Plane → Prop} {s n} (h : Sound M C D (OnPlane T) s) :
    Sound M C D (OnPlane T) (parkDone s n) := by
  have e : parkDone = parkDone := rfl
  conv_rhs at e => delta parkDone
  rw [e]
  beta_reduce
  extract_lets +onlyGivenNames q p expiry header plain dext
  obtain ⟨ct, tags⟩ := snpSeal (snpKey s q.tenant) header q.parkId plain 0 dext
  exact sound_freeSlot (sound_updPlane (sound_seqEvent (sound_snpWrite (sound_snpWrite h))))

theorem sound_copyLine {T : Plane → Prop} {s n line} (h : Sound M C D (OnPlane T) s) :
    Sound M C D (OnPlane T) (copyLine s n line) :=
  sound_faultSeq (sound_lineFault h)

theorem sound_parkRead {T : Plane → Prop} {s n} (h : Sound M C D (OnPlane T) s) :
    Sound M C D (OnPlane T) (parkRead s n) := by
  unfold parkRead
  split
  · split
    · rename_i e
      exact sound_parkDone (sound_of_snd e (sound_sramReadAll h))
    · rename_i e
      exact sound_freeEnded (sound_faultSeq (sound_of_snd e (sound_sramReadAll h)))
  · exact sound_parkDone h

theorem answers_execParkComplete {T : Plane → Prop} {slot copy s} (h : Sound M C D (OnPlane T) s) :
    Answers (execParkComplete slot copy s) (Sound M C D (OnPlane T)) := by
  unfold execParkComplete
  split
  · exact answers_next h
  · split
    · exact answers_next (sound_lateDone h)
    · split
      · exact answers_next (sound_parkRead (sound_kvCorrected h))
      · exact answers_next (sound_freeEnded (sound_parkFail h))
      · exact answers_next (sound_freeEnded (sound_copyLine h))

theorem answers_execParkRetry {slot s} (h : Sound M C D T s) :
    Answers (execParkRetry slot s) (Sound M C D T) := by
  unfold execParkRetry
  dsimp only
  split
  · split
    · exact answers_next (sound_freeEnded (sound_beginPark h))
    · exact answers_next h
  · exact answers_next h

theorem sound_askParkAll {s} (h : Sound M C D T s) :
    Sound M C D T (askParkAll s) := by
  unfold askParkAll
  dsimp only
  exact sound_beside h

theorem answers_execParkAll {s} (h : Sound M C D T s) :
    Answers (execParkAll s) (Sound M C D T) :=
  answers_next (sound_askParkAll h)

theorem sound_restoreFail {s n why} (h : Sound M C D T s) :
    Sound M C D T (restoreFail s n why) := by
  unfold restoreFail
  dsimp only
  exact sound_freeSlot (sound_seqEvent (sound_beside h))

theorem sound_restoreEnd {s n reason} (h : Sound M C D T s) :
    Sound M C D T (restoreEnd s n reason) :=
  sound_freeEnded (sound_dropRec (sound_faultSeq h))

theorem sound_writeSlabs {T : Plane → Prop} {s keep d l} (h : Sound M C D (OnPlane T) s) :
    Sound M C D (OnPlane T) (writeSlabs s keep d l) := by
  induction l generalizing s d with
  | nil => exact h
  | cons x r ih => exact ih (sound_ite h (sound_kvBlocksWrite h))

theorem sound_capDecoding {s n} (h : Sound M C D T s) :
    Sound M C D T (capDecoding s n) := by
  unfold capDecoding
  split
  · exact sound_holdSeq h
  · exact h

theorem sound_restoreInto {T : Plane → Prop} {s n r data adp other chain had} (h : Sound M C D (OnPlane T) s) :
    Sound M C D (OnPlane T) (restoreInto s n r data adp other chain had) :=
  sound_capDecoding (sound_dropRec (sound_seqEvent (sound_setSlot (sound_writeSlabs (sound_setSlot h)))))

theorem sound_of_restoreChain {s t : State} {scope par l ks} (h : Sound M C D T s)
    (e : restoreChain s scope par l = some (ks, t)) : Sound M C D T t := by
  induction l generalizing s par ks with
  | nil =>
    cases e
    exact h
  | cons x r ih =>
    rw [restoreChain] at e
    split at e
    · obtain ⟨⟨ls, u⟩, e1, e2⟩ := Option.map_eq_some_iff.1 e
      cases e2
      exact ih (sound_pfxRef h) e1
    · split at e
      · cases e
      · obtain ⟨⟨ls, u⟩, e1, e2⟩ := Option.map_eq_some_iff.1 e
        cases e2
        exact ih (sound_setPfx h) e1

theorem sound_restoreDone {T : Plane → Prop} {s n r body tags} (h : Sound M C D (OnPlane T) s) :
    Sound M C D (OnPlane T) (restoreDone s n r body tags) := by
  unfold restoreDone
  dsimp only
  split
  · exact sound_restoreEnd h
  · split
    · exact sound_restoreFail h
    · split
      · exact sound_restoreFail h
      · split
        · exact h
        · rename_i e
          exact sound_restoreInto (sound_of_restoreChain h e)

theorem answers_execRestoreComplete {T : Plane → Prop} {slot copy s} (h : Sound M C D (OnPlane T) s) :
    Answers (execRestoreComplete slot copy s) (Sound M C D (OnPlane T)) := by
  unfold execRestoreComplete
  dsimp only
  split
  · exact answers_next h
  · split
    · exact answers_next (sound_lateDone h)
    · split
      · exact answers_next h
      · split
        · exact answers_next (sound_restoreDone (sound_kvCorrected (sound_ite (sound_qpSent h) h)))
        · exact answers_next (sound_restoreFail h)
        · exact answers_next (sound_restoreEnd (sound_lineFault h))

theorem answers_execSnowpackOpTimeout {slot s} (h : Sound M C D T s) :
    Answers (execSnowpackOpTimeout slot s) (Sound M C D T) := by
  unfold execSnowpackOpTimeout
  split
  · exact answers_next (sound_freeEnded (sound_parkFail h))
  · split
    · exact answers_next (sound_restoreFail h)
    · exact answers_next h

theorem sound_expireRec {s r} (h : Sound M C D T s) :
    Sound M C D T (expireRec s r) := by
  unfold expireRec
  dsimp only
  exact sound_dropRec (sound_tagEvent (sound_beside h))

theorem answers_execSnowpackExpiry {parkId s} (h : Sound M C D T s) :
    Answers (execSnowpackExpiry parkId s) (Sound M C D T) := by
  unfold execSnowpackExpiry
  split
  · exact answers_next h
  · split
    · exact answers_next (sound_expireRec h)
    · exact answers_next h

theorem sound_nextGen {s t id} (h : Sound M C D T s) :
    Sound M C D T (nextGen s t id).2 := by
  unfold nextGen
  dsimp only
  exact sound_beside h

theorem sound_takeUpload {s t id m} (h : Sound M C D T s) :
    Sound M C D T (takeUpload s t id m) := by
  unfold takeUpload
  dsimp only
  split
  · exact sound_tagEvent (sound_beside (sound_nextGen h))
  · split
    · exact sound_tagEvent (sound_beside (sound_nextGen h))
    · exact sound_setAdp (sound_nextGen h)

theorem sound_stageBad {T : Plane → Prop} {s addr n bad} (h : Sound M C D (OnPlane T) s) :
    Sound M C D (OnPlane T) (stageBad s addr n bad) := by
  unfold stageBad
  split
  · exact sound_badLines h
  · exact h

theorem sound_doUpload {T : Plane → Prop} {s r} (h : Sound M C D (OnPlane T) s) :
    Sound M C D (OnPlane T) (doUpload s r) := by
  unfold doUpload
  dsimp only
  split
  · exact sound_reject h
  · split
    · exact sound_reject h
    · split
      · exact sound_tagEvent (sound_stageBad h)
      · split
        · exact sound_tagEvent (sound_stageBad h)
        · split
          · exact sound_tagEvent (sound_stageBad h)
          · split
            · exact sound_tagEvent (sound_stageBad h)
            · exact sound_takeUpload (sound_stageBad h)

theorem sound_clearReleased {s t id} (h : Sound M C D T s) :
    Sound M C D T (clearReleased s t id) := by
  unfold clearReleased
  dsimp only
  exact sound_beside h

theorem answers_execAdapterLoadComplete {T : Plane → Prop} {slot res s} (h : Sound M C D (OnPlane T) s) :
    Answers (execAdapterLoadComplete slot res s) (Sound M C D (OnPlane T)) := by
  unfold execAdapterLoadComplete
  dsimp only
  split
  · exact answers_next h
  · split
    · exact answers_next (sound_setAdp (sound_kvWriteAll h))
    · exact answers_next (sound_placeUploads (sound_setAdp (sound_tagEvent h)))

theorem sound_adoptAdps {s} (h : Sound M C D T s) :
    Sound M C D T (adoptAdps s) :=
  sound_sweepAdps (sound_foldl (sound_foldl h fun _ _ h1 => sound_tagEvent (sound_setAdp (sound_clearReleased h1))) fun _ _
      h2 => sound_setAdp h2)

theorem sound_ctlPause {s r n} (h : Sound M C D T s) :
    Sound M C D T (ctlPause s r n) := by
  unfold ctlPause
  dsimp only
  split
  · exact sound_reject h
  · split
    · exact sound_reject h
    · exact sound_beginPark (sound_ackDone h)

theorem sound_cancelRec {s p} (h : Sound M C D T s) :
    Sound M C D T (cancelRec s p) :=
  sound_dropRec (sound_tagEvent h)

theorem sound_ctlRelease {s r} (h : Sound M C D T s) :
    Sound M C D T (ctlRelease s r) := by
  unfold ctlRelease
  dsimp only
  split
  · exact sound_reject h
  · split
    · exact sound_reject h
    · exact sound_sweepAdps (sound_beside (sound_foldl (sound_ackDone h) fun _ _ h1 => sound_setAdp h1))

theorem sound_ctlOne {s r} (h : Sound M C D T s) :
    Sound M C D T (ctlOne s r).2 := by
  unfold ctlOne
  dsimp only
  split
  · exact h
  · split
    · exact sound_reject h
    · split
      · exact sound_ctlRelease h
      · split
        · split
          · exact sound_reject h
          · split
            · exact h
            · split
              · exact sound_ctlPause h
              · split
                · exact sound_finishSeq (sound_ackDone h)
                · exact sound_reject h
        · split
          · exact sound_reject h
          · split
            · exact sound_cancelRec (sound_ackDone h)
            · split
              · exact sound_reject h
              · split
                · exact sound_expireRec h
                · split
                  · exact sound_reject h
                  · exact sound_ackDone h

theorem sound_ctlList {s l} (h : Sound M C D T s) :
    Sound M C D T (ctlList s l).2 := by
  induction l generalizing s with
  | nil => exact h
  | cons r rest ih => exact ih (sound_ctlOne h)

theorem sound_controls {s} (h : Sound M C D T s) :
    Sound M C D T (controls s) := by
  unfold controls
  dsimp only
  exact sound_beside (sound_ctlList h) (slots := fun _ h => by dsimp only; exact twf_tmap h)

theorem sound_readFailed {s r addr} (h : Sound M C D T s) :
    Sound M C D T (readFailed s r addr) :=
  sound_ownerEvent (sound_reject h)

theorem sound_admitReq {s r p toks n g} (h : Sound M C D T s) :
    Sound M C D T (admitReq s r p toks n g) := by
  unfold admitReq
  dsimp only
  exact sound_seqEvent (sound_beside (sound_setSlot (sound_pfxExtend (sound_foldl h fun _ _ h1 => sound_pfxRef h1))))

theorem sound_walkStart {s r n} (h : Sound M C D T s) :
    Sound M C D T (walkStart s r n).2 := by
  unfold walkStart
  dsimp only
  split
  · exact sound_reject h
  · split
    · exact sound_readFailed h
    · split
      · exact sound_reject h
      · split
        · exact sound_readFailed h
        · split
          · exact h
          · split
            · exact h
            · split
              · exact h
              · split
                · exact h
                · exact sound_admitReq h

theorem sound_beginRestore {s p n g contd toks} (h : Sound M C D T s) :
    Sound M C D T (beginRestore s p n g contd toks) := by
  unfold beginRestore
  dsimp only
  exact sound_clearOp (sound_beside (sound_setSlot h))

theorem sound_walkRestore {s r n} (h : Sound M C D T s) :
    Sound M C D T (walkRestore s r n).2 := by
  unfold walkRestore
  dsimp only
  split
  · exact sound_reject h
  · split
    · exact sound_reject h
    · split
      · exact sound_expireRec h
      · split
        · exact sound_reject h
        · split
          · exact sound_reject h
          · split
            · exact sound_readFailed h
            · split
              · exact h
              · split
                · exact h
                · split
                  · exact h
                  · split
                    · exact h
                    · exact sound_beginRestore h

theorem sound_reqStage {T : Plane → Prop} {s r} (h : Sound M C D (OnPlane T) s) :
    Sound M C D (OnPlane T) (reqStage s r) := by
  unfold reqStage
  split
  · exact h
  · exact sound_foldl h fun _ _ h1 => sound_stageBad h1

theorem sound_walkOne {T : Plane → Prop} {s r} (h : Sound M C D (OnPlane T) s) :
    Sound M C D (OnPlane T) (walkOne s r).2 := by
  unfold walkOne
  split
  · exact h
  · split
    · exact h
    · split
      · exact sound_walkStart (sound_reqStage h)
      · split
        · exact sound_walkRestore (sound_reqStage h)
        · exact h

theorem sound_walkList {T : Plane → Prop} {s skip l} (h : Sound M C D (OnPlane T) s) :
    Sound M C D (OnPlane T) (walkList s skip l).2 := by
  induction l generalizing s skip with
  | nil => exact h
  | cons r rest ih =>
    rw [walkList]
    split
    · exact ih h
    · split
      · rename_i e
        exact ih (sound_of_snd e (sound_walkOne h))
      · rename_i e
        exact ih (sound_of_snd e (sound_walkOne h))
      · rename_i e
        exact sound_of_snd e (sound_walkOne h)

theorem sound_admissionWalk {T : Plane → Prop} {s} (h : Sound M C D (OnPlane T) s) :
    Sound M C D (OnPlane T) (admissionWalk s) := by
  unfold admissionWalk
  dsimp only
  exact sound_updPlane (sound_walkList h)

theorem sound_takeReq {s r} (h : Sound M C D T s) :
    Sound M C D T (takeReq s r) := by
  unfold takeReq
  dsimp only
  exact sound_beside h

theorem answers_reqRow {cmd t r act s} (h : ∀ q, Sound M C D T (act q)) (h1 : Sound M C D T s) :
    Answers (reqRow cmd t r act s) (Sound M C D T) := by
  unfold reqRow
  exact answers_next (sound_ite (h _) h1)

theorem answers_execStartReq {t r s} (h : Sound M C D T s) :
    Answers (execStartReq t r s) (Sound M C D T) :=
  answers_reqRow (fun _ => sound_takeReq h) h

theorem answers_execContinueReq {t r s} (h : Sound M C D T s) :
    Answers (execContinueReq t r s) (Sound M C D T) :=
  answers_reqRow (fun _ => sound_takeReq h) h

theorem answers_execPauseReq {t r s} (h : Sound M C D T s) :
    Answers (execPauseReq t r s) (Sound M C D T) :=
  answers_reqRow (fun _ => sound_takeReq h) h

theorem answers_execResumeReq {t r s} (h : Sound M C D T s) :
    Answers (execResumeReq t r s) (Sound M C D T) :=
  answers_reqRow (fun _ => sound_takeReq h) h

theorem answers_execCancelReq {t r s} (h : Sound M C D T s) :
    Answers (execCancelReq t r s) (Sound M C D T) :=
  answers_reqRow (fun _ => sound_takeReq h) h

theorem answers_execAdapterUpload {T : Plane → Prop} {t r s} (h : Sound M C D (OnPlane T) s) :
    Answers (execAdapterUpload t r s) (Sound M C D (OnPlane T)) :=
  answers_reqRow (fun _ => sound_doUpload h) h

theorem answers_execAdapterRelease {t r s} (h : Sound M C D T s) :
    Answers (execAdapterRelease t r s) (Sound M C D T) :=
  answers_reqRow (fun _ => sound_takeReq h) h

theorem sound_takeEntry {T : Plane → Prop} {s t addr half} (h : Sound M C D (OnPlane T) s) :
    Sound M C D (OnPlane T) (takeEntry s t addr half) := by
  unfold takeEntry
  dsimp only
  split
  · exact sound_takeReq (sound_stageBad h)
  · exact sound_readFailed (sound_stageBad h)

theorem sound_takeEntries {T : Plane → Prop} {s t reads n} (h : Sound M C D (OnPlane T) s) :
    Sound M C D (OnPlane T) (takeEntries s t reads n) :=
  sound_foldl h fun _ _ h1 => sound_takeEntry h1

theorem sound_writeSqIndex {T : Plane → Prop} {s t hidx} (h : Sound M C D (OnPlane T) s) :
    Sound M C D (OnPlane T) (writeSqIndex s t hidx) := by
  unfold writeSqIndex
  dsimp only
  split
  · exact sound_drainDrop h
  · split
    · exact sound_badIndex h
    · split
      · exact sound_wakeUp (sound_modTenant h)
      · exact sound_modTenant h

theorem sound_readRing {T : Plane → Prop} {s t reads} (h : Sound M C D (OnPlane T) s) :
    Sound M C D (OnPlane T) (readRing s t reads) := by
  unfold readRing
  dsimp only
  split
  · exact h
  · exact sound_writeBack (sound_modTenant (sound_takeEntries h))

theorem answers_execSubmissionDoorbell {T : Plane → Prop} {_owner t hidx reads s} (h : Sound M C D (OnPlane T) s) :
    Answers (execSubmissionDoorbell _owner t hidx reads s) (Sound M C D (OnPlane T)) := by
  unfold execSubmissionDoorbell
  exact answers_next (sound_ite (sound_readRing (sound_writeSqIndex h)) h)

theorem answers_execHostIndexWrite {T : Plane → Prop} {owner ring v s} (h : Sound M C D (OnPlane T) s) :
    Answers (execHostIndexWrite owner ring v s) (Sound M C D (OnPlane T)) := by
  unfold execHostIndexWrite
  split
  · exact answers_next h
  · split
    · exact answers_next (sound_writeSqIndex h)
    · exact answers_next (sound_writeHostIndex h)

theorem answers_execInterruptModeration {t tok s} (h : Sound M C D T s) :
    Answers (execInterruptModeration t tok s) (Sound M C D T) := by
  unfold execInterruptModeration
  exact answers_next (sound_ite h (sound_ite (sound_raiseTok h) (sound_raiseEvt h)))

theorem sound_streamToks {s q why l} (h : Sound M C D T s) :
    Sound M C D T (streamToks s q why l) := by
  induction l generalizing s with
  | nil => exact h
  | cons x r ih => exact ih (sound_sendToken h)

theorem sound_charge {s t amount} (h : Sound M C D T s) :
    Sound M C D T (charge s t amount) :=
  sound_modTenant h

theorem sound_readyChain {s q} (h : Sound M C D T s) :
    Sound M C D T (readyChain s q) := by
  unfold readyChain
  dsimp only
  exact sound_foldl h fun _ _ h1 => sound_ite (sound_setPfx h1) h1

theorem sound_setDepth {s n x4} (h : Sound M C D T s) :
    Sound M C D T (setDepth s n x4) := by
  unfold setDepth
  dsimp only
  split
  · exact h
  · exact sound_modSlot h

theorem sound_afterEmit {s n why acc} (h : Sound M C D T s) :
    Sound M C D T (afterEmit s n why acc) := by
  unfold afterEmit
  dsimp only
  split
  · exact sound_setDepth h
  · split
    · exact sound_beginPark (sound_modSlot (sound_seqEvent (sound_setDepth h)))
    · exact sound_finishSeq (sound_setDepth h)

theorem sound_commitPrefill {s n q c} (h : Sound M C D T s) :
    Sound M C D T (commitPrefill s n q c) := by
  unfold commitPrefill
  dsimp only
  split
  · exact sound_charge (sound_readyChain (sound_setSlot h))
  · exact sound_afterEmit (sound_charge (sound_streamToks (sound_setSlot (sound_readyChain (sound_setSlot h)))))

theorem sound_commitDecode {s n q cs} (h : Sound M C D T s) :
    Sound M C D T (commitDecode s n q cs) :=
  sound_afterEmit (sound_charge (sound_streamToks (sound_setSlot h)))

theorem sound_commitSlot {s n} (h : Sound M C D T s) :
    Sound M C D T (commitSlot s n) := by
  unfold commitSlot
  dsimp only
  split
  · exact h
  · split
    · split
      · exact sound_dropRec (sound_faultSeq h)
      · exact sound_faultSeq h
    · split
      · exact h
      · split
        · exact sound_faultSeq (sound_beside h)
        · split
          · exact sound_commitDecode h
          · exact sound_commitPrefill h

theorem sound_clearStep {s} (h : Sound M C D T s) :
    Sound M C D T (clearStep s) := by
  unfold clearStep
  dsimp only
  exact sound_beside h (slots := fun _ h => by dsimp only; exact twf_tmap h)

theorem sound_commitAll {s} (h : Sound M C D T s) :
    Sound M C D T (commitAll s) :=
  sound_clearStep (sound_foldl h fun _ _ h1 => sound_commitSlot h1)

theorem sound_faultAll {s} (h : Sound M C D T s) :
    Sound M C D T (faultAll s) := by
  unfold faultAll
  exact sound_foldl h fun _ _ h1 => sound_ite (sound_commitSlot h1) h1

theorem sound_budgetStops {s} (h : Sound M C D T s) :
    Sound M C D T (budgetStops s) := by
  unfold budgetStops
  exact sound_foldl h fun _ _ h1 => sound_ite (sound_finishSeq h1) h1

theorem sound_holdList {s dec pos seg mine l} (h : Sound M C D T s) :
    Sound M C D T (holdList s dec pos seg mine l) := by
  induction l generalizing s dec pos seg mine with
  | nil => exact h
  | cons x r ih =>
    rw [holdList]
    dsimp only
    split
    · exact sound_ite (ih h) (ih h)
    · refine sound_ite (ih (sound_holdSeq h)) ?_
      have h1 := sound_ite (p := x.2.reason = 4 ∧ x.2.st = 4) h (sound_releaseHold (n := x.1) h)
      exact sound_ite (ih (sound_ite h1 (sound_finishSeq h1))) (sound_ite (ih h1) (sound_ite (ih h1) (ih h1)))

theorem sound_holdIdle {s} (h : Sound M C D T s) :
    Sound M C D T (holdIdle s) := by
  unfold holdIdle
  exact sound_foldl h fun _ _ h1 => sound_ite (sound_holdSeq h1) (sound_ite (sound_holdSeq h1) (sound_ite (sound_releaseHold
      h1) h1))

theorem sound_limitParks {s} (h : Sound M C D T s) :
    Sound M C D T (limitParks s) := by
  unfold limitParks
  dsimp only
  exact sound_foldl h fun _ _ h1 => sound_ite (sound_beginPark h1) h1

theorem sound_parkAllStep {s} (h : Sound M C D T s) :
    Sound M C D T (parkAllStep s) := by
  unfold parkAllStep
  dsimp only
  split
  · exact h
  · split
    · exact sound_foldl h fun _ _ h1 => sound_ite (sound_beginPark h1) (sound_ite h1 (sound_holdSeq h1))
    · exact sound_beside (sound_foldl h fun _ _ h2 => sound_ite (sound_beginPark h2) (sound_ite h2 (sound_holdSeq h2)))

theorem sound_holdsStep {s prog} (h : Sound M C D T s) :
    Sound M C D T (holdsStep s prog) := by
  unfold holdsStep
  dsimp only
  exact sound_parkAllStep (sound_limitParks (sound_ite (sound_holdList (sound_budgetStops h)) (sound_holdIdle
      (sound_budgetStops h))))

theorem sound_boundaryRun {T : Nat → Prop} {s} (h : Sound M C D (Cyc T) s) :
    Sound M C D (Cyc T) (boundaryRun s) := by
  unfold boundaryRun
  dsimp only
  exact sound_upd (sound_freeEnded (sound_sweepAdps (sound_planStep (sound_admissionWalk (sound_freeEnded (sound_holdsStep
      (sound_adoptAdps (sound_controls (sound_commitAll h)))))))))

theorem sound_boundaryIdle {s} (h : Sound M C D T s) :
    Sound M C D T (boundaryIdle s) :=
  sound_freeEnded (sound_sweepAdps (sound_holdsStep (sound_adoptAdps (sound_controls (sound_faultAll h)))))

theorem answers_execStepBoundary {T : Nat → Prop} {s} (h : Sound M C D (Cyc T) s) :
    Answers (execStepBoundary s) (Sound M C D (Cyc T)) := by
  unfold execStepBoundary
  split
  · exact answers_next (sound_ite (sound_boundaryRun h) h)
  · exact answers_next (sound_boundaryIdle h)

theorem sound_hubResume {s} (h : Sound M C D T s) :
    Sound M C D T (hubResume s) := by
  unfold hubResume
  dsimp only
  exact sound_freeEnded (sound_planStep (sound_holdsStep (sound_beside (sound_clearStep h) (slots := fun _ h => by dsimp only; exact twf_tmap h))))

theorem sound_hubStart {s} (h : Sound M C D T s) :
    Sound M C D T (hubStart s) := by
  unfold hubStart
  dsimp only
  exact sound_hubResume (sound_beside h)

theorem sound_hubStop {s} (h : Sound M C D T s) :
    Sound M C D T (hubStop s) := by
  unfold hubStop
  dsimp only
  exact sound_beside (sound_clearStep h)

theorem sound_doUploads {T : Plane → Prop} {s} (h : Sound M C D (OnPlane T) s) :
    Sound M C D (OnPlane T) (doUploads s) := by
  unfold doUploads
  dsimp only
  exact sound_foldl (sound_updPlane h) fun _ _ h1 => sound_doUpload h1

theorem sound_hubTick {T : Plane → Prop} {s} (h : Sound M C D (OnPlane T) s) :
    Sound M C D (OnPlane T) (hubTick s) := by
  unfold hubTick
  dsimp only
  exact sound_doUploads (sound_updPlane h (slots := fun _ h => by dsimp only; exact twf_tmap h))

theorem answers_execGaugeTick {s} (h : Sound M C D T s) :
    Answers (execGaugeTick s) (Sound M C D T) := by
  unfold execGaugeTick
  split
  · exact answers_next h
  · exact answers_next (sound_beside h (tenants := fun _ => twf_tmap))

end Sys2Proof.Proofs
end

section
/-! PROOFS. Every function keeps the canonical forms: fronts, ports and the plane cycle. -/

namespace Sys2Proof.Proofs

set_option Elab.async false

open Sys2Proof Sys2Proof.Machine Sys2Proof.Safety Sys2Proof.Laws

variable {M C D : Prop} {T : Rest → Prop}

theorem sound_stopCores {T : Nat → Prop} {s} (h : Sound M C D (Cyc T) s) :
    Sound M C D (Cyc T) (stopCores s) := by
  have hstop : ∀ k : Core, coreOk k = true → coreOk (if k.role.isSome then { k with issue := .stopped, target := none } else
      k) = true := by
    intro k hk
    split
    · exact hk
    · exact hk
  unfold stopCores
  dsimp only
  exact sound_upd h (cores := fun _ h => by dsimp only; exact twf_tmap h) (coreOks := fun _ => all_tmap hstop)

theorem sound_beginLoad {T : Nat → Prop} {s} (h : Sound M C D (Cyc T) s) :
    Sound M C D (Cyc T) (beginLoad s) := by
  unfold beginLoad
  dsimp only
  exact sound_upd (sound_hubStop (sound_stopCores h))

theorem sound_releaseCore {T : Nat → Prop} {s c} (h : Sound M C D (Cyc T) s) :
    Sound M C D (Cyc T) (releaseCore s c) := by
  unfold releaseCore
  exact sound_modCore h fun _ h1 => by
    split
    · exact coreSound_upd h1
    · exact h1

theorem sound_releaseFront {T : Nat → Prop} {s} (h : Sound M C D (Cyc T) s) :
    Sound M C D (Cyc T) (releaseFront s) := by
  unfold releaseFront
  dsimp only
  split
  · exact sound_applyRemaps (sound_upd (sound_foldl h fun _ _ h1 => sound_releaseCore h1))
  · exact sound_upd (sound_foldl h fun _ _ h2 => sound_releaseCore h2)

theorem answers_execFrontRelease {T : Nat → Prop} {s} (h : Sound M C D (Cyc T) s) :
    Answers (execFrontRelease s) (Sound M C D (Cyc T)) := by
  unfold execFrontRelease
  dsimp only
  split
  · exact answers_next h
  · split
    · exact answers_next (sound_raise h)
    · split
      · exact answers_next h
      · split
        · exact answers_next (sound_beginLoad h)
        · exact answers_next (sound_upd h)

theorem sound_releaseFetch {T : Nat → Prop} {s} (h : Sound M C D (Cyc T) s) :
    Sound M C D (Cyc T) (releaseFetch s) := by
  unfold releaseFetch
  split
  · exact sound_foldl h fun _ _ h1 => sound_fetchNow h1
  · exact h

theorem sound_settleRelease {T : Nat → Prop} {s} (h : Sound M C D (Cyc T) s) :
    Sound M C D (Cyc T) (settleRelease s) := by
  unfold settleRelease
  dsimp only
  split
  · split
    · exact sound_releaseFront (sound_upd h)
    · exact sound_upd h
  · exact h

theorem answers_execFrontTimeout {T : Plane → Prop} {s} (h : Sound M C D (OnPlane T) s) :
    Answers (execFrontTimeout s) (Sound M C D (OnPlane T)) := by
  unfold execFrontTimeout
  split
  · exact answers_next h
  · split
    · exact answers_next h
    · exact answers_next (sound_raise h)

theorem sound_squall {T : Nat → Prop} {s f same later} (h : Sound M C D (Cyc T) s) :
    Sound M C D (Cyc T) (squall s f same later) := by
  unfold squall
  dsimp only
  split
  · split
    · exact sound_beginLoad (sound_emit (sound_ownerEvent (sound_upd (sound_hubStop (sound_stopCores (sound_upd h))))))
    · exact sound_emit (sound_ownerEvent (sound_upd (sound_hubStop (sound_stopCores (sound_upd h)))))
  · split
    · exact sound_beginLoad (sound_emit (sound_ownerEvent (sound_upd (sound_hubStop (sound_stopCores (sound_upd h))))))
    · exact sound_emit (sound_ownerEvent (sound_upd (sound_hubStop (sound_stopCores (sound_upd h)))))

theorem answers_execSquallStop {T : Nat → Prop} {s} (h : Sound M C D (Cyc T) s) :
    Answers (execSquallStop s) (Sound M C D (Cyc T)) := by
  unfold execSquallStop
  dsimp only
  split
  · exact answers_next h
  · split
    · exact answers_next h
    · exact answers_next (sound_squall h)

theorem answers_execTransitFault {T : Plane → Prop} {pf s} (h : Sound M C D (OnPlane T) s) :
    Answers (execTransitFault pf s) (Sound M C D (OnPlane T)) := by
  unfold execTransitFault
  split
  · exact answers_next h
  · exact answers_next (sound_fenceField (sound_raise h))

theorem sound_deliverFlit {T : Nat → Prop} {su p} (h : Sound M C D (Cyc T) su.1) :
    Sound M C D (Cyc T) (deliverFlit su p).1 := by
  unfold deliverFlit
  dsimp only
  split
  · split
    · exact h
    · split
      · exact sound_dropPkt (sound_raise h)
      · split
        · exact h
        · exact sound_putPkt h
  · exact h

theorem sound_setPay {T : Nat → Prop} {s y} (h : Sound M C D (Cyc T) s) :
    Sound M C D (Cyc T) (setPay s y) := by
  unfold setPay
  dsimp only
  exact sound_upd h

theorem sound_delayPay {T : Nat → Prop} {s y} (h : Sound M C D (Cyc T) s) :
    Sound M C D (Cyc T) (delayPay s y) := by
  unfold delayPay
  dsimp only
  split
  · exact sound_upd (sound_setPay h)
  · exact sound_setPay h

theorem sound_gotFlit {T : Nat → Prop} {s y d} (h : Sound M C D (Cyc T) s) :
    Sound M C D (Cyc T) (gotFlit s y d) := by
  unfold gotFlit
  dsimp only
  split
  · split
    · exact sound_modCore (sound_setPay h) fun _ h1 => coreSound_upd h1
    · exact sound_setPay h
  · exact sound_setPay h

theorem sound_dropPay {T : Nat → Prop} {s id} (h : Sound M C D (Cyc T) s) :
    Sound M C D (Cyc T) (dropPay s id) := by
  unfold dropPay
  dsimp only
  exact sound_upd h

theorem sound_formFlits {T : Nat → Prop} {s y} (h : Sound M C D (Cyc T) s) :
    Sound M C D (Cyc T) (formFlits s y) :=
  sound_setPay h

theorem sound_payStep {T : Nat → Prop} {su y} (h : Sound M C D (Cyc T) su.1) :
    Sound M C D (Cyc T) (payStep su y).1 := by
  unfold payStep
  dsimp only
  split
  · exact h
  · split
    · exact sound_formFlits h
    · split
      · exact h
      · split
        · exact sound_gotFlit (sound_bumpFree h)
        · split
          · exact sound_delayPay h
          · split
            · rename_i e
              exact sound_dropPay (sound_of_snd e (sound_sramRead h))
            · rename_i e
              exact sound_gotFlit (sound_of_snd e (sound_sramRead h))

theorem sound_kvLine {T : Nat → Prop} {su x} (h : Sound M C D (Cyc T) su.1) :
    Sound M C D (Cyc T) (kvLine su x).1 := by
  unfold kvLine
  dsimp only
  split
  · exact h
  · split
    · exact h
    · split
      · split
        · rename_i e
          exact sound_upd (sound_of_snd e (sound_planeRead h))
        · rename_i e
          exact sound_upd (sound_of_snd e (sound_planeRead h))
      · exact sound_upd h

theorem sound_hputLine {T : Nat → Prop} {su x} (h : Sound M C D (Cyc T) su.1) :
    Sound M C D (Cyc T) (hputLine su x).1 := by
  unfold hputLine
  dsimp only
  split
  · exact h
  · split
    · exact h
    · split
      · rename_i e
        exact sound_upd (sound_of_snd e (sound_planeRead h))
      · rename_i e
        exact sound_upd (sound_of_snd e (sound_planeRead h))

theorem sound_dmaRun {T : Plane → Prop} {s u j} (h : Sound M C D (OnPlane T) s) :
    Sound M C D (OnPlane T) (dmaRun s u j).2.1 := by
  unfold dmaRun
  dsimp only
  split
  · exact h
  · split
    · exact sound_raise h
    · split
      · exact h
      · exact h

theorem sound_dmaStep {T : Nat → Prop} {su j} (h : Sound M C D (Cyc T) su.1) :
    Sound M C D (Cyc T) (dmaStep su j).1 := by
  have h1 := sound_dmaRun (u := su.2) (j := j) h
  unfold dmaStep
  split
  · rename_i e
    rw [e] at h1
    exact h1
  · rename_i e
    rw [e] at h1
    split
    · split
      · exact sound_modCore h1 fun _ h2 => coreSound_upd h2
      · exact h1
    · exact sound_upd h1

theorem sound_dmaEmpty {T : Nat → Prop} {s j} (h : Sound M C D (Cyc T) s) :
    Sound M C D (Cyc T) (dmaEmpty s j) := by
  unfold dmaEmpty
  split
  · split
    · exact sound_modCore h fun _ h1 => coreSound_upd h1
    · exact h
  · exact h

theorem sound_portBStep {T : Nat → Prop} {s} (h : Sound M C D (Cyc T) s) :
    Sound M C D (Cyc T) (portBStep s).1 := by
  unfold portBStep
  dsimp only
  exact sound_upd (sound_foldl_fst (sound_foldl (sound_upd (sound_foldl_fst (sound_foldl_fst (sound_foldl_fst
      (sound_foldl_fst h fun _ _ h1 => sound_deliverFlit h1) fun _ _ h2 => sound_payStep h2) fun _ _ h3 => sound_kvLine h3)
          fun _ _ h4 => sound_hputLine h4)) fun _ _ h5 => sound_dmaEmpty h5) fun _ _ h6 => sound_dmaStep h6)

theorem sound_setXfer {T : Nat → Prop} {s x} (h : Sound M C D (Cyc T) s) :
    Sound M C D (Cyc T) (setXfer s x) := by
  unfold setXfer
  dsimp only
  exact sound_upd h

theorem sound_dropXfer {T : Nat → Prop} {s id} (h : Sound M C D (Cyc T) s) :
    Sound M C D (Cyc T) (dropXfer s id) := by
  unfold dropXfer
  dsimp only
  exact sound_upd h

theorem sound_cgetRead {T : Nat → Prop} {su c} (h : Sound M C D (Cyc T) su.1) :
    Sound M C D (Cyc T) (cgetRead su c).1 := by
  unfold cgetRead
  dsimp only
  split
  · exact h
  · split
    · exact h
    · split
      · exact h
      · split
        · rename_i e
          exact sound_dropXfer (sound_of_snd e (sound_cmRead h))
        · rename_i e
          exact sound_setXfer (sound_of_snd e (sound_cmRead h))

theorem sound_cputRead {T : Nat → Prop} {s c} (h : Sound M C D (Cyc T) s) :
    Sound M C D (Cyc T) (cputRead s c) := by
  unfold cputRead
  dsimp only
  split
  · exact h
  · split
    · exact h
    · split
      · rename_i e
        exact sound_dropXfer (sound_of_snd e (sound_spmRead h))
      · rename_i e
        exact sound_grantA (sound_setXfer (sound_of_snd e (sound_spmRead h)))

theorem sound_cgetWrite {T : Nat → Prop} {s c} (h : Sound M C D (Cyc T) s) :
    Sound M C D (Cyc T) (cgetWrite s c) := by
  unfold cgetWrite
  dsimp only
  split
  · exact h
  · split
    · split
      · exact h
      · exact sound_grantA (sound_modCore (sound_setXfer h) fun _ h1 => coreSound_upd h1)
    · exact h

theorem sound_cputWrite {T : Nat → Prop} {su c} (h : Sound M C D (Cyc T) su.1) :
    Sound M C D (Cyc T) (cputWrite su c).1 := by
  unfold cputWrite
  dsimp only
  split
  · exact h
  · split
    · split
      · exact h
      · split
        · exact h
        · exact sound_setXfer h
    · exact h

theorem sound_xferCore {T : Nat → Prop} {su c} (h : Sound M C D (Cyc T) su.1) :
    Sound M C D (Cyc T) (xferCore su c).1 :=
  sound_cgetWrite (sound_cputRead (sound_cputWrite (sound_cgetRead h)))

theorem sound_xferStep {T : Nat → Prop} {su} (h : Sound M C D (Cyc T) su.1) :
    Sound M C D (Cyc T) (xferStep su).1 :=
  sound_foldl_fst h fun _ _ h1 => sound_xferCore h1

theorem sound_makeWrite {T : Nat → Prop} {s w} (h : Sound M C D (Cyc T) s) :
    Sound M C D (Cyc T) (makeWrite s w) := by
  unfold makeWrite
  dsimp only
  split
  · split
    · exact sound_markArrived (sound_sramStore h)
    · exact sound_sramStore h
  · exact sound_sramStore h

theorem sound_portWrites {T : Nat → Prop} {s u} (h : Sound M C D (Cyc T) s) :
    Sound M C D (Cyc T) (portWrites s u) :=
  sound_foldl h fun _ _ h1 => sound_makeWrite h1

theorem sound_putWrites {T : Nat → Prop} {s u} (h : Sound M C D (Cyc T) s) :
    Sound M C D (Cyc T) (putWrites s u) :=
  sound_foldl h fun _ _ h1 => sound_makeWrite h1

theorem sound_eachCore {f s} (h : ∀ s x1, Sound M C D T s → Sound M C D T (f s x1)) (h1 : Sound M C D T s) :
    Sound M C D T (eachCore f s) :=
  sound_foldl h1 fun _ _ h2 => h _ _ h2

theorem sound_unitsCycle {T : Nat → Prop} {s c} (h : Sound M C D (Cyc T) s) :
    Sound M C D (Cyc T) (unitsCycle s c) := by
  unfold unitsCycle
  dsimp only
  exact sound_feederStep (sound_corrCycle (sound_arrayCycle (sound_drainWrites (sound_readLoads (sound_modCore h fun _ h1 =>
      coreSound_upd h1)))))

theorem sound_storesCycle {T : Nat → Prop} {s c} (h : Sound M C D (Cyc T) s) :
    Sound M C D (Cyc T) (storesCycle s c) := by
  unfold storesCycle
  dsimp only
  exact sound_foldl (sound_setCore h (coreSound_upd (h.core _))) fun _ _ h1 => sound_doStore h1

theorem sound_dropsCycle {T : Nat → Prop} {s c} (h : Sound M C D (Cyc T) s) :
    Sound M C D (Cyc T) (dropsCycle s c) := by
  unfold dropsCycle
  dsimp only
  split
  · split
    · exact sound_modCore (sound_takeGranules h) fun _ h1 => coreSound_upd h1
    · exact h
  · exact h

theorem sound_writesCycle {T : Nat → Prop} {s u} (h : Sound M C D (Cyc T) s) :
    Sound M C D (Cyc T) (writesCycle s u) :=
  sound_eachCore (fun _ _ h1 => sound_dropsCycle h1) (sound_putWrites (sound_eachCore (fun _ _ h2 => sound_storesCycle h2)
      (sound_portWrites h)))

theorem sound_landCounts {T : Nat → Prop} {s c} (h : Sound M C D (Cyc T) s) :
    Sound M C D (Cyc T) (landCounts s c) := by
  unfold landCounts
  dsimp only
  exact sound_foldl (sound_setCore h (coreSound_upd (h.core _))) fun _ _ h1 => sound_incrRun h1

theorem sound_settleOvers {T : Nat → Prop} {s c} (h : Sound M C D (Cyc T) s) :
    Sound M C D (Cyc T) (settleOvers s c) := by
  unfold settleOvers
  dsimp only
  exact sound_foldl (sound_setCore h (coreSound_upd (h.core _))) fun _ _ h1 => sound_raise h1

theorem coreSound_samplesCycle {k n} (h : CoreSound C k) :
    CoreSound C (samplesCycle k n) := by
  unfold samplesCycle
  dsimp only
  exact coreSound_foldl (coreSound_upd h) fun _ _ h1 => coreSound_later h1

theorem coreSound_closeCore {k n} (h : CoreSound C k) :
    CoreSound C (closeCore k n) := by
  unfold closeCore
  dsimp only
  exact coreSound_upd (coreSound_noteChecks (coreSound_samplesCycle h))

theorem sound_endCore {T : Nat → Prop} {s c} (h : Sound M C D (Cyc T) s) :
    Sound M C D (Cyc T) (endCore s c) :=
  sound_modCore (sound_settleOvers (sound_landCounts h)) fun _ h1 => coreSound_closeCore h1

theorem coreSound_landWrites {k n} (h : CoreSound C k) :
    CoreSound C (landWrites k n) := by
  unfold landWrites
  dsimp only
  exact coreSound_foldl (coreSound_upd h) fun _ _ h1 => coreSound_put h1

theorem sound_advance {s} (h : Sound M C D Any s) :
    Sound M C D Any (advance s) := by
  unfold advance
  dsimp only
  exact sound_upd h

/-- The stages of a plane cycle before its writes. -/
theorem sound_stages {T : Nat → Prop} {s} (h : Sound M C D (Cyc T) s) :
    Sound M C D (Cyc T) (xferStep (portBStep (eachCore unitsCycle (releaseFetch (eachCore waitFetch (retriesCycle s)))))).1 := by
  have h1 := sound_eachCore (fun _ c h => sound_waitFetch (c := c) h) (sound_retriesCycle h)
  have h2 := sound_eachCore (fun _ c h => sound_unitsCycle (c := c) h) (sound_releaseFetch h1)
  exact sound_xferStep (sound_portBStep h2)

/-- Its writes and its end, up to the count of the cycle. -/
theorem sound_settled {T : Nat → Prop} {s u} (h : Sound M C D (Cyc T) s) : Sound M C D (Cyc T) (settleRelease (eachCore endCore (writesCycle s u))) :=
  sound_settleRelease (sound_eachCore (fun _ _ h1 => sound_endCore h1) (sound_writesCycle h))

/-- The landing of the writes that are due at the start of a cycle. -/
theorem sound_landings {T : Nat → Prop} {s} (h : Sound M C D (Cyc T) s) :
    Sound M C D (Cyc T) (eachCore (fun s c => s.modCore c fun k => landWrites k s.cycle) s) :=
  sound_eachCore (fun _ _ h => sound_modCore h fun _ hk => coreSound_landWrites hk) h

theorem sound_planeCycle {s} (h : Sound M C D Any s) :
    Sound M C D Any (planeCycle s) := by
  have hstages := sound_stages h
  unfold planeCycle
  generalize xferStep _ = p at hstages ⊢
  obtain ⟨s1, u⟩ := p
  exact sound_landings (sound_advance (sound_settled hstages))

theorem sound_at (s : State) : Sound False False False (Cyc fun n => n = s.plane.cycle) s :=
  ⟨nofun, nofun, nofun, nofun, nofun, nofun, nofun, nofun, nofun, nofun, nofun, nofun, nofun, rfl⟩

theorem advance_cycle (s : State) : (advance s).plane.cycle = s.plane.cycle + 1 := rfl

/-- Of the stages of a plane cycle only `advance` counts the cycle. -/
theorem planeCycle_cycle (s : State) : (planeCycle s).plane.cycle = s.plane.cycle + 1 := by
  have hstages := sound_stages (sound_at s)
  unfold planeCycle
  generalize xferStep _ = p at hstages ⊢
  obtain ⟨s1, u⟩ := p
  have hend : (advance (settleRelease (eachCore endCore (writesCycle s1 u)))).plane.cycle = s.plane.cycle + 1 :=
    congrArg (· + 1) (sound_settled hstages).rest
  rw [← hend]
  exact (sound_landings (sound_at _)).rest

theorem sound_tick {s} (h : Sound M C D Any s) :
    Sound M C D Any (tick s) := by
  unfold tick
  split
  · exact sound_planeCycle h
  · exact h

end Sys2Proof.Proofs
end

section
/-! PROOFS. Every function keeps the canonical forms: the loader. -/

namespace Sys2Proof.Proofs

set_option Elab.async false

open Sys2Proof Sys2Proof.Machine Sys2Proof.Safety Sys2Proof.Laws

variable {M C D : Prop}

theorem sound_settleFences {s} (h : Sound M C D Any s) :
    Sound M C D Any (settleFences s) :=
  sound_dropExcess h

theorem sound_loadFault {s code a b} (h : Sound M C D Any s) :
    Sound M C D Any (loadFault s code a b) := by
  unfold loadFault
  dsimp only
  exact sound_emit (sound_ownerEvent (sound_settleFences (sound_upd h)))

theorem sound_interruptLoad {s cause} (h : Sound M C D Any s) :
    Sound M C D Any (interruptLoad s cause) := by
  unfold interruptLoad
  split
  · exact sound_loadFault h
  · exact h

theorem sound_startLoad {s} (h : Sound M C D Any s) :
    Sound M C D Any (startLoad s) := by
  unfold startLoad
  dsimp only
  split
  · exact h
  · split
    · exact sound_upd h
    · exact sound_beginLoad (sound_upd h)

theorem answers_execLoadStart {s} (h : Sound M C D Any s) :
    Answers (execLoadStart s) (Sound M C D Any) :=
  answers_next (sound_startLoad h)

theorem sound_abortLoad {s} (h : Sound M C D Any s) :
    Sound M C D Any (abortLoad s) := by
  unfold abortLoad
  split
  · exact sound_loadFault h
  · exact h

theorem answers_execLoadAbort {s} (h : Sound M C D Any s) :
    Answers (execLoadAbort s) (Sound M C D Any) :=
  answers_next (sound_abortLoad h)

theorem answers_execLoadPass1 {img s} (h : Sound M C D Any s) :
    Answers (execLoadPass1 img s) (Sound M C D Any) := by
  unfold execLoadPass1
  dsimp only
  split
  · exact answers_next h
  · split
    · exact answers_next (sound_loadFault h)
    · split
      · exact answers_next (sound_loadFault h)
      · exact answers_next (sound_upd h)

theorem answers_execLoadVerify {s} (h : Sound M C D Any s) :
    Answers (execLoadVerify s) (Sound M C D Any) := by
  unfold execLoadVerify
  dsimp only
  split
  · exact answers_next h
  · split
    · exact answers_next (sound_loadFault (sound_sigFail h))
    · split
      · exact answers_next (sound_loadFault (sound_sigFail h))
      · exact answers_next (sound_upd h)

theorem sound_discardAll {s} (h : Sound M C D Any s) :
    Sound M C D Any (discardAll s) := by
  unfold discardAll
  dsimp only
  exact sound_freeEnded (sound_upd (sound_foldl (sound_foldl h fun _ _ h1 => sound_faultSeq h1) fun _ _ h2 => sound_tagEvent
      h2))

theorem answers_execLoadCheck {s} (h : Sound M C D Any s) :
    Answers (execLoadCheck s) (Sound M C D Any) := by
  unfold execLoadCheck
  dsimp only
  split
  · exact answers_next h
  · split
    · exact answers_next (sound_loadFault h)
    · exact answers_next (sound_upd (sound_ite h (sound_discardAll h)))

theorem sound_repairLine {s line} (h : Sound M C D Any s) :
    Sound M C D Any (repairLine s line) := by
  unfold repairLine
  dsimp only
  split
  · exact h
  · exact sound_upd h

theorem sound_repairLines {s} (h : Sound M C D Any s) :
    Sound M C D Any (repairLines s) :=
  sound_foldl h fun _ _ h1 => sound_repairLine h1

theorem sound_writeTables {s m p plan} (h : Sound M C D Any s) :
    Sound M C D Any (writeTables s m p plan) := by
  unfold writeTables
  dsimp only
  exact sound_repairLines (sound_upd h)

theorem answers_execLoadMap {plan s} (h : Sound M C D Any s) :
    Answers (execLoadMap plan s) (Sound M C D Any) := by
  unfold execLoadMap
  dsimp only
  split
  · exact answers_next h
  · split
    · exact answers_next (sound_loadFault h)
    · split
      · exact answers_next (sound_loadFault h)
      · exact answers_next (sound_writeTables h)

theorem sound_storeBlk {s m p pr} (h : Sound M C D Any s) :
    Sound M C D Any (storeBlk s m p pr) := by
  unfold storeBlk
  dsimp only
  split
  · exact h
  · split
    · exact h
    · exact sound_upd (sound_sramClean h) (sram := fun _ hm => memWf_mwrite (memWf_mclear hm))

theorem sound_sendBlks {s m p l lost} (h : Sound M C D Any s) :
    Sound M C D Any (sendBlks s m p l lost) := by
  unfold sendBlks
  dsimp only
  exact sound_upd (sound_foldl h fun _ _ h1 => sound_storeBlk h1)

theorem sound_toCopy {s} (h : Sound M C D Any s) :
    Sound M C D Any (toCopy s) := by
  unfold toCopy
  dsimp only
  split
  · exact sound_upd h
  · exact h

theorem sound_settleHurt {s} (h : Sound M C D Any s) :
    Sound M C D Any (settleHurt s) := by
  unfold settleHurt
  dsimp only
  exact sound_upd h

theorem answers_execLoadPass2 {img lost s} (h : Sound M C D Any s) :
    Answers (execLoadPass2 img lost s) (Sound M C D Any) := by
  unfold execLoadPass2
  dsimp only
  split
  · exact answers_next h
  · split
    · exact answers_next (sound_loadFault h)
    · split
      · exact answers_next (sound_loadFault h)
      · exact answers_next (sound_toCopy (sound_upd (sound_settleHurt (sound_sendBlks h))))

theorem answers_execClusterDigestCheck {lcl s} (h : Sound M C D Any s) :
    Answers (execClusterDigestCheck lcl s) (Sound M C D Any) := by
  unfold execClusterDigestCheck
  dsimp only
  split
  · exact answers_next (sound_settleHurt h)
  · split
    · exact answers_next (sound_upd (sound_foldl (sound_settleHurt h) fun _ _ h1 => by
    split
    · exact sound_sramCorrect h1
    · exact h1))
    · split
      · exact answers_next (sound_toCopy (sound_upd (sound_foldl (sound_settleHurt h) fun _ _ h2 => by
    split
    · exact sound_sramCorrect h2
    · exact h2)))
      · exact answers_next (sound_upd (sound_foldl (sound_settleHurt h) fun _ _ h3 => by
    split
    · exact sound_sramCorrect h3
    · exact h3))

theorem sound_repairFails {s failing} (h : Sound M C D Any s) :
    Sound M C D Any (repairFails s failing) := by
  unfold repairFails
  dsimp only
  split
  · exact sound_loadFault (sound_foldl h fun _ _ h1 => sound_fenceCluster h1)
  · exact sound_loadFault h

theorem answers_execResendRound {img lost s} (h : Sound M C D Any s) :
    Answers (execResendRound img lost s) (Sound M C D Any) := by
  unfold execResendRound
  dsimp only
  split
  · exact answers_next (sound_settleHurt h)
  · split
    · exact answers_next (sound_repairFails (sound_settleHurt h))
    · split
      · exact answers_next (sound_loadFault (sound_settleHurt h))
      · exact answers_next (sound_upd (sound_sendBlks (sound_settleHurt h)))

theorem coreSound_startCoreState {s p lcl k r} :
    CoreSound C (startCoreState s p lcl k r) := fun _ => rfl

theorem sound_copyCode {s m p x} (h : Sound M C D Any s) :
    Sound M C D Any (copyCode s m p x) := by
  unfold copyCode
  dsimp only
  split
  · exact h
  · exact sound_sramSet (sound_sramClean (sound_sramCorrect h))

theorem sound_patchInit {s m x n lcl} (h : Sound M C D Any s) :
    Sound M C D Any (patchInit s m x n lcl) := by
  unfold patchInit
  dsimp only
  split
  · exact h
  · exact sound_foldl h fun _ _ h1 => by
      split
      · exact sound_sramSet (sound_sramClean h1)
      · exact h1

theorem sound_zeroStage {s p} (h : Sound M C D Any s) :
    Sound M C D Any (zeroStage s p) := by
  unfold zeroStage
  dsimp only
  exact sound_foldl h fun _ _ h1 => by
    split
    · exact sound_upd (sound_sramClean h1) (sram := fun _ => memWf_mclear)
    · exact h1

theorem sound_startPlane {s p} (h : Sound M C D Any s) :
    Sound M C D Any (startPlane s p) := by
  unfold startPlane
  dsimp only
  exact sound_upd h (cores := fun _ _ => twf_foldl_tset rfl)
    (coreOks := fun hC _ => all_foldl_tset rfl fun _ => coreSound_startCoreState hC)

theorem sound_clearCounts {s} (h : Sound M C D Any s) :
    Sound M C D Any (clearCounts s) := by
  unfold clearCounts
  dsimp only
  exact sound_upd h

theorem sound_bindSlots {s} (h : Sound M C D Any s) :
    Sound M C D Any (bindSlots s) := by
  unfold bindSlots
  dsimp only
  exact sound_upd h (wslots := fun _ => twf_foldl_tset)

theorem answers_execLoadCopy {s} (h : Sound M C D Any s) :
    Answers (execLoadCopy s) (Sound M C D Any) := by
  unfold execLoadCopy
  dsimp only
  split
  · split
    · exact answers_next (sound_settleHurt h)
    · split
      · exact answers_next (sound_upd (sound_settleHurt h))
      · exact answers_next (sound_emit (sound_ownerEvent (sound_hubStart (sound_settleFences (sound_upd (sound_bindSlots
            (sound_clearCounts (sound_startPlane (sound_zeroStage (sound_foldl (sound_foldl (sound_settleHurt h) fun _ _ h1
                => sound_copyCode h1) fun _ _ h2 => sound_foldl h2 fun _ _ h3 => sound_patchInit h3))))))))))
  · exact answers_next h

end Sys2Proof.Proofs
end

section
/-! PROOFS. Every function keeps the canonical forms: fabric, power, temperatures and bring-up. -/

namespace Sys2Proof.Proofs

set_option Elab.async false

open Sys2Proof Sys2Proof.Machine Sys2Proof.Safety Sys2Proof.Laws

variable {M C D : Prop}

theorem sound_isoSend {s ty hop pay} (h : Sound M C D Any s) :
    Sound M C D Any (isoSend s ty hop pay) := by
  unfold isoSend
  dsimp only
  split
  · exact h
  · exact sound_emit (sound_upd h)

theorem sound_isoAlarm {s code detail} (h : Sound M C D Any s) :
    Sound M C D Any (isoAlarm s code detail) :=
  sound_isoSend h

theorem sound_alarm {s code} (h : Sound M C D Any s) :
    Sound M C D Any (alarm s code) :=
  sound_isoAlarm (sound_bumpFree h)

theorem sound_isoRing {s ring reason} (h : Sound M C D Any s) :
    Sound M C D Any (isoRing s ring reason) := by
  unfold isoRing
  dsimp only
  split
  · exact h
  · exact sound_ownerEvent (sound_upd h)

theorem sound_isoSync {s} (h : Sound M C D Any s) :
    Sound M C D Any (isoSync s) := by
  unfold isoSync
  dsimp only
  split
  · exact h
  · split
    · exact sound_upd h
    · exact sound_upd h

theorem sound_isoShare {s} (h : Sound M C D Any s) :
    Sound M C D Any (isoShare s) := by
  unfold isoShare
  dsimp only
  split
  · exact sound_upd h
  · exact h

theorem sound_writeIsoCfg {s v} (h : Sound M C D Any s) :
    Sound M C D Any (writeIsoCfg s v) := by
  unfold writeIsoCfg
  dsimp only
  exact sound_isoShare (sound_isoSync (sound_upd h))

theorem answers_execIsobarJoin {v s} (h : Sound M C D Any s) :
    Answers (execIsobarJoin v s) (Sound M C D Any) :=
  answers_next (sound_writeIsoCfg h)

theorem sound_takeTime {s f} (h : Sound M C D Any s) :
    Sound M C D Any (takeTime s f) := by
  unfold takeTime
  dsimp only
  split
  · split
    · exact sound_isoRing (sound_upd h)
    · exact sound_upd h
  · split
    · exact sound_isoRing (sound_upd h)
    · exact sound_upd h

theorem sound_takeDemand {s n d fl} (h : Sound M C D Any s) :
    Sound M C D Any (takeDemand s n d fl) := by
  unfold takeDemand
  dsimp only
  exact sound_upd h

theorem sound_takeFrame {s f} (h : Sound M C D Any s) :
    Sound M C D Any (takeFrame s f) := by
  unfold takeFrame
  split
  · exact sound_takeTime h
  · exact sound_takeDemand h
  · exact sound_ownerEvent h
  · exact h

theorem answers_execIsobarFrameReceive {frame s} (h : Sound M C D Any s) :
    Answers (execIsobarFrameReceive frame s) (Sound M C D Any) := by
  unfold execIsobarFrameReceive
  dsimp only
  split
  · exact answers_next (sound_emit h)
  · split
    · exact answers_next (sound_upd h)
    · split
      · split
        · exact answers_next (sound_ite (sound_takeTime (sound_isoRing h)) (sound_isoRing h))
        · exact answers_next (sound_emit (sound_takeFrame (sound_isoRing h)))
      · split
        · exact answers_next (sound_ite (sound_takeTime h) h)
        · exact answers_next (sound_emit (sound_takeFrame h))

theorem answers_execIsobarTimeFrame {s} (h : Sound M C D Any s) :
    Answers (execIsobarTimeFrame s) (Sound M C D Any) := by
  unfold execIsobarTimeFrame
  dsimp only
  split
  · exact answers_next h
  · exact answers_next (sound_isoSend (sound_upd h))

theorem answers_execIsobarBudgetFrame {s} (h : Sound M C D Any s) :
    Answers (execIsobarBudgetFrame s) (Sound M C D Any) := by
  unfold execIsobarBudgetFrame
  dsimp only
  split
  · exact answers_next h
  · exact answers_next (sound_isoSend (sound_takeDemand h))

theorem answers_execIsobarShareCompute {s} (h : Sound M C D Any s) :
    Answers (execIsobarShareCompute s) (Sound M C D Any) := by
  unfold execIsobarShareCompute
  dsimp only
  split
  · exact answers_next h
  · exact answers_next (sound_upd h)

theorem answers_execIsobarAlarm {code detail s} (h : Sound M C D Any s) :
    Answers (execIsobarAlarm code detail s) (Sound M C D Any) :=
  answers_next (sound_isoAlarm h)

theorem sound_isoLose {s ring reason} (h : Sound M C D Any s) :
    Sound M C D Any (isoLose s ring reason) := by
  unfold isoLose
  dsimp only
  exact sound_isoShare (sound_upd (sound_isoRing h))

theorem answers_execIsobarBreakTimeout {s} (h : Sound M C D Any s) :
    Answers (execIsobarBreakTimeout s) (Sound M C D Any) := by
  unfold execIsobarBreakTimeout
  split
  · exact answers_next h
  · exact answers_next (sound_isoSend (sound_isoLose h))

theorem answers_execIsobarMasterLost {s} (h : Sound M C D Any s) :
    Answers (execIsobarMasterLost s) (Sound M C D Any) := by
  unfold execIsobarMasterLost
  split
  · exact answers_next h
  · exact answers_next (sound_isoLose h)

theorem sound_setPort {s p x} (h : Sound M C D Any s) :
    Sound M C D Any (State.setPort s p x) := by
  unfold State.setPort
  dsimp only
  exact sound_upd h (ports := fun _ => twf_tset)

theorem sound_portDrop {s p} (h : Sound M C D Any s) :
    Sound M C D Any (portDrop s p) :=
  sound_setPort h

theorem sound_qpError {s n} (h : Sound M C D Any s) :
    Sound M C D Any (qpError s n) := by
  unfold qpError
  dsimp only
  split
  · exact h
  · exact sound_upd (sound_setQp h)

theorem sound_failOp {s o} (h : Sound M C D Any s) :
    Sound M C D Any (failOp s o) := by
  unfold failOp
  split
  · exact sound_freeEnded (sound_parkFail h)
  · exact sound_restoreFail h
  · split
    · exact sound_refetch h
    · exact h

theorem sound_moveOp {acked s o} (h : Sound M C D Any s) :
    Sound M C D Any (moveOp acked s o) := by
  unfold moveOp
  dsimp only
  split
  · exact sound_failOp h
  · exact sound_upd (sound_clearOp h)

theorem sound_portDown {s p upper acked} (h : Sound M C D Any s) :
    Sound M C D Any (portDown s p upper acked) := by
  unfold portDown
  dsimp only
  split
  · exact h
  · exact sound_ownerEvent (sound_foldl (sound_foldl (sound_setPort h) fun _ _ h1 => sound_qpError h1) fun _ _ h2 =>
        sound_moveOp h2)

theorem answers_execFabricPortDown {p loss s} (h : Sound M C D Any s) :
    Answers (execFabricPortDown p loss s) (Sound M C D Any) := by
  unfold execFabricPortDown
  exact answers_next (sound_ite h (sound_portDown h))

theorem sound_portTrained {s p} (h : Sound M C D Any s) :
    Sound M C D Any (portTrained s p) := by
  unfold portTrained
  dsimp only
  split
  · exact h
  · exact sound_ownerEvent (sound_setPort h)

theorem answers_execFabricPortUp {p s} (h : Sound M C D Any s) :
    Answers (execFabricPortUp p s) (Sound M C D Any) := by
  unfold execFabricPortUp
  exact answers_next (sound_ite (sound_portTrained h) h)

theorem sound_writePort {s p v} (h : Sound M C D Any s) :
    Sound M C D Any (writePort s p v) := by
  unfold writePort
  dsimp only
  split
  · exact sound_setPort h
  · split
    · exact sound_setPort (sound_portDown h)
    · exact sound_setPort h

theorem answers_execPortEnable {p v s} (h : Sound M C D Any s) :
    Answers (execPortEnable p v s) (Sound M C D Any) := by
  unfold execPortEnable
  exact answers_next (sound_ite h (sound_writePort h))

theorem answers_execAckTimeout {loss s} (h : Sound M C D Any s) :
    Answers (execAckTimeout loss s) (Sound M C D Any) := by
  unfold execAckTimeout
  dsimp only
  split
  · exact answers_next h
  · split
    · exact answers_next (sound_emit (sound_setQp h))
    · split
      · exact answers_next (sound_emit (sound_setQp h))
      · exact answers_next (sound_foldl (sound_qpError h) fun _ _ h1 => sound_failOp h1)

theorem answers_execRateInterval {s} (h : Sound M C D Any s) :
    Answers (execRateInterval s) (Sound M C D Any) := by
  unfold execRateInterval
  dsimp only
  exact answers_next (sound_upd h (qps := fun _ h => by dsimp only; exact twf_tmap h))

theorem answers_execCnpReceived {rx s} (h : Sound M C D Any s) :
    Answers (execCnpReceived rx s) (Sound M C D Any) := by
  unfold execCnpReceived
  dsimp only
  split
  · exact answers_next h
  · split
    · exact answers_next (sound_portDrop h)
    · split
      · exact answers_next h
      · exact answers_next (sound_setPort (sound_setQp h))

theorem answers_execArpRequest {rx addr s} (h : Sound M C D Any s) :
    Answers (execArpRequest rx addr s) (Sound M C D Any) := by
  unfold execArpRequest
  dsimp only
  split
  · exact answers_next h
  · split
    · exact answers_next (sound_emit h)
    · exact answers_next (sound_portDrop h)

theorem sound_ecnMark {s qp fr} (h : Sound M C D Any s) :
    Sound M C D Any (ecnMark s qp fr) := by
  unfold ecnMark
  dsimp only
  split
  · exact sound_emit (sound_setQp h)
  · exact h

theorem sound_winWrite {s a off d} (h : Sound M C D Any s) :
    Sound M C D Any (winWrite s a off d) := by
  unfold winWrite
  dsimp only
  split
  · exact h
  · exact sound_upd h

theorem sound_fabReply {s qp kind} (h : Sound M C D Any s) :
    Sound M C D Any (fabReply s qp kind) :=
  sound_emit h

theorem sound_fabRefuse {s qp kind} (h : Sound M C D Any s) :
    Sound M C D Any (fabRefuse s qp kind) :=
  sound_fabReply (sound_portDrop h)

theorem sound_qpTook {s qp n} (h : Sound M C D Any s) :
    Sound M C D Any (qpTook s qp n) :=
  sound_setQp h

theorem answers_fabArrival {s qp fr act} (h : Sound M C D Any s) (h1 : ∀ s, Sound M C D Any s → Sound M C D Any (act s)) :
    Answers (fabArrival s qp fr act) (Sound M C D Any) := by
  unfold fabArrival
  dsimp only
  split
  · exact answers_next h
  · split
    · exact answers_next (sound_portDrop h)
    · exact answers_next (sound_ite (sound_fabRefuse (sound_ecnMark h)) (h1 _ (sound_ecnMark h)))

theorem answers_execRdmaWriteArrival {rx rkey addr data s} (h : Sound M C D Any s) :
    Answers (execRdmaWriteArrival rx rkey addr data s) (Sound M C D Any) := by
  unfold execRdmaWriteArrival
  dsimp only
  exact answers_fabArrival h fun _ h1 => by
    split
    · exact sound_fabRefuse h1
    · split
      · exact sound_fabReply (sound_qpTook (sound_winWrite h1))
      · exact sound_fabRefuse h1

theorem answers_execSendArrival {rx data s} (h : Sound M C D Any s) :
    Answers (execSendArrival rx data s) (Sound M C D Any) := by
  unfold execSendArrival
  dsimp only
  exact answers_fabArrival h fun _ h1 => by
    split
    · exact sound_fabRefuse h1
    · split
      · exact sound_fabRefuse h1
      · exact sound_fabReply (sound_qpTook (sound_modTenant (sound_winWrite h1)))

theorem answers_execRdmaReadRequest {rx rkey addr len s} (h : Sound M C D Any s) :
    Answers (execRdmaReadRequest rx rkey addr len s) (Sound M C D Any) := by
  unfold execRdmaReadRequest
  dsimp only
  exact answers_fabArrival h fun _ h1 => by
    split
    · exact sound_fabRefuse h1
    · split
      · exact sound_fabRefuse h1
      · split
        · exact sound_fabRefuse h1
        · split
          · rename_i e
            exact sound_fabRefuse (sound_of_snd e (sound_sramRead h1))
          · rename_i e
            exact sound_emit (sound_qpTook (sound_of_snd e (sound_sramRead h1)))

theorem sound_pushEnd {s t} (h : Sound M C D Any s) :
    Sound M C D Any (pushEnd s t) :=
  sound_modTenant h

theorem answers_execHostPush {t data s} (h : Sound M C D Any s) :
    Answers (execHostPush t data s) (Sound M C D Any) := by
  unfold execHostPush
  dsimp only
  split
  · exact answers_next h
  · split
    · exact answers_next (sound_pushEnd h)
    · split
      · exact answers_next (sound_ownerEvent (sound_pushEnd h))
      · exact answers_next (sound_winWrite (sound_pushEnd h))

theorem sound_virRequest {s} (h : Sound M C D Any s) :
    Sound M C D Any (virRequest s) := by
  unfold virRequest
  dsimp only
  exact sound_upd h

theorem sound_virRelease {s} (h : Sound M C D Any s) :
    Sound M C D Any (virRelease s) := by
  unfold virRelease
  dsimp only
  exact sound_upd h

theorem sound_virFail {s} (h : Sound M C D Any s) :
    Sound M C D Any (virFail s) := by
  unfold virFail
  dsimp only
  split
  · exact sound_upd (sound_virRelease h)
  · exact sound_upd (sound_virRelease h)

theorem answers_execAvsSetpointAdjust {s} (h : Sound M C D Any s) :
    Answers (execAvsSetpointAdjust s) (Sound M C D Any) := by
  unfold execAvsSetpointAdjust
  dsimp only
  split
  · exact answers_next h
  · split
    · split
      · exact answers_next h
      · exact answers_next (sound_emit (sound_upd h))
    · split
      · split
        · exact answers_next h
        · exact answers_next (sound_emit (sound_upd h))
      · split
        · split
          · exact answers_next h
          · exact answers_next (sound_emit (sound_upd h))
        · split
          · exact answers_next h
          · exact answers_next (sound_emit (sound_upd h))

theorem answers_execVirOkAsserted {s} (h : Sound M C D Any s) :
    Answers (execVirOkAsserted s) (Sound M C D Any) := by
  unfold execVirOkAsserted
  dsimp only
  exact answers_next (sound_upd h)

theorem sound_portsDown {s} (h : Sound M C D Any s) :
    Sound M C D Any (portsDown s) :=
  sound_foldl h fun _ _ h1 => sound_portDown h1

theorem sound_enterFrost {s} (h : Sound M C D Any s) :
    Sound M C D Any (enterFrost s) := by
  unfold enterFrost
  dsimp only
  exact sound_isoSync (sound_upd (sound_portsDown (sound_virRelease (sound_hubStop h))) (cores := fun _ _ => rfl) (coreOks :=
      fun _ _ => rfl) (cycle := fun _ => trivial))

theorem sound_forcedFrost {s} (h : Sound M C D Any s) :
    Sound M C D Any (forcedFrost s) := by
  unfold forcedFrost
  dsimp only
  exact sound_enterFrost (sound_stopCores (sound_upd h))

theorem sound_losePower {s} (h : Sound M C D Any s) :
    Sound M C D Any (losePower s) := by
  unfold losePower
  dsimp only
  exact sound_upd (sound_endSessions h) (sram := fun _ _ => rfl) (kvMem := fun _ _ => rfl) (cores := fun _ _ => rfl) (coreOks
      := fun _ _ => rfl) (slots := fun _ _ => rfl) (adps := fun _ _ => rfl)

theorem sound_hardOff {s} (h : Sound M C D Any s) :
    Sound M C D Any (hardOff s) := by
  unfold hardOff
  dsimp only
  exact sound_isoSync (sound_upd (sound_losePower (sound_alarm (sound_upd h))))

theorem sound_force {s cause} (h : Sound M C D Any s) :
    Sound M C D Any (force s cause) := by
  unfold force
  dsimp only
  split
  · exact sound_hardOff (sound_interruptLoad h)
  · split
    · exact h
    · split
      · exact sound_forcedFrost (sound_upd (sound_interruptLoad h))
      · exact sound_upd (sound_interruptLoad h)

theorem sound_unforce {s cause} (h : Sound M C D Any s) :
    Sound M C D Any (unforce s cause) := by
  unfold unforce
  dsimp only
  exact sound_isoSync (sound_upd h)

theorem answers_execForcedChange {cause s} (h : Sound M C D Any s) :
    Answers (execForcedChange cause s) (Sound M C D Any) := by
  unfold execForcedChange
  exact answers_next (sound_ite h (sound_force h))

theorem answers_execVirUndervoltage {okFell s} (h : Sound M C D Any s) :
    Answers (execVirUndervoltage okFell s) (Sound M C D Any) := by
  unfold execVirUndervoltage
  dsimp only
  split
  · exact answers_next (sound_ite (sound_upd h) h)
  · split
    · exact answers_next (sound_force (sound_ite (sound_upd h) h))
    · split
      · exact answers_next (sound_virFail (sound_upd h))
      · exact answers_next h

theorem answers_execVirOkRestored {s} (h : Sound M C D Any s) :
    Answers (execVirOkRestored s) (Sound M C D Any) := by
  unfold execVirOkRestored
  dsimp only
  exact answers_next (sound_unforce (sound_upd h))

theorem sound_warmRestart {s} (h : Sound M C D Any s) :
    Sound M C D Any (warmRestart s) := by
  unfold warmRestart
  dsimp only
  split
  · exact h
  · rename_i p _
    have hp : Sound M C D Any (startPlane { s with bg := { s.bg with badMask := s.jet.badMask } } p) := sound_startPlane (sound_upd h)
    exact sound_hubResume (sound_upd h (sram := fun m _ => hp.sram m) (cores := fun c _ => hp.cores c)
      (coreOks := fun c _ => hp.coreOks c))

theorem sound_stepDown {s} (h : Sound M C D Any s) :
    Sound M C D Any (stepDown s) := by
  unfold stepDown
  dsimp only
  split
  · split
    · exact sound_upd h
    · exact h
  · split
    · exact sound_upd h
    · exact h
  · exact sound_upd h
  · exact sound_enterFrost h
  · exact h

theorem sound_portsTrain {s} (h : Sound M C D Any s) :
    Sound M C D Any (portsTrain s) := by
  unfold portsTrain
  dsimp only
  exact sound_foldl h fun _ _ h1 => sound_ite (sound_setPort h1) h1

theorem sound_stepUp {s} (h : Sound M C D Any s) :
    Sound M C D Any (stepUp s) := by
  unfold stepUp
  dsimp only
  split
  · split
    · exact h
    · split
      · exact sound_portsTrain (sound_isoSync (sound_upd h))
      · split
        · exact sound_virRequest h
        · exact h
  · exact sound_upd h
  · exact sound_upd h
  · split
    · exact sound_warmRestart (sound_upd h)
    · exact sound_upd h
  · exact h

theorem answers_execStateTransition {s} (h : Sound M C D Any s) :
    Answers (execStateTransition s) (Sound M C D Any) := by
  unfold execStateTransition
  split
  · exact answers_next h
  · split
    · exact answers_next (sound_stepDown h)
    · split
      · exact answers_next (sound_stepUp h)
      · exact answers_next h

theorem sound_writePwrCtrl {s v} (h : Sound M C D Any s) :
    Sound M C D Any (writePwrCtrl s v) := by
  unfold writePwrCtrl
  dsimp only
  exact sound_upd h

theorem answers_execStateTargetWrite {v s} (h : Sound M C D Any s) :
    Answers (execStateTargetWrite v s) (Sound M C D Any) :=
  answers_next (sound_writePwrCtrl h)

theorem answers_execIdleDescent {s} (h : Sound M C D Any s) :
    Answers (execIdleDescent s) (Sound M C D Any) := by
  unfold execIdleDescent
  dsimp only
  split
  · exact answers_next (sound_upd h)
  · exact answers_next h

theorem sound_askStep {s n} (h : Sound M C D Any s) :
    Sound M C D Any (askStep s n) := by
  unfold askStep
  dsimp only
  exact sound_upd h

theorem answers_execClockStepChange {s} (h : Sound M C D Any s) :
    Answers (execClockStepChange s) (Sound M C D Any) := by
  unfold execClockStepChange
  dsimp only
  split
  · exact answers_next (sound_upd h)
  · exact answers_next h

theorem answers_execRegulatorTileTrip {die pf cl tile rail s} (h : Sound M C D Any s) :
    Answers (execRegulatorTileTrip die pf cl tile rail s) (Sound M C D Any) := by
  unfold execRegulatorTileTrip
  dsimp only
  split
  · exact answers_next h
  · split
    · exact answers_next (sound_fenceCluster (sound_raise (sound_upd h)))
    · exact answers_next (sound_upd h)

theorem answers_execVtransitFeedTrip {pf cl neighbour s} (h : Sound M C D Any s) :
    Answers (execVtransitFeedTrip pf cl neighbour s) (Sound M C D Any) := by
  unfold execVtransitFeedTrip
  refine answers_ite (answers_next h) ?_
  extract_lets pcl had now src pwr s1
  have h1 : Sound M C D Any s1 := sound_upd h
  exact answers_ite (answers_next h)
    (answers_ite (answers_next (sound_fenceField (sound_raise h1))) (answers_next (sound_upd h1)))

theorem sound_setPair {s i p} (h : Sound M C D Any s) :
    Sound M C D Any (State.setPair s i p) := by
  unfold State.setPair
  dsimp only
  exact sound_upd h (pairs := fun _ => twf_tset)

theorem sound_setReadings {s l} (h : Sound M C D Any s) :
    Sound M C D Any (setReadings s l) :=
  sound_bumpFree (sound_foldl h fun _ _ h1 => sound_setPair h1)

theorem sound_thermalSteps {s} (h : Sound M C D Any s) :
    Sound M C D Any (thermalSteps s) := by
  unfold thermalSteps
  dsimp only
  split
  · exact sound_askStep (sound_upd h)
  · split
    · split
      · exact sound_askStep (sound_upd h)
      · exact h
    · exact sound_upd h

theorem sound_refreshOf {s i} (h : Sound M C D Any s) :
    Sound M C D Any (refreshOf s i) := by
  unfold refreshOf
  dsimp only
  split
  · exact sound_upd h
  · split
    · exact sound_upd h
    · exact h

theorem sound_refreshRates {s l} (h : Sound M C D Any s) :
    Sound M C D Any (refreshRates s l) :=
  sound_foldl h fun _ _ h1 => sound_refreshOf h1

theorem sound_samplePairs {s reads} (h : Sound M C D Any s) :
    Sound M C D Any (samplePairs s reads) :=
  sound_setReadings (sound_foldl h fun _ _ h1 => sound_setPair h1)

theorem sound_calibrate {s} (h : Sound M C D Any s) :
    Sound M C D Any (calibrate s) :=
  sound_setReadings (sound_foldl (sound_writeRecord h) fun _ _ h1 => sound_setPair h1)

theorem sound_askRecal {s} (h : Sound M C D Any s) :
    Sound M C D Any (askRecal s) := by
  unfold askRecal
  dsimp only
  split
  · exact sound_calibrate (sound_upd h)
  · exact sound_upd h

theorem answers_execSensorRecal {s} (h : Sound M C D Any s) :
    Answers (execSensorRecal s) (Sound M C D Any) :=
  answers_next (sound_askRecal h)

theorem sound_refreshCap {s} (h : Sound M C D Any s) :
    Sound M C D Any (refreshCap s) := by
  unfold refreshCap
  dsimp only
  exact sound_upd h

theorem answers_execPowerCapUpdate {p s} (h : Sound M C D Any s) :
    Answers (execPowerCapUpdate p s) (Sound M C D Any) := by
  unfold execPowerCapUpdate
  dsimp only
  split
  · exact answers_next h
  · exact answers_next (sound_refreshCap (sound_upd (sound_ite h (sound_upd h))))

theorem answers_execClockStepControl {p s} (h : Sound M C D Any s) :
    Answers (execClockStepControl p s) (Sound M C D Any) := by
  unfold execClockStepControl
  dsimp only
  split
  · exact answers_next h
  · exact answers_next (sound_ite (sound_unforce (sound_ite (sound_askStep (sound_upd (sound_refreshCap (sound_upd h))))
        (sound_ite (sound_askStep (sound_upd (sound_refreshCap (sound_upd h)))) (sound_upd (sound_refreshCap (sound_upd
            h)))))) (sound_ite (sound_askStep (sound_upd (sound_refreshCap (sound_upd h)))) (sound_ite (sound_askStep
                (sound_upd (sound_refreshCap (sound_upd h)))) (sound_upd (sound_refreshCap (sound_upd h))))))

theorem answers_execCapBelowStep6 {s} (h : Sound M C D Any s) :
    Answers (execCapBelowStep6 s) (Sound M C D Any) := by
  unfold execCapBelowStep6
  split
  · exact answers_next (sound_force h)
  · exact answers_next h

theorem sound_coolantStop {s} (h : Sound M C D Any s) :
    Sound M C D Any (coolantStop s) := by
  unfold coolantStop
  dsimp only
  split
  · exact h
  · split
    · exact sound_force (sound_alarm (sound_upd h))
    · split
      · exact sound_upd (sound_virRelease (sound_alarm (sound_upd h)))
      · exact h

theorem answers_execCoolantStop {s} (h : Sound M C D Any s) :
    Answers (execCoolantStop s) (Sound M C D Any) := by
  unfold execCoolantStop
  exact answers_next (sound_ite (sound_coolantStop h) h)

theorem answers_execCoolantRestored {s} (h : Sound M C D Any s) :
    Answers (execCoolantRestored s) (Sound M C D Any) := by
  unfold execCoolantRestored
  exact answers_next (sound_ite (sound_unforce h) h)

theorem answers_execDewPointCheck {s} (h : Sound M C D Any s) :
    Answers (execDewPointCheck s) (Sound M C D Any) := by
  unfold execDewPointCheck
  dsimp only
  split
  · exact answers_next (sound_upd h)
  · split
    · exact answers_next h
    · split
      · exact answers_next (sound_ite (sound_upd (sound_bumpFree (sound_upd h))) (sound_alarm (sound_upd (sound_bumpFree
            (sound_upd h)))))
      · split
        · exact answers_next (sound_upd (sound_bumpFree (sound_upd h)))
        · exact answers_next (sound_bumpFree (sound_upd h))

/-- What a channel of the converter keeps when the engine loses its power. -/
def coldChannel (x : AdcCh) : AdcCh := { s0 := x.s0, s1 := x.s1, z := x.z, span := x.span, tcal := x.tcal, untrace := x.untrace }

theorem sound_coldState {s} (h : Sound M C D Any s) :
    Sound M C D Any (coldState s) := by
  refine ⟨fun _ => rfl, h.wstMem, fun _ => rfl, fun _ => rfl, fun _ => rfl, fun _ => rfl, fun c => ?_, fun _ => rfl,
    fun _ => rfl, fun _ => rfl, fun _ => rfl, fun _ => twf_foldl_tset rfl, fun c => ?_, trivial⟩
  · show twf ({} : WSlot) (tmap {} (fun x => { x with bound := false }) s.wst.slots) = true
    exact twf_tmap (h.wslots c)
  · show twf ({} : AdcCh) (tmap {} coldChannel s.adc.ch) = true
    exact twf_tmap (h.chans c)

theorem sound_warmState {s} (h : Sound M C D Any s) :
    Sound M C D Any (warmState s) := by
  unfold warmState
  refine sound_upd (sound_coldState h) (tenants := fun c _ => ?_) (ports := fun c _ => ?_)
    (pairs := fun c _ => h.pairs c) (chans := fun c _ => ?_)
  · exact twf_tmap (h.tenants c)
  · dsimp only
    exact twf_tmap (h.ports c)
  · dsimp only
    exact twf_tmap (h.chans c)

theorem sound_startPhases {s} (h : Sound M C D Any s) :
    Sound M C D Any (startPhases s) := by
  unfold startPhases
  dsimp only
  exact sound_isoSync (sound_ite (sound_ite (sound_calibrate (sound_upd h)) (sound_upd h)) (sound_repairLines (sound_upd h)))

theorem sound_tryPhases {s} (h : Sound M C D Any s) :
    Sound M C D Any (tryPhases s) := by
  unfold tryPhases
  split
  · exact sound_startPhases h
  · exact h

theorem sound_tryHotStart {s} (h : Sound M C D Any s) :
    Sound M C D Any (tryHotStart s) := by
  unfold tryHotStart
  dsimp only
  split
  · exact sound_startPhases (sound_upd (sound_coldState h) (pairs := fun c _ => h.pairs c))
  · exact h

theorem twf_foldl_tmod {α β : Type} [DecidableEq α] {d : α} {n : β → Nat} {f : β → α → α} {l : List β} {t : Table α}
    (h : twf d t = true) : twf d (l.foldl (fun t x => tmod d t (n x) (f x)) t) = true :=
  twf_foldl_tset (v := fun t x => f x (tget d t (n x))) h

theorem answers_execVsbApply {strapHigh testOk s} (h : Sound M C D Any s) :
    Answers (execVsbApply strapHigh testOk s) (Sound M C D Any) := by
  unfold execVsbApply
  refine answers_ite (answers_next h) ?_
  have hcold : Sound M C D Any (coldState s) := sound_coldState h
  generalize coldState s = u at hcold ⊢
  refine answers_next (sound_bumpFree (sound_upd hcold (chans := fun _ hch => ?_)))
  dsimp only
  exact twf_foldl_tmod hch

theorem answers_execVsbLoss {s} (h : Sound M C D Any s) :
    Answers (execVsbLoss s) (Sound M C D Any) := by
  unfold execVsbLoss
  dsimp only
  split
  · exact answers_next h
  · exact answers_next (sound_isoSync (sound_upd (sound_coldState (sound_losePower h))))

theorem answers_execPerstAssert {s} (h : Sound M C D Any s) :
    Answers (execPerstAssert s) (Sound M C D Any) := by
  unfold execPerstAssert
  dsimp only
  split
  · exact answers_next (sound_upd h)
  · exact answers_next (sound_isoSync (sound_warmState (sound_endSessions h)))

theorem sound_endHold {s} (h : Sound M C D Any s) :
    Sound M C D Any (endHold s) := by
  unfold endHold
  dsimp only
  exact sound_tryHotStart (sound_tryPhases (sound_upd h))

theorem answers_execPerstRelease {s} (h : Sound M C D Any s) :
    Answers (execPerstRelease s) (Sound M C D Any) := by
  unfold execPerstRelease
  dsimp only
  split
  · exact answers_next h
  · split
    · exact answers_next (sound_upd h)
    · exact answers_next (sound_endHold h)

theorem answers_execCoolantConditionMet {s} (h : Sound M C D Any s) :
    Answers (execCoolantConditionMet s) (Sound M C D Any) := by
  unfold execCoolantConditionMet
  dsimp only
  split
  · exact answers_next (sound_virRequest (sound_upd h))
  · exact answers_next h

theorem answers_execVirOkTimeout {s} (h : Sound M C D Any s) :
    Answers (execVirOkTimeout s) (Sound M C D Any) := by
  unfold execVirOkTimeout
  exact answers_next (sound_ite (sound_virFail h) h)

theorem answers_execArrivalTick {s} (h : Sound M C D Any s) :
    Answers (execArrivalTick s) (Sound M C D Any) := by
  unfold execArrivalTick
  dsimp only
  split
  · exact answers_next h
  · split
    · split
      · exact answers_next (sound_virRequest (sound_upd (sound_hubTick h)))
      · exact answers_next (sound_hubTick h)
    · exact answers_next (sound_hubTick h)

theorem sound_takeFinding {s x2} (h : Sound M C D Any s) :
    Sound M C D Any (takeFinding s x2) := by
  unfold takeFinding
  dsimp only
  split
  · exact sound_upd h
  · exact sound_upd h
  · exact sound_upd h
  · exact sound_fenceField h
  · split
    · exact sound_upd h
    · split
      · exact sound_fenceCore (sound_upd h)
      · exact sound_fenceCluster (sound_upd h)
  · exact sound_fenceCore h
  · exact sound_fenceCore h
  · exact sound_fenceCluster h
  · exact sound_fenceCluster h
  · exact sound_fenceCluster h

theorem sound_reportLost {s} (h : Sound M C D Any s) :
    Sound M C D Any (reportLost s) := by
  unfold reportLost
  dsimp only
  exact sound_upd (sound_foldl h fun _ _ h1 => sound_tagEvent h1)

theorem sound_becomeReady {s} (h : Sound M C D Any s) :
    Sound M C D Any (becomeReady s) := by
  unfold becomeReady
  dsimp only
  split
  · split
    · exact sound_startSubst (sound_reportLost (sound_writeRecord (sound_upd h (sram := fun _ _ => rfl) (cores := fun _ _ =>
          rfl) (coreOks := fun _ _ => rfl))))
    · exact sound_reportLost (sound_writeRecord (sound_upd h (sram := fun _ _ => rfl) (cores := fun _ _ => rfl) (coreOks :=
          fun _ _ => rfl)))
  · split
    · exact sound_startSubst (sound_reportLost (sound_writeRecord (sound_upd h (sram := fun _ _ => rfl) (cores := fun _ _ =>
          rfl) (coreOks := fun _ _ => rfl))))
    · exact sound_reportLost (sound_writeRecord (sound_upd h (sram := fun _ _ => rfl) (cores := fun _ _ => rfl) (coreOks :=
          fun _ _ => rfl)))

theorem sound_linkTrained {s} (h : Sound M C D Any s) :
    Sound M C D Any (linkTrained s) := by
  unfold linkTrained
  dsimp only
  exact sound_upd (sound_bumpFree h) (qps := fun c _ => h.qps c) (ports := fun c _ => h.ports c)

theorem sound_phaseEnd {s} (h : Sound M C D Any s) :
    Sound M C D Any (phaseEnd s) := by
  unfold phaseEnd
  dsimp only
  split
  · exact sound_tryPhases (sound_upd h)
  · split
    · exact sound_linkTrained (sound_upd h)
    · exact sound_upd h
  · exact sound_becomeReady h
  · exact sound_upd h

theorem answers_execBringupPhaseComplete {found s} (h : Sound M C D Any s) :
    Answers (execBringupPhaseComplete found s) (Sound M C D Any) := by
  unfold execBringupPhaseComplete
  dsimp only
  split
  · exact answers_next h
  · split
    · exact answers_next (sound_virRelease (sound_foldl h fun _ _ h1 => sound_takeFinding h1))
    · split
      · exact answers_next (sound_virRelease (sound_upd (sound_foldl h fun _ _ h2 => sound_takeFinding h2)))
      · exact answers_next (sound_phaseEnd (sound_foldl h fun _ _ h3 => sound_takeFinding h3))

theorem answers_execBarographVoteDisagreement {s} (h : Sound M C D Any s) :
    Answers (execBarographVoteDisagreement s) (Sound M C D Any) := by
  unfold execBarographVoteDisagreement
  dsimp only
  split
  · exact answers_next h
  · split
    · split
      · exact answers_next (sound_virRelease (sound_upd h))
      · exact answers_next (sound_upd h)
    · split
      · exact answers_next (sound_virRelease (sound_upd h))
      · exact answers_next (sound_upd h)

theorem answers_execPostSquallTest {res dur s} (h : Sound M C D Any s) :
    Answers (execPostSquallTest res dur s) (Sound M C D Any) := by
  unfold execPostSquallTest
  cases s.bg.testFor with
  | none => exact answers_next h
  | some p =>
    obtain ⟨kind, u⟩ := p
    refine answers_ite (answers_next h) (answers_ite (answers_next (sound_upd h)) (answers_next ?_))
    exact sound_ite (sound_fenceCore (sound_upd (sound_upd h))) (sound_fenceCluster (sound_upd (sound_upd h)))

theorem answers_execThermalSample {reads s} (h : Sound M C D Any s) :
    Answers (execThermalSample reads s) (Sound M C D Any) := by
  unfold execThermalSample
  dsimp only
  split
  · exact answers_next h
  · split
    · exact answers_next (sound_tryHotStart (sound_samplePairs h))
    · split
      · exact answers_next (sound_force (sound_samplePairs h))
      · exact answers_next (sound_thermalSteps (sound_refreshRates (sound_samplePairs h)))

end Sys2Proof.Proofs
end

section
/-! PROOFS. Every function keeps the canonical forms: the host, security, the panel and the converter. -/

namespace Sys2Proof.Proofs

set_option Elab.async false

open Sys2Proof Sys2Proof.Machine Sys2Proof.Safety Sys2Proof.Laws

variable {M C D : Prop}

theorem sound_startDrain {s t} (h : Sound M C D Any s) :
    Sound M C D Any (startDrain s t) := by
  unfold startDrain
  dsimp only
  exact sound_sweepAdps (sound_setEvq (sound_dropTenantSeqs (sound_upd (sound_modTenant h) (adps := fun _ => twf_filter _))))

theorem sound_clearVfs {s} (h : Sound M C D Any s) :
    Sound M C D Any (clearVfs s) := by
  unfold clearVfs
  dsimp only
  exact sound_foldl (sound_upd h) fun _ _ h1 => sound_startDrain h1

theorem answers_execFunctionLevelReset {t s} (h : Sound M C D Any s) :
    Answers (execFunctionLevelReset t s) (Sound M C D Any) := by
  unfold execFunctionLevelReset
  split
  · exact answers_next (sound_ite (sound_startDrain h) h)
  · exact answers_next (sound_clearVfs h)

theorem answers_execDrainComplete {t s} (h : Sound M C D Any s) :
    Answers (execDrainComplete t s) (Sound M C D Any) := by
  unfold execDrainComplete
  split
  · exact answers_next h
  · exact answers_next (sound_ownerEvent (sound_modTenant h))

theorem sound_setEnables {s t mse bme} (h : Sound M C D Any s) :
    Sound M C D Any (setEnables s t mse bme) := by
  unfold setEnables
  split
  · exact sound_modTenant h
  · exact sound_modTenant h

theorem answers_execVfEnable {t s} (h : Sound M C D Any s) :
    Answers (execVfEnable t s) (Sound M C D Any) := by
  unfold execVfEnable
  exact answers_next (sound_ite (sound_setEnables h) h)

theorem answers_execFunction0Reset {s} (h : Sound M C D Any s) :
    Answers (execFunction0Reset s) (Sound M C D Any) := by
  unfold execFunction0Reset
  dsimp only
  exact answers_next (sound_ite (sound_upd (sound_endSessions (sound_interruptLoad (sound_upd h)))) (sound_endSessions
      (sound_interruptLoad (sound_upd h))))

theorem sound_linkDown {s} (h : Sound M C D Any s) :
    Sound M C D Any (linkDown s) := by
  unfold linkDown
  dsimp only
  split
  · exact sound_upd h
  · exact h

theorem sound_linkRise {s} (h : Sound M C D Any s) :
    Sound M C D Any (linkRise s) := by
  unfold linkRise
  split
  · exact sound_linkTrained h
  · exact h

theorem answers_execCxlLinkDown {why s} (h : Sound M C D Any s) :
    Answers (execCxlLinkDown why s) (Sound M C D Any) := by
  unfold execCxlLinkDown
  dsimp only
  split
  · exact answers_next (sound_linkDown h)
  · exact answers_next (sound_linkDown (sound_upd h))
  · exact answers_next (sound_ite (sound_upd h) (sound_linkDown (sound_upd h)))

theorem answers_execCxlLinkUp {s} (h : Sound M C D Any s) :
    Answers (execCxlLinkUp s) (Sound M C D Any) :=
  answers_next (sound_linkRise h)

theorem sound_imageFailed {s addr} (h : Sound M C D Any s) :
    Sound M C D Any (imageFailed s addr) := by
  unfold imageFailed
  dsimp only
  split
  · exact sound_loadFault h
  · split
    · exact sound_loadFault h
    · exact h

theorem sound_shardFailed {s addr} (h : Sound M C D Any s) :
    Sound M C D Any (shardFailed s addr) := by
  unfold shardFailed
  dsimp only
  split
  · split
    · exact sound_refetch h
    · exact h
  · exact h

theorem sound_snowFailed {s addr} (h : Sound M C D Any s) :
    Sound M C D Any (snowFailed s addr) := by
  unfold snowFailed
  dsimp only
  split
  · exact sound_restoreFail h
  · exact h

theorem sound_submissionFailed {s addr} (h : Sound M C D Any s) :
    Sound M C D Any (submissionFailed s addr) := by
  unfold submissionFailed
  dsimp only
  split
  · exact sound_upd h
  · split
    · exact sound_readFailed h
    · exact h

theorem sound_readFailedTwice {s what addr} (h : Sound M C D Any s) :
    Sound M C D Any (readFailedTwice s what addr) := by
  unfold readFailedTwice
  dsimp only
  split
  · exact sound_imageFailed h
  · exact sound_shardFailed h
  · exact sound_snowFailed h
  · exact sound_upd h
  · exact sound_submissionFailed h

theorem answers_execCxlCompletionTimeout {what addr again late s} (h : Sound M C D Any s) :
    Answers (execCxlCompletionTimeout what addr again late s) (Sound M C D Any) := by
  unfold execCxlCompletionTimeout
  dsimp only
  exact answers_next (sound_ite (sound_readFailedTwice (sound_ite (sound_upd h) h)) (sound_ite (sound_upd h) h))

theorem answers_execSpdmRequest {_req keys s} (h : Sound M C D Any s) :
    Answers (execSpdmRequest _req keys s) (Sound M C D Any) := by
  unfold execSpdmRequest
  dsimp only
  split
  · exact answers_next h
  · exact answers_next (sound_emit (sound_upd h))

theorem sound_hdmCount {s addr n} (h : Sound M C D Any s) :
    Sound M C D Any (hdmCount s addr n) := by
  unfold hdmCount
  dsimp only
  split
  · exact sound_upd h
  · exact h

theorem answers_execHdmAccess {addr wr len ecc s} (h : Sound M C D Any s) :
    Answers (execHdmAccess addr wr len ecc s) (Sound M C D Any) := by
  unfold execHdmAccess
  dsimp only
  split
  · split
    · exact answers_next (sound_emit h)
    · exact answers_next (sound_hdmCount (sound_hdmWrite (sound_kvCorrected (sound_badLines h))))
  · split
    · exact answers_next (sound_emit h)
    · exact answers_next (sound_emit (sound_hdmCount (sound_kvCorrected (sound_badLines h))))

theorem sound_mboxEnd {s ret d} (h : Sound M C D Any s) :
    Sound M C D Any (mboxEnd s ret d) := by
  unfold mboxEnd
  exact sound_emit (sound_emit (sound_upd h (qps := fun _ hq => hq) (ports := fun _ hp => hp)))

theorem answers_mboxRun {s f} (h : Sound M C D Any s) (h1 : ∀ s, Sound M C D Any s → Sound M C D Any (f s)) :
    Answers (mboxRun s f) (Sound M C D Any) := by
  unfold mboxRun
  exact answers_next (sound_ite (h1 _ h) h)

theorem answers_execIdentify {s} (h : Sound M C D Any s) :
    Answers (execIdentify s) (Sound M C D Any) :=
  answers_mboxRun h fun _ h1 => sound_mboxEnd h1

theorem answers_execGetTimestamp {s} (h : Sound M C D Any s) :
    Answers (execGetTimestamp s) (Sound M C D Any) :=
  answers_mboxRun h fun _ h1 => sound_mboxEnd h1

theorem answers_execSetTimestamp {v s} (h : Sound M C D Any s) :
    Answers (execSetTimestamp v s) (Sound M C D Any) := by
  unfold execSetTimestamp
  dsimp only
  exact answers_mboxRun h fun _ h1 => sound_mboxEnd (sound_upd h1)

theorem answers_execGetSupportedLogs {s} (h : Sound M C D Any s) :
    Answers (execGetSupportedLogs s) (Sound M C D Any) :=
  answers_mboxRun h fun _ h1 => sound_mboxEnd h1

theorem answers_execGetLog {cel off len s} (h : Sound M C D Any s) :
    Answers (execGetLog cel off len s) (Sound M C D Any) := by
  unfold execGetLog
  exact answers_mboxRun h fun _ h1 => sound_ite (sound_mboxEnd h1) (sound_mboxEnd h1)

theorem answers_execIdentifyMemoryDevice {s} (h : Sound M C D Any s) :
    Answers (execIdentifyMemoryDevice s) (Sound M C D Any) :=
  answers_mboxRun h fun _ h1 => sound_mboxEnd h1

theorem answers_execSetQp {qp ctx s} (h : Sound M C D Any s) :
    Answers (execSetQp qp ctx s) (Sound M C D Any) := by
  unfold execSetQp
  exact answers_mboxRun h fun _ h1 => sound_ite (sound_mboxEnd (sound_setQp h1)) (sound_mboxEnd h1)

theorem answers_execGetQp {qp s} (h : Sound M C D Any s) :
    Answers (execGetQp qp s) (Sound M C D Any) := by
  unfold execGetQp
  exact answers_mboxRun h fun _ h1 => sound_ite (sound_mboxEnd h1) (sound_mboxEnd h1)

theorem answers_execSetPortAddresses {payload s} (h : Sound M C D Any s) :
    Answers (execSetPortAddresses payload s) (Sound M C D Any) := by
  unfold execSetPortAddresses
  dsimp only
  exact answers_mboxRun h fun _ h1 => sound_ite (sound_mboxEnd (sound_setPort h1)) (sound_mboxEnd h1)

theorem answers_execUnsupportedOpcode {op s} (h : Sound M C D Any s) :
    Answers (execUnsupportedOpcode op s) (Sound M C D Any) := by
  unfold execUnsupportedOpcode
  split
  · exact answers_next h
  · exact answers_mboxRun h fun _ h1 => sound_mboxEnd h1

theorem sound_secEnd {s status d} (h : Sound M C D Any s) :
    Sound M C D Any (secEnd s status d) :=
  sound_mboxEnd h

theorem sound_usePresence {s} (h : Sound M C D Any s) :
    Sound M C D Any (usePresence s) := by
  unfold usePresence
  dsimp only
  exact sound_upd h

theorem sound_withKeys {s d} (h : Sound M C D Any s) :
    Sound M C D Any (withKeys s d) := by
  unfold withKeys
  dsimp only
  exact sound_upd h

theorem sound_dropNonce {s payload} (h : Sound M C D Any s) :
    Sound M C D Any (dropNonce s payload) := by
  unfold dropNonce
  dsimp only
  split
  · exact sound_upd h
  · exact h

theorem sound_staleEnd {s} (h : Sound M C D Any s) :
    Sound M C D Any (staleEnd s) := by
  unfold staleEnd
  dsimp only
  exact sound_secEnd (sound_upd h)

theorem sound_signedRun {s op payload n newPair refuse act} (h : Sound M C D Any s) (h1 : ∀ s, Sound M C D Any s → Sound M C D Any (act s)) :
    Sound M C D Any (signedRun s op payload n newPair refuse act) := by
  unfold signedRun
  dsimp only
  split
  · exact sound_secEnd (sound_dropNonce h)
  · split
    · exact sound_secEnd (sound_dropNonce h)
    · split
      · exact sound_staleEnd (sound_dropNonce h)
      · split
        · exact sound_secEnd (sound_dropNonce h)
        · split
          · exact sound_secEnd (sound_sigFail (sound_dropNonce h))
          · exact h1 _ (sound_dropNonce h)

theorem answers_execGetIdentity {s} (h : Sound M C D Any s) :
    Answers (execGetIdentity s) (Sound M C D Any) :=
  answers_mboxRun h fun _ h1 => sound_secEnd h1

theorem answers_execGetNonce {s} (h : Sound M C D Any s) :
    Answers (execGetNonce s) (Sound M C D Any) := by
  unfold execGetNonce
  dsimp only
  exact answers_mboxRun h fun _ h1 => sound_secEnd (sound_bumpFree (sound_upd h1))

theorem answers_execEnrolOwner {payload s} (h : Sound M C D Any s) :
    Answers (execEnrolOwner payload s) (Sound M C D Any) := by
  unfold execEnrolOwner
  dsimp only
  exact answers_mboxRun h fun _ h1 => sound_ite (sound_secEnd h1) (sound_ite (sound_secEnd (sound_usePresence h1)) (sound_ite
      (sound_secEnd (sound_usePresence h1)) (sound_secEnd (sound_withKeys (sound_usePresence h1)))))

theorem answers_execReplaceOwnerKeys {payload s} (h : Sound M C D Any s) :
    Answers (execReplaceOwnerKeys payload s) (Sound M C D Any) :=
  answers_mboxRun h fun _ h1 => sound_signedRun h1 fun _ h2 => sound_secEnd (sound_withKeys h2)

theorem sound_clearOwner {s} (h : Sound M C D Any s) :
    Sound M C D Any (clearOwner s) := by
  have herase : ∀ w : WSlot, w ≠ {} → (if w.st = 0 then w else { w with st := 6, bound := false }) ≠ {} := by
    intro w hw
    split
    · exact hw
    · exact fun e => nomatch congrArg WSlot.st e
  unfold clearOwner
  dsimp only
  exact sound_secEnd (sound_upd h (wslots := fun _ => twf_map herase))

theorem answers_execClearOwnership {payload s} (h : Sound M C D Any s) :
    Answers (execClearOwnership payload s) (Sound M C D Any) := by
  unfold execClearOwnership
  dsimp only
  exact answers_mboxRun h fun _ h1 => sound_ite (sound_ite (sound_secEnd h1) (sound_ite (sound_secEnd (sound_usePresence h1))
      (sound_ite (sound_secEnd (sound_usePresence h1)) (sound_clearOwner (sound_usePresence h1))))) (sound_signedRun h1 fun _
          h2 => sound_clearOwner h2)

theorem answers_execRotateTenantKey {payload s} (h : Sound M C D Any s) :
    Answers (execRotateTenantKey payload s) (Sound M C D Any) := by
  unfold execRotateTenantKey
  dsimp only
  exact answers_mboxRun h fun _ h1 => sound_signedRun h1 fun _ h2 => sound_secEnd (sound_upd h2)

theorem answers_execGetTenantKeyEpoch {t s} (h : Sound M C D Any s) :
    Answers (execGetTenantKeyEpoch t s) (Sound M C D Any) := by
  unfold execGetTenantKeyEpoch
  exact answers_mboxRun h fun _ h1 => sound_ite (sound_secEnd h1) (sound_secEnd h1)

theorem answers_execGetAttestationReport {nonce s} (h : Sound M C D Any s) :
    Answers (execGetAttestationReport nonce s) (Sound M C D Any) := by
  unfold execGetAttestationReport
  dsimp only
  exact answers_mboxRun h fun _ h1 => sound_ite (sound_secEnd h1) (sound_secEnd (sound_bumpFree h1))

theorem answers_execAttnPress {s} (h : Sound M C D Any s) :
    Answers (execAttnPress s) (Sound M C D Any) := by
  unfold execAttnPress
  dsimp only
  split
  · exact answers_next h
  · exact answers_next (sound_upd h)

theorem sound_removalEnd {s} (h : Sound M C D Any s) :
    Sound M C D Any (removalEnd s) := by
  unfold removalEnd
  dsimp only
  split
  · exact h
  · exact sound_tryPhases (sound_unforce (sound_upd h))

theorem answers_execAttnHold {s} (h : Sound M C D Any s) :
    Answers (execAttnHold s) (Sound M C D Any) := by
  unfold execAttnHold
  dsimp only
  split
  · exact answers_next h
  · split
    · exact answers_next (sound_removalEnd h)
    · exact answers_next (sound_upd h)

theorem answers_execPresenceExpiry {s} (h : Sound M C D Any s) :
    Answers (execPresenceExpiry s) (Sound M C D Any) := by
  unfold execPresenceExpiry
  split
  · exact answers_next (sound_ite (sound_usePresence h) h)
  · exact answers_next h

theorem sound_holdUnparked {s n} (h : Sound M C D Any s) :
    Sound M C D Any (holdUnparked s n) := by
  unfold holdUnparked
  dsimp only
  split
  · exact sound_seqEvent (sound_setSlot h)
  · split
    · exact sound_holdSeq h
    · exact h

theorem sound_removalForce {s} (h : Sound M C D Any s) :
    Sound M C D Any (removalForce s) := by
  unfold removalForce
  dsimp only
  exact sound_isoSync (sound_force (sound_upd (sound_foldl h fun _ _ h1 => sound_holdUnparked h1)))

theorem answers_execRemovePress {s} (h : Sound M C D Any s) :
    Answers (execRemovePress s) (Sound M C D Any) := by
  unfold execRemovePress
  dsimp only
  split
  · exact answers_next (sound_upd h)
  · have h1 : Sound M C D Any (alarm { s with
        hub := { (askParkAll s).hub with admitOff := true }
        pwr := { s.pwr with causes := s.pwr.causes ++ [3] } } 4) :=
      sound_alarm (sound_upd h (slots := fun _ hs => hs) (adps := fun _ ha => ha))
    split
    · exact answers_next h1
    · split
      · exact answers_next (sound_removalForce h1)
      · exact answers_next (sound_upd h1)

theorem answers_execRemovalParkTimeout {s} (h : Sound M C D Any s) :
    Answers (execRemovalParkTimeout s) (Sound M C D Any) := by
  unfold execRemovalParkTimeout
  split
  · exact answers_next (sound_ite (sound_removalForce h) h)
  · exact answers_next h

theorem answers_execRemovalCancel {s} (h : Sound M C D Any s) :
    Answers (execRemovalCancel s) (Sound M C D Any) :=
  answers_next (sound_removalEnd h)

theorem sound_handleTouch {s} (h : Sound M C D Any s) :
    Sound M C D Any (handleTouch s) := by
  unfold handleTouch
  dsimp only
  exact sound_upd h

theorem answers_execTouchDetect {pad mean s} (h : Sound M C D Any s) :
    Answers (execTouchDetect pad mean s) (Sound M C D Any) := by
  unfold execTouchDetect
  dsimp only
  split
  · exact answers_next h
  · split
    · exact answers_next h
    · exact answers_next (sound_handleTouch (sound_upd h (chans := fun _ hch => by dsimp only; exact twf_tmod hch)))

theorem sound_setPres {s bit v} (h : Sound M C D Any s) :
    Sound M C D Any (setPres s bit v) := by
  unfold setPres
  dsimp only
  split
  · exact sound_upd h
  · exact sound_upd h
  · exact sound_upd h

theorem sound_cableChange {s p v} (h : Sound M C D Any s) :
    Sound M C D Any (cableChange s p v) := by
  unfold cableChange
  dsimp only
  split
  · split
    · exact sound_setPort h
    · exact h
  · exact sound_setPort (sound_portDown h)

theorem sound_traceAgain {s} (h : Sound M C D Any s) :
    Sound M C D Any (traceAgain s) := by
  unfold traceAgain
  dsimp only
  exact sound_upd h (chans := fun _ h => by dsimp only; exact twf_tmap h)

theorem answers_execPresenceChange {bit v s} (h : Sound M C D Any s) :
    Answers (execPresenceChange bit v s) (Sound M C D Any) := by
  unfold execPresenceChange
  dsimp only
  split
  · exact answers_next h
  · split
    · exact answers_next (sound_setPres h)
    · split
      · exact answers_next (sound_cableChange (sound_setPres h))
      · split
        · exact answers_next (sound_ite (sound_setPres h) (sound_isoLose (sound_setPres h)))
        · split
          · exact answers_next (sound_ite (sound_setPres h) (sound_coolantStop (sound_setPres h)))
          · split
            · exact answers_next (sound_ite (sound_traceAgain (sound_setPres h)) (sound_setPres h))
            · exact answers_next (sound_ite (sound_linkRise (sound_setPres h)) (sound_linkDown (sound_setPres h)))

theorem sound_setChan {s n c} (h : Sound M C D Any s) :
    Sound M C D Any (State.setChan s n c) := by
  unfold State.setChan
  dsimp only
  exact sound_upd h (chans := fun _ => twf_tset)

theorem sound_takeFlow {s v} (h : Sound M C D Any s) :
    Sound M C D Any (takeFlow s v) := by
  unfold takeFlow
  dsimp only
  exact sound_upd h

theorem sound_useReading {s n v} (h : Sound M C D Any s) :
    Sound M C D Any (useReading s n v) := by
  unfold useReading
  dsimp only
  split
  · exact sound_upd h
  · exact sound_upd h
  · exact sound_takeFlow h
  · exact sound_upd h
  · exact sound_upd h
  · exact h

theorem sound_takeSample {s n raw} (h : Sound M C D Any s) :
    Sound M C D Any (takeSample s n raw) :=
  sound_useReading (sound_setChan h)

theorem sound_frameEnd {s} (h : Sound M C D Any s) :
    Sound M C D Any (frameEnd s) := by
  unfold frameEnd
  dsimp only
  split
  · exact sound_upd (sound_ite (sound_upd h) (sound_upd h)) (chans := fun _ h => by dsimp only; exact twf_tmap h)
  · split
    · exact sound_upd h
    · exact sound_upd h

theorem sound_spareSample {s raw} (h : Sound M C D Any s) :
    Sound M C D Any (spareSample s raw) := by
  unfold spareSample
  dsimp only
  split
  · exact h
  · exact sound_setChan h

theorem answers_execAdcSample {slot raw s} (h : Sound M C D Any s) :
    Answers (execAdcSample slot raw s) (Sound M C D Any) := by
  unfold execAdcSample
  split
  · exact answers_next h
  · split
    · exact answers_next h
    · split
      · exact answers_next (sound_frameEnd (sound_spareSample h))
      · exact answers_next (sound_takeSample h)

theorem answers_execFeTempRead {temps s} (h : Sound M C D Any s) :
    Answers (execFeTempRead temps s) (Sound M C D Any) := by
  unfold execFeTempRead
  dsimp only
  split
  · exact answers_next h
  · exact answers_next (sound_foldl h fun _ _ h1 => sound_setChan h1)

theorem sound_driftBegin {s n sz sf} (h : Sound M C D Any s) :
    Sound M C D Any (driftBegin s n sz sf) := by
  unfold driftBegin
  dsimp only
  exact sound_upd (sound_setChan (sound_setChan h))

theorem sound_driftEnd {s n z f} (h : Sound M C D Any s) :
    Sound M C D Any (driftEnd s n z f) := by
  unfold driftEnd
  dsimp only
  split
  · exact sound_upd (sound_setChan (sound_upd h))
  · exact sound_upd (sound_setChan (sound_upd h))

theorem answers_execDriftCalibration {sz sf z f s} (h : Sound M C D Any s) :
    Answers (execDriftCalibration sz sf z f s) (Sound M C D Any) := by
  unfold execDriftCalibration
  split
  · exact answers_next h
  · split
    · exact answers_next (sound_driftEnd h)
    · split
      · exact answers_next (sound_driftBegin h)
      · exact answers_next h

theorem answers_execDriftRetry {n s} (h : Sound M C D Any s) :
    Answers (execDriftRetry n s) (Sound M C D Any) := by
  unfold execDriftRetry
  dsimp only
  split
  · exact answers_next h
  · split
    · exact answers_next (sound_ite (sound_setChan h) h)
    · exact answers_next h

theorem sound_allDue {s} (h : Sound M C D Any s) :
    Sound M C D Any (allDue s) :=
  sound_foldl h fun _ _ h1 => sound_setChan h1

theorem answers_execDriftAll {s} (h : Sound M C D Any s) :
    Answers (execDriftAll s) (Sound M C D Any) :=
  answers_next (sound_allDue h)

theorem sound_captureEnd {s result} (h : Sound M C D Any s) :
    Sound M C D Any (captureEnd s result) := by
  unfold captureEnd
  dsimp only
  exact sound_upd h

theorem sound_writeFe {s n v} (h : Sound M C D Any s) :
    Sound M C D Any (writeFe s n v) := by
  unfold writeFe
  dsimp only
  split
  · split
    · exact sound_captureEnd (sound_upd (sound_setChan h))
    · exact sound_upd (sound_setChan h)
  · exact sound_setChan h

theorem answers_execAdcFeWrite {n v s} (h : Sound M C D Any s) :
    Answers (execAdcFeWrite n v s) (Sound M C D Any) := by
  unfold execAdcFeWrite
  split
  · exact answers_next h
  · exact answers_next (sound_writeFe h)

theorem sound_startCapture {s} (h : Sound M C D Any s) :
    Sound M C D Any (startCapture s) := by
  unfold startCapture
  dsimp only
  split
  · exact sound_captureEnd (sound_upd h)
  · split
    · exact sound_captureEnd (sound_upd h)
    · split
      · split
        · exact sound_captureEnd (sound_upd h)
        · exact sound_upd h
      · split
        · exact sound_captureEnd (sound_upd h)
        · exact sound_upd h

theorem answers_execSyscalPoint0 {mean s} (h : Sound M C D Any s) :
    Answers (execSyscalPoint0 mean s) (Sound M C D Any) := by
  unfold execSyscalPoint0
  dsimp only
  split
  · exact answers_next h
  · exact answers_next (sound_captureEnd (sound_upd h))

theorem answers_execSyscalPoint1 {mean s} (h : Sound M C D Any s) :
    Answers (execSyscalPoint1 mean s) (Sound M C D Any) := by
  unfold execSyscalPoint1
  dsimp only
  split
  · exact answers_next h
  · split
    · exact answers_next (sound_captureEnd (sound_upd h))
    · split
      · exact answers_next (sound_captureEnd (sound_upd h))
      · exact answers_next (sound_captureEnd (sound_setChan (sound_upd h)))

theorem answers_execCalIsoChange {low s} (h : Sound M C D Any s) :
    Answers (execCalIsoChange low s) (Sound M C D Any) := by
  unfold execCalIsoChange
  dsimp only
  split
  · exact answers_next (sound_endHold (sound_upd h))
  · exact answers_next (sound_upd h)

theorem sound_withBase {s b} (h : Sound M C D Any s) :
    Sound M C D Any (withBase s b) := by
  unfold withBase
  dsimp only
  exact sound_upd h

theorem sound_writeConfig {s fn off v} (h : Sound M C D Any s) :
    Sound M C D Any (writeConfig s fn off v) := by
  unfold writeConfig
  dsimp only
  split
  · split
    · exact sound_setEnables h
    · exact h
  · split
    · split
      · exact sound_upd h
      · split
        · exact sound_clearVfs h
        · exact h
    · split
      · split
        · exact sound_upd h
        · exact h
      · split
        · exact sound_upd h
        · split
          · exact sound_withBase h
          · split
            · exact sound_withBase h
            · exact h

theorem sound_deviceWrite {s o d} (h : Sound M C D Any s) :
    Sound M C D Any (deviceWrite s o d) := by
  unfold deviceWrite
  dsimp only
  split
  · exact sound_upd h
  · split
    · exact sound_upd h
    · split
      · exact sound_upd h
      · exact h

theorem sound_smbAnswer {s d} (h : Sound M C D Any s) :
    Sound M C D Any (smbAnswer s d) := by
  unfold smbAnswer
  split
  · exact sound_emit h
  · exact h

theorem answers_execSmbIdentity {s} (h : Sound M C D Any s) :
    Answers (execSmbIdentity s) (Sound M C D Any) :=
  answers_next (sound_smbAnswer h)

theorem answers_execSmbState {s} (h : Sound M C D Any s) :
    Answers (execSmbState s) (Sound M C D Any) :=
  answers_next (sound_smbAnswer h)

theorem answers_execSmbFaultSummary {s} (h : Sound M C D Any s) :
    Answers (execSmbFaultSummary s) (Sound M C D Any) :=
  answers_next (sound_smbAnswer h)

theorem sound_smbOther {s code} (h : Sound M C D Any s) :
    Sound M C D Any (smbOther s code) := by
  unfold smbOther
  split
  · exact h
  · exact sound_emit h

theorem answers_execSmbDieTemperature {code s} (h : Sound M C D Any s) :
    Answers (execSmbDieTemperature code s) (Sound M C D Any) := by
  unfold execSmbDieTemperature
  dsimp only
  split
  · exact answers_next (sound_smbOther h)
  · exact answers_next (sound_smbAnswer (sound_bumpFree h))

theorem answers_execSmbCoolantTemperature {outlet s} (h : Sound M C D Any s) :
    Answers (execSmbCoolantTemperature outlet s) (Sound M C D Any) :=
  answers_next (sound_smbAnswer h)

theorem answers_execSmbFlow {s} (h : Sound M C D Any s) :
    Answers (execSmbFlow s) (Sound M C D Any) :=
  answers_next (sound_smbAnswer h)

theorem answers_execSmbPower {code s} (h : Sound M C D Any s) :
    Answers (execSmbPower code s) (Sound M C D Any) := by
  unfold execSmbPower
  split
  · exact answers_next (sound_smbAnswer h)
  · exact answers_next (sound_smbAnswer h)
  · exact answers_next (sound_smbAnswer h)
  · exact answers_next (sound_smbOther h)

theorem answers_execSmbRackBudget {v s} (h : Sound M C D Any s) :
    Answers (execSmbRackBudget v s) (Sound M C D Any) := by
  unfold execSmbRackBudget
  dsimp only
  split
  · exact answers_next h
  · exact answers_next (sound_upd h)

theorem answers_execSmbIdentifyPattern {v s} (h : Sound M C D Any s) :
    Answers (execSmbIdentifyPattern v s) (Sound M C D Any) := by
  unfold execSmbIdentifyPattern
  dsimp only
  split
  · exact answers_next h
  · exact answers_next (sound_upd h)

theorem sound_jtagLoad {s ir} (h : Sound M C D Any s) :
    Sound M C D Any (jtagLoad s ir) := by
  unfold jtagLoad
  dsimp only
  split
  · exact h
  · exact sound_emit (sound_upd h)

theorem answers_execBypass {s} (h : Sound M C D Any s) :
    Answers (execBypass s) (Sound M C D Any) :=
  answers_next (sound_jtagLoad h)

theorem answers_execIdcode {s} (h : Sound M C D Any s) :
    Answers (execIdcode s) (Sound M C D Any) :=
  answers_next (sound_jtagLoad h)

theorem answers_execSamplePreload {pins s} (h : Sound M C D Any s) :
    Answers (execSamplePreload pins s) (Sound M C D Any) := by
  unfold execSamplePreload
  dsimp only
  exact answers_next (sound_ite (sound_upd (sound_jtagLoad h)) (sound_jtagLoad h))

theorem answers_execExtest {s} (h : Sound M C D Any s) :
    Answers (execExtest s) (Sound M C D Any) :=
  answers_next (sound_jtagLoad h)

theorem answers_execClamp {s} (h : Sound M C D Any s) :
    Answers (execClamp s) (Sound M C D Any) :=
  answers_next (sound_jtagLoad h)

theorem answers_execHighz {s} (h : Sound M C D Any s) :
    Answers (execHighz s) (Sound M C D Any) :=
  answers_next (sound_jtagLoad h)

theorem answers_execExtestPulse {s} (h : Sound M C D Any s) :
    Answers (execExtestPulse s) (Sound M C D Any) :=
  answers_next (sound_jtagLoad h)

theorem answers_execExtestTrain {s} (h : Sound M C D Any s) :
    Answers (execExtestTrain s) (Sound M C D Any) :=
  answers_next (sound_jtagLoad h)

end Sys2Proof.Proofs
end

section
/-! PROOFS. Every function keeps the canonical forms: registers and the dispatch. -/

namespace Sys2Proof.Proofs

set_option Elab.async false

open Sys2Proof Sys2Proof.Machine Sys2Proof.Safety Sys2Proof.Laws

variable {M C D : Prop}

theorem sound_setLatch {s k v} (h : Sound M C D Any s) :
    Sound M C D Any (State.setLatch s k v) := by
  unfold State.setLatch
  dsimp only
  exact sound_upd h

theorem sound_setHalf {s k v} (h : Sound M C D Any s) :
    Sound M C D Any (State.setHalf s k v) := by
  unfold State.setHalf
  dsimp only
  exact sound_upd h

theorem sound_answer {s v} (h : Sound M C D Any s) :
    Sound M C D Any (answer s v) :=
  sound_emit h

theorem sound_readHalf {s t k off reg width n} (h : Sound M C D Any s) :
    Sound M C D Any (readHalf s t k off reg width n) := by
  unfold readHalf
  dsimp only
  split
  · exact sound_answer h
  · split
    · exact sound_answer (sound_setLatch h)
    · split
      · exact sound_answer (sound_setLatch h)
      · exact sound_answer h

theorem sound_readWindow {s o n} (h : Sound M C D Any s) :
    Sound M C D Any (readWindow s o n) := by
  unfold readWindow
  split
  · exact sound_answer h
  · split
    · exact sound_answer h
    · exact sound_emit h

theorem sound_readAt {s view off n} (h : Sound M C D Any s) :
    Sound M C D Any (readAt s view off n) := by
  unfold readAt
  split
  · exact sound_emit h
  · split
    · exact sound_answer h
    · split
      · split
        · exact sound_readHalf h
        · exact sound_emit h
      · split
        · exact sound_emit h
        · split
          · exact sound_readWindow h
          · split
            · exact sound_answer (sound_bumpFree h)
            · exact sound_answer h

theorem sound_readView {s view off n} (h : Sound M C D Any s) :
    Sound M C D Any (readView s view off n) := by
  unfold readView
  split
  · exact sound_answer h
  · exact sound_readAt h

theorem answers_execLowerHalfRead {view run s} (h : Sound M C D Any s) :
    Answers (execLowerHalfRead view run s) (Sound M C D Any) :=
  answers_next (sound_readView h)

theorem answers_execUpperHalfRead {view run s} (h : Sound M C D Any s) :
    Answers (execUpperHalfRead view run s) (Sound M C D Any) :=
  answers_next (sound_readView h)

theorem sound_writeBg {s o v} (h : Sound M C D Any s) :
    Sound M C D Any (writeBg s o v) := by
  unfold writeBg
  dsimp only
  split
  · exact sound_upd h
  · split
    · exact sound_upd h
    · split
      · exact sound_upd h
      · exact h

theorem sound_writePwr {s o v} (h : Sound M C D Any s) :
    Sound M C D Any (writePwr s o v) := by
  unfold writePwr
  dsimp only
  split
  · exact sound_writePwrCtrl h
  · split
    · exact sound_upd h
    · exact h

theorem sound_writeThm {s o v} (h : Sound M C D Any s) :
    Sound M C D Any (writeThm s o v) := by
  unfold writeThm
  dsimp only
  split
  · exact sound_upd h
  · split
    · exact sound_upd h
    · split
      · exact sound_upd h
      · split
        · exact sound_upd h
        · split
          · exact sound_askRecal h
          · exact h

theorem sound_writeSyscal {s v} (h : Sound M C D Any s) :
    Sound M C D Any (writeSyscal s v) := by
  unfold writeSyscal
  dsimp only
  split
  · exact sound_startCapture (sound_upd h)
  · exact sound_upd h

theorem sound_writeAdc {s o v} (h : Sound M C D Any s) :
    Sound M C D Any (writeAdc s o v) := by
  unfold writeAdc
  dsimp only
  split
  · exact sound_setChan h
  · split
    · exact sound_writeFe h
    · split
      · exact sound_setChan h
      · split
        · exact sound_writeSyscal h
        · split
          · split
            · exact sound_allDue (sound_upd h)
            · exact sound_upd h
          · split
            · exact sound_upd h
            · exact h

theorem sound_writeLdrCtrl {s v} (h : Sound M C D Any s) :
    Sound M C D Any (writeLdrCtrl s v) := by
  unfold writeLdrCtrl
  dsimp only
  split
  · exact sound_startLoad (sound_ite (sound_abortLoad (sound_upd h)) (sound_upd h))
  · split
    · exact sound_abortLoad (sound_upd h)
    · exact sound_upd h

theorem sound_writeLdr {s o v} (h : Sound M C D Any s) :
    Sound M C D Any (writeLdr s o v) := by
  unfold writeLdr
  dsimp only
  split
  · exact sound_upd h
  · split
    · exact sound_writeLdrCtrl h
    · split
      · exact sound_upd h
      · split
        · exact sound_upd h
        · split
          · exact sound_upd h
          · exact h

theorem sound_writeJs {s o v} (h : Sound M C D Any s) :
    Sound M C D Any (writeJs s o v) := by
  unfold writeJs
  dsimp only
  split
  · exact sound_upd h
  · exact h

theorem sound_writeSrv {s o v} (h : Sound M C D Any s) :
    Sound M C D Any (writeSrv s o v) := by
  unfold writeSrv
  dsimp only
  split
  · split
    · exact sound_askParkAll (sound_upd h)
    · exact sound_upd h
  · exact h

theorem sound_writeKv {s o v} (h : Sound M C D Any s) :
    Sound M C D Any (writeKv s o v) := by
  unfold writeKv
  dsimp only
  split
  · exact sound_upd h
  · split
    · exact sound_upd h
    · split
      · exact sound_upd h
      · split
        · exact sound_upd h
        · split
          · exact sound_kvApply h
          · exact h

theorem sound_writeSnp {s o v} (h : Sound M C D Any s) :
    Sound M C D Any (writeSnp s o v) := by
  unfold writeSnp
  dsimp only
  split
  · exact h
  · exact sound_modTenant h

theorem sound_writeWstCtrl {s v} (h : Sound M C D Any s) :
    Sound M C D Any (writeWstCtrl s v) := by
  unfold writeWstCtrl
  dsimp only
  split
  · exact sound_upd h
  · split
    · split
      · exact sound_abortSession (sound_upd h)
      · exact sound_upd h
    · split
      · exact sound_wstEnd (sound_wstAccept (sound_upd h))
      · exact sound_wstAccept (sound_upd h)

theorem sound_writeWst {s o v} (h : Sound M C D Any s) :
    Sound M C D Any (writeWst s o v) := by
  unfold writeWst
  dsimp only
  split
  · exact sound_upd h
  · split
    · exact sound_writeWstCtrl h
    · split
      · exact sound_upd h
      · exact h

theorem sound_writeLnk {s o v} (h : Sound M C D Any s) :
    Sound M C D Any (writeLnk s o v) := by
  unfold writeLnk
  split
  · exact sound_writePort h
  · exact h

theorem sound_writeCxlx {s o v} (h : Sound M C D Any s) :
    Sound M C D Any (writeCxlx s o v) := by
  unfold writeCxlx
  split
  · exact sound_writeRingBase h
  · split
    · exact sound_writeHostIndex h
    · exact h

theorem sound_writePnl {s o v} (h : Sound M C D Any s) :
    Sound M C D Any (writePnl s o v) := by
  unfold writePnl
  dsimp only
  split
  · split
    · exact sound_removalEnd (sound_upd h)
    · exact sound_upd h
  · exact h

theorem sound_writePf {s off v} (h : Sound M C D Any s) :
    Sound M C D Any (writePf s off v) := by
  unfold writePf
  dsimp only
  split
  · exact sound_writeBg h
  · exact sound_writePwr h
  · exact sound_writeThm h
  · exact sound_writeAdc h
  · exact sound_writeLdr h
  · exact sound_writeJs h
  · exact sound_writeSrv h
  · exact sound_writeKv h
  · exact sound_writeSnp h
  · exact sound_writeWst h
  · exact sound_writeLnk h
  · exact sound_writeCxlx h
  · split
    · exact sound_writeIsoCfg h
    · exact h
  · exact sound_writePnl h
  · exact h

theorem sound_writePctl {s t v} (h : Sound M C D Any s) :
    Sound M C D Any (writePctl s t v) := by
  unfold writePctl
  exact sound_modTenant h

theorem sound_writeTenant {s t o v} (h : Sound M C D Any s) :
    Sound M C D Any (writeTenant s t o v) := by
  unfold writeTenant
  extract_lets x y s1 n
  have h1 : Sound M C D Any s1 := sound_modTenant h
  exact sound_ite (sound_writeRingBase h) <| sound_ite (sound_writeSqIndex h) <| sound_ite (sound_writeRingBase h) <|
    sound_ite (sound_writeHostIndex h) <| sound_ite (sound_modTenant h) <| sound_ite (sound_modTenant h) <|
    sound_ite (sound_modTenant h) <| sound_ite (sound_modTenant h) <| sound_ite (sound_placeUploads h1) <|
    sound_ite (sound_modTenant h) <| sound_ite (sound_writePctl h) <| sound_ite (sound_modTenant h) <|
    sound_ite (sound_writeRingBase h) <| sound_ite (sound_writeHostIndex h) <| sound_ite (sound_modTenant h) h

theorem sound_writeReg {s t off v} (h : Sound M C D Any s) :
    Sound M C D Any (writeReg s t off v) := by
  unfold writeReg
  split
  · exact sound_writeTenant h
  · exact sound_writePf h

theorem sound_writeHalf {s t k off reg width n v} (h : Sound M C D Any s) :
    Sound M C D Any (writeHalf s t k off reg width n v) := by
  unfold writeHalf
  dsimp only
  split
  · exact sound_writeReg h
  · split
    · exact sound_writeReg (sound_setHalf h)
    · split
      · exact sound_setHalf h
      · exact sound_writeReg (sound_setHalf h)

theorem sound_writeAt {s view off n v} (h : Sound M C D Any s) :
    Sound M C D Any (writeAt s view off n v) := by
  unfold writeAt
  split
  · exact sound_emit h
  · split
    · exact h
    · split
      · split
        · exact sound_emit h
        · split
          · exact sound_deviceWrite h
          · exact h
      · split
        · exact sound_emit h
        · split
          · exact h
          · split
            · exact sound_drainDrop h
            · exact sound_writeHalf h

theorem sound_writeView {s view off n v} (h : Sound M C D Any s) :
    Sound M C D Any (writeView s view off n v) := by
  unfold writeView
  split
  · exact sound_writeConfig h
  · exact sound_writeAt h

theorem answers_execRegisterWrite {view off size v s} (h : Sound M C D Any s) :
    Answers (execRegisterWrite view off size v s) (Sound M C D Any) :=
  answers_next (sound_writeView h)

theorem answers_exec {i s} (h : Sound M C D Any s) :
    Answers (exec i s) (Sound M C D Any) := by
  cases i
  · exact answers_execBundleIssue h
  · exact answers_execNop h
  · exact answers_execAdd h
  · exact answers_execSub h
  · exact answers_execAnd h
  · exact answers_execOr h
  · exact answers_execXor h
  · exact answers_execShl h
  · exact answers_execShr h
  · exact answers_execSra h
  · exact answers_execMul h
  · exact answers_execMin h
  · exact answers_execMax h
  · exact answers_execAddi h
  · exact answers_execAndi h
  · exact answers_execOri h
  · exact answers_execXori h
  · exact answers_execShli h
  · exact answers_execShri h
  · exact answers_execSrai h
  · exact answers_execLi h
  · exact answers_execLih h
  · exact answers_execCmp h
  · exact answers_execPlog h
  · exact answers_execAmov h
  · exact answers_execGmov h
  · exact answers_execAadd h
  · exact answers_execAaddg h
  · exact answers_execBr h
  · exact answers_execBdec h
  · exact answers_execJr h
  · exact answers_execJal h
  · exact answers_execRdsh h
  · exact answers_execRdcyc h
  · exact answers_execRdcc h
  · exact answers_execCset h
  · exact answers_execCadd h
  · exact answers_execCsub h
  · exact answers_execWait h
  · exact answers_execWaitCheck h
  · exact answers_execWatch h
  · exact answers_execWatchCheck h
  · exact answers_execArm h
  · exact answers_execFront h
  · exact answers_execFrontRelease h
  · exact answers_execFrontTimeout h
  · exact answers_execLd h
  · exact answers_execSt h
  · exact answers_execLdv h
  · exact answers_execStv h
  · exact answers_execCget h
  · exact answers_execCput h
  · exact answers_execClusterTransferComplete h
  · exact answers_execSend h
  · exact answers_execGet h
  · exact answers_execWld h
  · exact answers_execWdrop h
  · exact answers_execKvld h
  · exact answers_execKvst h
  · exact answers_execHput h
  · exact answers_execWeightPageArrival h
  · exact answers_execKvldComplete h
  · exact answers_execKvstComplete h
  · exact answers_execHputAccept h
  · exact answers_execTld h
  · exact answers_execStrm h
  · exact answers_execDrn h
  · exact answers_execDrainWrite h
  · exact answers_execAinit h
  · exact answers_execAmode h
  · exact answers_execCvt h
  · exact answers_execCut h
  · exact answers_execCout h
  · exact answers_execCorrectionOpEnd h
  · exact answers_execCmerge h
  · exact answers_execVadd h
  · exact answers_execVsub h
  · exact answers_execVmul h
  · exact answers_execVfma h
  · exact answers_execVmin h
  · exact answers_execVmax h
  · exact answers_execVcmp h
  · exact answers_execVsel h
  · exact answers_execVexp h
  · exact answers_execVlog h
  · exact answers_execVrcp h
  · exact answers_execVrsq h
  · exact answers_execVrsum h
  · exact answers_execVrmax h
  · exact answers_execVrmin h
  · exact answers_execVcvt h
  · exact answers_execVquant h
  · exact answers_execVdeq h
  · exact answers_execVwadd h
  · exact answers_execVwrnd h
  · exact answers_execVpop h
  · exact answers_execVext h
  · exact answers_execVsplat h
  · exact answers_execVtopm h
  · exact answers_execRouterHop h
  · exact answers_execGatewayLookup h
  · exact answers_execReduceCombine h
  · exact answers_execPacketDelivery h
  · exact answers_execGetReply h
  · exact answers_execSquallStop h
  · exact answers_execTransitFault h
  · exact answers_execLoadStart h
  · exact answers_execLoadAbort h
  · exact answers_execLoadPass1 h
  · exact answers_execLoadVerify h
  · exact answers_execLoadCheck h
  · exact answers_execLoadMap h
  · exact answers_execLoadPass2 h
  · exact answers_execClusterDigestCheck h
  · exact answers_execResendRound h
  · exact answers_execLoadCopy h
  · exact answers_execInstall h
  · exact answers_execWstResume h
  · exact answers_execWstAbort h
  · exact answers_execEraseSlot h
  · exact answers_execReProvision h
  · exact answers_execSubstitute h
  · exact answers_execWstReservedCmd h
  · exact answers_execSliceFetchComplete h
  · exact answers_execShardFetchTimeout h
  · exact answers_execSlotEraseComplete h
  · exact answers_execRemapApply h
  · exact answers_execWeightScrub h
  · exact answers_execFieldSubstitutionStart h
  · exact answers_execSubstitutionCopyEnd h
  · exact answers_execKvApply h
  · exact answers_execKvPatrolScrub h
  · exact answers_execArrivalTick h
  · exact answers_execGaugeTick h
  · exact answers_execStepBoundary h
  · exact answers_execSubmissionDoorbell (_owner := true) h
  · exact answers_execStartReq h
  · exact answers_execContinueReq h
  · exact answers_execPauseReq h
  · exact answers_execResumeReq h
  · exact answers_execCancelReq h
  · exact answers_execAdapterUpload h
  · exact answers_execAdapterRelease h
  · exact answers_execAdapterLoadComplete h
  · exact answers_execParkAll h
  · exact answers_execParkComplete h
  · exact answers_execParkRetry h
  · exact answers_execRestoreComplete h
  · exact answers_execSnowpackOpTimeout h
  · exact answers_execSnowpackExpiry h
  · exact answers_execRingConfigWrite h
  · exact answers_execHostIndexWrite h
  · exact answers_execInterruptModeration h
  · exact answers_execFunctionLevelReset h
  · exact answers_execDrainComplete h
  · exact answers_execVfEnable h
  · exact answers_execFunction0Reset h
  · exact answers_execCxlLinkDown h
  · exact answers_execCxlLinkUp h
  · exact answers_execCxlCompletionTimeout h
  · exact answers_execHdmAccess h
  · exact answers_execIdentify h
  · exact answers_execGetTimestamp h
  · exact answers_execSetTimestamp h
  · exact answers_execGetSupportedLogs h
  · exact answers_execGetLog h
  · exact answers_execIdentifyMemoryDevice h
  · exact answers_execSetQp h
  · exact answers_execGetQp h
  · exact answers_execSetPortAddresses h
  · exact answers_execUnsupportedOpcode h
  · exact answers_execGetIdentity h
  · exact answers_execGetNonce h
  · exact answers_execGetAttestationReport h
  · exact answers_execEnrolOwner h
  · exact answers_execReplaceOwnerKeys h
  · exact answers_execClearOwnership h
  · exact answers_execRotateTenantKey h
  · exact answers_execGetTenantKeyEpoch h
  · exact answers_execHostPush h
  · exact answers_execRdmaWriteArrival h
  · exact answers_execSendArrival h
  · exact answers_execRdmaReadRequest h
  · exact answers_execAckTimeout h
  · exact answers_execRateInterval h
  · exact answers_execFabricPortDown h
  · exact answers_execFabricPortUp h
  · exact answers_execPortEnable h
  · exact answers_execIsobarJoin h
  · exact answers_execIsobarFrameReceive h
  · exact answers_execIsobarTimeFrame h
  · exact answers_execIsobarBudgetFrame h
  · exact answers_execIsobarShareCompute h
  · exact answers_execIsobarAlarm h
  · exact answers_execIsobarBreakTimeout h
  · exact answers_execIsobarMasterLost h
  · exact answers_execSmbIdentity h
  · exact answers_execSmbState h
  · exact answers_execSmbFaultSummary h
  · exact answers_execSmbDieTemperature h
  · exact answers_execSmbCoolantTemperature h
  · exact answers_execSmbFlow h
  · exact answers_execSmbPower h
  · exact answers_execSmbRackBudget h
  · exact answers_execSmbIdentifyPattern h
  · exact answers_execBypass h
  · exact answers_execIdcode h
  · exact answers_execSamplePreload h
  · exact answers_execExtest h
  · exact answers_execClamp h
  · exact answers_execHighz h
  · exact answers_execExtestPulse h
  · exact answers_execExtestTrain h
  · exact answers_execAvsSetpointAdjust h
  · exact answers_execVirUndervoltage h
  · exact answers_execVirOkRestored h
  · exact answers_execClockStepChange h
  · exact answers_execStateTargetWrite h
  · exact answers_execStateTransition h
  · exact answers_execIdleDescent h
  · exact answers_execForcedChange h
  · exact answers_execRegulatorTileTrip h
  · exact answers_execVtransitFeedTrip h
  · exact answers_execThermalSample h
  · exact answers_execPowerCapUpdate h
  · exact answers_execClockStepControl h
  · exact answers_execCapBelowStep6 h
  · exact answers_execCoolantStop h
  · exact answers_execCoolantRestored h
  · exact answers_execDewPointCheck h
  · exact answers_execSensorRecal h
  · exact answers_execVsbApply h
  · exact answers_execPerstAssert h
  · exact answers_execPerstRelease h
  · exact answers_execBringupPhaseComplete h
  · exact answers_execCoolantConditionMet h
  · exact answers_execVirOkTimeout h
  · exact answers_execPostSquallTest h
  · exact answers_execAttnPress h
  · exact answers_execAttnHold h
  · exact answers_execPresenceExpiry h
  · exact answers_execRemovePress h
  · exact answers_execRemovalParkTimeout h
  · exact answers_execRemovalCancel h
  · exact answers_execTouchDetect h
  · exact answers_execPresenceChange h
  · exact answers_execCalIsoChange h
  · exact answers_execAdcSample h
  · exact answers_execFeTempRead h
  · exact answers_execDriftCalibration h
  · exact answers_execDriftRetry h
  · exact answers_execDriftAll h
  · exact answers_execAdcFeWrite h
  · exact answers_execSyscalPoint0 h
  · exact answers_execSyscalPoint1 h
  · exact answers_execLowerHalfRead h
  · exact answers_execRegisterWrite h
  · exact answers_execVsbLoss h
  · exact answers_execSpdmRequest (_req := []) h
  · exact answers_execArpRequest h
  · exact answers_execCnpReceived h
  · exact answers_execBarographVoteDisagreement h
  · exact answers_execUpperHalfRead h
  · exact answers_execVirOkAsserted h

end Sys2Proof.Proofs
end

section
/-! PROOFS. Reset and every step: O1 to O5, and O7. -/

namespace Sys2Proof.Proofs

open Sys2Proof Sys2Proof.Machine Sys2Proof.Safety Sys2Proof.Laws

/-- A step runs the command at the front of the queue, or passes a plane cycle. -/
theorem answers_step {M C D : Prop} {s : State} (h : Sound M C D Any s) : Answers (step s) (Sound M C D Any) := by
  unfold step
  split
  · exact answers_next (sound_tick h)
  · exact answers_exec (sound_upd h)

theorem sound_next {M C D : Prop} {r : Host.Outcome State Fault Refusal} {t : State} (h : Answers r (Sound M C D Any))
    (ht : r = .next t) : Sound M C D Any t := by
  obtain ⟨u, hu, hs⟩ := h
  rw [hu] at ht
  cases ht
  exact hs

theorem sound_trivially (s : State) : Sound False False False Any s :=
  ⟨nofun, nofun, nofun, nofun, nofun, nofun, nofun, nofun, nofun, nofun, nofun, nofun, nofun, trivial⟩

theorem exists_next {M C D : Prop} {r : Host.Outcome State Fault Refusal} (h : Answers r (Sound M C D Any)) : ∃ t, r = .next t := by
  obtain ⟨t, ht, -⟩ := h
  exact ⟨t, ht⟩

theorem step_of_empty {s : State} (h : s.pending = []) : step s = .next (tick s) := by
  unfold step
  rw [h]

/-- Settles O1: of the stages of a plane cycle one counts it, and no other sets the count. -/
theorem stepRunsTheFront : Obligations.StepRunsTheFront := by
  refine ⟨fun _ _ _ => rfl, fun s hs => ⟨tick s, step_of_empty hs, ?_, ?_⟩⟩
  · unfold tick
    split
    · exact planeCycle_cycle s
    · rfl
  · intro hoff
    unfold tick
    rw [hoff]
    rfl

/-- Settles O2: the invariant of O4 and O5 with both halves empty says that a next state is answered. -/
theorem everyCommandCompletes : Obligations.EveryCommandCompletes :=
  ⟨fun _ s => exists_next (answers_exec (sound_trivially s)), fun s => exists_next (answers_step (sound_trivially s))⟩

/-- Settles O3: the state after reset is closed, so its canonical form is evaluated. -/
theorem resetIsSound : Obligations.ResetIsSound := ⟨rfl, rfl, rfl⟩

/-- Settles O4: every function of the model keeps the canonical form of the memories. -/
theorem everyStepKeepsMemories : Obligations.EveryStepKeepsMemories := by
  intro s t hs ht
  exact memOk_of_sound (sound_next (answers_step (sound_of_memOk hs)) ht)

/-- Settles O5: every function of the model keeps the canonical form of the tables. -/
theorem everyStepKeepsTables : Obligations.EveryStepKeepsTables := by
  intro s t hc ht hstep
  exact coresOk_of_sound (sound_next (answers_step (sound_of_coresOk hc ht)) hstep)

/-- Settles O7: nine closed words, decoded by evaluation. -/
theorem slotWordsDecode : Obligations.SlotWordsDecode := by
  unfold Obligations.SlotWordsDecode
  refine ⟨?_, ?_, ?_, ?_, ?_, ?_, ?_, ?_, ?_⟩ <;> rfl

end Sys2Proof.Proofs
end

section
/-! PROOFS. Fabric ports. -/
namespace Sys2Proof.Proofs
open Sys2Proof Sys2Proof.Machine Sys2Proof.Safety Sys2Proof.Laws

theorem sound_any_of_tablesOk {s : State} (h : tablesOk s = true) : Sound False False True Any s :=
  { sound_of_tablesOk h with rest := trivial }

/-- With no sequence and no controller, no operation stands on a queue pair. -/
theorem fabOps_idle {s : State} (hs : s.hub.slots = []) (hc : s.wst.ctls = []) : fabOps s = [] := by
  simp [fabOps, seqsIn, hs, hc]

/-- A port of the fabric that goes down with no ready queue pair on it. -/
theorem portDown_idle {s : State} {p : Nat} {up : Bool} {acks : List (Nat × Nat × Nat)} (hst : (s.port p).st = 2)
    (hq : s.host.qps = []) : portDown s p up acks =
      ownerEvent (s.setPort p { s.port p with st := if up && (s.port p).run == 1 then 3 else 0 }) 7 0 p 0 := by
  have hhit : ((s.setPort p { s.port p with st := if up && (s.port p).run == 1 then 3 else 0 }).host.qps) = [] := hq
  rw [portDown]
  dsimp only
  rw [if_neg (by omega), hhit]
  simp

/-- The one ready queue pair of a port that goes down, with nothing on it, enters the error state. -/
theorem portDown_single {s : State} {p n : Nat} {q : Qp} {acks : List (Nat × Nat × Nat)} (hst : (s.port p).st = 2)
    (hq : s.host.qps = [(n, q)]) (hqs : q.st = 1) (hqp : qpPort q = p) (hs : s.hub.slots = []) (hc : s.wst.ctls = []) :
    portDown s p false acks = ownerEvent (qpError (s.setPort p { s.port p with st := 0 }) n) 7 0 p 0 := by
  have hhit : (s.setPort p { s.port p with st := 0 }).host.qps = [(n, q)] := hq
  have hops : fabOps (qpError (s.setPort p { s.port p with st := 0 }) n) = [] := by
    rw [qpError]
    dsimp only
    split
    · exact fabOps_idle hs hc
    · exact fabOps_idle hs hc
  rw [portDown]
  dsimp only
  rw [if_neg (by omega)]
  simp [hhit, hqs, hqp, hops]

/-- A ready queue pair enters the error state, once. -/
theorem qpError_ready {s : State} {n : Nat} (h : (s.qp n).st = 1) : qpError s n =
    { s.setQp n { s.qp n with st := 2 } with host := { (s.setQp n { s.qp n with st := 2 }).host with
      qperr := min 65535 (s.host.qperr + 1) } } := by
  rw [qpError]
  exact if_neg (by omega)

theorem tget_single {α : Type} (d : α) (n : Nat) (x : α) : tget d [(n, x)] n = x := by simp [tget]

/-- Settles O50: each command by the branches of its definition; what a port drives down keeps the table of ports in order. -/
theorem fabricPorts : Obligations.FabricPorts := by
  unfold Obligations.FabricPorts
  intro s p v fr addr acks hok hp x mode
  have hports : twf ({} : FPort) s.host.ports = true := by simp only [tablesOk, Bool.and_eq_true] at hok; tauto
  have hp' : ¬ 12 ≤ p := by omega
  refine ⟨fun hst u => ?_, fun hst hq => ⟨?_, fun hrun => ?_⟩, fun n q hst hq hqs hqp hs hc => ?_, fun hpres hpwr hen hst => ?_,
    fun h => ?_, fun hen hv hm => ?_, fun hen hv => ?_, fun hen hv => ?_, fun up hup => ?_, fun up hup hf ha hown => ?_,
    fun up hup hbad => ?_⟩
  · rw [exec_fabricPortDown, execFabricPortDown, if_neg hp', portDown, if_pos (.inl hst)]
  · rw [exec_fabricPortDown, execFabricPortDown, if_neg hp', portDown_idle hst hq]
    rfl
  · have hhalf : (if true && (s.port p).run == 1 then 3 else 0) = 3 := by simp [show (s.port p).run = 1 from hrun]
    rw [exec_fabricPortDown, execFabricPortDown, if_neg hp', portDown_idle hst hq, hhalf]
  · have hqpn : (s.setPort p { s.port p with st := 0 }).qp n = q := by
      rw [State.qp, show (s.setPort p { s.port p with st := 0 }).host.qps = [(n, q)] from hq, tget_single]
    have herr := qpError_ready (s := s.setPort p { s.port p with st := 0 }) (n := n) (by rw [hqpn, hqs])
    refine ⟨ownerEvent (qpError (s.setPort p { s.port p with st := 0 }) n) 7 0 p 0,
      by rw [exec_fabricPortDown, execFabricPortDown, if_neg hp', portDown_single hst hq hqs hqp hs hc], ?_⟩
    rw [ownerEvent_frame, herr]
    refine ⟨congrArg Qp.st (tget_tset_of_ne_default (fun h => ?_) _ n), congrArg FPort.st (port_setPort hports), rfl, rfl⟩
    exact absurd (congrArg Qp.st h) (Nat.succ_ne_zero 1)
  · have hx : (!(s.port p).en || (s.port p).st == 2) = false := by
      rw [show (s.port p).en = true from hen]
      simpa using hst
    rw [exec_fabricPortUp, execFabricPortUp, if_pos (by simp [hp, hpres, hpwr]), portTrained, hx]
    rfl
  · rw [exec_fabricPortUp, execFabricPortUp]
    rcases h with h | h
    · rw [if_neg (by simp [h])]
    · have hx : portTrained s p = s := by
        rw [portTrained, show (s.port p).en = false from h]
        rfl
      rw [hx, ite_self]
  · rw [exec_portEnable, execPortEnable, if_neg hp', writePort, show (s.port p).en = false from hen, hv]
    simp only [Bool.not_false, Bool.and_true, reduceIte]
    rw [if_neg (show ¬ BitVec.ofNat 2 (bits v.toNat 62 61) = 3 from hm)]
  · rw [exec_portEnable, execPortEnable, if_neg hp', writePort]
    simp only [show (s.port p).en = true from hen, hv, Bool.not_true, Bool.and_false, Bool.false_and, Bool.false_eq_true, reduceIte]
    exact congrArg _ (congrArg (s.setPort p) (by rw [← show (s.port p).en = true from hen]))
  · have hdown : twf ({} : FPort) (portDown s p false).host.ports = true :=
      (sound_portDown (M := False) (C := False) (sound_any_of_tablesOk hok)).ports trivial
    have hport : ∀ y : FPort, ((portDown s p false).setPort p y).port p = y := fun y => port_setPort hdown
    refine ⟨(portDown s p false).setPort p { (portDown s p false).port p with en := false, mode := mode, st := 0 }, ?_, ?_⟩
    · rw [exec_portEnable, execPortEnable, if_neg hp', writePort]
      simp only [show (s.port p).en = true from hen, hv, Bool.not_true, Bool.not_false, Bool.and_false, Bool.false_eq_true,
        Bool.and_self, reduceIte]
      rfl
    · beta_reduce
      rw [hport]
      exact ⟨rfl, rfl, rfl⟩
  · rw [exec_arpRequest, execArpRequest, if_pos (.inr (by rw [show portUp (s.port p) up = false from hup]; rfl))]
  · have hup' : ¬ (12 ≤ p ∨ (!portUp (s.port p) up) = true) := by
      rw [show portUp (s.port p) up = true from hup]
      simpa using hp
    have hans : (frameOk (s.port p) up fr && ((portAddr (s.port p) up).length == 48 &&
        (addr == ((portAddr (s.port p) up).drop 16).take 4 || addr == ((portAddr (s.port p) up).drop 32).take 16))) = true := by
      simp only [Bool.and_eq_true, Bool.or_eq_true, beq_iff_eq]
      exact ⟨hf, ha, hown⟩
    rw [exec_arpRequest, execArpRequest]
    dsimp only
    rw [if_neg hup', if_pos hans]
  · have hup' : ¬ (12 ≤ p ∨ (!portUp (s.port p) up) = true) := by
      rw [show portUp (s.port p) up = true from hup]
      simpa using hp
    have hans : ¬ (frameOk (s.port p) up fr && ((portAddr (s.port p) up).length == 48 &&
        (addr == ((portAddr (s.port p) up).drop 16).take 4 || addr == ((portAddr (s.port p) up).drop 32).take 16))) = true := by
      simp only [Bool.and_eq_true, Bool.or_eq_true, beq_iff_eq]
      rintro ⟨hf, -, hown⟩
      rcases hbad with hbad | ⟨h1, h2⟩
      · exact absurd (hbad.symm.trans hf) (by decide)
      · exact hown.elim h1 h2
    rw [exec_arpRequest, execArpRequest]
    dsimp only
    rw [if_neg hup', if_neg hans]
    rfl

end Sys2Proof.Proofs
end

section
/-! PROOFS. The Isobar ring. -/
namespace Sys2Proof.Proofs
open Sys2Proof Sys2Proof.Machine Sys2Proof.Safety Sys2Proof.Laws

/-! ### The configuration -/

theorem bit_eq_testBit (v i : Nat) : bit v i = v.testBit i := (Nat.testBit_eq_decide_div_mod_eq ..).symm

theorem bit_isoCfgMask_en (v : BitVec 64) : bit (isoCfgMask v).toNat 63 = bit v.toNat 63 := by
  have hmask : (0xC000FFFFFFFFFFFF#64).toNat.testBit 63 = true := by decide
  rw [bit_eq_testBit, bit_eq_testBit, isoCfgMask, BitVec.toNat_and, Nat.testBit_and, hmask, Bool.and_true]

theorem bits_isoCfgMask_fallback (v : BitVec 64) : bits (isoCfgMask v).toNat 31 16 = bits v.toNat 31 16 := by
  have hmask : ∀ i < 16, (0xC000FFFFFFFFFFFF#64).toNat.testBit (16 + i) = true := by decide
  refine Nat.eq_of_testBit_eq fun i => ?_
  rw [testBit_bits, testBit_bits, isoCfgMask, BitVec.toNat_and, Nat.testBit_and]
  by_cases hi : i < 16
  · rw [hmask i hi, Bool.and_true]
  · simp [show ¬ i < 31 + 1 - 16 from hi]

/-- A station that is not held closed by its power, its reset or a removal. -/
theorem isoWanted_free {s : State} (hoff : s.pwr.off = false) (hrst : s.bg.perst = false) (hc : s.pwr.causes = []) :
    isoWanted s = isoEn s := by simp [isoWanted, hoff, hrst, hc]

/-! ### Frames -/

theorem isoSend_opened {s : State} (h : s.iso.opened = true) (ty hop : Nat) (pay : List Byte) : isoSend s ty hop pay =
    State.emit { s with iso := { s.iso with seq := s.iso.seq + 1 } } (.frame (isoFrame ty s.iso.station hop s.iso.seq pay)) := by
  simp [isoSend, h]

theorem isoRing_iso (s : State) (ring reason : Nat) : (isoRing s ring reason).iso = { s.iso with ring := ring } := by
  rw [isoRing]
  split
  · next h => rw [← h]
  · rw [ownerEvent_frame]

/-- A frame ends with the CRC of the rest. -/
theorem isoGood_sealed {b : List Byte} (h : b.length = 28) : isoGood (b ++ leBytes 4 (crc32 b).toNat) = true := by
  have hcrc : leAt (b ++ leBytes 4 (crc32 b).toNat) 28 4 = (crc32 b).toNat := by
    rw [leAt, List.drop_left' h, List.take_of_length_le (leBytes_length 4 _).le, ofLe_leBytes]
    exact Nat.mod_eq_of_lt (crc32 b).isLt
  have hlen : (b ++ leBytes 4 (crc32 b).toNat).length = 32 := by rw [List.length_append, h, leBytes_length]
  rw [isoGood, hlen, hcrc, List.take_left' h, BEq.rfl, BEq.rfl, Bool.and_true]

/-- A forwarded time frame has a good CRC and one hop more. -/
theorem forwardFrame_time {f : List Byte} (hf : f.length = 32) (h1 : leAt f 0 1 = 1) :
    isoGood (forwardFrame f) = true ∧ leAt (forwardFrame f) 2 1 = (leAt f 2 1 + 1) % 256 := by
  have h2 : (f.take 2).length = 2 := by simp [hf]
  have hlen : (f.take 2 ++ leBytes 1 ((leAt f 2 1 + 1) % 256) ++ (f.drop 3).take 25).length = 28 := by
    simp [leBytes_length, hf]
  rw [forwardFrame, if_pos h1]
  refine ⟨isoGood_sealed hlen, ?_⟩
  rw [leAt, List.append_assoc, List.append_assoc, List.drop_left' h2, List.take_left' (leBytes_length 1 _), ofLe_leBytes]
  exact Nat.mod_mod_of_dvd _ (dvd_refl 256)

/-- The share of two stations that both ask for more than their floors. -/
theorem shareOf_pair {b i m d fl d2 f2 : Nat} (h1 : fl < d) (h2 : f2 < d2) : shareOf b [(i, d, fl), (m, d2, f2)] d fl =
    if b ≤ fl + f2 then fl else min (fl + (b - (fl + f2)) * (d - fl) / (d - fl + (d2 - f2))) d := by
  have hsum : (([(i, d, fl), (m, d2, f2)] : List (Nat × Nat × Nat)).map fun e => e.2.2).sum = fl + f2 := by simp
  have hdd : (([(i, d, fl), (m, d2, f2)] : List (Nat × Nat × Nat)).map fun e => ((e.2.1 : Int) - (e.2.2 : Int))).sum =
      ((d - fl + (d2 - f2) : Nat) : Int) := by simp; omega
  rw [shareOf, hsum, hdd]
  by_cases hb : b ≤ fl + f2
  · rw [if_pos (.inl (by omega)), if_pos hb]
  · rw [if_neg (by omega), if_neg hb]
    have hprod : ((b : Int) - ((fl + f2 : Nat) : Int)) * ((d : Int) - (fl : Int)) = (((b - (fl + f2)) * (d - fl) : Nat) : Int) := by
      rw [Int.natCast_mul, Int.ofNat_sub (by omega), Int.ofNat_sub (by omega)]
    rw [hprod, Int.tdiv_eq_ediv_of_nonneg (Int.natCast_nonneg _), ← Int.natCast_ediv]
    generalize (b - (fl + f2)) * (d - fl) / (d - fl + (d2 - f2)) = k
    clear hsum hdd hprod
    omega

/-! ### What a station takes -/

/-- The master's frame, at a station that has seen no master in this millisecond. -/
theorem takeTime_iso {s : State} {f : List Byte} (hm : isoMaster s = false) (hms : s.iso.masters = []) : (takeTime s f).iso =
    { s.iso with
      masters := [leAt f 1 1], station := leAt f 2 1 % 32, time := leAt f 8 8 + 64 * leAt f 2 1, budgetB := leAt f 16 4
      ring := 1 } := by
  rw [takeTime]
  simp only [hm, hms, List.contains_nil, Bool.false_eq_true, reduceIte, List.nil_append, List.length_singleton]
  rw [isoRing_iso]

/-- A station whose ring is lost takes the fallback share. -/
theorem isoLose_iso {s : State} {ring : Nat} (h : s.iso.opened = true) (hr : ring ≠ 1) (reason : Nat) : (isoLose s ring reason).iso =
    { s.iso with ring := ring, demands := [], share := isoFallback s } := by
  have hiso := isoRing_iso s ring reason
  have hfb : isoFallback (isoRing s ring reason) = isoFallback s := by rw [isoFallback, hiso, isoFallback]
  rw [isoLose]
  simp only [isoShare, isoFallback, hiso] at hfb ⊢
  simp [h, hr]

/-- A write of ISO_CFG at a station that nothing holds closed. -/
theorem writeIsoCfg_free {s : State} {v : BitVec 64} (hoff : s.pwr.off = false) (hrst : s.bg.perst = false) (hc : s.pwr.causes = []) :
    writeIsoCfg s v = isoShare (if bit v.toNat 63 == s.iso.opened then { s with iso := { s.iso with cfg := isoCfgMask v } }
      else if bit v.toNat 63 then { s with iso := { s.iso with
        cfg := isoCfgMask v, opened := true, ring := 0, station := 0, share := 4 * bits v.toNat 31 16 } }
      else { s with iso := { s.iso with
        cfg := isoCfgMask v, opened := false, ring := 0, station := 0, count := 0, share := 0, demands := [], masters := [] } }) := by
  have hw : isoWanted { s with iso := { s.iso with cfg := isoCfgMask v } } = bit v.toNat 63 :=
    (isoWanted_free (s := { s with iso := { s.iso with cfg := isoCfgMask v } }) hoff hrst hc).trans (bit_isoCfgMask_en v)
  have hfb : isoFallback { s with iso := { s.iso with cfg := isoCfgMask v } } = 4 * bits v.toNat 31 16 :=
    congrArg (4 * ·) (bits_isoCfgMask_fallback v)
  rw [writeIsoCfg, isoSync, hw, hfb]

/-- Settles O51: a write of ISO_CFG opens or closes the bypass, and each frame is taken or sent by its type. -/
theorem isobarActs : Obligations.IsobarActs := by
  unfold Obligations.IsobarActs
  intro s f i sends
  refine ⟨fun v hoff hrst hc => ?_, fun ho => ?_, fun ho => ?_⟩
  · have hjoin : exec (.isobarJoin v) s = .next (writeIsoCfg s v) := rfl
    have hfb (u : Iso) (hu : u.cfg = isoCfgMask v) : isoFallback { s with iso := u } = 4 * bits v.toNat 31 16 := by
      rw [isoFallback, hu, bits_isoCfgMask_fallback]
    rw [writeIsoCfg_free hoff hrst hc] at hjoin
    refine ⟨fun hen ho => ?_, fun hen ho => ?_, fun hen hr => ?_, fun hen ho hr => ?_⟩
    · have ho' : s.iso.opened = false := ho
      rw [hen, ho'] at hjoin
      exact ⟨_, hjoin, rfl, rfl, rfl, hfb _ rfl, rfl⟩
    · have ho' : s.iso.opened = true := ho
      rw [hen, ho'] at hjoin
      exact ⟨_, hjoin, rfl, rfl⟩
    · have hshare : (s.iso.opened && s.iso.ring != 1) = false := by
        cases h : s.iso.opened with
        | false => rfl
        | true => rw [show s.iso.ring = 1 from hr h]; rfl
      rw [hjoin, if_pos (beq_iff_eq.2 hen), isoShare]
      exact congrArg _ (if_neg (by simpa using hshare))
    · have ho' : s.iso.opened = true := ho
      have hshare : (s.iso.opened && s.iso.ring != 1) = true := by rw [ho']; simpa using hr
      rw [hjoin, if_pos (beq_iff_eq.2 (hen.trans ho.symm)), isoShare, if_pos hshare, hfb _ rfl]
  · have ho' : s.iso.opened = false := ho
    rw [exec_isobarFrameReceive, execIsobarFrameReceive, exec_isobarTimeFrame, execIsobarTimeFrame, exec_isobarBudgetFrame,
      execIsobarBudgetFrame, exec_isobarShareCompute, execIsobarShareCompute, exec_isobarBreakTimeout, execIsobarBreakTimeout,
      exec_isobarMasterLost, execIsobarMasterLost, ho']
    exact ⟨rfl, rfl, rfl, rfl, rfl, rfl⟩
  · have ho' : s.iso.opened = true := ho
    have hreceive (hg : isoGood f = true) (hr : i.ring ≠ 2) : exec (.isobarFrameReceive f) s =
        if isoOwn s f then .next (if leAt f 0 1 = 1 then takeTime s f else s)
        else .next ((takeFrame s f).emit (.frame (forwardFrame f))) := by
      rw [exec_isobarFrameReceive, execIsobarFrameReceive, ho', hg, if_neg (show ¬ s.iso.ring = 2 from hr)]
      rfl
    refine ⟨fun hg => ?_, fun hg hown hr => ⟨fun h1 hm hms => ?_, fun h2 hd => ?_⟩, fun hg hown hr h1 => ?_, fun hm => ?_, fun hm => ?_, ?_,
      fun m d fl d2 f2 hr hd hm h1 h2 => ?_, fun code detail => ?_, ?_, fun hr => ?_, fun hr => ?_⟩
    · rw [exec_isobarFrameReceive, execIsobarFrameReceive, if_neg (by simp [ho']), if_pos (by simp [hg])]
      rfl
    · obtain ⟨hflen, -⟩ := Bool.and_eq_true_iff.1 hg
      have hfwd := forwardFrame_time (beq_iff_eq.1 hflen) h1
      have hiso := takeTime_iso (f := f) hm hms
      refine ⟨(takeTime s f).emit (.frame (forwardFrame f)), ?_, ?_⟩
      · rw [hreceive hg hr, hown, takeFrame, h1]
        simp only [Bool.false_eq_true, reduceIte]
      · refine ⟨congrArg Iso.station hiso, congrArg Iso.time hiso, congrArg Iso.budgetB hiso, congrArg Iso.ring hiso, ?_, hfwd⟩
        exact List.getLast?_concat
    · have hfwd : forwardFrame f = f := if_neg (by omega)
      rw [hreceive hg hr, hown, takeFrame, h2, hfwd]
      simp only [takeDemand, show s.iso.demands = [] from hd, List.filter_nil, List.nil_append, Bool.false_eq_true, reduceIte]
      rfl
    · rw [hreceive hg hr, hown, if_pos rfl, if_neg h1]
    · refine ⟨isoSend { s with iso := { s.iso with
          station := 0, time := (s.iso.time / 1000000 + 1) * 1000000, budgetB := 16 * bits s.iso.cfg.toNat 15 0 } } 1 1
        (leBytes 8 ((s.iso.time / 1000000 + 1) * 1000000) ++ leBytes 4 (16 * bits s.iso.cfg.toNat 15 0) ++ leBytes 4 s.iso.count), ?_, ?_⟩
      · rw [exec_isobarTimeFrame, execIsobarTimeFrame, ho', hm]
        rfl
      · rw [isoSend_opened (by exact ho')]
        exact ⟨rfl, rfl, rfl, rfl⟩
    · rw [exec_isobarTimeFrame, execIsobarTimeFrame, ho', hm]
      rfl
    · refine ⟨isoSend (takeDemand s s.iso.station (demand s) (isoFloor s)) 2 0
        (leBytes 4 (demand s) ++ leBytes 4 (isoFloor s) ++ leBytes 4 s.iso.share), ?_, ?_⟩
      · rw [exec_isobarBudgetFrame, execIsobarBudgetFrame, ho']
        rfl
      · rw [isoSend_opened (by exact ho')]
        exact ⟨⟨List.getLast?_concat, rfl⟩, List.mem_append_right _ List.mem_cons_self⟩
    · have hown : (s.iso.demands.any fun e => e.1 == s.iso.station) = true := by rw [show s.iso.demands = _ from hd]; simp [i]
      refine ⟨{ s with iso := { s.iso with
        share := shareOf s.iso.budgetB [(i.station, d, fl), (m, d2, f2)] d fl, count := 2, demands := [], masters := [] } }, ?_, rfl, rfl,
        shareOf_pair h1 h2⟩
      rw [exec_isobarShareCompute, execIsobarShareCompute, ho', hown]
      simp [show s.iso.demands = _ from hd, show s.iso.ring = 1 from hr, i]
    · refine ⟨isoAlarm s code.toNat detail, rfl, ?_⟩
      rw [isoAlarm, isoSend_opened ho']
      exact ⟨List.getLast?_concat, rfl⟩
    · have hiso := isoLose_iso (ring := 2) ho' (by decide) 0
      have ho2 : (isoLose s 2 0).iso.opened = true := by rw [hiso]; exact ho'
      refine ⟨isoSend (isoLose s 2 0) 4 0 [], by rw [exec_isobarBreakTimeout, execIsobarBreakTimeout, ho']; rfl, ?_⟩
      rw [isoSend_opened ho2, hiso]
      exact ⟨rfl, rfl, List.getLast?_concat, rfl⟩
    · have hiso := isoLose_iso (ring := 3) ho' (by decide) 2
      refine ⟨isoLose s 3 2, ?_, congrArg Iso.ring hiso, congrArg Iso.share hiso⟩
      rw [exec_isobarMasterLost, execIsobarMasterLost, ho', if_neg (by simpa [i] using hr)]
    · rw [exec_isobarMasterLost, execIsobarMasterLost, ho', if_pos (by simpa [i] using hr)]

end Sys2Proof.Proofs
end

section
/-! PROOFS. The SMBus target and the boundary-scan port. -/

namespace Sys2Proof.Proofs

open Sys2Proof Sys2Proof.Machine Sys2Proof.Safety Sys2Proof.Laws

theorem smbAnswer_up {s : State} (h : s.bg.vsb = true) (d : List Byte) : smbAnswer s d = s.emit (.smb d) := if_pos h

theorem smbAnswer_down {s : State} (h : s.bg.vsb = false) (d : List Byte) : smbAnswer s d = s := if_neg (by simp [h])

theorem jtagLoad_down {s : State} (h : s.bg.vsb = false) (ir : JtagIr) : jtagLoad s ir = s := if_pos (by simp [h])

/-- An instruction that acts as one that selects the bypass register captures 0. -/
theorem jtagLoad_bypass {s : State} {ir : JtagIr} (h : s.bg.vsb = true)
    (ha : jtagActs s ir = .bypass ∨ jtagActs s ir = .clamp ∨ jtagActs s ir = .highz) :
    jtagLoad s ir = State.emit { s with jtag := { s.jtag with ir := ir, dr := 0 } } (.jtag 0) := by
  rw [jtagLoad, if_neg (by simp [h])]
  obtain ha | ha | ha := ha <;> rw [ha]

/-- An instruction that drives pins, in reset hold. -/
theorem jtagActs_held {s : State} (h : s.bg.vsb = true) (hp : s.bg.perst = true) (ir : JtagIr) : jtagActs s ir = ir := by
  simp [jtagActs, h, hp]

theorem jtagActs_free {s : State} {ir : JtagIr} (hp : s.bg.perst = false) (hd : jtagDrives ir = true) :
    jtagActs s ir = .bypass := by
  simp [jtagActs, hp, hd]

/-- The low half of ISO_CFG is what SMB_RACK_BUDGET writes, the rest stays. -/
theorem bits_rackBudget (c : BitVec 64) (w : BitVec 16) :
    bits ((c &&& 0xFFFFFFFFFFFF0000#64) ||| w.zeroExtend 64).toNat 15 0 = w.toNat ∧
    bits ((c &&& 0xFFFFFFFFFFFF0000#64) ||| w.zeroExtend 64).toNat 63 16 = bits c.toNat 63 16 := by
  have hlow : ∀ i < 16, (0xFFFFFFFFFFFF0000#64).getLsbD i = false := by decide
  have hhigh : ∀ i < 48, (0xFFFFFFFFFFFF0000#64).getLsbD (16 + i) = true := by decide
  constructor <;> refine Nat.eq_of_testBit_eq fun i => ?_
  · rw [testBit_bits, BitVec.testBit_toNat, BitVec.testBit_toNat]
    by_cases hi : i < 16
    · simp [hi, hlow i hi]; omega
    · simp [hi, BitVec.getLsbD_of_ge w i (by omega)]
  · rw [testBit_bits, testBit_bits, BitVec.testBit_toNat, BitVec.testBit_toNat]
    by_cases hi : i < 48
    · simp [hi, hhigh i hi, BitVec.getLsbD_of_ge w (16 + i) (by omega)]
    · simp [hi]

/-- Settles O52: without VSB each row is idle, and with it each is its own answer. -/
theorem servicePorts : Obligations.ServicePorts := by
  unfold Obligations.ServicePorts
  intro s c x w pins smb word scan drives
  refine ⟨fun hv => ?_, fun hv => ?_⟩
  · refine ⟨congrArg _ (smbAnswer_down hv _), congrArg _ (smbAnswer_down hv _), ?_, congrArg _ (jtagLoad_down hv _),
      congrArg _ (jtagLoad_down hv _)⟩
    rw [exec_smbRackBudget, execSmbRackBudget, if_pos (by simp [hv])]
  have hfree (ir : JtagIr) (hd : jtagDrives ir = true) (hp : s.bg.perst = false) : Host.Outcome.next (jtagLoad s ir) = scan ir 0 :=
    congrArg _ (jtagLoad_bypass hv (.inl (jtagActs_free hp hd)))
  have hheld (ir : JtagIr) (hir : ir = .extest ∨ ir = .extestPulse ∨ ir = .extestTrain) (hp : s.bg.perst = true) :
      Host.Outcome.next (jtagLoad s ir) = scan ir s.jtag.dr := by
    rw [jtagLoad, if_neg (by simp [hv]), jtagActs_held hv hp]
    obtain rfl | rfl | rfl := hir <;> rfl
  have hby (ir : JtagIr) (hir : ir = .clamp ∨ ir = .highz) : Host.Outcome.next (jtagLoad s ir) = scan ir 0 := by
    cases hp : s.bg.perst with
    | false => exact hfree ir (by obtain rfl | rfl := hir <;> rfl) hp
    | true => exact congrArg _ (jtagLoad_bypass hv (.inr (by rw [jtagActs_held hv hp]; exact hir)))
  refine ⟨congrArg _ (smbAnswer_up hv _), congrArg _ (smbAnswer_up hv _), congrArg _ (smbAnswer_up hv _), fun v h3 h5 hk => ?_,
    congrArg _ (smbAnswer_up hv _), congrArg _ (smbAnswer_up hv _), congrArg _ (smbAnswer_up hv _),
    congrArg _ (smbAnswer_up hv _), fun p hp => ?_, congrArg _ (smbAnswer_up hv _), ?_, fun hx => ?_,
    congrArg _ (jtagLoad_bypass hv (.inl rfl)), ?_, ?_, hby _ (.inl rfl), hby _ (.inr rfl), fun hp => ?_, fun hp => ?_⟩
  · rw [exec_smbDieTemperature, execSmbDieTemperature, if_neg (by omega), hk, smbAnswer_up (show s.bumpFree.bg.vsb = true from hv)]
    rfl
  · rw [exec_smbPower]
    exact (congrArg _ (smbAnswer_up hv _)).trans (by rw [hp]; rfl)
  · obtain ⟨hlow, hhigh⟩ := bits_rackBudget s.iso.cfg w
    refine ⟨{ s with iso := { s.iso with cfg := (s.iso.cfg &&& 0xFFFFFFFFFFFF0000#64) ||| w.zeroExtend 64 } }, ?_, hlow, hhigh, rfl⟩
    rw [exec_smbRackBudget, execSmbRackBudget, if_neg (by simp [hv])]
  · rw [exec_smbIdentifyPattern, execSmbIdentifyPattern, if_neg (by simpa [hv] using hx)]
  · have hacts : jtagActs s .idcode = .idcode := rfl
    rw [exec_idcode, execIdcode, jtagLoad, if_neg (by simp [hv]), hacts]
    rfl
  · have hacts : jtagActs s .samplePreload = .samplePreload := rfl
    have hload : jtagLoad s .samplePreload = State.emit { s with jtag := { s.jtag with ir := .samplePreload } } (.jtag s.jtag.dr) := by
      rw [jtagLoad, if_neg (by simp [hv]), hacts]
    refine ⟨{ jtagLoad s .samplePreload with jtag := { (jtagLoad s .samplePreload).jtag with sample := pins } }, ?_, ?_, rfl, ?_⟩
    · exact congrArg Host.Outcome.next (if_pos hv)
    · rw [hload]
      rfl
    · rw [hload]
      rfl
  · exact ⟨hheld _ (.inl rfl) hp, hheld _ (.inr (.inl rfl)) hp, hheld _ (.inr (.inr rfl)) hp⟩
  · exact ⟨hfree _ rfl hp, hfree _ rfl hp, hfree _ rfl hp⟩

end Sys2Proof.Proofs
end

section
/-! PROOFS. What goes on beside the plane: the helpers that write only the hub, the tenants, the host side, the Isobar station, the
output and the books of the stores. -/

namespace Sys2Proof.Proofs

open Sys2Proof Sys2Proof.Machine Sys2Proof.Safety Sys2Proof.Laws

/-- From s to t nothing changed but the hub, the tenants, the host side, the Isobar station, the output, the free choices, and of
the two stores everything but their bytes. -/
structure Aside (s t : State) : Prop where
  fuses : t.fuses = s.fuses
  plane : t.plane = s.plane
  jet : t.jet = s.jet
  ldr : t.ldr = s.ldr
  wstMem : t.wst.mem = s.wst.mem
  kvMem : t.kv.mem = s.kv.mem
  pwr : t.pwr = s.pwr
  thm : t.thm = s.thm
  bg : t.bg = s.bg
  pnl : t.pnl = s.pnl
  adc : t.adc = s.adc
  sec : t.sec = s.sec
  time : t.hub.time = s.hub.time
  admitOff : t.hub.admitOff = s.hub.admitOff

theorem Aside.refl (s : State) : Aside s s := by constructor <;> rfl

theorem Aside.trans {s t u : State} (h : Aside s t) (h' : Aside t u) : Aside s u :=
  ⟨h'.fuses.trans h.fuses, h'.plane.trans h.plane, h'.jet.trans h.jet, h'.ldr.trans h.ldr, h'.wstMem.trans h.wstMem,
    h'.kvMem.trans h.kvMem, h'.pwr.trans h.pwr, h'.thm.trans h.thm, h'.bg.trans h.bg, h'.pnl.trans h.pnl, h'.adc.trans h.adc,
    h'.sec.trans h.sec, h'.time.trans h.time, h'.admitOff.trans h.admitOff⟩

theorem Aside.ite {s t u : State} {c : Prop} [Decidable c] (h : Aside s t) (h' : Aside s u) : Aside s (if c then t else u) := by
  split
  · exact h
  · exact h'

theorem Aside.foldl {α : Type} {s : State} {f : State → α → State} (hf : ∀ t x, Aside t (f t x)) (l : List α) :
    Aside s (l.foldl f s) := by
  induction l generalizing s with
  | nil => exact .refl s
  | cons x r ih => exact (hf s x).trans ih

theorem aside_beside {s : State} {h : Hub} {te : Table Tenant} {ho : HostIf} {i : Iso} {o : List Out} {n : Nat} (ht : h.time = s.hub.time)
    (ha : h.admitOff = s.hub.admitOff) :
    Aside s { s with hub := h, tenants := te, host := ho, iso := i, out := o, free := n } :=
  ⟨rfl, rfl, rfl, rfl, rfl, rfl, rfl, rfl, rfl, rfl, rfl, rfl, ht, ha⟩

/-! ### Events -/

theorem aside_ownerEvent (s : State) (c r v : Nat) (g : BitVec 64) : Aside s (ownerEvent s c r v g) := by
  rw [ownerEvent_frame]
  exact aside_beside rfl rfl

theorem aside_sendEvent (s : State) (t : Nat) (e : Event) : Aside s (sendEvent s t e) := by
  rw [sendEvent_frame]
  exact aside_beside rfl rfl

theorem aside_seqEvent (s : State) (n c r v : Nat) : Aside s (seqEvent s n c r v) := aside_sendEvent ..

theorem aside_tagEvent (s : State) (t c r v : Nat) (g : BitVec 64) : Aside s (tagEvent s t c r v g) := aside_sendEvent ..

theorem aside_isoSend (s : State) (ty hop : Nat) (p : List Byte) : Aside s (isoSend s ty hop p) :=
  .ite (.refl s) (aside_beside rfl rfl)

theorem aside_alarm (s : State) (c : Nat) : Aside s (alarm s c) :=
  .trans (aside_beside rfl rfl) (aside_isoSend ..)

theorem aside_isoSync (s : State) : Aside s (isoSync s) :=
  .ite (.refl s) (.ite (aside_beside rfl rfl) (aside_beside rfl rfl))

/-! ### The hub's slots and the adapters -/

theorem aside_setSlot (s : State) (n : Nat) (q : Seq) : Aside s (s.setSlot n q) := aside_beside rfl rfl

theorem aside_modSlot (s : State) (n : Nat) (f : Seq → Seq) : Aside s (s.modSlot n f) := aside_setSlot ..

theorem aside_setAdp (s : State) (n : Nat) (a : Adp) : Aside s (s.setAdp n a) := aside_beside rfl rfl

theorem aside_placeUploads (s : State) (l : List Upload) : Aside s (placeUploads s l) := by
  induction l generalizing s with
  | nil => exact aside_beside rfl rfl
  | cons u r ih =>
    rw [placeUploads]
    split
    · split
      · exact (aside_setAdp ..).trans (ih _)
      · exact (ih s).trans (aside_beside rfl rfl)
    · exact aside_beside rfl rfl

theorem aside_sweepAdps (s : State) : Aside s (sweepAdps s) :=
  .trans (.foldl (fun t k => .ite ((aside_tagEvent ..).trans (aside_setAdp ..)) (.refl t)) _) (aside_placeUploads ..)

theorem aside_releaseChain (s : State) (l : List Nat) : Aside s (releaseChain s l) := by
  refine .foldl (fun t g => ?_) l
  rw [pfxRelease]
  split <;> constructor <;> rfl

theorem aside_releaseSeq (s : State) (n : Nat) : Aside s (releaseSeq s n) :=
  ((aside_releaseChain ..).trans (aside_modSlot ..)).trans (aside_sweepAdps _)

theorem aside_freeSlot (s : State) (n : Nat) : Aside s (freeSlot s n) := (aside_releaseSeq s n).trans (aside_setSlot ..)

theorem aside_endSeq (s : State) (n st c r v : Nat) : Aside s (endSeq s n st c r v) :=
  ((aside_seqEvent ..).trans (aside_modSlot ..)).trans (aside_releaseSeq ..)

theorem aside_faultSeq (s : State) (n r : Nat) : Aside s (faultSeq s n r) := aside_endSeq ..

theorem aside_freeEnded (s : State) : Aside s (freeEnded s) := aside_beside rfl rfl

theorem aside_parkFail (s : State) (n why : Nat) : Aside s (parkFail s n why) := by
  rw [parkFail]
  refine .ite (.trans (.trans ?_ (aside_seqEvent ..)) (aside_faultSeq ..))
    (.trans (.trans ?_ (aside_seqEvent ..)) (aside_modSlot ..)) <;> constructor <;> rfl

theorem aside_restoreFail (s : State) (n why : Nat) : Aside s (restoreFail s n why) := by
  rw [restoreFail]
  refine .trans (.trans ?_ (aside_seqEvent ..)) (aside_freeSlot ..)
  constructor <;> rfl

theorem aside_hubStop (s : State) : Aside s (hubStop s) := aside_beside rfl rfl

/-! ### The weight store's books -/

theorem aside_listMissing (s : State) (n r sh sl : Nat) : Aside s (listMissing s n r sh sl) := by
  rw [listMissing]
  split <;> constructor <;> rfl

theorem aside_setWslot (s : State) (n : Nat) (x : WSlot) : Aside s (s.setWslot n x) := by constructor <;> rfl

theorem aside_wstEnd (s : State) (r : Nat) : Aside s (wstEnd s r) :=
  .trans (by constructor <;> rfl) (aside_ownerEvent ..)

theorem aside_sessionEnd (s : State) : Aside s (sessionEnd s) :=
  .ite (.refl s) (.trans (.ite (aside_setWslot ..) (.refl s)) (aside_wstEnd ..))

theorem aside_setCtl (s : State) (k : ShardCtl) : Aside s (setCtl s k) := by constructor <;> rfl

theorem aside_abandon (s : State) (k : ShardCtl) (f : List (Nat × Nat)) : Aside s (abandon s k f) :=
  .trans (.trans (aside_setWslot ..) (.foldl (fun _ _ => aside_listMissing ..) _)) (aside_setCtl ..)

theorem aside_clearOp (s : State) (k r : Nat) : Aside s (s.clearOp k r) := aside_beside rfl rfl

theorem aside_refetch (s : State) (k : ShardCtl) (j r : Nat) : Aside s (refetch s k j r) :=
  .ite ((aside_abandon ..).trans (aside_sessionEnd _)) ((aside_clearOp ..).trans (aside_setCtl ..))

theorem aside_stopSession (s : State) (r : Nat) : Aside s (stopSession s r) :=
  .ite (.trans (.trans (.foldl (fun t k => .ite (.foldl (fun _ _ => aside_listMissing ..) _) (.refl t)) _) (aside_setWslot ..))
      (aside_wstEnd ..))
    (.ite ((aside_setWslot ..).trans (aside_wstEnd ..)) (aside_wstEnd ..))

theorem aside_endSessions (s : State) : Aside s (endSessions s) := by
  rw [endSessions]
  dsimp only
  cases s.wst.sub with
  | none => exact .ite (aside_stopSession ..) (.refl s)
  | some x =>
    have h : Aside s { s with wst := { s.wst with sub := none, fenced := x.lfield :: s.wst.fenced } } := by constructor <;> rfl
    exact .ite (h.trans (aside_stopSession ..)) h

/-! ### The fabric's ports -/

theorem aside_failOp (s : State) (o : Nat × Nat × Nat) : Aside s (failOp s o) := by
  rw [failOp]
  split
  · exact (aside_parkFail ..).trans (aside_freeEnded _)
  · exact aside_restoreFail ..
  · split
    · exact aside_refetch ..
    · exact .refl s

theorem aside_moveOp (acks : List (Nat × Nat × Nat)) (s : State) (o : Nat × Nat × Nat) : Aside s (moveOp acks s o) := by
  rw [moveOp]
  split
  · exact aside_failOp ..
  · exact aside_beside rfl rfl

theorem aside_qpError (s : State) (n : Nat) : Aside s (qpError s n) := .ite (.refl s) (aside_beside rfl rfl)

theorem aside_portDown (s : State) (p : Nat) (up : Bool) (acks : List (Nat × Nat × Nat)) : Aside s (portDown s p up acks) :=
  .ite (.refl s) (.trans (.trans (.trans (aside_beside rfl rfl) (.foldl (fun _ _ => aside_qpError ..) _))
    (.foldl (fun _ _ => aside_moveOp ..) _)) (aside_ownerEvent ..))

theorem aside_portsDown (s : State) : Aside s (portsDown s) := .foldl (fun _ _ => aside_portDown ..) _

theorem aside_portsTrain (s : State) : Aside s (portsTrain s) := .foldl (fun t _ => .ite (aside_beside rfl rfl) (.refl t)) _

end Sys2Proof.Proofs
end

section
/-! PROOFS. The state ladder, the setpoint and the clock steps. -/

namespace Sys2Proof.Proofs

open Sys2Proof Sys2Proof.Machine Sys2Proof.Safety Sys2Proof.Laws

/-- What Frost leaves: VIR off, no program on the plane, and everything the hub and the ports do beside it. -/
theorem enterFrost_aside (s : State) : Aside { s with
    plane := { s.plane with
      clockOn := false, progRun := false, cores := [], xfers := [], wlds := [], kvs := [], hputs := [], packets := [],
      pays := [], dma := [], relGo := false, resvs := [], faults := [], fTimer := 0, fFirst := none }
    pwr := { s.pwr with state := 1, virEn := false, virOk := false, restart := s.running } } (enterFrost s) := by
  have h : Aside (virRelease (hubStop s)) (portsDown (virRelease (hubStop s))) := aside_portsDown _
  rw [enterFrost]
  refine .trans ?_ (aside_isoSync _)
  generalize portsDown (virRelease (hubStop s)) = u at h
  have hplane := congrArg (fun p : Plane => ({ p with
      clockOn := false, progRun := false, cores := [], xfers := [], wlds := [], kvs := [], hputs := [], packets := [],
      pays := [], dma := [], relGo := false, resvs := [], faults := [], fTimer := 0, fFirst := none } : Plane)) h.plane
  have hrun : u.running = s.running := congrArg (fun l : Loader => decide (l.state = 8)) h.ldr
  have hpwr : ({ u.pwr with state := 1, restart := u.running } : Pwr) =
      { s.pwr with state := 1, virEn := false, virOk := false, restart := s.running } := by
    rw [hrun, h.pwr]
    rfl
  exact ⟨h.fuses, hplane, h.jet, h.ldr, h.wstMem, h.kvMem, hpwr, h.thm, h.bg, h.pnl, h.adc, h.sec, h.time, h.admitOff⟩

theorem bits_lt (v hi lo : Nat) : bits v hi lo < 2 ^ (hi + 1 - lo) := Nat.mod_lt _ (Nat.two_pow_pos _)

theorem toNat_ofNat_bits {n : Nat} (v hi lo : Nat) (h : hi + 1 - lo = n) : (BitVec.ofNat n (bits v hi lo)).toNat = bits v hi lo :=
  Nat.mod_eq_of_lt (h ▸ bits_lt v hi lo)

theorem writePwrCtrl_tgt (s : State) (v : BitVec 32) : (writePwrCtrl s v).pwr.tgt.toNat =
    if 1 ≤ bits v.toNat 2 0 ∧ bits v.toNat 2 0 ≤ 5 then bits v.toNat 2 0 else s.pwr.tgt.toNat := by
  show (if _ then BitVec.ofNat 3 (bits v.toNat 2 0) else s.pwr.tgt).toNat = _
  split
  · exact toNat_ofNat_bits _ _ _ rfl
  · rfl

theorem execStateTransition_down {s : State} (hr : s.bg.ready = true) (ho : s.pwr.off = false) (hg : goal s < s.pwr.state) :
    exec .stateTransition s = .next (stepDown s) := by
  rw [exec_stateTransition, execStateTransition, if_neg (by simp [hr, ho]), if_pos hg]

theorem execStateTransition_up {s : State} (hr : s.bg.ready = true) (ho : s.pwr.off = false) (hg : s.pwr.state < goal s) :
    exec .stateTransition s = .next (stepUp s) := by
  rw [exec_stateTransition, execStateTransition, if_neg (by simp [hr, ho]), if_neg (by omega), if_pos hg]

/-- The setpoint's move, within its limits. -/
theorem execAvsSetpointAdjust_on {s : State} (hc : s.pwr.compat = false) (hv : s.pwr.virEn = true) (w : Nat)
    (hw : max 1400 (min 1600 (if s.pwr.vmin < 1430 then s.pwr.setpt + 8 else if s.pwr.vmin < 1460 then s.pwr.setpt + 1
      else if 1480 < s.pwr.vmin then s.pwr.setpt - 1 else s.pwr.setpt)) = w) :
    exec .avsSetpointAdjust s = if w = s.pwr.setpt then .next s
      else .next (({ s with pwr := { s.pwr with setpt := w } }).emit (.avs w)) := by
  subst hw
  rw [exec_avsSetpointAdjust, execAvsSetpointAdjust, if_neg (by simp [hc, hv])]

/-- Settles O53: the setpoint by its thresholds, and the ladder one state at a time. -/
theorem powerLadder : Obligations.PowerLadder := by
  unfold Obligations.PowerLadder
  intro s v
  dsimp only
  refine ⟨fun h => ?_, fun hc hv hset => ⟨fun h => ?_, fun h h' => ?_, fun h h' => ?_, fun h => ?_⟩, fun hc hv hset h => ?_,
    fun n hn => ?_, ?_, fun hr ho => ⟨fun hg => ?_, fun hg => ?_, fun hg => ?_⟩, fun hr => ?_,
    fun h5 hr hi h1 h4 => ⟨fun hl hn => ?_, fun h => ?_⟩⟩
  · rw [exec_avsSetpointAdjust, execAvsSetpointAdjust, if_pos (by simpa using h)]
  · rw [execAvsSetpointAdjust_on hc hv 1508 (by rw [if_pos h, hset]; rfl), if_neg (by omega)]
  · rw [execAvsSetpointAdjust_on hc hv 1501 (by rw [if_neg (by omega), if_pos h', hset]; rfl), if_neg (by omega)]
  · rw [execAvsSetpointAdjust_on hc hv 1500 (by rw [if_neg (by omega), if_neg (by omega), if_neg (by omega), hset]; rfl),
      if_pos hset.symm]
  · rw [execAvsSetpointAdjust_on hc hv 1499 (by rw [if_neg (by omega), if_neg (by omega), if_pos h, hset]; rfl), if_neg (by omega)]
  · rw [execAvsSetpointAdjust_on hc hv 1600 (by rw [hset]; split <;> rfl), if_pos hset.symm]
  · rw [exec_clockStepChange, execClockStepChange, hn]
  · exact ⟨writePwrCtrl s v, rfl, rfl, toNat_ofNat_bits _ _ _ rfl, toNat_ofNat_bits _ _ _ rfl, rfl, writePwrCtrl_tgt s v⟩
  · rw [exec_stateTransition, execStateTransition, if_neg (by simp [hr, ho]), if_neg (by omega), if_neg (by omega)]
  · have hstep := execStateTransition_down hr ho hg
    rw [stepDown] at hstep
    refine ⟨fun h hrun => ?_, fun h hq => ?_, fun h hq => ?_, fun h => ?_, fun h => ?_⟩
    all_goals rw [h] at hstep
    · exact hstep.trans (congrArg _ (if_pos (by simp [mayDescend, hrun])))
    · exact hstep.trans (congrArg _ (if_pos hq))
    · exact hstep.trans (congrArg _ (if_neg (by simp [hq])))
    · exact hstep
    · obtain ⟨-, hplane, -, -, -, -, hpwr, -⟩ := enterFrost_aside s
      exact ⟨enterFrost s, hstep, by rw [hpwr], by rw [hpwr], by rw [hplane], by rw [hplane], by rw [hplane], by rw [hpwr]⟩
  · have hstep := execStateTransition_up hr ho hg
    rw [stepUp] at hstep
    refine ⟨fun h hiso hen hok => ?_, fun h hiso hen hall => ?_, fun h => ?_, fun h => ?_, fun h hre => ?_⟩
    all_goals rw [h] at hstep
    · refine ⟨portsTrain (isoSync { s with pwr := { s.pwr with state := 2 } }), ?_, ?_⟩
      · exact hstep.trans (congrArg _ ((if_neg (by simp [hiso])).trans (if_pos (by simp [hen, hok]))))
      · exact congrArg Pwr.state ((aside_isoSync _).trans (aside_portsTrain _)).pwr
    · exact hstep.trans (congrArg _ ((if_neg (by simp [hiso])).trans ((if_neg (by simp [hen])).trans (if_pos (by simp [hen, hall])))))
    · exact hstep
    · exact hstep
    · exact hstep.trans (congrArg _ (if_neg (by simp [hre])))
  · rw [exec_stateTransition, execStateTransition, if_pos (by simp [hr])]
  · rw [exec_idleDescent, execIdleDescent, if_pos ⟨h5, hr, hi, h1, h4, hl, hn⟩]
  · rw [exec_idleDescent, execIdleDescent, if_neg fun hc => ?_]
    obtain ⟨-, -, -, -, -, hl, hn⟩ := hc
    exact h.elim (· hl) fun h => by omega

end Sys2Proof.Proofs
end

section
/-! PROOFS. Forced changes, trips and feeds. -/

namespace Sys2Proof.Proofs

open Sys2Proof Sys2Proof.Machine Sys2Proof.Safety Sys2Proof.Laws

/-! ### Loads that a cause ends -/

theorem onlyBinding_emit (s : State) (o : Out) : OnlyBinding s (s.emit o) := ⟨_, _, _, _, rfl, rfl, rfl, rfl⟩

theorem onlyBinding_loadFault (s : State) (code a b : Nat) : OnlyBinding { s with ldr := (loadFault s code a b).ldr }
    (loadFault s code a b) := by
  obtain ⟨-, hldr, -⟩ := loadFault_reads s code a b
  rw [hldr, loadFault]
  exact ((onlyBinding_dropExcess ..).trans (onlyBinding_ownerEvent ..)).trans (onlyBinding_emit ..)

theorem onlyBinding_interruptLoad (s : State) (c : Nat) : OnlyBinding { s with ldr := (interruptLoad s c).ldr } (interruptLoad s c) := by
  rw [interruptLoad]
  split
  · exact onlyBinding_loadFault ..
  · exact .refl s

theorem interruptLoad_fCode {s : State} {c : Nat} (h1 : 1 ≤ s.ldr.state) (h7 : s.ldr.state ≤ 7) :
    (interruptLoad s c).ldr.fCode = 0x13 := by
  rw [interruptLoad, if_pos (loading_iff.2 ⟨h1, h7⟩), (loadFault_reads ..).2.1]

/-! ### Forced causes -/

/-- The state in which a forced cause below 5 stands, before its floor is sought. -/
def withCause (s : State) (c : Nat) : State :=
  { interruptLoad s c with
    pwr := { (interruptLoad s c).pwr with causes := (interruptLoad s c).pwr.causes.filter (· != c) ++ [c] }
    bg := { (interruptLoad s c).bg with clean := (interruptLoad s c).bg.clean && c != 2 } }

theorem withCause_reads {s : State} {c : Nat} (hc : s.pwr.causes.filter (· != c) = []) :
    (withCause s c).pwr = { s.pwr with causes := [c] } ∧ (withCause s c).bg = { s.bg with clean := s.bg.clean && c != 2 } ∧
    (withCause s c).ldr = (interruptLoad s c).ldr := by
  obtain ⟨-, hbg, -, -, -, hpwr, -⟩ := (onlyBinding_interruptLoad s c).keeps
  refine ⟨?_, ?_, rfl⟩
  · rw [withCause, hpwr, hc]
    rfl
  · rw [withCause, hbg]

theorem force_ready {s : State} {c : Nat} (h : c ≠ 5) (hr : s.bg.ready = true) : force s c =
    if pwrLimit (withCause s c) = 1 ∧ 1 < (withCause s c).pwr.state then forcedFrost (withCause s c) else withCause s c := by
  rw [force, if_neg h, if_neg (by simp [hr])]
  rfl

theorem pwrLimit_withCause {s : State} {c : Nat} (hc : s.pwr.causes.filter (· != c) = []) (hp : s.pwr.parkS = none) :
    pwrLimit (withCause s c) = if [c].contains 5 then 0 else if [c].any (fun c => decide (c < 4)) then 1 else
      if [c].contains 4 then 4 else 5 := by
  obtain ⟨hpwr, -, -⟩ := withCause_reads (c := c) hc
  rw [pwrLimit, hpwr, if_neg (by simp [hp]), pwrFloor, hpwr]

/-- A cause that asks for Frost is there at once. -/
theorem force_frost {s : State} {c : Nat} (hr : s.bg.ready = true) (hc : s.pwr.causes.filter (· != c) = []) (hp : s.pwr.parkS = none)
    (hst : 1 < s.pwr.state) (h : c ≤ 3) : (force s c).pwr.state = 1 ∧ (force s c).pwr.causes = [c] ∧ (force s c).pwr.virEn = false ∧
      (force s c).plane.clockOn = false ∧ (force s c).plane.cores = [] ∧
      (1 ≤ s.ldr.state → s.ldr.state ≤ 7 → (force s c).ldr.fCode = 0x13) ∧ (force s c).bg.clean = (s.bg.clean && c != 2) ∧ (force s c).thm = s.thm ∧ (force s c).hub.admitOff = s.hub.admitOff ∧ (force s c).pwr.parkS = none := by
  obtain ⟨hpwr, hbg, hldr⟩ := withCause_reads (c := c) hc
  have hlim : pwrLimit (withCause s c) = 1 := by
    rw [pwrLimit_withCause hc hp, if_neg (by simp; omega), if_pos (by simp; omega)]
  rw [force_ready (by omega) hr, if_pos ⟨hlim, by rw [hpwr]; exact hst⟩, forcedFrost]
  obtain ⟨-, -, -, -, -, -, hthm, hhub, -⟩ := (onlyBinding_interruptLoad s c).keeps
  obtain ⟨-, hplane, -, hldr', -, -, hpwr', hthm', hbg', -, -, -, -, hadmit⟩ :=
    enterFrost_aside (stopCores { withCause s c with pwr := { (withCause s c).pwr with step := 6, stepReq := none } })
  refine ⟨by rw [hpwr'], ?_, by rw [hpwr'], by rw [hplane], by rw [hplane], fun h1 h7 => ?_, ?_, hthm'.trans hthm, ?_, ?_⟩
  · rw [hpwr']
    exact congrArg Pwr.causes hpwr
  · rw [hldr']
    exact (congrArg Loader.fCode hldr).trans (interruptLoad_fCode h1 h7)
  · rw [hbg']
    exact congrArg Bg.clean hbg
  · exact hadmit.trans (congrArg Hub.admitOff hhub)
  · rw [hpwr']
    exact (congrArg Pwr.parkS hpwr).trans hp

theorem force_slow {s : State} (hr : s.bg.ready = true) (hc : s.pwr.causes = []) (hp : s.pwr.parkS = none) :
    (force s 4).pwr = { s.pwr with causes := [4] } := by
  have hc' : s.pwr.causes.filter (· != 4) = [] := by rw [hc]; rfl
  obtain ⟨hpwr, -, -⟩ := withCause_reads (c := 4) hc'
  rw [force_ready (by decide) hr, if_neg, hpwr]
  rw [pwrLimit_withCause hc' hp]
  exact fun h => absurd h.1 (by decide)

/-! ### The hard power-off -/

/-- With all power go the plane and what the KV store holds; the weights stay. -/
theorem losePower_reads (s : State) : (losePower s).plane = {} ∧ (losePower s).kv.mem = [] ∧ (losePower s).wst.mem = s.wst.mem ∧
    (losePower s).pwr = { s.pwr with state := 0, virEn := false, virOk := false, restart := false, parkS := none, off := true } ∧
    (losePower s).bg = { s.bg with ready := false, phaseOn := false } ∧ (losePower s).thm = s.thm ∧
    (losePower s).fuses = s.fuses := by
  have h := aside_endSessions s
  rw [losePower]
  exact ⟨rfl, rfl, h.wstMem, by rw [h.pwr], by rw [h.bg], h.thm, h.fuses⟩

theorem hardOff_reads (s : State) : (hardOff s).pwr.state = 0 ∧ (hardOff s).pwr.off = true ∧ (hardOff s).thm.hot = true ∧
    (hardOff s).bg.ready = false ∧ (hardOff s).bg.clean = false ∧ (hardOff s).plane = {} ∧ (hardOff s).kv.mem = [] ∧
    (hardOff s).wst.mem = s.wst.mem := by
  obtain ⟨hplane, hkv, hwst, hpwr, hbg, hthm, -⟩ :=
    losePower_reads (alarm { s with pwr := { s.pwr with causes := s.pwr.causes.filter (· != 5) ++ [5] } } 2)
  have hal := aside_alarm { s with pwr := { s.pwr with causes := s.pwr.causes.filter (· != 5) ++ [5] } } 2
  rw [hardOff]
  dsimp only
  generalize losePower _ = u at *
  have hsync := aside_isoSync { u with thm := { u.thm with hot := true }, bg := { u.bg with clean := false, hotWait := true, coldDue := true } }
  refine ⟨?_, ?_, by rw [hsync.thm], ?_, by rw [hsync.bg], hsync.plane.trans hplane, hsync.kvMem.trans hkv,
    (hsync.wstMem.trans hwst).trans hal.wstMem⟩
  · rw [hsync.pwr]
    exact congrArg Pwr.state hpwr
  · rw [hsync.pwr]
    exact congrArg Pwr.off hpwr
  · rw [hsync.bg]
    exact congrArg Bg.ready hbg

/-! ### Trips -/

theorem raise_running {s : State} {f : FaultRep} (h : s.plane.progRun = true) :
    s.raise f = { s with plane := { s.plane with faults := s.plane.faults ++ [f] } } := if_pos h

/-- A squall that is raised leaves the map and the power board as they are. -/
theorem raise_keeps (s : State) (f : FaultRep) : (s.raise f).pwr = s.pwr ∧ (s.raise f).bg.fieldSt = s.bg.fieldSt ∧
    (s.raise f).bg.clean = s.bg.clean := by
  rw [State.raise]
  split
  · exact ⟨rfl, rfl, rfl⟩
  · split
    · exact ⟨rfl, rfl, rfl⟩
    · split
      · split <;> exact ⟨rfl, rfl, rfl⟩
      · exact ⟨rfl, rfl, rfl⟩

/-- A fence leaves a field in the state given, or in a higher one that it had. -/
theorem fenceField_atLeast {s : State} {pf st : Nat} (hst : st ≠ 0) : st ≤ fieldState (fenceField s pf st) pf ∧
    (fenceField s pf st).plane = s.plane ∧ (fenceField s pf st).pwr = s.pwr ∧ (fenceField s pf st).bg.clean = s.bg.clean := by
  by_cases h : fieldState s pf = 0
  · obtain ⟨hplane, hfs, -, -⟩ := fenceField_reads h hst
    obtain ⟨-, hbg, -, -, -, hpwr, -⟩ := (onlyBinding_fenceField st h).keeps
    exact ⟨hfs.ge, hplane, hpwr, by rw [hbg]; rfl⟩
  · rw [fenceField, if_pos h]
    refine ⟨?_, rfl, rfl, rfl⟩
    have hne : max (tget 0 s.bg.fieldSt pf) st ≠ 0 := by omega
    exact (le_max_right _ _).trans (tget_tset_of_ne_default hne _ _).ge

/-- A unit's fault: its field fenced, and its squall in the queue of a plane that runs a program. -/
theorem fenceField_raise {s : State} {f : FaultRep} {pf st : Nat} (hst : st ≠ 0) :
    st ≤ fieldState (fenceField (s.raise f) pf st) pf ∧ (fenceField (s.raise f) pf st).pwr = s.pwr ∧
    (fenceField (s.raise f) pf st).bg.clean = s.bg.clean ∧
    (s.plane.progRun = true → (fenceField (s.raise f) pf st).plane.faults = s.plane.faults ++ [f]) := by
  obtain ⟨hfs, hplane, hpwr, hclean⟩ := fenceField_atLeast (s := s.raise f) (pf := pf) hst
  obtain ⟨hpwr', -, hclean'⟩ := raise_keeps s f
  refine ⟨hfs, hpwr.trans hpwr', hclean.trans hclean', fun hrun => ?_⟩
  rw [hplane, raise_running hrun]

/-- The fields of PWR_REGFLT. -/
theorem regFlt_bits {s : State} {die pf cl tile rail : Nat} (hd : die < 8) (hp : pf < 48) (hc : cl < 12) (ht : tile < 8) (hr : rail < 6) :
    bit (regFlt s die pf cl tile rail).toNat 63 = true ∧ bits (regFlt s die pf cl tile rail).toNat 62 60 = die ∧
    bits (regFlt s die pf cl tile rail).toNat 59 54 = pf ∧ bits (regFlt s die pf cl tile rail).toNat 53 50 = cl ∧
    bits (regFlt s die pf cl tile rail).toNat 49 47 = tile ∧ bits (regFlt s die pf cl tile rail).toNat 46 44 = rail := by
  have hnow : s.now % 2 ^ 32 < 2 ^ 32 := Nat.mod_lt _ (by decide)
  rw [regFlt]
  generalize s.now % 2 ^ 32 = n at hnow
  simp only [bit, bits, BitVec.toNat_ofNat, beq_iff_eq, Nat.reducePow, Nat.reduceAdd, Nat.reduceSub, decide_eq_true_eq] at *
  omega

theorem dieThere_lt {s : State} {die : Nat} (h : dieThere s die = true) : die < 8 := by
  have hkv : gradeKv s ≤ 2 := by rw [gradeKv]; split <;> omega
  have hwt : gradeWt s ≤ 4 := by rw [gradeWt]; split <;> omega
  simp only [dieThere, Bool.or_eq_true, beq_iff_eq, decide_eq_true_eq] at h
  omega

/-- The state after a regulator trip is recorded as w. -/
def tripped (s : State) (w : BitVec 64) : State := { s with
  pwr := { s.pwr with regflt := w, trips := satAdd 65535 s.pwr.trips 1 }
  bg := { s.bg with clean := false } }

theorem exec_regulatorTileTrip_there {s : State} {die pf cl tile rail : Nat} (hd : dieThere s die = true) (hp : pf < 48)
    (hc : cl < 12) (ht : tile < 8) (hr : rail < 6) :
    ∃ w : BitVec 64, (exec (.regulatorTileTrip die pf cl tile rail) s =
      if (die = 0 ∧ rail ≤ 1) ∨ (1 ≤ die ∧ die ≤ 6) then
        .next (fenceCluster ((tripped s w).raise (unitRep (tripped s w) (12 * pf + cl) 0xF 7 0)) (12 * pf + cl))
      else .next (tripped s w)) ∧ bit w.toNat 63 = true ∧ bits w.toNat 62 60 = die ∧ bits w.toNat 59 54 = pf ∧
      bits w.toNat 53 50 = cl ∧ bits w.toNat 49 47 = tile ∧ bits w.toNat 46 44 = rail := by
  refine ⟨regFlt s die pf cl tile rail, ?_, regFlt_bits (dieThere_lt hd) hp hc ht hr⟩
  rw [exec_regulatorTileTrip, execRegulatorTileTrip, if_neg (by simp [hd]; omega)]
  rfl

/-- The state after the feeds of a cluster that have tripped are `now`, recorded as w. -/
def feedLost (s : State) (pf cl now : Nat) (w : BitVec 64) : State := { s with
  pwr := { s.pwr with feeds := tset 0 s.pwr.feeds (12 * pf + cl) now, regflt := w } }

/-- A single feed lost: counted in the state that the trip is recorded in. -/
def feedSingle (s : State) : State := { s with pwr := { s.pwr with single := satAdd 65535 s.pwr.single 1 } }

theorem feedSingle_feedLost (s : State) (pf cl now : Nat) (w : BitVec 64) :
    (feedSingle (feedLost s pf cl now w)).pwr.feeds = tset 0 s.pwr.feeds (12 * pf + cl) now ∧
    (feedSingle (feedLost s pf cl now w)).pwr.single = min 65535 (s.pwr.single + 1) ∧
    (feedSingle (feedLost s pf cl now w)).bg = s.bg ∧ (feedSingle (feedLost s pf cl now w)).plane = s.plane :=
  ⟨rfl, rfl, rfl, rfl⟩

theorem exec_vtransitFeedTrip_new {s : State} {pf cl had now : Nat} {nb : Bool} (hp : pf < 48) (hc : cl < 12)
    (hhad : tget 0 s.pwr.feeds (12 * pf + cl) = had) (hnow : (had ||| if nb then 2 else 1) = now) (hne : now ≠ had) :
    ∃ w, exec (.vtransitFeedTrip pf cl nb) s =
      if now = 3 then .next (fenceField ((feedLost s pf cl now w).raise (unitRep (feedLost s pf cl now w) (12 * pf + cl) 0xE 6 0)) pf 2)
      else .next (feedSingle (feedLost s pf cl now w)) := by
  subst hhad hnow
  refine ⟨regFlt s 0 pf (if nb then cl ^^^ 1 else cl) 7 3, ?_⟩
  rw [exec_vtransitFeedTrip, execVtransitFeedTrip, if_neg (by omega)]
  exact if_neg hne

/-- Settles O54. -/
theorem forcedChanges : Obligations.ForcedChanges := by
  unfold Obligations.ForcedChanges
  intro s
  dsimp only
  refine ⟨rfl, fun hr hc hp hst => ⟨fun c h1 h3 => ?_, ?_, fun hv => ?_⟩, fun hr c h1 h4 => ?_, ?_, fun c hc => ?_, fun hv => ?_,
    fun hc => ?_, fun hin hv hok => ⟨fun hf => ?_, fun hf => ?_⟩, fun hin => ?_, fun die pf cl tile rail hd hp hc ht hr => ?_,
    fun pf cl nb hp hc => ⟨fun hf => ?_, fun hf => ?_⟩⟩
  · obtain ⟨hf1, hf2, hf3, hf4, hf5, hf6, -⟩ := force_frost (c := c) hr (by rw [hc]; rfl) hp hst h3
    exact ⟨force s c, congrArg _ (if_neg (by omega)), hf1, hf2, hf3, hf4, hf5, hf6⟩
  · have h := force_slow hr hc hp
    exact ⟨force s 4, congrArg Host.Outcome.next (if_neg (by omega)), by rw [h], by rw [h]⟩
  · have hs : ∀ u : State, u = { s with pwr := { s.pwr with virOk := false } } → exec (.virUndervoltage true) s = .next (force u 2) := by
      rintro u rfl
      rw [exec_virUndervoltage, execVirUndervoltage, if_neg (by simp [hv]), if_pos hr]
      rfl
    obtain ⟨hf1, hf2, hf3, hf4, hf5, hf6, hf7, -⟩ := force_frost (s := { s with pwr := { s.pwr with virOk := false } }) (c := 2) hr (by rw [hc]; rfl) hp hst
      (by decide)
    exact ⟨_, hs _ rfl, ⟨hf1, hf2, hf3, hf4, hf5, hf6⟩, hf7.trans (Bool.and_false _)⟩
  · rw [exec_forcedChange, execForcedChange, if_neg (by omega), force, if_neg (by omega), if_pos (by simp [hr])]
  · obtain ⟨-, -, -, -, hwst, -⟩ := (onlyBinding_interruptLoad s 5).keeps
    obtain ⟨h1, h2, h3, h4, h5, h6, h7, h8⟩ := hardOff_reads (interruptLoad s 5)
    exact ⟨hardOff (interruptLoad s 5), rfl, h1, h2, h3, h4, h5, h6, h7, h8.trans hwst⟩
  · rw [exec_forcedChange, execForcedChange, if_pos hc]
  · rw [exec_virUndervoltage, execVirUndervoltage, if_pos (by simp [hv])]
    rfl
  · have h := aside_isoSync { s with pwr := { s.pwr with virOk := true, causes := s.pwr.causes.filter (· != 2) } }
    refine ⟨_, rfl, ?_, ?_, ?_⟩
    all_goals refine (congrArg _ h.pwr).trans ?_
    · simp [hc]
    · rfl
    · rfl
  · have hx : exec .virOkTimeout s = .next (virFail s) := congrArg _ (if_pos (by simp [hin, hv, hok]))
    rw [inPhases, Bool.and_eq_true] at hin
    rw [virFail] at hx
    exact ⟨_, hx.trans (congrArg _ (if_neg (by omega))), rfl, rfl, rfl, hin.1⟩
  · have hx : exec .virOkTimeout s = .next (virFail s) := congrArg _ (if_pos (by simp [hin, hv, hok]))
    rw [virFail] at hx
    exact ⟨_, hx.trans (congrArg _ (if_pos (by omega))), rfl, rfl, rfl⟩
  · exact congrArg _ (if_neg (by simp [hin]))
  · obtain ⟨w, hexec, hbits⟩ := exec_regulatorTileTrip_there hd hp hc ht hr
    have hpf : (12 * pf + cl) / 12 = pf := by omega
    rw [fenceCluster, hpf] at hexec
    by_cases hfence : (die = 0 ∧ rail ≤ 1) ∨ (1 ≤ die ∧ die ≤ 6)
    · rw [if_pos hfence] at hexec
      obtain ⟨hst, hpwr, hclean, hfaults⟩ := fenceField_raise (s := tripped s w) (pf := pf)
        (f := unitRep (tripped s w) (12 * pf + cl) 0xF 7 0) one_ne_zero
      have hreg : _ = w := congrArg Pwr.regflt hpwr
      rw [← hreg] at hbits
      obtain ⟨h63, h60, h54, h50, h47, h44⟩ := hbits
      exact ⟨_, hexec, congrArg Pwr.trips hpwr, hclean, h63, h60, h54, h50, h47, h44, fun h0 h2 => by omega,
        fun h0 h1 => ⟨by omega, fun hrun => ⟨_, hfaults hrun, rfl⟩⟩⟩
    · rw [if_neg hfence] at hexec
      obtain ⟨h63, h60, h54, h50, h47, h44⟩ := hbits
      exact ⟨_, hexec, rfl, rfl, h63, h60, h54, h50, h47, h44, fun _ _ => ⟨rfl, rfl⟩, fun h0 h1 => absurd (.inl ⟨h0, h1⟩) hfence⟩
  · have hnow : (0 ||| if nb = true then 2 else 1) = if nb then 2 else 1 := Nat.zero_or _
    have hne : (if nb = true then 2 else 1) ≠ 0 ∧ (if nb = true then 2 else 1) ≠ 3 := by cases nb <;> decide
    obtain ⟨w, hexec⟩ := exec_vtransitFeedTrip_new hp hc hf hnow hne.1
    obtain ⟨hfeeds, hsingle, hbg, hplane⟩ := feedSingle_feedLost s pf cl (if nb then 2 else 1) w
    refine ⟨_, hexec.trans (if_neg hne.2), ?_, hsingle, by rw [hbg], hplane⟩
    rw [hfeeds]
    exact tget_tset_of_ne_default hne.1 _ _
  · have hnow : ((if nb = true then 1 else 2) ||| if nb = true then 2 else 1) = 3 := by cases nb <;> rfl
    have hne : 3 ≠ if nb = true then 1 else 2 := by cases nb <;> decide
    obtain ⟨w, hexec⟩ := exec_vtransitFeedTrip_new hp hc hf hnow hne
    obtain ⟨hst, hpwr, -, hfaults⟩ := fenceField_raise (s := feedLost s pf cl 3 w) (pf := pf)
      (f := unitRep (feedLost s pf cl 3 w) (12 * pf + cl) 0xE 6 0) two_ne_zero
    refine ⟨_, hexec.trans (if_pos rfl), ?_, hst, fun hrun => ⟨_, hfaults hrun, rfl⟩⟩
    rw [hpwr]
    exact tget_tset_of_ne_default (by decide) _ _

end Sys2Proof.Proofs
end

section
/-! PROOFS. Sensors, caps, coolant and the dew point. -/

namespace Sys2Proof.Proofs

open Sys2Proof Sys2Proof.Machine Sys2Proof.Safety Sys2Proof.Laws

/-! ### The pairs of sensors -/

/-- From s to t only the pairs changed, and the free choices. -/
def OnlyPairs (s t : State) : Prop := ∃ l n, t = { s with thm := { s.thm with pairs := l }, free := n } ∧ twf ({} : Pair) l = true

theorem OnlyPairs.trans {s t u : State} (h : OnlyPairs s t) (h' : OnlyPairs t u) : OnlyPairs s u := by
  obtain ⟨l, n, rfl, -⟩ := h
  obtain ⟨l', n', rfl, hl⟩ := h'
  exact ⟨l', n', rfl, hl⟩

theorem OnlyPairs.twf {s t : State} (h : OnlyPairs s t) : twf ({} : Pair) t.thm.pairs = true := by
  obtain ⟨l, n, rfl, hl⟩ := h
  exact hl

theorem onlyPairs_setPair {s : State} (h : twf ({} : Pair) s.thm.pairs = true) (i : Nat) (p : Pair) : OnlyPairs s (s.setPair i p) :=
  ⟨_, _, rfl, twf_tset h⟩

/-- A pair after a fold that sets pairs one by one, each from its own value before. -/
theorem pair_foldl_setPair {g : State → Nat → Pair} {P : Nat → Pair → Pair → Prop} (hrefl : ∀ i p, P i p p)
    (htrans : ∀ i p q r, P i p q → P i q r → P i p r) (hg : ∀ s i, P i (s.pair i) (g s i)) (l : List Nat) {s : State}
    (h : twf ({} : Pair) s.thm.pairs = true) :
    OnlyPairs s (l.foldl (fun s i => s.setPair i (g s i)) s) ∧
    ∀ i, P i (s.pair i) ((l.foldl (fun s i => s.setPair i (g s i)) s).pair i) := by
  induction l generalizing s with
  | nil => exact ⟨⟨_, _, rfl, h⟩, fun i => hrefl i _⟩
  | cons k r ih =>
    have hset := onlyPairs_setPair h k (g s k)
    obtain ⟨honly, hp⟩ := ih hset.twf
    refine ⟨hset.trans honly, fun i => htrans i _ _ _ ?_ (hp i)⟩
    by_cases hi : i = k
    · subst hi
      rw [pair_setPair h]
      exact hg s i
    · rw [pair_setPair_ne h hi]
      exact hrefl i _

/-- A calibration of each pair of a list. -/
theorem pair_foldl_calPair {l : List Nat} (hl : l.Nodup) {s : State} (h : twf ({} : Pair) s.thm.pairs = true) :
    let t := l.foldl (fun s i => s.setPair i (calPair s.thm.inlet (s.pair i))) s
    OnlyPairs s t ∧ (∀ i ∈ l, t.pair i = calPair s.thm.inlet (s.pair i)) ∧ ∀ i ∉ l, t.pair i = s.pair i := by
  induction l generalizing s with
  | nil => exact ⟨⟨_, _, rfl, h⟩, nofun, fun _ _ => rfl⟩
  | cons k r ih =>
    obtain ⟨hk, hr⟩ := List.nodup_cons.1 hl
    have hset := onlyPairs_setPair h k (calPair s.thm.inlet (s.pair k))
    obtain ⟨honly, hin, hout⟩ := ih hr hset.twf
    refine ⟨hset.trans honly, fun i hi => ?_, fun i hi => ?_⟩
    · obtain rfl | hi := List.mem_cons.1 hi
      · exact (hout i hk).trans (pair_setPair h)
      · refine (hin i hi).trans ?_
        rw [pair_setPair_ne h (show i ≠ k from fun he => hk (he ▸ hi))]
        rfl
    · exact (hout i fun h => hi (List.mem_cons_of_mem k h)).trans (pair_setPair_ne h (show i ≠ k from fun he => hi (he ▸ List.mem_cons_self)))

/-- Control readings change nothing else of a pair. -/
theorem setReadings_pairs {s : State} (l : List Nat) (h : twf ({} : Pair) s.thm.pairs = true) : OnlyPairs s (setReadings s l) ∧
    ∀ i, (setReadings s l).pair i = { s.pair i with ctl := ((setReadings s l).pair i).ctl } := by
  obtain ⟨honly, hp⟩ := pair_foldl_setPair (g := fun s i => { s.pair i with ctl := readingOf s i })
    (P := fun _ p q => q = { p with ctl := q.ctl }) (fun _ _ => rfl) (fun _ p q r hq hr => hr.trans (by rw [hq])) (fun _ _ => rfl)
    (l ++ (s.thm.pairs.filter fun e => (ownReading e.2).isNone).map (·.1)).eraseDups h
  obtain ⟨t, n, ht, htwf⟩ := honly
  exact ⟨⟨t, _, congrArg State.bumpFree ht, htwf⟩, hp⟩

theorem le_foldl_max (l : List Int) (x : Int) : x ≤ l.foldl max x ∧ ∀ y ∈ l, y ≤ l.foldl max x := by
  induction l generalizing x with
  | nil => exact ⟨le_rfl, nofun⟩
  | cons a r ih =>
    obtain ⟨h1, h2⟩ := ih (max x a)
    refine ⟨(le_max_left x a).trans h1, fun y hy => ?_⟩
    obtain rfl | hy := List.mem_cons.1 hy
    · exact (le_max_right x y).trans h1
    · exact h2 y hy

theorem foldl_max_le {l : List Int} {x c : Int} (hx : x ≤ c) (h : ∀ y ∈ l, y ≤ c) : l.foldl max x ≤ c := by
  induction l generalizing x with
  | nil => exact hx
  | cons a r ih => exact ih (max_le hx (h a List.mem_cons_self)) fun y hy => h y (List.mem_cons_of_mem a hy)

/-- The hottest of a list is none of fewer, and bounds each. -/
theorem hottest_le {l : List Int} {c : Int} (h0 : 0 ≤ c) (h : ∀ y ∈ l, y ≤ c) : (hottest l).getD 0 ≤ c := by
  cases l with
  | nil => exact h0
  | cons x r => exact foldl_max_le (h x List.mem_cons_self) fun y hy => h y (List.mem_cons_of_mem x hy)

theorem le_hottest {l : List Int} {x : Int} (h : x ∈ l) : x ≤ (hottest l).getD 0 := by
  cases l with
  | nil => cases h
  | cons a r =>
    obtain rfl | h := List.mem_cons.1 h
    · exact (le_foldl_max r x).1
    · exact (le_foldl_max r a).2 x h

theorem kindHot_le {s : State} {k : Nat} {c : Int} (h0 : 0 ≤ c) (h : ∀ w, ∀ i ∈ diePairs k w, (s.pair i).ctl ≤ c) :
    kindHot s k ≤ c := by
  refine hottest_le h0 fun y hy => ?_
  obtain ⟨w, -, hy⟩ := List.mem_flatMap.1 hy
  obtain ⟨i, hi, rfl⟩ := List.mem_map.1 hy
  exact h w i hi

theorem le_of_mem_diePairs {k w i : Nat} (hk : k ≠ 0) (h : i ∈ diePairs k w) : 1152 ≤ i := by
  rw [diePairs.eq_def] at h
  split at h
  · exact absurd rfl hk
  all_goals
    obtain ⟨j, -, rfl⟩ := List.mem_map.1 h
    omega

theorem le_kindHot_plane (s : State) {i : Nat} (hi : i < 1152) : (s.pair i).ctl ≤ kindHot s 0 :=
  le_hottest (List.mem_flatMap.2 ⟨0, List.mem_range.2 Nat.one_pos, List.mem_map.2 ⟨i, List.mem_range.2 hi, rfl⟩⟩)

/-! ### A sample of one plane pair -/

/-- A pair without calibration or history, sampled inside the sensors' range. -/
theorem samplePair_plain {now : Nat} {p : Pair} {a b : Int} (hp : p.offA = 0 ∧ p.offB = 0 ∧ p.split = false ∧ p.band = 0 ∧ p.diffAt = none)
    (ha : -320 ≤ a ∧ a ≤ 1200) (hb : -320 ≤ b ∧ b ≤ 1200) : (samplePair now p a b).a = a ∧ (samplePair now p a b).b = b ∧
    (samplePair now p a b).hotA = (if 840 < a then p.hotA + 1 else 0) ∧ (samplePair now p a b).hotB = (if 840 < b then p.hotB + 1 else 0) ∧
    ownReading (samplePair now p a b) = some (max a b) := by
  obtain ⟨hoa, hob, hsplit, hband, hdiff⟩ := hp
  have hva : validT a = true := decide_eq_true ha
  have hvb : validT b = true := decide_eq_true hb
  have hnow : ¬ now + 1000000 ≤ now := by omega
  have hs : samplePair now p a b = { p with
      a := a, b := b, diffAt := if 48 < (a - b).natAbs then some now else none
      hotA := if 840 < a then p.hotA + 1 else 0, hotB := if 840 < b then p.hotB + 1 else 0 } := by
    by_cases h48 : 48 < (a - b).natAbs <;> simp [samplePair, hoa, hob, hva, hvb, hsplit, hband, hdiff, h48]
  rw [hs]
  exact ⟨rfl, rfl, rfl, rfl, by simp [ownReading, hva, hvb, hband]⟩

/-- A control reading of one pair whose own sensors answer, when no pair is blind. -/
theorem setReadings_single {s : State} {i : Nat} {c : Int} (h : ∀ e ∈ s.thm.pairs, ownReading e.2 ≠ none)
    (hp : ownReading (s.pair i) = some c) : setReadings s [i] = (s.setPair i { s.pair i with ctl := c }).bumpFree := by
  have hblind : (s.thm.pairs.filter fun e => (ownReading e.2).isNone) = [] :=
    List.filter_eq_nil_iff.2 fun e he => by simpa using h e he
  have hread : readingOf s i = c := by rw [readingOf, hp]
  have hdups : ([i] ++ List.map (·.1) ([] : Table Pair)).eraseDups = [i] := rfl
  rw [setReadings, hblind, hdups, List.foldl_cons, hread, List.foldl_nil]

/-- The state after a sample of the one pair that the sensors know. -/
theorem samplePairs_single {s : State} {i : Nat} {a b : Int} (h : twf ({} : Pair) s.thm.pairs = true)
    (hown : ∀ e ∈ s.thm.pairs, ownReading e.2 ≠ none)
    (hp : (s.pair i).offA = 0 ∧ (s.pair i).offB = 0 ∧ (s.pair i).split = false ∧ (s.pair i).band = 0 ∧ (s.pair i).diffAt = none)
    (ha : -320 ≤ a ∧ a ≤ 1200) (hb : -320 ≤ b ∧ b ≤ 1200) :
    samplePairs s [(i, a, b)] = ((s.setPair i (samplePair s.now (s.pair i) a b)).setPair i
      { samplePair s.now (s.pair i) a b with ctl := max a b }).bumpFree := by
  obtain ⟨-, -, -, -, hread⟩ := samplePair_plain (now := s.now) hp ha hb
  have hpair := pair_setPair (q := samplePair s.now (s.pair i) a b) (n := i) h
  have hall : ∀ e ∈ (s.setPair i (samplePair s.now (s.pair i) a b)).thm.pairs, ownReading e.2 ≠ none := by
    intro e he
    obtain he | rfl := mem_of_mem_tset he
    · exact hown e he
    · rw [hread]
      exact Option.some_ne_none _
  have hset := setReadings_single hall (c := max a b) (by rw [hpair]; exact hread)
  rw [hpair] at hset
  exact hset

theorem pairThere_plane {s : State} {i : Nat} (h : i < 1152) : pairThere s i = true := by
  simp [pairThere, pairDie, h]

theorem execThermalSample_plane {s : State} {i : Nat} {a b : Int} (hi : i < 1152) (hv : s.bg.vsb = true) (ho : s.pwr.off = false) :
    exec (.thermalSample [(i, a, b)]) s = if tooHot (samplePairs s [(i, a, b)]) then .next (force (samplePairs s [(i, a, b)]) 5)
      else .next (thermalSteps (samplePairs s [(i, a, b)])) := by
  have hreads : [(i, a, b)].filter (fun r => decide (r.1 < nPairs) && pairThere s r.1) = [(i, a, b)] := by
    rw [List.filter_cons_of_pos (by rw [pairThere_plane hi, Bool.and_true]; exact decide_eq_true (hi.trans (by decide))), List.filter_nil]
  have hrates : ∀ u : State, refreshRates u ([(i, a, b)].map (·.1)) = u := by
    intro u
    have hnone : (([(i, a, b)] : List (Nat × Int × Int)).map (·.1)).filter (fun i => decide (1152 ≤ i ∧ i < 1248)) = [] := by
      simp
      omega
    rw [refreshRates, hnone, List.foldl_nil]
  rw [exec_thermalSample, execThermalSample, hreads, if_neg (by simp [hv]), if_neg (by simp [ho])]
  simp only [hrates]

/-- The step asked for above a limit, when no pair but one plane pair reads above 0. -/
theorem thermalSteps_plane {s : State} {i : Nat} {c : Int} (hi : i < 1152) (hc : (s.pair i).ctl = c)
    (hrest : ∀ j, j ≠ i → (s.pair j).ctl = 0) : (thermalSteps s).thm.pairs = s.thm.pairs ∧
    (c ≤ 760 → (thermalSteps s).pwr.stepReq = s.pwr.stepReq) ∧
    (760 < c → c ≤ 800 → s.thm.dwellHi = false → (thermalSteps s).pwr.stepReq = some (min 6 (stepAsked s + 1))) ∧
    (800 < c → (thermalSteps s).pwr.stepReq = some 6) := by
  have hplane (m : Int) (h0 : 0 ≤ m) (hm : c ≤ m) : kindHot s 0 ≤ m :=
    kindHot_le h0 fun _ j _ => if hj : j = i then (hj ▸ hc).trans_le hm else (hrest j hj).trans_le h0
  have hother (k : Nat) (hk : k ≠ 0) : kindHot s k ≤ 0 :=
    kindHot_le le_rfl fun _ j hj => (hrest j (by have := le_of_mem_diePairs hk hj; omega)).le
  have hge : c ≤ kindHot s 0 := hc ▸ le_kindHot_plane s hi
  have h0 : 0 ∈ kindsOf s := by simp [kindsOf, kindDies]
  have hany (d : Int) (hd : 0 ≤ d) : (kindsOf s).any (fun k => decide (kindLimit k + d < kindHot s k)) = decide (760 + d < c) := by
    rw [Bool.eq_iff_iff, List.any_eq_true, decide_eq_true_eq]
    constructor
    · rintro ⟨k, -, hk⟩
      have hk : kindLimit k + d < kindHot s k := of_decide_eq_true hk
      by_cases hz : k = 0
      · subst hz
        by_contra hn
        exact absurd (hplane (760 + d) (by omega) (by omega)) (by simpa [kindLimit] using hk)
      · have := hother k hz
        have hlim : 720 ≤ kindLimit k := by rw [kindLimit]; split <;> decide
        omega
    · exact fun hd => ⟨0, h0, decide_eq_true (hd.trans_le hge)⟩
  have habove : (kindsOf s).any (fun k => decide (kindLimit k < kindHot s k)) = decide (760 < c) := by
    simpa using hany 0 le_rfl
  have hfar : (kindsOf s).any (fun k => decide (kindLimit k + 40 < kindHot s k)) = decide (800 < c) := hany 40 (by decide)
  rw [thermalSteps]
  simp only [habove, hfar, decide_eq_true_eq]
  by_cases h800 : 800 < c
  · rw [if_pos h800]
    exact ⟨rfl, fun h => by omega, fun _ h => by omega, fun _ => rfl⟩
  · rw [if_neg h800]
    by_cases h760 : 760 < c
    · rw [if_pos h760]
      refine ⟨by split <;> rfl, fun h => by omega, fun _ _ hd => ?_, fun h => absurd h h800⟩
      rw [if_pos (by simp [hd])]
      rfl
    · rw [if_neg h760]
      exact ⟨rfl, fun _ => rfl, fun h => absurd h h760, fun h => absurd h h800⟩

/-! ### Caps -/

theorem leastTerm_foldl (r : List (Nat × Nat)) (t : Nat × Nat) :
    let m := r.foldl (fun b x => if x.1 < b.1 then x else b) t
    (m = t ∨ m ∈ r) ∧ m.1 ≤ t.1 ∧ ∀ x ∈ r, m.1 ≤ x.1 := by
  induction r generalizing t with
  | nil => exact ⟨.inl rfl, le_rfl, nofun⟩
  | cons a r ih =>
    obtain ⟨hmem, hle, hall⟩ := ih (if a.1 < t.1 then a else t)
    have hstep : (if a.1 < t.1 then a else t).1 ≤ t.1 ∧ (if a.1 < t.1 then a else t).1 ≤ a.1 := by
      split <;> omega
    refine ⟨?_, hle.trans hstep.1, fun x hx => ?_⟩
    · obtain hm | hm := hmem
      · rw [List.foldl_cons, hm]
        split
        · exact .inr List.mem_cons_self
        · exact .inl rfl
      · exact .inr (List.mem_cons_of_mem a hm)
    · obtain rfl | hx := List.mem_cons.1 hx
      · exact hle.trans hstep.2
      · exact hall x hx

/-- The effective cap is one of its terms, and none is less. -/
theorem effCap_spec (s : State) : effCap s ∈ capTerms s ∧ ∀ x ∈ capTerms s, (effCap s).1 ≤ x.1 := by
  obtain ⟨t, r, h⟩ : ∃ t r, capTerms s = t :: r := ⟨_, _, rfl⟩
  obtain ⟨hmem, hle, hall⟩ := leastTerm_foldl r t
  rw [effCap, h]
  refine ⟨List.mem_cons.2 hmem, fun x hx => ?_⟩
  obtain rfl | hx := List.mem_cons.1 hx
  · exact hle
  · exact hall x hx

theorem refreshCap_rth (s : State) : (refreshCap s).thm.rth = s.thm.rth := rfl

theorem refreshCap_eff (s : State) : ((refreshCap s).thm.eff, (refreshCap s).thm.effSrc) ∈ capTerms (refreshCap s) ∧
    ∀ x ∈ capTerms (refreshCap s), (refreshCap s).thm.eff ≤ x.1 := effCap_spec s

theorem unforce_reads (s : State) (c : Nat) : (unforce s c).thm = s.thm ∧
    (unforce s c).pwr = { s.pwr with causes := s.pwr.causes.filter (· != c) } :=
  ⟨(aside_isoSync _).thm, (aside_isoSync _).pwr⟩

/-- The sampled power, and the step that it asks for. -/
def stepAsk (s : State) (p : Nat) : Option Nat :=
  let cap := (effCap s).1
  let c := s.pwr.step
  let up := decide (0 < c) && decide (p ≤ cap) && stepFits p cap c (c - 1)
  if cap < p then some (min 6 (max (fastestFit p cap c) (s.pwr.stepReq.getD 0)))
  else if lasted (sinceWhen s.thm.fitUs s.now up) s.now 1000000 && !s.thm.dwellHi && s.pwr.stepReq.isNone then some (min 6 (c - 1))
  else s.pwr.stepReq

/-- The end of a cause, if it ends, keeps what the control of the step wrote. -/
theorem unforce_if_reads (s : State) (c : Nat) (b : Bool) : (if b then unforce s c else s).thm = s.thm ∧
    (if b then unforce s c else s).pwr.power = s.pwr.power ∧ (if b then unforce s c else s).pwr.step = s.pwr.step ∧
    (if b then unforce s c else s).pwr.stepReq = s.pwr.stepReq := by
  obtain ⟨hthm, hpwr⟩ := unforce_reads s c
  split
  · exact ⟨hthm, by rw [hpwr], by rw [hpwr], by rw [hpwr]⟩
  · exact ⟨rfl, rfl, rfl, rfl⟩

theorem execClockStepControl_reads {s : State} {p : Nat} (ho : s.pwr.off = false) : Does (.clockStepControl p) s fun t =>
    t.pwr.power = p ∧ t.pwr.step = s.pwr.step ∧ t.thm.eff = (effCap s).1 ∧ t.pwr.stepReq = stepAsk s p := by
  refine ⟨_, if_neg (by simp [ho]), ?_⟩
  have hreads := unforce_if_reads
  simp only [fun u c b => (hreads u c b).1, fun u c b => (hreads u c b).2.1, fun u c b => (hreads u c b).2.2.1,
    fun u c b => (hreads u c b).2.2.2]
  refine ⟨?_, ?_, ?_, ?_⟩
  · split
    · rfl
    · split <;> rfl
  · split
    · rfl
    · split <;> rfl
  · split
    · rfl
    · split <;> rfl
  · exact (apply_ite (fun u : State => u.pwr.stepReq) _ _ _).trans (if_congr Iff.rfl rfl
      ((apply_ite (fun u : State => u.pwr.stepReq) _ _ _).trans (if_congr Iff.rfl rfl rfl)))

/-- Settles O55. -/
theorem thermalControl : Obligations.ThermalControl := by
  unfold Obligations.ThermalControl
  intro s p hok ho
  dsimp only
  have hpairs : twf ({} : Pair) s.thm.pairs = true := (sound_of_tablesOk hok).pairs trivial
  refine ⟨fun hv i a b hi ha ha' hb hb' => ⟨fun hm => ?_, fun hm h840 => ?_⟩, ?_, ?_, fun w hw hr hc hp => ⟨fun hl => ?_, fun hl => ?_⟩,
    fun hl => ?_, fun hl hr hst hc hp => ?_, fun hin hout hc => ⟨fun hf => ?_, fun hf => ?_⟩, fun h17 h18 h12 h13 => ?_, fun h17 => ?_,
    fun hst => ?_, fun hr hst hf => ?_⟩
  · have hzero : s.pair i = {} := by rw [State.pair, hm, tget]
    have hplain : (s.pair i).offA = 0 ∧ (s.pair i).offB = 0 ∧ (s.pair i).split = false ∧ (s.pair i).band = 0 ∧
        (s.pair i).diffAt = none := by
      rw [hzero]
      exact ⟨rfl, rfl, rfl, rfl, rfl⟩
    obtain ⟨hpa, hpb, hha, hhb, -⟩ := samplePair_plain (now := s.now) hplain ⟨ha, ha'⟩ ⟨hb, hb'⟩
    have hs := samplePairs_single hpairs (fun e he => by rw [hm] at he; cases he) hplain ⟨ha, ha'⟩ ⟨hb, hb'⟩
    have hexec := execThermalSample_plane (a := a) (b := b) hi hv ho
    generalize samplePair s.now (s.pair i) a b = q at *
    have htwf := twf_tset (k := i) (v := q) hpairs
    have hcool : tooHot (samplePairs s [(i, a, b)]) = false := by
      rw [hs, tooHot, List.any_eq_false]
      intro e he
      have hhot : q.hotA ≤ 1 ∧ q.hotB ≤ 1 := by
        rw [hha, hhb, hzero]
        constructor <;> split <;> decide
      have hcold : ¬(2 ≤ e.2.hotA ∨ 2 ≤ e.2.hotB) := by
        obtain he | rfl := mem_of_mem_tset he
        · obtain he | rfl := mem_of_mem_tset he
          · rw [hm] at he
            cases he
          · show ¬(2 ≤ q.hotA ∨ 2 ≤ q.hotB)
            omega
        · show ¬(2 ≤ q.hotA ∨ 2 ≤ q.hotB)
          omega
      simpa using hcold
    rw [if_neg (by simp [hcool])] at hexec
    have hpi : (samplePairs s [(i, a, b)]).pair i = { q with ctl := max a b } := hs ▸ tget_tset htwf
    have hpj (j : Nat) (hj : j ≠ i) : (samplePairs s [(i, a, b)]).pair j = {} := by
      rw [hs]
      refine (tget_tset_ne htwf hj).trans ((tget_tset_ne hpairs hj).trans ?_)
      rw [hm, tget]
    obtain ⟨hkeep, h760, h800, hover⟩ := thermalSteps_plane hi (by rw [hpi]) (fun j hj => by rw [hpj j hj])
    have hpair : (thermalSteps (samplePairs s [(i, a, b)])).pair i = { q with ctl := max a b } := by
      rw [State.pair, hkeep]
      exact hpi
    refine ⟨_, hexec, by rw [hpair]; exact hpa, by rw [hpair]; exact hpb, by rw [hpair], fun h => ?_, fun h h' hd => ?_, hover⟩
    · rw [h760 h, hs]
      rfl
    · rw [h800 h h' (by rw [hs]; exact hd), hs]
      rfl
  · have hpi0 : s.pair i = { hotA := 1 } := by rw [State.pair, hm, tget_single]
    have hplain : (s.pair i).offA = 0 ∧ (s.pair i).offB = 0 ∧ (s.pair i).split = false ∧ (s.pair i).band = 0 ∧
        (s.pair i).diffAt = none := by
      rw [hpi0]
      exact ⟨rfl, rfl, rfl, rfl, rfl⟩
    obtain ⟨-, -, hha, -, -⟩ := samplePair_plain (now := s.now) hplain ⟨ha, ha'⟩ ⟨hb, hb'⟩
    have hsighted : ∀ e ∈ s.thm.pairs, ownReading e.2 ≠ none := by
      intro e he
      rw [hm, List.mem_singleton] at he
      rw [he]
      exact Option.some_ne_none _
    have hs := samplePairs_single hpairs hsighted hplain ⟨ha, ha'⟩ ⟨hb, hb'⟩
    have hexec := execThermalSample_plane (a := a) (b := b) hi hv ho
    generalize samplePair s.now (s.pair i) a b = q at *
    rw [hpi0, if_pos h840] at hha
    have hpi : tget {} (samplePairs s [(i, a, b)]).thm.pairs i = { q with ctl := max a b } := hs ▸ tget_tset (twf_tset hpairs)
    have hhot : tooHot (samplePairs s [(i, a, b)]) = true := by
      have hmem := tget_eq_default_or_mem ({} : Pair) (samplePairs s [(i, a, b)]).thm.pairs i
      rw [hpi] at hmem
      obtain hz | hmem := hmem
      · have := congrArg Pair.hotA hz
        simp [hha] at this
      · exact List.any_eq_true.2 ⟨_, hmem, decide_eq_true (.inl hha.ge)⟩
    rw [if_pos hhot, force, if_pos rfl] at hexec
    obtain ⟨h1, h2, h3, -⟩ := hardOff_reads (interruptLoad (samplePairs s [(i, a, b)]) 5)
    exact ⟨_, hexec, h1, h2, h3⟩
  · refine ⟨_, if_neg (by simp [ho]), fun h => (refreshCap_rth _).trans ?_, fun h => (refreshCap_rth _).trans ?_,
      (refreshCap_eff _).2, (refreshCap_eff _).1⟩
    · show (if p < 1000 then s else _ : State).thm.rth = _
      rw [if_pos h]
    · show (if p < 1000 then s else _ : State).thm.rth = _
      rw [if_neg (by omega)]
      rfl
  · obtain ⟨t, hexec, hpow, hstep, heff, hreq⟩ := execClockStepControl_reads (p := p) ho
    refine ⟨t, hexec, hpow, hstep, heff, fun h => ?_, fun h h0 => ?_, fun w h h0 h6 hfit hw hl hd hn => ?_⟩
    all_goals rw [hreq, stepAsk]
    · exact if_pos h
    · simp [Nat.not_lt.2 h, h0, sinceWhen, lasted]
    · have hmin : min 6 (s.pwr.step - 1) = s.pwr.step - 1 := by omega
      simp [Nat.not_lt.2 h, h0, h, hfit, hw, hl, hd, hn, hmin, sinceWhen, lasted]
  · have hf := force_slow hr hc hp
    exact ⟨force s 4, by rw [exec_capBelowStep6, execCapBelowStep6, if_pos (by simp [hw, lasted, hl, hc])], by rw [hf], by rw [hf]⟩
  · rw [exec_capBelowStep6, execCapBelowStep6, if_neg (by simp [hw, lasted, hl])]
  · rw [exec_coolantStop, execCoolantStop, if_neg (by simp [hl])]
  · have hal := aside_alarm { s with thm := { s.thm with stop := true } } 1
    have hexec : exec .coolantStop s = .next (force (alarm { s with thm := { s.thm with stop := true } } 1) 1) := by
      rw [exec_coolantStop, execCoolantStop, if_pos hl, coolantStop, if_neg (by simp [hc]), if_pos (by simp [hr, hst])]
    generalize alarm { s with thm := { s.thm with stop := true } } 1 = u at *
    obtain ⟨h1, h2, h3, -, -, -, -, hthm, -⟩ := force_frost (s := u) (c := 1) (by rw [hal.bg]; exact hr) (by rw [hal.pwr, hc]; rfl)
      (by rw [hal.pwr]; exact hp) (by rw [hal.pwr]; exact hst) (by decide)
    exact ⟨_, hexec, h1, h2, h3, by rw [hthm, hal.thm]⟩
  · obtain ⟨hthm, hpwr⟩ := unforce_reads s 1
    refine ⟨unforce s 1, by rw [exec_coolantRestored, execCoolantRestored, if_pos (by simp [hin, hout, hf, hc])], ?_, by rw [hthm]⟩
    rw [hpwr]
    simp [hc]
  · rw [exec_coolantRestored, execCoolantRestored, if_neg (by simp [hf])]
  · have hexec : exec .dewPointCheck s = execDewPointCheck s := rfl
    simp only [execDewPointCheck] at hexec
    rw [if_neg (by simpa using ⟨h17, h18⟩), if_neg (by simpa [ho] using ⟨h12, h13⟩)] at hexec
    by_cases hlow : s.thm.inlet < dewPoint s s.thm.mhum s.thm.amb
    · rw [if_pos hlow] at hexec
      refine ⟨_, hexec, ?_, fun _ => ?_, fun h => ?_, fun h => ?_⟩
      · split
        · rfl
        · rw [(aside_alarm _ 3).thm]
          rfl
      · split
        · rfl
        · rw [(aside_alarm _ 3).thm]
      · omega
      · omega
    · rw [if_neg hlow] at hexec
      by_cases hhigh : dewPoint s s.thm.mhum s.thm.amb + 8 ≤ s.thm.inlet
      · rw [if_pos hhigh] at hexec
        exact ⟨_, hexec, rfl, fun h => absurd h hlow, fun _ => rfl, fun _ h => by omega⟩
      · rw [if_neg hhigh] at hexec
        exact ⟨_, hexec, rfl, fun h => absurd h hlow, fun h => absurd h hhigh, fun _ _ => rfl⟩
  · rw [exec_dewPointCheck, execDewPointCheck, if_pos (by simpa using .inl h17)]
  · rw [exec_sensorRecal, execSensorRecal, askRecal, if_neg (by simp [hst])]
  · have hexec : exec .sensorRecal s = .next (calibrate { s with thm := { s.thm with refused := false } }) :=
      congrArg Host.Outcome.next (if_pos ⟨hr, hst, hf⟩)
    have hnodup : ((List.range nPairs).filter (pairThere { s with thm := { s.thm with refused := false } })).Nodup :=
      List.nodup_range.filter _
    obtain ⟨honly, hin, -⟩ := pair_foldl_calPair hnodup (s := writeRecord { s with thm := { s.thm with refused := false } }) hpairs
    rw [calibrate] at hexec
    generalize List.foldl _ (writeRecord { s with thm := { s.thm with refused := false } }) _ = u at *
    obtain ⟨honly', hreads⟩ := setReadings_pairs ((List.range nPairs).filter
      (pairThere { s with thm := { s.thm with refused := false } })) honly.twf
    obtain ⟨l, n, hl, -⟩ := honly.trans honly'
    refine ⟨_, hexec, by rw [hl]; rfl, fun i hi hthere => ?_⟩
    have hpair := hreads i
    rw [hin i (List.mem_filter.2 ⟨List.mem_range.2 hi, hthere⟩)] at hpair
    rw [hpair]
    exact ⟨rfl, rfl, fun h => if_pos h, fun h => if_pos h⟩

end Sys2Proof.Proofs
end

section
/-! PROOFS. Bring-up, reset hold, tests and votes. -/

namespace Sys2Proof.Proofs

open Sys2Proof Sys2Proof.Machine Sys2Proof.Safety Sys2Proof.Laws

/-- The Isobar station alone is written when its bypass follows the engine. -/
theorem isoSync_only (s : State) : ∃ i, isoSync s = { s with iso := i } := by
  rw [isoSync]
  split
  · exact ⟨_, rfl⟩
  · split <;> exact ⟨_, rfl⟩

/-! ### Sessions that end with reset or power -/

theorem onlyBinding_listUnfinished (s : State) (n : Nat) : OnlyBinding s (listUnfinished s n) := by
  obtain ⟨l, h, -⟩ := onlyListed_listUnfinished s n
  exact ⟨_, _, _, _, h, rfl, rfl, rfl⟩

theorem onlyBinding_stopSession (s : State) (r : Nat) : OnlyBinding s (stopSession s r) := by
  rw [stopSession]
  dsimp only
  split
  · refine .trans ((onlyBinding_listUnfinished s s.wst.lastSlot).trans ?_) (onlyBinding_wstEnd ..)
    exact ⟨_, _, _, _, rfl, rfl, rfl, rfl⟩
  · split
    · refine .trans ?_ (onlyBinding_wstEnd ..)
      exact ⟨_, _, _, _, rfl, rfl, rfl, rfl⟩
    · exact onlyBinding_wstEnd ..

theorem onlyBinding_endSessions (s : State) : OnlyBinding s (endSessions s) := by
  rw [endSessions]
  cases s.wst.sub with
  | none =>
    dsimp only
    split
    · exact onlyBinding_stopSession ..
    · exact .refl s
  | some x =>
    dsimp only
    have h : OnlyBinding s { s with wst := { s.wst with sub := none, fenced := x.lfield :: s.wst.fenced } } := ⟨_, _, _, _, rfl, rfl, rfl, rfl⟩
    split
    · exact h.trans (onlyBinding_stopSession ..)
    · exact h

/-! ### Fences of cores -/

/-- A fence of a field writes of the map and the records only these. -/
theorem fenceField_bg (s : State) {pf st : Nat} : ∃ fs bm n g, (fenceField s pf st).bg =
    { s.bg with fieldSt := fs, badMask := bm, recSeq := n, recGood := g } := by
  by_cases h : fieldState s pf = 0
  · obtain ⟨-, hbg, -⟩ := (onlyBinding_fenceField st h).keeps
    exact ⟨_, _, _, _, hbg⟩
  · rw [fenceField, if_pos h]
    exact ⟨_, _, _, _, rfl⟩

theorem aside_startSubst (s : State) : Aside s (startSubst s) := by
  rw [startSubst]
  split
  · split
    · exact .refl s
    · constructor <;> rfl
  · exact .refl s

theorem aside_reportLost (s : State) : Aside s (reportLost s) := by
  have h : Aside s (s.hub.lostRecs.foldl (fun s r => tagEvent s r.tenant 10 1 0 r.tag) s) := .foldl (fun _ _ => aside_tagEvent ..) _
  exact h.trans (aside_beside rfl rfl)

/-- Ready, but for what is reported and substituted beside it. -/
theorem becomeReady_aside (s : State) : Aside (writeRecord { s with
    plane := { clockOn := true, lateWt := s.plane.lateWt, lateKv := s.plane.lateKv }
    jet := { s.jet with badMask := s.bg.badMask, mapLive := true }
    ldr := { s.ldr with state := 0 }
    pwr := { s.pwr with state := 5, step := 0, stepReq := none }
    bg := { s.bg with
      ready := true, phaseOn := false, clean := true, coldDue := false, virFails := 0
      lastMs := min (2 ^ 20 - 1) ((s.now - s.bg.relAt) / 1000)
      fullAt := if s.bg.path = 2 then s.bg.fullAt else s.now
      full := s.bg.full && s.bg.path == 2 } }) (becomeReady s) :=
  .ite ((aside_reportLost _).trans (aside_startSubst _)) (aside_reportLost _)

/-- A core's bit stays set in the map when a field is fenced. -/
theorem fenceField_bit {s : State} {pf st pcl k : Nat} (hst : st ≠ 0) (hpcl : pcl / 12 = pf) (hk : k < 32)
    (h : bit (tget 0 s.bg.badMask pcl).toNat k = true) : bit (tget 0 (fenceField s pf st).bg.badMask pcl).toNat k = true := by
  by_cases hfs : fieldState s pf = 0
  · obtain ⟨-, -, hmask, -⟩ := fenceField_reads hfs hst
    have hall := hmask (pcl % 12) (Nat.mod_lt _ (by decide))
    rw [show 12 * pf + pcl % 12 = pcl by omega] at hall
    rw [hall]
    have hones : ∀ k < 32, bit (0xFFFFFFFF#32).toNat k = true := by decide
    exact hones k hk
  · rw [fenceField, if_pos hfs]
    exact h

/-- A core that is fenced is masked out; of what bring-up reads, nothing else changes. -/
theorem fenceCore_reads (s : State) (c : Nat) : bit (tget 0 (fenceCore s c).bg.badMask (c / 32)).toNat (c % 32) = true ∧
    (fenceCore s c).pwr = s.pwr ∧ ∃ fs bm n g, (fenceCore s c).bg = { s.bg with fieldSt := fs, badMask := bm, recSeq := n, recGood := g } := by
  have hset : bit (tget 0 (tmod 0 s.bg.badMask (c / 32) (· ||| 1#32 <<< (c % 32))) (c / 32)).toNat (c % 32) = true := by
    have hbit : (tget 0 s.bg.badMask (c / 32) ||| 1#32 <<< (c % 32)).getLsbD (c % 32) = true := by
      simp [Nat.mod_lt]
    have hne : tget 0 s.bg.badMask (c / 32) ||| 1#32 <<< (c % 32) ≠ 0 := by
      intro h
      rw [h] at hbit
      simp at hbit
    rw [tmod, tget_tset_of_ne_default hne, bit_eq_testBit]
    exact hbit
  rw [fenceCore]
  dsimp only
  split
  · obtain ⟨-, -, hpwr, -⟩ := fenceField_atLeast (s := writeRecord { s with bg := { s.bg with
      badMask := tmod 0 s.bg.badMask (pclOf c) (· ||| 1#32 <<< pcOf c) } }) (pf := pfOf c) one_ne_zero
    obtain ⟨fs, bm, n, g, hbg⟩ := fenceField_bg (writeRecord { s with bg := { s.bg with
      badMask := tmod 0 s.bg.badMask (pclOf c) (· ||| 1#32 <<< pcOf c) } }) (pf := pfOf c) (st := 1)
    refine ⟨fenceField_bit one_ne_zero ?_ (Nat.mod_lt _ (by decide)) hset, hpwr, fs, bm, n, g, hbg⟩
    rw [pfOf]
    omega
  · exact ⟨hset, rfl, _, _, _, _, rfl⟩

/-! ### The start of the phases -/

/-- What the start of the phases writes of the map's record. -/
def StartedAs (b b' : Bg) : Prop := b'.phase = b.phase ∧ b'.phaseOn = b.phaseOn ∧ b'.cwait = b.cwait ∧ b'.perst = b.perst ∧
  b'.hotWait = b.hotWait

theorem repairLine_startedAs {b : Bg} {s : State} (h : StartedAs b s.bg) (line : Nat) : StartedAs b (repairLine s line).bg := by
  rw [repairLine]
  dsimp only
  split <;> exact h

theorem repairLines_startedAs {b : Bg} {s : State} (h : StartedAs b s.bg) : StartedAs b (repairLines s).bg := by
  rw [repairLines]
  generalize s.bg.flagged = l
  induction l generalizing s with
  | nil => exact h
  | cons a r ih => exact ih (repairLine_startedAs h a)

theorem onlyPairs_calibrate {s : State} (h : twf ({} : Pair) s.thm.pairs = true) : OnlyPairs (writeRecord s) (calibrate s) := by
  obtain ⟨honly, -⟩ := pair_foldl_calPair (l := (List.range nPairs).filter (pairThere s)) (List.nodup_range.filter _)
    (s := writeRecord s) h
  obtain ⟨honly', -⟩ := setReadings_pairs ((List.range nPairs).filter (pairThere s)) honly.twf
  exact honly.trans honly'

theorem calibrate_bg {s : State} (h : twf ({} : Pair) s.thm.pairs = true) :
    (calibrate s).bg = { s.bg with recSeq := s.bg.recSeq + 1, recGood := true } := by
  obtain ⟨l, n, hl, -⟩ := onlyPairs_calibrate h
  rw [hl]
  rfl

/-- Phase 2 has begun, and waits for coolant: whether sensors are calibrated or lines repaired matters to neither. -/
theorem startPhases_bg {s : State} (h : twf ({} : Pair) s.thm.pairs = true) : (startPhases s).bg.phase = 2 ∧
    (startPhases s).bg.phaseOn = true ∧ (startPhases s).bg.cwait = true ∧ (startPhases s).bg.perst = s.bg.perst ∧
    (startPhases s).bg.hotWait = s.bg.hotWait := by
  have hstart (u : State) (hu : twf ({} : Pair) u.thm.pairs = true) (cold flow : Prop) [Decidable cold] [Decidable flow] :
      StartedAs u.bg (isoSync (if cold then (if flow then calibrate u else u) else repairLines u)).bg := by
    rw [(aside_isoSync _).bg]
    split
    · split
      · rw [calibrate_bg hu]
        exact ⟨rfl, rfl, rfl, rfl, rfl⟩
      · exact ⟨rfl, rfl, rfl, rfl, rfl⟩
    · exact repairLines_startedAs ⟨rfl, rfl, rfl, rfl, rfl⟩
  exact hstart { s with
    bg := { s.bg with
      path := if s.bg.coldDue then 0 else if fastOpen s then 2 else 1
      phase := 2, phaseOn := true, cwait := true, relAt := s.now, virFails := 0, virRetryAt := none }
    pwr := { s.pwr with causes := s.pwr.causes.filter (· != 3) } } h _ _

/-! ### Phases -/

theorem execBringup_runs {s t : State} {found kept : List Finding} (hon : s.bg.phaseOn = true)
    (hvir : s.bg.phase = 2 → s.pwr.virEn = true ∧ s.pwr.virOk = true)
    (hkept : (found.filter (findingOk s)).filter (fun f => findingPhase f == s.bg.phase) = kept) (ht : kept.foldl takeFinding s = t) :
    exec (.bringupPhaseComplete found) s = if t.bg.stopc ≠ 0 then .next (virRelease t)
      else if t.pwr.causes.contains 3 then .next (virRelease { t with bg := { t.bg with phaseOn := false } })
      else .next (phaseEnd t) := by
  subst ht hkept
  rw [exec_bringupPhaseComplete, execBringupPhaseComplete]
  refine if_neg ?_
  by_cases h2 : s.bg.phase = 2
  · simp [hon, hvir h2]
  · simp [hon, h2]

/-- A phase that found nothing, with nothing to stop for. -/
theorem execBringup_clean {s : State} (hon : s.bg.phaseOn = true) (hvir : s.bg.phase = 2 → s.pwr.virEn = true ∧ s.pwr.virOk = true)
    (hstop : s.bg.stopc = 0) (hc : s.pwr.causes = []) : exec (.bringupPhaseComplete []) s = .next (phaseEnd s) := by
  rw [execBringup_runs (kept := []) hon hvir rfl rfl]
  simp [hstop, hc]

theorem phaseEnd_middle {s : State} (h3 : 3 ≤ s.bg.phase) (h5 : s.bg.phase ≤ 5) :
    phaseEnd s = { s with bg := { s.bg with phase := s.bg.phase + 1 } } := by
  rw [phaseEnd]
  split
  · omega
  · omega
  · omega
  · rfl

theorem phaseEnd_ready {s : State} (h : s.bg.phase = 6) : phaseEnd s = becomeReady s := by
  rw [phaseEnd]
  split
  · omega
  · omega
  · rfl
  · rename_i h6
    exact absurd h h6

/-! ### The test after a squall -/

theorem testWord_valid {res kind pf cl pc dur : Nat} (hres : res ≤ 2) (hkind : kind ≤ 1) (hpf : pf < 48) (hcl : cl < 12) (hpc : pc < 32) :
    bit (testWord res kind pf cl pc dur).toNat 63 = true := by
  have hdur : dur % 2 ^ 32 < 2 ^ 32 := Nat.mod_lt _ (by decide)
  rw [testWord]
  generalize dur % 2 ^ 32 = n at hdur
  simp only [bit, BitVec.toNat_ofNat, Nat.reducePow, decide_eq_true_eq] at *
  omega

/-- The unit's test is over, and its word stands. -/
def tested (s : State) (w : BitVec 64) : State := { s with bg := { s.bg with test := w, testFor := none } }

/-- The clean flag has gone. -/
def unclean (s : State) : State := { s with bg := { s.bg with clean := false } }

/-- The test of a core: its word is valid, and a failure fences the core. -/
theorem exec_postSquallTest_core {s : State} {c : Nat} (res dur : Nat) (hc : c < nCores) (ht : s.bg.testFor = some (0, c))
    (hrun : s.running = false) : ∃ w : BitVec 64, bit w.toNat 63 = true ∧ exec (.postSquallTest res dur) s =
      if res < 2 then .next (tested s w) else .next (fenceCore (unclean (tested s w)) c) := by
  have hc' : c < 18432 := hc
  refine ⟨testWord (min res 2) 0 (c / 32 / 12) (c / 32 % 12) (c % 32) dur,
    testWord_valid (by omega) (by omega) (by omega) (by omega) (by omega), ?_⟩
  rw [exec_postSquallTest, execPostSquallTest, ht]
  exact if_neg (by simp [hrun])

/-- Settles O56. -/
theorem bringupActs : Obligations.BringupActs := by
  unfold Obligations.BringupActs
  intro s hok
  dsimp only
  have hpairs : twf ({} : Pair) s.thm.pairs = true := (sound_of_tablesOk hok).pairs trivial
  have htenants : twf ({} : Tenant) s.tenants = true := (sound_of_tablesOk hok).tenants trivial
  refine ⟨fun hi ok hv => ?_, fun hi ok hv => ?_, fun hv => ?_, fun hp => ?_, fun hp hv => ⟨fun hiso => ?_, fun hiso hstop hon hr hhot => ?_⟩,
    fun h2 hon hcw hin hout hb => ⟨fun hf => ?_, fun hf => ?_⟩,
    fun hon hstop hc => ⟨fun h1 hp => ?_, fun h2 hok => ?_, fun h2 hen hok => ?_, fun h3 h5 => ?_, fun h3 => ?_, fun h6 => ?_, fun c hcn h6 => ?_⟩,
    fun c dur hcn ht => ⟨fun hrun r => ?_, fun hrun => ⟨?_, ?_⟩⟩, fun ht => ?_, fun hv hvote => ?_, fun w hv hvote hw hr => ?_⟩
  · exact ⟨_, if_neg (by simp [hv]), rfl, rfl, rfl, rfl, rfl, rfl, rfl, rfl, rfl, rfl⟩
  · exact if_pos hv
  · obtain ⟨-, hkv, hwst, hpwr, -, -, -⟩ := losePower_reads s
    obtain ⟨i, hi⟩ := isoSync_only { coldState (losePower s) with bg := { (coldState (losePower s)).bg with vsb := false, perst := true } }
    refine ⟨_, if_neg (by simp [hv]), ?_⟩
    rw [hi]
    exact ⟨rfl, rfl, rfl, rfl, rfl, rfl, rfl, rfl, hwst⟩
  · obtain ⟨i, hi⟩ := isoSync_only (warmState (endSessions s))
    refine ⟨_, (if_neg (by simp [hp])).trans (congrArg Host.Outcome.next hi), rfl, rfl, rfl, rfl, rfl, ?_⟩
    obtain ⟨j, w, ho, o, he, hw, -⟩ := onlyBinding_endSessions s
    rw [he]
    refine ⟨rfl, hw, fun n => ?_⟩
    have htn : tget {} (tmap {} warmTenant s.tenants) n = warmTenant (s.tenant n) := tget_tmap rfl htenants
    have hkept : (warmTenant (s.tenant n)).gCfg = (s.tenant n).gCfg ∧ (warmTenant (s.tenant n)).level = (s.tenant n).level ∧
        (warmTenant (s.tenant n)).quota = (s.tenant n).quota ∧ (warmTenant (s.tenant n)).sqBase = 0 ∧
        (warmTenant (s.tenant n)).mse = false ∧ (warmTenant (s.tenant n)).bme = false := ⟨rfl, rfl, rfl, rfl, rfl, rfl⟩
    rwa [← htn] at hkept
  · rw [exec_perstRelease, execPerstRelease, if_neg (by simp [hp, hv]), if_pos hiso]
  · have hstart := startPhases_bg (s := { s with bg := { s.bg with perst := false, relWait := false } }) hpairs
    have hend : endHold s = startPhases { s with bg := { s.bg with perst := false, relWait := false } } := by
      rw [endHold, tryPhases, if_pos (by simp [hv, hstop, hon, hr, hhot])]
      obtain ⟨-, -, -, -, hwait⟩ := hstart
      exact if_neg (by simp [hwait.trans hhot])
    obtain ⟨hphase, hon', hcw, hperst, -⟩ := hstart
    refine ⟨endHold s, ?_, ?_⟩
    · rw [exec_perstRelease, execPerstRelease, if_neg (by simp [hp, hv]), if_neg (by simp [hiso])]
    · rw [hend]
      exact ⟨hperst, hphase, hon', hcw⟩
  · exact ⟨_, if_pos ⟨hon, h2, hcw, hin, hout, hf, hb⟩, rfl, rfl, rfl, h2⟩
  · exact if_neg (by simp [hf])
  · have hend : phaseEnd s = { s with bg := { s.bg with phaseOn := false } } := by
      rw [phaseEnd, h1]
      exact if_neg (by simp [hp])
    rw [execBringup_clean hon (by omega) hstop hc, hend]
  · exact if_pos (by simp [h2, hok])
  · have hexec := execBringup_clean hon (fun _ => ⟨hen, hok⟩) hstop hc
    rw [phaseEnd, h2] at hexec
    cases hb : bit s.pnl.pres.toNat 17 with
    | false => exact ⟨_, hexec.trans (congrArg _ (if_neg (by simp [hb]))), rfl, (Bool.or_false _).symm, rfl, rfl⟩
    | true => exact ⟨_, hexec.trans (congrArg _ (if_pos hb)), rfl, (Bool.or_true _).symm, rfl, rfl⟩
  · rw [execBringup_clean hon (by omega) hstop hc, phaseEnd_middle h3 h5]
  · have hkept : (([Finding.planeRef].filter (findingOk s)).filter fun f => findingPhase f == s.bg.phase) = [.planeRef] := by
      rw [h3]
      rfl
    have hexec := execBringup_runs hon (by omega) hkept rfl
    exact ⟨_, hexec.trans (if_pos (show (3 : Nat) ≠ 0 by decide)), rfl, rfl, rfl⟩
  · have hexec := execBringup_clean hon (by omega) hstop hc
    rw [phaseEnd_ready h6] at hexec
    obtain ⟨-, hplane, hjet, hldr, -, -, hpwr, -, hbg, -⟩ := becomeReady_aside s
    exact ⟨_, hexec, by rw [hbg]; rfl, by rw [hbg]; rfl, by rw [hpwr]; rfl, by rw [hplane]; rfl, by rw [hplane]; rfl, by rw [hplane]; rfl,
      by rw [hjet]; rfl, by rw [hldr]; rfl⟩
  · have hkept : (([Finding.core c].filter (findingOk s)).filter fun f => findingPhase f == s.bg.phase) = [.core c] := by
      rw [h6, List.filter_cons_of_pos (show findingOk s (.core c) = true from decide_eq_true hcn)]
      rfl
    obtain ⟨hbit, hpwr, fs, bm, n, g, hbg⟩ := fenceCore_reads s c
    have hexec := execBringup_runs (t := fenceCore s c) hon (by omega) hkept rfl
    rw [if_neg (by rw [hbg]; simpa using hstop), if_neg (by rw [hpwr]; simp [hc]),
      phaseEnd_ready (by rw [hbg]; exact h6)] at hexec
    obtain ⟨-, -, hjet, -, -, -, -, -, hbg', -⟩ := becomeReady_aside (fenceCore s c)
    exact ⟨_, hexec, by rw [hbg']; rfl, by rw [hjet]; exact hbit⟩
  · rw [exec_postSquallTest, execPostSquallTest, ht]
    exact if_pos hrun
  · obtain ⟨w, hw, hexec⟩ := exec_postSquallTest_core 0 dur hcn ht hrun
    exact ⟨_, hexec, rfl, hw, rfl⟩
  · obtain ⟨w, -, hexec⟩ := exec_postSquallTest_core 2 dur hcn ht hrun
    obtain ⟨hbit, -, fs, bm, n, g, hbg⟩ := fenceCore_reads (unclean (tested s w)) c
    exact ⟨_, hexec, by rw [hbg]; rfl, by rw [hbg]; rfl, hbit⟩
  · rw [exec_postSquallTest, execPostSquallTest, ht]
  · rw [exec_barographVoteDisagreement, execBarographVoteDisagreement, if_neg (by simp [hv]), hvote]
    rfl
  · have hagain : decide (s.now < w + 1000000) = true := decide_eq_true hw
    refine ⟨virRelease { s with bg := { s.bg with clean := false, voteAt := some s.now, stopc := 5, phaseOn := false } }, ?_, rfl, rfl, rfl, rfl⟩
    rw [exec_barographVoteDisagreement, execBarographVoteDisagreement, if_neg (by simp [hv]), hvote]
    simp only [hagain, hr, Bool.not_false, Bool.and_self, if_true]

end Sys2Proof.Proofs
end

section
/-! PROOFS. The service panel: attention, removal, touch and presence. -/

namespace Sys2Proof.Proofs

open Sys2Proof Sys2Proof.Machine Sys2Proof.Safety Sys2Proof.Laws

/-- An alarm is a frame of the Isobar station, if it is open, and a free choice. -/
theorem alarm_only (s : State) (c : Nat) : ∃ i o n, alarm s c = { s with iso := i, out := o, free := n } := by
  rw [alarm, isoAlarm, isoSend]
  split <;> exact ⟨_, _, _, rfl⟩

/-! ### Removal -/

/-- The removal's end, of an engine that is up. -/
theorem removalEnd_ready {s : State} (hc : s.pwr.causes = [3]) (hr : s.bg.ready = true) : ∃ i, removalEnd s = { s with
    pwr := { s.pwr with parkS := none, causes := [] }, hub := { s.hub with admitOff := false }, iso := i } := by
  have hrem : removing s = true := by rw [removing, hc]; rfl
  have htry (u : State) (hu : u.bg.ready = true) : tryPhases u = u := if_neg (by simp [hu])
  obtain ⟨i, hi⟩ := isoSync_only { s with
    pwr := { s.pwr with parkS := none, causes := s.pwr.causes.filter (· != 3) }, hub := { s.hub with admitOff := false } }
  have hun : unforce { s with pwr := { s.pwr with parkS := none }, hub := { s.hub with admitOff := false } } 3 = { s with
      pwr := { s.pwr with parkS := none, causes := s.pwr.causes.filter (· != 3) }, hub := { s.hub with admitOff := false }, iso := i } := hi
  have hcauses : s.pwr.causes.filter (· != 3) = [] := by rw [hc]; rfl
  rw [hcauses] at hun
  refine ⟨i, ?_⟩
  rw [removalEnd, if_neg (by simp [hrem]), hun]
  exact htry _ hr

theorem aside_holdUnparked (s : State) (n : Nat) : Aside s (holdUnparked s n) :=
  .ite ((aside_setSlot ..).trans (aside_seqEvent ..))
    (.ite (.ite (aside_setSlot ..) ((aside_setSlot ..).trans (aside_seqEvent ..))) (.refl s))

/-- The forced path of a removal takes the engine to Frost. -/
theorem removalForce_frost {s : State} (hr : s.bg.ready = true) (hc : s.pwr.causes.filter (· != 3) = []) (hst : 1 < s.pwr.state) :
    (removalForce s).pwr.state = 1 ∧ (removalForce s).pwr.causes = [3] ∧ (removalForce s).pwr.virEn = false ∧
    (removalForce s).pwr.parkS = none ∧ (removalForce s).hub.admitOff = s.hub.admitOff := by
  have hhold : Aside s ((s.hub.slots.map (·.1)).foldl holdUnparked s) := .foldl aside_holdUnparked _
  rw [removalForce]
  dsimp only
  generalize (s.hub.slots.map (·.1)).foldl holdUnparked s = u at *
  obtain ⟨h1, h2, h3, -, -, -, -, -, hadmit, hpark⟩ := force_frost (s := { u with pwr := { u.pwr with parkS := none } }) (c := 3)
    (by rw [hhold.bg]; exact hr) (by rw [hhold.pwr]; exact hc) rfl (by rw [hhold.pwr]; exact hst) (by decide)
  have hsync := aside_isoSync (force { u with pwr := { u.pwr with parkS := none } } 3)
  rw [hsync.pwr, hsync.admitOff]
  exact ⟨h1, h2, h3, hpark, hadmit.trans hhold.admitOff⟩

/-- The state in which a removal is asked for. -/
def removalAsked (s : State) : State := alarm { s with
  hub := { (askParkAll s).hub with admitOff := true }
  pwr := { s.pwr with causes := s.pwr.causes ++ [3] } } 4

theorem removalAsked_reads (s : State) : (removalAsked s).hub = { (askParkAll s).hub with admitOff := true } ∧
    (removalAsked s).pwr = { s.pwr with causes := s.pwr.causes ++ [3] } ∧ (removalAsked s).bg = s.bg ∧
    (removalAsked s).tenants = s.tenants := by
  obtain ⟨i, o, n, h⟩ := alarm_only { s with
    hub := { (askParkAll s).hub with admitOff := true }, pwr := { s.pwr with causes := s.pwr.causes ++ [3] } } 4
  rw [removalAsked, h]
  exact ⟨rfl, rfl, rfl, rfl⟩

theorem exec_removePress_asked {s : State} (ho : s.pwr.off = false) (hc : s.pwr.causes = []) : exec .removePress s =
    if !s.bg.ready then .next (removalAsked s)
    else if s.pwr.state < 4 || parksOver (removalAsked s) then .next (removalForce (removalAsked s))
    else .next { removalAsked s with pwr := { (removalAsked s).pwr with parkS := some (s.now + max 1 s.pnl.parkS * 1000000) } } :=
  if_neg (by simp [ho, removing, hc])

theorem parksOver_removalAsked (s : State) : parksOver (removalAsked s) = parksOver s := by
  obtain ⟨hhub, -, -, hten⟩ := removalAsked_reads s
  simp only [parksOver, hhub, snpOn, State.tenant, hten]
  rfl

/-! ### Touch -/

theorem padOver_iff {l : List Nat} {mean x : Nat} : padOver l mean x = true ↔ 2 * l.sum + x * l.length ≤ 2 * mean * l.length ∧ l ≠ [] := by
  simp [padOver]

/-- A pad's mean is taken, and the handle is touched while a pad is. -/
theorem exec_touchDetect_pad {s : State} {pad mean : Nat} {c : AdcCh} (ho : s.pwr.off = false) (hch : twf ({} : AdcCh) s.adc.ch = true)
    (hpad : pad < 4) (hc : padMean (max 1 s.adc.thr) (s.chan (19 + pad)) mean = c) : Does (.touchDetect pad mean) s fun t =>
      t.chan (19 + pad) = c ∧ (c.touched = true → t.pnl.touch = true) := by
  have hget : tget {} (tmod {} s.adc.ch (19 + pad) fun c => padMean (max 1 s.adc.thr) c mean) (19 + pad) = c := (tget_tset hch).trans hc
  refine ⟨_, (if_neg (by omega)).trans (if_neg (by simp [ho])), hget, fun ht => ?_⟩
  exact List.any_eq_true.2 ⟨pad, List.mem_range.2 hpad, (congrArg AdcCh.touched hget).trans ht⟩

/-! ### Presence -/

theorem setPres_eq (s : State) (n : Nat) (v : Bool) : setPres s n v = { s with
    pnl := { s.pnl with pres := if v then s.pnl.pres ||| 1#18 <<< n else s.pnl.pres &&& ~~~(1#18 <<< n) }
    thm := { s.thm with cplIn := if n = 14 then v else s.thm.cplIn, cplOut := if n = 15 then v else s.thm.cplOut } } := by
  by_cases h14 : n = 14
  · subst h14
    rfl
  · by_cases h15 : n = 15
    · subst h15
      rfl
    · rw [setPres, if_neg h14, if_neg h15]
      · exact h14
      · exact h15

theorem setPres_pres (s : State) {n : Nat} (v : Bool) (hn : n < 18) : bit (setPres s n v).pnl.pres.toNat n = v ∧
    ∀ m, m < 18 → m ≠ n → bit (setPres s n v).pnl.pres.toNat m = bit s.pnl.pres.toNat m := by
  rw [setPres_eq]
  simp only [bit_eq_testBit, BitVec.testBit_toNat]
  cases v with
  | true => exact ⟨by simp [hn], fun m hm hne => by simp [hm]; omega⟩
  | false => exact ⟨by simp [hn], fun m hm hne => by simp [hm]; omega⟩

/-- A cause that is forced below 5 changes neither the panel nor what is measured. -/
theorem force_keeps {s : State} {c : Nat} (hc : c ≠ 5) : (force s c).pnl = s.pnl ∧ (force s c).thm = s.thm := by
  have hint := onlyBinding_interruptLoad s c
  obtain ⟨j, w, h, o, he, -⟩ := hint
  have hw : (withCause s c).pnl = s.pnl ∧ (withCause s c).thm = s.thm := by
    rw [withCause, he]
    exact ⟨rfl, rfl⟩
  by_cases hr : s.bg.ready = true
  · rw [force_ready hc hr]
    split
    · have hf := enterFrost_aside (stopCores { withCause s c with pwr := { (withCause s c).pwr with step := 6, stepReq := none } })
      exact ⟨hf.pnl.trans hw.1, hf.thm.trans hw.2⟩
    · exact hw
  · rw [force, if_neg hc, if_pos (by simpa using hr)]
    exact ⟨rfl, rfl⟩

theorem coolantStop_keeps (s : State) : (coolantStop s).pnl = s.pnl ∧ (coolantStop s).thm.cplIn = s.thm.cplIn ∧
    (coolantStop s).thm.cplOut = s.thm.cplOut := by
  have hal := aside_alarm { s with thm := { s.thm with stop := true } } 1
  rw [coolantStop]
  split
  · exact ⟨rfl, rfl, rfl⟩
  · split
    · obtain ⟨hpnl, hthm⟩ := force_keeps (s := alarm { s with thm := { s.thm with stop := true } } 1) (c := 1) (by decide)
      rw [hpnl, hthm, hal.pnl, hal.thm]
      exact ⟨rfl, rfl, rfl⟩
    · split
      · refine ⟨hal.pnl, ?_, ?_⟩
        · exact congrArg (·.cplIn) hal.thm
        · exact congrArg (·.cplOut) hal.thm
      · exact ⟨rfl, rfl, rfl⟩

theorem setPres_tables (s : State) (n : Nat) (v : Bool) : tablesOk (setPres s n v) = tablesOk s := by
  rw [setPres_eq]
  rfl

theorem aside_isoShare (s : State) : Aside s (isoShare s) := .ite (aside_beside rfl rfl) (.refl _)

theorem aside_isoRing (s : State) (ring reason : Nat) : Aside s (isoRing s ring reason) :=
  .ite (.refl s) (.trans (aside_beside rfl rfl) (aside_ownerEvent ..))

theorem aside_isoLose (s : State) (ring reason : Nat) : Aside s (isoLose s ring reason) := by
  rw [isoLose]
  refine .trans (.trans (aside_isoRing s ring reason) ?_) (aside_isoShare _)
  constructor <;> rfl

/-- What follows the change of a presence detect, by its place on the panel. -/
def afterPres (s : State) (n : Nat) (v : Bool) : State :=
  if n < 12 then cableChange s n v
  else if n < 14 then if v || !s.iso.opened then s else isoLose s 2 0
  else if n < 16 then if v then s else coolantStop s
  else if n = 16 then if v then traceAgain s else s
  else if v then linkRise s else linkDown s

theorem exec_presenceChange_on {s : State} {n : Nat} (v : Bool) (ho : s.pwr.off = false) (hn : n < 18) :
    exec (.presenceChange n v) s = .next (afterPres (setPres s n v) n v) := by
  rw [exec_presenceChange, execPresenceChange, if_neg (by omega), if_neg (by simp [ho]), afterPres]
  simp only [apply_ite Host.Outcome.next]

theorem cableChange_pnl (s : State) (n : Nat) (v : Bool) : (cableChange s n v).pnl = s.pnl := by
  rw [cableChange]
  cases v with
  | true =>
    rw [if_pos rfl]
    split <;> rfl
  | false => exact (aside_portDown s n false []).pnl

theorem afterPres_pnl (s : State) (n : Nat) (v : Bool) : (afterPres s n v).pnl = s.pnl := by
  rw [afterPres]
  split
  · exact cableChange_pnl s n v
  · split
    · split
      · rfl
      · exact (aside_isoLose s 2 0).pnl
    · split
      · split
        · rfl
        · exact (coolantStop_keeps s).1
      · split
        · split <;> rfl
        · split
          · rw [linkRise]
            split <;> rfl
          · rw [linkDown]
            split <;> rfl

/-- A cable that is unplugged leaves its port down. -/
theorem cableChange_unplugged {s : State} {n : Nat} (h : tablesOk s = true) : ((cableChange s n false).port n).st = 0 := by
  have hports := (sound_portDown (p := n) (upper := false) (acked := []) (sound_any_of_tablesOk h)).ports trivial
  have hport : (cableChange s n false).port n = { (portDown s n false).port n with st := 0 } := tget_tset hports
  rw [hport]

theorem linkDown_down (s : State) : (linkDown s).host.linkUp = false := by
  rw [linkDown]
  split
  · rfl
  · rename_i h
    simpa using h

/-! ### The end of reset hold -/

theorem repairLines_only (s : State) : ∃ b, repairLines s = { s with bg := b } := by
  rw [repairLines]
  generalize s.bg.flagged = l
  induction l generalizing s with
  | nil => exact ⟨_, rfl⟩
  | cons a r ih =>
    obtain ⟨b, hb⟩ : ∃ b, repairLine s a = { s with bg := b } := by
      rw [repairLine]
      dsimp only
      split <;> exact ⟨_, rfl⟩
    obtain ⟨b', hb'⟩ := ih (repairLine s a)
    refine ⟨b', ?_⟩
    rw [List.foldl_cons, hb', hb]

theorem startPhases_adc {s : State} (h : twf ({} : Pair) s.thm.pairs = true) : (startPhases s).adc = s.adc ∧
    twf ({} : Pair) (startPhases s).thm.pairs = true := by
  have hstart (u : State) (hu : twf ({} : Pair) u.thm.pairs = true) (cold flow : Prop) [Decidable cold] [Decidable flow] :
      (isoSync (if cold then (if flow then calibrate u else u) else repairLines u)).adc = u.adc ∧
      twf ({} : Pair) (isoSync (if cold then (if flow then calibrate u else u) else repairLines u)).thm.pairs = true := by
    rw [(aside_isoSync _).adc, (aside_isoSync _).thm]
    split
    · split
      · obtain ⟨l, n, hl, htwf⟩ := onlyPairs_calibrate hu
        rw [hl]
        exact ⟨rfl, htwf⟩
      · exact ⟨rfl, hu⟩
    · obtain ⟨b, hb⟩ := repairLines_only u
      rw [hb]
      exact ⟨rfl, hu⟩
  exact hstart { s with
    bg := { s.bg with
      path := if s.bg.coldDue then 0 else if fastOpen s then 2 else 1
      phase := 2, phaseOn := true, cwait := true, relAt := s.now, virFails := 0, virRetryAt := none }
    pwr := { s.pwr with causes := s.pwr.causes.filter (· != 3) } } h _ _

/-- Reset hold is over, whether phases start or not. -/
theorem endHold_keeps {s : State} (h : twf ({} : Pair) s.thm.pairs = true) : (endHold s).bg.perst = false ∧
    (endHold s).adc.calIsoPin = s.adc.calIsoPin := by
  have hphases (u : State) (hu : twf ({} : Pair) u.thm.pairs = true) : (tryPhases u).bg.perst = u.bg.perst ∧
      (tryPhases u).adc.calIsoPin = u.adc.calIsoPin ∧ twf ({} : Pair) (tryPhases u).thm.pairs = true := by
    obtain ⟨-, -, -, hperst, -⟩ := startPhases_bg hu
    obtain ⟨hadc, htwf⟩ := startPhases_adc hu
    rw [tryPhases]
    split
    · exact ⟨hperst, by rw [hadc], htwf⟩
    · exact ⟨rfl, rfl, hu⟩
  have hhot (u : State) (hu : twf ({} : Pair) u.thm.pairs = true) : (tryHotStart u).bg.perst = u.bg.perst ∧
      (tryHotStart u).adc.calIsoPin = u.adc.calIsoPin := by
    rw [tryHotStart]
    split
    · obtain ⟨-, -, -, hperst, -⟩ := startPhases_bg (s := { coldState u with
        pwr := { (coldState u).pwr with off := false }, thm := { (coldState u).thm with hot := u.thm.hot, pairs := u.thm.pairs }
        bg := { (coldState u).bg with coldDue := true } }) hu
      obtain ⟨hadc, -⟩ := startPhases_adc (s := { coldState u with
        pwr := { (coldState u).pwr with off := false }, thm := { (coldState u).thm with hot := u.thm.hot, pairs := u.thm.pairs }
        bg := { (coldState u).bg with coldDue := true } }) hu
      exact ⟨hperst, congrArg (·.calIsoPin) hadc⟩
    · exact ⟨rfl, rfl⟩
  obtain ⟨hperst, hpin, htwf⟩ := hphases { s with bg := { s.bg with perst := false, relWait := false } } h
  obtain ⟨hperst', hpin'⟩ := hhot _ htwf
  exact ⟨hperst'.trans hperst, hpin'.trans hpin⟩

/-- Settles O57. -/
theorem panelActs : Obligations.PanelActs := by
  unfold Obligations.PanelActs
  intro s hok ho
  dsimp only
  have hch : twf ({} : AdcCh) s.adc.ch = true := (sound_of_tablesOk hok).chans trivial
  refine ⟨if_neg (by simp [ho]), fun hrem => ⟨?_, ?_⟩, fun hc hr => ⟨?_, ?_, ?_, fun w hw hle hst => ?_⟩, fun w hw hlt hover => ?_,
    fun w hw => ⟨fun hle => ?_, fun hlt => ?_⟩, fun hc => ⟨fun hr => ?_, fun hr hst hover => ?_, fun hr hst hp hslots => ?_⟩,
    fun pad mean hpad => ⟨fun ht hpast habove => ?_, fun ht hpast => ?_, fun ht hpast hbelow => ?_⟩, fun n v hn => ?_,
    fun v hv => ?_, fun hwait hp hv => ?_⟩
  · exact (if_neg (by simp [ho])).trans (if_neg (by simp [hrem]))
  · exact congrArg Host.Outcome.next (if_pos (by simp [hrem]))
  · obtain ⟨i, hi⟩ := removalEnd_ready hc hr
    refine ⟨_, (if_neg (by simp [ho])).trans ((if_pos (by simp [removing, hc])).trans (congrArg Host.Outcome.next hi)), rfl, rfl, rfl⟩
  · obtain ⟨i, hi⟩ := removalEnd_ready hc hr
    exact ⟨_, congrArg Host.Outcome.next hi, rfl, rfl, rfl⟩
  · exact if_pos (by simp [removing, hc])
  · obtain ⟨h1, h2, h3, h4, -⟩ := removalForce_frost hr (by rw [hc]; rfl) hst
    refine ⟨removalForce s, ?_, h1, h4, h3, h2⟩
    rw [exec_removalParkTimeout, execRemovalParkTimeout, hw]
    exact congrArg _ (if_pos (.inl hle))
  · rw [exec_removalParkTimeout, execRemovalParkTimeout, hw]
    exact congrArg _ (if_neg (by simp [hover]; omega))
  · rw [exec_presenceExpiry, execPresenceExpiry, hw]
    exact congrArg _ (if_pos hle)
  · rw [exec_presenceExpiry, execPresenceExpiry, hw]
    exact congrArg _ (if_neg (by omega))
  · obtain ⟨hhub, hpwr, -, -⟩ := removalAsked_reads s
    refine ⟨_, (exec_removePress_asked ho hc).trans (if_pos (by simp [hr])), ?_, ?_, ?_⟩
    · rw [hpwr, hc]
      rfl
    · rw [hhub]
    · rw [hpwr]
  · obtain ⟨hhub, hpwr, -, -⟩ := removalAsked_reads s
    have hlive : (s.hub.slots.any fun e => e.2.live) = true := by
      rw [parksOver, List.all_eq_false] at hover
      obtain ⟨e, he, h⟩ := hover
      refine List.any_eq_true.2 ⟨e, he, ?_⟩
      by_contra hl
      exact h (by simp [hl])
    refine ⟨_, (exec_removePress_asked ho hc).trans ((if_neg (by simp [hr])).trans
      (if_neg (by simp [parksOver_removalAsked, hover]; omega))), ?_, ?_, ?_, rfl⟩
    · show (removalAsked s).pwr.causes = _
      rw [hpwr, hc]
      rfl
    · show (removalAsked s).hub.admitOff = _
      rw [hhub]
    · show (removalAsked s).hub.parkAll = _
      rw [hhub]
      simp [askParkAll, hlive]
  · obtain ⟨hhub, hpwr, hbg, -⟩ := removalAsked_reads s
    have hover : parksOver (removalAsked s) = true := by
      rw [parksOver_removalAsked, parksOver, hslots]
      rfl
    obtain ⟨h1, h2, h3, h4, h5⟩ := removalForce_frost (s := removalAsked s) (by rw [hbg]; exact hr) (by rw [hpwr, hc]; rfl)
      (by rw [hpwr]; exact hst)
    exact ⟨_, (exec_removePress_asked ho hc).trans ((if_neg (by simp [hr])).trans (if_pos (by simp [hover]))), h2, h1,
      h5.trans (by rw [hhub])⟩
  · have hmean : padMean (max 1 s.adc.thr) (s.chan (19 + pad)) mean = { s.chan (19 + pad) with touched := true, above := 0, below := 0 } := by
      rw [padMean, if_neg (by simp [ht]), if_pos (padOver_iff.2 hpast)]
      exact if_pos (by omega)
    obtain ⟨t, hexec, hchan, htouch⟩ := exec_touchDetect_pad ho hch hpad hmean
    exact ⟨t, hexec, by rw [hchan], htouch rfl⟩
  · have hmean : padMean (max 1 s.adc.thr) (s.chan (19 + pad)) mean =
        { s.chan (19 + pad) with above := 0, hist := (mean :: (s.chan (19 + pad)).hist).take 10000 } := by
      rw [padMean, if_neg (by simp [ht]), if_neg (mt padOver_iff.1 hpast)]
      exact if_neg (by omega)
    obtain ⟨t, hexec, hchan, -⟩ := exec_touchDetect_pad ho hch hpad hmean
    exact ⟨t, hexec, by rw [hchan]; exact ht, by rw [hchan]⟩
  · have hmean : padMean (max 1 s.adc.thr) (s.chan (19 + pad)) mean =
        { s.chan (19 + pad) with touched := false, below := 0, above := 0 } := by
      rw [padMean, if_pos ht, if_neg (mt padOver_iff.1 hpast)]
      exact if_pos (by omega)
    obtain ⟨t, hexec, hchan, -⟩ := exec_touchDetect_pad ho hch hpad hmean
    exact ⟨t, hexec, congrArg AdcCh.touched hchan⟩
  · obtain ⟨hbit, hrest⟩ := setPres_pres s v hn
    have hpnl := afterPres_pnl (setPres s n v) n v
    refine ⟨_, exec_presenceChange_on v ho hn, by rw [hpnl]; exact hbit, fun m hm hne => by rw [hpnl]; exact hrest m hm hne,
      fun h14 => ?_, fun h15 => ?_, fun hport hv => ?_, fun h17 hv => ?_⟩
    · subst h14
      cases v with
      | true => rfl
      | false => exact (coolantStop_keeps _).2.1
    · subst h15
      cases v with
      | true => rfl
      | false => exact (coolantStop_keeps _).2.2
    · subst hv
      rw [afterPres, if_pos hport]
      exact cableChange_unplugged ((setPres_tables s n false).trans hok)
    · subst h17 hv
      exact linkDown_down _
  · refine if_neg ?_
    obtain rfl | hw := hv
    · simp
    · simp [hw]
  · obtain ⟨hperst, hpin⟩ := endHold_keeps (s := { s with adc := { s.adc with calIsoPin := false } })
      ((sound_of_tablesOk hok).pairs trivial)
    exact ⟨_, if_pos (by simp [hwait, hp, hv]), hperst, hpin⟩

end Sys2Proof.Proofs
end

section
/-! PROOFS. The telemetry converter and its calibrations. -/

namespace Sys2Proof.Proofs

open Sys2Proof Sys2Proof.Machine Sys2Proof.Safety Sys2Proof.Laws

/-! ### Channels -/

theorem chan_setChan_same {s : State} {n : Nat} {c : AdcCh} (h : twf ({} : AdcCh) s.adc.ch = true) : (s.setChan n c).chan n = c :=
  tget_tset h

theorem chan_setChan_other {s : State} {n m : Nat} {c : AdcCh} (h : twf ({} : AdcCh) s.adc.ch = true) (hm : m ≠ n) :
    (s.setChan n c).chan m = s.chan m := tget_tset_ne h hm

theorem setChan_twf {s : State} {n : Nat} {c : AdcCh} (h : twf ({} : AdcCh) s.adc.ch = true) :
    twf ({} : AdcCh) (s.setChan n c).adc.ch = true := twf_tset h

/-- Every channel of a list is written once, each from its own value. -/
theorem chan_foldl_setChan (g : AdcCh → AdcCh) {l : List Nat} (hl : l.Nodup) {s : State} (h : twf ({} : AdcCh) s.adc.ch = true) :
    (∀ i ∈ l, (l.foldl (fun s i => s.setChan i (g (s.chan i))) s).chan i = g (s.chan i)) ∧
    ∀ i ∉ l, (l.foldl (fun s i => s.setChan i (g (s.chan i))) s).chan i = s.chan i := by
  induction l generalizing s with
  | nil => exact ⟨nofun, fun _ _ => rfl⟩
  | cons k r ih =>
    obtain ⟨hk, hr⟩ := List.nodup_cons.1 hl
    obtain ⟨hin, hout⟩ := ih hr (setChan_twf (n := k) (c := g (s.chan k)) h)
    refine ⟨fun i hi => ?_, fun i hi => ?_⟩
    · obtain rfl | hi := List.mem_cons.1 hi
      · exact (hout i hk).trans (chan_setChan_same h)
      · refine (hin i hi).trans ?_
        rw [chan_setChan_other h (show i ≠ k from fun he => hk (he ▸ hi))]
    · exact (hout i fun h => hi (List.mem_cons_of_mem k h)).trans
        (chan_setChan_other h (show i ≠ k from fun he => hi (he ▸ List.mem_cons_self)))

/-! ### Samples -/

/-- What a reading is used for is no channel. -/
theorem useReading_reads (s : State) (n : Nat) (v : Int) : (useReading s n v).adc.ch = s.adc.ch ∧
    (n = 12 → (useReading s n v).thm.inlet = v) ∧ (n = 13 → (useReading s n v).thm.outlet = v) ∧
    (n = 14 → (useReading s n v).thm.flow = v.toNat) := by
  refine ⟨?_, fun h => ?_, fun h => ?_, fun h => ?_⟩
  · rw [useReading.eq_def]
    split <;> rfl
  · subst h
    rfl
  · subst h
    rfl
  · subst h
    rfl

/-- The corrected reading of channel n's sample. -/
def readingAt (s : State) (n : Nat) (raw : BitVec 14) : Int :=
  systemLayer n (s.chan n) (uOf (if (s.chan n).shadow then s.chan 24 else s.chan n) (16 * raw.toNat) 1)

/-- Channel n with its sample taken. -/
def sampled (s : State) (n : Nat) (raw : BitVec 14) : AdcCh := { s.chan n with
  ovr := (s.chan n).ovr || (raw == 0 || raw == 16383), atRail := raw == 0 || raw == 16383, last := readingAt s n raw
  sum := (s.chan n).sum + readingAt s n raw, cnt := (s.chan n).cnt + 1 }

theorem takeSample_reads {s : State} (n : Nat) (raw : BitVec 14) (h : twf ({} : AdcCh) s.adc.ch = true) :
    (n = 12 → (takeSample s n raw).thm.inlet = readingAt s n raw) ∧ (n = 13 → (takeSample s n raw).thm.outlet = readingAt s n raw) ∧
    (n = 14 → (takeSample s n raw).thm.flow = (readingAt s n raw).toNat) ∧ (takeSample s n raw).chan n = sampled s n raw ∧
    ∀ m, m ≠ n → (takeSample s n raw).chan m = s.chan m := by
  have htake : takeSample s n raw = useReading (s.setChan n (sampled s n raw)) n (readingAt s n raw) := rfl
  obtain ⟨hch, h12, h13, h14⟩ := useReading_reads (s.setChan n (sampled s n raw)) n (readingAt s n raw)
  rw [htake]
  refine ⟨h12, h13, h14, ?_, fun m hm => ?_⟩
  · rw [State.chan, hch]
    exact chan_setChan_same h
  · rw [State.chan, hch]
    exact chan_setChan_other h hm

/-- The end of a frame: the currents, the least voltages every 50, and of a channel the mean alone. -/
theorem frameEnd_reads {s : State} (h : twf ({} : AdcCh) s.adc.ch = true) : (frameEnd s).adc.frame = s.adc.frame + 1 ∧
    (frameEnd s).pwr.amps = virAmps s ∧
    (frameEnd s).pwr.vmin = (if (s.adc.frame + 1) % 50 = 0 then (s.adc.vSum + virLow s) / 500 else s.pwr.vmin) ∧
    ∀ m, ((frameEnd s).chan m).ovr = (s.chan m).ovr := by
  have hmean (c : AdcCh) : (meanOf c).ovr = c.ovr := by
    rw [meanOf]
    split <;> rfl
  have hmap (t : Table AdcCh) (ht : twf ({} : AdcCh) t = true) (m : Nat) : (tget {} (tmap {} meanOf t) m).ovr = (tget {} t m).ovr := by
    rw [tget_tmap (by rfl) ht]
    exact hmean _
  rw [frameEnd]
  dsimp only
  split
  · refine ⟨?_, ?_, ?_, fun m => ?_⟩
    · split <;> rfl
    · split <;> rfl
    · split <;> rfl
    · refine (hmap _ ?_ m).trans ?_
      · split <;> exact h
      · split <;> rfl
  · refine ⟨?_, ?_, ?_, fun m => ?_⟩ <;> split <;> rfl

/-- The spare's sample leaves the other channels. -/
theorem spareSample_reads {s : State} {raw : BitVec 14} (h : twf ({} : AdcCh) s.adc.ch = true) :
    (spareSample s raw).adc.frame = s.adc.frame ∧ (spareSample s raw).adc.vSum = s.adc.vSum ∧ (spareSample s raw).pwr = s.pwr ∧
    twf ({} : AdcCh) (spareSample s raw).adc.ch = true ∧ virAmps (spareSample s raw) = virAmps s ∧ virLow (spareSample s raw) = virLow s ∧
    ((spareSample s raw).chan 24).ovr = if s.adc.busy.isSome then (s.chan 24).ovr else (s.chan 24).ovr || (raw == 0 || raw == 16383) := by
  rw [spareSample]
  dsimp only
  split
  · exact ⟨rfl, rfl, rfl, h, rfl, rfl, rfl⟩
  · have hother (c : AdcCh) (m : Nat) (hm : m ≠ 24) : (s.setChan 24 c).chan m = s.chan m := chan_setChan_other h hm
    refine ⟨rfl, rfl, rfl, setChan_twf h, ?_, ?_, by rw [chan_setChan_same h]⟩
    · rw [virAmps, virAmps]
      simp [hother]
    · rw [virLow, virLow]
      have hmap : (List.range 8).map (fun n => (State.chan (s.setChan 24 { s.chan 24 with
          ovr := (s.chan 24).ovr || (raw == 0 || raw == 16383), atRail := raw == 0 || raw == 16383 }) n).last.toNat) =
          (List.range 8).map fun n => (s.chan n).last.toNat :=
        List.map_congr_left fun n hn => by rw [hother _ n (by have := List.mem_range.1 hn; omega)]
      rw [hmap]

/-- Front-end temperatures, from channel k on. -/
theorem foldl_setTfe (l : List Int) (k : Nat) {s : State} (h : twf ({} : AdcCh) s.adc.ch = true) (m : Nat) :
    (((l.zipIdx k).foldl (fun s e => s.setChan e.2 { s.chan e.2 with tfe := e.1 }) s).chan m).tfe =
      (if m < k then (s.chan m).tfe else l.getD (m - k) (s.chan m).tfe) ∧
    (((l.zipIdx k).foldl (fun s e => s.setChan e.2 { s.chan e.2 with tfe := e.1 }) s).chan m).z = (s.chan m).z := by
  induction l generalizing s k with
  | nil => exact ⟨by simp, rfl⟩
  | cons a r ih =>
    obtain ⟨htfe, hz⟩ := ih (k + 1) (setChan_twf (n := k) (c := { s.chan k with tfe := a }) h)
    rw [List.zipIdx_cons, List.foldl_cons]
    by_cases hm : m = k
    · subst hm
      rw [chan_setChan_same h] at htfe hz
      refine ⟨htfe.trans ?_, hz⟩
      simp
    · rw [chan_setChan_other h hm] at htfe hz
      refine ⟨htfe.trans ?_, hz⟩
      by_cases hlt : m < k
      · rw [if_pos (by omega), if_pos hlt]
      · rw [if_neg (by omega), if_neg hlt, show m - k = (m - (k + 1)) + 1 by omega]
        rfl

/-- A write of a channel's front-end layer: the coefficients, and the end of what was running on the channel. -/
theorem writeFe_reads {s : State} {n : Nat} {v : BitVec 64} (h : twf ({} : AdcCh) s.adc.ch = true) :
    (writeFe s n v).chan n = { s.chan n with
      shadow := false, z := BitVec.ofNat 20 (bits v.toNat 51 32), span := BitVec.ofNat 20 (bits v.toNat 19 0) } ∧
    (s.adc.busy = some n → (writeFe s n v).adc.busy = none) ∧
    (s.adc.busy = some n → s.adc.scGo = true → s.adc.capCh.toNat = n →
      (writeFe s n v).adc.scGo = false ∧ (writeFe s n v).adc.scResult = 5) := by
  have hchan := chan_setChan_same (n := n) (c := { s.chan n with
    shadow := false, z := BitVec.ofNat 20 (bits v.toNat 51 32), span := BitVec.ofNat 20 (bits v.toNat 19 0) }) h
  rw [writeFe]
  dsimp only
  refine ⟨?_, fun hb => ?_, fun hb hgo hn => ?_⟩
  · split
    · split <;> exact hchan
    · exact hchan
  · rw [if_pos hb]
    split <;> rfl
  · have hwaits : (s.adc.scGo && s.adc.capCh.toNat == n) = true := by simp [hgo, hn]
    rw [if_pos hb]
    split
    · exact ⟨rfl, rfl⟩
    · contradiction

/-- Settles O58. -/
theorem converterActs : Obligations.ConverterActs := by
  unfold Obligations.ConverterActs
  intro s n mean raw v hok ho hn
  dsimp only
  have hch : twf ({} : AdcCh) s.adc.ch = true := (sound_of_tablesOk hok).chans trivial
  refine ⟨fun slot hslot hnum => ?_, ?_, fun l hl => ?_, fun sz sf z f hb hd => ?_, fun sz sf z f hb hd => ?_,
    fun sz sf z f hb => ⟨fun hbad => ?_, fun hbad => ?_⟩, fun w hw => ⟨fun hlt => ?_, fun hle => ?_⟩, ?_, ?_, fun hgo => ⟨?_, ?_⟩,
    fun hgo hcap hb => ⟨fun hpt => ?_, fun zv p q hpt hzero => ⟨fun hdet => ?_, fun hdet hpt0 => ?_⟩⟩⟩
  · have hexec : exec (.adcSample slot raw) s = .next (takeSample s n raw) := by
      rw [exec_adcSample, execAdcSample, if_neg (by omega), if_neg (by simp [ho]), if_neg (by omega), hnum]
    obtain ⟨h12, h13, h14, hsame, hother⟩ := takeSample_reads n raw hch
    refine ⟨_, hexec, ?_, ?_, ?_, ?_, ?_, h12, h13, h14, hother⟩
    all_goals rw [hsame, sampled]
    · rfl
    · rfl
    · exact (Bool.or_assoc ..).symm
  · obtain ⟨hframe, hvsum, hpwr, htwf, hamps, hlow, hovr⟩ := spareSample_reads (raw := raw) hch
    obtain ⟨hframe', hamps', hvmin, hovr'⟩ := frameEnd_reads htwf
    rw [hframe] at hframe' hvmin
    rw [hvsum, hlow, hpwr] at hvmin
    have hexec : exec (.adcSample 124 raw) s = .next (frameEnd (spareSample s raw)) := by
      rw [exec_adcSample, execAdcSample, if_neg (by decide), if_neg (by simp [ho]), if_pos rfl]
    refine ⟨_, hexec, hframe', hamps'.trans hamps, fun hb => ?_, fun hb => ?_, fun hk => hvmin.trans (if_neg hk), fun hk => hvmin.trans (if_pos hk)⟩
    · rw [hovr', hovr, if_neg (by simp [hb]), Bool.or_assoc]
    · rw [hovr', hovr, if_pos (by simpa [Option.isSome_iff_ne_none] using hb)]
  · refine ⟨_, if_neg (by simp [ho]), fun m => ?_⟩
    obtain ⟨htfe, hz⟩ := foldl_setTfe (l.take 25) 0 hch m
    rw [List.take_of_length_le hl] at htfe hz ⊢
    exact ⟨htfe, hz⟩
  · rw [exec_driftCalibration, execDriftCalibration, if_neg (by simp [ho]), hb]
    simp only [hd]
  · have hexec : exec (.driftCalibration sz sf z f) s = .next (driftBegin s n sz sf) := by
      rw [exec_driftCalibration, execDriftCalibration, if_neg (by simp [ho]), hb]
      simp only [hd]
    have htwf := setChan_twf (n := 24) (c := { s.chan 24 with z := BitVec.ofNat 20 sz, span := BitVec.ofNat 20 sf }) hch
    have h24 : (driftBegin s n sz sf).chan 24 = { s.chan 24 with z := BitVec.ofNat 20 sz, span := BitVec.ofNat 20 sf } :=
      (chan_setChan_other htwf (by omega)).trans (chan_setChan_same hch)
    exact ⟨_, hexec, rfl, congrArg AdcCh.shadow (chan_setChan_same htwf), by rw [h24], by rw [h24]⟩
  · have hexec : exec (.driftCalibration sz sf z f) s = .next (driftEnd s n z f) := by
      rw [exec_driftCalibration, execDriftCalibration, if_neg (by simp [ho]), hb]
    rw [driftEnd] at hexec
    have hchan := chan_setChan_same (s := { s with adc := { s.adc with busy := none } }) (n := n)
      (c := { s.chan n with shadow := false, retryAt := some (s.now + 10000000) }) hch
    exact ⟨_, hexec.trans (congrArg _ (if_pos hbad)), rfl, rfl, (congrArg AdcCh.retryAt hchan :), (congrArg AdcCh.z hchan :),
      (congrArg AdcCh.shadow hchan :)⟩
  · have hexec : exec (.driftCalibration sz sf z f) s = .next (driftEnd s n z f) := by
      rw [exec_driftCalibration, execDriftCalibration, if_neg (by simp [ho]), hb]
    rw [driftEnd] at hexec
    have hchan := chan_setChan_same (s := { s with adc := { s.adc with busy := none } }) (n := n)
      (c := { s.chan n with
        shadow := false, z := BitVec.ofNat 20 z, span := BitVec.ofNat 20 f, tcal := (s.chan n).tfe, due := 0
        untrace := !bit s.pnl.pres.toNat 16 }) hch
    exact ⟨_, hexec.trans (congrArg _ (if_neg (by simp [hbad]))), rfl, rfl, (congrArg AdcCh.z hchan :), (congrArg AdcCh.span hchan :),
      (congrArg AdcCh.tcal hchan :), (congrArg AdcCh.shadow hchan :)⟩
  · rw [exec_driftRetry, execDriftRetry, if_neg (by omega), hw]
    exact congrArg _ (if_neg (by omega))
  · refine ⟨s.setChan n { s.chan n with retryAt := none, due := max 1 (s.chan n).due }, ?_, chan_setChan_same hch⟩
    rw [exec_driftRetry, execDriftRetry, if_neg (by omega), hw]
    exact congrArg _ (if_pos hle)
  · obtain ⟨hin, hout⟩ := chan_foldl_setChan (fun c => { c with due := max 1 c.due }) (List.nodup_range (n := 24)) hch
    exact ⟨_, rfl, hin n (List.mem_range.2 hn), hout 24 (by simp)⟩
  · obtain ⟨hchan, hbusy, hcap⟩ := writeFe_reads (n := n) (v := v) hch
    exact ⟨writeFe s n v, if_neg (by omega), by rw [hchan]; exact toNat_ofNat_bits _ _ _ rfl, by rw [hchan]; exact toNat_ofNat_bits _ _ _ rfl,
      by rw [hchan], hbusy, hcap⟩
  · exact if_pos (by simp [captureReady, hgo])
  · exact if_pos (by simp [captureReady, hgo])
  · have hready : captureReady s false = true := by simp [captureReady, hgo, hpt, hcap, hb]
    refine ⟨_, if_neg (by simp [hready]), ⟨rfl, rfl⟩, ?_, rfl⟩
    rw [← hcap]
    rfl
  · have hready : captureReady s true = true := by simp [captureReady, hgo, hpt, hcap, hb]
    have hexec : exec (.syscalPoint1 mean) s = execSyscalPoint1 mean s := rfl
    rw [execSyscalPoint1, if_neg (by simp [hready]), hzero] at hexec
    dsimp only at hexec
    rw [hcap, if_pos hdet] at hexec
    exact ⟨_, hexec, ⟨rfl, rfl⟩, rfl, rfl⟩
  · have hready : captureReady s true = true := by simp [captureReady, hgo, hpt, hcap, hb]
    have hexec : exec (.syscalPoint1 mean) s = execSyscalPoint1 mean s := rfl
    rw [execSyscalPoint1, if_neg (by simp [hready]), hzero] at hexec
    dsimp only at hexec
    have hnum (x : Int) : knownNum n x = x := if_neg (by simp [hpt0])
    have hden : knownDen n = 1 := if_neg (by simp [hpt0])
    rw [hcap, if_neg (by omega), hnum, hnum, hden, Int.one_mul] at hexec
    have hchan (c : AdcCh) := chan_setChan_same (s := { s with adc := { s.adc with zeroPt := none } }) (n := n) (c := c) hch
    exact ⟨_, hexec, ⟨rfl, rfl⟩, rfl, (congrArg AdcCh.z (hchan _) :), (congrArg AdcCh.s1 (hchan _) :), (congrArg AdcCh.s0 (hchan _) :)⟩

end Sys2Proof.Proofs
end

section
/-! PROOFS. What a tenant is told, and what a sequence gives up: the helpers of the hub that leave the slots, the records and the
requests alone. -/

namespace Sys2Proof.Proofs

open Sys2Proof Sys2Proof.Machine Sys2Proof.Safety Sys2Proof.Laws

/-! ### Tenants whose event rings alone moved -/

/-- The same tenant but for the event ring's index and the moderation of its interrupt. -/
def SameButRing (k l : Tenant) : Prop := l = { k with eqE := l.eqE, evtNew := l.evtNew, evtAt := l.evtAt }

theorem SameButRing.trans {k l m : Tenant} (h : SameButRing k l) (h' : SameButRing l m) : SameButRing k m := by
  unfold SameButRing at h h'
  rw [h] at h'
  exact h'

/-- Tables of tenants that differ in event rings only. -/
structure RingsOnly (a b : Table Tenant) : Prop where
  wf : twf ({} : Tenant) a = true → twf ({} : Tenant) b = true
  same : twf ({} : Tenant) a = true → ∀ n, SameButRing (tget {} a n) (tget {} b n)

theorem RingsOnly.refl (a : Table Tenant) : RingsOnly a a := ⟨id, fun _ _ => rfl⟩

theorem RingsOnly.trans {a b c : Table Tenant} (h : RingsOnly a b) (h' : RingsOnly b c) : RingsOnly a c :=
  ⟨fun ha => h'.wf (h.wf ha), fun ha n => (h.same ha n).trans (h'.same (h.wf ha) n)⟩

theorem tenant_modTenant {s : State} {t : Nat} {f : Tenant → Tenant} (h : twf ({} : Tenant) s.tenants = true) :
    (s.modTenant t f).tenant t = f (s.tenant t) := tenant_setTenant h

theorem ringsOnly_modTenant (s : State) (t : Nat) {f : Tenant → Tenant} (hf : ∀ k, SameButRing k (f k)) :
    RingsOnly s.tenants (s.modTenant t f).tenants := by
  refine ⟨fun hs => twf_tset hs, fun hs n => ?_⟩
  by_cases h : n = t
  · have hset : tget {} (s.modTenant t f).tenants t = f (s.tenant t) := tenant_modTenant hs
    rw [h, hset]
    exact hf _
  · have hset : tget {} (s.modTenant t f).tenants n = s.tenant n := tenant_setTenant_ne hs h
    rw [hset]
    exact Eq.refl (s.tenant n)

theorem ringsOnly_raiseEvt (s : State) (t : Nat) : RingsOnly s.tenants (raiseEvt s t).tenants := by
  unfold raiseEvt
  split
  · exact ringsOnly_modTenant s t (f := fun k => { k with evtNew := 0 }) fun _ => rfl
  · exact .refl _

theorem ringsOnly_putEvent (s : State) (t : Nat) (e : Event) : RingsOnly s.tenants (putEvent s t e).tenants := by
  simp only [putEvent]
  refine .trans ?_ (ringsOnly_raiseEvt ..)
  rw [writeBack_frame]
  exact ringsOnly_modTenant (s.emit _) t (f := fun k => { k with
    eqE := k.eqE + 1, evtNew := k.evtNew + 1, evtAt := if k.evtNew = 0 then s.now else k.evtAt }) fun _ => rfl

theorem ringsOnly_sendEvent (s : State) (t : Nat) (e : Event) : RingsOnly s.tenants (sendEvent s t e).tenants := by
  simp only [sendEvent]
  split
  · exact .refl _
  · split
    · exact ringsOnly_putEvent ..
    · split <;> exact .refl _

/-! ### The helpers that only tell -/

/-- From s to t nothing changed but event rings and the events that wait for them, adapter slots and deferred uploads, prefix
chains, and the output. -/
structure Told (s t : State) : Prop extends Aside s t where
  hub : t.hub = { s.hub with evq := t.hub.evq, dropEv := t.hub.dropEv, adps := t.hub.adps, uploads := t.hub.uploads }
  host : t.host = s.host
  wst : t.wst = s.wst
  kv : t.kv = { s.kv with pfx := t.kv.pfx }
  iso : t.iso = s.iso
  rings : RingsOnly s.tenants t.tenants

theorem Told.refl (s : State) : Told s s := ⟨.refl s, rfl, rfl, rfl, rfl, rfl, .refl _⟩

theorem Told.trans {s t u : State} (h : Told s t) (h' : Told t u) : Told s u where
  toAside := h.toAside.trans h'.toAside
  hub := by
    have hu := h'.hub
    rw [h.hub] at hu
    exact hu
  host := h'.host.trans h.host
  wst := h'.wst.trans h.wst
  kv := by
    have hu := h'.kv
    rw [h.kv] at hu
    exact hu
  iso := h'.iso.trans h.iso
  rings := h.rings.trans h'.rings

theorem Told.slots {s t : State} (h : Told s t) : t.hub.slots = s.hub.slots := by rw [h.hub]
theorem Told.slot {s t : State} (h : Told s t) (n : Nat) : t.slot n = s.slot n := congrArg (tget ({} : Seq) · n) h.slots
theorem Told.parked {s t : State} (h : Told s t) : t.hub.parked = s.hub.parked := by rw [h.hub]
theorem Told.queue {s t : State} (h : Told s t) : t.hub.queue = s.hub.queue := by rw [h.hub]

theorem Told.ite {s t u : State} {c : Prop} [Decidable c] (h : Told s t) (h' : Told s u) : Told s (if c then t else u) := by
  split
  · exact h
  · exact h'

theorem Told.foldl {α : Type} {s : State} {f : State → α → State} (hf : ∀ t x, Told t (f t x)) (l : List α) :
    Told s (l.foldl f s) := by
  induction l generalizing s with
  | nil => exact .refl s
  | cons x r ih => exact (hf s x).trans ih

theorem told_sendEvent (s : State) (t : Nat) (e : Event) : Told s (sendEvent s t e) where
  toAside := aside_sendEvent s t e
  hub := by rw [sendEvent_frame]
  host := by rw [sendEvent_frame]
  wst := by rw [sendEvent_frame]
  kv := by rw [sendEvent_frame]
  iso := by rw [sendEvent_frame]
  rings := ringsOnly_sendEvent s t e

theorem told_seqEvent (s : State) (n c r v : Nat) : Told s (seqEvent s n c r v) := told_sendEvent ..
theorem told_tagEvent (s : State) (t c r v : Nat) (g : BitVec 64) : Told s (tagEvent s t c r v g) := told_sendEvent ..
theorem told_reject (s : State) (t why : Nat) (g : BitVec 64) : Told s (reject s t why g) := told_sendEvent ..
theorem told_ackDone (s : State) (t c : Nat) (g : BitVec 64) : Told s (ackDone s t c g) := told_sendEvent ..

theorem told_setAdp (s : State) (k : Nat) (a : Adp) : Told s (s.setAdp k a) :=
  ⟨aside_setAdp .., rfl, rfl, rfl, rfl, rfl, .refl _⟩

theorem told_uploads (s : State) (l : List Upload) : Told s { s with hub := { s.hub with uploads := l } } :=
  ⟨aside_beside rfl rfl, rfl, rfl, rfl, rfl, rfl, .refl _⟩

theorem told_placeUploads (s : State) (l : List Upload) : Told s (placeUploads s l) := by
  induction l generalizing s with
  | nil => exact told_uploads s []
  | cons u r ih =>
    rw [placeUploads]
    split
    · split
      · exact (told_setAdp ..).trans (ih _)
      · exact (ih s).trans (told_uploads ..)
    · exact told_uploads ..

theorem told_sweepAdps (s : State) : Told s (sweepAdps s) :=
  .trans (.foldl (fun t _ => .ite ((told_tagEvent ..).trans (told_setAdp ..)) (.refl t)) _) (told_placeUploads ..)

theorem told_releaseChain (s : State) (l : List Nat) : Told s (releaseChain s l) := by
  refine .foldl (fun t g => ?_) l
  refine ⟨?_, ?_, ?_, ?_, ?_, ?_, ?_⟩ <;> rw [pfxRelease] <;> split
  any_goals rfl
  all_goals first | exact RingsOnly.refl _ | constructor <;> rfl

/-! ### What a sequence gives up -/

/-- A sequence without region, chain and adapter pin. -/
def released (q : Seq) : Seq :=
  { q with hasRegion := false, chain := [], hashes := [], adp := none, decodes := false, pfCnt := 0 }

/-- The same state with other sequences in its slots. -/
def withSlots (s : State) (l : Table Seq) : State := { s with hub := { s.hub with slots := l } }

theorem Told.withSlots {s t : State} (h : Told s t) (l : Table Seq) : Told (withSlots s l) (withSlots t l) :=
  ⟨⟨h.fuses, h.plane, h.jet, h.ldr, h.wstMem, h.kvMem, h.pwr, h.thm, h.bg, h.pnl, h.adc, h.sec, h.time, h.admitOff⟩,
    congrArg (fun x : Hub => { x with slots := l }) h.hub, h.host, h.wst, h.kv, h.iso, h.rings⟩

theorem told_modSlot {s t : State} (h : Told s t) (n : Nat) (f : Seq → Seq) : Told (s.modSlot n f) (t.modSlot n f) := by
  have hslots : s.modSlot n f = Proofs.withSlots s (t.modSlot n f).hub.slots := by
    show Proofs.withSlots s (tset {} s.hub.slots n (f (s.slot n))) = Proofs.withSlots s (tset {} t.hub.slots n (f (t.slot n)))
    rw [h.slots, h.slot]
  rw [hslots]
  exact h.withSlots _

theorem told_releaseSeq (s : State) (n : Nat) : Told (s.modSlot n released) (releaseSeq s n) :=
  (told_modSlot (told_releaseChain s _) n released).trans (told_sweepAdps _)

/-- From s to t the slots changed, and what `Told` may change. -/
def ToldBut (s t : State) : Prop := Told (withSlots s t.hub.slots) t

theorem ToldBut.refl (s : State) : ToldBut s s := Told.refl s

theorem Told.but {s t : State} (h : Told s t) : ToldBut s t := by
  unfold ToldBut
  rw [h.slots]
  exact h

theorem ToldBut.trans {s t u : State} (h : ToldBut s t) (h' : ToldBut t u) : ToldBut s u :=
  (h.withSlots u.hub.slots).trans h'

theorem toldBut_setSlot (s : State) (n : Nat) (q : Seq) : ToldBut s (s.setSlot n q) := Told.refl (s.setSlot n q)
theorem toldBut_modSlot (s : State) (n : Nat) (f : Seq → Seq) : ToldBut s (s.modSlot n f) := Told.refl (s.modSlot n f)

theorem toldBut_releaseSeq (s : State) (n : Nat) : ToldBut s (releaseSeq s n) :=
  (toldBut_modSlot s n released).trans (told_releaseSeq s n).but

theorem toldBut_freeSlot (s : State) (n : Nat) : ToldBut s (freeSlot s n) := (toldBut_releaseSeq s n).trans (toldBut_setSlot ..)

theorem ToldBut.parked {s t : State} (h : ToldBut s t) : t.hub.parked = s.hub.parked :=
  Told.parked (s := withSlots s t.hub.slots) h
theorem ToldBut.queue {s t : State} (h : ToldBut s t) : t.hub.queue = s.hub.queue :=
  Told.queue (s := withSlots s t.hub.slots) h

theorem freeSlot_slots (s : State) (n : Nat) :
    (freeSlot s n).hub.slots = tset {} (tset {} s.hub.slots n (released (s.slot n))) n {} :=
  congrArg (tset ({} : Seq) · n {}) (told_releaseSeq s n).slots

theorem freeSlot_slot {s : State} (h : twf ({} : Seq) s.hub.slots = true) (n : Nat) : (freeSlot s n).slot n = {} := by
  rw [State.slot, freeSlot_slots]
  exact tget_tset (twf_tset h)

theorem freeSlot_slot_ne {s : State} (h : twf ({} : Seq) s.hub.slots = true) {n m : Nat} (hm : m ≠ n) :
    (freeSlot s n).slot m = s.slot m := by
  rw [State.slot, freeSlot_slots]
  exact (tget_tset_ne (twf_tset h) hm).trans (tget_tset_ne h hm)

theorem freeSlot_twf {s : State} (h : twf ({} : Seq) s.hub.slots = true) (n : Nat) :
    twf ({} : Seq) (freeSlot s n).hub.slots = true := by
  rw [freeSlot_slots]
  exact twf_tset (twf_tset h)

end Sys2Proof.Proofs
end

section
/-! PROOFS. What a write of KV space or of the plane's memories leaves alone. -/

namespace Sys2Proof.Proofs

open Sys2Proof Sys2Proof.Machine Sys2Proof.Safety Sys2Proof.Laws

/-- From s to t nothing changed but the bytes and the error records of the memories, the books of corrected errors, and reports
of errors that a store met. -/
structure Stored (s t : State) : Prop where
  fuses : t.fuses = s.fuses
  plane : t.plane = { s.plane with sram := t.plane.sram, sramErr := t.plane.sramErr, faults := t.plane.faults }
  jet : t.jet = s.jet
  ldr : t.ldr = { s.ldr with hurt := t.ldr.hurt }
  wst : t.wst = s.wst
  kv : t.kv = { s.kv with mem := t.kv.mem }
  hub : t.hub = s.hub
  tenants : t.tenants = s.tenants
  host : t.host = s.host
  iso : t.iso = s.iso
  pwr : t.pwr = s.pwr
  thm : t.thm = s.thm
  bg : t.bg = { s.bg with sqLater := t.bg.sqLater, eccCorr := t.bg.eccCorr, eccHist := t.bg.eccHist, flagged := t.bg.flagged }
  sec : t.sec = s.sec
  out : t.out = s.out

theorem Stored.refl (s : State) : Stored s s := by constructor <;> rfl

theorem Stored.trans {s t u : State} (h : Stored s t) (h' : Stored t u) : Stored s u where
  fuses := h'.fuses.trans h.fuses
  plane := by
    have hu := h'.plane
    rw [h.plane] at hu
    exact hu
  jet := h'.jet.trans h.jet
  ldr := by
    have hu := h'.ldr
    rw [h.ldr] at hu
    exact hu
  wst := h'.wst.trans h.wst
  kv := by
    have hu := h'.kv
    rw [h.kv] at hu
    exact hu
  hub := h'.hub.trans h.hub
  tenants := h'.tenants.trans h.tenants
  host := h'.host.trans h.host
  iso := h'.iso.trans h.iso
  pwr := h'.pwr.trans h.pwr
  thm := h'.thm.trans h.thm
  bg := by
    have hu := h'.bg
    rw [h.bg] at hu
    exact hu
  sec := h'.sec.trans h.sec
  out := h'.out.trans h.out

theorem Stored.foldl {α : Type} {s : State} {f : State → α → State} (hf : ∀ t x, Stored t (f t x)) (l : List α) :
    Stored s (l.foldl f s) := by
  induction l generalizing s with
  | nil => exact .refl s
  | cons x r ih => exact (hf s x).trans ih

theorem stored_raise (s : State) (f : FaultRep) : Stored s (s.raise f) := by
  rw [raise_frame]
  constructor <;> rfl

theorem stored_sramCorrect (s : State) (a n : Nat) : Stored s (sramCorrect s a n) := by
  rw [sramCorrect]
  split
  · exact .refl s
  · exact .trans (by constructor <;> rfl) (.foldl (fun t w => by constructor <;> rfl) _)

theorem stored_sramStore (s : State) (sl : SlotKind) (pc a : Nat) (d : List Byte) : Stored s (sramStore s sl pc a d) := by
  rw [sramStore]
  split
  · exact stored_raise ..
  · exact .trans (.foldl (fun t w => stored_sramCorrect ..) _) (by constructor <;> rfl)

theorem stored_kvBlockWrite (s : State) (area addr : Nat) (d : List Byte) : Stored s (kvBlockWrite s area addr d) := by
  rw [kvBlockWrite]
  split
  · exact .refl s
  · split
    · exact stored_sramStore ..
    · constructor <;> rfl

theorem stored_kvRunWrite (s : State) (area addr : Nat) (d : List Byte) (n : Nat) : Stored s (kvRunWrite s area addr d n) := by
  induction n generalizing s addr d with
  | zero => exact .refl s
  | succ n ih => exact (stored_kvBlockWrite ..).trans (ih ..)

theorem stored_kvWriteAll (s : State) (area addr : Nat) (d : List Byte) : Stored s (kvWriteAll s area addr d) :=
  stored_kvRunWrite ..

theorem stored_kvBlocksWrite (s : State) (area addr : Nat) (d : List Byte) (n : Nat) :
    Stored s (kvBlocksWrite s area addr d n) := by
  induction n generalizing s addr d with
  | zero => exact .refl s
  | succ n ih => exact (stored_kvBlockWrite ..).trans (ih ..)

/-- With stacked KV wafers a write of KV space leaves the plane alone (R288). -/
theorem kvBlockWrite_plane {s : State} (h : 0 < gradeKv s) (area addr : Nat) (d : List Byte) :
    (kvBlockWrite s area addr d).plane = s.plane := by
  rw [kvBlockWrite]
  split
  · rfl
  · rw [if_neg (by omega)]

theorem gradeKv_stored {s t : State} (h : Stored s t) : gradeKv t = gradeKv s := by
  rw [gradeKv, h.fuses, gradeKv]

theorem kvBlocksWrite_plane {s : State} (h : 0 < gradeKv s) (area addr : Nat) (d : List Byte) (n : Nat) :
    (kvBlocksWrite s area addr d n).plane = s.plane := by
  induction n generalizing s addr d with
  | zero => rfl
  | succ n ih =>
    have hgrade : 0 < gradeKv (kvBlockWrite s area addr (d.take 16384)) := by rwa [gradeKv_stored (stored_kvBlockWrite ..)]
    exact (ih hgrade _ _).trans (kvBlockWrite_plane h ..)

/-- The areas' sizes follow the applied configuration and the grade alone. -/
theorem stagingSize_stored {s t : State} (h : Stored s t) : stagingSize t = stagingSize s := by
  have happ : t.kv.app = s.kv.app := by rw [h.kv]
  have hgrade : mapW t = mapW s := by simp only [mapW, gradeKv_stored h]
  simp only [stagingSize, areaSize, areaSlabs, happ, hgrade]

end Sys2Proof.Proofs
end

section
/-! PROOFS. Reads and writes of the two apertures. -/

namespace Sys2Proof.Proofs

open Sys2Proof Sys2Proof.Machine Sys2Proof.Safety Sys2Proof.Laws

/-! ### The owner's aperture below its tenant blocks -/

theorem apertureOf_owner_pf {off : Nat} (h : off < 0x1000000) : apertureOf .owner off = some (none, off) := by
  have hlow : ¬(0x1000000 ≤ off ∧ off < 0x2000000) := by omega
  exact (if_neg hlow).trans (if_pos (by omega))

theorem viewKey_owner (off : Nat) : viewKey .owner off = off := rfl

/-- A read that meets R16 is the read of the register or of its half. -/
theorem readAt_pf {s : State} {off n : Nat} {r : Nat × Nat} (hoff : off < 0x1000000) (hup : blockUp s none off = true)
    (hhit : placeHit none off n = some r) (hok : accessOk r off n = true) :
    readAt s .owner off n = readHalf s none r.1 off r.1 r.2 n := by
  simp [readAt, apertureOf_owner_pf hoff, hup, hhit, hok, viewKey_owner]

theorem writeAt_pf {s : State} {off n v : Nat} {r : Nat × Nat} (hoff : off < 0x1000000) (hup : blockUp s none off = true)
    (hhit : placeHit none off n = some r) (hok : accessOk r off n = true) :
    writeAt s .owner off n v = writeHalf s none r.1 off r.1 r.2 n v := by
  simp [writeAt, apertureOf_owner_pf hoff, hup, hhit, hok, viewKey_owner, drained]

theorem readAt_bad {s : State} {off n : Nat} {r : Nat × Nat} (hoff : off < 0x1000000) (hup : blockUp s none off = true)
    (hhit : placeHit none off n = some r) (hok : accessOk r off n = false) :
    readAt s .owner off n = s.emit (.mmioRead none) := by
  simp [readAt, apertureOf_owner_pf hoff, hup, hhit, hok]

theorem writeAt_bad {s : State} {off n v : Nat} {r : Nat × Nat} (hoff : off < 0x1000000) (hup : blockUp s none off = true)
    (hhit : placeHit none off n = some r) (hok : accessOk r off n = false) :
    writeAt s .owner off n v = s.emit .ur := by
  simp [writeAt, apertureOf_owner_pf hoff, hup, hhit, hok]

theorem readAt_reserved {s : State} {off n : Nat} (hoff : off < 0x1000000) (hup : blockUp s none off = true)
    (hhit : placeHit none off n = none) (hwin : inWindow none off n = false) (hdev : inDevice none off = false)
    (hnext : nextHit .owner off n = false) : readAt s .owner off n = answer s 0 := by
  simp [readAt, apertureOf_owner_pf hoff, hup, hhit, hwin, hdev, hnext]

theorem writeAt_reserved {s : State} {off n v : Nat} (hoff : off < 0x1000000) (hup : blockUp s none off = true)
    (hhit : placeHit none off n = none) (hdev : inDevice none off = false) (hnext : nextHit .owner off n = false) :
    writeAt s .owner off n v = s := by
  simp [writeAt, apertureOf_owner_pf hoff, hup, hhit, hdev, hnext]

theorem readAt_down {s : State} {off n : Nat} (hoff : off < 0x1000000) (hdown : blockUp s none off = false) :
    readAt s .owner off n = answer s 0 := by
  simp [readAt, apertureOf_owner_pf hoff, hdown]

theorem writeAt_down {s : State} {off n v : Nat} (hoff : off < 0x1000000) (hdown : blockUp s none off = false) :
    writeAt s .owner off n v = s := by
  simp [writeAt, apertureOf_owner_pf hoff, hdown]

/-- R420: from LDR to LNK, nothing answers before Ready. -/
theorem blockUp_notReady {s : State} {off : Nat} (hready : s.bg.ready = false) (hlow : 0x500000 ≤ off)
    (hhigh : off < 0xD00000) : blockUp s none off = false := by
  have h4 : ¬ off / 0x100000 ≤ 4 := by omega
  have h13 : off / 0x100000 ≠ 13 := by omega
  have h15 : off / 0x100000 ≠ 15 := by omega
  simp [blockUp, hready, h4, h13, h15]

/-! ### Whole registers and halves (R16, R17) -/

theorem accessOk_whole (off : Nat) : accessOk (off, 8) off 8 = true := by simp [accessOk]
theorem accessOk_lower (off : Nat) : accessOk (off, 8) off 4 = true := by simp [accessOk]
theorem accessOk_upper (off : Nat) : accessOk (off, 8) (off + 4) 4 = true := by simp [accessOk]

theorem readHalf_lower (s : State) (t : Option Nat) (k off : Nat) : readHalf s t k off off 8 4 =
    answer (s.setLatch k (some (BitVec.ofNat 32 (halfOf (readReg s t off) 1)))) (halfOf (readReg s t off) 0) := by
  simp [readHalf]

theorem readHalf_upper_latched {s : State} {t : Option Nat} {k off : Nat} {u : BitVec 32} (h : s.latchOf k = some u) :
    readHalf s t k (off + 4) off 8 4 = answer (s.setLatch k none) u.toNat := by
  simp [readHalf, h]

theorem readHalf_upper_free {s : State} {t : Option Nat} {k off : Nat} (h : s.latchOf k = none) :
    readHalf s t k (off + 4) off 8 4 = answer s (halfOf (readReg s t off) 1) := by
  simp [readHalf, h]

theorem writeHalf_lower (s : State) (t : Option Nat) (k off v : Nat) :
    writeHalf s t k off off 8 4 v = s.setHalf k (some (BitVec.ofNat 32 v)) := by
  simp [writeHalf]

theorem writeHalf_upper_kept {s : State} {t : Option Nat} {k off v : Nat} {l : BitVec 32} (h : s.halfAt k = some l) :
    writeHalf s t k (off + 4) off 8 4 v = writeReg (s.setHalf k none) t off (v % 2 ^ 32 * 2 ^ 32 + l.toNat) := by
  simp [writeHalf, h]

theorem writeHalf_upper_free {s : State} {t : Option Nat} {k off v : Nat} (h : s.halfAt k = none) :
    writeHalf s t k (off + 4) off 8 4 v =
      writeReg (s.setHalf k none) t off (v % 2 ^ 32 * 2 ^ 32 + halfOf (readReg s t off) 0) := by
  simp [writeHalf, h]

theorem ofNat_mod_self (n x : Nat) : BitVec.ofNat n (x % 2 ^ n) = BitVec.ofNat n x := by
  apply BitVec.eq_of_toNat_eq
  simp

theorem halfOf_low (x : Nat) : halfOf x 0 = x % 2 ^ 32 := by simp [halfOf]
theorem halfOf_high (x : Nat) : halfOf x 1 = x / 2 ^ 32 % 2 ^ 32 := by simp [halfOf]

/-! ### Tenant blocks -/

theorem apertureOf_owner_block {t o : Nat} (ht : t < 256) (ho : o < 0x10000) :
    apertureOf .owner (0x1000000 + 0x10000 * t + o) = some (some t, o) := by
  have hin : 0x1000000 ≤ 0x1000000 + 0x10000 * t + o ∧ 0x1000000 + 0x10000 * t + o < 0x2000000 := by omega
  refine (if_pos hin).trans ?_
  rw [show (0x1000000 + 0x10000 * t + o - 0x1000000) / 0x10000 = t from by omega,
    show (0x1000000 + 0x10000 * t + o) % 0x10000 = o from by omega]

theorem apertureOf_tenant {t o : Nat} (ht : t < 256) (ho : o < 0x10000) : apertureOf (.tenant t) o = some (some t, o) :=
  if_pos ⟨ht, ho⟩

theorem gaugeHit (t : Nat) : placeHit (some t) 0x1008 8 = some (0x1008, 8) := by
  simp only [placeHit, Option.isSome_some, if_true]; decide

theorem writeBackHit (t : Nat) : placeHit (some t) 0x20 8 = some (0x20, 8) := by
  simp only [placeHit, Option.isSome_some, if_true]; decide

theorem writeTenant_gauge (s : State) (t v : Nat) :
    writeTenant s t 0x1008 v = s.modTenant t fun x => { x with gCfg := BitVec.ofNat 64 v } := by
  simp [writeTenant]

/-- The owner writes GAUGE of a tenant whether or not it drains. -/
theorem writeAt_gauge {s : State} {t : Nat} (v : BitVec 64) (ht : t < 256) (hready : s.bg.ready = true) :
    ∃ k, writeAt s .owner (0x1000000 + 0x10000 * t + 0x1008) 8 v.toNat =
      (s.setHalf k none).modTenant t fun x => { x with gCfg := v } := by
  refine ⟨0x1000000 + 0x10000 * t + 0x1008 - 0x1008 + 0x1008, ?_⟩
  have hwrite : ∀ u : State, writeTenant u t 0x1008 (v.toNat % 2 ^ 64) = u.modTenant t fun x => { x with gCfg := v } :=
    fun u => by rw [writeTenant_gauge, ofNat_mod_self, BitVec.ofNat_toNat, BitVec.setWidth_eq]
  rw [← hwrite]
  simp [writeAt, apertureOf_owner_block ht (show (0x1008 : Nat) < 0x10000 by decide), blockUp, hready, gaugeHit t,
    accessOk_whole, viewWrites, drained, writeHalf, writeReg, viewKey_owner]

theorem writeAt_tenant_gauge {s : State} {t v : Nat} (ht : t < 256) (hready : s.bg.ready = true) :
    writeAt s (.tenant t) 0x1008 8 v = s := by
  simp [writeAt, apertureOf_tenant ht (show (0x1008 : Nat) < 0x10000 by decide), blockUp, hready, gaugeHit t,
    accessOk_whole, viewWrites]

theorem writeAt_draining {s : State} {t v : Nat} (ht : t < 256) (hready : s.bg.ready = true)
    (hdrain : (s.tenant t).draining = true) : writeAt s (.tenant t) 0x20 8 v = drainDrop s t := by
  simp [writeAt, apertureOf_tenant ht (show (0x20 : Nat) < 0x10000 by decide), blockUp, hready, writeBackHit t,
    accessOk_whole, viewWrites, drained, hdrain]

/-- Settles O59: by the shape of the access, from the aperture to the half of the register. -/
theorem registerAccess : Obligations.RegisterAccess := by
  intro s off n t v hok hoff
  dsimp only
  refine ⟨?halves, ?bad, ?reserved, ?down, ?outside, ?tenants⟩
  case halves =>
    rintro hup hup4 hoff4 ⟨hhit, hhit4, hhit8⟩
    refine ⟨?_, ?_, ?_, ?_, ?_, ?_, ?_, ?_⟩
    · exact congrArg Host.Outcome.next (readAt_pf hoff hup hhit8 (accessOk_whole off))
    · refine congrArg Host.Outcome.next ((writeAt_pf hoff hup hhit8 (accessOk_whole off)).trans ?_)
      simp [writeHalf, writeReg, Nat.mod_eq_of_lt v.isLt]
    · refine congrArg Host.Outcome.next ((readAt_pf hoff hup hhit (accessOk_lower off)).trans ?_)
      rw [readHalf_lower, halfOf_low, halfOf_high, ofNat_mod_self]
      rfl
    · intro u hu
      refine congrArg Host.Outcome.next ((readAt_pf hoff4 hup4 hhit4 (accessOk_upper off)).trans ?_)
      rw [readHalf_upper_latched hu]
      exact congrArg (fun w => (s.setLatch off none).emit (.mmioRead (some w))) (BitVec.ofNat_toNat 64 u)
    · intro hu
      refine congrArg Host.Outcome.next ((readAt_pf hoff4 hup4 hhit4 (accessOk_upper off)).trans ?_)
      rw [readHalf_upper_free hu, halfOf_high]; rfl
    · refine congrArg Host.Outcome.next ((writeAt_pf hoff hup hhit (accessOk_lower off)).trans ?_)
      rw [writeHalf_lower]; rfl
    · intro l hl
      refine congrArg Host.Outcome.next ((writeAt_pf hoff4 hup4 hhit4 (accessOk_upper off)).trans ?_)
      exact writeHalf_upper_kept hl
    · intro hl
      refine congrArg Host.Outcome.next ((writeAt_pf hoff4 hup4 hhit4 (accessOk_upper off)).trans ?_)
      rw [writeHalf_upper_free hl, halfOf_low]; rfl
  case bad =>
    intro r hup hhit hacc
    exact ⟨congrArg Host.Outcome.next (writeAt_bad hoff hup hhit hacc),
      congrArg Host.Outcome.next (readAt_bad hoff hup hhit hacc), congrArg Host.Outcome.next (readAt_bad hoff hup hhit hacc)⟩
  case reserved =>
    intro hup hhit hwin hdev hnext
    exact ⟨congrArg Host.Outcome.next (readAt_reserved hoff hup hhit hwin hdev hnext),
      congrArg Host.Outcome.next (writeAt_reserved hoff hup hhit hdev hnext)⟩
  case down =>
    intro hready hlow hhigh
    have hdown := blockUp_notReady hready hlow hhigh
    exact ⟨congrArg Host.Outcome.next (readAt_down hoff hdown), congrArg Host.Outcome.next (readAt_down hoff hdown),
      congrArg Host.Outcome.next (writeAt_down hoff hdown)⟩
  case outside => exact ⟨rfl, rfl⟩
  case tenants =>
    intro hready ht
    have hwf := (sound_of_tablesOk hok).tenants trivial
    refine ⟨?_, congrArg Host.Outcome.next (writeAt_tenant_gauge ht hready), fun hdrain => ?_⟩
    · obtain ⟨k, hk⟩ := writeAt_gauge v ht hready
      exact ⟨_, congrArg Host.Outcome.next hk, tenant_modTenant hwf, rfl, rfl⟩
    · exact ⟨_, congrArg Host.Outcome.next (writeAt_draining ht hready hdrain), tenant_modTenant hwf⟩

end Sys2Proof.Proofs
end

section
/-! PROOFS. Register values at reset: the owner's aperture block by block, the tenant blocks once for every tenant. -/

namespace Sys2Proof.Proofs

open Sys2Proof Sys2Proof.Machine Sys2Proof.Safety Sys2Proof.Laws

/-- Offsets that the fuses and the stores give, and WST_HEALTH: the exceptions of R471's reset column. -/
def givenOffset (o : Nat) : Bool := o == 0 || (o / 0x100 == 0x3002) || o == 0xA00300 || (o / 0x100000 == 0xB)

/-- The registers of the owner's aperture whose reset value is not 0. -/
def resetNonzero : List (Nat × Nat) :=
  [(0x100000, 5), (0x200000, 9000), (0x200010, 0x578), (0x200020, 0x258), (0x300308, 4),
    (0x300310, 0xFF0000), (0x300318, 0x100), (0xA00010, 0x10000), (0xF00000, 0x1E00)]

/-- The reset value that the index gives a register (R471). -/
def resetValue (o : Nat) : Nat := ((resetNonzero.find? fun e => e.1 == o).map (·.2)).getD 0

/-- The offsets of the registers of some rows of the index. -/
def rowOffsets (l : List (Nat × Nat × Nat × Nat)) : List Nat :=
  l.flatMap fun r => (List.range r.2.1).map fun j => r.1 + j * r.2.2.1

/-- The registers of some rows read their reset values. -/
def ReadReset (l : List (Nat × Nat × Nat × Nat)) : Prop :=
  ∀ o, o ∈ rowOffsets l → givenOffset o = false → readPf State.reset o = resetValue o

theorem ReadReset.append {l m : List (Nat × Nat × Nat × Nat)} (hl : ReadReset l) (hm : ReadReset m) : ReadReset (l ++ m) := by
  intro o ho
  rw [rowOffsets, List.flatMap_append, List.mem_append] at ho
  exact ho.elim (hl o) (hm o)

theorem readReset_bg : ReadReset pfBg := by unfold ReadReset; decide
theorem readReset_pwr : ReadReset pfPwr := by unfold ReadReset; decide
theorem readReset_thm : ReadReset pfThm := by unfold ReadReset; decide
theorem readReset_adc : ReadReset pfAdc := by unfold ReadReset; decide
theorem readReset_sec : ReadReset pfSec := by unfold ReadReset; decide
theorem readReset_ldr : ReadReset pfLdr := by unfold ReadReset; decide
theorem readReset_js : ReadReset pfJs := by unfold ReadReset; decide
theorem readReset_srv : ReadReset pfSrv := by unfold ReadReset; decide
theorem readReset_kv : ReadReset pfKv := by unfold ReadReset; decide +kernel
theorem readReset_wst : ReadReset pfWst := by unfold ReadReset; decide
theorem readReset_rest : ReadReset pfRest := by unfold ReadReset; decide

/-! ### Snowpack's registers: three a tenant, all 0 -/

theorem readSnp_reset (o : Nat) : readSnp State.reset o = 0 := by
  have htenant : State.reset.tenant (o / 32) = {} := rfl
  unfold readSnp
  split
  · rfl
  · dsimp only
    rw [htenant]
    split <;> rfl

theorem rowOffsets_snp {o : Nat} (h : o ∈ rowOffsets pfSnp) : 0x900000 ≤ o ∧ o < 0x910000 := by
  simp only [rowOffsets, pfSnp, List.flatMap_cons, List.flatMap_nil, List.mem_append, List.mem_map, List.mem_range,
    List.not_mem_nil, or_false] at h
  obtain ⟨j, hj, rfl⟩ | ⟨j, hj, rfl⟩ | ⟨j, hj, rfl⟩ | ⟨j, hj, rfl⟩ := h <;> omega

theorem resetValue_snp {o : Nat} (hlow : 0x900000 ≤ o) (hhigh : o < 0x910000) : resetValue o = 0 := by
  have hnone : (resetNonzero.find? fun e => e.1 == o) = none := by
    simp only [resetNonzero, List.find?_eq_none, List.mem_cons, List.not_mem_nil, or_false, forall_eq_or_imp, forall_eq,
      beq_iff_eq]
    omega
  rw [resetValue, hnone]; rfl

theorem readReset_snp : ReadReset pfSnp := by
  intro o ho _
  obtain ⟨hlow, hhigh⟩ := rowOffsets_snp ho
  have hblock : o / 0x100000 = 9 := by omega
  rw [resetValue_snp hlow hhigh, readPf, hblock]
  exact readSnp_reset _

theorem readReset_pf : ReadReset pfRegs :=
  ((((((((((readReset_bg.append readReset_pwr).append readReset_thm).append readReset_adc).append readReset_sec).append
    readReset_ldr).append readReset_js).append readReset_srv).append readReset_kv).append readReset_snp).append
    readReset_wst).append readReset_rest

/-! ### Tenant blocks: every tenant is disabled and holds its default registers -/

theorem ite_eq_of_eq {α : Type} {p : Prop} [Decidable p] {a b c : α} (ha : a = c) (hb : b = c) : (if p then a else b) = c := by
  split
  · exact ha
  · exact hb

theorem readTqStat_reset (t : Nat) : readTqStat State.reset t = 0 := by
  have htenant : State.reset.tenant t = {} := rfl
  have hoff : tenantEnabled State.reset t = false := by simp [tenantEnabled, htenant]
  simp [readTqStat, htenant, hoff, fld, flg, b2n]

theorem readTenant_reset (t o : Nat) : readTenant State.reset t o = 0 := by
  unfold readTenant
  iterate 7 refine ite_eq_of_eq rfl ?_
  refine ite_eq_of_eq (readTqStat_reset t) ?_
  iterate 10 refine ite_eq_of_eq rfl ?_
  exact ite_eq_of_eq rfl rfl

/-- Settles O60: the registers of the owner's aperture block by block, a tenant's for every tenant at once. -/
theorem resetValues : Obligations.ResetValues :=
  ⟨readReset_pf, fun t o _ _ => readTenant_reset t o⟩

end Sys2Proof.Proofs
end

section
/-! PROOFS. The CXL link, failed host reads, CXL.mem and SPDM. -/

namespace Sys2Proof.Proofs

open Sys2Proof Sys2Proof.Machine Sys2Proof.Safety Sys2Proof.Laws

/-! ### The link (R349-R351) -/

theorem linkDown_up {s : State} (h : s.host.linkUp = true) :
    linkDown s = { s with host := { s.host with linkUp := false, linkHeld := true } } := if_pos h

/-- Up to four replays, or a link that trains again, only count. -/
theorem replays_step {s : State} (h : s.host.linkUp = true) (n : Nat) (trained : Bool) :
    exec (.cxlLinkDown (.replays n trained)) s = .next { s with host := { s.host with
      replay := min 65535 (s.host.replay + min n 4), linkUp := decide (n ≤ 4) || trained,
      linkHeld := s.host.linkHeld || !(decide (n ≤ 4) || trained) } } := by
  simp only [exec_cxlLinkDown, execCxlLinkDown]
  by_cases hup : n ≤ 4 ∨ trained = true
  · have hdec : (decide (n ≤ 4) || trained) = true := by simpa using hup
    rw [if_pos hup, hdec, Bool.not_true, Bool.or_false]
    exact congrArg (fun b => Host.Outcome.next { s with host := { s.host with
      replay := min 65535 (s.host.replay + min n 4), linkUp := b } }) h
  · have hdec : (decide (n ≤ 4) || trained) = false := by simpa using hup
    rw [if_neg hup, hdec, linkDown_up (by exact h)]
    rw [Bool.not_false, Bool.or_true]
    rfl

theorem getD_mem_of_mem {α : Type} {l : List α} {d : α} (hd : d ∈ l) (i : Nat) : l.getD i d ∈ l := by
  rw [List.getD_eq_getElem?_getD]
  cases h : l[i]? with
  | none => exact hd
  | some x => exact List.mem_of_getElem? h

theorem linkRise_ready {s : State} (hready : s.bg.ready = true) (hpres : bit s.pnl.pres.toNat 17 = true) :
    linkRise s = linkTrained s := if_pos (by simp [hready, hpres])

theorem linkRise_absent {s : State} (hpres : bit s.pnl.pres.toNat 17 = false) : linkRise s = s := if_neg (by simp [hpres])

/-! ### Host reads that fail twice (R347, R349) -/

theorem again_step (what : ReadKind) (addr : BitVec 64) (s : State) :
    exec (.cxlCompletionTimeout what addr true false) s = .next (readFailedTwice s what addr) := rfl

theorem reqFailed_block {addr : BitVec 64} {r : Req} (hcmd : reqCmd r.entry = 1)
    (hrun : inRun addr (leAt r.entry 16 8) 256 = true) : reqFailed false addr r = { r with blk := none } := by
  simp [reqFailed, hcmd, reqAddr, hrun]

theorem submissionFailed_block {s : State} {addr : BitVec 64} {r : Req} {p : List Byte} (hq : s.hub.queue = [r])
    (hcmd : reqCmd r.entry = 1) (hblk : r.blk = some p) (hrun : inRun addr (leAt r.entry 16 8) 256 = true) :
    submissionFailed s addr = { s with hub := { s.hub with queue := [{ r with blk := none }] } } := by
  have hchanged : [{ r with blk := none }] ≠ [r] := by
    intro h
    have hblk' := congrArg Req.blk (List.cons.inj h).1
    simp [hblk] at hblk'
  simp [submissionFailed, hq, reqFailed_block hcmd hrun, hchanged]

theorem submissionFailed_ring {s : State} {addr : BitVec 64} {t : Nat} (hq : s.hub.queue = [])
    (ht : ringTenant s addr = some t) : submissionFailed s addr = ownerEvent (reject s t 5 0) 11 0 t addr := by
  have htag : reqTag ([] : List Byte) = 0 := rfl
  simp [submissionFailed, hq, ht, readFailed, htag]

theorem snowFailed_single {s : State} {addr : BitVec 64} {n : Nat} {q : Seq} {r : ParkRec} (hslots : s.hub.slots = [(n, q)])
    (hst : q.st = 7) (hparked : s.hub.parked = [r]) (hid : r.parkId = q.parkId) (htgt : bit r.tgt.toNat 62 = false)
    (hrun : inRun addr (extentAddr r.base r.ext) (r.next * 2 ^ 20) = true) : snowFailed s addr = restoreFail s n 2 := by
  simp only [Nat.reducePow] at hrun
  simp [snowFailed, hslots, hparked, hst, hid, htgt, hrun]

/-- A restore that fails frees its slot, keeps its record and is counted. -/
theorem restoreFail_frees {s : State} (h : twf ({} : Seq) s.hub.slots = true) (n why : Nat) :
    (restoreFail s n why).slot n = {} ∧ (restoreFail s n why).hub.parked = s.hub.parked ∧
      (restoreFail s n why).hub.restFail = min 65535 (s.hub.restFail + 1) := by
  have htold := told_seqEvent { s with hub := { s.hub with restFail := satAdd 65535 s.hub.restFail 1 } } n 9 why 0
  have hwf : twf ({} : Seq) (seqEvent { s with hub := { s.hub with restFail := satAdd 65535 s.hub.restFail 1 } }
      n 9 why 0).hub.slots = true := by rw [htold.slots]; exact h
  refine ⟨freeSlot_slot hwf n, ?_, ?_⟩
  · exact (toldBut_freeSlot ..).parked.trans htold.parked
  · rw [restoreFail, Told.hub (toldBut_freeSlot ..), withSlots, htold.hub]; rfl

theorem twf_single {α : Type} [DecidableEq α] {d x : α} (h : x ≠ d) (n : Nat) : twf d [(n, x)] = true := by
  simp [twf, twfFrom, h]

/-! ### CXL.mem: one aligned line of the staging region (R309, R362) -/

theorem linesOf_line {addr : Nat} (h : addr % 64 = 0) : linesOf addr 64 = [addr / 64] := by
  have hone : (addr + 64 + 63) / 64 - addr / 64 = 1 := by omega
  simp [linesOf, hone]

/-- A write of a whole line reads nothing; a read of it reads that line when it stands in the staging region. -/
theorem hdmTouched_write {s : State} {addr : Nat} (h : addr % 64 = 0) : hdmTouched s addr 64 true = [] := by
  have haddr : 64 * (addr / 64) = addr := by omega
  simp [hdmTouched, linesOf_line h, haddr]

theorem hdmTouched_read {s : State} {addr : Nat} (h : addr % 64 = 0) (hin : addr + 64 ≤ stagingSize s) :
    hdmTouched s addr 64 false = [addr / 64] := by
  have haddr : 64 * (addr / 64) = addr := by omega
  simp [hdmTouched, linesOf_line h, haddr, hin]

theorem hdmTouched_beyond {s : State} {addr : Nat} (h : addr % 64 = 0) (hout : stagingSize s < addr + 64) :
    hdmTouched s addr 64 false = [] := by
  have haddr : 64 * (addr / 64) = addr := by omega
  simp [hdmTouched, linesOf_line h, haddr, hout]

theorem hdmRead_in {s : State} {addr : Nat} (h : addr % 64 = 0) (hin : addr + 64 ≤ stagingSize s) :
    hdmRead s [] addr 64 = kvRunRead s 3 addr 64 := by
  have hline : ¬ stagingSize s < addr + 64 := by omega
  have haddr : 64 * (addr / 64) = addr := by omega
  simp [hdmRead, linesOf_line h, hdmLine, hline, haddr, h, kvRunRead]

theorem hdmRead_beyond {s : State} {addr : Nat} (h : addr % 64 = 0) (hout : stagingSize s < addr + 64) :
    hdmRead s [] addr 64 = List.replicate 64 0 := by
  have haddr : 64 * (addr / 64) = addr := by omega
  simp [hdmRead, linesOf_line h, hdmLine, hout, haddr, h]

theorem hdmWrite_in {s : State} {addr : Nat} {d : List Byte} (h : addr % 64 = 0) (hin : addr + 64 ≤ stagingSize s)
    (hd : d.length = 64) : hdmWrite s addr d [] = kvRunWrite s 3 addr d 1 := by
  have haddr : 64 * (addr / 64) = addr := by omega
  have htake : ∀ l, List.take 64 (d ++ l) = d := fun l => by rw [← hd]; exact List.take_left
  simp [hdmWrite, hd, linesOf_line h, haddr, hin, h, htake]

theorem hdmCount_in {s : State} {addr n : Nat} (h : addr + n ≤ stagingSize s) : hdmCount s addr n = s :=
  if_neg (by omega)

theorem hdmCount_beyond {s : State} {addr n : Nat} (h : stagingSize s < addr + n) :
    hdmCount s addr n = { s with host := { s.host with hdmOob := min 65535 (s.host.hdmOob + 1) } } := if_pos h

theorem filter_contains_nil (l : List Nat) : l.filter ([] : List Nat).contains = [] :=
  List.filter_eq_nil_iff.2 fun _ _ => Bool.false_ne_true

/-- An access with no line the check bits cannot correct. -/
theorem hdmAccess_read {s : State} {addr : Nat} {corr : Nat} (hready : s.bg.ready = true) (hin : addr + 64 ≤ s.host.hdmSize) :
    exec (.hdmAccess addr none 64 ⟨[], corr⟩) s =
      (let s1 := kvCorrected s (min corr (hdmTouched s addr 64 false).length)
      .next ((hdmCount s1 addr 64).emit (.memRead (hdmRead s [] addr 64)))) := by
  have hsize : ¬ s.host.hdmSize < addr + 64 := by omega
  simp [execHdmAccess, hready, hsize, filter_contains_nil, badLines]

theorem hdmAccess_write {s : State} {addr corr : Nat} {d : List Byte} (hready : s.bg.ready = true)
    (hin : addr + 64 ≤ s.host.hdmSize) (hd : d.length = 64) :
    exec (.hdmAccess addr (some d) 64 ⟨[], corr⟩) s =
      (let s1 := kvCorrected s (min corr (hdmTouched s addr 64 true).length)
      .next (hdmCount (hdmWrite s1 addr d []) addr 64)) := by
  have hsize : ¬ s.host.hdmSize < addr + 64 := by omega
  simp [execHdmAccess, hready, hsize, filter_contains_nil, badLines, hd]

theorem hdmAccess_outside {s : State} {addr n : Nat} (h : s.host.hdmSize < addr + n) (e : LineRes) :
    exec (.hdmAccess addr none n e) s = .next (s.emit .ur) := by
  simp [execHdmAccess, h]

/-! ### The obligation -/

/-- Settles O46: each command by the branches of its definition. -/
theorem linkAndHostReads : Obligations.LinkAndHostReads := by
  intro s
  refine ⟨fun hup => ⟨?_, ?_, replays_step hup⟩, fun hready hpres => ?_, fun hpres => ?_, fun what addr => ⟨rfl, rfl⟩,
    fun addr hst => ?_, fun addr r p hq hcmd hblk hrun => ?_, fun addr t _ hq hring => ?_,
    fun addr n q r hslots hst hparked hid htgt hrun => ?_, fun addr corr haddr hready hsize => ⟨fun hin => ⟨?_, ?_⟩, fun hout => ?_⟩,
    fun addr n bad corr hout => hdmAccess_outside hout _, fun req keys hup => ?_, fun req keys hdown => ?_⟩
  · exact congrArg Host.Outcome.next (linkDown_up hup)
  · exact congrArg Host.Outcome.next (linkDown_up hup)
  · refine ⟨_, congrArg Host.Outcome.next (linkRise_ready hready hpres), rfl, ?_, ?_, rfl, rfl⟩
    · exact getD_mem_of_mem (by decide) _
    · exact getD_mem_of_mem (by decide) _
  · exact congrArg Host.Outcome.next (linkRise_absent hpres)
  · exact ⟨_, congrArg Host.Outcome.next (if_pos hst), loadEnds_loadFault .., loadFault_fA ..⟩
  · exact congrArg Host.Outcome.next (submissionFailed_block hq hcmd hblk hrun)
  · exact congrArg Host.Outcome.next (submissionFailed_ring hq hring)
  · have hwf : twf ({} : Seq) s.hub.slots = true := by
      rw [hslots]
      exact twf_single (fun h => by rw [h] at hst; exact absurd hst (by decide)) n
    obtain ⟨hslot, hkept, hcount⟩ := restoreFail_frees hwf n 2
    exact ⟨_, congrArg Host.Outcome.next (snowFailed_single hslots hst hparked hid htgt hrun), hslot, hkept.trans hparked, hcount⟩
  · rw [hdmAccess_read hready hsize, hdmTouched_read haddr hin, hdmRead_in haddr hin]
    exact congrArg (fun u : State => Host.Outcome.next (u.emit _)) (hdmCount_in (s := kvCorrected s _) hin)
  · intro d hd
    have hwrite := hdmWrite_in (s := kvCorrected s (min corr 0)) haddr hin hd
    rw [hdmAccess_write hready hsize hd, hdmTouched_write haddr]
    dsimp only [List.length_nil]
    rw [hwrite, hdmCount_in (by rw [stagingSize_stored (stored_kvRunWrite ..)]; exact hin), Nat.min_zero]
  · rw [hdmAccess_read hready hsize, hdmTouched_beyond haddr hout, hdmRead_beyond haddr hout]
    dsimp only [List.length_nil]
    rw [Nat.min_zero]
    exact congrArg (fun u : State => Host.Outcome.next (u.emit _)) (hdmCount_beyond (s := kvCorrected s 0) hout)
  · exact ⟨_, if_neg (by simp [hup]), rfl, rfl, rfl⟩
  · exact if_pos (by simp [hdown])

end Sys2Proof.Proofs
end

section
/-! PROOFS. Rings, doorbells, interrupts, function resets and drains. -/

namespace Sys2Proof.Proofs

open Sys2Proof Sys2Proof.Machine Sys2Proof.Safety Sys2Proof.Laws

/-- One tenant is k; the others and the hub are as they were. -/
def OnlyTenant (s : State) (t : Nat) (k : Tenant) (u : State) : Prop :=
  u.tenant t = k ∧ (∀ n, n ≠ t → u.tenant n = s.tenant n) ∧ u.hub = s.hub

theorem onlyTenant_modTenant {s : State} {t : Nat} {f : Tenant → Tenant} (h : twf ({} : Tenant) s.tenants = true) :
    OnlyTenant s t (f (s.tenant t)) (s.modTenant t f) :=
  ⟨tenant_modTenant h, fun _ hn => tenant_setTenant_ne h hn, rfl⟩

theorem ringOk_tenant {t : Nat} (own : Bool) (ht : t < 256) : ((!ringOk (.oq t)) || (!own && RingId.oq t == .owner)) = false ∧
    ((!ringOk (.sq t)) || (!own && RingId.sq t == .owner)) = false := by
  have hoq : (RingId.oq t == .owner) = false := rfl
  have hsq : (RingId.sq t == .owner) = false := rfl
  simp [ringOk, ht, hoq, hsq]

/-! ### The doorbell (R323, R355) -/

/-- The tenant's enables and the function's stand apart from the ring's indices. -/
theorem tenantEnabled_congr {s u : State} {t : Nat} (hhost : u.host = s.host) (hmse : (u.tenant t).mse = (s.tenant t).mse)
    (hbme : (u.tenant t).bme = (s.tenant t).bme) (hdrain : (u.tenant t).draining = (s.tenant t).draining) :
    tenantEnabled u t = tenantEnabled s t := by
  simp only [tenantEnabled, hhost, hmse, hbme, hdrain]

theorem wakeUp_keeps (s : State) : wakeUp s = { s with pwr := (wakeUp s).pwr } := by
  unfold wakeUp
  split <;> rfl

/-- A doorbell of an index that holds one new entry. -/
theorem writeSqIndex_taken {s : State} {t : Nat} {x : BitVec 32} (hdrain : (s.tenant t).draining = false)
    (hocc : ringOcc x (s.tenant t).sqE = 1) :
    writeSqIndex s t x = if tenantEnabled s t then wakeUp (s.modTenant t fun k => { k with sqH := x })
      else s.modTenant t fun k => { k with sqH := x } := by
  have hsize : ¬ ringSize (s.tenant t).sqBase < 1 := Nat.not_lt.2 (Nat.one_le_two_pow)
  simp [writeSqIndex, hdrain, hocc, hsize]

theorem writeSqIndex_bad {s : State} {t : Nat} {x : BitVec 32} (hdrain : (s.tenant t).draining = false)
    (hocc : ringSize (s.tenant t).sqBase < ringOcc x (s.tenant t).sqE) : writeSqIndex s t x = badIndex s t := by
  simp [writeSqIndex, hdrain, hocc]

/-- An entry that the host answers is queued in the order of arrival. -/
theorem takeEntry_answered {s : State} {t : Nat} {addr : BitVec 64} {h : HostReq} (hon : s.host.hdmOn = false)
    (hlen : h.entry.length = 64) : takeEntry s t addr h = takeReq s (reqOf t h) := by
  have hoff : ∀ n, decoderOff s addr.toNat n = none := fun n => if_neg (by simp [hon])
  simp [takeEntry, stageBad, hubRead, hoff, hlen]

theorem readRing_one {s : State} {t : Nat} {h : HostReq} (hen : tenantEnabled s t = true)
    (hring : ringEn (s.tenant t).sqBase = true) (hocc : ringOcc (s.tenant t).sqH (s.tenant t).sqE = 1)
    (hon : s.host.hdmOn = false) (hlen : h.entry.length = 64) :
    readRing s t [h] = writeBack ((takeReq s (reqOf t h)).modTenant t fun k => { k with sqE := k.sqH }) t := by
  have hne : ((s.tenant t).sqH == (s.tenant t).sqE) = false := by
    rw [beq_eq_false_iff_ne]
    intro heq
    rw [heq, ringOcc, BitVec.sub_self] at hocc
    exact absurd hocc (by decide)
  simp [readRing, hring, hen, hne, hocc, takeEntries, takeEntry_answered hon hlen]

theorem readRing_empty {s : State} {t : Nat} {l : List HostReq} (h : (s.tenant t).sqH = (s.tenant t).sqE) :
    readRing s t l = s := by
  simp [readRing, h]

theorem contains_fresh (l : List Nat) (t : Nat) : (if l.contains t then l else l ++ [t]).contains t = true := by
  split
  next h => exact h
  next => simp

/-- A host index of a submission ring taken, with whatever the wake-up makes of the target. -/
def indexed (s : State) (t : Nat) (x : BitVec 32) (w : Pwr) : State :=
  { s.modTenant t (fun k => { k with sqH := x }) with pwr := w }

theorem indexed_tenant {s : State} (h : twf ({} : Tenant) s.tenants = true) (t : Nat) (x : BitVec 32) (w : Pwr) :
    (indexed s t x w).tenant t = { s.tenant t with sqH := x } :=
  tenant_modTenant (f := fun k => { k with sqH := x }) h

theorem writeSqIndex_enabled {s : State} {t : Nat} {x : BitVec 32} (hdrain : (s.tenant t).draining = false)
    (hocc : ringOcc x (s.tenant t).sqE = 1) (hen : tenantEnabled s t = true) : ∃ w, writeSqIndex s t x = indexed s t x w :=
  ⟨_, (writeSqIndex_taken hdrain hocc).trans ((if_pos hen).trans (wakeUp_keeps _))⟩

/-- The doorbell of one new entry of an enabled tenant queues it, and both indices stand at it. -/
theorem doorbell_one {s : State} {t : Nat} {x : BitVec 32} {h : HostReq} (hwf : twf ({} : Tenant) s.tenants = true)
    (hdrain : (s.tenant t).draining = false) (hen : tenantEnabled s t = true) (hring : ringEn (s.tenant t).sqBase = true)
    (hocc : ringOcc x (s.tenant t).sqE = 1) (hlen : h.entry.length = 64) (hon : s.host.hdmOn = false) :
    let u := readRing (writeSqIndex s t x) t [h]
    (u.tenant t).sqE = x ∧ (u.tenant t).sqH = x ∧
      u.hub.queue = insertReq { reqOf t h with tick := s.now, rank := (t + 256 - s.hub.ptr) % 256 } s.hub.queue ∧
      u.hub.fresh.contains t = true ∧ u.hub.slots = s.hub.slots := by
  obtain ⟨w, hw⟩ := writeSqIndex_enabled hdrain hocc hen
  have hk := indexed_tenant hwf t x w
  have hwf' : twf ({} : Tenant) (indexed s t x w).tenants = true := twf_tset hwf
  have hen' : tenantEnabled (indexed s t x w) t = true :=
    (tenantEnabled_congr (s := s) (u := indexed s t x w) rfl (by rw [hk]) (by rw [hk]) (by rw [hk])).trans hen
  have hread := readRing_one (h := h) hen' (by rw [hk]; exact hring) (by rw [hk]; exact hocc) hon hlen
  have hlast : ((takeReq (indexed s t x w) (reqOf t h)).modTenant t fun k => { k with sqE := k.sqH }).tenant t =
      { s.tenant t with sqH := x, sqE := x } := by
    have hset := tenant_modTenant (s := takeReq (indexed s t x w) (reqOf t h)) (t := t) (f := fun k => { k with sqE := k.sqH }) hwf'
    have hsame : (takeReq (indexed s t x w) (reqOf t h)).tenant t = { s.tenant t with sqH := x } := hk
    rwa [hsame] at hset
  dsimp only
  rw [hw, hread, writeBack_frame]
  exact ⟨congrArg Tenant.sqE hlast, congrArg Tenant.sqH hlast, rfl, contains_fresh .., rfl⟩

/-! ### Drains (R358, R359) -/

theorem told_setEvq (s : State) (t : Nat) (l : List Event) : Told s (s.setEvq t l) :=
  ⟨aside_beside rfl rfl, rfl, rfl, rfl, rfl, rfl, .refl _⟩

/-- Freeing the slots of a list of sequences frees these and no other. -/
theorem foldl_freeSlot {s : State} (h : twf ({} : Seq) s.hub.slots = true) (l : List (Nat × Seq)) :
    let u := l.foldl (fun s e => freeSlot s e.1) s
    ToldBut s u ∧ twf ({} : Seq) u.hub.slots = true ∧ ∀ n, u.slot n = if n ∈ l.map (·.1) then {} else s.slot n := by
  induction l generalizing s with
  | nil => exact ⟨.refl s, h, fun n => by simp⟩
  | cons e r ih =>
    obtain ⟨htold, hwf, hslot⟩ := ih (freeSlot_twf h e.1)
    refine ⟨(toldBut_freeSlot s e.1).trans htold, hwf, fun n => (hslot n).trans ?_⟩
    by_cases hr : n ∈ r.map (·.1)
    · simp [hr]
    · by_cases hn : n = e.1
      · simp [hn, freeSlot_slot h, ite_self]
      · rw [if_neg hr, freeSlot_slot_ne h hn, if_neg]
        simp only [List.map_cons, List.mem_cons, not_or]
        exact ⟨hn, hr⟩

/-- The registers of a tenant whose drain starts. -/
def drainStarted (k : Tenant) : Tenant :=
  { k with draining := true, latched := false, mse := false, bme := false, pCtl := pctlOf k.pCtl false }

/-- The tenant's requests and adapters gone and its enables cleared; its sequences still hold their slots. -/
def drainOpened (s : State) (t : Nat) : State :=
  let s1 := s.modTenant t drainStarted
  { s1 with hub := { s1.hub with
    adps := s1.hub.adps.filter fun e => e.2.tenant != t
    uploads := s1.hub.uploads.filter fun u => u.tenant != t
    queue := s1.hub.queue.filter fun r => r.tenant != t
    fresh := s1.hub.fresh.filter (· != t) } }

theorem startDrain_eq (s : State) (t : Nat) :
    startDrain s t = sweepAdps ((dropTenantSeqs (drainOpened s t) t).setEvq t []) := rfl

/-- Everything of a tenant's that lives ends: what is left of the slots, the records and the requests. -/
theorem dropTenantSeqs_reads {s : State} (h : twf ({} : Seq) s.hub.slots = true) (t : Nat) :
    let u := dropTenantSeqs s t
    RingsOnly s.tenants u.tenants ∧ u.host = s.host ∧ u.hub.queue = s.hub.queue ∧
      u.hub.parked = (s.hub.parked.filter fun r => r.tenant != t) ∧ twf ({} : Seq) u.hub.slots = true ∧
      ∀ n, (u.slot n).st ≠ 0 → (u.slot n).tenant ≠ t := by
  obtain ⟨htold, hwf, hslot⟩ := foldl_freeSlot h (seqsIn s fun q => q.st != 0 && q.tenant == t)
  refine ⟨htold.rings, htold.host, htold.queue, ?_, hwf, fun n => ?_⟩
  · exact congrArg (List.filter fun r => r.tenant != t) htold.parked
  · have hn : (dropTenantSeqs s t).slot n = _ := hslot n
    rw [hn]
    split
    next => exact fun hst => absurd rfl hst
    next hout =>
      intro hst hten
      refine hout (List.mem_map.2 ⟨(n, s.slot n), List.mem_filter.2 ⟨?_, by simp [hst, hten]⟩, rfl⟩)
      obtain hdef | hmem := tget_eq_default_or_mem ({} : Seq) s.hub.slots n
      · exact absurd (congrArg Seq.st (hdef : s.slot n = {})) hst
      · exact hmem

/-- What the start of a drain leaves of the hub (R358). -/
theorem startDrain_hub {s : State} (h : twf ({} : Seq) s.hub.slots = true) (t : Nat) :
    let u := startDrain s t
    u.host = s.host ∧ u.hub.queue = (s.hub.queue.filter fun r => r.tenant != t) ∧
      u.hub.parked = (s.hub.parked.filter fun r => r.tenant != t) ∧ twf ({} : Seq) u.hub.slots = true ∧
      ∀ n, (u.slot n).st ≠ 0 → (u.slot n).tenant ≠ t := by
  obtain ⟨-, hhost, hqueue, hparked, hwf, hslot⟩ := dropTenantSeqs_reads (s := drainOpened s t) h t
  have htold : Told (dropTenantSeqs (drainOpened s t) t) (startDrain s t) := (told_setEvq ..).trans (told_sweepAdps _)
  refine ⟨htold.host.trans hhost, htold.queue.trans hqueue, htold.parked.trans hparked, ?_, fun n => ?_⟩
  · rw [htold.slots]; exact hwf
  · rw [htold.slot]; exact hslot n

/-- A drain marks its tenant and leaves the others' registers but for their event rings. -/
theorem startDrain_tenants {s : State} (hs : twf ({} : Seq) s.hub.slots = true) (ht : twf ({} : Tenant) s.tenants = true) (t : Nat) :
    let u := startDrain s t
    twf ({} : Tenant) u.tenants = true ∧
      ((u.tenant t).draining = true ∧ (u.tenant t).mse = false ∧ (u.tenant t).bme = false) ∧
      ∀ n, n ≠ t → SameButRing (s.tenant n) (u.tenant n) := by
  obtain ⟨hdrop, -⟩ := dropTenantSeqs_reads (s := drainOpened s t) hs t
  have hrings : RingsOnly (drainOpened s t).tenants (startDrain s t).tenants :=
    hdrop.trans ((told_setEvq ..).trans (told_sweepAdps _)).rings
  have hwf : twf ({} : Tenant) (drainOpened s t).tenants = true := twf_tset ht
  have hsame := hrings.same hwf
  refine ⟨hrings.wf hwf, ?_, fun n hn => ?_⟩
  · have hset : tget ({} : Tenant) (drainOpened s t).tenants t = _ := tenant_modTenant ht
    have ht' : (startDrain s t).tenant t = _ := hsame t
    rw [ht', hset]
    exact ⟨rfl, rfl, rfl⟩
  · have hset : tget ({} : Tenant) (drainOpened s t).tenants n = s.tenant n := tenant_setTenant_ne ht hn
    have hn' := hsame n
    rwa [hset] at hn'

/-- A clear of VF Enable drains every tenant below NumVFs. -/
theorem foldl_startDrain {s : State} (hs : twf ({} : Seq) s.hub.slots = true) (ht : twf ({} : Tenant) s.tenants = true) (l : List Nat) :
    (l.foldl startDrain s).host = s.host ∧
      ∀ t, (t ∈ l ∨ (s.tenant t).draining = true) → ((l.foldl startDrain s).tenant t).draining = true := by
  induction l generalizing s with
  | nil => exact ⟨rfl, fun t h => h.resolve_left (List.not_mem_nil)⟩
  | cons n r ih =>
    obtain ⟨hhost, -, -, hwf, -⟩ := startDrain_hub hs n
    obtain ⟨hten, ⟨hn, -, -⟩, hothers⟩ := startDrain_tenants hs ht n
    obtain ⟨hhost', hdrain⟩ := ih hwf hten
    refine ⟨hhost'.trans hhost, fun t h => hdrain t ?_⟩
    by_cases htn : t = n
    · exact .inr (htn ▸ hn)
    · refine h.imp (fun hm => (List.mem_cons.1 hm).resolve_left htn) fun hd => ?_
      rw [hothers t htn]
      exact hd

theorem ownerEvent_tenants (s : State) (c r v : Nat) (g : BitVec 64) : (ownerEvent s c r v g).tenants = s.tenants := by
  rw [ownerEvent_frame]

/-! ### Function 0 (R359) -/

theorem stopSession_idle (s : State) (r : Nat) : (stopSession s r).wst.busy = false := by
  rw [stopSession]
  dsimp only
  split
  · exact (wstEnds_wstEnd _ _).1
  · split
    · exact (wstEnds_wstEnd _ _).1
    · exact (wstEnds_wstEnd _ _).1

theorem endSessions_idle (s : State) : (endSessions s).wst.busy = false := by
  rw [endSessions]
  dsimp only
  split <;> split
  · exact stopSession_idle ..
  · next h => exact Bool.eq_false_iff.2 h
  · exact stopSession_idle ..
  · next h => exact Bool.eq_false_iff.2 h

theorem interruptLoad_state {s : State} (c : Nat) (h1 : 1 ≤ s.ldr.state) (h7 : s.ldr.state ≤ 7) :
    (interruptLoad s c).ldr.state = 9 := by
  rw [interruptLoad, if_pos (loading_iff.2 ⟨h1, h7⟩), (loadFault_reads ..).2.1]

theorem interruptLoad_ended {s : State} (c : Nat) (h : 8 ≤ s.ldr.state) : interruptLoad s c = s :=
  if_neg fun hl => absurd (loading_iff.1 hl).2 (by omega)

/-- The owner event ring disabled and empty. -/
def ownerRingDown (s : State) : State :=
  { s with host := { s.host with eqBase := s.host.eqBase &&& 0xFFFFFFFFFFFFF7FF#64, eqH := 0, eqE := 0 } }

/-- What has ended when function 0 is reset, before the system capture. -/
def resetSessions (s : State) : State := endSessions (interruptLoad (ownerRingDown s) (Config.loadDetail 0x13 0).toNat)

theorem resetSessions_binding (s : State) :
    OnlyBinding { ownerRingDown s with ldr := (resetSessions s).ldr } (resetSessions s) := by
  have hend := onlyBinding_endSessions (interruptLoad (ownerRingDown s) (Config.loadDetail 0x13 0).toNat)
  obtain ⟨-, -, hldr, -⟩ := hend.keeps
  rw [resetSessions, hldr]
  exact (onlyBinding_interruptLoad ..).trans hend

theorem resetSessions_ldr (s : State) : (1 ≤ s.ldr.state → s.ldr.state ≤ 7 →
      (resetSessions s).ldr.state = 9 ∧ (resetSessions s).ldr.fCode = 0x13) ∧
    (8 ≤ s.ldr.state → (resetSessions s).ldr = s.ldr) := by
  obtain ⟨-, -, hldr, -⟩ := (onlyBinding_endSessions (interruptLoad (ownerRingDown s) (Config.loadDetail 0x13 0).toNat)).keeps
  rw [resetSessions, hldr]
  refine ⟨fun h1 h7 => ⟨interruptLoad_state (s := ownerRingDown s) _ h1 h7, interruptLoad_fCode (s := ownerRingDown s) h1 h7⟩,
    fun h8 => ?_⟩
  rw [interruptLoad_ended (s := ownerRingDown s) _ h8]
  rfl

theorem ringEn_cleared (b : BitVec 64) : ringEn (b &&& 0xFFFFFFFFFFFFF7FF#64) = false := by
  have hmask : (0xFFFFFFFFFFFFF7FF#64).toNat.testBit 11 = false := by decide
  rw [ringEn, bit_eq_testBit, BitVec.toNat_and, Nat.testBit_and, hmask, Bool.and_false]

/-- FUNCTION0_RESET ends what the owner's function runs and leaves the tenants and the program alone. -/
theorem function0Reset_reads (s : State) : Does .function0Reset s fun u => ringEn u.host.eqBase = false ∧ u.host.eqH = 0 ∧
    u.tenants = s.tenants ∧ u.plane = s.plane ∧ u.hub = s.hub ∧ u.wst.busy = false ∧ u.adc.scGo = false ∧
    (s.adc.scGo = true → u.adc.scResult = 5) ∧ (1 ≤ s.ldr.state → s.ldr.state ≤ 7 → u.ldr.state = 9 ∧ u.ldr.fCode = 0x13) ∧
    (8 ≤ s.ldr.state → u.ldr = s.ldr) := by
  have hbind := resetSessions_binding s
  obtain ⟨hbase, hidx, hten⟩ := hbind.hostRing
  obtain ⟨hplane, -, -, -, -, -, -, hhub, -⟩ := hbind.keeps
  obtain ⟨hfault, hkept⟩ := resetSessions_ldr s
  have hring : ringEn (resetSessions s).host.eqBase = false := by rw [hbase]; exact ringEn_cleared _
  have hidle : (resetSessions s).wst.busy = false := endSessions_idle _
  by_cases hgo : (resetSessions s).adc.scGo = true
  · exact ⟨_, congrArg Host.Outcome.next (if_pos hgo), hring, hidx, hten, hplane, hhub, hidle, rfl, fun _ => rfl, hfault, hkept⟩
  · refine ⟨_, congrArg Host.Outcome.next (if_neg hgo), hring, hidx, hten, hplane, hhub, hidle, Bool.eq_false_iff.2 hgo,
      fun h => absurd ?_ hgo, hfault, hkept⟩
    rw [hbind.adc]
    exact h

theorem raiseEvt_due {s : State} {t : Nat} (h : twf ({} : Tenant) s.tenants = true) (hdue : evtDue s t = true) :
    OnlyTenant s t { s.tenant t with evtNew := 0 } (raiseEvt s t) ∧ (raiseEvt s t).out = s.out ++ [.msix (t + 1) 0] := by
  rw [raiseEvt, if_pos hdue]
  exact ⟨onlyTenant_modTenant (f := fun k => { k with evtNew := 0 }) h, rfl⟩

theorem raiseTok_due {s : State} {t : Nat} (h : twf ({} : Tenant) s.tenants = true) (hdue : tokDue s t = true) :
    OnlyTenant s t { s.tenant t with tokNew := 0 } (raiseTok s t) ∧ (raiseTok s t).out = s.out ++ [.msix (t + 1) 1] := by
  rw [raiseTok, if_pos hdue]
  exact ⟨onlyTenant_modTenant (f := fun k => { k with tokNew := 0 }) h, rfl⟩

theorem interruptModeration_tenant {t : Nat} (ht : t < 256) (tok : Bool) (s : State) :
    exec (.interruptModeration t tok) s = .next (if tok then raiseTok s t else raiseEvt s t) :=
  congrArg Host.Outcome.next (if_neg (by omega))

/-- A drain that ends resets the tenant's rings and takes a latched enable. -/
theorem drainComplete_tenant {s : State} {t : Nat} (h : twf ({} : Tenant) s.tenants = true) (hd : (s.tenant t).draining = true) :
    Does (.drainComplete t) s fun u => u.tenant t = drainedTenant (s.tenant t) := by
  refine ⟨_, if_neg (by simp [hd]), ?_⟩
  show tget {} (ownerEvent _ 10 0 t 0).tenants t = _
  rw [ownerEvent_tenants]
  exact tenant_modTenant (f := drainedTenant) h

/-- Settles O45: each command by the branches of its definition; a drain by what freeing slots leaves. -/
theorem ringsAndFunctions : Obligations.RingsAndFunctions := by
  intro s t own hok ht
  have hwf : twf ({} : Tenant) s.tenants = true := (sound_of_tablesOk hok).tenants trivial
  have hslots : twf ({} : Seq) s.hub.slots = true := (sound_of_tablesOk hok).slots trivial
  obtain ⟨hoq, hsq⟩ := ringOk_tenant own ht
  dsimp only
  refine ⟨fun v hd => ⟨?_, ?_⟩, fun v hd => ?_, fun v hd => ⟨fun hocc => ?_, fun hocc => ?_⟩,
    fun x h hd hidx => ⟨fun hen hring hocc hlen hon => ?_, fun hocc => ?_⟩, fun hdue => ?_, fun hdue => ?_, fun hdue => ?_,
    fun hvf => ?_, ?_, fun hd => ?_, fun hd => ?_, fun hvf hen hd => ?_, fun hvf hen hd => ?_, ?_⟩
  · exact ⟨_, (if_neg (by simp [hoq])).trans (congrArg Host.Outcome.next (if_neg (by simp [hd]))), onlyTenant_modTenant hwf⟩
  · exact ⟨_, (if_neg (by simp [hsq])).trans (congrArg Host.Outcome.next (if_neg (by simp [hd]))), onlyTenant_modTenant hwf⟩
  · exact ⟨_, (if_neg (by simp [hoq])).trans (congrArg Host.Outcome.next (if_pos hd)), onlyTenant_modTenant hwf⟩
  · exact ⟨_, (if_neg (by simp [hoq])).trans (congrArg Host.Outcome.next
      ((if_neg (by simp [hd])).trans (if_neg (Nat.not_lt.2 hocc)))), onlyTenant_modTenant hwf⟩
  · exact ⟨_, (if_neg (by simp [hoq])).trans (congrArg Host.Outcome.next
      ((if_neg (by simp [hd])).trans (if_pos hocc))), onlyTenant_modTenant hwf⟩
  · exact ⟨_, congrArg Host.Outcome.next (if_pos ht), doorbell_one hwf hd hen hring hocc hlen hon⟩
  · have hbad := onlyTenant_modTenant (t := t) (f := fun k => { k with bad := satAdd 255 k.bad 1 }) hwf
    have hread : readRing (writeSqIndex s t x) t [h] = badIndex s t := by
      rw [writeSqIndex_bad hd hocc]
      exact readRing_empty (by rw [badIndex, hbad.1]; exact hidx)
    exact ⟨_, congrArg Host.Outcome.next ((if_pos ht).trans hread), hbad⟩
  · exact ⟨_, interruptModeration_tenant ht false s, raiseEvt_due hwf hdue⟩
  · exact ⟨_, interruptModeration_tenant ht true s, raiseTok_due hwf hdue⟩
  · exact (interruptModeration_tenant ht false s).trans (congrArg Host.Outcome.next (if_neg (Bool.eq_false_iff.1 hdue)))
  · obtain ⟨-, hqueue, hparked, -, hslot⟩ := startDrain_hub hslots t
    obtain ⟨-, ⟨hdrain, hmse, hbme⟩, -⟩ := startDrain_tenants hslots hwf t
    exact ⟨_, congrArg Host.Outcome.next (if_pos hvf), hdrain, hmse, hbme, hslot, hqueue, hparked⟩
  · obtain ⟨hhost, hdrain⟩ := foldl_startDrain (s := { s with host := { s.host with vfEn := false } }) hslots hwf
      (List.range s.host.numVFs)
    refine ⟨_, rfl, ?_, ?_, fun hvf => hdrain t (.inl (List.mem_range.2 hvf))⟩
    · exact congrArg HostIf.vfEn hhost
    · have hoff : (clearVfs s).host.vfEn = false := congrArg HostIf.vfEn hhost
      simp [tenantEnabled, hoff]
  · exact if_pos (by simp [hd])
  · obtain ⟨u, hu, hten⟩ := drainComplete_tenant hwf hd
    refine ⟨u, hu, ?_⟩
    dsimp only
    rw [hten]
    exact ⟨rfl, rfl, rfl, rfl, rfl, rfl, rfl, rfl, rfl⟩
  · exact ⟨_, congrArg Host.Outcome.next ((if_pos ⟨hvf, hen⟩).trans (if_neg (by simp [hd]))), onlyTenant_modTenant hwf⟩
  · have hlatched := onlyTenant_modTenant (t := t) (f := fun k => { k with latched := k.latched || (true && true) }) hwf
    refine ⟨_, congrArg Host.Outcome.next ((if_pos ⟨hvf, hen⟩).trans (if_pos hd)), ?_⟩
    rw [show ((s.tenant t).latched || (true && true)) = true from Bool.or_true _] at hlatched
    exact hlatched
  · exact function0Reset_reads s

end Sys2Proof.Proofs
end

section
/-! PROOFS. Engine time, gauges, the step boundary and adapter copies. -/

namespace Sys2Proof.Proofs

open Sys2Proof Sys2Proof.Machine Sys2Proof.Safety Sys2Proof.Laws

/-! ### Ticks (R314, R323, R328) -/

/-- A tick with no upload among the requests only moves the time, the rotation and the counts of held time. -/
theorem doUploads_none {s : State} (h : (s.hub.queue.all fun r => reqCmd r.entry != 6) = true) : doUploads s = s := by
  have hnone : (s.hub.queue.filter fun r => reqCmd r.entry == 6) = [] :=
    List.filter_eq_nil_iff.2 fun r hr => by simpa using List.all_eq_true.1 h r hr
  have hall : (s.hub.queue.filter fun r => reqCmd r.entry != 6) = s.hub.queue :=
    List.filter_eq_self.2 (List.all_eq_true.1 h)
  rw [doUploads, hnone, hall]
  rfl

theorem arrivalTick_counts {s : State} (hoff : s.pwr.off = false) (hq : (s.hub.queue.all fun r => reqCmd r.entry != 6) = true)
    (hvir : s.bg.virRetryAt = none) : Does .arrivalTick s fun t => t.hub.time = s.hub.time + 1 ∧ t.hub.fresh = [] ∧
      t.hub.ptr = (if 1 < s.hub.fresh.length then (s.hub.ptr + 1) % 256 else s.hub.ptr) ∧ t.hub.queue = s.hub.queue ∧
      t.tenants = s.tenants ∧ t.plane = s.plane := by
  have htick : hubTick s = _ := doUploads_none hq
  refine ⟨hubTick s, ?_, ?_⟩
  · have hkept : (hubTick s).bg.virRetryAt = none := by rw [htick]; exact hvir
    rw [exec_arrivalTick, execArrivalTick, if_neg (by simp [hoff])]
    dsimp only
    rw [hkept]
  · rw [htick]
    exact ⟨rfl, rfl, rfl, rfl, rfl, rfl⟩

/-- A gauge after its tick. -/
def refilled (k : Tenant) : Tenant :=
  { k with level := min (bits k.gCfg.toNat 63 32 : Int) (k.level + (bits k.gCfg.toNat 31 0 : Int)) }

theorem gaugeTick_refills {s : State} (h : twf ({} : Tenant) s.tenants = true) (n : Nat) :
    tget {} (tmap {} refilled s.tenants) n = refilled (s.tenant n) := tget_tmap (by decide) h

/-! ### The boundary (R315) -/

/-- A boundary leaves the cores and the cycle alone: what it writes beside the hub are stores and the fences they may bring. -/
theorem boundaryRun_cores (s : State) :
    (boundaryRun s).hub.committedOk = true ∧ (boundaryRun s).plane.cores = s.plane.cores ∧
      (boundaryRun s).plane.cycle = s.plane.cycle := by
  have hstart : Sound False False False (OnPlane fun p => p.cores = s.plane.cores ∧ p.cycle = s.plane.cycle) s :=
    ⟨nofun, nofun, nofun, nofun, nofun, nofun, nofun, nofun, nofun, nofun, nofun, nofun, nofun, ⟨rfl, rfl⟩⟩
  have hend := sound_freeEnded (sound_sweepAdps (sound_planStep (sound_admissionWalk (sound_freeEnded (sound_holdsStep (prog := true)
    (sound_adoptAdps (sound_controls (sound_commitAll hstart))))))))
  exact ⟨rfl, hend.rest⟩

theorem stepBoundary_run {s : State} (hrun : s.running = true) (hst : s.pwr.state = 5) :
    exec .stepBoundary s = .next (if atStepFront s && !s.hub.committedOk then boundaryRun s else s) :=
  if_pos (by simp [hrun, hst])

theorem stepBoundary_idle {s : State} (hrun : s.running = false) : exec .stepBoundary s = .next (boundaryIdle s) :=
  if_neg (by simp [hrun])

/-- A hub with no sequence, request, adapter and deferred upload. -/
structure HubEmpty (s : State) : Prop where
  slots : s.hub.slots = []
  queue : s.hub.queue = []
  adps : s.hub.adps = []
  uploads : s.hub.uploads = []

theorem hub_same {s : State} {l : Table Seq} {q : List Req} {a : Table Adp} {u : List Upload} (hl : l = s.hub.slots)
    (hq : q = s.hub.queue) (ha : a = s.hub.adps) (hu : u = s.hub.uploads) :
    { s with hub := { s.hub with slots := l, queue := q, adps := a, uploads := u } } = s := by
  subst hl hq ha hu
  rfl

theorem faultAll_empty {s : State} (h : HubEmpty s) : faultAll s = s := by simp [faultAll, h.slots]

theorem controls_empty {s : State} (h : HubEmpty s) : controls s = s := by
  have hslots : (ctlList s s.hub.queue) = ([], s) := by rw [h.queue]; rfl
  rw [controls, hslots]
  dsimp only
  exact hub_same (by rw [h.slots]; rfl) h.queue.symm rfl rfl

theorem sweepAdps_empty {s : State} (h : HubEmpty s) : sweepAdps s = s := by
  have hfold : (s.hub.adps.map (·.1)).foldl sweepOne s = s := by rw [h.adps]; rfl
  rw [sweepAdps, hfold]
  rw [h.uploads]
  exact hub_same rfl rfl rfl h.uploads.symm

theorem adoptAdps_empty {s : State} (h : HubEmpty s) : adoptAdps s = s := by
  simp [adoptAdps, h.adps, sweepAdps_empty h]

theorem holdable_empty {s : State} (h : HubEmpty s) : holdable s = [] := by
  rw [holdable, seqsIn, h.slots]
  rfl

theorem holdsStep_empty {s : State} (h : HubEmpty s) :
    holdsStep s false = { s with hub := { s.hub with parkAll := false } } := by
  have hbudget : budgetStops s = s := by rw [budgetStops, holdable_empty h]; rfl
  have hidle : holdIdle s = s := by rw [holdIdle, holdable_empty h]; rfl
  have hlimit : limitParks s = s := by rw [limitParks, holdable_empty h]; rfl
  rw [holdsStep, hbudget]
  rw [if_neg Bool.false_ne_true, hidle, hlimit]
  by_cases hp : s.hub.parkAll = true
  · simp [parkAllStep, hp, seqsIn, h.slots]
  · have hoff : s.hub.parkAll = false := Bool.eq_false_iff.2 hp
    rw [parkAllStep, if_pos (by simp [hoff])]
    exact congrArg (fun b => { s with hub := { s.hub with parkAll := b } }) hoff

theorem boundaryIdle_empty {s : State} (h : HubEmpty s) : boundaryIdle s = { s with hub := { s.hub with parkAll := false } } := by
  have h' : HubEmpty { s with hub := { s.hub with parkAll := false } } := ⟨h.slots, h.queue, h.adps, h.uploads⟩
  rw [boundaryIdle, faultAll_empty h, controls_empty h, adoptAdps_empty h, holdsStep_empty h, sweepAdps_empty h', freeEnded]
  exact hub_same (s := { s with hub := { s.hub with parkAll := false } }) (by rw [h.slots]; rfl) rfl rfl rfl

/-! ### The copy of an adapter (R339) -/

theorem adp_setAdp_stored {s t : State} (h : Stored s t) (hwf : twf ({} : Adp) s.hub.adps = true) (k : Nat) (a : Adp) :
    (t.setAdp k a).adp k = a := adp_setAdp (by rw [h.hub]; exact hwf)

theorem adapterLoad_good {s : State} {k : Nat} (hwf : twf ({} : Adp) s.hub.adps = true) (hst : (s.adp k).st = 1)
    (hdone : (s.adp k).done = false) : Does (.adapterLoadComplete k 0) s fun t =>
      t.adp k = { s.adp k with done := true, body := [] } ∧
        t.kv = (kvWriteAll s 2 (k * adpSlotBytes s) (s.adp k).body).kv ∧
        t.plane = (kvWriteAll s 2 (k * adpSlotBytes s) (s.adp k).body).plane :=
  ⟨_, (if_neg (by simp [hst, hdone])).trans (if_pos rfl), adp_setAdp_stored (stored_kvWriteAll ..) hwf k _, rfl, rfl⟩

theorem adapterLoad_bad {s : State} {k : Nat} (hwf : twf ({} : Adp) s.hub.adps = true) (hst : (s.adp k).st = 1)
    (hdone : (s.adp k).done = false) (hup : s.hub.uploads = []) : Does (.adapterLoadComplete k 1) s fun t =>
      t.adp k = {} ∧ t.plane = s.plane ∧ t.kv = s.kv := by
  refine ⟨_, (if_neg (by simp [hst, hdone])).trans (if_neg Nat.one_ne_zero), ?_⟩
  have hno : ((tagEvent s (s.adp k).tenant 15 2 0 (s.adp k).id).setAdp k {}).hub.uploads = [] := by
    rw [tagEvent, sendEvent_frame]
    exact hup
  rw [hno, placeUploads]
  refine ⟨adp_setAdp (s := tagEvent s (s.adp k).tenant 15 2 0 (s.adp k).id) ?_, ?_, ?_⟩
  · rw [tagEvent, sendEvent_frame]
    exact hwf
  · exact (told_tagEvent ..).plane
  · rw [tagEvent, sendEvent_frame]
    rfl

/-- Settles O42: each command by the branches of its definition; a boundary by what its steps may write beside the hub. -/
theorem ticksAndBoundaries : Obligations.TicksAndBoundaries := by
  intro s hok
  have hwf : twf ({} : Tenant) s.tenants = true := (sound_of_tablesOk hok).tenants trivial
  have hadps : twf ({} : Adp) s.hub.adps = true := (sound_of_tablesOk hok).adps trivial
  refine ⟨fun hoff => ⟨if_pos hoff, if_pos hoff⟩, fun hoff hq hvir => arrivalTick_counts hoff hq hvir, fun hoff => ?_,
    fun hrun hst hfront hdone => ?_, fun hrun hst hdone => ?_, fun hrun hslots hq ha hu => ?_,
    fun k _ hst hdone => ⟨adapterLoad_good hadps hst hdone, adapterLoad_bad hadps hst hdone⟩⟩
  · exact ⟨_, if_neg (by simp [hoff]), rfl, rfl, gaugeTick_refills hwf⟩
  · refine ⟨_, (stepBoundary_run hrun hst).trans (congrArg Host.Outcome.next (if_pos ?_)), boundaryRun_cores s⟩
    simp [hfront, hdone]
  · exact (stepBoundary_run hrun hst).trans (congrArg Host.Outcome.next (if_neg (by simp [hdone])))
  · exact (stepBoundary_idle hrun).trans (congrArg Host.Outcome.next (boundaryIdle_empty ⟨hslots, hq, ha, hu⟩))

end Sys2Proof.Proofs
end

section
/-! PROOFS. Parks, restores and expiries of snowpack records. -/

namespace Sys2Proof.Proofs

open Sys2Proof Sys2Proof.Machine Sys2Proof.Safety Sys2Proof.Laws

/-! ### Sequences that end -/

theorem toldBut_endSeq (s : State) (n st c r v : Nat) : ToldBut s (endSeq s n st c r v) :=
  ((told_seqEvent ..).but.trans (toldBut_modSlot ..)).trans (toldBut_releaseSeq ..)

theorem toldBut_faultSeq (s : State) (n r : Nat) : ToldBut s (faultSeq s n r) := toldBut_endSeq ..

/-- The slots of a state in which a sequence has ended. -/
theorem endSeq_slots (s : State) (n st c r v : Nat) : (endSeq s n st c r v).hub.slots =
    ((s.modSlot n fun q => { q with st := st, fault := 0 }).modSlot n released).hub.slots := by
  have htold := told_modSlot (told_modSlot (told_seqEvent s n c r v) n fun q => { q with st := st, fault := 0 }) n released
  rw [endSeq, (told_releaseSeq ..).slots, htold.slots]

theorem modSlot_twf {s : State} (h : twf ({} : Seq) s.hub.slots = true) (n : Nat) (f : Seq → Seq) :
    twf ({} : Seq) (s.modSlot n f).hub.slots = true := twf_tset h

theorem slot_modSlot {s : State} (h : twf ({} : Seq) s.hub.slots = true) (n : Nat) (f : Seq → Seq) :
    (s.modSlot n f).slot n = f (s.slot n) := slot_setSlot h

theorem endSeq_twf {s : State} (h : twf ({} : Seq) s.hub.slots = true) (n st c r v : Nat) :
    twf ({} : Seq) (endSeq s n st c r v).hub.slots = true := by
  rw [endSeq_slots]
  exact modSlot_twf (modSlot_twf h ..) ..

theorem endSeq_slot {s : State} (h : twf ({} : Seq) s.hub.slots = true) (n st c r v : Nat) :
    (endSeq s n st c r v).slot n = released { s.slot n with st := st, fault := 0 } := by
  rw [State.slot, endSeq_slots]
  exact (slot_modSlot (modSlot_twf h ..) n released).trans (congrArg released (slot_modSlot h n _))

theorem tget_filter_value {d : Seq} {p : Seq → Bool} {lo : Nat} {t : Table Seq} (h : twfFrom d lo t = true) (k : Nat) :
    tget d (t.filter fun e => p e.2) k = if p (tget d t k) then tget d t k else d := by
  induction t generalizing lo with
  | nil => exact (ite_self d).symm
  | cons e r ih =>
    obtain ⟨j, w⟩ := e
    obtain ⟨-, -, hr⟩ := twfFrom_cons.1 h
    have hbelow (hk : k ≤ j) : tget d r k = d := tget_below hr (Nat.lt_succ_of_le hk)
    rcases lt_trichotomy k j with hk | rfl | hk
    · by_cases hp : p w <;> simp [hp, tget, hk, ih hr, hbelow hk.le, ite_self]
    · by_cases hp : p w <;> simp [hp, tget, ih hr, hbelow le_rfl, ite_self]
    · by_cases hp : p w <;> simp [hp, tget, hk.ne', hk.not_gt, ih hr]

theorem slot_freeEnded {s : State} (h : twf ({} : Seq) s.hub.slots = true) (n : Nat) :
    (freeEnded s).slot n = if (s.slot n).st < 8 then s.slot n else {} := by
  rw [State.slot, freeEnded, tget_filter_value (p := fun q => decide (q.st < 8)) h n]
  simp only [decide_eq_true_eq]
  rfl

theorem slot_freeEnded_live {s : State} (h : twf ({} : Seq) s.hub.slots = true) {n : Nat} (hn : (s.slot n).st < 8) :
    (freeEnded s).slot n = s.slot n := by rw [slot_freeEnded h, if_pos hn]

theorem slot_freeEnded_ended {s : State} (h : twf ({} : Seq) s.hub.slots = true) {n : Nat} (hn : 8 ≤ (s.slot n).st) :
    (freeEnded s).slot n = {} := by rw [slot_freeEnded h, if_neg (by omega)]

theorem faultSeq_twf {s : State} (h : twf ({} : Seq) s.hub.slots = true) (n r : Nat) :
    twf ({} : Seq) (faultSeq s n r).hub.slots = true := endSeq_twf h ..

/-- A sequence that faults has left its slot when ended slots are freed. -/
theorem faultSeq_freed {s : State} (h : twf ({} : Seq) s.hub.slots = true) (n r : Nat) : (freeEnded (faultSeq s n r)).slot n = {} := by
  have hst : ((faultSeq s n r).slot n).st = 9 := by rw [faultSeq, endSeq_slot h]; rfl
  exact slot_freeEnded_ended (faultSeq_twf h ..) (by rw [hst]; decide)

/-! ### A park that fails (R321, R347) -/

/-- A sequence whose park has failed once more. -/
def onceMore (q : Seq) : Seq := { q with attempts := q.attempts + 1, parkN := 0 }

/-- The state of a park's failure before its event. -/
def failCounted (s : State) (n : Nat) : State :=
  { s.modSlot n onceMore with hub := { (s.modSlot n onceMore).hub with parkFail := satAdd 65535 s.hub.parkFail 1 } }

theorem failCounted_slot {s : State} (h : twf ({} : Seq) s.hub.slots = true) (n : Nat) :
    (failCounted s n).slot n = onceMore (s.slot n) := slot_modSlot h n onceMore

/-- A sequence held until its next attempt. -/
def heldUntil (now : Nat) (q : Seq) : Seq := { q with st := 4, retryAt := some (now + 1000000), heldAt := now, heldRun := 0 }

/-- A failed park is told, and then held or, for the third time, a fault. -/
theorem parkFail_eq {s : State} (h : twf ({} : Seq) s.hub.slots = true) (n why : Nat) : ∃ t, Told (failCounted s n) t ∧
    parkFail s n why = if 3 ≤ (s.slot n).attempts + 1 then faultSeq t n 5 else t.modSlot n (heldUntil t.now) := by
  refine ⟨seqEvent (failCounted s n) n 8 why ((s.slot n).attempts + 1), told_seqEvent .., ?_⟩
  have hq := failCounted_slot h n
  have hcount : ((failCounted s n).slot n).attempts = (s.slot n).attempts + 1 := by rw [hq]; rfl
  have hnow : (seqEvent (failCounted s n) n 8 why ((s.slot n).attempts + 1)).now = s.now := (told_seqEvent ..).time
  rw [hnow, ← hcount]
  rfl

theorem parkFail_retried {s : State} (h : twf ({} : Seq) s.hub.slots = true) {n why : Nat} (hn : (s.slot n).attempts < 2) :
    let t := freeEnded (parkFail s n why)
    (t.slot n).st = 4 ∧ (t.slot n).retryAt = some (s.now + 1000000) ∧ (t.slot n).attempts = (s.slot n).attempts + 1 ∧
      t.hub.parkFail = min 65535 (s.hub.parkFail + 1) := by
  obtain ⟨u, htold, hu⟩ := parkFail_eq h n why
  have hwf : twf ({} : Seq) u.hub.slots = true := by rw [htold.slots]; exact modSlot_twf h n onceMore
  have hnow : u.now = s.now := htold.time
  have hslot : (u.modSlot n (heldUntil u.now)).slot n = heldUntil s.now (onceMore (s.slot n)) := by
    rw [slot_modSlot hwf, htold.slot, failCounted_slot h, hnow]
  have hcount : u.hub.parkFail = min 65535 (s.hub.parkFail + 1) := by rw [htold.hub]; rfl
  dsimp only
  rw [hu, if_neg (by omega), slot_freeEnded_live (modSlot_twf hwf ..) (by rw [hslot]; exact (by decide : 4 < 8)), hslot]
  exact ⟨rfl, rfl, rfl, hcount⟩

theorem parkFail_last {s : State} (h : twf ({} : Seq) s.hub.slots = true) {n why : Nat} (hn : 2 ≤ (s.slot n).attempts) :
    (freeEnded (parkFail s n why)).slot n = {} := by
  obtain ⟨u, htold, hu⟩ := parkFail_eq h n why
  rw [hu, if_pos (by omega)]
  exact faultSeq_freed (by rw [htold.slots]; exact modSlot_twf h n onceMore) ..

/-! ### A park that ends (R344) -/

theorem kvRunWrite_plane {s : State} (h : 0 < gradeKv s) (area addr : Nat) (d : List Byte) (n : Nat) :
    (kvRunWrite s area addr d n).plane = s.plane := by
  induction n generalizing s addr d with
  | zero => rfl
  | succ n ih =>
    have hgrade : 0 < gradeKv (kvBlockWrite s area addr (d.take 64)) := by rwa [gradeKv_stored (stored_kvBlockWrite ..)]
    exact (ih hgrade _ _).trans (kvBlockWrite_plane h ..)

/-- From s to t neither the hub nor the plane changed, and what a record's key, clock and areas rest on stayed. -/
structure HubPlane (s t : State) : Prop where
  hub : t.hub = s.hub
  plane : t.plane = s.plane
  fuses : t.fuses = s.fuses

theorem HubPlane.refl (s : State) : HubPlane s s := ⟨rfl, rfl, rfl⟩

theorem HubPlane.trans {s t u : State} (h : HubPlane s t) (h' : HubPlane t u) : HubPlane s u :=
  ⟨h'.hub.trans h.hub, h'.plane.trans h.plane, h'.fuses.trans h.fuses⟩

theorem HubPlane.foldl {α : Type} {s : State} {f : State → α → State} (hs : 0 < gradeKv s)
    (hf : ∀ t x, 0 < gradeKv t → HubPlane t (f t x)) (l : List α) : HubPlane s (l.foldl f s) := by
  induction l generalizing s with
  | nil => exact .refl s
  | cons x r ih =>
    have hx := hf s x hs
    have hgrade : 0 < gradeKv (f s x) := by rwa [gradeKv, hx.fuses]
    exact hx.trans (ih hgrade)

theorem hubPlane_kvRunWrite {s : State} (h : 0 < gradeKv s) (area addr : Nat) (d : List Byte) (n : Nat) :
    HubPlane s (kvRunWrite s area addr d n) :=
  ⟨(stored_kvRunWrite ..).hub, kvRunWrite_plane h .., (stored_kvRunWrite ..).fuses⟩

theorem hubPlane_rdmaWrite (s : State) (tgt : BitVec 64) (qp addr : Nat) (d : List Byte) : HubPlane s (rdmaWrite s tgt qp addr d) := by
  rw [rdmaWrite]
  split
  · exact .refl s
  · exact ⟨rfl, rfl, rfl⟩

theorem hubPlane_snpWrite {s : State} (h : 0 < gradeKv s) (tgt : BitVec 64) (n base at0 : Nat) (d : List Byte) :
    HubPlane s (snpWrite s tgt n base at0 d) := by
  rw [snpWrite]
  dsimp only
  split
  · exact (HubPlane.foldl h (fun _ _ _ => hubPlane_rdmaWrite ..) _).trans (hubPlane_rdmaWrite ..)
  · split
    · exact HubPlane.foldl h (fun _ _ ht => hubPlane_kvRunWrite ht ..) _
    · exact ⟨rfl, rfl, rfl⟩

/-- The record a park leaves. -/
def parkRecord (s : State) (n : Nat) : ParkRec :=
  let q := s.slot n
  { tenant := q.tenant, tag := q.tag, parkId := q.parkId, expiry := s.now + bits q.parkC.toNat 63 32 * 1000000
    ext := q.parkExt, next := q.parkN, dext := dataExtents s q
    seq := { q with st := 6, attempts := 0, chain := [], adp := none, hasRegion := false, reason := 0 }
    epoch := (tepochOf s q.tenant).toNat, oepoch := s.sec.oepoch.toNat, tgt := q.parkA, base := q.parkB }

/-- A state with one record more. -/
def recorded (s : State) (r : ParkRec) : State := { s with hub := { s.hub with parked := s.hub.parked ++ [r] } }

/-- The record's bytes written: the header before the sealed extents, then the tags. -/
def parkWritten (s : State) (n : Nat) (header : List Byte) (x : List Byte × List Byte) : State :=
  let q := s.slot n
  let base := extentAddr q.parkB q.parkExt
  snpWrite (snpWrite s q.parkA n base 0 (header ++ x.1)) q.parkA n base (dataExtents s q * 2 ^ 20) x.2

theorem hubPlane_parkWritten {s : State} (h : 0 < gradeKv s) (n : Nat) (header : List Byte) (x : List Byte × List Byte) :
    HubPlane s (parkWritten s n header x) :=
  (hubPlane_snpWrite h ..).trans (hubPlane_snpWrite (by rwa [gradeKv, (hubPlane_snpWrite h _ _ _ _ _).fuses]) ..)

/- The kernel evaluates `snpSeal` when it compares `parkDone s n` with its body, so the proof compares the functions. -/
/-- The copy of a park that ends: what it writes, its event, its record, and its slot freed. -/
theorem parkDone_cases {P : State → Prop} {s : State} {n : Nat} (h : ∀ header x, P (freeSlot
    (recorded (seqEvent (parkWritten s n header x) n 6 (s.slot n).reason (s.slot n).parkN) (parkRecord s n)) n)) :
    P (parkDone s n) := by
  have hfun : parkDone = parkDone := rfl
  conv_rhs at hfun => delta parkDone
  rw [hfun]
  beta_reduce
  extract_lets +onlyGivenNames q p expiry header plain dext
  obtain ⟨ct, tags⟩ := snpSeal (snpKey s q.tenant) header q.parkId plain 0 dext
  exact h header (ct, tags)

/-- A park that ends adds its record and frees its slot. -/
theorem parkDone_reads {s : State} (h : twf ({} : Seq) s.hub.slots = true) (hkv : 0 < gradeKv s) (n : Nat) :
    (parkDone s n).slot n = {} ∧ (parkDone s n).plane = s.plane ∧
      (parkDone s n).hub.parked = s.hub.parked ++ [parkRecord s n] := by
  refine parkDone_cases (P := fun t => t.slot n = {} ∧ t.plane = s.plane ∧ t.hub.parked = s.hub.parked ++ [parkRecord s n])
    fun header x => ?_
  have hkept := hubPlane_parkWritten hkv n header x
  have htold := told_seqEvent (parkWritten s n header x) n 6 (s.slot n).reason (s.slot n).parkN
  generalize seqEvent (parkWritten s n header x) n 6 (s.slot n).reason (s.slot n).parkN = v at htold
  have hwf : twf ({} : Seq) (recorded v (parkRecord s n)).hub.slots = true := by
    show twf ({} : Seq) v.hub.slots = true
    rw [htold.slots, hkept.hub]
    exact h
  have hfreed := toldBut_freeSlot (recorded v (parkRecord s n)) n
  refine ⟨freeSlot_slot hwf n, (hfreed.plane.trans htold.plane).trans hkept.plane, hfreed.parked.trans ?_⟩
  show v.hub.parked ++ [parkRecord s n] = _
  rw [htold.parked, hkept.hub]

theorem parkRead_stacked {s : State} (hkv : 0 < gradeKv s) (n : Nat) : parkRead s n = parkDone s n := if_neg (by omega)

/-! ### A copy that meets a line it cannot read (R309, R347) -/

theorem fenceField_hub (s : State) (pf st : Nat) : (fenceField s pf st).hub = s.hub := by
  by_cases h : fieldState s pf = 0
  · obtain ⟨-, -, -, -, -, -, -, hhub, -⟩ := (onlyBinding_fenceField st h).keeps
    exact hhub
  · rw [fenceField, if_pos h]

theorem spareRow_hub (s : State) (line : Nat) : (spareRow s line).hub = s.hub := by
  rw [spareRow]
  dsimp only
  split
  · exact fenceField_hub ..
  · split
    · exact fenceField_hub ..
    · rfl

/-- A line that a copy could not read marks its sequence and nothing else of the hub. -/
theorem lineFault_copy (s : State) (line n : Nat) (ten : Option Nat) :
    (lineFault s line (some (5, n, ten))).hub = s.hub ∨ (lineFault s line (some (5, n, ten))).hub = (markFault s n 1).hub := by
  rw [lineFault]
  dsimp only
  split
  · exact .inl (spareRow_hub ..)
  · exact .inr (spareRow_hub ..)

theorem markFault_reads {s : State} (h : twf ({} : Seq) s.hub.slots = true) (n why : Nat) :
    twf ({} : Seq) (markFault s n why).hub.slots = true ∧ ((markFault s n why).slot n).parkId = (s.slot n).parkId ∧
      (markFault s n why).hub.parked = s.hub.parked := by
  rw [markFault]
  dsimp only
  split
  · exact ⟨h, rfl, rfl⟩
  · exact ⟨twf_tset h, (congrArg Seq.parkId (tget_tset h) :), rfl⟩

theorem lineFault_reads {s : State} (h : twf ({} : Seq) s.hub.slots = true) (line n : Nat) (ten : Option Nat) :
    let t := lineFault s line (some (5, n, ten))
    twf ({} : Seq) t.hub.slots = true ∧ (t.slot n).parkId = (s.slot n).parkId ∧ t.hub.parked = s.hub.parked := by
  dsimp only [State.slot]
  obtain hkept | hmarked := lineFault_copy s line n ten
  · rw [hkept]
    exact ⟨h, rfl, rfl⟩
  · rw [hmarked]
    exact markFault_reads h n 1

/-! ### A park that begins again (R344, R347) -/

theorem lowExtents_empty {s : State} {t n : Nat} (htaken : takenExtents s t = [])
    (hn : n ≤ bits (s.tenant t).snpC.toNat 31 0) : lowExtents s t n = some 0 := by
  simp [lowExtents, htaken, hn]

theorem filter_tset_nil {p : Seq → Bool} {l : Table Seq} (h : (l.all fun e => !p e.2) = true) {q : Seq} (hq : p q = false) (n : Nat) :
    ((tset {} l n q).filter fun e => p e.2) = [] := by
  refine List.filter_eq_nil_iff.2 fun e he => ?_
  obtain hmem | rfl := mem_of_mem_tset he
  · simpa using List.all_eq_true.1 h e hmem
  · simpa using hq

/-- A sequence whose park begins. -/
def parkAsked (why : Nat) (q : Seq) : Seq :=
  { q with was := q.eff, reason := why, retryAt := none, decodes := false, pfCnt := 0 }

/-- The extents that a park would take. -/
def parkChoice (s : State) (n : Nat) : Option Nat :=
  if snpOn s (s.slot n).tenant && decide (s.hub.parked.length + (s.hub.slots.filter fun e => e.2.st == 5).length < 262144) then
    lowExtents s (s.slot n).tenant (allExtents s (s.slot n)) else none

/-- A sequence that parks at extent e. -/
def parking (s : State) (n e : Nat) : Seq :=
  let q := s.slot n
  let k := s.tenant q.tenant
  { q with
    st := 5, parkExt := e, parkN := allExtents s q, parkId := s.hub.nextPark, parkA := k.snpA, parkB := k.snpB, parkC := k.snpC }

/-- The state in which a park has taken its extents. -/
def parkBegun (s : State) (n e : Nat) : State :=
  let s1 := s.setSlot n (parking s n e)
  ({ s1 with hub := { s1.hub with nextPark := s1.hub.nextPark + 1 } }).clearOp 0 n

theorem beginPark_eq (s : State) (n why : Nat) : beginPark s n why =
    match parkChoice (s.modSlot n (parkAsked why)) n with
    | none => parkFail (s.modSlot n (parkAsked why)) n 1
    | some e => parkBegun (s.modSlot n (parkAsked why)) n e := rfl

theorem parkBegun_reads {s : State} (h : twf ({} : Seq) s.hub.slots = true) (n e : Nat) :
    twf ({} : Seq) (parkBegun s n e).hub.slots = true ∧ (parkBegun s n e).slot n = parking s n e ∧
      (parkBegun s n e).hub.nextPark = s.hub.nextPark + 1 :=
  ⟨twf_tset h, tget_tset h, rfl⟩

theorem parkChoice_first {s : State} {n : Nat} (hon : snpOn s (s.slot n).tenant = true) (hparked : s.hub.parked = [])
    (hnone : ∀ p : Seq → Bool, (∀ q, q.st ≠ 5 → p q = false) → (s.hub.slots.filter fun e => p e.2) = [])
    (hroom : allExtents s (s.slot n) ≤ bits (s.tenant (s.slot n).tenant).snpC.toNat 31 0) : parkChoice s n = some 0 := by
  have hparks : (s.hub.slots.filter fun e => e.2.st == 5) = [] := hnone (fun q => q.st == 5) fun q hq => by simpa using hq
  have htaken : takenExtents s (s.slot n).tenant = [] := by
    rw [takenExtents, hparked]
    simpa using hnone (fun q => q.st == 5 && q.tenant == (s.slot n).tenant && q.parkB == (s.tenant (s.slot n).tenant).snpB)
      fun q hq => by simp [hq]
  rw [parkChoice, if_pos (by simp [hon, hparked, hparks])]
  exact lowExtents_empty htaken hroom

/-- With no record and no other park the first extents of the area are taken. -/
theorem beginPark_first {s : State} (h : twf ({} : Seq) s.hub.slots = true) {n why : Nat} (hst : (s.slot n).st ≠ 5)
    (hon : snpOn s (s.slot n).tenant = true) (hparked : s.hub.parked = [])
    (hnone : (s.hub.slots.all fun e => e.2.st != 5) = true)
    (hroom : allExtents s (s.slot n) ≤ bits (s.tenant (s.slot n).tenant).snpC.toNat 31 0) :
    let t := beginPark s n why
    twf ({} : Seq) t.hub.slots = true ∧ (t.slot n).st = 5 ∧ (t.slot n).parkExt = 0 ∧ (t.slot n).parkId = s.hub.nextPark ∧
      t.hub.nextPark = s.hub.nextPark + 1 := by
  have hwf : twf ({} : Seq) (s.modSlot n (parkAsked why)).hub.slots = true := modSlot_twf h n _
  have hslot : (s.modSlot n (parkAsked why)).slot n = parkAsked why (s.slot n) := slot_modSlot h n _
  have hchoice : parkChoice (s.modSlot n (parkAsked why)) n = some 0 := by
    refine parkChoice_first (by rw [hslot]; exact hon) hparked (fun p hp => ?_) (by rw [hslot]; exact hroom)
    refine filter_tset_nil (List.all_eq_true.2 fun e he => ?_) (hp (parkAsked why (s.slot n)) hst) n
    simp [hp e.2 (by simpa using List.all_eq_true.1 hnone e he)]
  obtain ⟨hwf', hpark, hnext⟩ := parkBegun_reads hwf n 0
  dsimp only
  rw [beginPark_eq, hchoice]
  dsimp only
  rw [hpark]
  exact ⟨hwf', rfl, rfl, rfl, hnext⟩

/-! ### Restores (R345) -/

theorem freeEnded_dropRec (s : State) (id : BitVec 64) (n : Nat) :
    (freeEnded (dropRec s id)).slot n = (freeEnded s).slot n ∧
      (freeEnded (dropRec s id)).hub.parked = s.hub.parked.filter fun x => x.parkId != id := ⟨rfl, rfl⟩

/-- A restore that faults frees its slot and its record. -/
theorem restoreEnd_reads {s : State} (h : twf ({} : Seq) s.hub.slots = true) (n why : Nat) :
    (restoreEnd s n why).slot n = {} ∧
      (restoreEnd s n why).hub.parked = s.hub.parked.filter fun x => x.parkId != (s.slot n).parkId := by
  obtain ⟨hslot, hparked⟩ := freeEnded_dropRec (faultSeq s n why) (s.slot n).parkId n
  rw [(toldBut_faultSeq s n why).parked] at hparked
  exact ⟨hslot.trans (faultSeq_freed h n why), hparked⟩

/-- The state in which the checks of a restore run. -/
def restoreRead (s : State) (n : Nat) (r : ParkRec) (corr : Nat) : State :=
  let o := fabOp s 1 n (bits r.tgt.toNat 55 32)
  kvCorrected (if bit r.tgt.toNat 62 then s.qpSent o.qp ((r.next - o.start) * 2 ^ 20) else s) corr

theorem restoreRead_keeps (s : State) (n : Nat) (r : ParkRec) (corr : Nat) :
    (restoreRead s n r corr).hub = s.hub ∧ (restoreRead s n r corr).sec = s.sec ∧ (restoreRead s n r corr).fuses = s.fuses ∧
      (restoreRead s n r corr).ldr = s.ldr := by
  unfold restoreRead
  dsimp only
  split
  · exact ⟨rfl, rfl, rfl, rfl⟩
  · exact ⟨rfl, rfl, rfl, rfl⟩

section RestoreCopy
variable {s : State} {n : Nat} {r : ParkRec} (hst : (s.slot n).st = 7) (hpwr : 4 ≤ s.pwr.state)
  (hr : (s.hub.parked.find? fun x => x.parkId == (s.slot n).parkId) = some r) (fab : Bool) (body tags : List Byte) (corr : Nat)
include hst hpwr hr

/-- A restore copy that its slot still awaits, with the record that it names. -/
theorem restoreComplete_ok : exec (.restoreComplete n ⟨(s.slot n).order, fab, .ok, body, tags, corr⟩) s =
    .next (restoreDone (restoreRead s n r corr) n r (recRead s r 0 (recLen s r) body)
      (recRead s r (r.dext * 2 ^ 20) (16 * r.dext) tags)) := by
  rw [exec_restoreComplete, execRestoreComplete, if_neg (by omega), if_neg (by simp [hst])]
  dsimp only
  rw [hr]
  exact congrArg Host.Outcome.next (by rw [restoreRead])

theorem restoreComplete_transport : exec (.restoreComplete n ⟨(s.slot n).order, fab, .transport, body, tags, corr⟩) s =
    .next (restoreFail s n 2) := by
  rw [exec_restoreComplete, execRestoreComplete, if_neg (by omega), if_neg (by simp [hst])]
  dsimp only
  rw [hr]

theorem restoreComplete_kvLine (line : Nat) : exec (.restoreComplete n ⟨(s.slot n).order, fab, .kvLine line, body, tags, corr⟩) s =
    .next (restoreEnd (lineFault s line (some (5, n, some r.tenant))) n 1) := by
  rw [exec_restoreComplete, execRestoreComplete, if_neg (by omega), if_neg (by simp [hst])]
  dsimp only
  rw [hr]

end RestoreCopy

theorem restoreComplete_late {s : State} {n id : Nat} (hpwr : 4 ≤ s.pwr.state) (hid : id ≠ (s.slot n).order) (fab : Bool)
    (res : CopyRes) (body tags : List Byte) (corr : Nat) :
    exec (.restoreComplete n ⟨id, fab, res, body, tags, corr⟩) s = .next (lateDone s fab) := by
  rw [exec_restoreComplete, execRestoreComplete, if_neg (by omega), if_pos]
  exact .inr fun h => hid h.symm

theorem recOpen_congr {s u : State} (hsec : u.sec = s.sec) (hfuses : u.fuses = s.fuses) (r : ParkRec) (body tags : List Byte) :
    recOpen u r body tags = recOpen s r body tags := by
  unfold recOpen snpKey tepochOf
  rw [hsec, hfuses]

theorem recOpen_epoch {s : State} {r : ParkRec} (h : r.epoch ≠ (tepochOf s r.tenant).toNat ∨ r.oepoch ≠ s.sec.oepoch.toNat)
    (body tags : List Byte) : recOpen s r body tags = none :=
  if_pos (h.imp_right .inl)

/-- The checks of a restore whose tags or header are wrong. -/
theorem restoreDone_closed {s : State} {n : Nat} {r : ParkRec} {body tags : List Byte} (h : recOpen s r body tags = none) :
    restoreDone s n r body tags = restoreEnd s n 7 := by
  have hfun : restoreDone = restoreDone := rfl
  conv_rhs at hfun => delta restoreDone
  rw [hfun]
  beta_reduce
  rw [h]

/-- The checks of a restore without an adapter and without a chain that all pass. -/
theorem restoreDone_opened {s : State} {n : Nat} {r : ParkRec} {body tags plain : List Byte} {p : Prog}
    (hprog : s.ldr.lastProg = some p) (h : recOpen s r body tags = some plain)
    (hmodel : (List.range 16).map (byteAt (body.drop 128)) = (List.range 16).map (byteAt p.modelId))
    (hinst : (List.range 64).map (byteAt (body.drop 64)) = (List.range 64).map (byteAt p.instDig))
    (hadp : r.seq.adpId = 0) (hchain : r.seq.hashes = []) :
    ∃ data had, restoreDone s n r body tags = restoreInto s n r data none false [] had := by
  have hfun : restoreDone = restoreDone := rfl
  conv_rhs at hfun => delta restoreDone
  rw [hfun]
  beta_reduce
  rw [h, hprog]
  have hnoAdp : restoreAdp s r.seq = some (none, false) := if_pos hadp
  have hmatch : ¬((List.range 16).map (byteAt (body.drop 128)) ≠ (List.range 16).map (byteAt p.modelId) ∨
      (List.range 64).map (byteAt (body.drop 64)) ≠ (List.range 64).map (byteAt p.instDig)) := by
    rw [hmodel, hinst]
    exact fun hor => hor.elim (fun hne => hne rfl) fun hne => hne rfl
  have hnoChain : restoreChain s r.seq.scope none r.seq.hashes = some ([], s) := by rw [hchain]; rfl
  dsimp only [Option.getD_some]
  rw [if_neg hmatch, hnoAdp]
  dsimp only
  rw [hnoChain]
  exact ⟨_, _, rfl⟩

theorem stored_writeSlabs (s : State) (keep : List Nat) (d : List Byte) (l : List (Nat × Nat)) : Stored s (writeSlabs s keep d l) := by
  induction l generalizing s d with
  | nil => exact .refl s
  | cons x r ih =>
    obtain ⟨a, x⟩ := x
    rw [writeSlabs]
    split
    · exact ih ..
    · exact (stored_kvBlocksWrite ..).trans (ih ..)

/-- The sequence of a record as its restore places it, without an adapter and without a chain. -/
def replaced (s : State) (n : Nat) (r : ParkRec) : Seq :=
  let d := dmaxOf s r.tenant r.seq.pb
  { r.seq with
    order := (s.slot n).order, region := (s.slot n).region, hasRegion := true, chain := [], adp := none, dmax := d
    adpGen := 0, depth := min r.seq.depth d, was := 0, reason := 0, retryAt := none, heldRun := 0, fault := 0, parkN := 0 }

/-- A restored sequence that goes on: decoding, or prefilling what still waits. -/
def goesOn (q : Seq) : Seq := { q with st := if q.pending.isEmpty then 3 else 2 }

theorem capDecoding_stopped {s : State} (h : s.running = false) (n : Nat) : capDecoding s n = s := if_neg (by simp [h])

/-- The restore of a record whose sequence was not continued, while no program runs. -/
theorem restoreInto_eq {s : State} {n : Nat} (r : ParkRec) (data : List Byte) (had : List Nat) (hcontd : (s.slot n).contd = false)
    (hrun : s.running = false) : ∃ u, Stored (s.setSlot n (replaced s n r)) u ∧
      ∃ v, Told (u.setSlot n (goesOn (replaced s n r))) v ∧ restoreInto s n r data none false [] had = dropRec v r.parkId := by
  refine ⟨writeSlabs (s.setSlot n (replaced s n r)) had data (snpSlabs s (replaced s n r)), stored_writeSlabs .., ?_⟩
  have hstored := stored_writeSlabs (s.setSlot n (replaced s n r)) had data (snpSlabs s (replaced s n r))
  refine ⟨seqEvent ((writeSlabs (s.setSlot n (replaced s n r)) had data (snpSlabs s (replaced s n r))).setSlot n
    (goesOn (replaced s n r))) n 7 (b2n false) r.seq.committed, told_seqEvent .., ?_⟩
  have htold := told_seqEvent ((writeSlabs (s.setSlot n (replaced s n r)) had data (snpSlabs s (replaced s n r))).setSlot n
    (goesOn (replaced s n r))) n 7 (b2n false) r.seq.committed
  refine Eq.trans ?_ (capDecoding_stopped (n := n) ?_)
  · rw [restoreInto]
    dsimp only
    rw [hcontd]
    rfl
  · have hldr := htold.ldr.trans (show _ = _ from hstored.ldr)
    rw [State.running, dropRec, hldr]
    exact hrun

/-- A restore that ends: the sequence goes on in its slot, and the record is gone. -/
theorem restoreInto_reads {s : State} (h : twf ({} : Seq) s.hub.slots = true) {n : Nat} (r : ParkRec) (data : List Byte)
    (had : List Nat) (hcontd : (s.slot n).contd = false) (hrun : s.running = false) :
    (restoreInto s n r data none false [] had).slot n = goesOn (replaced s n r) ∧
      (restoreInto s n r data none false [] had).hub.parked = s.hub.parked.filter fun x => x.parkId != r.parkId := by
  obtain ⟨u, hstored, v, htold, hv⟩ := restoreInto_eq r data had hcontd hrun
  have hwf : twf ({} : Seq) u.hub.slots = true := by rw [hstored.hub]; exact twf_tset h
  have hslot : v.slot n = goesOn (replaced s n r) := (htold.slot n).trans (slot_setSlot hwf)
  have hkept : u.hub.parked = s.hub.parked := by rw [hstored.hub]; rfl
  have hparked : v.hub.parked = s.hub.parked := htold.parked.trans hkept
  rw [hv]
  exact ⟨hslot, congrArg (List.filter fun x : ParkRec => x.parkId != r.parkId) hparked⟩

/-! ### The obligation -/

section ParkCopy
variable {s : State} {n : Nat} (hst : (s.slot n).st = 5) (hpwr : 4 ≤ s.pwr.state) (fab : Bool) (corr : Nat)
include hst hpwr

/-- A park copy that its slot still awaits, in the state that corrects its lines. -/
theorem parkComplete_ok : exec (.parkComplete n ⟨(s.slot n).parkId, fab, .ok, corr⟩) s =
    .next (parkRead (kvCorrected s corr) n) :=
  (if_neg (by omega)).trans (if_neg (by simp [hst]))

theorem parkComplete_transport : exec (.parkComplete n ⟨(s.slot n).parkId, fab, .transport, corr⟩) s =
    .next (freeEnded (parkFail s n 2)) :=
  (if_neg (by omega)).trans (if_neg (by simp [hst]))

theorem parkComplete_kvLine (line : Nat) : exec (.parkComplete n ⟨(s.slot n).parkId, fab, .kvLine line, corr⟩) s =
    .next (freeEnded (copyLine s n line)) :=
  (if_neg (by omega)).trans (if_neg (by simp [hst]))

end ParkCopy

theorem parkComplete_late {s : State} {n : Nat} {id : BitVec 64} (hpwr : 4 ≤ s.pwr.state) (hid : id ≠ (s.slot n).parkId) (fab : Bool)
    (res : CopyRes) (corr : Nat) : exec (.parkComplete n ⟨id, fab, res, corr⟩) s = .next (lateDone s fab) := by
  rw [exec_parkComplete, execParkComplete, if_neg (by omega), if_pos]
  exact .inr fun h => hid h.symm

theorem snowpackOpTimeout_park {s : State} {n : Nat} (hst : (s.slot n).st = 5) :
    exec (.snowpackOpTimeout n) s = .next (freeEnded (parkFail s n 2)) := if_pos hst

theorem snowpackOpTimeout_restore {s : State} {n : Nat} (hst : (s.slot n).st = 7) :
    exec (.snowpackOpTimeout n) s = .next (restoreFail s n 2) := (if_neg (by omega)).trans (if_pos hst)

theorem parkRetry_due {s : State} {n w : Nat} (hst : (s.slot n).st = 4) (hw : (s.slot n).retryAt = some w) :
    exec (.parkRetry n) s = if w ≤ s.now then .next (freeEnded (beginPark s n (s.slot n).reason)) else .next s := by
  rw [exec_parkRetry, execParkRetry, hw]
  simp only [hst, true_and]

theorem snowpackExpiry_found {s : State} {r : ParkRec} (hr : (s.hub.parked.find? fun x => x.parkId == r.parkId) = some r) :
    exec (.snowpackExpiry r.parkId) s = if r.expiry ≤ s.now ∧ !recBusy s r then .next (expireRec s r) else .next s := by
  rw [exec_snowpackExpiry, execSnowpackExpiry, hr]

theorem expireRec_reads (s : State) (r : ParkRec) :
    (expireRec s r).hub.parked = (s.hub.parked.filter fun x => x.parkId != r.parkId) ∧
      (expireRec s r).hub.expired = min (2 ^ 32 - 1) (s.hub.expired + 1) ∧ (expireRec s r).hub.slots = s.hub.slots := by
  have htold := told_tagEvent { s with hub := { s.hub with expired := satAdd (2 ^ 32 - 1) s.hub.expired 1 } } r.tenant 10 0 0 r.tag
  rw [expireRec]
  generalize tagEvent { s with hub := { s.hub with expired := satAdd (2 ^ 32 - 1) s.hub.expired 1 } } r.tenant 10 0 0 r.tag = v at htold
  refine ⟨congrArg (List.filter fun x : ParkRec => x.parkId != r.parkId) htold.parked, ?_, htold.slots⟩
  show v.hub.expired = _
  rw [htold.hub]
  rfl

/-- Settles O44: each end of a copy by its branch; what ends a sequence frees its slot. -/
theorem snowpackActs : Obligations.SnowpackActs := by
  intro s n id fab body tags corr hok _ hpwr hkv
  have hwf : twf ({} : Seq) s.hub.slots = true := (sound_of_tablesOk hok).slots trivial
  dsimp only
  refine ⟨rfl, fun hst => ⟨?_, fun hfew => ⟨?_, ?_⟩, fun hmany => ?_, fun line => ?_, fun x res hx => ?_⟩,
    fun w hst hw => ⟨fun hearly => ?_, fun hdue hon hparked hnone hroom => ?_⟩,
    fun r hst hr => ?restore, fun h5 h7 => ?_, fun r hr => ⟨fun hearly => ?_, fun hdue hbusy => ?_⟩⟩
  · obtain ⟨hslot, hplane, hparked⟩ := parkDone_reads (s := kvCorrected s corr) hwf hkv n
    refine ⟨_, (parkComplete_ok hst hpwr fab corr).trans
      (congrArg Host.Outcome.next (parkRead_stacked (s := kvCorrected s corr) hkv n)), hslot, hplane, parkRecord s n, hparked,
      rfl, rfl, rfl, rfl, rfl, rfl, rfl, rfl⟩
  · exact ⟨_, parkComplete_transport hst hpwr fab corr, parkFail_retried hwf hfew⟩
  · exact ⟨_, snowpackOpTimeout_park hst, parkFail_retried hwf hfew⟩
  · exact ⟨_, parkComplete_transport hst hpwr fab corr, parkFail_last hwf hmany⟩
  · exact ⟨_, parkComplete_kvLine hst hpwr fab corr line,
      faultSeq_freed (lineFault_reads hwf line n (some (s.slot n).tenant)).1 n 1⟩
  · exact parkComplete_late hpwr hx fab res corr
  · exact (parkRetry_due hst hw).trans (if_neg (by omega))
  · obtain ⟨hwf', hpark, hext, hid, -⟩ := beginPark_first (why := (s.slot n).reason) hwf (by omega) hon hparked hnone hroom
    refine ⟨_, (parkRetry_due hst hw).trans (if_pos hdue), ?_⟩
    have hlive := slot_freeEnded_live hwf' (hpark.trans_lt (by decide : 5 < 8))
    dsimp only
    rw [hlive]
    exact ⟨hpark, hext, hid⟩
  case restore =>
    have hrid : r.parkId = (s.slot n).parkId := by simpa using List.find?_some hr
    obtain ⟨hhub, hsec, hfuses, hldr⟩ := restoreRead_keeps s n r corr
    have hwf' : twf ({} : Seq) (restoreRead s n r corr).hub.slots = true := by rw [hhub]; exact hwf
    have hslot' : (restoreRead s n r corr).slot n = s.slot n := by rw [State.slot, hhub]; rfl
    have hopened := recOpen_congr hsec hfuses r (recRead s r 0 (recLen s r) body) (recRead s r (r.dext * 2 ^ 20) (16 * r.dext) tags)
    refine ⟨⟨_, restoreComplete_transport hst hpwr hr fab body tags corr, restoreFail_frees hwf n 2⟩,
      ⟨_, snowpackOpTimeout_restore hst, restoreFail_frees hwf n 2⟩, fun hclosed => ?_,
      fun hepoch => recOpen_epoch hepoch _ _, fun hid res => restoreComplete_late hpwr hid fab res body tags corr,
      fun line => ?_, fun p plain hprog hopen hmodel hinst hadp hchain hcontd hrun => ?_⟩
    · obtain ⟨hfreed, hgone⟩ := restoreEnd_reads hwf' n 7
      rw [hslot', hhub] at hgone
      exact ⟨_, (restoreComplete_ok hst hpwr hr fab body tags corr).trans
        (congrArg Host.Outcome.next (restoreDone_closed (hopened.trans hclosed))), hfreed, hgone⟩
    · obtain ⟨hwfl, hidl, hparkedl⟩ := lineFault_reads hwf line n (some r.tenant)
      obtain ⟨hfreed, hgone⟩ := restoreEnd_reads hwfl n 1
      rw [hidl, hparkedl] at hgone
      exact ⟨_, restoreComplete_kvLine hst hpwr hr fab body tags corr line, hfreed, hgone⟩
    · obtain ⟨data, had, hdone⟩ := restoreDone_opened (n := n) (by rw [hldr]; exact hprog) (hopened.trans hopen) hmodel hinst hadp hchain
      obtain ⟨hseq, hgone⟩ := restoreInto_reads hwf' r data had (by rw [hslot']; exact hcontd)
        (by rw [State.running, hldr]; exact hrun)
      rw [hhub, hrid] at hgone
      refine ⟨_, (restoreComplete_ok hst hpwr hr fab body tags corr).trans (congrArg Host.Outcome.next hdone), ?_, hgone, ?_⟩
      · rw [hseq]; rfl
      · rw [hseq]
        refine ⟨rfl, rfl, ?_⟩
        show ((restoreRead s n r corr).slot n).region = _
        rw [hslot']
  · exact (if_neg h5).trans (if_neg h7)
  · exact (snowpackExpiry_found hr).trans (if_neg fun h => absurd h.1 (by omega))
  · exact ⟨_, (snowpackExpiry_found hr).trans (if_pos ⟨hdue, by simp [hbusy]⟩), expireRec_reads s r⟩

end Sys2Proof.Proofs
end

section
/-! PROOFS. The request rows, and what a boundary's control step does with the requests that wait. -/

namespace Sys2Proof.Proofs

open Sys2Proof Sys2Proof.Machine Sys2Proof.Safety Sys2Proof.Laws

/-! ### Rows (R315, R317, R323) -/

theorem reqRow_enabled {cmd t : Nat} {h : HostReq} {act : Req → State} {s : State} (hen : tenantEnabled s t = true) :
    reqRow cmd t h act s = .next (act (reqOf t { h with entry := rowEntry cmd h.entry })) :=
  congrArg Host.Outcome.next (if_pos hen)

theorem reqRow_disabled {cmd t : Nat} {h : HostReq} {act : Req → State} {s : State} (hen : tenantEnabled s t = false) :
    reqRow cmd t h act s = .next s :=
  congrArg Host.Outcome.next (if_neg (by simp [hen]))

/-! ### Uploads (R338) -/

/-- With the decoder off a request's data are what the host answers. -/
theorem hubRead_link {s : State} (hon : s.host.hdmOn = false) (addr n : Nat) (ans : Option (List Byte)) : hubRead s addr n ans = ans := by
  have hoff : decoderOff s addr n = none := if_neg (by simp [hon])
  rw [hubRead, hoff]

theorem stageBad_link {s : State} (hon : s.host.hdmOn = false) (addr n : Nat) (bad : List Nat) : stageBad s addr n bad = s := by
  have hoff : decoderOff s addr n = none := if_neg (by simp [hon])
  rw [stageBad, hoff]

/-- An upload whose entry, image and length are right. -/
theorem doUpload_read {s : State} {r : Req} {m : List Byte} (hon : s.host.hdmOn = false) (hfmt : reqFormatBad r.entry = false)
    (hid : reqAdapter r.entry ≠ 0) (hblk : r.blk = some m) (himg : imageBad m (reqCount r.entry) = false)
    (hlen : m.length - 128 ≤ adpSlotBytes s) : doUpload s r =
      if sha512 (m.drop 128) ≠ (m.drop 64).take 64 then tagEvent s r.tenant 15 2 0 (reqAdapter r.entry)
      else takeUpload s r.tenant (reqAdapter r.entry) m := by
  have hfun : doUpload = doUpload := rfl
  conv_rhs at hfun => delta doUpload
  rw [hfun]
  beta_reduce
  dsimp only
  rw [hfmt, if_neg Bool.false_ne_true, if_neg hid, stageBad_link hon, hubRead_link hon, hblk]
  dsimp only
  rw [himg, if_neg Bool.false_ne_true, if_neg (by omega)]

/-- The next generation of a pair is its last one and one more; nothing but the record of generations changes. -/
theorem nextGen_eq (s : State) (t : Nat) (id : BitVec 64) : ∃ l, nextGen s t id =
    (lastGen s t id % 65535 + 1, { s with hub := { s.hub with gens := l } }) := ⟨_, rfl⟩

theorem takeUpload_placed {s : State} {t k : Nat} {id : BitVec 64} {m : List Byte} (hwf : twf ({} : Adp) s.hub.adps = true)
    (hfree : adpFree s = some k) (hquota : adpHeld s t < bits (s.tenant t).quota.toNat 6 0) :
    let u := takeUpload s t id m
    (u.adp k).st = 1 ∧ (u.adp k).tenant = t ∧ (u.adp k).id = id ∧ (u.adp k).body = m.drop 128 ∧
      (u.adp k).gen = lastGen s t id % 65535 + 1 ∧ u.plane = s.plane := by
  obtain ⟨l, hgen⟩ := nextGen_eq s t id
  have hfree' : adpFree { s with hub := { s.hub with gens := l } } = some k := hfree
  have hheld : ¬ bits (s.tenant t).quota.toNat 6 0 ≤ adpHeld { s with hub := { s.hub with gens := l } } t := Nat.not_le.2 hquota
  have htake : takeUpload s t id m = State.setAdp { s with hub := { s.hub with gens := l } } k
      { st := 1, tenant := t, gen := lastGen s t id % 65535 + 1, id := id, modelId := (m.drop 16).take 16, body := m.drop 128 } := by
    rw [takeUpload, hgen]
    dsimp only
    rw [hfree']
    exact if_neg hheld
  dsimp only
  rw [htake, adp_setAdp (s := { s with hub := { s.hub with gens := l } }) hwf]
  exact ⟨rfl, rfl, rfl, rfl, rfl, rfl⟩

theorem takeUpload_deferred {s : State} {t : Nat} {id : BitVec 64} {m : List Byte}
    (h : adpFree s = none ∨ bits (s.tenant t).quota.toNat 6 0 ≤ adpHeld s t) :
    let u := takeUpload s t id m
    u.hub.adps = s.hub.adps ∧ u.plane = s.plane ∧ ∃ x, u.hub.uploads = s.hub.uploads ++ [x] ∧ x.tenant = t ∧ x.id = id ∧
      x.gen = lastGen s t id % 65535 + 1 := by
  obtain ⟨l, hgen⟩ := nextGen_eq s t id
  let x : Upload :=
    { tenant := t, id := id, gen := lastGen s t id % 65535 + 1, modelId := (m.drop 16).take 16, body := m.drop 128 }
  obtain ⟨why, htake⟩ : ∃ why, takeUpload s t id m =
      tagEvent { s with hub := { s.hub with gens := l, uploads := s.hub.uploads ++ [x] } } t 13 why 0 id := by
    rw [takeUpload, hgen]
    dsimp only
    split
    · exact ⟨1, rfl⟩
    · next k hk =>
      obtain hnone | hheld := h
      · exact absurd ((hnone : adpFree { s with hub := { s.hub with gens := l } } = none).symm.trans hk) nofun
      · exact ⟨2, if_pos hheld⟩
  dsimp only
  rw [htake, tagEvent, sendEvent_frame]
  exact ⟨rfl, rfl, x, rfl, rfl, rfl, rfl⟩

theorem requestRows : RequestRows := by
  intro s t h hok
  dsimp only
  have hadps : twf ({} : Adp) s.hub.adps = true := (sound_of_tablesOk hok).adps trivial
  refine ⟨fun hen => ⟨reqRow_enabled hen, reqRow_enabled hen, reqRow_enabled hen, reqRow_enabled hen, reqRow_enabled hen, reqRow_enabled hen⟩,
    fun hen => ⟨reqRow_disabled hen, reqRow_disabled hen, reqRow_disabled hen, reqRow_disabled hen, reqRow_disabled hen,
      reqRow_disabled hen, reqRow_disabled hen⟩, fun m hen ht hon hfmt hid hblk himg hlen => ?_⟩
  have hread := doUpload_read (r := reqOf t { h with entry := rowEntry 6 h.entry }) hon hfmt hid hblk himg hlen
  have hrow : exec (.adapterUpload t h) s = .next (doUpload s (reqOf t { h with entry := rowEntry 6 h.entry })) := reqRow_enabled hen
  refine ⟨fun hsha => ?_, fun k hsha hfree hquota => ?_, fun hsha hdefer => ?_⟩
  · exact hrow.trans (congrArg Host.Outcome.next (hread.trans (if_pos hsha)))
  · exact ⟨_, hrow.trans (congrArg Host.Outcome.next (hread.trans (if_neg (not_not.2 hsha)))), takeUpload_placed hadps hfree hquota⟩
  · exact ⟨_, hrow.trans (congrArg Host.Outcome.next (hread.trans (if_neg (not_not.2 hsha)))), takeUpload_deferred hdefer⟩

/-! ### The control step (R315, R321, R322, R340) -/

theorem toldBut_finishSeq (s : State) (n r : Nat) : ToldBut s (finishSeq s n r) := toldBut_endSeq ..

theorem finishSeq_freed {s : State} (h : twf ({} : Seq) s.hub.slots = true) (n r : Nat) : (freeEnded (finishSeq s n r)).slot n = {} := by
  have hst : ((finishSeq s n r).slot n).st = 8 := by rw [finishSeq, endSeq_slot h]; rfl
  exact slot_freeEnded_ended (endSeq_twf h ..) hst.ge

/-- A pause, resume, continue or cancel of a sequence in a slot. -/
theorem ctlOne_held {s : State} {r : Req} {n : Nat} (hfmt : reqFormatBad r.entry = false) (hack : r.acked = false)
    (h2 : 2 ≤ reqCmd r.entry) (h5 : reqCmd r.entry ≤ 5) (hslot : slotOf s r.tenant (reqTag r.entry) = some n) : ctlOne s r =
      if (s.slot n).stopNow ∧ (reqCmd r.entry = 3 ∨ reqCmd r.entry = 5) then ([], reject s r.tenant 3 (reqTag r.entry))
      else if ((s.slot n).st = 5 ∨ (s.slot n).st = 7) ∧ reqCmd r.entry ≠ 4 then ([r], s)
      else if reqCmd r.entry = 3 then ([], ctlPause s r n)
      else if reqCmd r.entry = 5 ∧ (s.slot n).st < 8 then ([], finishSeq (ackDone s r.tenant 5 (reqTag r.entry)) n 6)
      else ([], reject s r.tenant 3 (reqTag r.entry)) := by
  rw [ctlOne, if_neg (by simp [hack]; omega), if_neg (by simp [hfmt]), if_neg (by omega), hslot]

/-- A pause, resume, continue or cancel of a parked sequence. -/
theorem ctlOne_record {s : State} {r : Req} {p : ParkRec} (hfmt : reqFormatBad r.entry = false) (hack : r.acked = false)
    (h2 : 2 ≤ reqCmd r.entry) (h5 : reqCmd r.entry ≤ 5) (hslot : slotOf s r.tenant (reqTag r.entry) = none)
    (hrec : recOf s r.tenant (reqTag r.entry) = some p) : ctlOne s r =
      if reqCmd r.entry = 5 then ([], cancelRec (ackDone s r.tenant 5 (reqTag r.entry)) p)
      else if reqCmd r.entry = 3 then ([], reject s r.tenant 3 (reqTag r.entry))
      else if p.expiry ≤ s.now then ([], expireRec s p)
      else if reqCmd r.entry = 2 ∧ reqCount r.entry = 0 then ([], reject s r.tenant 5 (reqTag r.entry))
      else ([{ r with acked := true }], ackDone s r.tenant (reqCmd r.entry) (reqTag r.entry)) := by
  rw [ctlOne, if_neg (by simp [hack]; omega), if_neg (by simp [hfmt]), if_neg (by omega), hslot, hrec]

/-- A resume, or a continue with tokens, of a parked sequence is acknowledged and stays. -/
theorem ctlOne_parked {s : State} {r : Req} {p : ParkRec} (hfmt : reqFormatBad r.entry = false) (hack : r.acked = false)
    (hcmd : reqCmd r.entry = 4 ∨ (reqCmd r.entry = 2 ∧ reqCount r.entry ≠ 0)) (hslot : slotOf s r.tenant (reqTag r.entry) = none)
    (hrec : recOf s r.tenant (reqTag r.entry) = some p) (hexp : s.now < p.expiry) :
    ctlOne s r = ([{ r with acked := true }], ackDone s r.tenant (reqCmd r.entry) (reqTag r.entry)) := by
  rw [ctlOne_record hfmt hack (by omega) (by omega) hslot hrec, if_neg (by omega), if_neg (by omega), if_neg (by omega), if_neg (by omega)]

theorem ctlOne_unknown {s : State} {r : Req} (hfmt : reqFormatBad r.entry = false) (hack : r.acked = false)
    (h2 : 2 ≤ reqCmd r.entry) (h5 : reqCmd r.entry ≤ 5) (hslot : slotOf s r.tenant (reqTag r.entry) = none)
    (hrec : recOf s r.tenant (reqTag r.entry) = none) : ctlOne s r = ([], reject s r.tenant 2 (reqTag r.entry)) := by
  rw [ctlOne, if_neg (by simp [hack]; omega), if_neg (by simp [hfmt]), if_neg (by omega), hslot, hrec]

theorem ctlOne_stopped {s : State} {r : Req} {n : Nat} (hfmt : reqFormatBad r.entry = false) (hack : r.acked = false)
    (hslot : slotOf s r.tenant (reqTag r.entry) = some n) (hstop : (s.slot n).stopNow = true)
    (hcmd : reqCmd r.entry = 3 ∨ reqCmd r.entry = 5) : ctlOne s r = ([], reject s r.tenant 3 (reqTag r.entry)) := by
  rw [ctlOne_held hfmt hack (by omega) (by omega) hslot, if_pos ⟨hstop, hcmd⟩]

theorem ctlOne_copying {s : State} {r : Req} {n : Nat} (hfmt : reqFormatBad r.entry = false) (hack : r.acked = false)
    (hslot : slotOf s r.tenant (reqTag r.entry) = some n) (hstop : (s.slot n).stopNow = false)
    (hcmd : reqCmd r.entry = 3 ∨ reqCmd r.entry = 5) (hst : (s.slot n).st = 5 ∨ (s.slot n).st = 7) : ctlOne s r = ([r], s) := by
  rw [ctlOne_held hfmt hack (by omega) (by omega) hslot, if_neg (by simp [hstop]), if_pos ⟨hst, by omega⟩]

theorem ctlOne_pause {s : State} {r : Req} {n : Nat} (hfmt : reqFormatBad r.entry = false) (hack : r.acked = false)
    (hslot : slotOf s r.tenant (reqTag r.entry) = some n) (hstop : (s.slot n).stopNow = false) (hcmd : reqCmd r.entry = 3)
    (hst : (s.slot n).st = 3) (hon : snpOn s r.tenant = true) :
    ctlOne s r = ([], beginPark (ackDone s r.tenant 3 (reqTag r.entry)) n 1) := by
  rw [ctlOne_held hfmt hack (by omega) (by omega) hslot, if_neg (by simp [hstop]), if_neg (by omega), if_pos hcmd, ctlPause, if_neg (by omega), if_neg (by simp [hon])]

theorem ctlOne_cancel {s : State} {r : Req} {n : Nat} (hfmt : reqFormatBad r.entry = false) (hack : r.acked = false)
    (hslot : slotOf s r.tenant (reqTag r.entry) = some n) (hstop : (s.slot n).stopNow = false) (hcmd : reqCmd r.entry = 5)
    (h5 : (s.slot n).st ≠ 5) (h7 : (s.slot n).st ≠ 7) (h8 : (s.slot n).st < 8) :
    ctlOne s r = ([], finishSeq (ackDone s r.tenant 5 (reqTag r.entry)) n 6) := by
  rw [ctlOne_held hfmt hack (by omega) (by omega) hslot, if_neg (by simp [hstop]), if_neg (by omega), if_neg (by omega), if_pos ⟨hcmd, h8⟩]

/-- What a park asks of the state is told apart from events. -/
theorem beginPark_told {s u : State} (htold : Told s u) (hslots : twf ({} : Seq) s.hub.slots = true)
    (hten : twf ({} : Tenant) s.tenants = true) {n why : Nat} (hst : (s.slot n).st ≠ 5)
    (hon : snpOn s (s.slot n).tenant = true) (hparked : s.hub.parked = [])
    (hnone : (s.hub.slots.all fun e => e.2.st != 5) = true)
    (hroom : allExtents s (s.slot n) ≤ bits (s.tenant (s.slot n).tenant).snpC.toNat 31 0) :
    let t := beginPark u n why
    (t.slot n).st = 5 ∧ (t.slot n).parkExt = 0 ∧ (t.slot n).parkId = s.hub.nextPark ∧ t.hub.nextPark = s.hub.nextPark + 1 := by
  have hten' : ∀ m, SameButRing (s.tenant m) (u.tenant m) := htold.rings.same hten
  have happ : u.kv.app = s.kv.app := by rw [htold.kv]
  have hnext : u.hub.nextPark = s.hub.nextPark := by rw [htold.hub]
  have hsnp : snpOn u (s.slot n).tenant = snpOn s (s.slot n).tenant := by rw [snpOn, hten' (s.slot n).tenant]; rfl
  have hext : allExtents u (s.slot n) = allExtents s (s.slot n) := by
    simp only [allExtents, dataExtents, recBytes, chainBytes, regionBytes, happ]
  have hlimit : (u.tenant (s.slot n).tenant).snpC = (s.tenant (s.slot n).tenant).snpC := by rw [hten' (s.slot n).tenant]
  have hpark := beginPark_first (s := u) (n := n) (why := why) (by rw [htold.slots]; exact hslots)
    (by rw [htold.slot]; exact hst) (by rw [htold.slot, hsnp]; exact hon) (htold.parked.trans hparked)
    (by rw [htold.slots]; exact hnone) (by rw [htold.slot, hext, hlimit]; exact hroom)
  rw [hnext] at hpark
  exact hpark.2

/-! ### Adapter releases (R340) -/

/-- The newest generation is one of the pair's resident ones. -/
theorem newestAdp_mem {s : State} {t k : Nat} {id : BitVec 64} (h : newestAdp s t id = some k) :
    ∃ a, (k, a) ∈ s.hub.adps ∧ a.st = 2 ∧ a.tenant = t ∧ a.id = id := by
  have hfold : ∀ (l : List (Nat × Adp)) (b : Option Nat), l.foldl (fun b e =>
      match b with
      | none => some e.1
      | some k => if genAge s t id e.2.gen < genAge s t id (s.adp k).gen then some e.1 else some k) b = some k →
      b = some k ∨ ∃ a, (k, a) ∈ l := by
    intro l
    induction l with
    | nil => exact fun b hb => .inl hb
    | cons e r ih =>
      intro b hb
      obtain hnext | ⟨a, ha⟩ := ih _ hb
      · cases b with
        | none => exact .inr ⟨e.2, by rw [← Option.some.inj hnext]; exact List.mem_cons_self⟩
        | some j =>
          dsimp only at hnext
          split at hnext
          · exact .inr ⟨e.2, by rw [← Option.some.inj hnext]; exact List.mem_cons_self⟩
          · exact .inl hnext
      · exact .inr ⟨a, List.mem_cons_of_mem _ ha⟩
  obtain hnone | ⟨a, ha⟩ := hfold _ _ h
  · exact absurd hnone nofun
  · obtain ⟨hmem, hp⟩ := List.mem_filter.1 ha
    simp only [Bool.and_eq_true, beq_iff_eq] at hp
    exact ⟨a, hmem, hp.1.1, hp.1.2, hp.2⟩

/-- A generation that retires. -/
def retired (a : Adp) : Adp := { a with st := 3, done := false, body := [] }

theorem told_retire (s : State) (l : List (Nat × Adp)) : Told s (l.foldl (fun s e => s.setAdp e.1 (retired e.2)) s) :=
  .foldl (fun _ _ => told_setAdp ..) l

theorem adp_retire {s : State} (h : twf ({} : Adp) s.hub.adps = true) {k : Nat} (l : List (Nat × Adp))
    (hk : (s.adp k).st = 3 ∨ k ∈ l.map (·.1)) :
    twf ({} : Adp) (l.foldl (fun s e => s.setAdp e.1 (retired e.2)) s).hub.adps = true ∧
      ((l.foldl (fun s e => s.setAdp e.1 (retired e.2)) s).adp k).st = 3 := by
  induction l generalizing s with
  | nil => exact ⟨h, hk.resolve_right (List.not_mem_nil)⟩
  | cons e r ih =>
    refine ih (twf_tset h) ?_
    by_cases he : k = e.1
    · refine .inl ?_
      rw [he, adp_setAdp h]
      rfl
    · rw [adp_setAdp_ne h he]
      exact hk.imp_right fun hm => (List.mem_cons.1 hm).resolve_left he

theorem uploads_retire (s : State) (l : List (Nat × Adp)) :
    (l.foldl (fun s e => s.setAdp e.1 (retired e.2)) s).hub.uploads = s.hub.uploads := by
  induction l generalizing s with
  | nil => rfl
  | cons e r ih => exact ih _

theorem adps_tagEvent (s : State) (t c r v : Nat) (g : BitVec 64) : (tagEvent s t c r v g).hub.adps = s.hub.adps := by
  rw [tagEvent, sendEvent_frame]

theorem told_sweepOne (s : State) (k : Nat) : Told s (sweepOne s k) := .ite ((told_tagEvent ..).trans (told_setAdp ..)) (.refl s)

theorem sweepOne_twf {s : State} (h : twf ({} : Adp) s.hub.adps = true) (k : Nat) : twf ({} : Adp) (sweepOne s k).hub.adps = true := by
  rw [sweepOne]
  split
  · refine twf_tset ?_
    rw [adps_tagEvent]
    exact h
  · exact h

theorem sweepOne_other {s : State} (h : twf ({} : Adp) s.hub.adps = true) {j k : Nat} (hk : k ≠ j) : (sweepOne s j).adp k = s.adp k := by
  rw [sweepOne]
  split
  · rw [adp_setAdp_ne (by rw [adps_tagEvent]; exact h) hk, State.adp, adps_tagEvent]
    rfl
  · rfl

theorem sweepOne_same {s : State} (h : twf ({} : Adp) s.hub.adps = true) (k : Nat) :
    (sweepOne s k).adp k = if 3 ≤ (s.adp k).st ∧ pinsOf s k = 0 then {} else s.adp k := by
  rw [sweepOne]
  split
  · exact adp_setAdp (by rw [adps_tagEvent]; exact h)
  · rfl

theorem pinsOf_told {s t : State} (h : Told s t) (k : Nat) : pinsOf t k = pinsOf s k := by rw [pinsOf, h.slots, pinsOf]

/-- A sweep leaves a pinned generation and frees one that is not. -/
theorem foldl_sweepOne {s : State} (h : twf ({} : Adp) s.hub.adps = true) (k : Nat) (l : List Nat) :
    (pinsOf s k ≠ 0 → (l.foldl sweepOne s).adp k = s.adp k) ∧
    (pinsOf s k = 0 → (s.adp k = {} ∨ ((s.adp k).st = 3 ∧ k ∈ l)) → (l.foldl sweepOne s).adp k = {}) := by
  induction l generalizing s with
  | nil => exact ⟨fun _ => rfl, fun _ hk => hk.resolve_right fun hm => absurd hm.2 (List.not_mem_nil)⟩
  | cons j r ih =>
    obtain ⟨hpinned, hfree⟩ := ih (sweepOne_twf h j)
    rw [pinsOf_told (told_sweepOne s j)] at hpinned hfree
    by_cases hj : k = j
    · subst hj
      have hsame := sweepOne_same h k
      refine ⟨fun hp => (hpinned hp).trans (hsame.trans (if_neg fun hc => hp hc.2)), fun hp hk => hfree hp (.inl ?_)⟩
      rw [hsame]
      obtain hdef | ⟨hst, -⟩ := hk
      · rw [hdef, if_neg fun hc => absurd hc.1 (by decide)]
      · exact if_pos ⟨hst.ge, hp⟩
    · have hother := sweepOne_other h hj
      refine ⟨fun hp => (hpinned hp).trans hother, fun hp hk => hfree hp ?_⟩
      rw [hother]
      exact hk.imp_right fun hm => ⟨hm.1, (List.mem_cons.1 hm.2).resolve_left hj⟩

theorem foldl_sweepOne_twf {s : State} (h : twf ({} : Adp) s.hub.adps = true) (l : List Nat) :
    twf ({} : Adp) (l.foldl sweepOne s).hub.adps = true := by
  induction l generalizing s with
  | nil => exact h
  | cons j r ih => exact ih (sweepOne_twf h j)

/-- Deferred uploads take free slots only. -/
theorem placeUploads_taken {s : State} (h : twf ({} : Adp) s.hub.adps = true) {k : Nat} (hk : (s.adp k).st ≠ 0) (l : List Upload) :
    (placeUploads s l).adp k = s.adp k := by
  induction l generalizing s with
  | nil => rfl
  | cons u r ih =>
    rw [placeUploads]
    split
    · next j hj =>
      have hfree : (s.adp j).st = 0 := by simpa using List.find?_some hj
      have hkj : k ≠ j := fun heq => hk (heq ▸ hfree)
      split
      · rw [ih (twf_tset h) (by rw [adp_setAdp_ne h hkj]; exact hk), adp_setAdp_ne h hkj]
      · exact ih h hk
    · rfl

theorem foldl_sweepOne_uploads (s : State) (l : List Nat) : (l.foldl sweepOne s).hub.uploads = s.hub.uploads := by
  induction l generalizing s with
  | nil => rfl
  | cons j r ih =>
    refine (ih _).trans ?_
    rw [sweepOne]
    split
    · rw [tagEvent, sendEvent_frame]
      rfl
    · rfl

/-- A sweep of a table in which generation k retires: k stays while it is pinned, and else is free when no upload waits. -/
theorem sweepAdps_retired {s : State} (h : twf ({} : Adp) s.hub.adps = true) {k : Nat} (hst : (s.adp k).st = 3) :
    (pinsOf s k ≠ 0 → ((sweepAdps s).adp k).st = 3) ∧ (pinsOf s k = 0 → s.hub.uploads = [] → (sweepAdps s).adp k = {}) := by
  have hwf := foldl_sweepOne_twf h (s.hub.adps.map (·.1))
  obtain ⟨hpinned, hfree⟩ := foldl_sweepOne h k (s.hub.adps.map (·.1))
  refine ⟨fun hp => ?_, fun hp hup => ?_⟩
  · rw [sweepAdps, placeUploads_taken hwf (by rw [hpinned hp, hst]; decide), hpinned hp, hst]
  · have hkey : k ∈ s.hub.adps.map (·.1) := by
      obtain hdef | hmem := tget_eq_default_or_mem ({} : Adp) s.hub.adps k
      · exact absurd (hst.symm.trans (congrArg Adp.st hdef)) (by decide)
      · exact List.mem_map.2 ⟨_, hmem, rfl⟩
    rw [sweepAdps, foldl_sweepOne_uploads, hup]
    exact hfree hp (.inr ⟨hst, hkey⟩)

/-- The generations of a pair that an adapter release retires. -/
def releasable (s : State) (t : Nat) (id : BitVec 64) : List (Nat × Adp) :=
  s.hub.adps.filter fun e => decide (1 ≤ e.2.st ∧ e.2.st ≤ 2) && e.2.tenant == t && e.2.id == id

/-- The pair has no upload any more, and is noted as released. -/
def withdrawn (s : State) (t : Nat) (id : BitVec 64) : State :=
  { s with hub := { s.hub with
      uploads := s.hub.uploads.filter fun u => !(u.tenant == t && u.id == id)
      released := (t, id) :: (clearReleased s t id).hub.released } }

theorem ctlRelease_known {s : State} {r : Req} {k : Nat} (hid : reqAdapter r.entry ≠ 0)
    (hnew : newestAdp s r.tenant (reqAdapter r.entry) = some k) : ctlRelease s r =
      sweepAdps (withdrawn ((releasable (ackDone s r.tenant 7 (reqTag r.entry)) r.tenant (reqAdapter r.entry)).foldl
        (fun s e => s.setAdp e.1 (retired e.2)) (ackDone s r.tenant 7 (reqTag r.entry))) r.tenant (reqAdapter r.entry)) := by
  rw [ctlRelease]
  dsimp only
  rw [if_neg hid, hnew, if_neg (by simp)]
  rfl

theorem ctlRelease_retires {s : State} {r : Req} {k : Nat} (hwf : twf ({} : Adp) s.hub.adps = true)
    (hid : reqAdapter r.entry ≠ 0) (hnew : newestAdp s r.tenant (reqAdapter r.entry) = some k) :
    (pinsOf s k ≠ 0 → ((ctlRelease s r).adp k).st = 3) ∧
      (pinsOf s k = 0 → s.hub.uploads = [] → (ctlRelease s r).adp k = {}) := by
  have hack := told_ackDone s r.tenant 7 (reqTag r.entry)
  have hadps : (ackDone s r.tenant 7 (reqTag r.entry)).hub.adps = s.hub.adps := adps_tagEvent ..
  have huploads : (ackDone s r.tenant 7 (reqTag r.entry)).hub.uploads = s.hub.uploads := by
    rw [ackDone, tagEvent, sendEvent_frame]
  rw [ctlRelease_known hid hnew]
  generalize ackDone s r.tenant 7 (reqTag r.entry) = a at hack hadps huploads
  have hmine : k ∈ (releasable a r.tenant (reqAdapter r.entry)).map (·.1) := by
    obtain ⟨x, hmem, hst, hten, hxid⟩ := newestAdp_mem hnew
    refine List.mem_map.2 ⟨(k, x), List.mem_filter.2 ⟨by rw [hadps]; exact hmem, ?_⟩, rfl⟩
    simp [hst, hten, hxid]
  have htold := told_retire a (releasable a r.tenant (reqAdapter r.entry))
  have hkept := uploads_retire a (releasable a r.tenant (reqAdapter r.entry))
  obtain ⟨hwf', hst⟩ := adp_retire (by rw [hadps]; exact hwf) _ (.inr hmine)
  generalize (releasable a r.tenant (reqAdapter r.entry)).foldl (fun s e => s.setAdp e.1 (retired e.2)) a = v at *
  obtain ⟨hpinned, hfree⟩ := sweepAdps_retired (s := withdrawn v r.tenant (reqAdapter r.entry)) hwf' hst
  have hpins : pinsOf (withdrawn v r.tenant (reqAdapter r.entry)) k = pinsOf s k :=
    (pinsOf_told htold k).trans (pinsOf_told hack k)
  rw [hpins] at hpinned hfree
  refine ⟨hpinned, fun hp hup => hfree hp ?_⟩
  show v.hub.uploads.filter _ = []
  rw [hkept, huploads, hup]
  rfl

end Sys2Proof.Proofs
end

section
/-! PROOFS. The admission walk, and the queue that a boundary leaves. -/

namespace Sys2Proof.Proofs

open Sys2Proof Sys2Proof.Machine Sys2Proof.Safety Sys2Proof.Laws

/-! ### The queue through the steps after the walk -/

theorem foldl_queue {α : Type} {f : State → α → State} (hf : ∀ t x, (f t x).hub.queue = t.hub.queue) (s : State) (l : List α) :
    (l.foldl f s).hub.queue = s.hub.queue := by
  induction l generalizing s with
  | nil => rfl
  | cons x r ih => exact (ih _).trans (hf s x)

theorem holdSeq_queue (s : State) (n why : Nat) : (holdSeq s n why).hub.queue = s.hub.queue := by
  rw [holdSeq]
  dsimp only
  split
  · rfl
  · exact (told_seqEvent ..).queue

theorem releaseHold_queue (s : State) (n : Nat) : (releaseHold s n).hub.queue = s.hub.queue := by
  rw [releaseHold]
  split
  · exact (told_seqEvent ..).queue
  · rfl

theorem markPart_queue (s : State) (n : Nat) (pt : Part) : (markPart s n pt).hub.queue = s.hub.queue := releaseHold_queue s n

theorem writeHub_queue (s : State) (i : Nat) (l : List (Nat × List Byte)) : (writeHub s i l).hub.queue = s.hub.queue := rfl

theorem writeDescriptor_queue (s : State) (ps : Parts) (l : List Quantum) : (writeDescriptor s ps l).hub.queue = s.hub.queue := by
  rw [writeDescriptor]
  refine foldl_queue (fun t f => ?_) s _
  split
  · rfl
  · exact foldl_queue (fun t _ => writeHub_queue t _ _) t _

theorem planFrom_queue (n : Nat) (s : State) (l : List (Nat × Seq)) : (planFrom n s l).hub.queue = s.hub.queue := by
  induction n generalizing s l with
  | zero => rfl
  | succ n ih =>
    rw [planFrom]
    dsimp only
    split
    · split
      · rfl
      · refine (ih ..).trans ?_
        split
        · rfl
        · exact holdSeq_queue ..
    · exact (foldl_queue (fun _ _ => markPart_queue ..) _ _).trans (writeDescriptor_queue ..)

theorem planStep_queue (s : State) : (planStep s).hub.queue = s.hub.queue := planFrom_queue ..

/-- The steps after the walk leave its queue. -/
theorem afterWalk_queue (s : State) : (freeEnded (sweepAdps (planStep s))).hub.queue = s.hub.queue :=
  (told_sweepAdps (planStep s)).queue.trans (planStep_queue s)

/-- The state that the walk of a boundary begins with. -/
def walkBegin (s : State) : State := freeEnded (holdsStep (adoptAdps (controls (commitAll s))) true)

/-- What a boundary writes when its plan stands. -/
def boundaryClose (s : State) : State :=
  { s with hub := { s.hub with committedOk := true }, plane := { s.plane with fLast := max s.plane.fLast s.cycle } }

theorem boundaryClose_queue (s : State) : (boundaryClose s).hub.queue = s.hub.queue := rfl

theorem boundaryRun_eq (s : State) :
    boundaryRun s = boundaryClose (freeEnded (sweepAdps (planStep (admissionWalk (walkBegin s))))) := by
  delta boundaryRun
  extract_lets s1 s2 s3
  have hend : s3 = freeEnded (sweepAdps (planStep (admissionWalk (walkBegin s)))) := rfl
  rw [← hend]
  clear_value s3
  rfl

theorem admissionWalk_queue (s : State) : (admissionWalk s).hub.queue = (walkList s [] s.hub.queue).1 := by rw [admissionWalk]

/-- The queue that a boundary leaves is the one its walk leaves (R315). -/
theorem boundaryRun_queue (s : State) :
    (boundaryRun s).hub.queue = (walkList (walkBegin s) [] (walkBegin s).hub.queue).1 := by
  rw [boundaryRun_eq, boundaryClose_queue, afterWalk_queue, admissionWalk_queue]

theorem controls_single {s : State} {r : Req} (h : s.hub.queue = [r]) : (controls s).hub.queue = (ctlOne s r).1 := by
  have hlist : (ctlList s [r]).1 = (ctlOne s r).1 := List.append_nil _
  rw [controls, h]
  exact hlist

/-! ### The walk on one request (R318, R323-R325) -/

theorem walkOne_full {s : State} (h : freeSlotNo s = none) (r : Req) : walkOne s r = (.stop, s) := by rw [walkOne, h]

theorem walkOne_closed {s : State} (h : s.hub.admitOff = true ∨ s.host.linkHeld = true) (r : Req) : walkOne s r = (.stop, s) := by
  rw [walkOne]
  split
  · rfl
  · exact if_pos (by simpa using h)

/-- A request whose reads meet no bad line. -/
theorem walkOne_open {s : State} {r : Req} {n : Nat} (hn : freeSlotNo s = some n) (hoff : s.hub.admitOff = false)
    (hheld : s.host.linkHeld = false) (hbad : r.bad = []) : walkOne s r =
      if reqCmd r.entry = 1 then walkStart s r n else if r.acked then walkRestore s r n else (.skip, s) := by
  have hstage : reqStage s r = s := if_pos (by rw [hbad]; rfl)
  rw [walkOne, hn]
  dsimp only
  rw [if_neg (by simp [hoff, hheld]), hstage]

theorem walkStart_rejected {s : State} {r : Req} {n why : Nat} {p : List Byte} (hfmt : reqFormatBad r.entry = false)
    (hblock : startBlock s r = some p) (hrej : startReject s r p = some why) :
    walkStart s r n = (.gone, reject s r.tenant why (reqTag r.entry)) := by
  rw [walkStart]
  dsimp only
  rw [if_neg (by simp [hfmt]), hblock]
  dsimp only
  rw [hrej]

section Start
variable {s : State} {r : Req} {n : Nat} {p d : List Byte} (hfmt : reqFormatBad r.entry = false)
  (hblock : startBlock s r = some p) (hrej : startReject s r p = none) (hprompt : startPrompt s r p = some d)
include hfmt hblock hrej hprompt

/-- A start with a block and a prompt that nothing refuses, and no region of its class free. -/
theorem walkStart_crowded (hreg : freeRegion s (pbClass p) = none) : walkStart s r n = (.skip, s) := by
  rw [walkStart]
  dsimp only
  rw [if_neg (by simp [hfmt]), hblock]
  dsimp only
  rw [hrej]
  dsimp only
  rw [hprompt]
  dsimp only
  rw [hreg]

theorem walkStart_room {g : Nat} (hreg : freeRegion s (pbClass p) = some g) : walkStart s r n =
    if (s.tenant r.tenant).level ≤ 0 then (.skip, s)
    else if pbAdapter p ≠ 0 ∧ (newestAdp s r.tenant (pbAdapter p)).isNone then (.skip, s)
    else if waitsFill s r (tokList d (reqCount r.entry)) then (.skip, s)
    else (.gone, admitReq s r p (tokList d (reqCount r.entry)) n g) := by
  rw [walkStart]
  dsimp only
  rw [if_neg (by simp [hfmt]), hblock]
  dsimp only
  rw [hrej]
  dsimp only
  rw [hprompt]
  dsimp only
  rw [hreg]

end Start

/-! ### What an admission writes (R325) -/

/-- Prefix entries are books of the KV store alone. -/
def PfxOnly (s t : State) : Prop := ∃ x, t = { s with kv := { s.kv with pfx := x } }

theorem PfxOnly.refl (s : State) : PfxOnly s s := ⟨_, rfl⟩

theorem PfxOnly.trans {s t u : State} (h : PfxOnly s t) (h' : PfxOnly t u) : PfxOnly s u := by
  obtain ⟨_, rfl⟩ := h
  obtain ⟨x, rfl⟩ := h'
  exact ⟨x, rfl⟩

theorem pfxOnly_foldl (s : State) (l : List Nat) : PfxOnly s (l.foldl pfxRef s) := by
  induction l generalizing s with
  | nil => exact .refl s
  | cons g r ih => exact .trans ⟨_, rfl⟩ (ih _)

theorem pfxOnly_extend (s : State) (scope st : Nat) (par : Option Nat) (l : List (BitVec 64)) :
    PfxOnly s (pfxExtend s scope st par l).2 := by
  induction l generalizing s par with
  | nil => exact .refl s
  | cons x r ih =>
    rw [pfxExtend]
    split
    · exact .refl s
    · split
      · exact .refl s
      · exact .trans ⟨_, rfl⟩ (ih _ _)

/-- A slot taken for a sequence, with its place in the order. -/
def takeSlot (s : State) (n : Nat) (q : Seq) : State :=
  { s.setSlot n q with hub := { (s.setSlot n q).hub with admitNo := s.hub.admitNo + 1 } }

theorem takeSlot_slot {s : State} (hwf : twf ({} : Seq) s.hub.slots = true) (n : Nat) (q : Seq) : (takeSlot s n q).slot n = q :=
  tget_tset hwf

/-- What an admission reads and writes, with the granules it shares and adds. -/
theorem admitReq_eq (s : State) (r : Req) (p : List Byte) (toks : List Nat) (n g : Nat) : ∃ x q v, PfxOnly s x ∧
    admitReq s r p toks n g = seqEvent (takeSlot x n q) n 1 0 v ∧ q.st = 1 ∧ q.tenant = r.tenant ∧ q.tag = reqTag r.entry ∧
      q.pb = p ∧ q.region = g ∧ q.order = s.hub.admitNo := by
  delta admitReq
  extract_lets e t pr scope hs m s1
  have hpfx : PfxOnly s (pfxExtend s1 scope 1 m.getLast? (hs.drop m.length)).2 := (pfxOnly_foldl s m).trans (pfxOnly_extend ..)
  revert hpfx
  rcases pfxExtend s1 scope 1 m.getLast? (hs.drop m.length) with ⟨more, s2⟩
  rintro ⟨x, rfl⟩
  exact ⟨_, _, _, ⟨x, rfl⟩, rfl, rfl, rfl, rfl, rfl, rfl, rfl⟩

/-- An admitted sequence stands in the lowest free slot, with its region and its place in the order. -/
theorem admitReq_reads {s : State} (hwf : twf ({} : Seq) s.hub.slots = true) (r : Req) (p : List Byte) (toks : List Nat) (n g : Nat) :
    let u := admitReq s r p toks n g
    (u.slot n).st = 1 ∧ (u.slot n).tenant = r.tenant ∧ (u.slot n).tag = reqTag r.entry ∧ (u.slot n).pb = p ∧
      (u.slot n).region = g ∧ (u.slot n).order = s.hub.admitNo ∧ u.hub.admitNo = s.hub.admitNo + 1 ∧ u.plane = s.plane := by
  obtain ⟨x, q, v, hx, heq, hq⟩ := admitReq_eq s r p toks n g
  obtain ⟨l, rfl⟩ := hx
  dsimp only
  rw [heq]
  generalize hy : takeSlot { s with kv := { s.kv with pfx := l } } n q = y
  have htold := told_seqEvent y n 1 0 v
  have hslot : (seqEvent y n 1 0 v).slot n = q := by
    rw [htold.slot, ← hy]
    exact takeSlot_slot hwf n q
  have hno : (seqEvent y n 1 0 v).hub.admitNo = s.hub.admitNo + 1 := by rw [htold.hub, ← hy]; rfl
  have hplane : (seqEvent y n 1 0 v).plane = s.plane := by rw [htold.plane, ← hy]; rfl
  obtain ⟨hst, hten, htag, hpb, hreg, hord⟩ := hq
  rw [hslot]
  exact ⟨hst, hten, htag, hpb, hreg, hord, hno, hplane⟩

/-! ### Restores (R345) -/

theorem beginRestore_slot {s : State} (hwf : twf ({} : Seq) s.hub.slots = true) (p : ParkRec) (n g : Nat) (contd : Bool) (toks : List Nat) :
    let q := (beginRestore s p n g contd toks).slot n
    q.st = 7 ∧ q.parkId = p.parkId ∧ q.region = g ∧ q.contd = contd ∧ q.newTok = toks := by
  have hslot := slot_setSlot (n := n) (q := { p.seq with
    st := 7, order := s.hub.admitNo, region := g, hasRegion := true, chain := [], hashes := [], adp := none, contd := contd
    newTok := toks, parkId := p.parkId }) hwf
  have hq : (beginRestore s p n g contd toks).slot n = (s.setSlot n { p.seq with
    st := 7, order := s.hub.admitNo, region := g, hasRegion := true, chain := [], hashes := [], adp := none, contd := contd
    newTok := toks, parkId := p.parkId }).slot n := rfl
  dsimp only
  rw [hq, hslot]
  exact ⟨rfl, rfl, rfl, rfl, rfl⟩

section Restore
variable {s : State} {r : Req} {p : ParkRec} {n g : Nat} (hrec : recOf s r.tenant (reqTag r.entry) = some p)
  (hbusy : recBusy s p = false) (hexp : s.now < p.expiry) (hreg : freeRegion s p.seq.cls = some g)
  (hlev : 0 < (s.tenant r.tenant).level) (hadp : p.seq.adpId = 0) (hfill : fillsNext s p.seq.scope p.seq.hashes = false)
include hrec hbusy hexp hreg hlev hadp hfill

/-- A resume with its record, a region and no one ahead of it. -/
theorem walkRestore_resume (hcmd : reqCmd r.entry ≠ 2) : walkRestore s r n = (.gone, beginRestore s p n g false []) := by
  have hcont : (reqCmd r.entry == 2) = false := by simpa using hcmd
  rw [walkRestore]
  dsimp only
  rw [hrec, hcont]
  dsimp only
  rw [if_neg (by simp [hbusy]), if_neg (by omega), if_neg (by simp), if_neg (by simp), hreg]
  dsimp only
  rw [if_neg (by omega), if_neg (by simp [hadp]), if_neg (by simp [hfill])]
  rfl

/-- A continue with its tokens too, that the sequence's length allows. -/
theorem walkRestore_continue {d : List Byte} (hcmd : reqCmd r.entry = 2) (htok : contTokens s r = some d) (hpos : (progOf s).pPos ≠ 0)
    (hlen : p.seq.committed + p.seq.pending.length + reqCount r.entry < maxLenOf s p.seq) :
    walkRestore s r n = (.gone, beginRestore s p n g true (tokList d (reqCount r.entry))) := by
  have hcont : (reqCmd r.entry == 2) = true := by simp [hcmd]
  rw [walkRestore]
  dsimp only
  rw [hrec, hcont, htok]
  dsimp only
  rw [if_neg (by simp [hbusy]), if_neg (by omega), if_neg (by simp; omega), if_neg (by simp [hpos]), hreg]
  dsimp only
  rw [if_neg (by omega), if_neg (by simp [hadp]), if_neg (by simp [hfill])]
  rfl

end Restore

/-! ### The obligation -/

theorem ctlOne_release {s : State} {r : Req} (hfmt : reqFormatBad r.entry = false) (hack : r.acked = false) (hcmd : reqCmd r.entry = 7) :
    ctlOne s r = ([], ctlRelease s r) := by
  rw [ctlOne, if_neg (by simp [hack]; omega), if_neg (by simp [hfmt]), if_pos hcmd]

theorem twf_ackDone {s : State} (h : twf ({} : Seq) s.hub.slots = true) (t c : Nat) (g : BitVec 64) :
    twf ({} : Seq) (ackDone s t c g).hub.slots = true := by
  rw [(told_ackDone s t c g).slots]
  exact h

theorem boundaryActsOnRequests : BoundaryActsOnRequests := by
  intro s r hok _
  dsimp only
  have hsound := sound_of_tablesOk hok
  have hslots : twf ({} : Seq) s.hub.slots = true := hsound.slots trivial
  have hten : twf ({} : Tenant) s.tenants = true := hsound.tenants trivial
  have hadps : twf ({} : Adp) s.hub.adps = true := hsound.adps trivial
  refine ⟨fun hrun hst hfront hdone => ?boundary, controls_single, fun hfmt hack => ⟨fun p hcmd hslot hrec hexp =>
    ctlOne_parked hfmt hack hcmd hslot hrec hexp, fun n hslot hstop => ⟨fun hcmd hst hon hparked hnone hroom hmine => ?pause,
      fun hcmd h5 h7 h8 => ?cancel, fun hcmd hst => ctlOne_copying hfmt hack hslot hstop hcmd hst⟩,
    fun n hslot hstop hcmd => ctlOne_stopped hfmt hack hslot hstop hcmd,
    fun hslot hrec h2 h5 => ctlOne_unknown hfmt hack h2 h5 hslot hrec, fun k hcmd hid hnew => ?release⟩,
    fun hn => walkOne_full hn r, fun hoff => walkOne_closed hoff r, fun n hn hoff hheld hbad => ?walk⟩
  case boundary =>
    refine ⟨_, (stepBoundary_run hrun hst).trans (congrArg Host.Outcome.next (if_pos ?_)), boundaryRun_queue s⟩
    simp [hfront, hdone]
  case pause =>
    rw [ctlOne_pause hfmt hack hslot hstop hcmd hst hon]
    have hpark := beginPark_told (why := 1) (told_ackDone s r.tenant 3 (reqTag r.entry)) hslots hten (n := n) (by omega)
      (by rw [hmine]; exact hon) hparked hnone (by rw [hmine]; exact hroom)
    exact ⟨rfl, hpark⟩
  case cancel =>
    rw [ctlOne_cancel hfmt hack hslot hstop hcmd h5 h7 h8]
    exact ⟨rfl, finishSeq_freed (twf_ackDone hslots ..) n 6⟩
  case release =>
    rw [ctlOne_release hfmt hack hcmd]
    exact ⟨rfl, ctlRelease_retires hadps hid hnew⟩
  case walk =>
    rw [walkOne_open hn hoff hheld hbad]
    refine ⟨fun p hcmd hfmt hblock => ?_, fun p g hcmd hack hrec hbusy hexp hreg hlev hadp hfill => ?_⟩
    · rw [if_pos hcmd]
      refine ⟨fun why hrej => walkStart_rejected hfmt hblock hrej, fun d hrej hprompt =>
        ⟨fun hreg => walkStart_crowded hfmt hblock hrej hprompt hreg, fun g hreg hlev => ?_, fun g hreg hlev hadp hfill => ?_⟩⟩
      · rw [walkStart_room hfmt hblock hrej hprompt hreg, if_pos hlev]
      · rw [walkStart_room hfmt hblock hrej hprompt hreg, if_neg (by omega), if_neg (by simp [hadp]), if_neg (by simp [hfill])]
        exact ⟨rfl, admitReq_reads hslots r p _ n g⟩
    · rw [if_neg hcmd, if_pos hack]
      refine ⟨fun h4 => ?_, fun d h2 htok hpos hlen => ?_⟩
      · rw [walkRestore_resume hrec hbusy hexp hreg hlev hadp hfill (by omega)]
        obtain ⟨hst, hid, hregion, hcontd, -⟩ := beginRestore_slot hslots p n g false []
        exact ⟨rfl, hst, hid, hregion, hcontd⟩
      · rw [walkRestore_continue hrec hbusy hexp hreg hlev hadp hfill h2 htok hpos hlen]
        obtain ⟨hst, hid, -, hcontd, hnew⟩ := beginRestore_slot hslots p n g true (tokList d (reqCount r.entry))
        exact ⟨rfl, hst, hid, hcontd, hnew⟩

/-- Settles O43: the rows by what each puts in the queue, the boundary by the control step and the walk on one request. -/
theorem requestsAct : Obligations.RequestsAct := ⟨requestRows, boundaryActsOnRequests⟩

end Sys2Proof.Proofs
end

section
/-! PROOFS. The load from the map to the first cycle of the program. -/

namespace Sys2Proof.Proofs

open Sys2Proof Sys2Proof.Machine Sys2Proof.Safety Sys2Proof.Laws

/-! ### A plane without bit errors -/

section Clean
variable {s : State} (hclean : s.plane.sramErr = [])
include hclean

theorem sramClean_clean (a n : Nat) : sramClean s a n = s := by
  have hkeep : { s with plane := { s.plane with sramErr := s.plane.sramErr } } = s := rfl
  rw [sramClean, hclean, List.filter_nil, ← hclean, hkeep]

theorem sramBad_clean (a n : Nat) : sramBad s a n = none := by rw [sramBad, hclean]; rfl

theorem sramCorrect_clean (a n : Nat) : sramCorrect s a n = s := by
  rw [sramCorrect]
  exact if_pos (by rw [singleWords, hclean]; rfl)

theorem badStage_clean (m : List Byte) (p : Prog) : badStage s m p = [] := by
  rw [badStage, List.filter_eq_nil_iff]
  intro x _
  split
  · split
    · simp [sramBad_clean hclean]
    · simp
  · simp

end Clean

/-- From s to t only the scratchpads changed. -/
def SramOnly (s t : State) : Prop := ∃ m, t = { s with plane := { s.plane with sram := m } }

theorem SramOnly.refl (s : State) : SramOnly s s := ⟨_, rfl⟩

theorem SramOnly.trans {s t u : State} (h : SramOnly s t) (h' : SramOnly t u) : SramOnly s u := by
  obtain ⟨_, rfl⟩ := h
  obtain ⟨m, rfl⟩ := h'
  exact ⟨m, rfl⟩

theorem SramOnly.clean {s t : State} (h : SramOnly s t) (hclean : s.plane.sramErr = []) : t.plane.sramErr = [] := by
  obtain ⟨_, rfl⟩ := h
  exact hclean

theorem SramOnly.foldl {α : Type} {s : State} {f : State → α → State} (hclean : s.plane.sramErr = [])
    (hf : ∀ t x, t.plane.sramErr = [] → SramOnly t (f t x)) (l : List α) : SramOnly s (l.foldl f s) := by
  induction l generalizing s with
  | nil => exact .refl s
  | cons x r ih =>
    have hstep := hf s x hclean
    exact hstep.trans (ih (hstep.clean hclean))

theorem sramOnly_set {s : State} (hclean : s.plane.sramErr = []) (a b n : Nat) (d : List Byte) :
    SramOnly s ((sramClean s a n).sramSet b d) := by
  rw [sramClean_clean hclean]
  exact ⟨_, rfl⟩

theorem sramOnly_copyCode {s : State} (hclean : s.plane.sramErr = []) (m : List Byte) (p : Prog) (x : Nat × Nat × Nat × Nat) :
    SramOnly s (copyCode s m p x) := by
  rw [copyCode]
  split
  · exact .refl s
  · rw [sramCorrect_clean hclean]
    exact sramOnly_set hclean ..

theorem sramOnly_patchInit {s : State} (hclean : s.plane.sramErr = []) (m : List Byte) (x : Sect) (n lcl : Nat) :
    SramOnly s (patchInit s m x n lcl) := by
  rw [patchInit]
  split
  · exact .refl s
  · refine .foldl hclean (fun t z ht => ?_) _
    split
    · exact sramOnly_set ht ..
    · exact .refl t

theorem sramOnly_zeroStage {s : State} (hclean : s.plane.sramErr = []) (p : Prog) : SramOnly s (zeroStage s p) := by
  rw [zeroStage]
  refine .foldl hclean (fun t l ht => ?_) _
  split
  · dsimp only
    rw [sramClean_clean ht]
    exact ⟨_, rfl⟩
  · exact .refl t

/-- Clusters that are whole leave the blocks that wait as they are. -/
theorem settleHurt_whole {s : State} (h : s.ldr.hurt = []) : settleHurt s = s := by
  have hchk : (s.ldr.checked.filter fun c => !([] : List (Nat × Nat)).any fun x => x.1 == c) = s.ldr.checked := by simp
  have hkeep : { s with ldr := { s.ldr with hurt := s.ldr.hurt, missing := s.ldr.missing, checked := s.ldr.checked } } = s := rfl
  rw [settleHurt, h]
  show { s with ldr := { s.ldr with hurt := [], missing := s.ldr.missing ++ [], checked := (s.ldr.checked.filter fun c =>
    !([] : List (Nat × Nat)).any fun x => x.1 == c) } } = s
  rw [hchk, List.append_nil, ← h, hkeep]

/-! ### The map (R186, R227, R228) -/

theorem loadMap_waits {s : State} (h : planeQuiet s = false) (plan : MapPlan) : exec (.loadMap plan) s = .next s :=
  if_pos (.inr (by simp [h]))

section Map
variable {s : State} (hst : s.ldr.state = 4) (hquiet : planeQuiet s = true) (plan : MapPlan)
include hst hquiet

theorem loadMap_badTable {i : Nat} (h : tablesFault s.ldr.image s.ldr.cur = some i) :
    exec (.loadMap plan) s = .next (loadFault s 0xB i 0) := by
  refine (if_neg (by simp [hst, hquiet])).trans ?_
  rw [h]

theorem loadMap_badPath {leg : Nat} (h : tablesFault s.ldr.image s.ldr.cur = none)
    (hleg : unroutable s s.ldr.image s.ldr.cur plan = some leg) : exec (.loadMap plan) s = .next (loadFault s 0xB leg 0) := by
  refine (if_neg (by simp [hst, hquiet])).trans ?_
  rw [h]
  dsimp only
  rw [hleg]

theorem loadMap_writes (h : tablesFault s.ldr.image s.ldr.cur = none) (hleg : unroutable s s.ldr.image s.ldr.cur plan = none) :
    exec (.loadMap plan) s = .next (writeTables s s.ldr.image s.ldr.cur plan) := by
  refine (if_neg (by simp [hst, hquiet])).trans ?_
  rw [h]
  dsimp only
  rw [hleg]

end Map

/-- Repaired lines are books of the bring-up unit alone. -/
theorem repairLines_bg (s : State) : ∃ b, repairLines s = { s with bg := b } := by
  rw [repairLines]
  generalize s.bg.flagged = l
  induction l generalizing s with
  | nil => exact ⟨_, rfl⟩
  | cons x r ih =>
    have hone : ∃ b, repairLine s x = { s with bg := b } := by
      rw [repairLine]
      split
      · exact ⟨_, rfl⟩
      · exact ⟨_, rfl⟩
    obtain ⟨b, hb⟩ := hone
    obtain ⟨b', hb'⟩ := ih { s with bg := b }
    rw [List.foldl_cons, hb, hb']
    exact ⟨b', rfl⟩

theorem repairLines_ldr (s : State) : (repairLines s).ldr = s.ldr := by
  obtain ⟨b, hb⟩ := repairLines_bg s
  rw [hb]

theorem repairLines_jet (s : State) : (repairLines s).jet = s.jet := by
  obtain ⟨b, hb⟩ := repairLines_bg s
  rw [hb]

theorem repairLines_plane (s : State) : (repairLines s).plane = s.plane := by
  obtain ⟨b, hb⟩ := repairLines_bg s
  rw [hb]

theorem writeTables_reads (s : State) (m : List Byte) (p : Prog) (plan : MapPlan) :
    let t := writeTables s m p plan
    t.ldr.state = 5 ∧ t.ldr.prog = none ∧ t.jet.router = routerTables s m ∧ t.jet.gwUni = (planGates m plan).gwUni ∧
      t.jet.gwTree = (planGates m plan).gwTree ∧ t.jet.badMask = s.bg.badMask ∧ t.jet.binding = s.jet.binding ∧ t.plane = s.plane := by
  rw [writeTables]
  dsimp only
  rw [repairLines_ldr, repairLines_jet, repairLines_plane]
  exact ⟨rfl, rfl, rfl, rfl, rfl, rfl, rfl, rfl⟩

/-! ### Blocks (R229-R232) -/

theorem mget_mclear_out {m : List Host.Cell} {lo hi x : Nat} (h : memWf m = true) (hx : x < lo ∨ hi ≤ x) :
    mget (mclear m lo hi) x = mget m x := by
  rw [mget, mclear, tget_filter_from (p := fun a => decide (a < lo) || decide (hi ≤ a)) (lo := 0) h]
  exact if_pos (by simpa using hx)

/-- What a block stores, with zeros up to its end. -/
theorem storeBlk_reads {s : State} {m : List Byte} {p : Prog} {lcl i a : Nat} {b : Blk} (hclean : s.plane.sramErr = [])
    (hmem : memWf s.plane.sram = true) (hblk : (blocksOf m)[i]? = some b) (hplace : blkPlace s m p b lcl = some a) :
    let n := min 4096 (unitRoom (blkUnitOff m p b).1 (blkUnitOff m p b).2)
    let t := storeBlk s m p (lcl, i)
    (∀ x, a ≤ x → x < a + n → mget t.plane.sram x = byteAt b.data (x - a)) ∧
      (∀ x, x < a ∨ a + n ≤ x → mget t.plane.sram x = mget s.plane.sram x) := by
  have heq : storeBlk s m p (lcl, i) = { s with plane := { s.plane with
      sram := mwrite (mclear s.plane.sram a (a + min 4096 (unitRoom (blkUnitOff m p b).1 (blkUnitOff m p b).2))) a
        (b.data.take (min 4096 (unitRoom (blkUnitOff m p b).1 (blkUnitOff m p b).2))) } } := by
    rw [storeBlk]
    rw [hblk]
    dsimp only
    rw [hplace]
    dsimp only
    rw [sramClean_clean hclean]
  dsimp only
  rw [heq]
  generalize min 4096 (unitRoom (blkUnitOff m p b).1 (blkUnitOff m p b).2) = n
  have hwf : memWf (mclear s.plane.sram a (a + n)) = true := memWf_mclear hmem
  have hlen : (b.data.take n).length ≤ n := by simp
  refine ⟨fun x hlo hhi => ?_, fun x hx => ?_⟩
  · obtain ⟨k, rfl⟩ := Nat.exists_eq_add_of_le hlo
    rw [Nat.add_sub_cancel_left, byteAt, List.getD_eq_getElem?_getD]
    by_cases hk : k < (b.data.take n).length
    · have hkd : k < b.data.length := by simp at hk; omega
      exact (mget_mwrite_in hwf hk).trans (by rw [List.getElem_take, List.getElem?_eq_getElem hkd]; rfl)
    · have hkd : b.data.length ≤ k := by simp at hk; omega
      refine (mget_mwrite_out hwf (.inr (by omega))).trans ((mget_mclear_in hmem hlo hhi).trans ?_)
      rw [List.getElem?_eq_none hkd]
      rfl
  · refine (mget_mwrite_out hwf (by omega)).trans ?_
    exact mget_mclear_out hmem hx

section Single
variable {s : State} {m : List Byte} {p : Prog} {lcl i : Nat}

theorem sendBlks_single (halive : lclAlive s lcl = true) : sendBlks s m p [(lcl, i)] [] =
    { storeBlk s m p (lcl, i) with ldr := { (storeBlk s m p (lcl, i)).ldr with missing := [] } } := by
  rw [sendBlks]
  simp [halive]

theorem storeBlk_keeps (s : State) (m : List Byte) (p : Prog) (x : Nat × Nat) :
    (storeBlk s m p x).ldr = s.ldr ∧ (storeBlk s m p x).bg = s.bg := by
  rw [storeBlk]
  split
  · exact ⟨rfl, rfl⟩
  · split
    · exact ⟨rfl, rfl⟩
    · exact ⟨rfl, rfl⟩

theorem sendBlks_ldr (s : State) (m : List Byte) (p : Prog) (l lost : List (Nat × Nat)) :
    (sendBlks s m p l lost).ldr = { s.ldr with missing := (sendBlks s m p l lost).ldr.missing } := by
  have hfold : ∀ (l : List (Nat × Nat)) (t : State), (l.foldl (fun s x => storeBlk s m p x) t).ldr = t.ldr := by
    intro l
    induction l with
    | nil => exact fun _ => rfl
    | cons x r ih => exact fun t => (ih _).trans (storeBlk_keeps t m p x).1
  rw [sendBlks]
  dsimp only
  rw [hfold]

end Single

theorem toCopy_keeps (s : State) : (toCopy s).plane = s.plane ∧ (toCopy s).ldr.missing = s.ldr.missing := by
  rw [toCopy]
  split
  · exact ⟨rfl, rfl⟩
  · exact ⟨rfl, rfl⟩

/-- With one cluster to hear from, its digest is the last that the copy waits for. -/
theorem toCopy_single {s : State} {lcl i : Nat} (hmiss : s.ldr.missing = []) (hbad : s.ldr.bad = [])
    (hpairs : blkPairs s.ldr.image s.ldr.cur = [(lcl, i)]) (hchk : s.ldr.checked = [lcl]) :
    toCopy s = { s with ldr := { s.ldr with state := 7 } } := by
  have hrecv : receivers s.ldr.image s.ldr.cur = [lcl] := by
    rw [receivers, hpairs, List.map_singleton, List.eraseDups_cons]
    rfl
  exact if_pos (by simp [allMatch, hmiss, hbad, hrecv, hchk])

section Pass2
variable {s : State} (hst : s.ldr.state = 5) (hmiss : s.ldr.missing = []) (hblks : s.ldr.blocks = 0)
include hst hmiss hblks

theorem loadPass2_failed (f : Nat) (l : List (Nat × Nat)) :
    exec (.loadPass2 (.failed f) l) s = .next (loadFault s 0x10 2 (f / 4096)) := if_neg (by simp [hst, hmiss, hblks])

theorem loadPass2_changed {m : List Byte} (hm : bodyDigest m ≠ s.ldr.cur.digest) (l : List (Nat × Nat)) :
    exec (.loadPass2 (.bytes m) l) s = .next (loadFault s 0xD 0 0) :=
  (if_neg (by simp [hst, hmiss, hblks])).trans (if_pos (.inr hm))

theorem loadPass2_same (hm : bodyDigest s.ldr.image = s.ldr.cur.digest) (l : List (Nat × Nat)) :
    ∃ n, exec (.loadPass2 (.bytes s.ldr.image) l) s = .next (toCopy
      { settleHurt (sendBlks s s.ldr.image s.ldr.cur (blkPairs s.ldr.image s.ldr.cur) l) with
        ldr := { (settleHurt (sendBlks s s.ldr.image s.ldr.cur (blkPairs s.ldr.image s.ldr.cur) l)).ldr with blocks := n } }) :=
  ⟨_, (if_neg (by simp [hst, hmiss, hblks])).trans (if_neg (by simp [hm]))⟩

/-- The one block of an image arrives. -/
theorem loadPass2_single {lcl i a : Nat} {b : Blk} (hclean : s.plane.sramErr = []) (hmem : memWf s.plane.sram = true)
    (hhurt : s.ldr.hurt = []) (hm : bodyDigest s.ldr.image = s.ldr.cur.digest) (hpairs : blkPairs s.ldr.image s.ldr.cur = [(lcl, i)])
    (hblk : (blocksOf s.ldr.image)[i]? = some b) (hplace : blkPlace s s.ldr.image s.ldr.cur b lcl = some a)
    (halive : lclAlive s lcl = true) :
    let n := min 4096 (unitRoom (blkUnitOff s.ldr.image s.ldr.cur b).1 (blkUnitOff s.ldr.image s.ldr.cur b).2)
    ∃ t, exec (.loadPass2 (.bytes s.ldr.image) []) s = .next t ∧ t.ldr.missing = [] ∧
      (∀ x, a ≤ x → x < a + n → mget t.plane.sram x = byteAt b.data (x - a)) ∧
      (∀ x, x < a ∨ a + n ≤ x → mget t.plane.sram x = mget s.plane.sram x) := by
  obtain ⟨k, hk⟩ := loadPass2_same hst hmiss hblks hm []
  obtain ⟨hin, hout⟩ := storeBlk_reads hclean hmem hblk hplace
  have hldr : (sendBlks s s.ldr.image s.ldr.cur [(lcl, i)] []).ldr.hurt = [] := by rw [sendBlks_ldr]; exact hhurt
  rw [hpairs, settleHurt_whole hldr, sendBlks_single halive] at hk
  obtain ⟨hplane, hgone⟩ := toCopy_keeps { storeBlk s s.ldr.image s.ldr.cur (lcl, i) with
    ldr := { (storeBlk s s.ldr.image s.ldr.cur (lcl, i)).ldr with missing := [], blocks := k } }
  refine ⟨_, hk, hgone, ?_⟩
  rw [hplane]
  exact ⟨hin, hout⟩

end Pass2

/-! ### Digests and repair rounds (R232, R236) -/

section Digest
variable {s : State} {lcl i : Nat} {b : Blk} (hst : s.ldr.state = 5) (hblks : s.ldr.blocks ≠ 0) (hmiss : s.ldr.missing = [])
  (hchk : s.ldr.checked = []) (hbad : s.ldr.bad = []) (hclean : s.plane.sramErr = []) (hhurt : s.ldr.hurt = [])
  (hpairs : blkPairs s.ldr.image s.ldr.cur = [(lcl, i)]) (hblk : (blocksOf s.ldr.image)[i]? = some b)
include hst hblks hmiss hchk hbad hclean hhurt hpairs hblk

/-- A cluster with one block compares that block's digest. -/
theorem clusterDigestCheck_single : exec (.clusterDigestCheck lcl) s =
    if sha512 (blkDigest s s.ldr.image s.ldr.cur lcl b) = digestEntry s.ldr.image lcl then
      .next (toCopy { s with ldr := { s.ldr with checked := s.ldr.checked ++ [lcl] } })
    else .next { s with ldr := { s.ldr with bad := s.ldr.bad ++ [lcl] } } := by
  have hexec : exec (.clusterDigestCheck lcl) s = execClusterDigestCheck lcl s := rfl
  have hmine : (blkPairs s.ldr.image s.ldr.cur).filter (fun x => x.1 == lcl) = [(lcl, i)] := by rw [hpairs]; simp
  rw [hexec, execClusterDigestCheck, settleHurt_whole hhurt]
  dsimp only
  rw [hmine, if_neg (by simp [hst, hblks, hmiss, hchk, hbad])]
  simp only [List.filterMap_cons, List.filterMap_nil, hblk, Option.map_some, List.filter_cons, List.filter_nil, List.foldl_cons,
    List.foldl_nil, List.flatMap_cons, List.flatMap_nil, List.append_nil]
  cases blkPlace s s.ldr.image s.ldr.cur b lcl with
  | none => rfl
  | some a =>
    simp only [sramBad_clean hclean, sramCorrect_clean hclean]
    rfl

end Digest

section Resend
variable {s : State} {lcl i : Nat} (hst : s.ldr.state = 5 ∨ s.ldr.state = 6) (hmiss : s.ldr.missing = [(lcl, i)])
  (hbad : s.ldr.bad = []) (hhurt : s.ldr.hurt = [])
include hst hmiss hbad hhurt

/-- Only the block that is missing is sent again. -/
theorem resendRound_single : exec (.resendRound (.bytes s.ldr.image) []) s =
    if 8 ≤ s.ldr.rounds then .next (repairFails s [lcl])
    else .next { sendBlks s s.ldr.image s.ldr.cur [(lcl, i)] [] with ldr := {
      (sendBlks s s.ldr.image s.ldr.cur [(lcl, i)] []).ldr with
        state := 6, rounds := s.ldr.rounds + 1, bad := [], blocks := satAdd (2 ^ 32 - 1) s.ldr.blocks 1 } } := by
  have hexec : exec (.resendRound (.bytes s.ldr.image) []) s = execResendRound (.bytes s.ldr.image) [] s := rfl
  have hagain : s.ldr.missing ++ (blkPairs s.ldr.image s.ldr.cur).filter (fun x =>
      s.ldr.bad.contains x.1 && !s.ldr.missing.contains x) = [(lcl, i)] := by simp [hmiss, hbad]
  rw [hexec, execResendRound, settleHurt_whole hhurt]
  dsimp only
  rw [hagain, if_neg (by simp; omega)]
  rfl

end Resend

theorem repairFails_single (s : State) (lcl : Nat) : (repairFails s [lcl]).ldr.state = 9 ∧ (repairFails s [lcl]).ldr.fCode = 0x12 := by
  have hfields : ([lcl].map (· / 12)).eraseDups = [lcl / 12] := by rw [List.map_singleton, List.eraseDups_cons]; rfl
  rw [repairFails, hfields]
  dsimp only
  rw [(loadFault_reads ..).2.1]
  exact ⟨rfl, rfl⟩

/-! ### The copy and the start (R108, R236) -/

/-- The state whose memories hold what the roles of the program begin with. -/
def loadCopied (s : State) : State :=
  zeroStage ((initSects s.ldr.image).zipIdx.foldl
    (fun t x => (lclsOf s.ldr.cur).foldl (fun t l => patchInit t s.ldr.image x.1 x.2 l) t)
    ((progCores s s.ldr.cur).foldl (fun t x => copyCode t s.ldr.image s.ldr.cur x) s)) s.ldr.cur

theorem loadCopied_sram {s : State} (hclean : s.plane.sramErr = []) : SramOnly s (loadCopied s) := by
  have hcode : SramOnly s ((progCores s s.ldr.cur).foldl (fun t x => copyCode t s.ldr.image s.ldr.cur x) s) :=
    .foldl hclean (fun t x ht => sramOnly_copyCode ht ..) _
  have hinit := SramOnly.foldl (f := fun t (x : Sect × Nat) => (lclsOf s.ldr.cur).foldl
    (fun t l => patchInit t s.ldr.image x.1 x.2 l) t) (hcode.clean hclean)
    (fun t x ht => .foldl ht (fun t l ht => sramOnly_patchInit ht ..) _) (initSects s.ldr.image).zipIdx
  have hfill := hcode.trans hinit
  exact hfill.trans (sramOnly_zeroStage (hfill.clean hclean) _)

section Folded
variable {α β : Type} [DecidableEq α] {d : α} {key : β → Nat} {v : β → α} {c : Nat}

theorem tget_foldl_tset_none {l : List β} {t : Table α} (h : twf d t = true) (hl : l.filter (fun y => key y == c) = []) :
    tget d (l.foldl (fun t y => tset d t (key y) (v y)) t) c = tget d t c := by
  induction l generalizing t with
  | nil => rfl
  | cons y r ih =>
    rw [List.filter_eq_nil_iff] at hl
    have hy : c ≠ key y := fun hc => hl y List.mem_cons_self (by simp [hc])
    exact (ih (twf_tset h) (List.filter_eq_nil_iff.2 fun z hz => hl z (List.mem_cons_of_mem y hz))).trans (tget_tset_ne h hy)

/-- A table written under the keys of a list holds, under a key that one element has, that element's value. -/
theorem tget_foldl_tset_single {x : β} {l : List β} {t : Table α} (h : twf d t = true) (hl : l.filter (fun y => key y == c) = [x]) :
    tget d (l.foldl (fun t y => tset d t (key y) (v y)) t) c = v x := by
  induction l generalizing t with
  | nil => exact absurd hl (by simp)
  | cons y r ih =>
    by_cases hy : key y = c
    · rw [List.filter_cons_of_pos (by simp [hy])] at hl
      obtain ⟨rfl, hr⟩ := List.cons.inj hl
      refine (tget_foldl_tset_none (twf_tset h) hr).trans ?_
      rw [← hy]
      exact tget_tset h
    · rw [List.filter_cons_of_neg (by simp [hy])] at hl
      exact ih (twf_tset h) hl

end Folded

/-- The cores of the program, each at its entry. -/
theorem startPlane_core {s : State} {p : Prog} {c l k r : Nat}
    (h : (progCores s p).filter (fun x => x.1 == c) = [(c, l, k, r)]) : (startPlane s p).core c = startCoreState s p l k r :=
  tget_foldl_tset_single (d := ({} : Core)) (key := fun x : Nat × Nat × Nat × Nat => x.1)
    (v := fun x => startCoreState s p x.2.1 x.2.2.1 x.2.2.2) (t := []) rfl h

/-- What the last copy hands to the hub, whatever the hub's books and the binding are. -/
theorem loadCopy_started {s : State} (hst : s.ldr.state = 7) (hmiss : s.ldr.missing = []) (hclean : s.plane.sramErr = [])
    (hhurt : s.ldr.hurt = []) : ∃ u a b, exec .loadCopy s = .next ((ownerEvent (hubStart (settleFences u)) 1 0 a b).emit (.msix 0 3)) ∧
      u.plane = (clearCounts (startPlane (loadCopied s) s.ldr.cur)).plane ∧ u.ldr.state = 8 ∧ u.ldr.prog = some s.ldr.cur ∧
      u.ldr.start = false := by
  have hexec : exec .loadCopy s = execLoadCopy s := rfl
  rw [hexec, execLoadCopy, if_pos hst, settleHurt_whole hhurt]
  refine ⟨_, _, _, (if_neg (by simp [hst])).trans (if_neg (by simp [hmiss, badStage_clean hclean])), rfl, rfl, rfl, rfl⟩

theorem hubStart_rest (s : State) : restOf (hubStart s) = restOf s := by
  have hstart : Sound False False False (· = restOf s) s :=
    ⟨nofun, nofun, nofun, nofun, nofun, nofun, nofun, nofun, nofun, nofun, nofun, nofun, nofun, rfl⟩
  exact (sound_hubStart hstart).rest

theorem copied_core {s : State} {c l k r : Nat} (hclean : s.plane.sramErr = [])
    (h : (progCores s s.ldr.cur).filter (fun x => x.1 == c) = [(c, l, k, r)]) :
    (startPlane (loadCopied s) s.ldr.cur).core c = startCoreState s s.ldr.cur l k r := by
  have hcopied := loadCopied_sram hclean
  generalize loadCopied s = u at hcopied
  obtain ⟨m, rfl⟩ := hcopied
  exact startPlane_core h

theorem loadCopy_reads {s : State} (hst : s.ldr.state = 7) (hmiss : s.ldr.missing = []) (hclean : s.plane.sramErr = [])
    (hhurt : s.ldr.hurt = []) : ∃ t, exec .loadCopy s = .next t ∧ t.ldr.state = 8 ∧ t.ldr.prog = some s.ldr.cur ∧
      t.ldr.start = false ∧ t.plane.cycle = 0 ∧ t.plane.clockOn = true ∧ t.plane.progRun = true ∧ t.plane.faults = [] ∧
      t.out.getLast? = some (.msix 0 3) ∧
      ∀ c l k r, (progCores s s.ldr.cur).filter (fun x => x.1 == c) = [(c, l, k, r)] → t.core c = startCoreState s s.ldr.cur l k r := by
  obtain ⟨u, a, b, hexec, hplane, hstate, hprog, hstart⟩ := loadCopy_started hst hmiss hclean hhurt
  obtain ⟨hvplane, -, hvldr, -⟩ := (onlyBinding_dropExcess 48 u).keeps
  have hrest : restOf (hubStart (settleFences u)) = restOf (settleFences u) := hubStart_rest _
  generalize hubStart (settleFences u) = w at hexec hrest
  have hldr : w.ldr = u.ldr := (congrArg (fun x : Rest => x.ldr) hrest).trans hvldr
  have hfaults : w.plane.faults = u.plane.faults :=
    (congrArg (fun x : Rest => x.faults) hrest).trans (congrArg (fun x : Plane => x.faults) hvplane)
  have hkept : (restOf w).plane = (restOf u).plane := (congrArg (fun x : Rest => x.plane) hrest).trans
    (congrArg (fun x : Plane => { x with sram := [], sramErr := [], faults := [] }) hvplane)
  obtain ⟨htplane, -, htldr, -⟩ := ((onlyBinding_ownerEvent w 1 0 a b).trans (onlyBinding_emit _ (.msix 0 3))).keeps
  refine ⟨_, hexec, ?_⟩
  have hcore (c : Nat) : ((ownerEvent w 1 0 a b).emit (.msix 0 3)).core c = (startPlane (loadCopied s) s.ldr.cur).core c :=
    (congrArg (fun x : Plane => tget ({} : Core) x.cores c) (htplane : _ = w.plane)).trans
      ((congrArg (fun x : Plane => tget ({} : Core) x.cores c) hkept).trans
        (congrArg (fun x : Plane => tget ({} : Core) x.cores c) hplane :))
  rw [htplane, htldr, hldr, hfaults]
  exact ⟨hstate, hprog, hstart, (congrArg Plane.cycle hkept).trans (congrArg Plane.cycle hplane),
    (congrArg Plane.clockOn hkept).trans (congrArg Plane.clockOn hplane),
    (congrArg Plane.progRun hkept).trans (congrArg Plane.progRun hplane), congrArg Plane.faults hplane, List.getLast?_concat,
    fun c l k r h => (hcore c).trans (copied_core hclean h)⟩

/-! ### The obligation -/

/-- Settles O37: each state of the load by the command that leaves it, on a plane with no bit error and no hurt cluster. -/
theorem loadsStoreAndStart : Obligations.LoadsStoreAndStart := by
  intro s hmem hclean hhurt
  dsimp only
  have hsram : memWf s.plane.sram = true := by simp only [memOk, Bool.and_eq_true] at hmem; exact hmem.1.1
  refine ⟨fun plan hst => ⟨fun hq => loadMap_waits hq plan, fun hq i h => ?_, fun hq h leg hleg => ?_, fun hq h hleg => ?_⟩,
    fun hst hmiss hblks => ⟨fun f l => ?_, fun m' l hm => ?_, fun lcl i b a hm hpairs hblk hplace halive => ?_⟩,
    fun lcl i b hst hblks hmiss hchk hbad hpairs hblk => ?digest, fun lcl i hst hmiss hbad => ⟨fun hfew => ?_, fun hmany => ?_⟩,
    fun hst hmiss => loadCopy_reads hst hmiss hclean hhurt⟩
  · exact ⟨_, loadMap_badTable hst hq plan h, loadEnds_loadFault ..⟩
  · exact ⟨_, loadMap_badPath hst hq plan h hleg, loadEnds_loadFault .., loadFault_fA ..⟩
  · exact ⟨_, loadMap_writes hst hq plan h hleg, writeTables_reads ..⟩
  · exact ⟨_, loadPass2_failed hst hmiss hblks f l, loadEnds_loadFault .., loadFault_fA .., loadFault_fB ..⟩
  · exact ⟨_, loadPass2_changed hst hmiss hblks hm l, loadEnds_loadFault ..⟩
  · exact loadPass2_single hst hmiss hblks hclean hsram hhurt hm hpairs hblk hplace halive
  case digest =>
    rw [clusterDigestCheck_single hst hblks hmiss hchk hbad hclean hhurt hpairs hblk]
    refine ⟨fun hd => ⟨_, (if_pos hd).trans (congrArg Host.Outcome.next
      (toCopy_single hmiss hbad hpairs (congrArg (· ++ [lcl]) hchk))), congrArg (· ++ [lcl]) hchk, rfl, rfl⟩, fun hd => (if_neg hd).trans (by rw [hbad]; rfl)⟩
  · rw [resendRound_single hst hmiss hbad hhurt, if_neg (by omega)]
    refine ⟨_, rfl, rfl, rfl, fun halive => ?_⟩
    rw [sendBlks_single halive]
  · rw [resendRound_single hst hmiss hbad hhurt, if_pos hmany]
    exact ⟨_, rfl, repairFails_single s lcl⟩

end Sys2Proof.Proofs
end
